-- ==== Sys2Proof/Word.lean ====
section
/-! DEFINITION. The word types of the Alajo 3 and their plainest arithmetic (spec/00 R9, spec/07 R114, R125). -/
namespace Sys2Proof

/-- One 32-bit instruction word, and one lane of a vector register (R114, R125). -/
abbrev Word := BitVec 32
/-- One 64-bit scalar, movement register or special register (R125, R127). -/
abbrev DWord := BitVec 64
/-- One byte of memory (R9). -/
abbrev Byte := BitVec 8
/-- One bit per lane position: an active mask or a predicate (R12, R125). -/
abbrev Mask := BitVec 1024
/-- A 48-bit byte address in the code heap (R114). -/
abbrev Pc := BitVec 48

/-- Both halves of a 64-bit value held in two 32-bit registers, low word first (R94). -/
abbrev Word.pair (lo hi : Word) : DWord := hi ++ lo
/-- Bits [31:0] of a 64-bit value. -/
abbrev DWord.lo (d : DWord) : Word := d.setWidth 32
/-- Bits [63:32] of a 64-bit value. -/
abbrev DWord.hi (d : DWord) : Word := d.extractLsb' 32 32

end Sys2Proof
end

