-- ==== Sys2Proof/Syntax.lean ====
section
/-! DEFINITION. The instruction set: one constructor for every row of spec/opcode_table.json. The 215 word rows carry
the fields of their encoding (spec/07 R115); the 47 event and command rows (spec/95) carry what names the event. -/
namespace Sys2Proof

/-- A 4-bit guard: bit 3 negates, bits [2:0] name the predicate (R117). -/
abbrev Guard := BitVec 4
/-- A window vector register v0 to v31 (R125). -/
abbrev VReg := BitVec 5
/-- A scalar s0 to s31 (R125). -/
abbrev SReg := BitVec 5
/-- A movement-processor register g0 to g31 (R125). -/
abbrev GReg := BitVec 5
/-- A predicate p0 to p7 (R125). -/
abbrev PReg := BitVec 3
/-- A tile register m0 to m15 (R125). -/
abbrev Tile := BitVec 4
/-- An accumulator acc0 to acc7 (R125). -/
abbrev Acc := BitVec 3
/-- A handle h0 to h63 (R125). -/
abbrev Handle := BitVec 6
/-- A pond w0 to w15 (R125). -/
abbrev Pond := BitVec 4

/-- A rounding direction, coded as MODE[1:0] (R100). -/
inductive Dir where
  | near | zero | down | up
  deriving DecidableEq, Repr

/-- The 2-bit rounding field of an instruction that rounds (R102). -/
inductive RndField where
  | mode | near | zero | hint
  deriving DecidableEq, Repr

/-- The conditions of ICMP and SCMP, in the order of R131. -/
inductive Cond where
  | eq | ne | ltI | leI | gtI | geI | ltN | leN | gtN | geN
  deriving DecidableEq, Repr

/-- The conditions of FCMP, in the order of R132. -/
inductive FCond where
  | eq | ne | lt | le | gt | ge | ord | unord
  deriving DecidableEq, Repr

/-- The memory size field (R136); its code 0b111 is reserved. -/
inductive MemSize where
  | n8 | i8 | n16 | i16 | b32 | b64 | b128
  deriving DecidableEq, Repr

/-- The op field of the atomic format (R137). -/
inductive AtomOp where
  | add | min | max | and | or | xor | xchg | cas
  deriving DecidableEq, Repr

/-- The type field of the atomic format (R137); its code 0b111 is reserved, and the barrier group in major 0x35. -/
inductive AtomType where
  | i32 | n32 | i64 | n64 | f32 | bf16x2 | f16x2
  deriving DecidableEq, Repr

/-- The integer types that PATM takes (R137, R208). -/
inductive PatmType where
  | i32 | n32 | i64 | n64
  deriving DecidableEq, Repr

/-- The 4-bit type codes of R129; code 15 is reserved. -/
inductive TypeCode where
  | i8 | i16 | i32 | i64 | n8 | n16 | n32 | n64 | f32 | f16 | bf16 | e4m3 | e5m2 | bx8 | bx4
  deriving DecidableEq, Repr

/-- The activation types of MMA and MMAS (R138); codes 6 to 15 are reserved. -/
inductive ActType where
  | bf16 | f16 | e4m3 | e5m2 | bx8 | bx4
  deriving DecidableEq, Repr

/-- The scope of a barrier (R14, R137); codes 5 to 7 are reserved. -/
inductive Scope where
  | core | quad | stack | module | pod
  deriving DecidableEq, Repr

/-- The mode of SHFL (R170). -/
inductive ShflMode where
  | idx | up | down | xor
  deriving DecidableEq, Repr

/-- The special registers of R127. -/
inductive Special where
  | grant | laneid | knotid | nknots | brood | stack | core | module | mode | fpstat | cycles | hready | posts
  | ptbase | asid | keysel | vecbase | landing | parkmax | watchdog | cap0 | cap1 | cap2 | cap3 | service
  deriving DecidableEq, Repr

/-- What the host does over Larzon in one HOST_ACCESS (R71, R327). Addresses are 52-bit physical addresses of the module's
own memory; a line is named by its first address. -/
inductive HostOp where
  | read (pa len : Nat)
  | write (pa : Nat) (bytes : List Byte)
  | takeShared (pa : Nat)
  | takeModified (pa : Nat) (bytes : List Byte)
  | writeBack (pa : Nat)
  deriving DecidableEq, Repr

/-- What one ECC_ERROR detects (R332). -/
inductive EccError where
  | dramCorrected (pa : Nat)
  | dramUncorrected (pa : Nat)
  | padUncorrected (crew offset : Nat)
  | accUncorrected (crew acc row col : Nat)
  | registerUncorrected (path reg : Nat)
  | coreCorrected (home core : Nat)
  | bufferParity (home core : Nat)
  deriving DecidableEq, Repr

/-- The instructions, events and commands of the Alajo 3: one constructor for each of the 262 rows of the opcode table. -/
inductive Instr where
  | iadd (g : Guard) (d a b : VReg) (e f : Bool)
  | isub (g : Guard) (d a b : VReg) (e f : Bool)
  | imul (g : Guard) (d a b : VReg) (e f : Bool)
  | imulhI32 (g : Guard) (d a b : VReg) (e f : Bool)
  | imulhN32 (g : Guard) (d a b : VReg) (e f : Bool)
  | imad (g : Guard) (d a b : VReg) (e f : Bool)
  | iminI32 (g : Guard) (d a b : VReg) (e f : Bool)
  | iminN32 (g : Guard) (d a b : VReg) (e f : Bool)
  | imaxI32 (g : Guard) (d a b : VReg) (e f : Bool)
  | imaxN32 (g : Guard) (d a b : VReg) (e f : Bool)
  | iabs (g : Guard) (d a : VReg) (e : Bool)
  | andV (g : Guard) (d a b : VReg) (e f : Bool)
  | orV (g : Guard) (d a b : VReg) (e f : Bool)
  | xorV (g : Guard) (d a b : VReg) (e f : Bool)
  | andn (g : Guard) (d a b : VReg) (e f : Bool)
  | shl (g : Guard) (d a b : VReg) (e f : Bool)
  | shr (g : Guard) (d a b : VReg) (e f : Bool)
  | sar (g : Guard) (d a b : VReg) (e f : Bool)
  | popc (g : Guard) (d a : VReg) (e : Bool)
  | clz (g : Guard) (d a : VReg) (e : Bool)
  | brev (g : Guard) (d a : VReg) (e : Bool)
  | mov (g : Guard) (d a : VReg) (e : Bool)
  | lea (g : Guard) (d a b : VReg) (e f : Bool)
  | sel (g : Guard) (d a b : VReg) (e f : Bool) (p : PReg)
  | iaddImm (g : Guard) (d a : VReg) (e : Bool) (i : BitVec 11)
  | imulImm (g : Guard) (d a : VReg) (e : Bool) (i : BitVec 11)
  | shlImm (g : Guard) (d a : VReg) (e : Bool) (n : BitVec 5)
  | shrImm (g : Guard) (d a : VReg) (e : Bool) (n : BitVec 5)
  | sarImm (g : Guard) (d a : VReg) (e : Bool) (n : BitVec 5)
  | bfe (g : Guard) (d a : VReg) (e : Bool) (p l : BitVec 5)
  | bfi (g : Guard) (d a : VReg) (e : Bool) (p l : BitVec 5)
  | movi (g : Guard) (d : VReg) (i : BitVec 11)
  | iadd64 (g : Guard) (d a b : VReg) (e f : Bool)
  | isub64 (g : Guard) (d a b : VReg) (e f : Bool)
  | imulwI32 (g : Guard) (d a b : VReg) (e f : Bool)
  | imulwN32 (g : Guard) (d a b : VReg) (e f : Bool)
  | leaShift (g : Guard) (d a b : VReg) (e f : Bool) (s : BitVec 2)
  | icmp (g : Guard) (d : PReg) (a b : VReg) (e f : Bool) (c : Cond)
  | fadd (r : RndField) (g : Guard) (d a b : VReg) (e f : Bool)
  | fsub (r : RndField) (g : Guard) (d a b : VReg) (e f : Bool)
  | fmul (r : RndField) (g : Guard) (d a b : VReg) (e f : Bool)
  | ffma (r : RndField) (g : Guard) (d a b : VReg) (e f : Bool)
  | frcp (r : RndField) (g : Guard) (d a : VReg) (e : Bool)
  | frsq (r : RndField) (g : Guard) (d a : VReg) (e : Bool)
  | fsqrt (r : RndField) (g : Guard) (d a : VReg) (e : Bool)
  | fexp2 (r : RndField) (g : Guard) (d a : VReg) (e : Bool)
  | flog2 (r : RndField) (g : Guard) (d a : VReg) (e : Bool)
  | fsin (r : RndField) (g : Guard) (d a : VReg) (e : Bool)
  | fcos (r : RndField) (g : Guard) (d a : VReg) (e : Bool)
  | frint (r : RndField) (g : Guard) (d a : VReg) (e : Bool)
  | hfma2 (r : RndField) (g : Guard) (d a b : VReg) (e f : Bool)
  | hadd2 (r : RndField) (g : Guard) (d a b : VReg) (e f : Bool)
  | hmul2 (r : RndField) (g : Guard) (d a b : VReg) (e f : Bool)
  | fmin (g : Guard) (d a b : VReg) (e f : Bool)
  | fmax (g : Guard) (d a b : VReg) (e f : Bool)
  | fneg (g : Guard) (d a : VReg) (e : Bool)
  | fabs (g : Guard) (d a : VReg) (e : Bool)
  | fclass (g : Guard) (d a : VReg) (e : Bool)
  | fcmp (g : Guard) (d : PReg) (a b : VReg) (e f : Bool) (c : FCond)
  | cvt (g : Guard) (d a : VReg) (e : Bool) (r : RndField) (t s : TypeCode)
  | cvtn (g : Guard) (d a : VReg) (e : Bool) (r : RndField) (p : BitVec 2) (t : TypeCode)
  | cvtPart (g : Guard) (d a : VReg) (e : Bool) (p : BitVec 2) (t : TypeCode)
  | bxq (g : Guard) (d a : VReg) (e : Bool) (t : TypeCode)
  | bxd (g : Guard) (d a : VReg) (e : Bool) (t : TypeCode)
  | pand (g : Guard) (d a b : PReg) (e f : Bool)
  | por (g : Guard) (d a b : PReg) (e f : Bool)
  | pxor (g : Guard) (d a b : PReg) (e f : Bool)
  | pnot (g : Guard) (d a : PReg) (e : Bool)
  | pset (g : Guard) (d : PReg) (a : VReg) (e : Bool)
  | pget (g : Guard) (d : VReg) (a : PReg) (e : Bool)
  | reduceAddI32 (g : Guard) (d : SReg) (a : VReg) (b : SReg) (e f : Bool)
  | reduceMinI32 (g : Guard) (d : SReg) (a : VReg) (b : SReg) (e f : Bool)
  | reduceMinN32 (g : Guard) (d : SReg) (a : VReg) (b : SReg) (e f : Bool)
  | reduceMaxI32 (g : Guard) (d : SReg) (a : VReg) (b : SReg) (e f : Bool)
  | reduceMaxN32 (g : Guard) (d : SReg) (a : VReg) (b : SReg) (e f : Bool)
  | reduceAnd (g : Guard) (d : SReg) (a : VReg) (b : SReg) (e f : Bool)
  | reduceOr (g : Guard) (d : SReg) (a : VReg) (b : SReg) (e f : Bool)
  | reduceXor (g : Guard) (d : SReg) (a : VReg) (b : SReg) (e f : Bool)
  | reduceMinF32 (g : Guard) (d : SReg) (a : VReg) (b : SReg) (e f : Bool)
  | reduceMaxF32 (g : Guard) (d : SReg) (a : VReg) (b : SReg) (e f : Bool)
  | reduceAddF32Rz (g : Guard) (d : SReg) (a : VReg) (b : SReg) (e f : Bool)
  | reduceAddF32Hint (g : Guard) (d : SReg) (a : VReg) (b : SReg) (e f : Bool)
  | reduceAddF32 (g : Guard) (d : SReg) (a : VReg) (b : SReg) (e f : Bool)
  | reduceAddF32Rn (g : Guard) (d : SReg) (a : VReg) (b : SReg) (e f : Bool)
  | scanAddI32 (g : Guard) (d a : VReg) (b : SReg) (e f : Bool)
  | scanMinI32 (g : Guard) (d a : VReg) (b : SReg) (e f : Bool)
  | scanMaxI32 (g : Guard) (d a : VReg) (b : SReg) (e f : Bool)
  | scanAddF32Rn (g : Guard) (d a : VReg) (b : SReg) (e f : Bool)
  | scanAddF32Rz (g : Guard) (d a : VReg) (b : SReg) (e f : Bool)
  | scanAddF32Hint (g : Guard) (d a : VReg) (b : SReg) (e f : Bool)
  | scanAddF32 (g : Guard) (d a : VReg) (b : SReg) (e f : Bool)
  | voteAny (g : Guard) (d : SReg) (a : PReg) (k : BitVec 5) (e : Bool)
  | voteAll (g : Guard) (d : SReg) (a : PReg) (k : BitVec 5) (e : Bool)
  | voteCnt (g : Guard) (d : SReg) (a : PReg) (k : BitVec 5) (e : Bool)
  | matchV (g : Guard) (d a : VReg) (e : Bool)
  | bcast (g : Guard) (d a : VReg) (b : SReg) (e f : Bool)
  | v2s (g : Guard) (d : SReg) (a : VReg) (b : SReg) (e f : Bool)
  | s2v (g : Guard) (d : VReg) (a : SReg) (e : Bool)
  | pack (g : Bool)
  | regroup (g : Bool) (d a : SReg) (e : Bool)
  | shfl (g : Guard) (d a b : VReg) (e f : Bool) (m : ShflMode) (p : PReg)
  | sadd (d a b : SReg) (e f : Bool)
  | ssub (d a b : SReg) (e f : Bool)
  | smul (d a b : SReg) (e f : Bool)
  | smulhI64 (d a b : SReg) (e f : Bool)
  | smulhN64 (d a b : SReg) (e f : Bool)
  | sand (d a b : SReg) (e f : Bool)
  | sor (d a b : SReg) (e f : Bool)
  | sxor (d a b : SReg) (e f : Bool)
  | sshl (d a b : SReg) (e f : Bool)
  | sshr (d a b : SReg) (e f : Bool)
  | ssar (d a b : SReg) (e f : Bool)
  | sminI64 (d a b : SReg) (e f : Bool)
  | sminN64 (d a b : SReg) (e f : Bool)
  | smaxI64 (d a b : SReg) (e f : Bool)
  | smaxN64 (d a b : SReg) (e f : Bool)
  | smov (d a : SReg) (e : Bool)
  | scmp (d a b : SReg) (e f : Bool) (c : Cond)
  | ssel (d a b : SReg) (e f : Bool)
  | saddi (d a : SReg) (i : BitVec 16)
  | slih (d : SReg) (i : BitVec 20)
  | sshlImm (d a : SReg) (n : BitVec 6)
  | sshrImm (d a : SReg) (n : BitVec 6)
  | ssarImm (d a : SReg) (n : BitVec 6)
  | bra (g : Bool) (o : BitVec 18)
  | bru (g : Guard) (o : BitVec 18)
  | brc (g : Guard) (w : Pond) (o : BitVec 18)
  | call (f : BitVec 5) (o : BitVec 18)
  | loop (n : SReg) (o : BitVec 18)
  | nop
  | join (w : Pond)
  | calli (a : SReg) (f : BitVec 5) (e : Bool)
  | ret
  | yield
  | endP
  | width (d a : SReg) (i : BitVec 16)
  | ld (g : Guard) (d a : VReg) (b : SReg) (e : Bool) (z : MemSize) (o : BitVec 3)
  | st (g : Guard) (s a : VReg) (b : SReg) (e : Bool) (z : MemSize) (o : BitVec 3)
  | lds (g : Bool) (d b : SReg) (e : Bool) (z : MemSize) (o : BitVec 3)
  | sts (g : Bool) (s b : SReg) (e : Bool) (z : MemSize) (o : BitVec 3)
  | home (g : Bool) (d b : SReg) (e : Bool) (o : BitVec 3)
  | ptab (g : Bool) (d : SReg) (i : BitVec 3)
  | ptabFail (g : Bool) (d : SReg) (i : BitVec 3)
  | fence (g : Bool)
  | stp (g : Guard) (s a : VReg) (b : SReg) (e : Bool) (z : MemSize) (o : BitVec 3)
  | atm (g : Guard) (d a : VReg) (b : SReg) (e : Bool) (o : AtomOp) (t : AtomType)
  | atp (g : Guard) (s a : VReg) (b : SReg) (e : Bool) (o : AtomOp) (t : AtomType)
  | atpVadd (g : Guard) (s a : VReg) (b : SReg) (e p : Bool) (t : BitVec 3)
  | pld (g : Guard) (d a : VReg) (b : SReg) (e : Bool) (z : MemSize) (o : BitVec 3)
  | pst (g : Guard) (s a : VReg) (b : SReg) (e : Bool) (z : MemSize) (o : BitVec 3)
  | patm (g : Guard) (d a : VReg) (b : SReg) (e : Bool) (o : AtomOp) (t : PatmType)
  | pstep (g : Bool)
  | bar (g : Bool) (i : BitVec 4) (s : Scope)
  | bara (g : Bool) (i : BitVec 4) (s : Scope)
  | barw (g : Bool) (i : BitVec 4) (s : Scope)
  | tcfg (g : Bool) (t : Tile) (y : SReg) (e : Bool)
  | tld (g : Bool) (t : Tile) (y z : SReg) (e f : Bool)
  | tst (g : Bool) (t : Tile) (y z : SReg) (e f : Bool)
  | tzero (g : Bool) (t : Tile)
  | wld (g : Bool) (t : Tile) (y : SReg) (e : Bool)
  | mma (g : Guard) (a : Acc) (t : Tile) (k : ActType)
  | mmas (g : Guard) (a : Acc) (t : Tile) (v : VReg) (f : Bool) (k : ActType)
  | mbatch (g : Bool) (d : SReg)
  | mwait (g : Bool) (y : SReg) (e : Bool)
  | accget (g : Bool) (d : SReg) (n : BitVec 5)
  | accput (g : Bool)
  | acq (g : Bool) (a : Acc)
  | rel (g : Bool) (a : Acc)
  | accrd (g : Guard) (d : VReg) (a : Acc) (z : SReg) (f : Bool)
  | accrd4 (g : Guard) (d : VReg) (a : Acc) (z : SReg) (f : Bool)
  | accwr (g : Guard) (a : Acc) (v : VReg) (z : SReg) (e f : Bool)
  | accwr4 (g : Guard) (a : Acc) (v : VReg) (z : SReg) (e f : Bool)
  | hwait (h : Handle)
  | hany (d a : SReg) (e : Bool)
  | hall (a : SReg) (e : Bool)
  | hfirst (d a : SReg) (e : Bool)
  | hclaim (h : Handle)
  | hfree (h : Handle)
  | hsig (a : SReg) (e : Bool)
  | copy (h : Handle) (g d : GReg)
  | copy2d (h : Handle) (g d : GReg)
  | gather (h : Handle) (g d : GReg)
  | scatter (h : Handle) (g d : GReg)
  | mpwait (d : GReg)
  | hset (a : GReg) (h : Handle)
  | hexp (a : GReg) (h : Handle)
  | mpfence
  | mpend
  | emit (g : Guard) (d : VReg) (a : SReg) (e : Bool)
  | depdec (g : Bool) (a : SReg) (e : Bool)
  | qpush (g : Guard) (p : PReg) (a : VReg) (b : SReg) (e f : Bool)
  | qpop (g : Guard) (d : VReg) (b : SReg) (f : Bool)
  | bfork (g : Bool) (d : SReg)
  | bforkStamp (g : Bool) (a : SReg) (e : Bool)
  | bcancel (g : Bool) (a : SReg) (e : Bool)
  | chfork (g : Bool) (d a : SReg) (e : Bool)
  | chapp (g : Guard) (d a : VReg) (b : SReg) (e f : Bool)
  | chrel (g : Bool) (a : SReg) (e : Bool)
  | srd (r : SReg) (n : Special)
  | swr (r : SReg) (e : Bool) (n : Special)
  | srdVector (r : VReg)
  | trap (a : SReg) (n : BitVec 5) (e : Bool)
  | rft (a : SReg) (e : Bool)
  | ifence
  | bkpt (n : BitVec 5)
  | halt
  | pfix (d : SReg) (i : BitVec 3)
  | pfixDrop (d : SReg) (i : BitVec 3)
  | ctxsv (a : SReg) (e : Bool)
  | ctxld (d a : SReg) (e : Bool)
  | ctxldKill (d a : SReg) (e : Bool)
  | hintImm (p : BitVec 23)
  | hintRnd (r : Dir)
  | hintSched (p : BitVec 23)
  | hintFmt (t : TypeCode)
  | siblingHalt (path : Nat)
  | registerFill (path flight : Nat)
  | hopLanding (path core : Nat)
  | parkedImageResume (home core : Nat)
  | parkSwitchOut (home : Nat)
  | crewSwitchOut (home : Nat)
  | watchdogExpiry (path : Nat)
  | regroupWindowExpiry (path : Nat)
  | postPerform (post : Nat)
  | postAcknowledgement (ack : Nat)
  | hostAccess (op : HostOp)
  | copySector (crew copy sector : Nat)
  | matrixOperation (crew : Nat)
  | accgetGrant (crew : Nat)
  | movementFault (crew : Nat)
  | engineRelease (crew : Nat)
  | clutchRecordArrival (record : Nat)
  | clutchTimer (launch node brood : Nat)
  | launchRecordTake (module : Nat)
  | knotPlacement (home : Nat)
  | crewPlacement (home : Nat)
  | stealMessage (thief : Nat)
  | launchCompletion (launch : Nat)
  | preemptionComplete (module : Nat)
  | eccError (error : EccError)
  | governorStep (module : Nat) (up : Bool)
  | resetModule (module : Nat) (stages : List (List Byte × List Byte))
  | qreg (module : Nat)
  | bindObject (module : Nat)
  | lazyBind (module : Nat)
  | shoot (module : Nat)
  | keyload (module : Nat)
  | circuit (module : Nat)
  | pool (module : Nat)
  | preempt (module : Nat)
  | resume (module : Nat)
  | haltstk (module : Nat)
  | runstk (module : Nat)
  | attest (module : Nat)
  | devhashReport (module : Nat)
  | wlist (module : Nat)
  | signkey (module : Nat)
  | unlistedCommand (module : Nat)
  | illegalEncoding
  | fetchBeyondExtent
  | larzonConfigurationSpaceWrite (module header : Nat)
  | fabricPacketResend (post : Nat)
  deriving DecidableEq, Repr

end Sys2Proof
end

