-- ==== Sys2Proof/WellFormed.lean ====
section
/-! DEFINITION. Which instructions are well formed: the checks of R116, R120 and of the instruction entries that the
field types of the syntax do not already make. An instruction that fails one is an illegal encoding (R121). -/
namespace Sys2Proof

/-- Why a word is refused by the decoder (R121 step 1): the state-independent illegal encodings. -/
inductive Illegal where
  /-- Major 0x00 or a reserved major (R131). -/
  | reservedMajor
  /-- A reserved func, op, sub-op, kind or pond value (R131 to R139). -/
  | reservedFunc
  /-- A reserved code in a size, type, scope, condition or special-register field (R127, R129, R136 to R138). -/
  | reservedCode
  /-- A field or fe bit that must be zero is not (R116). -/
  | nonzeroField
  /-- A guard other than the always- and never-guard on a once-per-fragment instruction (R117). -/
  | badGuard
  /-- A predicate destination of p7 (R116). -/
  | predicateP7
  /-- A register group that passes v31, m15 or g31 (R120, R218, R242). -/
  | groupPastEnd
  /-- A destination group that shares a register with a source (R120, R197, R242). -/
  | groupOverlap
  /-- A size that the instruction does not accept (R136, R196, R203). -/
  | badSize
  /-- A type or op that the instruction does not accept (R132, R137, R162, R163, R208, R218). -/
  | badType
  /-- An operand value outside its range: f, N, n or a descriptor of 0, a part, a count (R163, R183, R186, R231, R242). -/
  | badOperand
  /-- A special register that the instruction may not name (R127). -/
  | badSpecial
  /-- A hint of type that R123 does not allow. -/
  | badHint
  /-- Fewer than four bytes were given (R114). -/
  | shortWord
  deriving DecidableEq, Repr

/-- Registers of data of a memory size (R190). -/
def MemSize.regs : MemSize → Nat
  | .b64 => 2
  | .b128 => 4
  | _ => 1

/-- Bytes of a memory size (R136). -/
def MemSize.bytes : MemSize → Nat
  | .n8 | .i8 => 1
  | .n16 | .i16 => 2
  | .b32 => 4
  | .b64 => 8
  | .b128 => 16

/-- Registers of one operand of an atomic type (R197). -/
def AtomType.regs : AtomType → Nat
  | .i64 | .n64 => 2
  | _ => 1

/-- Bytes that an atomic type accesses (R197). -/
def AtomType.bytes (t : AtomType) : Nat := 4 * t.regs

/-- The integer type that a PATM type names (R137). -/
def PatmType.atom : PatmType → AtomType
  | .i32 => .i32
  | .n32 => .n32
  | .i64 => .i64
  | .n64 => .n64

/-- Whether ATM, ATP or PATM may pair an op with a type (R137). -/
def AtomOp.takes : AtomOp → AtomType → Bool
  | .add, t => t = .i32 || t = .i64 || t = .f32 || t = .bf16x2 || t = .f16x2
  | .min, t | .max, t => t = .i32 || t = .n32 || t = .i64 || t = .n64 || t = .f32
  | _, t => t = .i32 || t = .i64

/-- Registers of the whole operand group of ATM and PATM (R197). -/
def AtomOp.group (o : AtomOp) (t : AtomType) : Nat := t.regs * (if o = .cas then 3 else 2)

/-- Bytes of a VADD, from type[1:0] (R203); 0 for the reserved code. -/
def vaddBytes (t : BitVec 3) : Nat :=
  match (t.extractLsb' 0 2).toNat with
  | 0 => 8
  | 1 => 16
  | 2 => 32
  | _ => 0

/-- Registers that a value of a convert type occupies (R94, R162). -/
def TypeCode.regs : TypeCode → Nat
  | .i64 | .n64 => 2
  | _ => 1

/-- A type code that CVT takes (R162). -/
def TypeCode.cvtOk : TypeCode → Bool
  | .bx8 | .bx4 => false
  | _ => true

/-- Whether CVTN and the part form of CVT take a type with a part (R163). -/
def TypeCode.partOk (t : TypeCode) (p : BitVec 2) : Bool :=
  match t with
  | .i8 | .n8 | .e4m3 | .e5m2 => true
  | .i16 | .n16 | .f16 | .bf16 => decide (p.toNat < 2)
  | _ => false

/-- A special register that SWR may name: RW at supervisor level (R127). -/
def Special.writable : Special → Bool
  | .mode | .fpstat | .ptbase | .asid | .keysel | .vecbase | .landing | .parkmax | .watchdog | .service => true
  | _ => false

/-- A special register of number 0x80 or above (R126, R127). -/
def Special.privileged : Special → Bool
  | .ptbase | .asid | .keysel | .vecbase | .landing | .parkmax | .watchdog | .cap0 | .cap1 | .cap2 | .cap3
  | .service => true
  | _ => false

/-- Whether the group of `n` registers from `d` shares a register with the group of `m` from `s` (R120). -/
def groupsMeet (d n s m : Nat) : Bool := decide (s < d + n) && decide (d < s + m)

/-- The refusal of a group that passes its register file. -/
def needGroup (first n : Nat) (rest : Option Illegal) : Option Illegal :=
  if first + n ≤ 32 then rest else some .groupPastEnd

/-- The refusal `why` unless `c` holds. -/
def need (c : Bool) (why : Illegal) (rest : Option Illegal) : Option Illegal := if c then rest else some why

/-- A predicate destination may not be p7 (R116). -/
def needPred (d : PReg) (rest : Option Illegal) : Option Illegal := need (d != 7) .predicateP7 rest

/-- A zero scalar field of REDUCE, SCAN, TLD and TST names no source, so its fe bit is zero (R116, R133). -/
def needUnused (b : SReg) (f : Bool) (rest : Option Illegal) : Option Illegal :=
  need (b != 0 || !f) .nonzeroField rest

/-- The descriptor group of a copy of `n` registers, and its count register (R242). -/
def copyReason (desc dest : GReg) (n : Nat) : Option Illegal :=
  need (desc != 0) .badOperand <| needGroup desc.toNat n <|
    need (dest == 0 || !groupsMeet desc.toNat n dest.toNat 1) .groupOverlap none

/-- The data group of a load: within the file, and a destination group of several registers clear of va (R120, R192). -/
def loadReason (d a : VReg) (z : MemSize) : Option Illegal :=
  needGroup d.toNat z.regs <| need (z.regs == 1 || !groupsMeet d.toNat z.regs a.toNat 1) .groupOverlap none

/-- The operand group of ATM and PATM (R137, R197, R208). -/
def atomReason (d a : VReg) (o : AtomOp) (t : AtomType) : Option Illegal :=
  need (o.takes t) .badType <| needGroup d.toNat (o.group t) <|
    need (!groupsMeet d.toNat t.regs a.toNat 1) .groupOverlap none

/-- The 64-bit destination pair of the instructions of major 0x07, with sources of `n` registers (R120, R154). -/
def pairReason (d a b : VReg) (n : Nat) : Option Illegal :=
  needGroup d.toNat 2 <| needGroup a.toNat n <| needGroup b.toNat n <|
    need (!groupsMeet d.toNat 2 a.toNat n && !groupsMeet d.toNat 2 b.toNat n) .groupOverlap none

/-- The first check of R116 and R120, or of the instruction's own entry, that an instruction fails; none when well formed.
Events and commands have no encoding and no check. -/
def wfReason : Instr → Option Illegal
  | .iadd64 _ d a b _ _ | .isub64 _ d a b _ _ => pairReason d a b 2
  | .imulwI32 _ d a b _ _ | .imulwN32 _ d a b _ _ => pairReason d a b 1
  | .icmp _ d _ _ _ _ _ | .fcmp _ d _ _ _ _ _ => needPred d none
  | .pand _ d _ _ _ _ | .por _ d _ _ _ _ | .pxor _ d _ _ _ _ => needPred d none
  | .pnot _ d _ _ | .pset _ d _ _ => needPred d none
  | .cvt _ d a _ _ t s =>
      need (t.cvtOk && s.cvtOk) .badType <| needGroup d.toNat t.regs <| needGroup a.toNat s.regs <|
        need (t.regs == 1 || !groupsMeet d.toNat t.regs a.toNat s.regs) .groupOverlap none
  | .cvtn _ _ _ _ _ p t | .cvtPart _ _ _ _ p t => need (t.partOk p) .badType none
  | .bxq _ _ _ _ t | .bxd _ _ _ _ t => need (t == .bx8 || t == .bx4) .badType none
  | .reduceAddI32 _ _ _ b _ f | .reduceMinI32 _ _ _ b _ f | .reduceMinN32 _ _ _ b _ f | .reduceMaxI32 _ _ _ b _ f
  | .reduceMaxN32 _ _ _ b _ f | .reduceAnd _ _ _ b _ f | .reduceOr _ _ _ b _ f | .reduceXor _ _ _ b _ f
  | .reduceMinF32 _ _ _ b _ f | .reduceMaxF32 _ _ _ b _ f | .reduceAddF32Rz _ _ _ b _ f
  | .reduceAddF32Hint _ _ _ b _ f | .reduceAddF32 _ _ _ b _ f | .reduceAddF32Rn _ _ _ b _ f
  | .scanAddI32 _ _ _ b _ f | .scanMinI32 _ _ _ b _ f | .scanMaxI32 _ _ _ b _ f | .scanAddF32Rn _ _ _ b _ f
  | .scanAddF32Rz _ _ _ b _ f | .scanAddF32Hint _ _ _ b _ f | .scanAddF32 _ _ _ b _ f => needUnused b f none
  | .call f _ => need (f != 0) .badOperand none
  | .calli _ f _ => need (f != 0) .badOperand none
  | .loop n _ => need (n != 0) .badOperand none
  | .ld _ d a _ _ z _ | .pld _ d a _ _ z _ => loadReason d a z
  | .st _ s _ _ _ z _ | .pst _ s _ _ _ z _ => needGroup s.toNat z.regs none
  | .lds _ _ _ _ z _ | .sts _ _ _ _ z _ => need (z != .b128) .badSize none
  | .stp _ s _ _ _ z _ => need (z == .b32 || z == .b64 || z == .b128) .badSize <| needGroup s.toNat z.regs none
  | .atm _ d a _ _ o t => atomReason d a o t
  | .patm _ d a _ _ o t => atomReason d a o t.atom
  | .atp _ s _ _ _ o t =>
      need (o != .xchg && o != .cas && o.takes t) .badType <| needGroup s.toNat t.regs none
  | .atpVadd _ s _ _ _ _ t => need (vaddBytes t != 0) .badType <| needGroup s.toNat (vaddBytes t / 4) none
  | .tld _ _ _ z _ f | .tst _ _ _ z _ f => needUnused z f none
  | .mma _ _ t k => need ((k != .bf16 && k != .f16) || t != 15) .groupPastEnd none
  | .mmas _ _ _ _ _ k => need (k != .bf16 && k != .f16) .badType none
  | .accget _ _ n => need (decide (1 ≤ n.toNat) && decide (n.toNat ≤ 8)) .badOperand none
  | .accrd4 _ d _ _ _ => needGroup d.toNat 4 none
  | .accwr4 _ _ v _ _ _ => needGroup v.toNat 4 none
  | .copy _ g d => copyReason g d 4
  | .copy2d _ g d | .gather _ g d | .scatter _ g d => copyReason g d 6
  | .qpush _ p _ _ _ _ => needPred p none
  | .srd _ n => need (n != .laneid) .badSpecial none
  | .swr _ _ n => need n.writable .badSpecial none
  | .hintFmt t => need (t == .f32 || t == .f16 || t == .bf16) .badHint none
  | _ => none

/-- A well-formed instruction. -/
def Instr.wf (i : Instr) : Prop := wfReason i = none

end Sys2Proof
end

