-- ==== Sys2Proof/Decode.lean ====
section
/-! DEFINITION. The decoder, total on any bytes, and the encoder, both written from the formats of R115 and the opcode map
of R131 to R139. The decoder makes the checks of R121 step 1 that need no state; the checks that need the path's hints,
its level, its agent or the part are made when the instruction executes (Sys2Proof.Machine.decodeTrap). -/
namespace Sys2Proof

/-- The code of `Dir` (R100). -/
def Dir.bits : Dir → BitVec 2
  | .near => 0
  | .zero => 1
  | .down => 2
  | .up => 3

/-- The `Dir` that a code names (R100). -/
def Dir.ofBits (b : BitVec 2) : Dir :=
  match b.toNat with
  | 0 => .near
  | 1 => .zero
  | 2 => .down
  | _ => .up

/-- The code of `RndField` (R102). -/
def RndField.bits : RndField → BitVec 2
  | .mode => 0
  | .near => 1
  | .zero => 2
  | .hint => 3

/-- The `RndField` that a code names (R102). -/
def RndField.ofBits (b : BitVec 2) : RndField :=
  match b.toNat with
  | 0 => .mode
  | 1 => .near
  | 2 => .zero
  | _ => .hint

/-- The code of `Cond` (R131). -/
def Cond.bits : Cond → BitVec 4
  | .eq => 0
  | .ne => 1
  | .ltI => 2
  | .leI => 3
  | .gtI => 4
  | .geI => 5
  | .ltN => 6
  | .leN => 7
  | .gtN => 8
  | .geN => 9

/-- The `Cond` that a code names, none for a reserved code (R131). -/
def Cond.ofBits (b : BitVec 4) : Option Cond :=
  match b.toNat with
  | 0 => some .eq
  | 1 => some .ne
  | 2 => some .ltI
  | 3 => some .leI
  | 4 => some .gtI
  | 5 => some .geI
  | 6 => some .ltN
  | 7 => some .leN
  | 8 => some .gtN
  | 9 => some .geN
  | _ => none

/-- The code of `FCond` (R132). -/
def FCond.bits : FCond → BitVec 3
  | .eq => 0
  | .ne => 1
  | .lt => 2
  | .le => 3
  | .gt => 4
  | .ge => 5
  | .ord => 6
  | .unord => 7

/-- The `FCond` that a code names (R132). -/
def FCond.ofBits (b : BitVec 3) : FCond :=
  match b.toNat with
  | 0 => .eq
  | 1 => .ne
  | 2 => .lt
  | 3 => .le
  | 4 => .gt
  | 5 => .ge
  | 6 => .ord
  | _ => .unord

/-- The code of `MemSize` (R136). -/
def MemSize.bits : MemSize → BitVec 3
  | .n8 => 0
  | .i8 => 1
  | .n16 => 2
  | .i16 => 3
  | .b32 => 4
  | .b64 => 5
  | .b128 => 6

/-- The `MemSize` that a code names, none for a reserved code (R136). -/
def MemSize.ofBits (b : BitVec 3) : Option MemSize :=
  match b.toNat with
  | 0 => some .n8
  | 1 => some .i8
  | 2 => some .n16
  | 3 => some .i16
  | 4 => some .b32
  | 5 => some .b64
  | 6 => some .b128
  | _ => none

/-- The code of `AtomOp` (R137). -/
def AtomOp.bits : AtomOp → BitVec 3
  | .add => 0
  | .min => 1
  | .max => 2
  | .and => 3
  | .or => 4
  | .xor => 5
  | .xchg => 6
  | .cas => 7

/-- The `AtomOp` that a code names (R137). -/
def AtomOp.ofBits (b : BitVec 3) : AtomOp :=
  match b.toNat with
  | 0 => .add
  | 1 => .min
  | 2 => .max
  | 3 => .and
  | 4 => .or
  | 5 => .xor
  | 6 => .xchg
  | _ => .cas

/-- The code of `AtomType` (R137). -/
def AtomType.bits : AtomType → BitVec 3
  | .i32 => 0
  | .n32 => 1
  | .i64 => 2
  | .n64 => 3
  | .f32 => 4
  | .bf16x2 => 5
  | .f16x2 => 6

/-- The `AtomType` that a code names, none for a reserved code (R137). -/
def AtomType.ofBits (b : BitVec 3) : Option AtomType :=
  match b.toNat with
  | 0 => some .i32
  | 1 => some .n32
  | 2 => some .i64
  | 3 => some .n64
  | 4 => some .f32
  | 5 => some .bf16x2
  | 6 => some .f16x2
  | _ => none

/-- The code of `PatmType` (R137). -/
def PatmType.bits : PatmType → BitVec 2
  | .i32 => 0
  | .n32 => 1
  | .i64 => 2
  | .n64 => 3

/-- The `PatmType` that a code names (R137). -/
def PatmType.ofBits (b : BitVec 2) : PatmType :=
  match b.toNat with
  | 0 => .i32
  | 1 => .n32
  | 2 => .i64
  | _ => .n64

/-- The code of `TypeCode` (R129). -/
def TypeCode.bits : TypeCode → BitVec 4
  | .i8 => 0
  | .i16 => 1
  | .i32 => 2
  | .i64 => 3
  | .n8 => 4
  | .n16 => 5
  | .n32 => 6
  | .n64 => 7
  | .f32 => 8
  | .f16 => 9
  | .bf16 => 10
  | .e4m3 => 11
  | .e5m2 => 12
  | .bx8 => 13
  | .bx4 => 14

/-- The `TypeCode` that a code names, none for a reserved code (R129). -/
def TypeCode.ofBits (b : BitVec 4) : Option TypeCode :=
  match b.toNat with
  | 0 => some .i8
  | 1 => some .i16
  | 2 => some .i32
  | 3 => some .i64
  | 4 => some .n8
  | 5 => some .n16
  | 6 => some .n32
  | 7 => some .n64
  | 8 => some .f32
  | 9 => some .f16
  | 10 => some .bf16
  | 11 => some .e4m3
  | 12 => some .e5m2
  | 13 => some .bx8
  | 14 => some .bx4
  | _ => none

/-- The code of `ActType` (R138). -/
def ActType.bits : ActType → BitVec 4
  | .bf16 => 0
  | .f16 => 1
  | .e4m3 => 2
  | .e5m2 => 3
  | .bx8 => 4
  | .bx4 => 5

/-- The `ActType` that a code names, none for a reserved code (R138). -/
def ActType.ofBits (b : BitVec 4) : Option ActType :=
  match b.toNat with
  | 0 => some .bf16
  | 1 => some .f16
  | 2 => some .e4m3
  | 3 => some .e5m2
  | 4 => some .bx8
  | 5 => some .bx4
  | _ => none

/-- The code of `Scope` (R137). -/
def Scope.bits : Scope → BitVec 3
  | .core => 0
  | .quad => 1
  | .stack => 2
  | .module => 3
  | .pod => 4

/-- The `Scope` that a code names, none for a reserved code (R137). -/
def Scope.ofBits (b : BitVec 3) : Option Scope :=
  match b.toNat with
  | 0 => some .core
  | 1 => some .quad
  | 2 => some .stack
  | 3 => some .module
  | 4 => some .pod
  | _ => none

/-- The code of `ShflMode` (R170). -/
def ShflMode.bits : ShflMode → BitVec 2
  | .idx => 0
  | .up => 1
  | .down => 2
  | .xor => 3

/-- The `ShflMode` that a code names (R170). -/
def ShflMode.ofBits (b : BitVec 2) : ShflMode :=
  match b.toNat with
  | 0 => .idx
  | 1 => .up
  | 2 => .down
  | _ => .xor

/-- The code of `Special` (R127). -/
def Special.bits : Special → BitVec 8
  | .grant => 0
  | .laneid => 1
  | .knotid => 2
  | .nknots => 3
  | .brood => 4
  | .stack => 5
  | .core => 6
  | .module => 7
  | .mode => 8
  | .fpstat => 9
  | .cycles => 10
  | .hready => 11
  | .posts => 12
  | .ptbase => 128
  | .asid => 129
  | .keysel => 130
  | .vecbase => 131
  | .landing => 132
  | .parkmax => 133
  | .watchdog => 134
  | .cap0 => 136
  | .cap1 => 137
  | .cap2 => 138
  | .cap3 => 139
  | .service => 140

/-- The `Special` that a code names, none for a reserved code (R127). -/
def Special.ofBits (b : BitVec 8) : Option Special :=
  match b.toNat with
  | 0 => some .grant
  | 1 => some .laneid
  | 2 => some .knotid
  | 3 => some .nknots
  | 4 => some .brood
  | 5 => some .stack
  | 6 => some .core
  | 7 => some .module
  | 8 => some .mode
  | 9 => some .fpstat
  | 10 => some .cycles
  | 11 => some .hready
  | 12 => some .posts
  | 128 => some .ptbase
  | 129 => some .asid
  | 130 => some .keysel
  | 131 => some .vecbase
  | 132 => some .landing
  | 133 => some .parkmax
  | 134 => some .watchdog
  | 136 => some .cap0
  | 137 => some .cap1
  | 138 => some .cap2
  | 139 => some .cap3
  | 140 => some .service
  | _ => none

/-- A predicate, accumulator or entry number in a 5-bit field: bits [4:3] zero (R116, R298). -/
def field3 (p : BitVec 3) : BitVec 5 := 0#2 ++ p

/-- A tile or pond number in a 5-bit field: bit [4] zero (R116, R135). -/
def field4 (t : BitVec 4) : BitVec 5 := 0#1 ++ t

/-- The guard of a once-per-fragment instruction: always, or never (R117). -/
def onceGuard (never : Bool) : Guard := BitVec.ofBool never ++ 7#3

/-- The instruction, unless a field that must be zero is not (R116). -/
def zeros (ok : Bool) (i : Instr) : Except Illegal Instr := if ok then .ok i else .error .nonzeroField

/-- A predicate, accumulator or entry number read from a 5-bit field (R116). -/
def predOf (x : BitVec 5) : Except Illegal (BitVec 3) :=
  if x.extractLsb' 3 2 = 0 then .ok (x.extractLsb' 0 3) else .error .nonzeroField

/-- A tile or pond number read from a 5-bit field (R116). -/
def tileOf (x : BitVec 5) : Except Illegal (BitVec 4) :=
  if x.extractLsb' 4 1 = 0 then .ok (x.extractLsb' 0 4) else .error .nonzeroField

/-- Whether a once-per-fragment guard is the never-guard; any guard but the two is illegal (R117). -/
def onceOf (g : Guard) : Except Illegal Bool :=
  if g.extractLsb' 0 3 = 7 then .ok (g.getLsbD 3) else .error .badGuard

/-- A code that must not be reserved. -/
def codeOf {α : Type} (x : Option α) : Except Illegal α :=
  match x with
  | some a => .ok a
  | none => .error .reservedCode

/-- Vector register format (R115). -/
structure VecForm where
  g : BitVec 4
  d : BitVec 5
  a : BitVec 5
  b : BitVec 5
  e : Bool
  f : Bool
  func : BitVec 5
  deriving DecidableEq, Repr

/-- The word of major `maj` with these fields. -/
def VecForm.pack (maj : BitVec 6) (x : VecForm) : Word :=
  maj ++ x.g ++ x.d ++ x.a ++ x.b ++ BitVec.ofBool x.e ++ BitVec.ofBool x.f ++ x.func

/-- The fields of a word read in this format. -/
def VecForm.unpack (w : Word) : VecForm :=
  { g := w.extractLsb' 22 4, d := w.extractLsb' 17 5, a := w.extractLsb' 12 5, b := w.extractLsb' 7 5, e := w.getLsbD 6, f := w.getLsbD 5, func := w.extractLsb' 0 5 }

/-- Vector immediate format (R115). -/
structure VecImmForm where
  g : BitVec 4
  d : BitVec 5
  a : BitVec 5
  e : Bool
  imm : BitVec 11
  deriving DecidableEq, Repr

/-- The word of major `maj` with these fields. -/
def VecImmForm.pack (maj : BitVec 6) (x : VecImmForm) : Word :=
  maj ++ x.g ++ x.d ++ x.a ++ BitVec.ofBool x.e ++ x.imm

/-- The fields of a word read in this format. -/
def VecImmForm.unpack (w : Word) : VecImmForm :=
  { g := w.extractLsb' 22 4, d := w.extractLsb' 17 5, a := w.extractLsb' 12 5, e := w.getLsbD 11, imm := w.extractLsb' 0 11 }

/-- Convert format (R115). -/
structure CvtForm where
  g : BitVec 4
  d : BitVec 5
  a : BitVec 5
  e : Bool
  rnd : BitVec 2
  t : BitVec 4
  s : BitVec 4
  z : Bool
  deriving DecidableEq, Repr

/-- The word of major `maj` with these fields. -/
def CvtForm.pack (maj : BitVec 6) (x : CvtForm) : Word :=
  maj ++ x.g ++ x.d ++ x.a ++ BitVec.ofBool x.e ++ x.rnd ++ x.t ++ x.s ++ BitVec.ofBool x.z

/-- The fields of a word read in this format. -/
def CvtForm.unpack (w : Word) : CvtForm :=
  { g := w.extractLsb' 22 4, d := w.extractLsb' 17 5, a := w.extractLsb' 12 5, e := w.getLsbD 11, rnd := w.extractLsb' 9 2, t := w.extractLsb' 5 4, s := w.extractLsb' 1 4, z := w.getLsbD 0 }

/-- Convert part format (R115). -/
structure PartForm where
  g : BitVec 4
  d : BitVec 5
  a : BitVec 5
  e : Bool
  rnd : BitVec 2
  part : BitVec 2
  t : BitVec 4
  op : BitVec 3
  deriving DecidableEq, Repr

/-- The word of major `maj` with these fields. -/
def PartForm.pack (maj : BitVec 6) (x : PartForm) : Word :=
  maj ++ x.g ++ x.d ++ x.a ++ BitVec.ofBool x.e ++ x.rnd ++ x.part ++ x.t ++ x.op

/-- The fields of a word read in this format. -/
def PartForm.unpack (w : Word) : PartForm :=
  { g := w.extractLsb' 22 4, d := w.extractLsb' 17 5, a := w.extractLsb' 12 5, e := w.getLsbD 11, rnd := w.extractLsb' 9 2, part := w.extractLsb' 7 2, t := w.extractLsb' 3 4, op := w.extractLsb' 0 3 }

/-- Scalar register format (R115). -/
structure ScalForm where
  d : BitVec 5
  a : BitVec 5
  b : BitVec 5
  e : Bool
  f : Bool
  func : BitVec 9
  deriving DecidableEq, Repr

/-- The word of major `maj` with these fields. -/
def ScalForm.pack (maj : BitVec 6) (x : ScalForm) : Word :=
  maj ++ x.d ++ x.a ++ x.b ++ BitVec.ofBool x.e ++ BitVec.ofBool x.f ++ x.func

/-- The fields of a word read in this format. -/
def ScalForm.unpack (w : Word) : ScalForm :=
  { d := w.extractLsb' 21 5, a := w.extractLsb' 16 5, b := w.extractLsb' 11 5, e := w.getLsbD 10, f := w.getLsbD 9, func := w.extractLsb' 0 9 }

/-- Scalar immediate format (R115). -/
structure ScalImmForm where
  d : BitVec 5
  a : BitVec 5
  imm : BitVec 16
  deriving DecidableEq, Repr

/-- The word of major `maj` with these fields. -/
def ScalImmForm.pack (maj : BitVec 6) (x : ScalImmForm) : Word :=
  maj ++ x.d ++ x.a ++ x.imm

/-- The fields of a word read in this format. -/
def ScalImmForm.unpack (w : Word) : ScalImmForm :=
  { d := w.extractLsb' 21 5, a := w.extractLsb' 16 5, imm := w.extractLsb' 0 16 }

/-- Scalar upper format (R115). -/
structure UpperForm where
  d : BitVec 5
  z : Bool
  imm : BitVec 20
  deriving DecidableEq, Repr

/-- The word of major `maj` with these fields. -/
def UpperForm.pack (maj : BitVec 6) (x : UpperForm) : Word :=
  maj ++ x.d ++ BitVec.ofBool x.z ++ x.imm

/-- The fields of a word read in this format. -/
def UpperForm.unpack (w : Word) : UpperForm :=
  { d := w.extractLsb' 21 5, z := w.getLsbD 20, imm := w.extractLsb' 0 20 }

/-- Branch format (R115). -/
structure BranchForm where
  g : BitVec 4
  w : BitVec 4
  o : BitVec 18
  deriving DecidableEq, Repr

/-- The word of major `maj` with these fields. -/
def BranchForm.pack (maj : BitVec 6) (x : BranchForm) : Word :=
  maj ++ x.g ++ x.w ++ x.o

/-- The fields of a word read in this format. -/
def BranchForm.unpack (w : Word) : BranchForm :=
  { g := w.extractLsb' 22 4, w := w.extractLsb' 18 4, o := w.extractLsb' 0 18 }

/-- Call format (R115). -/
structure CallForm where
  d : BitVec 5
  z : BitVec 3
  o : BitVec 18
  deriving DecidableEq, Repr

/-- The word of major `maj` with these fields. -/
def CallForm.pack (maj : BitVec 6) (x : CallForm) : Word :=
  maj ++ x.d ++ x.z ++ x.o

/-- The fields of a word read in this format. -/
def CallForm.unpack (w : Word) : CallForm :=
  { d := w.extractLsb' 21 5, z := w.extractLsb' 18 3, o := w.extractLsb' 0 18 }

/-- Memory and atomic formats: `z` is the size or op field, `o` the offset or type field (R115). -/
structure MemForm where
  g : BitVec 4
  d : BitVec 5
  a : BitVec 5
  b : BitVec 5
  e : Bool
  z : BitVec 3
  o : BitVec 3
  deriving DecidableEq, Repr

/-- The word of major `maj` with these fields. -/
def MemForm.pack (maj : BitVec 6) (x : MemForm) : Word :=
  maj ++ x.g ++ x.d ++ x.a ++ x.b ++ BitVec.ofBool x.e ++ x.z ++ x.o

/-- The fields of a word read in this format. -/
def MemForm.unpack (w : Word) : MemForm :=
  { g := w.extractLsb' 22 4, d := w.extractLsb' 17 5, a := w.extractLsb' 12 5, b := w.extractLsb' 7 5, e := w.getLsbD 6, z := w.extractLsb' 3 3, o := w.extractLsb' 0 3 }

/-- Handle format (R115). -/
structure HandForm where
  d : BitVec 5
  a : BitVec 5
  h : BitVec 6
  e : Bool
  func : BitVec 9
  deriving DecidableEq, Repr

/-- The word of major `maj` with these fields. -/
def HandForm.pack (maj : BitVec 6) (x : HandForm) : Word :=
  maj ++ x.d ++ x.a ++ x.h ++ BitVec.ofBool x.e ++ x.func

/-- The fields of a word read in this format. -/
def HandForm.unpack (w : Word) : HandForm :=
  { d := w.extractLsb' 21 5, a := w.extractLsb' 16 5, h := w.extractLsb' 10 6, e := w.getLsbD 9, func := w.extractLsb' 0 9 }

/-- Movement copy format (R115). -/
structure MoveForm where
  func : BitVec 10
  h : BitVec 6
  g : BitVec 5
  d : BitVec 5
  deriving DecidableEq, Repr

/-- The word of major `maj` with these fields. -/
def MoveForm.pack (maj : BitVec 6) (x : MoveForm) : Word :=
  maj ++ x.func ++ x.h ++ x.g ++ x.d

/-- The fields of a word read in this format. -/
def MoveForm.unpack (w : Word) : MoveForm :=
  { func := w.extractLsb' 16 10, h := w.extractLsb' 10 6, g := w.extractLsb' 5 5, d := w.extractLsb' 0 5 }

/-- Special format (R115). -/
structure SpecForm where
  r : BitVec 5
  op : BitVec 2
  e : Bool
  z : BitVec 10
  n : BitVec 8
  deriving DecidableEq, Repr

/-- The word of major `maj` with these fields. -/
def SpecForm.pack (maj : BitVec 6) (x : SpecForm) : Word :=
  maj ++ x.r ++ x.op ++ BitVec.ofBool x.e ++ x.z ++ x.n

/-- The fields of a word read in this format. -/
def SpecForm.unpack (w : Word) : SpecForm :=
  { r := w.extractLsb' 21 5, op := w.extractLsb' 19 2, e := w.getLsbD 18, z := w.extractLsb' 8 10, n := w.extractLsb' 0 8 }

/-- Hint format (R115). -/
structure HintForm where
  kind : BitVec 3
  p : BitVec 23
  deriving DecidableEq, Repr

/-- The word of major `maj` with these fields. -/
def HintForm.pack (maj : BitVec 6) (x : HintForm) : Word :=
  maj ++ x.kind ++ x.p

/-- The fields of a word read in this format. -/
def HintForm.unpack (w : Word) : HintForm :=
  { kind := w.extractLsb' 23 3, p := w.extractLsb' 0 23 }

/-- Major 0x01 (R150). -/
def decodeInt (x : VecForm) : Except Illegal Instr :=
  if x.func.extractLsb' 3 2 = 3 then .ok (.sel x.g x.d x.a x.b x.e x.f (x.func.extractLsb' 0 3))
  else
  match x.func.toNat with
  | 0 => .ok (.iadd x.g x.d x.a x.b x.e x.f)
  | 1 => .ok (.isub x.g x.d x.a x.b x.e x.f)
  | 2 => .ok (.imul x.g x.d x.a x.b x.e x.f)
  | 3 => .ok (.imulhI32 x.g x.d x.a x.b x.e x.f)
  | 4 => .ok (.imulhN32 x.g x.d x.a x.b x.e x.f)
  | 5 => .ok (.imad x.g x.d x.a x.b x.e x.f)
  | 6 => .ok (.iminI32 x.g x.d x.a x.b x.e x.f)
  | 7 => .ok (.iminN32 x.g x.d x.a x.b x.e x.f)
  | 8 => .ok (.imaxI32 x.g x.d x.a x.b x.e x.f)
  | 9 => .ok (.imaxN32 x.g x.d x.a x.b x.e x.f)
  | 10 => zeros (x.b == 0 && (!x.f)) (.iabs x.g x.d x.a x.e)
  | 11 => .ok (.andV x.g x.d x.a x.b x.e x.f)
  | 12 => .ok (.orV x.g x.d x.a x.b x.e x.f)
  | 13 => .ok (.xorV x.g x.d x.a x.b x.e x.f)
  | 14 => .ok (.andn x.g x.d x.a x.b x.e x.f)
  | 15 => .ok (.shl x.g x.d x.a x.b x.e x.f)
  | 16 => .ok (.shr x.g x.d x.a x.b x.e x.f)
  | 17 => .ok (.sar x.g x.d x.a x.b x.e x.f)
  | 18 => zeros (x.b == 0 && (!x.f)) (.popc x.g x.d x.a x.e)
  | 19 => zeros (x.b == 0 && (!x.f)) (.clz x.g x.d x.a x.e)
  | 20 => zeros (x.b == 0 && (!x.f)) (.brev x.g x.d x.a x.e)
  | 21 => zeros (x.b == 0 && (!x.f)) (.mov x.g x.d x.a x.e)
  | 22 => .ok (.lea x.g x.d x.a x.b x.e x.f)
  | _ => .error .reservedFunc

/-- Major 0x07 (R154). -/
def decodeInt64 (x : VecForm) : Except Illegal Instr :=
  if x.func.getLsbD 4 then predOf x.d >>= fun d => codeOf (Cond.ofBits (x.func.extractLsb' 0 4)) >>= fun c => .ok (.icmp x.g d x.a x.b x.e x.f c)
  else
  if x.func.extractLsb' 2 3 = 1 then .ok (.leaShift x.g x.d x.a x.b x.e x.f (x.func.extractLsb' 0 2))
  else
  match x.func.toNat with
  | 0 => .ok (.iadd64 x.g x.d x.a x.b x.e x.f)
  | 1 => .ok (.isub64 x.g x.d x.a x.b x.e x.f)
  | 2 => .ok (.imulwI32 x.g x.d x.a x.b x.e x.f)
  | 3 => .ok (.imulwN32 x.g x.d x.a x.b x.e x.f)
  | _ => .error .reservedFunc

/-- Funcs 0 to 14 of majors 0x08 to 0x0B (R132). -/
def decodeFloat (r : RndField) (x : VecForm) : Except Illegal Instr :=
  match x.func.toNat with
  | 0 => .ok (.fadd r x.g x.d x.a x.b x.e x.f)
  | 1 => .ok (.fsub r x.g x.d x.a x.b x.e x.f)
  | 2 => .ok (.fmul r x.g x.d x.a x.b x.e x.f)
  | 3 => .ok (.ffma r x.g x.d x.a x.b x.e x.f)
  | 4 => zeros (x.b == 0 && (!x.f)) (.frcp r x.g x.d x.a x.e)
  | 5 => zeros (x.b == 0 && (!x.f)) (.frsq r x.g x.d x.a x.e)
  | 6 => zeros (x.b == 0 && (!x.f)) (.fsqrt r x.g x.d x.a x.e)
  | 7 => zeros (x.b == 0 && (!x.f)) (.fexp2 r x.g x.d x.a x.e)
  | 8 => zeros (x.b == 0 && (!x.f)) (.flog2 r x.g x.d x.a x.e)
  | 9 => zeros (x.b == 0 && (!x.f)) (.fsin r x.g x.d x.a x.e)
  | 10 => zeros (x.b == 0 && (!x.f)) (.fcos r x.g x.d x.a x.e)
  | 11 => zeros (x.b == 0 && (!x.f)) (.frint r x.g x.d x.a x.e)
  | 12 => .ok (.hfma2 r x.g x.d x.a x.b x.e x.f)
  | 13 => .ok (.hadd2 r x.g x.d x.a x.b x.e x.f)
  | 14 => .ok (.hmul2 r x.g x.d x.a x.b x.e x.f)
  | _ => .error .reservedFunc

/-- Funcs 16 to 31 of major 0x08, which take no rounding (R132). -/
def decodeFloatExact (x : VecForm) : Except Illegal Instr :=
  if x.func.extractLsb' 3 2 = 3 then predOf x.d >>= fun d => .ok (.fcmp x.g d x.a x.b x.e x.f (FCond.ofBits (x.func.extractLsb' 0 3)))
  else
  match x.func.toNat with
  | 16 => .ok (.fmin x.g x.d x.a x.b x.e x.f)
  | 17 => .ok (.fmax x.g x.d x.a x.b x.e x.f)
  | 18 => zeros (x.b == 0 && (!x.f)) (.fneg x.g x.d x.a x.e)
  | 19 => zeros (x.b == 0 && (!x.f)) (.fabs x.g x.d x.a x.e)
  | 20 => zeros (x.b == 0 && (!x.f)) (.fclass x.g x.d x.a x.e)
  | _ => .error .reservedFunc

/-- Major 0x0D (R163). -/
def decodePart (x : PartForm) : Except Illegal Instr :=
  match x.op.toNat with
  | 0 => codeOf (TypeCode.ofBits x.t) >>= fun t => .ok (.cvtn x.g x.d x.a x.e (RndField.ofBits x.rnd) x.part t)
  | 1 => codeOf (TypeCode.ofBits x.t) >>= fun t => zeros (x.rnd == 0) (.cvtPart x.g x.d x.a x.e x.part t)
  | 2 => codeOf (TypeCode.ofBits x.t) >>= fun t => zeros (x.rnd == 0 && x.part == 0) (.bxq x.g x.d x.a x.e t)
  | 3 => codeOf (TypeCode.ofBits x.t) >>= fun t => zeros (x.rnd == 0 && x.part == 0) (.bxd x.g x.d x.a x.e t)
  | _ => .error .reservedFunc

/-- Major 0x0E (R166). -/
def decodePred (x : VecForm) : Except Illegal Instr :=
  match x.func.toNat with
  | 0 => predOf x.d >>= fun d => predOf x.a >>= fun a => predOf x.b >>= fun b => .ok (.pand x.g d a b x.e x.f)
  | 1 => predOf x.d >>= fun d => predOf x.a >>= fun a => predOf x.b >>= fun b => .ok (.por x.g d a b x.e x.f)
  | 2 => predOf x.d >>= fun d => predOf x.a >>= fun a => predOf x.b >>= fun b => .ok (.pxor x.g d a b x.e x.f)
  | 3 => predOf x.d >>= fun d => predOf x.a >>= fun a => zeros (x.b == 0 && (!x.f)) (.pnot x.g d a x.e)
  | 4 => predOf x.d >>= fun d => zeros (x.b == 0 && (!x.f)) (.pset x.g d x.a x.e)
  | 5 => predOf x.a >>= fun a => zeros (x.b == 0 && (!x.f)) (.pget x.g x.d a x.e)
  | _ => .error .reservedFunc

/-- Major 0x0F (R133). -/
def decodeCross (x : VecForm) : Except Illegal Instr :=
  match x.func.toNat with
  | 0 => .ok (.reduceAddI32 x.g x.d x.a x.b x.e x.f)
  | 1 => .ok (.reduceMinI32 x.g x.d x.a x.b x.e x.f)
  | 2 => .ok (.reduceMinN32 x.g x.d x.a x.b x.e x.f)
  | 3 => .ok (.reduceMaxI32 x.g x.d x.a x.b x.e x.f)
  | 4 => .ok (.reduceMaxN32 x.g x.d x.a x.b x.e x.f)
  | 5 => .ok (.reduceAnd x.g x.d x.a x.b x.e x.f)
  | 6 => .ok (.reduceOr x.g x.d x.a x.b x.e x.f)
  | 7 => .ok (.reduceXor x.g x.d x.a x.b x.e x.f)
  | 8 => .ok (.reduceMinF32 x.g x.d x.a x.b x.e x.f)
  | 9 => .ok (.reduceMaxF32 x.g x.d x.a x.b x.e x.f)
  | 10 => .ok (.reduceAddF32Rz x.g x.d x.a x.b x.e x.f)
  | 11 => .ok (.reduceAddF32Hint x.g x.d x.a x.b x.e x.f)
  | 12 => .ok (.reduceAddF32 x.g x.d x.a x.b x.e x.f)
  | 13 => .ok (.reduceAddF32Rn x.g x.d x.a x.b x.e x.f)
  | 14 => .ok (.scanAddI32 x.g x.d x.a x.b x.e x.f)
  | 15 => .ok (.scanMinI32 x.g x.d x.a x.b x.e x.f)
  | 16 => .ok (.scanMaxI32 x.g x.d x.a x.b x.e x.f)
  | 17 => .ok (.scanAddF32Rn x.g x.d x.a x.b x.e x.f)
  | 18 => .ok (.scanAddF32Rz x.g x.d x.a x.b x.e x.f)
  | 19 => .ok (.scanAddF32Hint x.g x.d x.a x.b x.e x.f)
  | 20 => .ok (.scanAddF32 x.g x.d x.a x.b x.e x.f)
  | 21 => predOf x.a >>= fun a => zeros ((!x.f)) (.voteAny x.g x.d a x.b x.e)
  | 22 => predOf x.a >>= fun a => zeros ((!x.f)) (.voteAll x.g x.d a x.b x.e)
  | 23 => predOf x.a >>= fun a => zeros ((!x.f)) (.voteCnt x.g x.d a x.b x.e)
  | 24 => zeros (x.b == 0 && (!x.f)) (.matchV x.g x.d x.a x.e)
  | 25 => .ok (.bcast x.g x.d x.a x.b x.e x.f)
  | 26 => .ok (.v2s x.g x.d x.a x.b x.e x.f)
  | 27 => zeros (x.b == 0 && (!x.f)) (.s2v x.g x.d x.a x.e)
  | 28 => onceOf x.g >>= fun g => zeros (x.d == 0 && x.a == 0 && x.b == 0 && (!x.e) && (!x.f)) (.pack g)
  | 29 => onceOf x.g >>= fun g => zeros (x.b == 0 && (!x.f)) (.regroup g x.d x.a x.e)
  | _ => .error .reservedFunc

/-- Major 0x20 (R134). -/
def decodeScalar (x : ScalForm) : Except Illegal Instr :=
  if x.func = 26 then .ok (.ssel x.d x.a x.b x.e x.f)
  else
  if x.func.extractLsb' 4 5 = 1 then codeOf (Cond.ofBits (x.func.extractLsb' 0 4)) >>= fun c => .ok (.scmp x.d x.a x.b x.e x.f c)
  else
  match x.func.toNat with
  | 0 => .ok (.sadd x.d x.a x.b x.e x.f)
  | 1 => .ok (.ssub x.d x.a x.b x.e x.f)
  | 2 => .ok (.smul x.d x.a x.b x.e x.f)
  | 3 => .ok (.smulhI64 x.d x.a x.b x.e x.f)
  | 4 => .ok (.smulhN64 x.d x.a x.b x.e x.f)
  | 5 => .ok (.sand x.d x.a x.b x.e x.f)
  | 6 => .ok (.sor x.d x.a x.b x.e x.f)
  | 7 => .ok (.sxor x.d x.a x.b x.e x.f)
  | 8 => .ok (.sshl x.d x.a x.b x.e x.f)
  | 9 => .ok (.sshr x.d x.a x.b x.e x.f)
  | 10 => .ok (.ssar x.d x.a x.b x.e x.f)
  | 11 => .ok (.sminI64 x.d x.a x.b x.e x.f)
  | 12 => .ok (.sminN64 x.d x.a x.b x.e x.f)
  | 13 => .ok (.smaxI64 x.d x.a x.b x.e x.f)
  | 14 => .ok (.smaxN64 x.d x.a x.b x.e x.f)
  | 15 => zeros (x.b == 0 && (!x.f)) (.smov x.d x.a x.e)
  | _ => .error .reservedFunc

/-- Major 0x2A (R135). -/
def decodeControl (x : ScalForm) : Except Illegal Instr :=
  match x.func.toNat with
  | 0 => zeros (x.d == 0 && x.a == 0 && x.b == 0 && (!x.e) && (!x.f)) .nop
  | 1 => tileOf x.b >>= fun w => zeros (x.d == 0 && x.a == 0 && (!x.e) && (!x.f)) (.join w)
  | 2 => zeros (x.d == 0 && (!x.f)) (.calli x.a x.b x.e)
  | 3 => zeros (x.d == 0 && x.a == 0 && x.b == 0 && (!x.e) && (!x.f)) .ret
  | 4 => zeros (x.d == 0 && x.a == 0 && x.b == 0 && (!x.e) && (!x.f)) .yield
  | 5 => zeros (x.d == 0 && x.a == 0 && x.b == 0 && (!x.e) && (!x.f)) .endP
  | _ => .error .reservedFunc

/-- Major 0x3E (R298). -/
def decodeTrapOp (x : ScalForm) : Except Illegal Instr :=
  match x.func.toNat with
  | 0 => zeros (x.d == 0 && (!x.f)) (.trap x.a x.b x.e)
  | 1 => zeros (x.d == 0 && x.b == 0 && (!x.f)) (.rft x.a x.e)
  | 2 => zeros (x.d == 0 && x.a == 0 && x.b == 0 && (!x.e) && (!x.f)) .ifence
  | 3 => zeros (x.d == 0 && x.a == 0 && (!x.e) && (!x.f)) (.bkpt x.b)
  | 4 => zeros (x.d == 0 && x.a == 0 && x.b == 0 && (!x.e) && (!x.f)) .halt
  | 5 => if x.b.extractLsb' 3 2 = 1 then zeros (x.a == 0 && (!x.e) && (!x.f)) (.pfixDrop x.d (x.b.extractLsb' 0 3)) else predOf x.b >>= fun i => zeros (x.a == 0 && (!x.e) && (!x.f)) (.pfix x.d i)
  | 6 => zeros (x.d == 0 && x.b == 0 && (!x.f)) (.ctxsv x.a x.e)
  | 7 => if x.b = 0 then zeros (x.b == 0 && (!x.f)) (.ctxld x.d x.a x.e) else zeros (x.b == 1 && (!x.f)) (.ctxldKill x.d x.a x.e)
  | _ => .error .reservedFunc

/-- Major 0x04 (R152): imm11[6:5] selects the shift. -/
def decodeShiftImm (x : VecImmForm) : Except Illegal Instr :=
  if x.imm.extractLsb' 7 4 ≠ 0 then .error .nonzeroField
  else
  match (x.imm.extractLsb' 5 2).toNat with
  | 0 => .ok (.shlImm x.g x.d x.a x.e (x.imm.extractLsb' 0 5))
  | 1 => .ok (.shrImm x.g x.d x.a x.e (x.imm.extractLsb' 0 5))
  | 2 => .ok (.sarImm x.g x.d x.a x.e (x.imm.extractLsb' 0 5))
  | _ => .error .reservedFunc

/-- Major 0x23 (R168): imm16[7:6] selects the shift. -/
def decodeScalarShift (x : ScalImmForm) : Except Illegal Instr :=
  if x.imm.extractLsb' 8 8 ≠ 0 then .error .nonzeroField
  else
  match (x.imm.extractLsb' 6 2).toNat with
  | 0 => .ok (.sshlImm x.d x.a (x.imm.extractLsb' 0 6))
  | 1 => .ok (.sshrImm x.d x.a (x.imm.extractLsb' 0 6))
  | 2 => .ok (.ssarImm x.d x.a (x.imm.extractLsb' 0 6))
  | _ => .error .reservedFunc

/-- Major 0x2E (R136, R199): the va field is the sub-op. -/
def decodeScalarMem (x : MemForm) : Except Illegal Instr :=
  match x.a.toNat with
  | 0 => onceOf x.g >>= fun g => codeOf (MemSize.ofBits x.z) >>= fun z => zeros (x.a == 0) (.lds g x.d x.b x.e z x.o)
  | 1 => onceOf x.g >>= fun g => codeOf (MemSize.ofBits x.z) >>= fun z => zeros (x.a == 1) (.sts g x.d x.b x.e z x.o)
  | 2 => onceOf x.g >>= fun g => zeros (x.a == 2 && x.z == 0) (.home g x.d x.b x.e x.o)
  | 3 => if x.b = 1 then onceOf x.g >>= fun g => zeros (x.a == 3 && x.b == 1 && (!x.e) && x.z == 0) (.ptabFail g x.d x.o) else onceOf x.g >>= fun g => zeros (x.a == 3 && x.b == 0 && (!x.e) && x.z == 0) (.ptab g x.d x.o)
  | 4 => onceOf x.g >>= fun g => zeros (x.d == 0 && x.a == 4 && x.b == 0 && (!x.e) && x.z == 0 && x.o == 0) (.fence g)
  | _ => .error .reservedFunc

/-- The barrier group of major 0x35 (R137, R212). -/
def decodeBarrier (x : MemForm) : Except Illegal Instr :=
  match x.z.toNat with
  | 0 => onceOf x.g >>= fun g => zeros (x.d == 0 && x.a == 0 && x.b == 0 && (!x.e) && x.z == 0 && x.o == 7) (.pstep g)
  | 1 => if x.d.getLsbD 0 || x.a.extractLsb' 0 2 != 0 then .error .nonzeroField else onceOf x.g >>= fun g => codeOf (Scope.ofBits (x.a.extractLsb' 2 3)) >>= fun s => zeros (x.b == 0 && (!x.e) && x.z == 1 && x.o == 7) (.bar g (x.d.extractLsb' 1 4) s)
  | 2 => if x.d.getLsbD 0 || x.a.extractLsb' 0 2 != 0 then .error .nonzeroField else onceOf x.g >>= fun g => codeOf (Scope.ofBits (x.a.extractLsb' 2 3)) >>= fun s => zeros (x.b == 0 && (!x.e) && x.z == 2 && x.o == 7) (.bara g (x.d.extractLsb' 1 4) s)
  | 3 => if x.d.getLsbD 0 || x.a.extractLsb' 0 2 != 0 then .error .nonzeroField else onceOf x.g >>= fun g => codeOf (Scope.ofBits (x.a.extractLsb' 2 3)) >>= fun s => zeros (x.b == 0 && (!x.e) && x.z == 3 && x.o == 7) (.barw g (x.d.extractLsb' 1 4) s)
  | _ => .error .reservedFunc

/-- Major 0x36 (R218). -/
def decodeTile (x : VecForm) : Except Illegal Instr :=
  match x.func.toNat with
  | 0 => onceOf x.g >>= fun g => tileOf x.d >>= fun t => zeros (x.b == 0 && (!x.f)) (.tcfg g t x.a x.e)
  | 1 => onceOf x.g >>= fun g => tileOf x.d >>= fun t => .ok (.tld g t x.a x.b x.e x.f)
  | 2 => onceOf x.g >>= fun g => tileOf x.d >>= fun t => .ok (.tst g t x.a x.b x.e x.f)
  | 3 => onceOf x.g >>= fun g => tileOf x.d >>= fun t => zeros (x.a == 0 && x.b == 0 && (!x.e) && (!x.f)) (.tzero g t)
  | 4 => onceOf x.g >>= fun g => tileOf x.d >>= fun t => zeros (x.b == 0 && (!x.f)) (.wld g t x.a x.e)
  | _ => .error .reservedFunc

/-- Major 0x38 (R218). -/
def decodeAccum (x : VecForm) : Except Illegal Instr :=
  match x.func.toNat with
  | 0 => onceOf x.g >>= fun g => zeros (x.a == 0 && x.b == 0 && (!x.e) && (!x.f)) (.mbatch g x.d)
  | 1 => onceOf x.g >>= fun g => zeros (x.d == 0 && x.b == 0 && (!x.f)) (.mwait g x.a x.e)
  | 2 => onceOf x.g >>= fun g => zeros (x.a == 0 && (!x.e) && (!x.f)) (.accget g x.d x.b)
  | 3 => onceOf x.g >>= fun g => zeros (x.d == 0 && x.a == 0 && x.b == 0 && (!x.e) && (!x.f)) (.accput g)
  | 4 => onceOf x.g >>= fun g => predOf x.d >>= fun a => zeros (x.a == 0 && x.b == 0 && (!x.e) && (!x.f)) (.acq g a)
  | 5 => onceOf x.g >>= fun g => predOf x.d >>= fun a => zeros (x.a == 0 && x.b == 0 && (!x.e) && (!x.f)) (.rel g a)
  | 6 => predOf x.a >>= fun a => zeros ((!x.e)) (.accrd x.g x.d a x.b x.f)
  | 7 => predOf x.a >>= fun a => zeros ((!x.e)) (.accrd4 x.g x.d a x.b x.f)
  | 8 => predOf x.d >>= fun a => .ok (.accwr x.g a x.a x.b x.e x.f)
  | 9 => predOf x.d >>= fun a => .ok (.accwr4 x.g a x.a x.b x.e x.f)
  | _ => .error .reservedFunc

/-- Major 0x39 (R238). -/
def decodeHandle (x : HandForm) : Except Illegal Instr :=
  match x.func.toNat with
  | 0 => zeros (x.d == 0 && x.a == 0 && (!x.e)) (.hwait x.h)
  | 1 => zeros (x.h == 0) (.hany x.d x.a x.e)
  | 2 => zeros (x.d == 0 && x.h == 0) (.hall x.a x.e)
  | 3 => zeros (x.h == 0) (.hfirst x.d x.a x.e)
  | 4 => zeros (x.d == 0 && x.a == 0 && (!x.e)) (.hclaim x.h)
  | 5 => zeros (x.d == 0 && x.a == 0 && (!x.e)) (.hfree x.h)
  | 6 => zeros (x.d == 0 && x.h == 0) (.hsig x.a x.e)
  | _ => .error .reservedFunc

/-- Major 0x3A (R242). -/
def decodeMove (x : MoveForm) : Except Illegal Instr :=
  match x.func.toNat with
  | 0 => .ok (.copy x.h x.g x.d)
  | 1 => .ok (.copy2d x.h x.g x.d)
  | 2 => .ok (.gather x.h x.g x.d)
  | 3 => .ok (.scatter x.h x.g x.d)
  | _ => .error .reservedFunc

/-- Major 0x3B (R246). -/
def decodeMoveCtl (x : HandForm) : Except Illegal Instr :=
  match x.func.toNat with
  | 0 => zeros (x.a == 0 && x.h == 0 && (!x.e)) (.mpwait x.d)
  | 1 => zeros (x.d == 0 && (!x.e)) (.hset x.a x.h)
  | 2 => zeros (x.d == 0 && (!x.e)) (.hexp x.a x.h)
  | 3 => zeros (x.d == 0 && x.a == 0 && x.h == 0 && (!x.e)) .mpfence
  | 4 => zeros (x.d == 0 && x.a == 0 && x.h == 0 && (!x.e)) .mpend
  | _ => .error .reservedFunc

/-- Major 0x3C (R139). -/
def decodeTask (x : VecForm) : Except Illegal Instr :=
  match x.func.toNat with
  | 0 => zeros (x.b == 0 && (!x.f)) (.emit x.g x.d x.a x.e)
  | 1 => onceOf x.g >>= fun g => zeros (x.d == 0 && x.b == 0 && (!x.f)) (.depdec g x.a x.e)
  | 2 => predOf x.d >>= fun p => .ok (.qpush x.g p x.a x.b x.e x.f)
  | 3 => zeros (x.a == 0 && (!x.e)) (.qpop x.g x.d x.b x.f)
  | 4 => onceOf x.g >>= fun g => zeros (x.a == 0 && x.b == 0 && (!x.e) && (!x.f)) (.bfork g x.d)
  | 5 => onceOf x.g >>= fun g => zeros (x.d == 0 && x.b == 0 && (!x.f)) (.bforkStamp g x.a x.e)
  | 6 => onceOf x.g >>= fun g => zeros (x.d == 0 && x.b == 0 && (!x.f)) (.bcancel g x.a x.e)
  | 7 => onceOf x.g >>= fun g => zeros (x.b == 0 && (!x.f)) (.chfork g x.d x.a x.e)
  | 8 => .ok (.chapp x.g x.d x.a x.b x.e x.f)
  | 9 => onceOf x.g >>= fun g => zeros (x.d == 0 && x.b == 0 && (!x.f)) (.chrel g x.a x.e)
  | _ => .error .reservedFunc

/-- Major 0x3D (R127, R299). -/
def decodeSpecial (x : SpecForm) : Except Illegal Instr :=
  match x.op.toNat with
  | 0 => codeOf (Special.ofBits x.n) >>= fun n => zeros ((!x.e) && x.z == 0) (.srd x.r n)
  | 1 => codeOf (Special.ofBits x.n) >>= fun n => zeros (x.z == 0) (.swr x.r x.e n)
  | 2 => zeros ((!x.e) && x.z == 0 && x.n == 1) (.srdVector x.r)
  | _ => .error .reservedFunc

/-- Major 0x3F (R123). -/
def decodeHint (x : HintForm) : Except Illegal Instr :=
  match x.kind.toNat with
  | 0 => .ok (.hintImm x.p)
  | 1 => if x.p.extractLsb' 2 21 ≠ 0 then .error .nonzeroField else .ok (.hintRnd (Dir.ofBits (x.p.extractLsb' 0 2)))
  | 2 => .ok (.hintSched x.p)
  | 3 => if x.p.extractLsb' 4 19 ≠ 0 then .error .nonzeroField else codeOf (TypeCode.ofBits (x.p.extractLsb' 0 4)) >>= fun t => .ok (.hintFmt t)
  | _ => .error .reservedFunc

/-- The instruction of a word by its fields alone: the major fixes the format (R114, R131). -/
def decodeRaw (w : Word) : Except Illegal Instr :=
  match (w.extractLsb' 26 6).toNat with
  | 1 => decodeInt (.unpack w)
  | 2 => let x := VecImmForm.unpack w; .ok (.iaddImm x.g x.d x.a x.e x.imm)
  | 3 => let x := VecImmForm.unpack w; .ok (.imulImm x.g x.d x.a x.e x.imm)
  | 4 => decodeShiftImm (.unpack w)
  | 5 => let x := VecImmForm.unpack w; if x.imm.getLsbD 10 then .ok (.bfi x.g x.d x.a x.e (x.imm.extractLsb' 5 5) (x.imm.extractLsb' 0 5)) else .ok (.bfe x.g x.d x.a x.e (x.imm.extractLsb' 5 5) (x.imm.extractLsb' 0 5))
  | 6 => let x := VecImmForm.unpack w; zeros (x.a == 0 && (!x.e)) (.movi x.g x.d x.imm)
  | 7 => decodeInt64 (.unpack w)
  | 8 => if (w.extractLsb' 0 5).toNat < 16 then decodeFloat .mode (.unpack w) else decodeFloatExact (.unpack w)
  | 9 => decodeFloat .near (.unpack w)
  | 10 => decodeFloat .zero (.unpack w)
  | 11 => decodeFloat .hint (.unpack w)
  | 12 => let x := CvtForm.unpack w; codeOf (TypeCode.ofBits x.t) >>= fun t => codeOf (TypeCode.ofBits x.s) >>= fun s => zeros ((!x.z)) (.cvt x.g x.d x.a x.e (RndField.ofBits x.rnd) t s)
  | 13 => decodePart (.unpack w)
  | 14 => decodePred (.unpack w)
  | 15 => decodeCross (.unpack w)
  | 16 => let x := VecForm.unpack w; .ok (.shfl x.g x.d x.a x.b x.e x.f (ShflMode.ofBits (x.func.extractLsb' 3 2)) (x.func.extractLsb' 0 3))
  | 32 => decodeScalar (.unpack w)
  | 33 => let x := ScalImmForm.unpack w; .ok (.saddi x.d x.a x.imm)
  | 34 => let x := UpperForm.unpack w; zeros ((!x.z)) (.slih x.d x.imm)
  | 35 => decodeScalarShift (.unpack w)
  | 38 => let x := BranchForm.unpack w; if x.w = 0 then onceOf x.g >>= fun g => zeros (x.w == 0) (.bra g x.o) else if x.w = 1 then zeros (x.w == 1) (.bru x.g x.o) else .error .reservedFunc
  | 39 => let x := BranchForm.unpack w; .ok (.brc x.g x.w x.o)
  | 40 => let x := CallForm.unpack w; zeros (x.z == 0) (.call x.d x.o)
  | 41 => let x := CallForm.unpack w; zeros (x.z == 0) (.loop x.d x.o)
  | 42 => decodeControl (.unpack w)
  | 43 => let x := ScalImmForm.unpack w; .ok (.width x.d x.a x.imm)
  | 44 => let x := MemForm.unpack w; codeOf (MemSize.ofBits x.z) >>= fun z => .ok (.ld x.g x.d x.a x.b x.e z x.o)
  | 45 => let x := MemForm.unpack w; codeOf (MemSize.ofBits x.z) >>= fun z => .ok (.st x.g x.d x.a x.b x.e z x.o)
  | 46 => decodeScalarMem (.unpack w)
  | 47 => let x := MemForm.unpack w; codeOf (MemSize.ofBits x.z) >>= fun z => .ok (.stp x.g x.d x.a x.b x.e z x.o)
  | 48 => let x := MemForm.unpack w; codeOf (AtomType.ofBits x.o) >>= fun t => .ok (.atm x.g x.d x.a x.b x.e (AtomOp.ofBits x.z) t)
  | 49 => let x := MemForm.unpack w; if x.z.extractLsb' 1 2 = 3 then .ok (.atpVadd x.g x.d x.a x.b x.e (x.z.getLsbD 0) x.o) else codeOf (AtomType.ofBits x.o) >>= fun t => .ok (.atp x.g x.d x.a x.b x.e (AtomOp.ofBits x.z) t)
  | 51 => let x := MemForm.unpack w; codeOf (MemSize.ofBits x.z) >>= fun z => .ok (.pld x.g x.d x.a x.b x.e z x.o)
  | 52 => let x := MemForm.unpack w; codeOf (MemSize.ofBits x.z) >>= fun z => .ok (.pst x.g x.d x.a x.b x.e z x.o)
  | 53 => let x := MemForm.unpack w; if x.o = 7 then decodeBarrier x else if x.o.getLsbD 2 then .error .badType else .ok (.patm x.g x.d x.a x.b x.e (AtomOp.ofBits x.z) (PatmType.ofBits (x.o.extractLsb' 0 2)))
  | 54 => decodeTile (.unpack w)
  | 55 => let x := VecForm.unpack w; if x.func.getLsbD 0 then predOf x.d >>= fun a => tileOf x.a >>= fun t => codeOf (ActType.ofBits (x.func.extractLsb' 1 4)) >>= fun k => zeros ((!x.e)) (.mmas x.g a t x.b x.f k) else predOf x.d >>= fun a => tileOf x.a >>= fun t => codeOf (ActType.ofBits (x.func.extractLsb' 1 4)) >>= fun k => zeros (x.b == 0 && (!x.e) && (!x.f)) (.mma x.g a t k)
  | 56 => decodeAccum (.unpack w)
  | 57 => decodeHandle (.unpack w)
  | 58 => decodeMove (.unpack w)
  | 59 => decodeMoveCtl (.unpack w)
  | 60 => decodeTask (.unpack w)
  | 61 => decodeSpecial (.unpack w)
  | 62 => decodeTrapOp (.unpack w)
  | 63 => decodeHint (.unpack w)
  | _ => .error .reservedMajor

/-- The decoder: the word's instruction, or why the word is illegal at decode whatever the state (R121 step 1). -/
def decode (w : Word) : Except Illegal Instr :=
  match decodeRaw w with
  | .error e => .error e
  | .ok i =>
    match wfReason i with
    | none => .ok i
    | some e => .error e

/-- A little-endian 32-bit word from its first four bytes (R9, R114). -/
def wordOfBytes : List Byte → Option (Word × List Byte)
  | b0 :: b1 :: b2 :: b3 :: rest => some (b3 ++ b2 ++ b1 ++ b0, rest)
  | _ => none

/-- The instruction at the head of a list of bytes, with the bytes after it. -/
def decodeBytes (bs : List Byte) : Except Illegal (Instr × List Byte) :=
  match wordOfBytes bs with
  | none => .error .shortWord
  | some (w, rest) =>
    match decode w with
    | .ok i => .ok (i, rest)
    | .error e => .error e

/-- The four bytes of a word, least significant first (R9, R114). -/
def bytesOfWord (w : Word) : List Byte :=
  [w.extractLsb' 0 8, w.extractLsb' 8 8, w.extractLsb' 16 8, w.extractLsb' 24 8]

/-- The word of an instruction; none for an event or command, which has no encoding. -/
def encode : Instr → Option Word
  | .iadd g d a b e f => some (VecForm.pack 1 ⟨g, d, a, b, e, f, 0#5⟩)
  | .isub g d a b e f => some (VecForm.pack 1 ⟨g, d, a, b, e, f, 1#5⟩)
  | .imul g d a b e f => some (VecForm.pack 1 ⟨g, d, a, b, e, f, 2#5⟩)
  | .imulhI32 g d a b e f => some (VecForm.pack 1 ⟨g, d, a, b, e, f, 3#5⟩)
  | .imulhN32 g d a b e f => some (VecForm.pack 1 ⟨g, d, a, b, e, f, 4#5⟩)
  | .imad g d a b e f => some (VecForm.pack 1 ⟨g, d, a, b, e, f, 5#5⟩)
  | .iminI32 g d a b e f => some (VecForm.pack 1 ⟨g, d, a, b, e, f, 6#5⟩)
  | .iminN32 g d a b e f => some (VecForm.pack 1 ⟨g, d, a, b, e, f, 7#5⟩)
  | .imaxI32 g d a b e f => some (VecForm.pack 1 ⟨g, d, a, b, e, f, 8#5⟩)
  | .imaxN32 g d a b e f => some (VecForm.pack 1 ⟨g, d, a, b, e, f, 9#5⟩)
  | .iabs g d a e => some (VecForm.pack 1 ⟨g, d, a, 0#5, e, false, 10#5⟩)
  | .andV g d a b e f => some (VecForm.pack 1 ⟨g, d, a, b, e, f, 11#5⟩)
  | .orV g d a b e f => some (VecForm.pack 1 ⟨g, d, a, b, e, f, 12#5⟩)
  | .xorV g d a b e f => some (VecForm.pack 1 ⟨g, d, a, b, e, f, 13#5⟩)
  | .andn g d a b e f => some (VecForm.pack 1 ⟨g, d, a, b, e, f, 14#5⟩)
  | .shl g d a b e f => some (VecForm.pack 1 ⟨g, d, a, b, e, f, 15#5⟩)
  | .shr g d a b e f => some (VecForm.pack 1 ⟨g, d, a, b, e, f, 16#5⟩)
  | .sar g d a b e f => some (VecForm.pack 1 ⟨g, d, a, b, e, f, 17#5⟩)
  | .popc g d a e => some (VecForm.pack 1 ⟨g, d, a, 0#5, e, false, 18#5⟩)
  | .clz g d a e => some (VecForm.pack 1 ⟨g, d, a, 0#5, e, false, 19#5⟩)
  | .brev g d a e => some (VecForm.pack 1 ⟨g, d, a, 0#5, e, false, 20#5⟩)
  | .mov g d a e => some (VecForm.pack 1 ⟨g, d, a, 0#5, e, false, 21#5⟩)
  | .lea g d a b e f => some (VecForm.pack 1 ⟨g, d, a, b, e, f, 22#5⟩)
  | .sel g d a b e f p => some (VecForm.pack 1 ⟨g, d, a, b, e, f, (3#2 ++ p)⟩)
  | .iaddImm g d a e i => some (VecImmForm.pack 2 ⟨g, d, a, e, i⟩)
  | .imulImm g d a e i => some (VecImmForm.pack 3 ⟨g, d, a, e, i⟩)
  | .shlImm g d a e n => some (VecImmForm.pack 4 ⟨g, d, a, e, (0#6 ++ n)⟩)
  | .shrImm g d a e n => some (VecImmForm.pack 4 ⟨g, d, a, e, (1#6 ++ n)⟩)
  | .sarImm g d a e n => some (VecImmForm.pack 4 ⟨g, d, a, e, (2#6 ++ n)⟩)
  | .bfe g d a e p l => some (VecImmForm.pack 5 ⟨g, d, a, e, (0#1 ++ p ++ l)⟩)
  | .bfi g d a e p l => some (VecImmForm.pack 5 ⟨g, d, a, e, (1#1 ++ p ++ l)⟩)
  | .movi g d i => some (VecImmForm.pack 6 ⟨g, d, 0#5, false, i⟩)
  | .iadd64 g d a b e f => some (VecForm.pack 7 ⟨g, d, a, b, e, f, 0#5⟩)
  | .isub64 g d a b e f => some (VecForm.pack 7 ⟨g, d, a, b, e, f, 1#5⟩)
  | .imulwI32 g d a b e f => some (VecForm.pack 7 ⟨g, d, a, b, e, f, 2#5⟩)
  | .imulwN32 g d a b e f => some (VecForm.pack 7 ⟨g, d, a, b, e, f, 3#5⟩)
  | .leaShift g d a b e f s => some (VecForm.pack 7 ⟨g, d, a, b, e, f, (1#3 ++ s)⟩)
  | .icmp g d a b e f c => some (VecForm.pack 7 ⟨g, field3 d, a, b, e, f, (1#1 ++ c.bits)⟩)
  | .fadd r g d a b e f => some (VecForm.pack (2#4 ++ r.bits) ⟨g, d, a, b, e, f, 0#5⟩)
  | .fsub r g d a b e f => some (VecForm.pack (2#4 ++ r.bits) ⟨g, d, a, b, e, f, 1#5⟩)
  | .fmul r g d a b e f => some (VecForm.pack (2#4 ++ r.bits) ⟨g, d, a, b, e, f, 2#5⟩)
  | .ffma r g d a b e f => some (VecForm.pack (2#4 ++ r.bits) ⟨g, d, a, b, e, f, 3#5⟩)
  | .frcp r g d a e => some (VecForm.pack (2#4 ++ r.bits) ⟨g, d, a, 0#5, e, false, 4#5⟩)
  | .frsq r g d a e => some (VecForm.pack (2#4 ++ r.bits) ⟨g, d, a, 0#5, e, false, 5#5⟩)
  | .fsqrt r g d a e => some (VecForm.pack (2#4 ++ r.bits) ⟨g, d, a, 0#5, e, false, 6#5⟩)
  | .fexp2 r g d a e => some (VecForm.pack (2#4 ++ r.bits) ⟨g, d, a, 0#5, e, false, 7#5⟩)
  | .flog2 r g d a e => some (VecForm.pack (2#4 ++ r.bits) ⟨g, d, a, 0#5, e, false, 8#5⟩)
  | .fsin r g d a e => some (VecForm.pack (2#4 ++ r.bits) ⟨g, d, a, 0#5, e, false, 9#5⟩)
  | .fcos r g d a e => some (VecForm.pack (2#4 ++ r.bits) ⟨g, d, a, 0#5, e, false, 10#5⟩)
  | .frint r g d a e => some (VecForm.pack (2#4 ++ r.bits) ⟨g, d, a, 0#5, e, false, 11#5⟩)
  | .hfma2 r g d a b e f => some (VecForm.pack (2#4 ++ r.bits) ⟨g, d, a, b, e, f, 12#5⟩)
  | .hadd2 r g d a b e f => some (VecForm.pack (2#4 ++ r.bits) ⟨g, d, a, b, e, f, 13#5⟩)
  | .hmul2 r g d a b e f => some (VecForm.pack (2#4 ++ r.bits) ⟨g, d, a, b, e, f, 14#5⟩)
  | .fmin g d a b e f => some (VecForm.pack 8 ⟨g, d, a, b, e, f, 16#5⟩)
  | .fmax g d a b e f => some (VecForm.pack 8 ⟨g, d, a, b, e, f, 17#5⟩)
  | .fneg g d a e => some (VecForm.pack 8 ⟨g, d, a, 0#5, e, false, 18#5⟩)
  | .fabs g d a e => some (VecForm.pack 8 ⟨g, d, a, 0#5, e, false, 19#5⟩)
  | .fclass g d a e => some (VecForm.pack 8 ⟨g, d, a, 0#5, e, false, 20#5⟩)
  | .fcmp g d a b e f c => some (VecForm.pack 8 ⟨g, field3 d, a, b, e, f, (3#2 ++ c.bits)⟩)
  | .cvt g d a e r t s => some (CvtForm.pack 12 ⟨g, d, a, e, r.bits, t.bits, s.bits, false⟩)
  | .cvtn g d a e r p t => some (PartForm.pack 13 ⟨g, d, a, e, r.bits, p, t.bits, 0#3⟩)
  | .cvtPart g d a e p t => some (PartForm.pack 13 ⟨g, d, a, e, 0#2, p, t.bits, 1#3⟩)
  | .bxq g d a e t => some (PartForm.pack 13 ⟨g, d, a, e, 0#2, 0#2, t.bits, 2#3⟩)
  | .bxd g d a e t => some (PartForm.pack 13 ⟨g, d, a, e, 0#2, 0#2, t.bits, 3#3⟩)
  | .pand g d a b e f => some (VecForm.pack 14 ⟨g, field3 d, field3 a, field3 b, e, f, 0#5⟩)
  | .por g d a b e f => some (VecForm.pack 14 ⟨g, field3 d, field3 a, field3 b, e, f, 1#5⟩)
  | .pxor g d a b e f => some (VecForm.pack 14 ⟨g, field3 d, field3 a, field3 b, e, f, 2#5⟩)
  | .pnot g d a e => some (VecForm.pack 14 ⟨g, field3 d, field3 a, 0#5, e, false, 3#5⟩)
  | .pset g d a e => some (VecForm.pack 14 ⟨g, field3 d, a, 0#5, e, false, 4#5⟩)
  | .pget g d a e => some (VecForm.pack 14 ⟨g, d, field3 a, 0#5, e, false, 5#5⟩)
  | .reduceAddI32 g d a b e f => some (VecForm.pack 15 ⟨g, d, a, b, e, f, 0#5⟩)
  | .reduceMinI32 g d a b e f => some (VecForm.pack 15 ⟨g, d, a, b, e, f, 1#5⟩)
  | .reduceMinN32 g d a b e f => some (VecForm.pack 15 ⟨g, d, a, b, e, f, 2#5⟩)
  | .reduceMaxI32 g d a b e f => some (VecForm.pack 15 ⟨g, d, a, b, e, f, 3#5⟩)
  | .reduceMaxN32 g d a b e f => some (VecForm.pack 15 ⟨g, d, a, b, e, f, 4#5⟩)
  | .reduceAnd g d a b e f => some (VecForm.pack 15 ⟨g, d, a, b, e, f, 5#5⟩)
  | .reduceOr g d a b e f => some (VecForm.pack 15 ⟨g, d, a, b, e, f, 6#5⟩)
  | .reduceXor g d a b e f => some (VecForm.pack 15 ⟨g, d, a, b, e, f, 7#5⟩)
  | .reduceMinF32 g d a b e f => some (VecForm.pack 15 ⟨g, d, a, b, e, f, 8#5⟩)
  | .reduceMaxF32 g d a b e f => some (VecForm.pack 15 ⟨g, d, a, b, e, f, 9#5⟩)
  | .reduceAddF32Rz g d a b e f => some (VecForm.pack 15 ⟨g, d, a, b, e, f, 10#5⟩)
  | .reduceAddF32Hint g d a b e f => some (VecForm.pack 15 ⟨g, d, a, b, e, f, 11#5⟩)
  | .reduceAddF32 g d a b e f => some (VecForm.pack 15 ⟨g, d, a, b, e, f, 12#5⟩)
  | .reduceAddF32Rn g d a b e f => some (VecForm.pack 15 ⟨g, d, a, b, e, f, 13#5⟩)
  | .scanAddI32 g d a b e f => some (VecForm.pack 15 ⟨g, d, a, b, e, f, 14#5⟩)
  | .scanMinI32 g d a b e f => some (VecForm.pack 15 ⟨g, d, a, b, e, f, 15#5⟩)
  | .scanMaxI32 g d a b e f => some (VecForm.pack 15 ⟨g, d, a, b, e, f, 16#5⟩)
  | .scanAddF32Rn g d a b e f => some (VecForm.pack 15 ⟨g, d, a, b, e, f, 17#5⟩)
  | .scanAddF32Rz g d a b e f => some (VecForm.pack 15 ⟨g, d, a, b, e, f, 18#5⟩)
  | .scanAddF32Hint g d a b e f => some (VecForm.pack 15 ⟨g, d, a, b, e, f, 19#5⟩)
  | .scanAddF32 g d a b e f => some (VecForm.pack 15 ⟨g, d, a, b, e, f, 20#5⟩)
  | .voteAny g d a k e => some (VecForm.pack 15 ⟨g, d, field3 a, k, e, false, 21#5⟩)
  | .voteAll g d a k e => some (VecForm.pack 15 ⟨g, d, field3 a, k, e, false, 22#5⟩)
  | .voteCnt g d a k e => some (VecForm.pack 15 ⟨g, d, field3 a, k, e, false, 23#5⟩)
  | .matchV g d a e => some (VecForm.pack 15 ⟨g, d, a, 0#5, e, false, 24#5⟩)
  | .bcast g d a b e f => some (VecForm.pack 15 ⟨g, d, a, b, e, f, 25#5⟩)
  | .v2s g d a b e f => some (VecForm.pack 15 ⟨g, d, a, b, e, f, 26#5⟩)
  | .s2v g d a e => some (VecForm.pack 15 ⟨g, d, a, 0#5, e, false, 27#5⟩)
  | .pack g => some (VecForm.pack 15 ⟨onceGuard g, 0#5, 0#5, 0#5, false, false, 28#5⟩)
  | .regroup g d a e => some (VecForm.pack 15 ⟨onceGuard g, d, a, 0#5, e, false, 29#5⟩)
  | .shfl g d a b e f m p => some (VecForm.pack 16 ⟨g, d, a, b, e, f, (m.bits ++ p)⟩)
  | .sadd d a b e f => some (ScalForm.pack 32 ⟨d, a, b, e, f, 0#9⟩)
  | .ssub d a b e f => some (ScalForm.pack 32 ⟨d, a, b, e, f, 1#9⟩)
  | .smul d a b e f => some (ScalForm.pack 32 ⟨d, a, b, e, f, 2#9⟩)
  | .smulhI64 d a b e f => some (ScalForm.pack 32 ⟨d, a, b, e, f, 3#9⟩)
  | .smulhN64 d a b e f => some (ScalForm.pack 32 ⟨d, a, b, e, f, 4#9⟩)
  | .sand d a b e f => some (ScalForm.pack 32 ⟨d, a, b, e, f, 5#9⟩)
  | .sor d a b e f => some (ScalForm.pack 32 ⟨d, a, b, e, f, 6#9⟩)
  | .sxor d a b e f => some (ScalForm.pack 32 ⟨d, a, b, e, f, 7#9⟩)
  | .sshl d a b e f => some (ScalForm.pack 32 ⟨d, a, b, e, f, 8#9⟩)
  | .sshr d a b e f => some (ScalForm.pack 32 ⟨d, a, b, e, f, 9#9⟩)
  | .ssar d a b e f => some (ScalForm.pack 32 ⟨d, a, b, e, f, 10#9⟩)
  | .sminI64 d a b e f => some (ScalForm.pack 32 ⟨d, a, b, e, f, 11#9⟩)
  | .sminN64 d a b e f => some (ScalForm.pack 32 ⟨d, a, b, e, f, 12#9⟩)
  | .smaxI64 d a b e f => some (ScalForm.pack 32 ⟨d, a, b, e, f, 13#9⟩)
  | .smaxN64 d a b e f => some (ScalForm.pack 32 ⟨d, a, b, e, f, 14#9⟩)
  | .smov d a e => some (ScalForm.pack 32 ⟨d, a, 0#5, e, false, 15#9⟩)
  | .scmp d a b e f c => some (ScalForm.pack 32 ⟨d, a, b, e, f, (1#5 ++ c.bits)⟩)
  | .ssel d a b e f => some (ScalForm.pack 32 ⟨d, a, b, e, f, 26#9⟩)
  | .saddi d a i => some (ScalImmForm.pack 33 ⟨d, a, i⟩)
  | .slih d i => some (UpperForm.pack 34 ⟨d, false, i⟩)
  | .sshlImm d a n => some (ScalImmForm.pack 35 ⟨d, a, (0#10 ++ n)⟩)
  | .sshrImm d a n => some (ScalImmForm.pack 35 ⟨d, a, (1#10 ++ n)⟩)
  | .ssarImm d a n => some (ScalImmForm.pack 35 ⟨d, a, (2#10 ++ n)⟩)
  | .bra g o => some (BranchForm.pack 38 ⟨onceGuard g, 0#4, o⟩)
  | .bru g o => some (BranchForm.pack 38 ⟨g, 1#4, o⟩)
  | .brc g w o => some (BranchForm.pack 39 ⟨g, w, o⟩)
  | .call f o => some (CallForm.pack 40 ⟨f, 0#3, o⟩)
  | .loop n o => some (CallForm.pack 41 ⟨n, 0#3, o⟩)
  | .nop => some (ScalForm.pack 42 ⟨0#5, 0#5, 0#5, false, false, 0#9⟩)
  | .join w => some (ScalForm.pack 42 ⟨0#5, 0#5, field4 w, false, false, 1#9⟩)
  | .calli a f e => some (ScalForm.pack 42 ⟨0#5, a, f, e, false, 2#9⟩)
  | .ret => some (ScalForm.pack 42 ⟨0#5, 0#5, 0#5, false, false, 3#9⟩)
  | .yield => some (ScalForm.pack 42 ⟨0#5, 0#5, 0#5, false, false, 4#9⟩)
  | .endP => some (ScalForm.pack 42 ⟨0#5, 0#5, 0#5, false, false, 5#9⟩)
  | .width d a i => some (ScalImmForm.pack 43 ⟨d, a, i⟩)
  | .ld g d a b e z o => some (MemForm.pack 44 ⟨g, d, a, b, e, z.bits, o⟩)
  | .st g s a b e z o => some (MemForm.pack 45 ⟨g, s, a, b, e, z.bits, o⟩)
  | .lds g d b e z o => some (MemForm.pack 46 ⟨onceGuard g, d, 0#5, b, e, z.bits, o⟩)
  | .sts g s b e z o => some (MemForm.pack 46 ⟨onceGuard g, s, 1#5, b, e, z.bits, o⟩)
  | .home g d b e o => some (MemForm.pack 46 ⟨onceGuard g, d, 2#5, b, e, 0#3, o⟩)
  | .ptab g d i => some (MemForm.pack 46 ⟨onceGuard g, d, 3#5, 0#5, false, 0#3, i⟩)
  | .ptabFail g d i => some (MemForm.pack 46 ⟨onceGuard g, d, 3#5, 1#5, false, 0#3, i⟩)
  | .fence g => some (MemForm.pack 46 ⟨onceGuard g, 0#5, 4#5, 0#5, false, 0#3, 0#3⟩)
  | .stp g s a b e z o => some (MemForm.pack 47 ⟨g, s, a, b, e, z.bits, o⟩)
  | .atm g d a b e o t => some (MemForm.pack 48 ⟨g, d, a, b, e, o.bits, t.bits⟩)
  | .atp g s a b e o t => some (MemForm.pack 49 ⟨g, s, a, b, e, o.bits, t.bits⟩)
  | .atpVadd g s a b e p t => some (MemForm.pack 49 ⟨g, s, a, b, e, (3#2 ++ BitVec.ofBool p), t⟩)
  | .pld g d a b e z o => some (MemForm.pack 51 ⟨g, d, a, b, e, z.bits, o⟩)
  | .pst g s a b e z o => some (MemForm.pack 52 ⟨g, s, a, b, e, z.bits, o⟩)
  | .patm g d a b e o t => some (MemForm.pack 53 ⟨g, d, a, b, e, o.bits, (0#1 ++ t.bits)⟩)
  | .pstep g => some (MemForm.pack 53 ⟨onceGuard g, 0#5, 0#5, 0#5, false, 0#3, 7#3⟩)
  | .bar g i s => some (MemForm.pack 53 ⟨onceGuard g, (i ++ 0#1), (s.bits ++ 0#2), 0#5, false, 1#3, 7#3⟩)
  | .bara g i s => some (MemForm.pack 53 ⟨onceGuard g, (i ++ 0#1), (s.bits ++ 0#2), 0#5, false, 2#3, 7#3⟩)
  | .barw g i s => some (MemForm.pack 53 ⟨onceGuard g, (i ++ 0#1), (s.bits ++ 0#2), 0#5, false, 3#3, 7#3⟩)
  | .tcfg g t y e => some (VecForm.pack 54 ⟨onceGuard g, field4 t, y, 0#5, e, false, 0#5⟩)
  | .tld g t y z e f => some (VecForm.pack 54 ⟨onceGuard g, field4 t, y, z, e, f, 1#5⟩)
  | .tst g t y z e f => some (VecForm.pack 54 ⟨onceGuard g, field4 t, y, z, e, f, 2#5⟩)
  | .tzero g t => some (VecForm.pack 54 ⟨onceGuard g, field4 t, 0#5, 0#5, false, false, 3#5⟩)
  | .wld g t y e => some (VecForm.pack 54 ⟨onceGuard g, field4 t, y, 0#5, e, false, 4#5⟩)
  | .mma g a t k => some (VecForm.pack 55 ⟨g, field3 a, field4 t, 0#5, false, false, (k.bits ++ 0#1)⟩)
  | .mmas g a t v f k => some (VecForm.pack 55 ⟨g, field3 a, field4 t, v, false, f, (k.bits ++ 1#1)⟩)
  | .mbatch g d => some (VecForm.pack 56 ⟨onceGuard g, d, 0#5, 0#5, false, false, 0#5⟩)
  | .mwait g y e => some (VecForm.pack 56 ⟨onceGuard g, 0#5, y, 0#5, e, false, 1#5⟩)
  | .accget g d n => some (VecForm.pack 56 ⟨onceGuard g, d, 0#5, n, false, false, 2#5⟩)
  | .accput g => some (VecForm.pack 56 ⟨onceGuard g, 0#5, 0#5, 0#5, false, false, 3#5⟩)
  | .acq g a => some (VecForm.pack 56 ⟨onceGuard g, field3 a, 0#5, 0#5, false, false, 4#5⟩)
  | .rel g a => some (VecForm.pack 56 ⟨onceGuard g, field3 a, 0#5, 0#5, false, false, 5#5⟩)
  | .accrd g d a z f => some (VecForm.pack 56 ⟨g, d, field3 a, z, false, f, 6#5⟩)
  | .accrd4 g d a z f => some (VecForm.pack 56 ⟨g, d, field3 a, z, false, f, 7#5⟩)
  | .accwr g a v z e f => some (VecForm.pack 56 ⟨g, field3 a, v, z, e, f, 8#5⟩)
  | .accwr4 g a v z e f => some (VecForm.pack 56 ⟨g, field3 a, v, z, e, f, 9#5⟩)
  | .hwait h => some (HandForm.pack 57 ⟨0#5, 0#5, h, false, 0#9⟩)
  | .hany d a e => some (HandForm.pack 57 ⟨d, a, 0#6, e, 1#9⟩)
  | .hall a e => some (HandForm.pack 57 ⟨0#5, a, 0#6, e, 2#9⟩)
  | .hfirst d a e => some (HandForm.pack 57 ⟨d, a, 0#6, e, 3#9⟩)
  | .hclaim h => some (HandForm.pack 57 ⟨0#5, 0#5, h, false, 4#9⟩)
  | .hfree h => some (HandForm.pack 57 ⟨0#5, 0#5, h, false, 5#9⟩)
  | .hsig a e => some (HandForm.pack 57 ⟨0#5, a, 0#6, e, 6#9⟩)
  | .copy h g d => some (MoveForm.pack 58 ⟨0#10, h, g, d⟩)
  | .copy2d h g d => some (MoveForm.pack 58 ⟨1#10, h, g, d⟩)
  | .gather h g d => some (MoveForm.pack 58 ⟨2#10, h, g, d⟩)
  | .scatter h g d => some (MoveForm.pack 58 ⟨3#10, h, g, d⟩)
  | .mpwait d => some (HandForm.pack 59 ⟨d, 0#5, 0#6, false, 0#9⟩)
  | .hset a h => some (HandForm.pack 59 ⟨0#5, a, h, false, 1#9⟩)
  | .hexp a h => some (HandForm.pack 59 ⟨0#5, a, h, false, 2#9⟩)
  | .mpfence => some (HandForm.pack 59 ⟨0#5, 0#5, 0#6, false, 3#9⟩)
  | .mpend => some (HandForm.pack 59 ⟨0#5, 0#5, 0#6, false, 4#9⟩)
  | .emit g d a e => some (VecForm.pack 60 ⟨g, d, a, 0#5, e, false, 0#5⟩)
  | .depdec g a e => some (VecForm.pack 60 ⟨onceGuard g, 0#5, a, 0#5, e, false, 1#5⟩)
  | .qpush g p a b e f => some (VecForm.pack 60 ⟨g, field3 p, a, b, e, f, 2#5⟩)
  | .qpop g d b f => some (VecForm.pack 60 ⟨g, d, 0#5, b, false, f, 3#5⟩)
  | .bfork g d => some (VecForm.pack 60 ⟨onceGuard g, d, 0#5, 0#5, false, false, 4#5⟩)
  | .bforkStamp g a e => some (VecForm.pack 60 ⟨onceGuard g, 0#5, a, 0#5, e, false, 5#5⟩)
  | .bcancel g a e => some (VecForm.pack 60 ⟨onceGuard g, 0#5, a, 0#5, e, false, 6#5⟩)
  | .chfork g d a e => some (VecForm.pack 60 ⟨onceGuard g, d, a, 0#5, e, false, 7#5⟩)
  | .chapp g d a b e f => some (VecForm.pack 60 ⟨g, d, a, b, e, f, 8#5⟩)
  | .chrel g a e => some (VecForm.pack 60 ⟨onceGuard g, 0#5, a, 0#5, e, false, 9#5⟩)
  | .srd r n => some (SpecForm.pack 61 ⟨r, 0#2, false, 0#10, n.bits⟩)
  | .swr r e n => some (SpecForm.pack 61 ⟨r, 1#2, e, 0#10, n.bits⟩)
  | .srdVector r => some (SpecForm.pack 61 ⟨r, 2#2, false, 0#10, 1#8⟩)
  | .trap a n e => some (ScalForm.pack 62 ⟨0#5, a, n, e, false, 0#9⟩)
  | .rft a e => some (ScalForm.pack 62 ⟨0#5, a, 0#5, e, false, 1#9⟩)
  | .ifence => some (ScalForm.pack 62 ⟨0#5, 0#5, 0#5, false, false, 2#9⟩)
  | .bkpt n => some (ScalForm.pack 62 ⟨0#5, 0#5, n, false, false, 3#9⟩)
  | .halt => some (ScalForm.pack 62 ⟨0#5, 0#5, 0#5, false, false, 4#9⟩)
  | .pfix d i => some (ScalForm.pack 62 ⟨d, 0#5, field3 i, false, false, 5#9⟩)
  | .pfixDrop d i => some (ScalForm.pack 62 ⟨d, 0#5, (1#2 ++ i), false, false, 5#9⟩)
  | .ctxsv a e => some (ScalForm.pack 62 ⟨0#5, a, 0#5, e, false, 6#9⟩)
  | .ctxld d a e => some (ScalForm.pack 62 ⟨d, a, 0#5, e, false, 7#9⟩)
  | .ctxldKill d a e => some (ScalForm.pack 62 ⟨d, a, 1#5, e, false, 7#9⟩)
  | .hintImm p => some (HintForm.pack 63 ⟨0#3, p⟩)
  | .hintRnd r => some (HintForm.pack 63 ⟨1#3, (0#21 ++ r.bits)⟩)
  | .hintSched p => some (HintForm.pack 63 ⟨2#3, p⟩)
  | .hintFmt t => some (HintForm.pack 63 ⟨3#3, (0#19 ++ t.bits)⟩)
  | .siblingHalt _ | .registerFill _ _ | .hopLanding _ _ | .parkedImageResume _ _ | .parkSwitchOut _ | .crewSwitchOut _
  | .watchdogExpiry _ | .regroupWindowExpiry _ | .postPerform _ | .postAcknowledgement _ | .hostAccess _ | .copySector _ _ _
  | .matrixOperation _ | .accgetGrant _ | .movementFault _ | .engineRelease _ | .clutchRecordArrival _ | .clutchTimer _ _ _
  | .launchRecordTake _ | .knotPlacement _ | .crewPlacement _ | .stealMessage _ | .launchCompletion _ | .preemptionComplete _
  | .eccError _ | .governorStep _ _ | .resetModule _ _ | .qreg _ | .bindObject _ | .lazyBind _ | .shoot _ | .keyload _
  | .circuit _ | .pool _ | .preempt _ | .resume _ | .haltstk _ | .runstk _ | .attest _ | .devhashReport _ | .wlist _ | .signkey _
  | .unlistedCommand _ | .illegalEncoding | .fetchBeyondExtent | .larzonConfigurationSpaceWrite _ _ | .fabricPacketResend _ => none

/-- What this decoder reads from an instruction whose bits are `w`, numbered as spec/opcode_table.json numbers them: one
32-bit word, stored little-endian (R114). -/
def decodeTableWord (_nbits w : Nat) : Option Instr :=
  match decodeBytes (bytesOfWord (BitVec.ofNat 32 w)) with
  | .ok (i, _) => some i
  | .error _ => none

end Sys2Proof
end

