-- ==== Sys2Proof/Config.lean ====
section
/-! DEFINITION. What the implementation fixes, and the free values: constants of no body stand for every value that the
spec leaves open, so that no proof can see what they are. -/
namespace Sys2Proof.Config

/-- Cores of one stack (R4, R14). -/
def coresPerStack : Nat := 32
/-- Bytes of a core's register file (spec/00, "The module at a glance"). -/
def registerFileBytes : Nat := 1048576
/-- Bytes of a core's pad (R81). -/
def padBytes : Nat := 1048576
/-- Partition slots, and instruction-buffer entries of a core (R47, R52). -/
def slotsPerPartition : Nat := 16
def bufferEntries : Nat := 64
/-- log2 of the bytes of one landing zone: LANDING.SIZE is 4, so 2^(27 + 4) (R331). -/
def zoneLog : Nat := 31
/-- Bytes of one landing zone (R36, R331). -/
def zoneBytes : Nat := 2147483648
/-- Bytes of one stack, and the module number of the host (R59). -/
def stackBytes : Nat := 68719476736
def hostModule : Nat := 1023
/-- The home code of host-homed addresses (R61). -/
def hostHome : Nat := 16368

/-- The key that data is stored under (R324): the key a module generated for slot 0 at its n-th reset, or a loaded key. -/
inductive KeyId where
  | device (module epoch : Nat)
  | loaded (key : BitVec 512)
  deriving DecidableEq, Repr

/-- What a byte reads as through the wrong key where its block of 16 bytes was stored under several (R324, log 9): read key, written key,
address, stored byte. -/
opaque misread (readKey writeKey : KeyId) (pa : Nat) (stored : Byte) : Byte
/-- Byte `i` of the undocumented part of the image that `seed` names: a path block or an engine block (R57, R301). -/
opaque imageByte (seed i : Nat) : Byte
/-- Byte `i` of the device state that a queue's descriptor holds after its n-th change (R267). -/
opaque queueByte (n i : Nat) : Byte
/-- Byte `i` of what a failed bind leaves in its data area (R315). -/
opaque bindByte (seed i : Nat) : Byte
/-- The n-th free 64-bit value (log 6, DESIGN CHOICE). -/
opaque freeDWord (n : Nat) : DWord
/-- Whether a faithful result is the neighbour above the exact value: operation, operand bits (R103). -/
opaque faithfulUp (op : Nat) (x : Word) : Bool
/-- The raw result of FSIN and FCOS, before it is held to its bound: operation, operand bits (R103). -/
opaque trigRaw (op : Nat) (x : Word) : Word
/-- The device key of a module, generated within the part: modulus and private exponent (R335). -/
opaque devicePrivate (module : Nat) : Nat × Nat
/-- The key that a module generates for slot 0 at its n-th reset (R324). -/
opaque deviceKey (module epoch : Nat) : BitVec 512
/-- The Pyrreost root key fused into the part (R334). -/
opaque rootKey : List Byte
/-- The key of a key record, none when the record does not decrypt under the module's device key (R326 KEYLOAD). -/
opaque openKeyRecord (module : Nat) (record : List Byte) : Option (BitVec 512)
/-- The bytes of the binder firmware version (R335). -/
opaque binderVersion : List Byte
/-- The firmware stages that a module verified when it last came up before the first state of the model (R334). -/
opaque firmware (module : Nat) : List (List Byte)
/-- The bytes of a key record of KEYLOAD and of SIGNKEY, whose layouts the spec does not give (R326). -/
opaque keyRecordBytes : Nat
opaque signKeyBytes : Nat

end Sys2Proof.Config
end

