-- ==== Sys2Proof/Machine/FpFlags.lean ====
section
/-! DEFINITION. The sticky flags of FPSTAT (spec/05 R101). -/
namespace Sys2Proof.Machine

/-- The flags of FPSTAT (R101). -/
abbrev FpFlags := BitVec 5
/-- Invalid operation. -/
def flagNV : FpFlags := 1#5
/-- Divide by zero. -/
def flagDZ : FpFlags := 2#5
/-- Overflow. -/
def flagOF : FpFlags := 4#5
/-- Underflow. -/
def flagUF : FpFlags := 8#5
/-- Inexact. -/
def flagNX : FpFlags := 16#5

end Sys2Proof.Machine
end

