-- ==== Sys2Proof/Machine/Float.lean ====
section
/-! DEFINITION. Floating-point arithmetic by exact values: formats, rounding, tininess and overflow, the arithmetic
operations, and the faithful functions (spec/05 R96 to R104). A finite value is (-1)^neg * m * 2^e, exactly. -/
namespace Sys2Proof.Machine

/-- A floating-point format (R96): exponent and fraction bits, and whether it is E4M3, which has no infinity. -/
structure FloatFmt where
  eb : Nat
  mb : Nat
  e4m3 : Bool
  deriving DecidableEq, Repr

/-- binary32 (R96). -/
def fmtF32 : FloatFmt := { eb := 8, mb := 23, e4m3 := false }
/-- binary16 (R96). -/
def fmtF16 : FloatFmt := { eb := 5, mb := 10, e4m3 := false }
/-- The upper half of binary32 (R96). -/
def fmtBF16 : FloatFmt := { eb := 8, mb := 7, e4m3 := false }
/-- OCP E4M3 (R96). -/
def fmtE4M3 : FloatFmt := { eb := 4, mb := 3, e4m3 := true }
/-- OCP E5M2 (R96). -/
def fmtE5M2 : FloatFmt := { eb := 5, mb := 2, e4m3 := false }

/-- The exponent bias. -/
def FloatFmt.bias (f : FloatFmt) : Nat := 2 ^ (f.eb - 1) - 1
/-- The width in bits. -/
def FloatFmt.width (f : FloatFmt) : Nat := 1 + f.eb + f.mb
/-- The exponent of the least quantum. -/
def FloatFmt.qmin (f : FloatFmt) : Int := 1 - (f.bias : Int) - f.mb
/-- The exponent of the greatest quantum. -/
def FloatFmt.qmax (f : FloatFmt) : Int := (if f.e4m3 then 8 else (f.bias : Int)) - f.mb
/-- The greatest significand at the greatest quantum. -/
def FloatFmt.maxSig (f : FloatFmt) : Nat := if f.e4m3 then 14 else 2 ^ (f.mb + 1) - 1
/-- The sign bit's weight when set. -/
def FloatFmt.sign (f : FloatFmt) (neg : Bool) : Nat := if neg then 2 ^ (f.eb + f.mb) else 0
/-- The canonical NaN (R96). -/
def FloatFmt.nan (f : FloatFmt) : Nat :=
  if f.e4m3 then 127 else (2 ^ f.eb - 1) * 2 ^ f.mb + 2 ^ (f.mb - 1)
/-- An infinity; E4M3 has none. -/
def FloatFmt.inf (f : FloatFmt) (neg : Bool) : Nat := f.sign neg + (2 ^ f.eb - 1) * 2 ^ f.mb
/-- The largest finite value (R96). -/
def FloatFmt.max (f : FloatFmt) (neg : Bool) : Nat :=
  f.sign neg + (if f.e4m3 then 126 else (2 ^ f.eb - 1) * 2 ^ f.mb - 1)

/-- A value of a format: a NaN, signalling or not, an infinity, or a finite number. -/
inductive FVal where
  | nan (signalling : Bool)
  | inf (neg : Bool)
  | num (neg : Bool) (m : Nat) (e : Int)
  deriving DecidableEq, Repr

/-- The value that a bit pattern encodes (R96); under MODE[2] a subnormal reads as a zero of its sign (R99). -/
def FloatFmt.value (f : FloatFmt) (flush : Bool) (bits : Nat) : FVal :=
  let neg := bits / 2 ^ (f.eb + f.mb) % 2 == 1
  let ex := bits / 2 ^ f.mb % 2 ^ f.eb
  let fr := bits % 2 ^ f.mb
  if ex = 2 ^ f.eb - 1 && (!f.e4m3 || fr == 7) then
    if f.e4m3 then .nan false else if fr = 0 then .inf neg else .nan (decide (fr < 2 ^ (f.mb - 1)))
  else if ex = 0 then .num neg (if flush then 0 else fr) f.qmin
  else .num neg (2 ^ f.mb + fr) ((ex : Int) - f.bias - f.mb)

/-- The bits of an operand as read: a flushed subnormal is the zero of its sign (R99, R104). -/
def FloatFmt.asRead (f : FloatFmt) (flush : Bool) (bits : Nat) : Nat :=
  let b := bits % 2 ^ f.width
  if flush && b / 2 ^ f.mb % 2 ^ f.eb == 0 then b / 2 ^ (f.eb + f.mb) * 2 ^ (f.eb + f.mb) else b

/-- Whether a value is a signalling NaN. -/
def FVal.signals : FVal → Bool
  | .nan s => s
  | _ => false

/-- Whether a value is a NaN. -/
def FVal.isNan : FVal → Bool
  | .nan _ => true
  | _ => false

/-- NV when any value read is a signalling NaN (R98). -/
def nvOf (vs : List FVal) : FpFlags := if vs.any FVal.signals then flagNV else 0

/-- How a result is rounded: in a direction, or to the neighbour below or above in magnitude (faithful, R103). -/
inductive Rounding where
  | dir (d : Dir)
  | pick (up : Bool)
  deriving DecidableEq, Repr

/-- `m` * 2^-sh rounded to an integer, and whether it was inexact. With `sticky` the value lies strictly between `m` and
`m` + 1, and `sh` is at least 2. -/
def roundShift (r : Rounding) (neg : Bool) (m : Nat) (sticky : Bool) (sh : Nat) : Nat × Bool :=
  let q := m / 2 ^ sh
  let rem := m % 2 ^ sh
  let inexact := rem != 0 || sticky
  let up := match r with
    | .dir .near => decide (2 ^ sh < 2 * rem) || (2 * rem == 2 ^ sh && (sticky || q % 2 == 1))
    | .dir .zero => false
    | .dir .down => neg
    | .dir .up => !neg
    | .pick u => u
  (if inexact && up then q + 1 else q, inexact)

/-- `m` * 2^e in units of 2^q, rounded. -/
def roundAt (r : Rounding) (neg : Bool) (m : Nat) (e : Int) (sticky : Bool) (q : Int) : Nat × Bool :=
  if q ≤ e then (m * 2 ^ (e - q).toNat, sticky) else roundShift r neg m sticky (q - e).toNat

/-- A rounded result: its bits, its flags, and whether it overflowed. -/
structure Rounded where
  bits : Nat
  flags : FpFlags
  overflowed : Bool
  deriving DecidableEq, Repr

/-- Whether an overflow goes to infinity in a rounding (R103). -/
def overflowsOut (r : Rounding) (neg : Bool) : Bool :=
  match r with
  | .dir .near => true
  | .dir .zero => false
  | .dir .down => neg
  | .dir .up => !neg
  | .pick _ => true

/-- Round an exact non-negative magnitude with a sign into a format (R99, R103): tininess is detected after rounding, MODE[3]
flushes a tiny result, overflow follows the direction. -/
def FloatFmt.round (f : FloatFmt) (r : Rounding) (flush : Bool) (neg : Bool) (m : Nat) (e : Int) (sticky : Bool) : Rounded :=
  if m = 0 && !sticky then { bits := f.sign neg, flags := 0, overflowed := false }
  else
    let p := f.mb + 1
    let top : Int := e + Nat.log2 m
    let qu := top - f.mb
    let u := (roundAt r neg m e sticky qu).1
    let tiny := decide (qu + (if u = 2 ^ p then 1 else 0) < f.qmin)
    if tiny && flush then { bits := f.sign neg, flags := flagUF ||| flagNX, overflowed := false }
    else
      let q0 := if qu < f.qmin then f.qmin else qu
      let ri := roundAt r neg m e sticky q0
      let sig := if ri.1 = 2 ^ p then 2 ^ f.mb else ri.1
      let q := if ri.1 = 2 ^ p then q0 + 1 else q0
      if decide (f.qmax < q) || (q == f.qmax && decide (f.maxSig < sig)) then
        { bits := (if overflowsOut r neg then f.inf neg else f.max neg), flags := flagOF ||| flagNX, overflowed := true }
      else
        { bits := f.sign neg + (if sig < 2 ^ f.mb then sig else ((q - f.qmin).toNat + 1) * 2 ^ f.mb + (sig - 2 ^ f.mb))
          flags := (if ri.2 then flagNX else 0) ||| (if tiny && ri.2 then flagUF else 0), overflowed := false }

/-- What an arithmetic operation works under: format, direction, MODE[2], MODE[3]. -/
structure FpEnv where
  fmt : FloatFmt
  dir : Dir
  flushIn : Bool
  flushOut : Bool
  deriving DecidableEq, Repr

/-- The environment of the memory-side units, plane resolution and the matrix path (R80, R86, R110). -/
def plainEnv (f : FloatFmt) : FpEnv := { fmt := f, dir := .near, flushIn := false, flushOut := false }

/-- The result of an operation: bits and flags. -/
abbrev FpOut := Nat × FpFlags

/-- An operand under an environment. -/
def FpEnv.read (c : FpEnv) (bits : Nat) : FVal := c.fmt.value c.flushIn bits

/-- A rounded result under an environment. -/
def FpEnv.round (c : FpEnv) (neg : Bool) (m : Nat) (e : Int) (sticky : Bool) : FpOut :=
  let r := c.fmt.round (.dir c.dir) c.flushOut neg m e sticky
  (r.bits, r.flags)

/-- (-1)^neg * m * 2^e in units of 2^q, q at most e. -/
def signedAt (neg : Bool) (m : Nat) (e q : Int) : Int :=
  let v : Int := (m * 2 ^ (e - q).toNat : Nat)
  if neg then -v else v

/-- The sum of two finite values, rounded once; an exact zero takes the common sign of two zeros, otherwise is -0 only
toward -inf (IEEE 754-2019). -/
def FpEnv.sum (c : FpEnv) (n1 : Bool) (m1 : Nat) (e1 : Int) (n2 : Bool) (m2 : Nat) (e2 : Int) : FpOut :=
  let q := min e1 e2
  let t := signedAt n1 m1 e1 q + signedAt n2 m2 e2 q
  if t = 0 then (c.fmt.sign (if m1 = 0 && m2 = 0 && n1 == n2 then n1 else c.dir == .down), 0)
  else c.round (decide (t < 0)) t.natAbs q false

/-- The sum of two values (R103): inf - inf is invalid. -/
def FpEnv.addVals (c : FpEnv) (x y : FVal) : FpOut :=
  match x, y with
  | .nan _, _ => (c.fmt.nan, 0)
  | _, .nan _ => (c.fmt.nan, 0)
  | .inf a, .inf b => if a = b then (c.fmt.inf a, 0) else (c.fmt.nan, flagNV)
  | .inf a, _ => (c.fmt.inf a, 0)
  | _, .inf b => (c.fmt.inf b, 0)
  | .num n1 m1 e1, .num n2 m2 e2 => c.sum n1 m1 e1 n2 m2 e2

/-- The negation of a value. -/
def FVal.neg : FVal → FVal
  | .nan s => .nan s
  | .inf n => .inf (!n)
  | .num n m e => .num (!n) m e

/-- FADD (R103, R157). -/
def FpEnv.add (c : FpEnv) (x y : Nat) : FpOut :=
  let a := c.read x
  let b := c.read y
  let r := c.addVals a b
  (r.1, r.2 ||| nvOf [a, b])

/-- FSUB (R103, R157). -/
def FpEnv.sub (c : FpEnv) (x y : Nat) : FpOut :=
  let a := c.read x
  let b := c.read y
  let r := c.addVals a b.neg
  (r.1, r.2 ||| nvOf [a, b])

/-- FMUL (R103, R157). -/
def FpEnv.mul (c : FpEnv) (x y : Nat) : FpOut :=
  let a := c.read x
  let b := c.read y
  let r : FpOut := match a, b with
    | .nan _, _ => (c.fmt.nan, 0)
    | _, .nan _ => (c.fmt.nan, 0)
    | .inf n, .inf k => (c.fmt.inf (n != k), 0)
    | .inf n, .num k m _ => if m = 0 then (c.fmt.nan, flagNV) else (c.fmt.inf (n != k), 0)
    | .num k m _, .inf n => if m = 0 then (c.fmt.nan, flagNV) else (c.fmt.inf (n != k), 0)
    | .num n1 m1 e1, .num n2 m2 e2 => c.round (n1 != n2) (m1 * m2) (e1 + e2) false
  (r.1, r.2 ||| nvOf [a, b])

/-- Whether a product of values is zero times infinity. -/
def zeroTimesInf : FVal → FVal → Bool
  | .inf _, .num _ m _ => m == 0
  | .num _ m _, .inf _ => m == 0
  | _, _ => false

/-- The exact product of two values. -/
def mulVals : FVal → FVal → FVal
  | .nan s, _ => .nan s
  | _, .nan s => .nan s
  | .inf n, .inf k => .inf (n != k)
  | .inf n, .num k m _ => if m = 0 then .nan false else .inf (n != k)
  | .num k m _, .inf n => if m = 0 then .nan false else .inf (n != k)
  | .num n1 m1 e1, .num n2 m2 e2 => .num (n1 != n2) (m1 * m2) (e1 + e2)

/-- FFMA: a * b + z, rounded once; 0 * inf + z is invalid even when z is a quiet NaN (R103). -/
def FpEnv.fma (c : FpEnv) (x y z : Nat) : FpOut :=
  let a := c.read x
  let b := c.read y
  let d := c.read z
  let r : FpOut := if zeroTimesInf a b then (c.fmt.nan, flagNV) else c.addVals (mulVals a b) d
  (r.1, r.2 ||| nvOf [a, b, d])

/-- FRCP (R103). -/
def FpEnv.rcp (c : FpEnv) (x : Nat) : FpOut :=
  match c.read x with
  | .nan s => (c.fmt.nan, if s then flagNV else 0)
  | .inf n => (c.fmt.sign n, 0)
  | .num n m e =>
    if m = 0 then (c.fmt.inf n, flagDZ)
    else
      let k := c.fmt.mb + 4 + Nat.log2 m
      c.round n (2 ^ k / m) (-(k : Int) - e) (2 ^ k % m != 0)

/-- The bits of an integer square root, from bit `b` - 1 down. -/
def isqrtGo (x : Nat) : Nat → Nat → Nat
  | 0, r => r
  | b + 1, r => if (r + 2 ^ b) * (r + 2 ^ b) ≤ x then isqrtGo x b (r + 2 ^ b) else isqrtGo x b r

/-- The integer part of the square root. -/
def isqrt (x : Nat) : Nat := isqrtGo x (Nat.log2 x / 2 + 1) 0

/-- A positive value with an even exponent. -/
def evenExp (m : Nat) (e : Int) : Nat × Int := if e % 2 = 0 then (m, e) else (2 * m, e - 1)

/-- FSQRT (R103). -/
def FpEnv.sqrt (c : FpEnv) (x : Nat) : FpOut :=
  match c.read x with
  | .nan s => (c.fmt.nan, if s then flagNV else 0)
  | .inf n => if n then (c.fmt.nan, flagNV) else (c.fmt.inf false, 0)
  | .num n m e =>
    if m = 0 then (c.fmt.sign n, 0)
    else if n then (c.fmt.nan, flagNV)
    else
      let v := evenExp m e
      let k := c.fmt.mb + 4
      let t := v.1 * 2 ^ (2 * k)
      let r := isqrt t
      c.round false r (v.2 / 2 - k) (r * r != t)

/-- A faithful result (R103): an exact value is itself, any other one of its two neighbours, a free choice (log 20, DESIGN CHOICE). -/
def FpEnv.faithful (c : FpEnv) (op x : Nat) (neg : Bool) (m : Nat) (e : Int) (sticky : Bool) : FpOut :=
  let r := c.fmt.round (.pick (Config.faithfulUp op (BitVec.ofNat 32 x))) c.flushOut neg m e sticky
  (r.bits, r.flags)

/-- A number of the operation and format for the free choices. -/
def FloatFmt.tag (f : FloatFmt) (op : Nat) : Nat := 16 * f.width + 1024 * f.mb + op

/-- FRSQ (R103). -/
def FpEnv.rsq (c : FpEnv) (x : Nat) : FpOut :=
  match c.read x with
  | .nan s => (c.fmt.nan, if s then flagNV else 0)
  | .inf n => if n then (c.fmt.nan, flagNV) else (c.fmt.sign false, 0)
  | .num n m e =>
    if m = 0 then (c.fmt.inf n, flagDZ)
    else if n then (c.fmt.nan, flagNV)
    else
      let v := evenExp m e
      let k := c.fmt.mb + 4 + Nat.log2 v.1
      let r := isqrt (2 ^ (2 * k) / v.1)
      c.faithful (c.fmt.tag 5) (c.fmt.asRead c.flushIn x) false r (-(k : Int) - v.2 / 2) (r * r * v.1 != 2 ^ (2 * k))

/-- Fraction bits of the enclosures of the faithful functions. -/
def fracBits : Nat := 320

/-- The product, to `fracBits` fraction bits, of 2^(2^-i) over the bits i set in a fraction, highest first; `c` is the
last factor of the chain of square roots of 2. -/
def exp2Bits : List Bool → Nat → Nat → Nat
  | [], _, acc => acc
  | b :: bs, c, acc =>
    let c' := isqrt (c * 2 ^ fracBits)
    exp2Bits bs c' (if b then acc * c' / 2 ^ fracBits else acc)

/-- The bits of `frac` / 2^k, highest first. -/
def fracList (frac : Nat) : Nat → List Bool
  | 0 => []
  | k + 1 => (frac / 2 ^ k % 2 == 1) :: fracList frac k

/-- FEXP2 (R103). -/
def FpEnv.exp2 (c : FpEnv) (x : Nat) : FpOut :=
  match c.read x with
  | .nan s => (c.fmt.nan, if s then flagNV else 0)
  | .inf n => if n then (c.fmt.sign false, 0) else (c.fmt.inf false, 0)
  | .num n m e =>
    let k := (-e).toNat
    let v : Int := signedAt n (m * 2 ^ e.toNat) 0 0
    let whole := max (-4000) (min 4000 (v / 2 ^ k))
    let frac := (v % 2 ^ k).toNat
    let x' := c.fmt.asRead c.flushIn x
    if frac = 0 then c.faithful (c.fmt.tag 7) x' false 1 whole false
    else c.faithful (c.fmt.tag 7) x' false (exp2Bits (fracList frac k) (2 * 2 ^ fracBits) (2 ^ fracBits)) (whole - fracBits) true

/-- Binary digits of the logarithm of a number of `fracBits` + 192 fraction bits in [1, 2), highest first. -/
def log2Digits : Nat → Nat → Nat → Nat
  | 0, _, acc => acc
  | n + 1, y, acc =>
    let sq := y * y / 2 ^ (fracBits + 192)
    if 2 * 2 ^ (fracBits + 192) ≤ sq then log2Digits n (sq / 2) (2 * acc + 1) else log2Digits n sq (2 * acc)

/-- FLOG2 (R103). -/
def FpEnv.log2 (c : FpEnv) (x : Nat) : FpOut :=
  match c.read x with
  | .nan s => (c.fmt.nan, if s then flagNV else 0)
  | .inf n => if n then (c.fmt.nan, flagNV) else (c.fmt.inf false, 0)
  | .num n m e =>
    if m = 0 then (c.fmt.inf true, flagDZ)
    else if n then (c.fmt.nan, flagNV)
    else
      let l := Nat.log2 m
      let t := e + l
      let x' := c.fmt.asRead c.flushIn x
      if m = 2 ^ l then c.faithful (c.fmt.tag 8) x' (decide (t < 0)) t.natAbs 0 false
      else
        let d := log2Digits 192 (m * 2 ^ (fracBits + 192 - l)) 0
        if 0 ≤ t then c.faithful (c.fmt.tag 8) x' false (t.toNat * 2 ^ 192 + d) (-192) true
        else c.faithful (c.fmt.tag 8) x' true (t.natAbs * 2 ^ 192 - d - 1) (-192) true

/-- Fraction bits of the enclosures of sine and cosine. -/
def trigBits : Nat := 192

/-- The arc tangent of 1 / `k` to `trigBits` + 32 fraction bits, by its series. -/
def atanInv (k : Nat) : Nat → Nat → Nat → Int → Int
  | 0, _, _, acc => acc
  | n + 1, i, p, acc =>
    let term : Int := (p / (2 * i + 1) : Nat)
    atanInv k n (i + 1) (p / (k * k)) (if i % 2 = 0 then acc + term else acc - term)

/-- pi to `trigBits` + 32 fraction bits (Machin). -/
def piBits : Int :=
  16 * atanInv 5 110 0 (2 ^ (trigBits + 32) / 5) 0 - 4 * atanInv 239 40 0 (2 ^ (trigBits + 32) / 239) 0

/-- The sum of a series whose term `i` is the last times -r^2 / ((i + 1) (i + 2)), to `trigBits` fraction bits. -/
def trigSeries (r2 : Int) : Nat → Nat → Int → Int → Int
  | 0, _, _, acc => acc
  | n + 1, i, term, acc =>
    let next := -(term * r2 / 2 ^ trigBits) / ((i + 1) * (i + 2) : Nat)
    trigSeries r2 n (i + 2) next (acc + term)

/-- The sine or cosine of a finite value of magnitude at most 2^20, to `trigBits` fraction bits. -/
def trigExact (cosine : Bool) (neg : Bool) (m : Nat) (e : Int) : Int :=
  let x : Int := if -(trigBits + 32 : Int) ≤ e then m * 2 ^ (e + trigBits + 32).toNat else m / 2 ^ (-(e + trigBits + 32)).toNat
  let r := (x % (2 * piBits)) / 2 ^ 32
  let r2 := r * r / 2 ^ trigBits
  if cosine then trigSeries r2 70 0 (2 ^ trigBits) 0
  else
    let s := trigSeries r2 70 1 r 0
    if neg then -s else s

/-- Whether an F32 bit pattern is a finite value within `tol` of `s`, both in units of 2^-trigBits. -/
def f32Within (bits : Nat) (s tol : Int) : Bool :=
  match fmtF32.value false bits with
  | .num n m e => decide ((signedAt n m (e + trigBits) 0 - s).natAbs ≤ tol.toNat)
  | _ => false

/-- The result of FSIN or FCOS before its format and flags (R103, log 21, DESIGN CHOICE): the device's own value where it is within the
permitted error, or in [-1, 1] beyond 2^20; otherwise the nearest below in magnitude. -/
def trigRaw (op x : Nat) (cosine : Bool) (neg : Bool) (m : Nat) (e : Int) : Nat :=
  let raw := (Config.trigRaw op (BitVec.ofNat 32 x)).toNat
  if decide (e ≤ 20) && decide (m * 2 ^ (e + 200).toNat ≤ 2 ^ 220) then
    let s := trigExact cosine neg m e
    if f32Within raw s (2 ^ (trigBits - 21)) then raw
    else (fmtF32.round (.dir .zero) false (decide (s < 0)) s.natAbs (-(trigBits : Int)) true).bits
  else if f32Within raw 0 (2 ^ trigBits) then raw else 0

/-- FSIN and FCOS (R103): infinities are invalid; FSIN of a zero is that zero. The flags and the narrower formats are the model's choice
(log 21, DESIGN CHOICE): every result but FSIN of a zero and FCOS of a zero as 1 sets NX, a subnormal one UF, and a value within the bound is
rounded to nearest into F16 or BF16. -/
def FpEnv.trig (c : FpEnv) (cosine : Bool) (x : Nat) : FpOut :=
  match c.read x with
  | .nan s => (c.fmt.nan, if s then flagNV else 0)
  | .inf _ => (c.fmt.nan, flagNV)
  | .num n m e =>
    if m = 0 && !cosine then (c.fmt.sign n, 0)
    else
      let raw := trigRaw (c.fmt.tag (if cosine then 10 else 9)) (c.fmt.asRead c.flushIn x) cosine n m e
      match fmtF32.value false raw with
      | .num rn rm re =>
        let r := c.fmt.round (.dir .near) c.flushOut rn rm re false
        let exact := m = 0 && decide (signedAt rn rm (re + 200) 0 = 2 ^ 200) && r.flags == 0
        let small := decide (r.bits % 2 ^ (c.fmt.width - 1) < 2 ^ c.fmt.mb) && rm != 0
        (r.bits, r.flags ||| (if exact then 0 else flagNX) ||| (if small then flagUF else 0))
      | _ => (c.fmt.nan, 0)

/-- FRINT: rounded to an integral value; no NX (R104). -/
def FpEnv.rint (c : FpEnv) (x : Nat) : FpOut :=
  match c.read x with
  | .nan s => (c.fmt.nan, if s then flagNV else 0)
  | .inf n => (c.fmt.inf n, 0)
  | .num n m e =>
    if 0 ≤ e then ((c.fmt.round (.dir c.dir) false n m e false).bits, 0)
    else ((c.fmt.round (.dir c.dir) false n (roundShift (.dir c.dir) n m false (-e).toNat).1 0 false).bits, 0)

/-- The order of two values that are not NaN: negative, zero, positive as the first is less, equal, greater. -/
def cmpVals (x y : FVal) : Int :=
  match x, y with
  | .inf a, .inf b => if a = b then 0 else if a then -1 else 1
  | .inf a, _ => if a then -1 else 1
  | _, .inf b => if b then 1 else -1
  | .num n1 m1 e1, .num n2 m2 e2 =>
    let q := min e1 e2
    signedAt n1 m1 e1 q - signedAt n2 m2 e2 q
  | _, _ => 0

/-- Whether a value is negative or -0. -/
def FVal.isNeg : FVal → Bool
  | .nan _ => false
  | .inf n => n
  | .num n _ _ => n

/-- FMIN and FMAX: minimumNumber and maximumNumber; -0 orders below +0 (R104). -/
def FpEnv.minMax (c : FpEnv) (greater : Bool) (x y : Nat) : FpOut :=
  let a := c.read x
  let b := c.read y
  let xr := c.fmt.asRead c.flushIn x
  let yr := c.fmt.asRead c.flushIn y
  let less := decide (cmpVals a b < 0) || (cmpVals a b == 0 && (a.isNeg || !b.isNeg))
  (if a.isNan && b.isNan then c.fmt.nan
   else if a.isNan then yr
   else if b.isNan then xr
   else if less != greater then xr else yr, nvOf [a, b])

/-- FCMP: quiet for every predicate (R104, R159). -/
def FpEnv.cmp (c : FpEnv) (k : FCond) (x y : Nat) : Bool × FpFlags :=
  let a := c.read x
  let b := c.read y
  let un := a.isNan || b.isNan
  let o := cmpVals a b
  (match k with
   | .eq => !un && o == 0
   | .ne => un || o != 0
   | .lt => !un && decide (o < 0)
   | .le => !un && decide (o ≤ 0)
   | .gt => !un && decide (0 < o)
   | .ge => !un && decide (0 ≤ o)
   | .ord => !un
   | .unord => un, nvOf [a, b])

/-- FCLASS: the class mask (R160). -/
def FpEnv.classify (c : FpEnv) (x : Nat) : Nat :=
  match c.read x with
  | .nan s => if s then 256 else 512
  | .inf n => if n then 1 else 128
  | .num n m e =>
    if m = 0 then (if n then 8 else 16)
    else if e = c.fmt.qmin && decide (m < 2 ^ c.fmt.mb) then (if n then 4 else 32)
    else if n then 2 else 64

/-- FNEG and FABS: the flush step, then the sign bit (R98, R158). -/
def FpEnv.signOp (c : FpEnv) (clear : Bool) (x : Nat) : Nat :=
  let b := c.fmt.asRead c.flushIn x
  let h := 2 ^ (c.fmt.width - 1)
  if clear then b % h else if b < h then b + h else b - h

end Sys2Proof.Machine
end

