-- ==== Sys2Proof/Machine/Crypto.lean ====
section
/-! DEFINITION. The cryptographic functions that the spec names by their standards: SHA-512, RSASSA-PKCS1-v1_5 of RFC 8017 with RSA-4096
(R306, R326, R334, R335), and XTS-AES-256 of IEEE 1619 (R324). -/
namespace Sys2Proof.Machine

/-- `n` bytes of a number, most significant first. -/
def beBytes (v : Nat) (n : Nat) : List Byte := (List.range n).map fun i => BitVec.ofNat 8 (v / 256 ^ (n - 1 - i))

/-- The number whose bytes, most significant first, these are. -/
def natOfBe (bs : List Byte) : Nat := bs.foldl (fun a b => 256 * a + b.toNat) 0

/-- The big-endian numbers of `n` bytes each that a list of bytes holds; `fuel` bounds how many. -/
def beChunks (n : Nat) : Nat → List Byte → List Nat
  | 0, _ => []
  | fuel + 1, bs => if bs.isEmpty then [] else natOfBe (bs.take n) :: beChunks n fuel (bs.drop n)

/-- Constants 0 to 15 of the rounds of SHA-512. -/
def shaK0 : List (BitVec 64) :=
  [0x428a2f98d728ae22#64, 0x7137449123ef65cd#64, 0xb5c0fbcfec4d3b2f#64, 0xe9b5dba58189dbbc#64,
   0x3956c25bf348b538#64, 0x59f111f1b605d019#64, 0x923f82a4af194f9b#64, 0xab1c5ed5da6d8118#64,
   0xd807aa98a3030242#64, 0x12835b0145706fbe#64, 0x243185be4ee4b28c#64, 0x550c7dc3d5ffb4e2#64,
   0x72be5d74f27b896f#64, 0x80deb1fe3b1696b1#64, 0x9bdc06a725c71235#64, 0xc19bf174cf692694#64]

/-- Constants 16 to 31 of the rounds of SHA-512. -/
def shaK1 : List (BitVec 64) :=
  [0xe49b69c19ef14ad2#64, 0xefbe4786384f25e3#64, 0x0fc19dc68b8cd5b5#64, 0x240ca1cc77ac9c65#64,
   0x2de92c6f592b0275#64, 0x4a7484aa6ea6e483#64, 0x5cb0a9dcbd41fbd4#64, 0x76f988da831153b5#64,
   0x983e5152ee66dfab#64, 0xa831c66d2db43210#64, 0xb00327c898fb213f#64, 0xbf597fc7beef0ee4#64,
   0xc6e00bf33da88fc2#64, 0xd5a79147930aa725#64, 0x06ca6351e003826f#64, 0x142929670a0e6e70#64]

/-- Constants 32 to 47 of the rounds of SHA-512. -/
def shaK2 : List (BitVec 64) :=
  [0x27b70a8546d22ffc#64, 0x2e1b21385c26c926#64, 0x4d2c6dfc5ac42aed#64, 0x53380d139d95b3df#64,
   0x650a73548baf63de#64, 0x766a0abb3c77b2a8#64, 0x81c2c92e47edaee6#64, 0x92722c851482353b#64,
   0xa2bfe8a14cf10364#64, 0xa81a664bbc423001#64, 0xc24b8b70d0f89791#64, 0xc76c51a30654be30#64,
   0xd192e819d6ef5218#64, 0xd69906245565a910#64, 0xf40e35855771202a#64, 0x106aa07032bbd1b8#64]

/-- Constants 48 to 63 of the rounds of SHA-512. -/
def shaK3 : List (BitVec 64) :=
  [0x19a4c116b8d2d0c8#64, 0x1e376c085141ab53#64, 0x2748774cdf8eeb99#64, 0x34b0bcb5e19b48a8#64,
   0x391c0cb3c5c95a63#64, 0x4ed8aa4ae3418acb#64, 0x5b9cca4f7763e373#64, 0x682e6ff3d6b2b8a3#64,
   0x748f82ee5defb2fc#64, 0x78a5636f43172f60#64, 0x84c87814a1f0ab72#64, 0x8cc702081a6439ec#64,
   0x90befffa23631e28#64, 0xa4506cebde82bde9#64, 0xbef9a3f7b2c67915#64, 0xc67178f2e372532b#64]

/-- Constants 64 to 79 of the rounds of SHA-512. -/
def shaK4 : List (BitVec 64) :=
  [0xca273eceea26619c#64, 0xd186b8c721c0c207#64, 0xeada7dd6cde0eb1e#64, 0xf57d4f7fee6ed178#64,
   0x06f067aa72176fba#64, 0x0a637dc5a2c898a6#64, 0x113f9804bef90dae#64, 0x1b710b35131c471b#64,
   0x28db77f523047d84#64, 0x32caab7b40c72493#64, 0x3c9ebe0a15c9bebc#64, 0x431d67c49c100d4c#64,
   0x4cc5d4becb3e42b6#64, 0x597f299cfc657e2a#64, 0x5fcb6fab3ad6faec#64, 0x6c44198c4a475817#64]

/-- The 80 constants of the rounds of SHA-512. -/
def shaK : List (BitVec 64) := shaK0 ++ shaK1 ++ shaK2 ++ shaK3 ++ shaK4

/-- The initial hash value of SHA-512. -/
def shaInit : List (BitVec 64) :=
  [0x6a09e667f3bcc908#64, 0xbb67ae8584caa73b#64, 0x3c6ef372fe94f82b#64, 0xa54ff53a5f1d36f1#64,
   0x510e527fade682d1#64, 0x9b05688c2b3e6c1f#64, 0x1f83d9abfb41bd6b#64, 0x5be0cd19137e2179#64]

/-- The functions of SHA-512 on 64-bit words. -/
def shaS0 (x : BitVec 64) : BitVec 64 := x.rotateRight 28 ^^^ x.rotateRight 34 ^^^ x.rotateRight 39
def shaS1 (x : BitVec 64) : BitVec 64 := x.rotateRight 14 ^^^ x.rotateRight 18 ^^^ x.rotateRight 41
def shaG0 (x : BitVec 64) : BitVec 64 := x.rotateRight 1 ^^^ x.rotateRight 8 ^^^ (x >>> 7)
def shaG1 (x : BitVec 64) : BitVec 64 := x.rotateRight 19 ^^^ x.rotateRight 61 ^^^ (x >>> 6)

/-- The message schedule, its latest word first, `n` words longer. -/
def shaExtend : Nat → List (BitVec 64) → List (BitVec 64)
  | 0, w => w
  | n + 1, w => shaExtend n ((shaG1 (w.getD 1 0) + w.getD 6 0 + shaG0 (w.getD 14 0) + w.getD 15 0) :: w)

/-- The 80 words of the message schedule of a block. -/
def shaSchedule (block : List (BitVec 64)) : List (BitVec 64) := (shaExtend 64 block.reverse).reverse

/-- One round of SHA-512 on the eight working variables. -/
def shaRound (v : List (BitVec 64)) (kw : BitVec 64 × BitVec 64) : List (BitVec 64) :=
  match v with
  | [a, b, c, d, e, f, g, h] =>
    let t1 := h + shaS1 e + ((e &&& f) ^^^ (~~~e &&& g)) + kw.1 + kw.2
    let t2 := shaS0 a + ((a &&& b) ^^^ (a &&& c) ^^^ (b &&& c))
    [t1 + t2, a, b, c, d + t1, e, f, g]
  | _ => v

/-- The hash value after one block. -/
def shaBlock (v block : List (BitVec 64)) : List (BitVec 64) :=
  List.zipWith (· + ·) v ((shaK.zip (shaSchedule block)).foldl shaRound v)

/-- A message padded to a multiple of 128 bytes (SHA-512). -/
def shaPad (m : List Byte) : List Byte :=
  m ++ 0x80#8 :: List.replicate ((239 - m.length % 128) % 128) 0 ++ beBytes (8 * m.length) 16

/-- The blocks of 16 words of a padded message; `fuel` bounds how many. -/
def shaBlocks : Nat → List Byte → List (List (BitVec 64))
  | 0, _ => []
  | fuel + 1, bs => if bs.isEmpty then [] else (beChunks 8 16 (bs.take 128)).map (BitVec.ofNat 64) :: shaBlocks fuel (bs.drop 128)

/-- SHA-512 (R306, R334, R335). -/
def sha512 (m : List Byte) : BitVec 512 :=
  let v := (shaBlocks (m.length / 128 + 2) (shaPad m)).foldl shaBlock shaInit
  BitVec.ofNat 512 (v.foldl (fun a x => a * 18446744073709551616 + x.toNat) 0)

/-- The 64 bytes of a digest, most significant first. -/
def digestBytes (d : BitVec 512) : List Byte := beBytes d.toNat 64

/-- The measurement extended by a stage's digest: SHA-512 of both (R334). -/
def extendMeasure (m d : BitVec 512) : BitVec 512 := sha512 (digestBytes m ++ digestBytes d)

/-- b to the power of e modulo n, from e's bits downward. -/
def powMod (b e n : Nat) : Nat :=
  ((List.range (Nat.log2 e + 1)).reverse).foldl (fun a i => if e.testBit i then a * a % n * b % n else a * a % n) (1 % n)

/-- The encoded message of RSASSA-PKCS1-v1_5 with SHA-512, 512 bytes for RSA-4096 (RFC 8017, section 9.2). -/
def pkcs1Message (m : List Byte) : List Byte :=
  [0x00#8, 0x01#8] ++ List.replicate 426 0xFF#8 ++
    [0x00#8, 0x30#8, 0x51#8, 0x30#8, 0x0D#8, 0x06#8, 0x09#8, 0x60#8, 0x86#8, 0x48#8, 0x01#8, 0x65#8, 0x03#8, 0x04#8, 0x02#8, 0x03#8,
     0x05#8, 0x00#8, 0x04#8, 0x40#8] ++ digestBytes (sha512 m)

/-- Whether an RSA-4096 signature over a message verifies under a public key: the key is its modulus, 512 bytes, then its exponent, most
significant byte first (RFC 8017, section 8.2.2; log 33, PRESUMED). -/
def rsaVerify (key message signature : List Byte) : Bool :=
  let n := natOfBe (key.take 512)
  let e := natOfBe (key.drop 512)
  let x := natOfBe signature
  signature.length == 512 && decide (x < n) && beBytes (powMod x e n) 512 == pkcs1Message message

/-- The RSA-4096 signature that the device key of a module makes, 512 bytes (R335). -/
def deviceSign (module : Nat) (message : List Byte) : List Byte :=
  let key := Config.devicePrivate module
  beBytes (powMod (natOfBe (pkcs1Message message)) key.2 key.1) 512

/-- Multiplication by x in the field of AES. -/
def aesDouble (a : Byte) : Byte := (a <<< 1) ^^^ (if a.getLsbD 7 then 0x1B#8 else 0)

/-- Multiplication in the field of AES. -/
def aesMul (a b : Byte) : Byte :=
  ((List.range 8).foldl (fun (r : Byte × Byte) i => (if b.getLsbD i then r.1 ^^^ r.2 else r.1, aesDouble r.2)) (0, a)).1

/-- The inverse in the field of AES, zero for zero: the 254th power. -/
def aesInv (a : Byte) : Byte :=
  let p2 := aesMul a a
  let p4 := aesMul p2 p2
  let p8 := aesMul p4 p4
  let p16 := aesMul p8 p8
  let p32 := aesMul p16 p16
  let p64 := aesMul p32 p32
  let p128 := aesMul p64 p64
  aesMul p128 (aesMul p64 (aesMul p32 (aesMul p16 (aesMul p8 (aesMul p4 p2)))))

/-- The substitution of AES and its inverse. -/
def aesSub (a : Byte) : Byte :=
  let b := aesInv a
  b ^^^ b.rotateLeft 1 ^^^ b.rotateLeft 2 ^^^ b.rotateLeft 3 ^^^ b.rotateLeft 4 ^^^ 0x63#8
def aesUnsub (a : Byte) : Byte := aesInv (a.rotateLeft 1 ^^^ a.rotateLeft 3 ^^^ a.rotateLeft 6 ^^^ 0x05#8)

/-- Bytes combined one by one. -/
def xorBytes (a b : List Byte) : List Byte := List.zipWith (· ^^^ ·) a b

/-- The words of the key schedule of AES-256, the latest first, `n` words longer than the words of the key; `i` counts them. -/
def aesExpand : Nat → Nat → List (List Byte) → List (List Byte)
  | 0, _, w => w
  | n + 1, i, w =>
    let t := w.getD 0 []
    let u := if i % 8 = 0 then
        xorBytes ((t.drop 1 ++ t.take 1).map aesSub) [(List.range (i / 8 - 1)).foldl (fun r _ => aesDouble r) 1, 0, 0, 0]
      else if i % 8 = 4 then t.map aesSub else t
    aesExpand n (i + 1) (xorBytes (w.getD 7 []) u :: w)

/-- The 15 round keys of AES-256, 16 bytes each. -/
def aesKeys (key : List Byte) : List (List Byte) :=
  let w := (aesExpand 52 8 ((List.range 8).map fun i => (key.drop (4 * i)).take 4).reverse).reverse
  (List.range 15).map fun r => ((w.drop (4 * r)).take 4).flatten

/-- The rows of the state of AES shifted, and shifted back: byte 4 c + r is row r of column c. -/
def aesShift (s : List Byte) : List Byte := (List.range 16).map fun i => s.getD ((i + 4 * (i % 4)) % 16) 0
def aesUnshift (s : List Byte) : List Byte := (List.range 16).map fun i => s.getD ((i + 12 * (i % 4)) % 16) 0

/-- The columns of the state of AES multiplied by the polynomial whose coefficients are given. -/
def aesMix (p : List Byte) (s : List Byte) : List Byte :=
  (List.range 16).map fun i =>
    (List.range 4).foldl (fun a j => a ^^^ aesMul (p.getD ((4 + j - i % 4) % 4) 0) (s.getD (i / 4 * 4 + j) 0)) 0

/-- AES-256 on one block of 16 bytes. -/
def aesEncrypt (key block : List Byte) : List Byte :=
  let ks := aesKeys key
  let s := (List.range 13).foldl (fun s r =>
    xorBytes (aesMix [2, 3, 1, 1] (aesShift (s.map aesSub))) (ks.getD (r + 1) [])) (xorBytes block (ks.getD 0 []))
  xorBytes (aesShift (s.map aesSub)) (ks.getD 14 [])

/-- Its inverse. -/
def aesDecrypt (key block : List Byte) : List Byte :=
  let ks := aesKeys key
  let s := (List.range 13).foldl (fun s r =>
    aesMix [14, 11, 13, 9] (xorBytes ((aesUnshift s).map aesUnsub) (ks.getD (13 - r) []))) (xorBytes block (ks.getD 14 []))
  xorBytes ((aesUnshift s).map aesUnsub) (ks.getD 0 [])

/-- A tweak multiplied by x, its first byte the least significant (IEEE 1619). -/
def xtsDouble (t : List Byte) : List Byte :=
  let v := (t.reverse.foldl (fun a b => 256 * a + b.toNat) 0)
  let w := if v < 2 ^ 127 then 2 * v else (2 * v - 2 ^ 128) ^^^ 135
  (List.range 16).map fun i => BitVec.ofNat 8 (w / 256 ^ i)

/-- The tweak of block `j` of the 64-byte unit at a physical address: the address, least significant byte first, encrypted under the second
half of the key (R324). -/
def xtsTweak (key : List Byte) (unit j : Nat) : List Byte :=
  (List.range j).foldl (fun t _ => xtsDouble t)
    (aesEncrypt (key.drop 32) ((List.range 16).map fun i => BitVec.ofNat 8 (unit / 256 ^ i)))

/-- XTS-AES-256 of one block of 16 bytes at a physical address that is a multiple of 16 (R324). -/
def xtsEncrypt (key : List Byte) (pa : Nat) (block : List Byte) : List Byte :=
  let t := xtsTweak key (pa / 64 * 64) (pa % 64 / 16)
  xorBytes (aesEncrypt (key.take 32) (xorBytes block t)) t

/-- Its inverse. -/
def xtsDecrypt (key : List Byte) (pa : Nat) (block : List Byte) : List Byte :=
  let t := xtsTweak key (pa / 64 * 64) (pa % 64 / 16)
  xorBytes (aesDecrypt (key.take 32) (xorBytes block t)) t

/-- The 64 bytes of a key, the first half first (log 9, PRESUMED). -/
def keyBytes (k : Config.KeyId) : List Byte :=
  let v := match k with
    | .device m e => Config.deviceKey m e
    | .loaded v => v
  (List.range 64).map fun i => v.extractLsb' (8 * i) 8

/-- What a block of 16 bytes that is stored under one key reads as under another: the decryption of its encryption (R324). -/
def rekeyed (readKey writeKey : Config.KeyId) (pa : Nat) (block : List Byte) : List Byte :=
  xtsDecrypt (keyBytes readKey) pa (xtsEncrypt (keyBytes writeKey) pa block)

end Sys2Proof.Machine
end

