-- ==== Sys2Proof/Machine/Sparse.lean ====
section
/-! DEFINITION. Finite maps as lists of key and value pairs with strictly rising keys, and memories of bytes in the same
form that list no zero byte. -/
namespace Sys2Proof.Machine

/-- A finite map from numbers: pairs with strictly rising keys. -/
abbrev Sparse (α : Type) := List (Nat × α)

variable {α : Type}

/-- The value at `k`, if listed. -/
def spFind (k : Nat) : Sparse α → Option α
  | [] => none
  | (j, v) :: m => if j = k then some v else if k < j then none else spFind k m

/-- The value at `k`, or `d` when not listed. -/
def spGet (d : α) (m : Sparse α) (k : Nat) : α := (spFind k m).getD d

/-- The map with `v` at `k`. -/
def spPut (k : Nat) (v : α) : Sparse α → Sparse α
  | [] => [(k, v)]
  | (j, w) :: m => if j = k then (k, v) :: m else if k < j then (k, v) :: (j, w) :: m else (j, w) :: spPut k v m

/-- The map without `k`. -/
def spDrop (k : Nat) : Sparse α → Sparse α
  | [] => []
  | (j, w) :: m => if j = k then m else if k < j then (j, w) :: m else (j, w) :: spDrop k m

/-- The map with `v` at `k`, listing nothing there when `v` is what an unlisted key reads as. -/
def spSet [DecidableEq α] (d : α) (m : Sparse α) (k : Nat) (v : α) : Sparse α :=
  if v = d then spDrop k m else spPut k v m

/-- The map with the value at `k`, if listed, replaced by its image. -/
def spModify (k : Nat) (f : α → α) : Sparse α → Sparse α
  | [] => []
  | (j, w) :: m => if j = k then (k, f w) :: m else (j, w) :: spModify k f m

/-- The map with every value replaced by its image. -/
def spMap {β : Type} (f : Nat → α → β) (m : Sparse α) : Sparse β := m.map fun e => (e.1, f e.1 e.2)

/-- Whether every key is above `lo`, and they rise strictly. -/
def spRising : Option Nat → Sparse α → Bool
  | _, [] => true
  | lo, (j, _) :: m => (match lo with | none => true | some l => decide (l < j)) && spRising (some j) m

/-- The entries with keys from `lo` to `hi - 1`. -/
def spSlice (lo hi : Nat) (m : Sparse α) : Sparse α := m.filter fun e => decide (lo ≤ e.1) && decide (e.1 < hi)

/-- The byte at an address of a memory of bytes: 0 where nothing is listed (log 1, DESIGN CHOICE). -/
def cellGet (m : List Host.Cell) (a : Nat) : Byte := spGet 0 m a

/-- The memory with a byte written. -/
def cellSet (m : List Host.Cell) (a : Nat) (b : Byte) : List Host.Cell := spSet 0 m a b

/-- The `n` bytes from an address. -/
def cellRead (m : List Host.Cell) (a : Nat) : Nat → List Byte
  | 0 => []
  | n + 1 => cellGet m a :: cellRead m (a + 1) n

/-- The memory with bytes written from an address upward. -/
def cellWrite (m : List Host.Cell) (a : Nat) : List Byte → List Host.Cell
  | [] => m
  | b :: bs => cellWrite (cellSet m a b) (a + 1) bs

/-- The canonical form of a memory of bytes: addresses strictly rising, and no zero byte listed. -/
def cellsWf (m : List Host.Cell) : Bool := spRising none m && m.all fun e => e.2 != 0

end Sys2Proof.Machine
end

