-- ==== Sys2Proof/Machine/State.lean ====
section
/-! DEFINITION. The state of an Alajo 3 pod as plain data: everything the spec gives the machine (INVENTORY.md, State), the
model's own schedule (log 4, DESIGN CHOICE), the reasons a step can stop, and the state after reset. -/
namespace Sys2Proof.Machine

/-- The three parts (R4). -/
inductive Part where
  | aj16 | aj12 | aj8v
  deriving DecidableEq, Repr

/-- What is fixed for one machine: its part, revision, and the pod's dimensions (R4, R329, R330). -/
structure Strap where
  part : Part
  rev : Byte
  dimX : Nat
  dimY : Nat
  dimZ : Nat
  deriving DecidableEq, Repr

/-- The agent that an instruction executes for: none, a path, or the movement processor of a crew. -/
inductive Agent where
  | idle
  | path (u : Nat)
  | mover (crew : Nat)
  deriving DecidableEq, Repr

/-- One turn of the model's schedule (log 4, DESIGN CHOICE): a partition issues (`late`: an access of the current stack that it issues is
performed in a later turn, R66), a movement processor issues, an event or command
happens, a stack's CYCLES advances, or a TLB fills or drops a translation (R323). -/
inductive Turn where
  | issue (home core part : Nat) (late : Bool)
  | move (crew : Nat)
  | tileWord (crew word : Nat)
  | event (i : Instr)
  | tick (home n : Nat)
  | tlbFill (unit : Nat) (ptbase : Nat) (asid : Nat) (page : Nat)
  | tlbDrop (unit : Nat)
  deriving DecidableEq, Repr

/-- The trap codes of R280. -/
inductive TrapCode where
  | illegal | absent | priv | fetch | pcwrap | empty | dead | page | prot | align | bound | poison | rooted | diverged
  | pond | window | postfault | plane | collide | matrix | token | nested | handle | barrier | node | queue | brood
  | chain | runaway | image | movefault | trap | bkpt
  deriving DecidableEq, Repr

/-- The state of a register (R24). -/
inductive RegState where
  | full | empty | dead | pending
  deriving DecidableEq, Repr

/-- The register files that a trap frame's REG names (R285). -/
inductive RegFile where
  | vec | scal | pred
  deriving DecidableEq, Repr

/-- A register: an allocation register, a scalar or a predicate (R24, R285). -/
structure RegName where
  file : RegFile
  num : Nat
  deriving DecidableEq, Repr

/-- A trap about to be taken, with what its frame says of it (R281, R285). -/
structure Trap where
  code : TrapCode
  num : Nat := 0
  reg : Option RegName := none
  lane : Nat := 0
  addr : DWord := 0
  deriving DecidableEq, Repr

/-- A frame record: return PC, frame size, the caller's window base (R57). -/
structure Frame where
  ret : Pc
  size : Nat
  base : Nat
  deriving DecidableEq, Repr

/-- A held-operation record and where it lies (R78, R206): OP, element type, CAUSE, ADDR, LANE, SEQ, DATA; `area` is its
place in the landing zone of `home`. -/
structure Held where
  home : Nat
  area : Nat
  op : Nat
  type : Nat
  cause : Nat
  addr : DWord
  lane : Nat
  seq : Nat
  data : List Byte
  deriving DecidableEq, Repr

/-- A post-table entry (R56, R73), with the records its FAILLIST heads. -/
structure PostEntry where
  valid : Bool
  faulted : Bool
  home : Nat
  outst : Nat
  stream : Nat
  seq : Nat
  held : List Held
  deriving DecidableEq, Repr

/-- A free post-table entry. -/
def PostEntry.free : PostEntry :=
  { valid := false, faulted := false, home := 0, outst := 0, stream := 0, seq := 0, held := [] }

/-- The hint words read so far in the issue group (R123, R124). -/
structure Hints where
  imm : Option (BitVec 23)
  rnd : Option Dir
  fmt : Option TypeCode
  sched : Bool
  words : Nat
  deriving DecidableEq, Repr

/-- No hint word read. -/
def Hints.none : Hints := { imm := Option.none, rnd := Option.none, fmt := Option.none, sched := false, words := 0 }

/-- What a long-latency producer writes (R25): allocation registers, or a scalar. -/
inductive Dest where
  | vec (regs : List Nat)
  | scal (n : Nat)
  deriving DecidableEq, Repr

/-- One lane of an access: lane position, virtual address, physical address, key slot of its page (none for host memory), operand
bytes; a pad access has its pad offset as both addresses. -/
structure LaneAcc where
  lane : Nat
  va : DWord
  pa : Nat
  key : Option Nat
  data : List Byte
  deriving DecidableEq, Repr

/-- What an access does at its home (R193, R196, R198, R269, R276 to R278; pad: R210). -/
inductive MemOp where
  | load (size : MemSize)
  | store (size : MemSize)
  | atom (op : AtomOp) (type : AtomType)
  | pop (size : Nat)
  | append (opened : Option Nat)
  | padLoad (size : MemSize)
  | padAtom (op : AtomOp) (type : AtomType)
  | fork (chain : Nat)
  | release
  | accRead (acc col n : Nat)
  | lost
  deriving DecidableEq, Repr

/-- The posts of a stream of a knot at a home, up to one (R72, R73). -/
structure PostMark where
  home : Nat
  stream : Nat
  seq : Nat
  deriving DecidableEq, Repr

/-- An access of an instruction: what it does, what it writes, its lanes, the first word of its issue group, and the posts that it comes
after when it has been issued before they were performed (R75). -/
structure Access where
  op : MemOp
  dest : Dest
  lanes : List LaneAcc
  group : Pc
  after : List PostMark := []
  deriving DecidableEq, Repr

/-- A pending-fault record of the path block (R26, R287): the registers still pending, the cause (E_PAGE, E_POISON, or what a
replay met), the lowest lane concerned and its address, and the access that a replay performs. A register of a spilled frame,
`n` below the first that is left, is listed as 65536 - n; s30 and s31 of a path in its handler are listed as 62 and 63 (R288). -/
structure FaultRec where
  dest : Dest
  cause : TrapCode
  lane : Nat
  addr : DWord
  replay : Access
  deriving DecidableEq, Repr

/-- What arrives for an empty register (R25, R287): for each register, lanes and their values; a scalar; a fault; or what an access
of the current stack gives that has been issued and not yet performed (R66, R68). -/
inductive Fill where
  | lanes (vals : List (Nat × List (Nat × Word)))
  | scal (v : DWord)
  | fault (r : FaultRec)
  | access (a : Access)
  deriving DecidableEq, Repr

/-- A value in flight to an empty register (R25). -/
structure Flight where
  id : Nat
  dest : Dest
  fill : Fill
  deriving DecidableEq, Repr

/-- A place on a core: core, partition, slot, the order in which it was taken (R52). -/
structure Seat where
  core : Nat
  part : Nat
  slot : Nat
  since : Nat
  deriving DecidableEq, Repr

/-- A stored image: the landing zone, offset and length it occupies, its age (cycle and order of parking), the seed and
size of its undocumented block, and its FLAGS (R37, R54, R55, R57). -/
structure Stored where
  home : Nat
  off : Nat
  len : Nat
  age : Nat
  order : Nat
  seed : Nat
  block : Nat
  flags : Nat
  deriving DecidableEq, Repr

/-- Where a path is: on a core; pushed under a running path (R47); hopping; parked (R32); waiting at a JOIN (R43); held
for service, on its core or switched out (R292, R294); an image given to a handler task (R295); in a crew image (R301). -/
inductive Place where
  | resident (seat : Seat)
  | pushed
  | flying (dest : Nat)
  | parked (img : Stored)
  | joined (inst : Nat) (img : Stored)
  | held (seat : Seat)
  | heldOut (img : Stored)
  | handled (img : Stored)
  | crewed
  deriving DecidableEq, Repr

/-- The halt of a sibling (R283): running, halting with its skid so far, halted with its skid. -/
inductive Halt where
  | running
  | halting (skid : Nat)
  | halted (skid : Nat)
  deriving DecidableEq, Repr

/-- What a blocked path waits for: a register, a barrier phase, the step of its crew (`barrier`), and others (R25, R85, R214). -/
inductive Wait where
  | register (r : RegName)
  | phase (id : Nat)
  | stream | post | fence | join | barrier | regroup | loads | handle | mailbox | matrix | accumulator
  | filter | siblings | memory
  deriving DecidableEq, Repr

/-- What a path is in the middle of, at its PC: an access to perform after a hop (R38), a JOIN arrival after a hop (R41), a PSTEP or
barrier it has arrived at (R85, R214), a REGROUP window with its destination scalar (R50), an accumulator request (R231), a cancellation
(R273), the replay of loads visiting homes in order (R195), or a PFIX that waits: the operations it has sent, and its entry with the
records still to send (R291). -/
inductive Pend where
  | none
  | access (a : Access)
  | arrive (inst : Nat)
  | step
  | barrier (phase : Nat)
  | regroup (key : DWord) (cycle order dst : Nat)
  | accget
  | cancel (id : Nat)
  | replay (todo : List FaultRec)
  | pfix (sent : Nat) (old : PostEntry)
  deriving DecidableEq, Repr

/-- A trap that has entered the supervisor, or gone to a handler task, and not yet returned (R284, R288, R295): the area of
its frame or fault record, the PC it holds, its code, the function that was executing, what the path was in the middle
of at that PC: what is pending, and the lanes of a post already sent (R205); and the other traps that the path held as pending, which are
taken at its resumption (R283). -/
structure Entry where
  home : Nat
  off : Nat
  pc : Pc
  code : TrapCode
  fn : Nat
  pend : Pend
  sent : Mask
  held : List Trap
  deriving DecidableEq, Repr

/-- The registers and control state that each path holds for itself (R149), its stamp among them (R57, R271). Allocation registers,
scalars and predicates that are not listed are dead; scalars not listed hold 0. -/
structure Ctx where
  mask : Mask
  pc : Pc
  wrapped : Bool
  fn : Nat
  base : Nat
  frames : List Frame
  scal : Sparse DWord
  vst : Sparse RegState
  sst : Sparse RegState
  pst : Sparse RegState
  mode : BitVec 5
  fpstat : BitVec 5
  posts : List PostEntry
  ponds : List Nat
  pushed : List Nat
  stamp : DWord
  wd : Nat
  sent : Mask
  deriving DecidableEq, Repr

/-- A path: a control-divergent fragment of a knot (R12, R47, R149), where it is, and what it is doing. -/
structure Path where
  knot : Nat
  home : Nat
  place : Place
  ctx : Ctx
  hints : Hints
  super : Bool
  entry : Option Entry
  flights : List Flight
  faults : List FaultRec
  pend : Pend
  halt : Halt
  trapHeld : List Trap
  wait : Option Wait
  blockedAt : Option Nat
  blockedCycle : Nat
  lastIssue : Nat
  deriving DecidableEq, Repr

/-- A pond instance (R39 to R45): pond, anchor, expected and arrived masks, and the PC, base and frame count of the first
arrival. -/
structure Inst where
  id : Nat
  pond : Nat
  anchor : Nat
  expected : Mask
  arrived : Mask
  first : Option (Pc × Nat × Nat)
  deriving DecidableEq, Repr

/-- The per-knot registers that govern translation, traps and the watchdog (R322, R331). -/
structure KnotRegs where
  ptbase : DWord
  asid : BitVec 16
  keysel : DWord
  vecbase : DWord
  window : Nat
  watchdog : Word
  deriving DecidableEq, Repr

/-- A knot (R12): what its fragments share. `unseen` holds earlier words of rewritten call sites, by word index, that its fetches may
still give before its next IFENCE (R93, R317). -/
structure Knot where
  launch : Nat
  module : Nat
  knotId : Nat
  nknots : Nat
  grant : Nat
  alloc : Nat
  brood : DWord
  crew : Option (Nat × Nat)
  node : Option Nat
  handling : Option Nat
  regs : KnotRegs
  vregs : Sparse (List Word)
  preds : Sparse Mask
  insts : List Inst
  batch : Nat
  accs : List Nat
  baras : List (Scope × Nat × Nat)
  tag : DWord
  serving : Bool
  reserved : Nat
  unseen : List (Nat × Word)
  deriving DecidableEq, Repr

/-- A pad region (R250); START and LENGTH in bytes. -/
structure Region where
  start : Nat
  length : Nat
  plane : Bool
  rule : Nat
  clear : Bool
  deriving DecidableEq, Repr

/-- A tile register (R219): configuration, element bytes, header store, and the rows that hold an uncorrectable word (R287, log 19,
DEDUCED). -/
structure TileReg where
  cfg : Option DWord
  bytes : List Host.Cell
  hdr : List Host.Cell
  poison : List Nat
  deriving DecidableEq, Repr

/-- The weight latch (R228): the tile or tiles latched, and the weight scale. -/
structure Latch where
  low : TileReg
  high : TileReg
  scale : Word
  deriving DecidableEq, Repr

/-- An accumulator (R231, R233): its owner, whether the unit holds its token, its elements by 128 * row + column, and
those that are uncorrectable. -/
structure AccReg where
  owner : Option Nat
  unit : Bool
  cells : Sparse Word
  poison : List Nat
  deriving DecidableEq, Repr

/-- An operation of the matrix queue (R221): what majors 0x36 and 0x37 queue. -/
inductive MatKind where
  | config (tile : Nat) (word : DWord)
  | load (tile : Nat) (eb hb : Nat)
  | store (tile : Nat) (eb hb : Nat)
  | zero (tile : Nat)
  | weights (tile : Nat) (scale : Word)
  | multiply (acc tile : Nat) (type : ActType) (rows : List Nat) (scales : Option (List Word))
  deriving DecidableEq, Repr

/-- A queued operation, its knot and batch (R222). -/
structure MatOp where
  knot : Nat
  batch : Nat
  kind : MatKind
  deriving DecidableEq, Repr

/-- The states of a handle (R236). -/
inductive HandleState where
  | free | filling | full | draining
  deriving DecidableEq, Repr

/-- A handle (R236). -/
structure HandleReg where
  state : HandleState
  exp : Nat
  cred : Nat
  faulted : Bool
  deriving DecidableEq, Repr

/-- A sector of a copy (R243): its index, its addresses, whether each is in the pad, and its data when it has been read
ahead of any write of the copy (R245). -/
structure Sector where
  idx : Nat
  src : DWord
  dst : DWord
  spad : Bool
  dpad : Bool
  data : Option (List Byte)
  deriving DecidableEq, Repr

/-- A copy in flight (R243 to R245): what is left of it; `ahead`: it reads every source before it writes; `ordered`: its
sectors of one destination go in order (SCATTER). -/
structure Copy where
  id : Nat
  handle : Nat
  pc : Pc
  sectors : List Sector
  ahead : Bool
  ordered : Bool
  deriving DecidableEq, Repr

/-- A movement fault (R241). -/
structure MoveFault where
  pc : Pc
  cause : TrapCode
  handle : Nat
  sector : Nat
  addr : DWord
  stop : Pc
  atIssue : Bool
  deriving DecidableEq, Repr

/-- What a movement processor does: runs, has ended, or is stopped on a fault. -/
inductive MoverRun where
  | running
  | ended
  | stopped
  deriving DecidableEq, Repr

/-- The movement processor (R240, R241). `unseen` is as for a knot; `list` holds the positions of an index list that have been read, and
their indices, while a GATHER or SCATTER reads it (R244). -/
structure Mover where
  pc : Pc
  wrapped : Bool
  fn : Nat
  g : Sparse DWord
  stack : List Pc
  hints : Hints
  run : MoverRun
  fault : Option MoveFault
  pending : Option MoveFault
  reported : Bool
  ptbase : DWord
  asid : BitVec 16
  keysel : DWord
  window : Nat
  wait : Bool
  blockedAt : Option Nat
  unseen : List (Nat × Word)
  list : List (Nat × Word)
  deriving DecidableEq, Repr

/-- The engine that an engine crew holds (R217). `cfgs` and `fmt` are the configurations and the latched format as every
queued operation leaves them (R221); `begun` is the latest batch of each knot that the unit has begun (R235); `words` lists the
pad words, by number, that the TLD or TST at the head of the queue has moved before the rest of it, with what a TLD read there
and whether that is uncorrectable (R223). -/
structure Engine where
  tiles : Sparse TileReg
  cfgs : Sparse DWord
  fmt : Option TypeCode
  latch : Option Latch
  accs : Sparse AccReg
  accQueue : List (Nat × Nat)
  queue : List MatOp
  begun : Sparse Nat
  words : Sparse (List Byte × Bool)
  handles : Sparse HandleReg
  mailbox : List Word
  mover : Mover
  copies : List Copy
  deriving DecidableEq, Repr

/-- Where a crew is: on a core, or a crew image in its stack's landing zone (R301). -/
inductive CrewPlace where
  | core (core : Nat)
  | stored (img : Stored)
  deriving DecidableEq, Repr

/-- A crew (R13, R81 to R87). `next` holds the next planes; `writers` lists, for each word, its writers as the key
slot * 1024 + lane, with the value each last wrote; `leaving`: it is being switched out, its engine on the way to its stopping units
(R35, R300). -/
structure Crew where
  launch : Nat
  index : Nat
  home : Nat
  place : CrewPlace
  size : Nat
  members : List Nat
  ended : List Nat
  padSize : Nat
  pad : List Host.Cell
  next : List Host.Cell
  regions : Sparse Region
  parity : List Nat
  writers : Sparse (Sparse Word)
  arrived : List Nat
  collided : Option (Nat × Nat)
  decision : Nat
  poison : List Nat
  leaving : Bool
  engine : Option Engine
  deriving DecidableEq, Repr

/-- A registered launch queue (R326, R337). -/
structure QueueReg where
  header : Nat
  base : Nat
  slots : Nat
  regs : KnotRegs
  deriving DecidableEq, Repr

/-- One entry of a node table (R260). -/
structure NodeEnt where
  entry : Nat
  kind : Nat
  home : Nat
  prio : Nat
  recsz : Nat
  width : Nat
  alloc : Nat
  coalesce : Nat
  handler : Option Nat
  timer : Nat
  count : Nat
  arg : DWord
  deriving DecidableEq, Repr

/-- An open batch of a clutch (R263): its brood, the cycle of HOME of its first record, its records in order. -/
structure Batch where
  brood : DWord
  opened : Nat
  records : List (List Word)
  deriving DecidableEq, Repr

/-- A node of a running launch (R262, R263): its entry, counter, whether it has released or been abandoned, its batches. -/
structure Node where
  ent : NodeEnt
  counter : Nat
  spent : Bool
  abandoned : Bool
  batches : List Batch
  deriving DecidableEq, Repr

/-- The fields of a launch record that the launch keeps (R249). -/
structure LaunchRec where
  kernel : Nat
  movement : Option Nat
  nknots : Nat
  width : Nat
  alloc : Nat
  pad : Nat
  crew : Nat
  prio : Nat
  place : Nat
  mode : BitVec 5
  args : List DWord
  base : DWord
  stride : DWord
  compl : DWord
  regions : Sparse Region
  barcnt : List Nat
  deriving DecidableEq, Repr

/-- A launch (R248, R254): the header address of its queue, its sequence number, record, nodes, brood, and what has happened to
it; `handed` says for each stack below which index every index of that stack has been handed out. -/
structure Launch where
  module : Nat
  queue : Nat
  seq : Nat
  what : LaunchRec
  regs : KnotRegs
  brood : DWord
  nodes : Sparse Node
  handed : Sparse Nat
  ownEnded : Bool
  killed : Bool
  moveFault : Bool
  cancelled : Bool
  deriving DecidableEq, Repr

/-- What waits for a place on a stack (R256 to R264, R295): knot indices of a batch, a crew, a node task with its records,
a handler task for a saved path. -/
inductive WorkKind where
  | knots (idxs : List Nat)
  | crew (idx : Nat)
  | task (node : Nat) (stamp : DWord) (records : List (List Word))
  | handler (node : Nat) (path : Nat) (image record : DWord)
  deriving DecidableEq, Repr

/-- Unplaced work: its launch, priority, whether it may be stolen, its order of arrival (cycle, node index, order), and the number of
the batch of launch indices that it arrived in, 0 for a task or a handler (R256, R259). -/
structure Work where
  launch : Nat
  prio : Nat
  any : Bool
  cycle : Nat
  order : Nat
  batch : Nat
  kind : WorkKind
  deriving DecidableEq, Repr

/-- The state of one stack. -/
structure StackSt where
  cycles : Nat
  halted : Bool
  parkmax : BitVec 7
  withdrawn : List Nat
  corrected : List (Nat × Nat)
  pool : List Nat
  work : List Work
  deriving DecidableEq, Repr

/-- The phase of a module's pre-emption (R300 to R302). -/
inductive Preempt where
  | running | stopping | stopped
  deriving DecidableEq, Repr

/-- The state of one module: launch unit, management core, keys, circuits, service. -/
structure ModuleSt where
  ring : Option Nat
  queues : Sparse QueueReg
  seq : Nat
  current : Option Nat
  epoch : Nat
  keys : Sparse (BitVec 512)
  signKeys : List (DWord × List Byte)
  circuits : Sparse (BitVec 16)
  clock : Nat
  coord : BitVec 10
  retired : BitVec 16
  uncorr : Bool
  replace : Bool
  measure : BitVec 512
  failedStage : Option Nat
  inbox : List (Nat × List Byte)
  preempt : Preempt
  deriving DecidableEq, Repr

/-- What a post does at its home (R72, R80): a store, an atomic, a vector add, a decrement of a counter node. -/
inductive PostOp where
  | store
  | atom (op : AtomOp) (type : AtomType)
  | vadd (half : Bool) (type : BitVec 3)
  | dec (launch node : Nat)
  deriving DecidableEq, Repr

/-- A post in flight (R72, R73). -/
structure Post where
  id : Nat
  launch : Nat
  knot : Nat
  path : Nat
  home : Nat
  stream : Nat
  seq : Nat
  op : PostOp
  code : Nat
  type : Nat
  va : DWord
  pa : Nat
  key : Option Nat
  asid : BitVec 16
  lane : Nat
  data : List Byte
  stamp : DWord
  window : Nat
  deriving DecidableEq, Repr

/-- An acknowledgement on its way to its path (R73, R77): performed, or held with its record. -/
structure Ack where
  id : Nat
  path : Nat
  home : Nat
  held : Option Held
  deriving DecidableEq, Repr

/-- A stream held after a failure at its home (R78). -/
structure HeldStream where
  knot : Nat
  home : Nat
  stream : Nat
  last : Nat
  deriving DecidableEq, Repr

/-- An EMIT record on its way to its clutch (R263, R265). -/
structure Emit where
  id : Nat
  path : Nat
  launch : Nat
  node : Nat
  stamp : DWord
  words : List Word
  deriving DecidableEq, Repr

/-- A barrier phase (R213): launch, scope instance (0 for the phases that belong to a crew, which have the crew and the slots that arrived),
id, count, E. -/
structure Phase where
  id : Nat
  launch : Nat
  scope : Scope
  inst : Nat
  crew : Option Nat
  bid : Nat
  count : Nat
  slots : List Nat
  expected : Nat
  complete : Bool
  deriving DecidableEq, Repr

/-- An entry of a device queue: its pusher's stamp, and its bytes (R267). -/
structure QEntry where
  stamp : DWord
  bytes : List Byte
  deriving DecidableEq, Repr

/-- An entry held in the hardware ring or the backing region (R267): its pusher's stamp, its slot there, and where its bytes lie. -/
structure QSlot where
  stamp : DWord
  slot : Nat
  pa : Nat
  key : Option Nat
  deriving DecidableEq, Repr

/-- The device state of a queue (R267): the entries of the hardware ring and of the backing region in order, the slot where the next one of
each goes, and the offset of the ring in its stack's landing zone, none where it has none. -/
structure QueueSt where
  ring : List QSlot
  back : List QSlot
  ringNext : Nat
  backNext : Nat
  area : Option Nat
  deriving DecidableEq, Repr

/-- A brood (R271): its parent, depth, root launch, and whether it is cancelled (R273). -/
structure Brood where
  parent : Option Nat
  depth : Nat
  root : Nat
  cancelled : Bool
  deriving DecidableEq, Repr

/-- A cancellation in progress (R273): its root, and the hops in flight at its start. -/
structure Cancel where
  id : Nat
  root : Nat
  hops : List Nat
  deriving DecidableEq, Repr

/-- An entry of a migration map (R28). -/
structure MapEnt where
  offset : Nat
  vlive : Word
  slive : Word
  plive : Byte
  pond : Option Nat
  callsite : Bool
  deriving DecidableEq, Repr

/-- The kinds of function (R307). -/
inductive FnKind where
  | fn | kernel | movement
  deriving DecidableEq, Repr

/-- A bound function (R307, R313): its extent in bytes, kind and migration map; its key is its heap-relative entry. -/
structure Fn where
  size : Nat
  kind : FnKind
  map : List MapEnt
  deriving DecidableEq, Repr

/-- A global symbol of a bound object (R308). -/
structure Symbol where
  name : List Byte
  function : Bool
  value : DWord
  deriving DecidableEq, Repr

/-- A bound object: its address space and its global symbols (R308). -/
structure Object where
  asid : BitVec 16
  symbols : List Symbol
  deriving DecidableEq, Repr

/-- A lazily bound function (R316): its object's bytes, its section, the addresses of every section, its stub, its bound
address, the heap words that call the stub and the GOT entries that name it. -/
structure Lazy where
  stub : Nat
  bytes : List Byte
  sect : Nat
  addrs : List Nat
  asid : BitVec 16
  bound : Option Nat
  calls : List (Nat × Int)
  gots : List (DWord × Int)
  deriving DecidableEq, Repr

/-- What landing-zone space an area holds: a trap frame, a held-operation record, an image, a movement fault record, a
queue ring. -/
inductive AreaKind where
  | frame | record | image | movement | crewImage | ring
  deriving DecidableEq, Repr

/-- A part of a landing zone in use (R36, R37): kind, length, and whether it lies in a knot's own reservation. -/
structure Area where
  kind : AreaKind
  len : Nat
  own : Option Nat
  deriving DecidableEq, Repr

/-- A translation that a TLB holds (R323): the leaf's fields as the walk found them. -/
structure TlbEnt where
  unit : Nat
  asid : Nat
  page : Nat
  pa : Nat
  key : Nat
  heap : Bool
  w : Bool
  rd : Bool
  deriving DecidableEq, Repr

/-- What the host last received over Larzon (R71, R327). -/
structure HostAnswer where
  data : List Byte
  error : Bool
  deriving DecidableEq, Repr

/-- Memory of the pod and what belongs to its bytes: contents, the key each byte was stored under, poisoned sectors,
landing zones (by home * 2^31 + offset), their areas, TLB contents, and the host's lines. -/
structure MemSt where
  bytes : List Host.Cell
  keys : Sparse Config.KeyId
  poison : List Nat
  zone : List Host.Cell
  areas : Sparse Area
  tlb : List TlbEnt
  lines : Sparse (List Byte)
  shared : List Nat
  refs : Sparse Nat
  deriving DecidableEq, Repr

/-- The code heap (R313): words by word index, bound functions by entry, objects, backing pages by heap page, lazily bound
functions. -/
structure HeapSt where
  words : Sparse Word
  fns : Sparse Fn
  objects : List Object
  pages : Sparse (List Nat)
  lazies : List Lazy
  deriving DecidableEq, Repr

/-- A chain (R275): its descriptor page, the key of its pages, and the stamp it was created under. -/
structure ChainReg where
  page : Nat
  key : Option Nat
  brood : DWord
  deriving DecidableEq, Repr

/-- What moves between agents: posts, acknowledgements, EMIT records, held streams, barrier phases, device queues,
broods, cancellations, chains. -/
structure FlowSt where
  posts : List Post
  acks : List Ack
  emits : List Emit
  held : List HeldStream
  bars : List Phase
  queues : Sparse QueueSt
  broods : Sparse Brood
  cancels : List Cancel
  chains : List ChainReg
  deriving DecidableEq, Repr

/-- The state of the pod. -/
structure State where
  strap : Strap
  cur : Agent
  late : Bool
  agenda : List Turn
  picks : List Nat
  serial : Nat
  round : Nat
  uid : Nat
  fresh : Nat
  mem : MemSt
  heap : HeapSt
  flow : FlowSt
  paths : Sparse Path
  knots : Sparse Knot
  crews : Sparse Crew
  launches : Sparse Launch
  stks : Sparse StackSt
  modules : Sparse ModuleSt
  host : HostAnswer
  deriving DecidableEq, Repr

/-- Why a step stops with a fault. -/
inductive Fault where
  /-- An instruction was executed when no agent, or one that does not exist, was current: raised by the meanings of the
  word rows. Safe: the hardware executes an instruction only for the agent that fetched it, and `step` sets it. -/
  | noAgent
  deriving DecidableEq, Repr

/-- Why an instruction has no meaning. -/
inductive Refusal where
  /-- The instruction is not modelled: raised by the dispatch. Safe. -/
  | notModelled (mnemonic : String)
  deriving DecidableEq, Repr

/-- A stack after reset (R331, R334): PARKMAX 50, the rest empty; CYCLES 0 is log 7, DESIGN CHOICE. -/
def StackSt.reset : StackSt :=
  { cycles := 0, halted := false, parkmax := 50, withdrawn := [], corrected := [], pool := [], work := [] }

/-- The measurement of verified firmware stages: the digest of each in order extends 64 zero bytes (R334). -/
def measureOf (stages : List (List Byte)) : BitVec 512 := stages.foldl (fun m st => extendMeasure m (sha512 st)) 0

/-- A module after reset (R248, R330, R332, R334): no registrations, sequence counter 0, clock 1,400 MHz. -/
def ModuleSt.reset (m : Nat) : ModuleSt :=
  { ring := none, queues := [], seq := 0, current := none, epoch := 0, keys := [], signKeys := [], circuits := [],
    clock := 1400, coord := 0, retired := 0, uncorr := false, replace := false, measure := measureOf (Config.firmware m), failedStage := none,
    inbox := [], preempt := .running }

/-- Memory after power-on: nothing listed, no TLB entry, no host line (R334, log 1, DESIGN CHOICE). -/
def MemSt.reset : MemSt :=
  { bytes := [], keys := [], poison := [], zone := [], areas := [], tlb := [], lines := [], shared := [], refs := [] }

/-- Nothing bound (R334). -/
def HeapSt.reset : HeapSt := { words := [], fns := [], objects := [], pages := [], lazies := [] }

/-- Nothing in flight. -/
def FlowSt.reset : FlowSt :=
  { posts := [], acks := [], emits := [], held := [], bars := [], queues := [], broods := [], cancels := [], chains := [] }

/-- The pod right after reset (R334): one AJ3-16 of revision 1 (log 3, DESIGN CHOICE), nothing registered, bound, placed or in flight. A
stack or module that is not listed is in its reset state. -/
def State.reset : State :=
  { strap := { part := .aj16, rev := 1, dimX := 1, dimY := 1, dimZ := 1 }
    cur := .idle, late := false, agenda := [], picks := [], serial := 0, round := 0, uid := 1, fresh := 0
    mem := .reset, heap := .reset, flow := .reset
    paths := [], knots := [], crews := [], launches := [], stks := [], modules := []
    host := { data := [], error := false } }

end Sys2Proof.Machine
end

