-- ==== Sys2Proof/Machine/Bits.lean ====
section
/-! DEFINITION. Masks and lanes, byte order, and the plain bit-field helpers of the meanings. -/
namespace Sys2Proof.Machine

/-- The lane positions below `n` at which a mask is set, in ascending order (R12). -/
def lanesOf (m : Mask) (n : Nat) : List Nat := (List.range n).filter fun l => m.getLsbD l

/-- The mask with the lanes of a list. -/
def maskOf (ls : List Nat) : Mask := ls.foldl (fun m l => m ||| (1#1024 <<< l)) 0

/-- The mask of every lane below a grant. -/
def maskBelow (n : Nat) : Mask := (1#1024 <<< n) - 1

/-- The number of lanes of a mask. -/
def countOf (m : Mask) : Nat := (lanesOf m 1024).length

/-- The lowest lane of a mask; 0 for an empty mask, as STREAM takes it (R73). -/
def lowestOf (m : Mask) : Nat := (lanesOf m 1024).headD 0

/-- The mask summary: bit i set when mask word i is non-empty (R20). -/
def summaryOf (m : Mask) : Word :=
  BitVec.ofNat 32 ((List.range 32).foldl (fun a i => if m.extractLsb' (32 * i) 32 = 0 then a else a + 2 ^ i) 0)

/-- `n` bytes of a number, least significant first (R9). -/
def bytesOfNat (v : Nat) : Nat → List Byte
  | 0 => []
  | n + 1 => BitVec.ofNat 8 v :: bytesOfNat (v / 256) n

/-- `n` bytes of a list from an offset. -/
def sub (bs : List Byte) (off n : Nat) : List Byte := (bs.drop off).take n

/-- The number whose bytes, least significant first, these are (R9). -/
def natOfBytes : List Byte → Nat
  | [] => 0
  | b :: bs => b.toNat + 256 * natOfBytes bs

/-- The 32-bit words of a list of bytes, four by four. -/
def wordsOfBytes : List Byte → List Word
  | b0 :: b1 :: b2 :: b3 :: bs => (b3 ++ b2 ++ b1 ++ b0) :: wordsOfBytes bs
  | _ => []

/-- The bytes of 32-bit words in order. -/
def bytesOfWords (ws : List Word) : List Byte := ws.flatMap bytesOfWord4
where
  /-- The four bytes of a word. -/
  bytesOfWord4 (w : Word) : List Byte :=
    [w.extractLsb' 0 8, w.extractLsb' 8 8, w.extractLsb' 16 8, w.extractLsb' 24 8]

/-- `x` rounded up to a multiple of `n`. -/
def roundUp (x n : Nat) : Nat := (x + n - 1) / n * n

/-- The first element of a list that satisfies a test, with its position. -/
def findIdx {α : Type} (p : α → Bool) : List α → Option (Nat × α)
  | [] => none
  | a :: as => if p a then some (0, a) else (findIdx p as).map fun r => (r.1 + 1, r.2)

/-- The list with the element at `n` replaced. -/
def setAt {α : Type} (n : Nat) (v : α) (l : List α) : List α := l.set n v

/-- The list with the element of least key put first and removed from its place; none when empty. -/
def leastBy {α : Type} (key : α → Nat) : List α → Option α
  | [] => none
  | a :: as =>
    match leastBy key as with
    | none => some a
    | some b => if key a ≤ key b then some a else some b

/-- Insert in ascending order of a key, after the elements of equal key. -/
def insertBy {α : Type} (lt : α → α → Bool) (a : α) : List α → List α
  | [] => [a]
  | b :: bs => if lt a b then a :: b :: bs else b :: insertBy lt a bs

/-- Stable insertion sort by an order. -/
def sortBy {α : Type} (lt : α → α → Bool) (l : List α) : List α := l.foldl (fun acc a => insertBy lt a acc) []

end Sys2Proof.Machine
end

