-- ==== Sys2Proof/Machine/Memory.lean ====
section
/-! DEFINITION. Physical memory: which addresses exist, keys, poison, host lines, landing zones, and translation
(spec/03 R58 to R62, spec/21 R321 to R324, R327, R331). A byte address below 2^52 is physical; from 2^52 upward it names
byte (home * 2^31 + offset) of a landing zone. -/
namespace Sys2Proof.Machine

/-- Stacks of a part (R4). -/
def Strap.stackCount (c : Strap) : Nat :=
  match c.part with
  | .aj16 => 16
  | .aj12 => 12
  | .aj8v => 8

/-- Whether the part has matrix units (R4, R5). -/
def Strap.hasMatrix (c : Strap) : Bool := c.part != .aj8v

/-- Modules of the pod; an AJ3-8V forms a pod of one (R6, R329). -/
def Strap.moduleCount (c : Strap) : Nat := if c.part = .aj8v then 1 else c.dimX * c.dimY * c.dimZ

/-- Whether a home code names a present stack of a module of the pod (R59, R61). -/
def Strap.hasHome (c : Strap) (h : Nat) : Bool := decide (h / 16 < c.moduleCount) && decide (h % 16 < c.stackCount)

/-- The homes of a module in ascending stack order. -/
def Strap.homesOf (c : Strap) (m : Nat) : List Nat := (List.range c.stackCount).map fun s => 16 * m + s

/-- Every home of the pod in ascending home code. -/
def Strap.homes (c : Strap) : List Nat := (List.range c.moduleCount).flatMap c.homesOf

/-- Whether a module is one of the pod (R6, R329). -/
def Strap.hasModule (c : Strap) (m : Nat) : Bool := decide (m < c.moduleCount)

/-- The first address that names a landing-zone byte. -/
def zoneBase : Nat := 4503599627370496

/-- The address of byte `off` of the landing zone of a home. -/
def zoneAddr (home off : Nat) : Nat := zoneBase + home * Config.zoneBytes + off

/-- The first address of a stack's memory (R59). -/
def stackBase (home : Nat) : Nat := home * 274877906944

/-- The home of a byte: module and stack of a physical address, the home of a zone byte; host is 0x3FF0 (R59, R61). -/
def homeOf (pa : Nat) : Nat :=
  if zoneBase ≤ pa then (pa - zoneBase) / Config.zoneBytes
  else if pa / 4398046511104 = Config.hostModule then Config.hostHome
  else pa / 274877906944

/-- Whether a physical address exists: host, or a present stack and an offset below 64 GiB (R59). -/
def validPa (c : Strap) (pa : Nat) : Bool :=
  decide (pa < zoneBase) &&
    (decide (pa / 4398046511104 = Config.hostModule) ||
      (c.hasHome (homeOf pa) && decide (pa % 274877906944 < Config.stackBytes)))

/-- The state of a stack; one not listed is as after reset. -/
def State.stk (s : State) (h : Nat) : StackSt := spGet StackSt.reset s.stks h

/-- The state with a stack's state changed. -/
def State.setStk (s : State) (h : Nat) (f : StackSt → StackSt) : State := { s with stks := spPut h (f (s.stk h)) s.stks }

/-- The state of a module; one not listed is as after reset. -/
def State.mod (s : State) (m : Nat) : ModuleSt := (spFind m s.modules).getD (ModuleSt.reset m)

/-- The state with a module's state changed. -/
def State.setMod (s : State) (m : Nat) (f : ModuleSt → ModuleSt) : State :=
  { s with modules := spPut m (f (s.mod m)) s.modules }

/-- The key in a slot of a module's controllers: slot 0 the device key, slots 1 to 63 as loaded (R324). -/
def State.slotKey (s : State) (m slot : Nat) : Option Config.KeyId :=
  if slot = 0 then some (.device m (s.mod m).epoch) else (spFind slot (s.mod m).keys).map .loaded

/-- The key that a byte's data is stored under; for a byte never written, the first device key of its module (log 9, DEDUCED). -/
def MemSt.keyOf (m : MemSt) (pa : Nat) : Config.KeyId := (spFind pa m.keys).getD (.device (homeOf pa / 16) 0)

/-- The map of keys after a byte is stored under a key. -/
def MemSt.tagged (m : MemSt) (pa : Nat) (k : Config.KeyId) : Sparse Config.KeyId :=
  if k = .device (homeOf pa / 16) 0 then spDrop pa m.keys else spPut pa k m.keys

/-- The stored contents of a byte: the landing zone, the line the host holds modified, or memory (R327). -/
def MemSt.stored (m : MemSt) (pa : Nat) : Byte :=
  if zoneBase ≤ pa then cellGet m.zone (pa - zoneBase)
  else match spFind (pa / 64) m.lines with
    | some line => line.getD (pa % 64) 0
    | none => cellGet m.bytes pa

/-- The addresses of the block of 16 bytes that a byte is encrypted in (R324). -/
def blockOf (pa : Nat) : List Nat := (List.range 16).map (pa / 16 * 16 + ·)

/-- The byte that a read at `pa` under a key returns: the stored byte, or the decryption under another key of the block that holds it; free
where the block was stored under several keys (R324, log 9). -/
def MemSt.readByte (m : MemSt) (key : Option Config.KeyId) (pa : Nat) : Byte :=
  match key with
  | none => m.stored pa
  | some k =>
    if m.keyOf pa = k then m.stored pa
    else if (blockOf pa).all fun a => m.keyOf a == m.keyOf pa then
      (rekeyed k (m.keyOf pa) (pa / 16 * 16) ((blockOf pa).map m.stored)).getD (pa % 16) 0
    else Config.misread k (m.keyOf pa) pa (m.stored pa)

/-- The canonical form of memory: in both memories of bytes addresses rise strictly and no byte that an unlisted address reads
as is listed (log 1, DESIGN CHOICE), and the other maps have rising keys. -/
def MemSt.wf (m : MemSt) : Bool :=
  cellsWf m.bytes && cellsWf m.zone && spRising none m.keys && spRising none m.areas && spRising none m.lines && spRising none m.refs

/-- The `n` bytes that a read returns. -/
def MemSt.read (m : MemSt) (key : Option Config.KeyId) (pa n : Nat) : List Byte :=
  (List.range n).map fun i => m.readByte key (pa + i)

/-- Memory with the stored contents of a byte changed. -/
def MemSt.setStored (m : MemSt) (pa : Nat) (b : Byte) : MemSt :=
  if zoneBase ≤ pa then { m with zone := cellSet m.zone (pa - zoneBase) b } else { m with bytes := cellSet m.bytes pa b }

/-- Memory with a byte written under a key. -/
def MemSt.writeByte (m : MemSt) (key : Option Config.KeyId) (pa : Nat) (b : Byte) : MemSt :=
  match key with
  | none => m.setStored pa b
  | some k => { m.setStored pa b with keys := m.tagged pa k }

/-- Memory with bytes written upward from an address. -/
def MemSt.writeBytes (m : MemSt) (key : Option Config.KeyId) (pa : Nat) : List Byte → MemSt
  | [] => m
  | b :: bs => (m.writeByte key pa b).writeBytes key (pa + 1) bs

/-- Memory after a write of `n` bytes: it clears the poison of every sector it covers whole (R332). -/
def MemSt.heal (m : MemSt) (pa n : Nat) : MemSt :=
  { m with poison := m.poison.filter fun sec => !(decide (pa ≤ sec * 32) && decide (sec * 32 + 32 ≤ pa + n)) }

/-- Memory after a device access to `n` bytes has recalled the modified lines it touches: the host's data is performed
under the device key at the line's home before the access, and a write also invalidates the host's copies (R327). -/
def MemSt.recallLine (m : MemSt) (key : Option Config.KeyId) (wr : Bool) (line : Nat) : MemSt :=
  let m1 := match spFind line m.lines with
    | some data => { (m.writeBytes key (64 * line) data).heal (64 * line) 64 with lines := spDrop line m.lines }
    | none => m
  if wr then { m1 with shared := m1.shared.filter (· != line) } else m1

/-- The lines of 64 bytes that `n` bytes from `pa` touch. -/
def linesOf (pa n : Nat) : List Nat :=
  if n = 0 then [] else (List.range ((pa + n - 1) / 64 - pa / 64 + 1)).map (pa / 64 + ·)

/-- The state after the recalls that a device access makes (R327). -/
def State.recall (s : State) (wr : Bool) (pa n : Nat) : State :=
  if zoneBase ≤ pa then s
  else
    { s with mem := (linesOf pa n).foldl (fun m l => m.recallLine (s.slotKey (homeOf pa / 16) 0) wr l) s.mem }

/-- Whether any byte of an access lies in a poisoned sector (R287, R332). -/
def MemSt.poisoned (m : MemSt) (pa n : Nat) : Bool :=
  m.poison.any fun sec => decide (sec * 32 < pa + n) && decide (pa < sec * 32 + 32)

/-- The key in a slot of the controllers of an address's stack, as it is when an access is performed there; none for host memory
(R324). -/
def State.keyFor (s : State) (slot : Option Nat) (pa : Nat) : Option Config.KeyId := slot.bind (s.slotKey (homeOf pa / 16))

/-- The bytes that a device read through a key slot returns. -/
def State.readMem (s : State) (slot : Option Nat) (pa n : Nat) : List Byte := s.mem.read (s.keyFor slot pa) pa n

/-- The state after a device write through a key slot: recalls, then the bytes, then healed poison. -/
def State.writeMem (s : State) (slot : Option Nat) (pa : Nat) (bs : List Byte) : State :=
  let s1 := s.recall true pa bs.length
  { s1 with mem := (s1.mem.writeBytes (s.keyFor slot pa) pa bs).heal pa bs.length }

/-- The key slot of accesses that no leaf governs: slot 0; none for host memory (R324). -/
def State.rawKey (_ : State) (pa : Nat) : Option Nat := if homeOf pa = Config.hostHome then none else some 0

/-- A read by physical address through slot 0 (R324, R325). -/
def State.readRaw (s : State) (pa n : Nat) : List Byte := s.readMem (s.rawKey pa) pa n

/-- A write by physical address through slot 0 (R324, R325). -/
def State.writeRaw (s : State) (pa : Nat) (bs : List Byte) : State := s.writeMem (s.rawKey pa) pa bs

/-- The state after a device read by physical address has recalled the lines that it touches (R327). -/
def State.pull (s : State) (pa n : Nat) : State := s.recall false pa n

/-- A little-endian number read by physical address. -/
def State.readRawNat (s : State) (pa n : Nat) : Nat := natOfBytes (s.readRaw pa n)

/-- The fields of a leaf that translation uses (R321). -/
structure Leaf where
  pa : Nat
  key : Nat
  heap : Bool
  w : Bool
  rd : Bool
  deriving DecidableEq, Repr

/-- The physical address where a virtual address lies in the page or block of an entry, with the entry's fields; none for a
translation fault (R321). `span` is the log2 of the bytes that the entry maps. -/
def leafOf (e : DWord) (span : Nat) (va : Nat) : Option Leaf :=
  let pa := (e.extractLsb' 16 36).toNat * 65536
  if pa % 2 ^ span ≠ 0 then none
  else some { pa := pa + va % 2 ^ span, key := (e.extractLsb' 6 6).toNat, heap := e.getLsbD 4, w := e.getLsbD 3,
              rd := e.getLsbD 2 }

/-- Whether an entry is in use with every reserved bit zero (R321). -/
def entryOk (e : DWord) : Bool :=
  e.getLsbD 0 && e.extractLsb' 52 12 == 0 && e.extractLsb' 12 4 == 0 && !e.getLsbD 5

/-- Whether a table entry has its must-be-zero bits zero (R321). -/
def tableOk (e : DWord) : Bool := e.extractLsb' 2 10 == 0

/-- The entry of a table at a physical address; none when the address does not exist (R322). -/
def State.tableEntry (s : State) (table idx : Nat) : Option DWord :=
  let pa := table + 8 * idx
  if validPa s.strap pa then some (BitVec.ofNat 64 (s.readRawNat pa 8)) else none

/-- The addresses of the table entries that a walk reads, in order (R322). -/
def State.walkReads (s : State) (table va : Nat) : Nat → List Nat
  | 0 => []
  | n + 1 =>
    let pa := table + 8 * (va / 2 ^ (16 + 13 * n) % 8192)
    match s.tableEntry table (va / 2 ^ (16 + 13 * n) % 8192) with
    | none => []
    | some e =>
      if !entryOk e || e.getLsbD 1 || n = 0 || !tableOk e then [pa]
      else pa :: s.walkReads ((e.extractLsb' 16 36).toNat * 65536) va n

/-- The walk of R321 from level `n` down (3: L1, 2: L2, 1: L3): the leaf that maps a virtual address, none for a
translation fault. -/
def State.walk (s : State) (table va : Nat) : Nat → Option Leaf
  | 0 => none
  | n + 1 =>
    let span := 16 + 13 * n
    match s.tableEntry table (va / 2 ^ span % 8192) with
    | none => none
    | some e =>
      if !entryOk e then none
      else if e.getLsbD 1 then leafOf e span va
      else if n = 0 || !tableOk e then none
      else s.walk ((e.extractLsb' 16 36).toNat * 65536) va n

/-- The translation of a virtual address by a unit: the unit's TLB entry if it holds one, otherwise a walk; none for a
translation fault (R58, R59, R321, R323). -/
def State.leaf (s : State) (unit : Nat) (ptbase : DWord) (asid : BitVec 16) (va : DWord) : Option Leaf :=
  if va.extractLsb' 55 9 ≠ 0 then none
  else
    let found := match s.mem.tlb.find? (fun e => e.unit == unit && e.asid == asid.toNat && e.page == va.toNat / 65536) with
      | some e => some { pa := e.pa + va.toNat % 65536, key := e.key, heap := e.heap, w := e.w, rd := e.rd : Leaf }
      | none => s.walk ((ptbase.extractLsb' 16 36).toNat * 65536) va.toNat 3
    match found with
    | none => none
    | some l => if validPa s.strap l.pa then some l else none

/-- The addresses of the table entries that the translation of a virtual address reads: none where the TLB holds it (R322, R323). -/
def State.leafReads (s : State) (unit : Nat) (ptbase : DWord) (asid : BitVec 16) (va : DWord) : List Nat :=
  if va.extractLsb' 55 9 ≠ 0 || s.mem.tlb.any (fun e => e.unit == unit && e.asid == asid.toNat && e.page == va.toNat / 65536) then []
  else s.walkReads ((ptbase.extractLsb' 16 36).toNat * 65536) va.toNat 3

/-- Whether a walk must wait: a stack that holds one of its entries is halted (R304, R322). -/
def State.walkStalled (s : State) (reads : List Nat) : Bool := reads.any fun pa => (s.stk (homeOf pa)).halted

/-- The state after a walk has read its entries: lines that the host holds modified are recalled (R322, R327). -/
def State.walked (s : State) (reads : List Nat) : State := reads.foldl (fun (s : State) pa => s.recall false pa 8) s

/-- Why a translation gives no access (R64): E_PAGE or E_PROT. -/
inductive XFault where
  | page | prot
  deriving DecidableEq, Repr

/-- What an access needs of a leaf (R321). -/
structure Needs where
  rd : Bool
  w : Bool
  deriving DecidableEq, Repr

/-- Where a virtual access lies: its byte address and the key slot of its page. -/
structure Target where
  pa : Nat
  key : Option Nat
  deriving DecidableEq, Repr

/-- The stack and offset of a landing-window address (R331): WINDOW * 2^36 + s * 2^32 + o. -/
def windowOf (window : Nat) (va : DWord) : Option (Nat × Nat) :=
  if va.toNat / 68719476736 = window then some (va.toNat / 4294967296 % 16, va.toNat % 4294967296) else none

/-- The key slot through which a leaf's data is read and written; none in the first place for an empty slot (R324). -/
def State.leafKey (s : State) (l : Leaf) : Option (Option Nat) :=
  if homeOf l.pa = Config.hostHome then some none
  else (s.slotKey (homeOf l.pa / 16) l.key).map fun _ => some l.key

/-- The checks of R321 on a leaf: HEAP, permissions, KEYSEL, an empty key slot. -/
def State.permit (s : State) (keysel : DWord) (need : Needs) (l : Leaf) : Except XFault Target :=
  if l.heap || (need.rd && !l.rd) || (need.w && !l.w) || !keysel.getLsbD l.key then .error .prot
  else match s.leafKey l with
    | none => .error .prot
    | some k => .ok { pa := l.pa, key := k }

/-- The translation of one access of `n` bytes: the landing window first (R331), then the page tables (R321). -/
def State.translate (s : State) (unit : Nat) (r : KnotRegs) (super : Bool) (module n : Nat) (need : Needs) (va : DWord) :
    Except XFault Target :=
  match windowOf r.window va with
  | some (st, off) =>
    if !super then .error .prot
    else if st < s.strap.stackCount && off + n ≤ Config.zoneBytes then
      .ok { pa := zoneAddr (16 * module + st) off, key := some 0 }
    else .error .page
  | none =>
    match s.leaf unit r.ptbase r.asid va with
    | none => .error .page
    | some l => s.permit r.keysel need l

/-- The table entries that the translation of one access reads (R322). -/
def State.accessReads (s : State) (unit : Nat) (r : KnotRegs) (va : DWord) : List Nat :=
  if (windowOf r.window va).isSome then [] else s.leafReads unit r.ptbase r.asid va

/-- The home code of a virtual address for HOME and ANCHOR: no permission is needed (R61, R200, R257). -/
def State.homeCode (s : State) (unit : Nat) (r : KnotRegs) (module : Nat) (va : DWord) : Option Nat :=
  match windowOf r.window va with
  | some (st, off) => if st < s.strap.stackCount && off < Config.zoneBytes then some (16 * module + st) else none
  | none => (s.leaf unit r.ptbase r.asid va).map fun l => homeOf l.pa

/-- The TLB unit of a core's knots, and of its copy engine (R323). -/
def coreUnit (home core : Nat) : Nat := home * 64 + core
def copyUnit (home core : Nat) : Nat := home * 64 + 32 + core

end Sys2Proof.Machine
end

