-- ==== Sys2Proof/Machine/MemSide.lean ====
section
/-! DEFINITION. What memory-side units compute: load extension, atomics and vector adds (spec/03 R80, spec/05 R113, spec/11 R190,
R198, R208), and the loads, stores and atomics that they perform. -/
namespace Sys2Proof.Machine

/-- A number of `n` bytes sign-extended to 64 bits. -/
def signed64 (n v : Nat) : DWord := BitVec.ofInt 64 (if v < 2 ^ (8 * n - 1) then v else (v : Int) - 2 ^ (8 * n))

/-- The value of a load, extended to 64 bits: to a scalar it is used whole, to a lane its low word is (R190, R196). -/
def loadValue (z : MemSize) (bs : List Byte) : DWord :=
  match z with
  | .i8 => signed64 1 (natOfBytes bs)
  | .i16 => signed64 2 (natOfBytes bs)
  | _ => BitVec.ofNat 64 (natOfBytes bs)

/-- The words that a load gives a lane, one for each register of its group (R190). -/
def loadWords (z : MemSize) (bs : List Byte) : List Word :=
  match z with
  | .b64 | .b128 => wordsOfBytes bs
  | _ => [(loadValue z bs).lo]

/-- A memory-side addition of one float format: nearest-even, subnormals honoured (R80). -/
def sideAdd (f : FloatFmt) (x y : Nat) : Nat := ((plainEnv f).add x y).1

/-- A 16-bit pair operation, half by half. -/
def onHalves (op : Nat → Nat → Nat) (x y : Nat) : Nat := op (x % 65536) (y % 65536) + 65536 * op (x / 65536) (y / 65536)

/-- The lesser or greater of two integers of `w` bits (R80). -/
def sideMinMax (greater signed : Bool) (w x y : Nat) : Nat :=
  let less := if signed then (BitVec.ofNat w x).slt (BitVec.ofNat w y) else decide (x < y)
  if less != greater then x else y

/-- MIN and MAX of a type (R80, R198). -/
def typeMinMax (greater : Bool) (t : AtomType) (x y : Nat) : Nat :=
  match t with
  | .f32 => ((plainEnv fmtF32).minMax greater x y).1
  | .i32 => sideMinMax greater true 32 x y
  | .i64 => sideMinMax greater true 64 x y
  | _ => sideMinMax greater false 64 x y

/-- ADD of a type (R80). -/
def typeAdd (t : AtomType) (x y : Nat) : Nat :=
  match t with
  | .f32 => sideAdd fmtF32 x y
  | .bf16x2 => onHalves (sideAdd fmtBF16) x y
  | .f16x2 => onHalves (sideAdd fmtF16) x y
  | _ => (x + y) % 2 ^ (8 * t.bytes)

/-- What an atomic writes, from the old value and the operand bytes; CAS has the compare value before the new one (R80,
R198). -/
def atomValue (op : AtomOp) (t : AtomType) (old : Nat) (data : List Byte) : Nat :=
  let v := natOfBytes (data.take t.bytes)
  match op with
  | .add => typeAdd t old v
  | .min => typeMinMax false t old v
  | .max => typeMinMax true t old v
  | .and => old &&& v
  | .or => old ||| v
  | .xor => old ^^^ v
  | .xchg => v
  | .cas => if old = v then natOfBytes (data.drop t.bytes) else old

/-- The bytes of a VADD: element by element over 4-byte words (R80, R203). -/
def vaddWords (t : AtomType) : List Word → List Word → List Word
  | o :: os, v :: vs => BitVec.ofNat 32 (typeAdd t o.toNat v.toNat) :: vaddWords t os vs
  | _, _ => []

/-- The element type of a VADD: `half` for op 0b111, and bit 2 of its type field (R137). -/
def vaddType (half : Bool) (t : BitVec 3) : AtomType :=
  if half then (if t.getLsbD 2 then .f16x2 else .bf16x2) else if t.getLsbD 2 then .f32 else .i32

/-- What the access of one lane gave: the words for its destination, or that it read poison. -/
structure LaneOut where
  lane : Nat
  words : List Word
  poisoned : Bool
  deriving DecidableEq, Repr

/-- One lane of a load (R193). -/
def State.laneLoad (s : State) (z : MemSize) (l : LaneAcc) : State × LaneOut :=
  let s1 := s.recall false l.pa z.bytes
  let bs := s1.readMem l.key l.pa z.bytes
  (s1, { lane := l.lane, words := loadWords z bs, poisoned := s1.mem.poisoned l.pa z.bytes })

/-- One lane of a store (R193). -/
def State.laneStore (s : State) (z : MemSize) (l : LaneAcc) : State := s.writeMem l.key l.pa (l.data.take z.bytes)

/-- One lane of an atomic: the old bits, and the target unmodified when it is poisoned (R198, R287). -/
def State.laneAtom (s : State) (op : AtomOp) (t : AtomType) (l : LaneAcc) : State × LaneOut :=
  let s1 := s.recall false l.pa t.bytes
  let bs := s1.readMem l.key l.pa t.bytes
  let bad := s1.mem.poisoned l.pa t.bytes
  let new := bytesOfNat (atomValue op t (natOfBytes bs) l.data) t.bytes
  (if bad then s1 else s1.writeMem l.key l.pa new, { lane := l.lane, words := wordsOfBytes bs, poisoned := bad })

/-- Lanes performed one after the other, in ascending order (R67). -/
def eachLane (f : State → LaneAcc → State × LaneOut) (s : State) : List LaneAcc → State × List LaneOut
  | [] => (s, [])
  | l :: ls =>
    let (s1, o) := f s l
    let (s2, os) := eachLane f s1 ls
    (s2, o :: os)

/-- The lanes of a load, store or atomic performed as one unit, in ascending lane order; `scal`: a load to a scalar, whose value is used
whole (R67, R193, R196, R198). None for the operations of other units. -/
def State.memLanes (s : State) (op : MemOp) (scal : Bool) (ls : List LaneAcc) : Option (State × List LaneOut) :=
  match op with
  | .load z =>
    if scal then
      some (eachLane (fun s l =>
        let (s1, o) := s.laneLoad z l
        let v := loadValue z (s1.readMem l.key l.pa z.bytes)
        (s1, { o with words := [v.lo, v.hi] })) s ls)
    else some (eachLane (fun s l => s.laneLoad z l) s ls)
  | .store z => some (ls.foldl (fun s l => s.laneStore z l) s, [])
  | .atom o t => some (eachLane (fun s l => s.laneAtom o t l) s ls)
  | _ => none

end Sys2Proof.Machine
end

