-- ==== Sys2Proof/Machine/Regs.lean ====
section
/-! DEFINITION. Paths and knots, their registers and register states, migration maps and carried sets
(spec/01 R22 to R31). -/
namespace Sys2Proof.Machine

/-- How an instruction stops short of completing: it waits, its PC unchanged, or it traps. The state carries what happened
before the stop (R205, R281). -/
inductive Stop where
  | wait (w : Wait) (s : State)
  | trap (t : Trap) (s : State)

/-- The result of a part of a meaning: a value, or a stop. -/
abbrev Res (α : Type) := Except Stop α

/-- A path of the pod. -/
def State.path? (s : State) (u : Nat) : Option Path := spFind u s.paths

/-- The state with a path put in place. -/
def State.setPath (s : State) (u : Nat) (p : Path) : State := { s with paths := spPut u p s.paths }

/-- The state with a path changed. -/
def State.modPath (s : State) (u : Nat) (f : Path → Path) : State := { s with paths := spModify u f s.paths }

/-- The state with a path's registers changed. -/
def State.modCtx (s : State) (u : Nat) (f : Ctx → Ctx) : State := s.modPath u fun p => { p with ctx := f p.ctx }

/-- The state with a knot changed. -/
def State.modKnot (s : State) (k : Nat) (f : Knot → Knot) : State := { s with knots := spModify k f s.knots }

/-- The state with a crew changed. -/
def State.modCrew (s : State) (c : Nat) (f : Crew → Crew) : State := { s with crews := spModify c f s.crews }

/-- The state with a crew's engine changed. -/
def State.modEngine (s : State) (c : Nat) (f : Engine → Engine) : State :=
  s.modCrew c fun w => { w with engine := w.engine.map f }

/-- The state with a launch changed. -/
def State.modLaunch (s : State) (l : Nat) (f : Launch → Launch) : State := { s with launches := spModify l f s.launches }

/-- The state with memory changed. -/
def State.modMem (s : State) (f : MemSt → MemSt) : State := { s with mem := f s.mem }

/-- The state with what is in flight changed. -/
def State.modFlow (s : State) (f : FlowSt → FlowSt) : State := { s with flow := f s.flow }

/-- The executing path, its number, and its knot. -/
structure Here where
  u : Nat
  p : Path
  k : Knot
  deriving DecidableEq, Repr

/-- The path `u` with its knot, if both exist. -/
def State.here (s : State) (u : Nat) : Option Here :=
  match s.path? u with
  | none => none
  | some p =>
    match spFind p.knot s.knots with
    | none => none
    | some k => some { u := u, p := p, k := k }

/-- The paths of a knot, with their numbers. -/
def State.pathsOf (s : State) (k : Nat) : List (Nat × Path) := s.paths.filter fun e => e.2.knot == k

/-- The other paths of a path's knot. -/
def State.siblings (s : State) (k u : Nat) : List (Nat × Path) :=
  s.paths.filter fun e => e.2.knot == k && e.1 != u

/-- The lanes that other paths of the knot hold (R25). -/
def State.otherLanes (s : State) (k u : Nat) : Mask := (s.siblings k u).foldl (fun m e => m ||| e.2.ctx.mask) 0

/-- The watchdog limit of a knot (R53, R331). -/
def State.limitOf (s : State) (k : Nat) : Word := match spFind k s.knots with | some k => k.regs.watchdog | none => 0

/-- A PC with bits [1:0] zero, as every PC has them (R114). -/
def alignPc (pc : Pc) : Pc := pc &&& ~~~3#48

/-- Whether a knot is a single fragment with a single path (R18, R48, R214). -/
def State.single (s : State) (h : Here) : Bool := (s.siblings h.p.knot h.u).isEmpty

/-- The module of a home code. -/
def moduleOf (home : Nat) : Nat := home / 16

/-- The core of a path on a core; 0 elsewhere. -/
def Path.core (p : Path) : Nat :=
  match p.place with
  | .resident st | .held st => st.core
  | _ => 0

/-- Whether the knot is rooted: a crew knot (R13). -/
def Knot.rooted (k : Knot) : Bool := k.crew.isSome

/-- The allocation register that window register `i` names (R22). -/
def Ctx.reg (c : Ctx) (i : Nat) : Nat := c.base + i

/-- The state of an allocation register. -/
def Ctx.vecState (c : Ctx) (r : Nat) : RegState := spGet .dead c.vst r

/-- The state of a scalar; s0 is always full (R24). -/
def Ctx.scalState (c : Ctx) (n : Nat) : RegState := if n = 0 then .full else spGet .dead c.sst n

/-- The state of a predicate; p7 is always full (R24). -/
def Ctx.predState (c : Ctx) (n : Nat) : RegState := if n = 7 then .full else spGet .dead c.pst n

/-- The state of a named register. -/
def Ctx.stateOf (c : Ctx) (r : RegName) : RegState :=
  match r.file with
  | .vec => c.vecState r.num
  | .scal => c.scalState r.num
  | .pred => c.predState r.num

/-- The value of a scalar; s0 reads zero (R125). -/
def Ctx.scalVal (c : Ctx) (n : Nat) : DWord := if n = 0 then 0 else spGet 0 c.scal n

/-- The lanes of an allocation register in order; lanes past the list read 0 (log 2, DESIGN CHOICE). -/
def Knot.vec (k : Knot) (r : Nat) : List Word := spGet [] k.vregs r

/-- One lane of an allocation register. -/
def Knot.lane (k : Knot) (r l : Nat) : Word := (k.vec r).getD l 0

/-- The lanes of a predicate; p7 is true in every lane (R125). -/
def Knot.pred (k : Knot) (n : Nat) : Mask := if n = 7 then BitVec.allOnes 1024 else spGet 0 k.preds n

/-- The lanes in which a guard is true (R117). -/
def guardMask (k : Knot) (g : Guard) : Mask :=
  let m := k.pred (g.extractLsb' 0 3).toNat
  if g.getLsbD 3 then ~~~m else m

/-- Whether a guard is the never-guard (R117, R118). -/
def isNever (g : Guard) : Bool := g == 15

/-- The effective lanes: active, below GRANT, and with a true guard (R20). -/
def effective (h : Here) (g : Guard) : Mask := h.p.ctx.mask &&& maskBelow h.k.grant &&& guardMask h.k g

/-- The pending-fault record that names a register (R26). -/
def Path.faultOf (p : Path) (r : RegName) : Option FaultRec :=
  p.faults.find? fun f =>
    match f.dest, r.file with
    | .vec rs, .vec => rs.contains r.num
    | .scal n, .scal => n == r.num
    | _, _ => false

/-- The trap of reading a fault-pending register: its pending cause (R26). -/
def pendingTrap (p : Path) (r : RegName) : Trap :=
  match p.faultOf r with
  | some f => { code := f.cause, reg := some r, lane := f.lane,
                addr := f.addr }
  | none => { code := .poison, reg := some r, lane := lowestOf p.ctx.mask }

/-- The check of one source at issue (R26). -/
def checkSource (s : State) (p : Path) (r : RegName) (fe : Bool) : Res Unit :=
  match p.ctx.stateOf r with
  | .full => .ok ()
  | .empty =>
    if fe then .error (.trap { code := .empty, reg := some r, lane := lowestOf p.ctx.mask } s)
    else .error (.wait (.register r) s)
  | .dead => .error (.trap { code := .dead, reg := some r, lane := lowestOf p.ctx.mask } s)
  | .pending => .error (.trap (pendingTrap p r) s)

/-- The checks of sources in order (R26): each with its fe bit. -/
def checkSources (s : State) (p : Path) : List (RegName × Bool) → Res Unit
  | [] => .ok ()
  | (r, fe) :: rest =>
    match checkSource s p r fe with
    | .error e => .error e
    | .ok () => checkSources s p rest

/-- The guard predicate as a source, read with fe = 0 (R26). -/
def guardSource (g : Guard) : RegName × Bool := ({ file := .pred, num := (g.extractLsb' 0 3).toNat }, false)

/-- A window vector register as a source. -/
def vecSource (c : Ctx) (v : VReg) (fe : Bool) : RegName × Bool := ({ file := .vec, num := c.reg v.toNat }, fe)

/-- A group of `n` window registers as sources (R120). -/
def groupSources (c : Ctx) (v n : Nat) (fe : Bool) : List (RegName × Bool) :=
  (List.range n).map fun i => ({ file := .vec, num := c.reg (v + i) }, fe)

/-- A scalar as a source. -/
def scalSource (a : SReg) (fe : Bool) : RegName × Bool := ({ file := .scal, num := a.toNat }, fe)

/-- A predicate as a source. -/
def predSource (a : PReg) (fe : Bool) : RegName × Bool := ({ file := .pred, num := a.toNat }, fe)

/-- A destination that is empty is waited for until it is full (R25). -/
def checkDest (s : State) (p : Path) (r : RegName) : Res Unit :=
  if p.ctx.stateOf r = .empty then .error (.wait (.register r) s) else .ok ()

/-- The checks of destinations in order. -/
def checkDests (s : State) (p : Path) : List RegName → Res Unit
  | [] => .ok ()
  | r :: rest =>
    match checkDest s p r with
    | .error e => .error e
    | .ok () => checkDests s p rest

/-- The pending-fault records without a register: a write to it drops its fault (R25). -/
def dropFault (r : RegName) (fs : List FaultRec) : List FaultRec :=
  fs.filterMap fun f =>
    match f.dest, r.file with
    | .vec rs, .vec =>
      if rs.contains r.num then
        (match rs.filter (· != r.num) with
        | [] => none
        | rs' => some { f with dest := .vec rs' })
      else some f
    | .scal n, .scal => if n = r.num then none else some f
    | _, _ => some f

/-- A context with the state of a register set. -/
def Ctx.setState (c : Ctx) (r : RegName) (st : RegState) : Ctx :=
  match r.file with
  | .vec => { c with vst := spSet .dead c.vst r.num st }
  | .scal => if r.num = 0 then c else { c with sst := spSet .dead c.sst r.num st }
  | .pred => if r.num = 7 then c else { c with pst := spSet .dead c.pst r.num st }

/-- A path with the state of a register set and its pending fault dropped. -/
def Path.mark (p : Path) (r : RegName) (st : RegState) : Path :=
  { p with ctx := p.ctx.setState r st, faults := dropFault r p.faults }

/-- Whether a register is zeroed before its first lanes are written: dead or fault-pending (R25). -/
def Ctx.stale (c : Ctx) (r : RegName) : Bool := c.stateOf r == .dead || c.stateOf r == .pending

/-- The lanes of a vector register after a write: effective lanes take `f`; of the others, a stale register keeps only the
lanes that another path holds (R25, R147). -/
def newLanes (grant : Nat) (old : List Word) (stale : Bool) (other eff : Mask) (f : Nat → Word) : List Word :=
  (List.range grant).map fun l =>
    if eff.getLsbD l then f l
    else if stale && !other.getLsbD l then 0
    else old.getD l 0

/-- The state after an instruction of path `u` writes its effective lanes of an allocation register (R25): with no
effective lane nothing changes. -/
def State.writeVec (s : State) (u : Nat) (r : Nat) (eff : Mask) (f : Nat → Word) : State :=
  match s.here u with
  | none => s
  | some h =>
    if eff = 0 then s
    else
      let name : RegName := { file := .vec, num := r }
      let vals := newLanes h.k.grant (h.k.vec r) (h.p.ctx.stale name) (s.otherLanes h.p.knot u) eff f
      (s.modKnot h.p.knot fun k => { k with vregs := spPut r vals k.vregs }).modPath u fun p => p.mark name .full

/-- The state after a group of registers is written together, on completion (R120): `fs` gives each register's lanes. -/
def State.writeGroup (s : State) (u : Nat) (eff : Mask) : List (Nat × (Nat → Word)) → State
  | [] => s
  | (r, f) :: rest => (s.writeVec u r eff f).writeGroup u eff rest

/-- The state after path `u` writes its effective lanes of a predicate (R25, R116); p7 is never written. -/
def State.writePred (s : State) (u : Nat) (n : Nat) (eff val : Mask) : State :=
  match s.here u with
  | none => s
  | some h =>
    if eff = 0 || n = 7 then s
    else
      let name : RegName := { file := .pred, num := n }
      let keep := if h.p.ctx.stale name then s.otherLanes h.p.knot u else BitVec.allOnes 1024
      let v := (val &&& eff) ||| (h.k.pred n &&& keep &&& ~~~eff)
      (s.modKnot h.p.knot fun k => { k with preds := spPut n v k.preds }).modPath u fun p => p.mark name .full

/-- A context with a scalar written: a write to s0 is discarded (R167). -/
def Ctx.setScal (c : Ctx) (n : Nat) (v : DWord) : Ctx := if n = 0 then c else { c with scal := spPut n v c.scal }

/-- The state after path `u` writes a scalar, full (R25); a write to s0 is discarded (R167). -/
def State.writeScal (s : State) (u : Nat) (n : Nat) (v : DWord) : State :=
  s.modPath u fun p => { p with ctx := p.ctx.setScal n v }.mark { file := .scal, num := n } .full

/-- The function that holds a heap address (R313). -/
def HeapSt.fnAt (h : HeapSt) (pc : Nat) : Option Nat :=
  (h.fns.find? fun e => decide (e.1 ≤ pc) && decide (pc < e.1 + e.2.size)).map (·.1)

/-- The migration-map entry of an instruction of a function (R27, R124). -/
def HeapSt.entryAt (h : HeapSt) (fn pc : Nat) : Option MapEnt :=
  match spFind fn h.fns with
  | none => none
  | some f => f.map.find? fun e => 4 * e.offset + fn == pc

/-- A carried set (R29): allocation registers, and masks of scalars and predicates. -/
structure Carried where
  vec : List Nat
  scal : Word
  pred : Byte
  deriving DecidableEq, Repr

/-- The carried set of one entry at a base (R29). -/
def MapEnt.carried (e : MapEnt) (base : Nat) : Carried :=
  { vec := (lanesOf (e.vlive.setWidth 1024) 32).map (base + ·), scal := e.slive, pred := e.plive }

/-- The union of two carried sets. -/
def Carried.union (a b : Carried) : Carried :=
  { vec := a.vec ++ b.vec, scal := a.scal ||| b.scal, pred := a.pred ||| b.pred }

/-- What the frame records carry: each call-site entry at its frame's base (R29). -/
def frameCarried (hp : HeapSt) : List Frame → Carried
  | [] => { vec := [], scal := 0, pred := 0 }
  | f :: fs =>
    let site := (f.ret - 4).toNat
    let rest := frameCarried hp fs
    match (hp.fnAt site).bind fun fn => hp.entryAt fn site with
    | some e => (e.carried f.base).union rest
    | none => rest

/-- The carried set at the current migration point (R29). -/
def carriedSet (hp : HeapSt) (c : Ctx) : Carried :=
  match hp.entryAt c.fn c.pc.toNat with
  | some e => (e.carried c.base).union (frameCarried hp c.frames)
  | none => frameCarried hp c.frames

/-- Whether a register is carried; s0 and p7 always are, being full (R24, R29). -/
def Carried.has (c : Carried) (r : RegName) : Bool :=
  match r.file with
  | .vec => c.vec.contains r.num
  | .scal => r.num == 0 || c.scal.getLsbD r.num
  | .pred => r.num == 7 || c.pred.getLsbD r.num

/-- A destination's registers that stay in a carried set, or belong to a spilled frame or a trap frame; none when nothing does. -/
def Carried.keep (c : Carried) : Dest → Option Dest
  | .vec rs =>
    (match rs.filter fun r => c.has { file := .vec, num := r } || decide (256 ≤ r) with
    | [] => none
    | rs' => some (.vec rs'))
  | .scal n => if c.has { file := .scal, num := n } || decide (32 ≤ n) then some (.scal n) else none

/-- The path after every register outside a carried set has become dead; values in flight to them, and their pending
faults, are dropped (R30). An access not yet performed still will be. -/
def Path.die (p : Path) (c : Carried) : Path :=
  { p with
    ctx := { p.ctx with
      vst := p.ctx.vst.filter fun e => c.has { file := .vec, num := e.1 }
      sst := p.ctx.sst.filter fun e => c.has { file := .scal, num := e.1 } || decide (32 ≤ e.1)
      pst := p.ctx.pst.filter fun e => c.has { file := .pred, num := e.1 } }
    flights := p.flights.filterMap fun f =>
      (match f.fill with
      | .access _ => some { f with dest := (c.keep f.dest).getD (.vec []) }
      | _ => (c.keep f.dest).map fun d => { f with dest := d })
    faults := p.faults.filterMap fun f => (c.keep f.dest).map fun d => { f with dest := d } }

/-- R30 at the current migration point of path `u`. -/
def State.applyDeath (s : State) (u : Nat) (c : Carried) : State := s.modPath u fun p => p.die c

/-- Whether a path has an empty register (R18, R31, R54). -/
def Path.hasEmpty (p : Path) : Bool :=
  p.ctx.vst.any (fun e => e.2 == .empty) || p.ctx.sst.any (fun e => e.2 == .empty) || p.ctx.pst.any (fun e => e.2 == .empty)

/-- The registers of a destination by name. -/
def Dest.names : Dest → List RegName
  | .vec rs => rs.map fun r => { file := .vec, num := r }
  | .scal n => [{ file := .scal, num := n }]

/-- The state after a long-latency producer marks its destination empty at issue, zeroing a stale register first (R25). -/
def State.markEmpty (s : State) (u : Nat) (d : Dest) : State :=
  match s.here u with
  | none => s
  | some h =>
    match d with
    | .scal n => s.modPath u fun p => p.mark { file := .scal, num := n } .empty
    | .vec rs =>
      let other := s.otherLanes h.p.knot u
      let zeroed := rs.foldl (fun m r =>
        if h.p.ctx.stale { file := .vec, num := r } then
          spPut r (newLanes h.k.grant (h.k.vec r) true other 0 (fun _ => 0)) m
        else m) h.k.vregs
      (s.modKnot h.p.knot fun k => { k with vregs := zeroed }).modPath u fun p =>
        rs.foldl (fun p r => p.mark { file := .vec, num := r } .empty) p

/-- The vector registers after values have arrived for some lanes of a register. -/
def fillLanes (grant : Nat) (old : List Word) (vals : List (Nat × Word)) : List Word :=
  (List.range grant).map fun l => ((vals.find? fun e => e.1 == l).map (·.2)).getD (old.getD l 0)

/-- The state after a value in flight arrives (R25, R287): its registers become full, or fault-pending. -/
def State.fill (s : State) (u : Nat) (f : Flight) : State :=
  match s.here u with
  | none => s
  | some h =>
    let s1 := s.modPath u fun p => { p with flights := p.flights.filter (·.id != f.id) }
    match f.fill, f.dest with
    | .access _, _ => s
    | .lanes vals, .vec rs =>
      (s1.modKnot h.p.knot fun k =>
        { k with vregs := rs.foldl (fun m r =>
            spPut r (fillLanes k.grant (spGet [] m r) (((vals.find? fun e => e.1 == r).map (·.2)).getD [])) m) k.vregs
        }).modPath u fun p => rs.foldl (fun p r => { p with ctx := p.ctx.setState { file := .vec, num := r } .full }) p
    | .scal v, .scal n =>
      s1.modPath u fun p => { p with ctx := (p.ctx.setScal n v).setState { file := .scal, num := n } .full }
    | .fault r, d =>
      s1.modPath u fun p =>
        { p with ctx := d.names.foldl (fun c n => c.setState n .pending) p.ctx
                 faults := p.faults ++ [{ r with dest := d }] }
    | _, _ => s1

/-- A fresh identity. -/
def State.newId (s : State) : Nat × State := (s.uid, { s with uid := s.uid + 1 })

/-- The state after a value is sent to the empty registers of a path (R25). -/
def State.send (s : State) (u : Nat) (d : Dest) (f : Fill) : State :=
  let (id, s1) := s.newId
  s1.modPath u fun p => { p with flights := p.flights ++ [{ id := id, dest := d, fill := f }] }

/-- The value of a movement-processor register; g0 reads zero (R125). -/
def Mover.reg (m : Mover) (n : Nat) : DWord := if n = 0 then 0 else spGet 0 m.g n

/-- The movement processor with a register written; a write to g0 is ignored (R125). -/
def Mover.setReg (m : Mover) (n : Nat) (v : DWord) : Mover := if n = 0 then m else { m with g := spPut n v m.g }

/-- Take one choice from the tape: the value, below `n` when `n` is not 0; 0 when the tape is empty (log 4, DESIGN CHOICE). -/
def State.pick (s : State) (n : Nat) : Nat × State :=
  match s.picks with
  | [] => (0, s)
  | v :: vs => (if n = 0 then v else v % n, { s with picks := vs })

end Sys2Proof.Machine
end

