-- ==== Sys2Proof/Machine/Chains.lean ====
section
/-! DEFINITION. Chains at their homes: what CHFORK, CHAPP and CHREL perform (spec/15 R275 to R278). -/
namespace Sys2Proof.Machine

/-- The fields of a chain descriptor (R275). -/
structure ChainDesc where
  len : Nat
  pages : Nat
  valid : Bool
  brood : DWord
  deriving DecidableEq, Repr

/-- The descriptor of the chain at a page. -/
def State.chain (s : State) (key : Option Nat) (pa : Nat) : ChainDesc :=
  let bs := s.readMem key pa 24
  { len := natOfBytes (sub bs 0 8), pages := natOfBytes (sub bs 8 4), valid := (bs.getD 12 0).getLsbD 0
    brood := BitVec.ofNat 64 (natOfBytes (sub bs 16 8)) }

/-- The bytes of a chain descriptor. -/
def ChainDesc.bytes (d : ChainDesc) : List Byte :=
  bytesOfNat d.len 8 ++ bytesOfNat d.pages 4 ++ bytesOfNat d.valid.toNat 2 ++ bytesOfNat 0 2 ++ bytesOfNat d.brood.toNat 8 ++
    bytesOfNat 0 40

/-- Page entry `j` of a chain. -/
def State.chainPage (s : State) (key : Option Nat) (pa j : Nat) : Nat :=
  natOfBytes (s.readMem key (pa + 64 + 8 * j) 8)

/-- The state after the descriptor page of a chain is read at its home: lines that the host holds modified are recalled (R327). -/
def State.chainPull (s : State) (key : Option Nat) (pa : Nat) : State :=
  let s1 := s.recall false pa 64
  s1.recall false (pa + 64) (8 * min 8184 (s1.chain key pa).pages)

/-- The page entries of a chain. -/
def State.chainPages (s : State) (key : Option Nat) (pa : Nat) (d : ChainDesc) : List Nat :=
  (List.range (min 8184 d.pages)).map (s.chainPage key pa)

/-- The reference count of a page. -/
def State.refs (s : State) (page : Nat) : Nat := spGet 0 s.mem.refs page

/-- The state with a page's reference count. -/
def State.setRefs (s : State) (page n : Nat) : State :=
  s.modMem fun m => { m with refs := if n = 0 then spDrop page m.refs else spPut page n m.refs }

/-- The first page of a stack's pool (R275). -/
def State.takePage (s : State) (home : Nat) : Option (Nat × State) :=
  match (s.stk home).pool with
  | [] => none
  | p :: ps => some (p, s.setStk home fun t => { t with pool := ps })

/-- The state after a page returns to a stack's pool. -/
def State.givePage (s : State) (home page : Nat) : State := s.setStk home fun t => { t with pool := t.pool ++ [page] }

/-- A chain while lanes append to it: descriptor, entries, state. -/
structure Appending where
  d : ChainDesc
  pages : List Nat
  s : State

/-- The tail page made unshared: a fresh page takes its place (R277). -/
def Appending.unshare (a : Appending) (home : Nat) (key : Option Nat) : Option Appending :=
  match a.pages.getLast? with
  | none => some a
  | some old =>
    if a.s.refs old ≤ 1 then some a
    else match a.s.takePage home with
      | none => none
      | some (p, s1) =>
        let s2 := (((s1.recall false old 65536).writeMem key p ((s1.recall false old 65536).readMem key old 65536)).setRefs old (s1.refs old - 1)).setRefs p 1
        some { a with pages := a.pages.dropLast ++ [p], s := s2 }

/-- Data pages added until there are `n`; `fuel` bounds how many. -/
def Appending.grow (a : Appending) (home n : Nat) : Nat → Option Appending
  | 0 => some a
  | fuel + 1 =>
    if n ≤ a.pages.length then some a
    else if 8184 ≤ a.pages.length then none
    else match a.s.takePage home with
      | none => none
      | some (p, s1) => ({ a with pages := a.pages ++ [p], s := s1.setRefs p 1 } : Appending).grow home n fuel

/-- The address of byte `start`; where the page is not there yet, that of the page the pool would give next, and a free value
when the pool is empty. -/
def Appending.addr (a : Appending) (home start : Nat) : DWord :=
  match a.pages[start / 65536]? with
  | some p => BitVec.ofNat 64 (p + start % 65536)
  | none =>
    match (a.s.stk home).pool with
    | p :: _ => BitVec.ofNat 64 (p + start % 65536)
    | [] => Config.freeDWord a.s.fresh

/-- One lane's append of `n` bytes (R277); none for E_CHAIN. -/
def Appending.lane (a : Appending) (home : Nat) (key : Option Nat) (n : Nat) : Option (DWord × Appending) :=
  let start0 := roundUp a.d.len 16
  if n = 0 then some (a.addr home start0, { a with s := { a.s with fresh := a.s.fresh + 1 } })
  else
    let start := if start0 / 65536 ≠ (start0 + n - 1) / 65536 then roundUp start0 65536 else start0
    match if start % 65536 ≠ 0 then a.unshare home key else some a with
    | none => none
    | some a1 =>
      match a1.grow home ((start + n - 1) / 65536 + 1) 2 with
      | none => none
      | some a2 => some (a2.addr home start, { a2 with d := { a2.d with len := start + n, pages := a2.pages.length } })

/-- Every lane's append in order. -/
def Appending.lanes (a : Appending) (home : Nat) (key : Option Nat) : List LaneAcc → Option (List LaneOut × Appending)
  | [] => some ([], a)
  | l :: ls =>
    match a.lane home key (natOfBytes l.data) with
    | none => none
    | some (v, a1) =>
      match a1.lanes home key ls with
      | none => none
      | some (os, a2) => some ({ lane := l.lane, words := [v.lo], poisoned := false } :: os, a2)

/-- CHAPP at the home (R277, R287): none for E_CHAIN. -/
def State.chainAppend (s0 : State) (home : Nat) (ls : List LaneAcc) : Option (State × List LaneOut) :=
  match ls with
  | [] => some (s0, [])
  | l :: _ =>
    let s := s0.chainPull l.key l.pa
    let d := s.chain l.key l.pa
    if s.mem.poisoned l.pa (64 + 8 * min 8184 d.pages) then
      some (s, ls.map fun x => { lane := x.lane, words := [], poisoned := true })
    else if !d.valid || ls.any fun x => decide (65536 < natOfBytes x.data) then none
    else
      match ({ d := d, pages := s.chainPages l.key l.pa d, s := s } : Appending).lanes home l.key ls with
      | none => none
      | some (os, a) =>
        some (a.s.writeMem l.key l.pa (a.d.bytes ++ a.pages.flatMap fun p => bytesOfNat p 8), os)

/-- The state after a chain is known by its page. -/
def State.addChain (s : State) (page : Nat) (key : Option Nat) (brood : DWord) : State :=
  s.modFlow fun f => { f with chains := f.chains ++ [{ page := page, key := key, brood := brood }] }

/-- An empty chain in the pool of a stack (R276): none for E_CHAIN. `keyOf` gives the key of the new page. -/
def State.chainNew (s : State) (home : Nat) (keyOf : Nat → Option Nat) (stamp : DWord) : Option (Nat × State) :=
  match s.takePage home with
  | none => none
  | some (p, s1) =>
    let d : ChainDesc := { len := 0, pages := 0, valid := true, brood := stamp }
    some (p, (s1.writeMem (keyOf p) p d.bytes).addChain p (keyOf p) stamp)

/-- CHFORK of a chain at its home (R276): none for E_CHAIN. -/
def State.chainFork (s0 : State) (home : Nat) (key : Option Nat) (pa : Nat) (stamp : DWord) : Option (Nat × State) :=
  let s := s0.chainPull key pa
  let d := s.chain key pa
  let pages := s.chainPages key pa d
  if !d.valid || pages.any fun q => decide (65535 ≤ s.refs q) then none
  else match s.takePage home with
    | none => none
    | some (p, s1) =>
      let s2 := pages.foldl (fun s q => s.setRefs q (s.refs q + 1)) s1
      let d1 : ChainDesc := { d with valid := true, brood := stamp }
      some (p, (s2.writeMem key p (d1.bytes ++ pages.flatMap fun q => bytesOfNat q 8)).addChain p key stamp)

/-- CHREL at the home (R278). -/
def State.chainRelease (s0 : State) (home : Nat) (key : Option Nat) (pa : Nat) : State :=
  let s := s0.chainPull key pa
  let d := s.chain key pa
  let s1 := (s.chainPages key pa d).foldl (fun s q =>
    if s.refs q ≤ 1 then (s.setRefs q 0).givePage home q else s.setRefs q (s.refs q - 1)) s
  let d1 : ChainDesc := { d with valid := false }
  ((s1.writeMem key pa d1.bytes).givePage home pa).modFlow fun f =>
    { f with chains := f.chains.filter fun c => c.page != pa }

/-- The key slot of a page by its address: that of the leaf which maps it for a path, slot 0 when none does. -/
def State.pageKey (s : State) (h : Here) (page : Nat) : Option Nat :=
  match s.leaf (coreUnit h.p.home h.p.core) h.k.regs.ptbase h.k.regs.asid (BitVec.ofNat 64 page) with
  | some l => (s.leafKey l).getD none
  | none => s.rawKey page

/-- The table entries that CHFORK reads for the key of the page that an empty chain takes (R322). -/
def State.forkReads (s : State) (h : Here) : List Nat :=
  match (s.stk h.p.home).pool with
  | [] => []
  | p :: _ => s.leafReads (coreUnit h.p.home h.p.core) h.k.regs.ptbase h.k.regs.asid (BitVec.ofNat 64 p)

/-- CHFORK at its home, the current stack for an empty chain: none for E_CHAIN; a poisoned source is left as it is (R276, R287). -/
def State.forkAt (s : State) (h : Here) (chain : Nat) (l : LaneAcc) : Option (State × LaneOut) :=
  let s := if chain = 0 then s.walked (s.forkReads h) else s.chainPull l.key l.pa
  if chain ≠ 0 && s.mem.poisoned l.pa (64 + 8 * min 8184 (s.chain l.key l.pa).pages) then
    some (s, { lane := l.lane, words := [], poisoned := true })
  else
    (if chain = 0 then s.chainNew h.p.home (s.pageKey h) h.p.ctx.stamp
      else s.chainFork (homeOf l.pa) l.key l.pa h.p.ctx.stamp).map fun r =>
      (r.2, { lane := l.lane, words := [BitVec.ofNat 32 r.1, BitVec.ofNat 32 (r.1 / 4294967296)], poisoned := false })

/-- CHREL at its home in a turn later than its issue: of a chain that is VALID no more it does nothing (R278; log 18, DESIGN CHOICE). -/
def State.releaseAt (s : State) (l : LaneAcc) : State :=
  let s1 := s.chainPull l.key l.pa
  if (s1.chain l.key l.pa).valid then s1.chainRelease (homeOf l.pa) l.key l.pa else s1

end Sys2Proof.Machine
end

