-- ==== Sys2Proof/Machine/Flights.lean ====
section
/-! DEFINITION. What an access gives its destination, and accesses of the current stack that have been issued and are performed in a later
turn (spec/01 R25, spec/03 R66 to R68, spec/17 R284, R287). -/
namespace Sys2Proof.Machine

/-- The value of a scalar destination. -/
def scalOut (outs : List LaneOut) : DWord :=
  match outs with
  | [] => 0
  | o :: _ => Word.pair (o.words.getD 0 0) (o.words.getD 1 0)

/-- What lanes give the registers `rs` of a group: `group` is the whole group in order. -/
def lanesFor (group rs : List Nat) (outs : List LaneOut) : List (Nat × List (Nat × Word)) :=
  (group.zipIdx.filter fun e => rs.contains e.1).map fun e => (e.1, outs.map fun o => (o.lane, o.words.getD e.2 0))

/-- The state after values of lanes are placed in vector registers, their states unchanged. -/
def State.placeVals (s : State) (kn : Nat) (vals : List (Nat × List (Nat × Word))) : State :=
  s.modKnot kn fun k =>
    { k with vregs := vals.foldl (fun m e => spPut e.1 (fillLanes k.grant (spGet [] m e.1) e.2) m) k.vregs }

/-- The lanes of an access whose outcome was poison. -/
def poisonedLanes (outs : List LaneOut) (ls : List LaneAcc) : List LaneAcc :=
  ls.filter fun l => outs.any fun o => o.lane == l.lane && o.poisoned

/-- What arrives for `d`, the part of an access's destination that is left: values, or the fault of the lanes that met poison (R25, R287). -/
def fillFor (a : Access) (d : Dest) (outs : List LaneOut) : Fill :=
  match poisonedLanes outs a.lanes with
  | [] =>
    (match d, a.dest with
    | .vec rs, .vec group => .lanes (lanesFor group rs outs)
    | .vec rs, .scal _ => .lanes (lanesFor rs rs outs)
    | .scal _, _ => .scal (scalOut outs))
  | l :: ls => .fault { dest := d, cause := .poison, lane := l.lane, addr := l.va, replay := { a with lanes := l :: ls } }

/-- The state after the values of the lanes that met no poison are in place where others did; the registers' states are unchanged. -/
def State.placeGood (s : State) (kn : Nat) (a : Access) (d : Dest) (outs : List LaneOut) : State :=
  match poisonedLanes outs a.lanes, d, a.dest with
  | _ :: _, .vec rs, .vec group => s.placeVals kn (lanesFor group rs (outs.filter fun o => !o.poisoned))
  | _, _, _ => s

/-- The state after the destination of a performed access is marked empty and its values are on their way (R25); poison
leaves it fault-pending when they arrive (R287). -/
def State.answer (s : State) (h : Here) (a : Access) (outs : List LaneOut) : State :=
  match a.dest with
  | .vec [] => s
  | .scal 0 => s
  | d => ((s.markEmpty h.u d).placeGood h.p.knot a d outs).send h.u d (fillFor a d outs)

/-- Whether an access writes a scalar. -/
def Access.scalar (a : Access) : Bool := match a.dest with | .scal _ => true | .vec _ => false

/-- The accesses of a path that it has issued and that are not yet performed, in program order (R67, R68). -/
def Path.unperformed (p : Path) : List (Flight × Access) :=
  p.flights.filterMap fun f => match f.fill with | .access a => some (f, a) | _ => none

/-- The lanes of an access of memory performed at their home as one unit: none for E_CHAIN, and for the operations of other units. -/
def State.homeOp (s : State) (h : Here) (op : MemOp) (scal : Bool) (ls : List LaneAcc) : Option (State × List LaneOut) :=
  match op, ls with
  | .fork _, [] => some (s, [])
  | .fork chain, l :: _ => (s.forkAt h chain l).map fun r => (r.1, [r.2])
  | .release, _ => some (ls.foldl State.releaseAt s, [])
  | op, _ => s.memLanes op scal ls

/-- Whether the posts that an access of a knot comes after are performed, or held (R75). -/
def State.postsPast (s : State) (kn : Nat) (after : List PostMark) : Bool :=
  after.all fun m => !s.flow.posts.any fun q => q.knot == kn && q.home == m.home && q.stream == m.stream && decide (q.seq ≤ m.seq)

/-- Whether an access that a path had issued may be performed: no stack that it reads is halted, and the posts that it comes after are past
(R75, R304). -/
def State.mayPerform (s : State) (h : Here) (a : Access) : Bool :=
  (a.lanes.all fun l => !(s.stk (homeOf l.pa)).halted) && s.postsPast h.p.knot a.after &&
    !(a.op == .fork 0 && s.walkStalled (s.forkReads h))

/-- The flight of an access that a path had issued, with what the access gives now on its way: E_CHAIN leaves the destination
fault-pending, for its first reader (R25, R26, R276; log 18, DESIGN CHOICE). -/
def Path.fly (p : Path) (f : Flight) (fill : Fill) : Path :=
  match f.dest with
  | .vec [] | .scal 0 => { p with flights := p.flights.filter (·.id != f.id) }
  | _ => { p with flights := p.flights.map fun x => if x.id = f.id then { x with fill := fill } else x }

/-- The state after an access that a path had issued is performed: what it gives is on its way (R25, R68). -/
def State.performFlight (s : State) (u : Nat) (f : Flight) (a : Access) : State :=
  match s.here u with
  | none => s
  | some h =>
    match s.homeOp h a.op a.scalar a.lanes with
    | some (s1, outs) => (s1.placeGood h.p.knot a f.dest outs).modPath u fun p => p.fly f (fillFor a f.dest outs)
    | none =>
      let l := a.lanes.head?
      s.modPath u fun p => p.fly f (.fault
        { dest := f.dest, cause := .chain, lane := (l.map (·.lane)).getD 0, addr := (l.map (·.va)).getD 0, replay := a })

/-- Whether every access that a path had issued may be performed now. -/
def State.settles (s : State) (u : Nat) : Bool :=
  match s.here u with
  | none => true
  | some h => h.p.unperformed.all fun e => s.mayPerform h e.2

/-- The state after the accesses that a path had issued are performed, in program order, as far as they may be (R67). -/
def State.catchUp (s : State) (u : Nat) : State :=
  match s.here u with
  | none => s
  | some h => (h.p.unperformed.takeWhile fun e => s.mayPerform h e.2).foldl (fun s e => s.performFlight u e.1 e.2) s

/-- The state after every value in flight to a path has arrived: loads in flight drained (R284 step 2). -/
def State.drain (s : State) (u : Nat) : State :=
  let s1 := s.catchUp u
  match s1.path? u with
  | none => s1
  | some p => p.flights.foldl (fun s f => s.fill u f) s1

/-- The state after the values in flight to a path and to the paths pushed under it have arrived, as an image of them needs (R54). -/
def State.drainAll (s : State) (u : Nat) : State :=
  match s.path? u with
  | none => s
  | some p => p.ctx.pushed.foldl State.drain (s.drain u)

end Sys2Proof.Machine
end

