-- ==== Sys2Proof/Machine/Image.lean ====
section
/-! DEFINITION. Landing zones and knot images: where images, frames and records lie, what an image's bytes are, and how an
altered image is taken back (spec/01 R36, R37, R54 to R57; spec/21 R331). -/
namespace Sys2Proof.Machine

/-- The areas in use of a landing zone: offset and length, ascending. -/
def MemSt.areasIn (m : MemSt) (home : Nat) : List (Nat × Nat) :=
  (spSlice (home * Config.zoneBytes) ((home + 1) * Config.zoneBytes) m.areas).map fun e =>
    (e.1 - home * Config.zoneBytes, e.2.len)

/-- The first offset from `cur` with `len` free bytes before the next area. -/
def firstGap (len : Nat) : Nat → List (Nat × Nat) → Nat
  | cur, [] => cur
  | cur, (o, l) :: rest => if cur + len ≤ o then cur else firstGap len (max cur (o + l)) rest

/-- Take an area of a landing zone: its offset, none when the zone has no room (log 13, DESIGN CHOICE). -/
def State.takeArea (s : State) (home : Nat) (a : Area) : Option (Nat × State) :=
  let off := firstGap a.len 0 (s.mem.areasIn home)
  if off + a.len ≤ Config.zoneBytes then
    some (off, s.modMem fun m => { m with areas := spPut (home * Config.zoneBytes + off) a m.areas })
  else none

/-- Release an area of a landing zone. -/
def State.freeArea (s : State) (home off : Nat) : State :=
  s.modMem fun m => { m with areas := spDrop (home * Config.zoneBytes + off) m.areas }

/-- Release the space of a stored image; the waiting paths of a rooted knot take none (R36). -/
def State.freeImage (s : State) (img : Stored) : State := if img.len = 0 then s else s.freeArea img.home img.off

/-- Write bytes to a landing zone. -/
def State.zoneWrite (s : State) (home off : Nat) (bs : List Byte) : State := s.writeRaw (zoneAddr home off) bs

/-- Read bytes of a landing zone. -/
def State.zoneRead (s : State) (home off n : Nat) : List Byte := s.readRaw (zoneAddr home off) n

/-- The virtual address of byte `off` of a zone through the landing window of a knot (R331). -/
def windowAddr (window home off : Nat) : DWord :=
  BitVec.ofNat 64 (window * 68719476736 + home % 16 * 4294967296 + off)

/-- The landing reservation of a knot: grant * A * 4 + 8,192 * grant bytes (R36). -/
def reservation (grant alloc : Nat) : Nat := grant * alloc * 4 + 8192 * grant

/-- Bytes of the landing pool of a module that reservations and unreserved areas take (R36). -/
def State.poolUsed (s : State) (m : Nat) : Nat :=
  (s.knots.foldl (fun n e => if e.2.module = m then n + e.2.reserved else n) 0) +
    ((spSlice (16 * m * Config.zoneBytes) ((16 * m + 16) * Config.zoneBytes) s.mem.areas).foldl
      (fun n e => if e.2.own.isSome then n else n + e.2.len) 0)

/-- Whether the landing pool of a module has unreserved space for `len` bytes (R36, R37). -/
def State.poolHas (s : State) (m len : Nat) : Bool :=
  decide (s.poolUsed m + len ≤ s.strap.stackCount * Config.zoneBytes)

/-- Take an area in the first of some zones that has room. -/
def State.takeFirst (s : State) (a : Area) : List Nat → Option (Nat × Nat × State)
  | [] => none
  | h :: hs =>
    match s.takeArea h a with
    | some (off, s') => some (h, off, s')
    | none => s.takeFirst a hs

/-- The zones of a module in ascending stack order from a home, wrapping round (R37). -/
def zonesFrom (c : Strap) (home : Nat) : List Nat :=
  (List.range c.stackCount).map fun i => 16 * (home / 16) + (home % 16 + i) % c.stackCount

/-- Where an image waiting at `home` is stored (R37): unreserved space of the module, its own zone first; otherwise the
knot's own reservation in its launching module. -/
def State.placeImage (s : State) (knot module home len : Nat) (kind : AreaKind) : Option (Nat × Nat × State) :=
  let free := if s.poolHas (moduleOf home) len then
      s.takeFirst { kind := kind, len := len, own := none } (zonesFrom s.strap home) else none
  match free with
  | some r => some r
  | none => s.takeFirst { kind := kind, len := len, own := some knot } (s.strap.homesOf module)

/-- The 2-bit code of a register state (R54). -/
def RegState.code : RegState → Nat
  | .full => 0
  | .empty => 1
  | .dead => 2
  | .pending => 3

/-- A field of 2-bit state codes, register 0 lowest. -/
def stateField (f : Nat → Nat) (n : Nat) : Nat := (List.range n).foldl (fun a i => a + f i * 4 ^ i) 0

/-- The first word of the issue group that a path is in (R124, R285). -/
def Path.groupPc (p : Path) : Pc := p.ctx.pc - BitVec.ofNat 48 (4 * p.hints.words)

/-- The 16 bytes of a post-table entry (R56, R73). -/
def PostEntry.bytes (e : PostEntry) (window : Nat) : List Byte :=
  if e.valid then
    bytesOfNat ((if e.faulted then 32768 else 0) + 16384 + e.home % 16384) 2 ++ bytesOfNat e.outst 2 ++
      bytesOfNat (e.stream * 4194304 + e.seq) 4 ++
      bytesOfNat (match e.held with | [] => 0 | r :: _ => (windowAddr window r.home r.area).toNat) 8
  else bytesOfNat 0 16

/-- The bytes of a frame record (R57). -/
def Frame.bytes (f : Frame) : List Byte :=
  bytesOfNat f.ret.toNat 6 ++ bytesOfNat (f.size % 32) 1 ++ bytesOfNat 0 1 ++ bytesOfNat f.base 2 ++ bytesOfNat 0 6

/-- Zero bytes up to a multiple of `n`. -/
def padTo (n : Nat) (bs : List Byte) : List Byte := bs ++ List.replicate (roundUp bs.length n - bs.length) 0

/-- Bits packed eight to a byte, lowest first. -/
def packBits : List Bool → List Byte
  | b0 :: b1 :: b2 :: b3 :: b4 :: b5 :: b6 :: b7 :: bs =>
    BitVec.ofNat 8 (b0.toNat + 2 * b1.toNat + 4 * b2.toNat + 8 * b3.toNat + 16 * b4.toNat + 32 * b5.toNat
      + 64 * b6.toNat + 128 * b7.toNat) :: packBits bs
  | [] => []
  | bs => [BitVec.ofNat 8 (bs.foldr (fun b a => b.toNat + 2 * a) 0)]

/-- The registers of a file that are full, in ascending order. -/
def fullRegs (f : Nat → RegState) (lo n : Nat) : List Nat :=
  ((List.range n).map (lo + ·)).filter fun r => f r == .full

/-- The payload's fixed part: path block, frame records, mask words (R57). -/
def payloadHead (h : Here) (seed block : Nat) : List Byte :=
  (List.range block).map (Config.imageByte seed) ++
    h.p.ctx.frames.flatMap Frame.bytes ++
    (List.range 32).flatMap fun i =>
      let w := h.p.ctx.mask.extractLsb' (32 * i) 32
      if w = 0 then [] else bytesOfNat w.toNat 4

/-- The payload's register values: full scalars, predicates and allocation registers, active lanes only (R57). -/
def payloadRegs (h : Here) : List Byte :=
  let ls := lanesOf h.p.ctx.mask h.k.grant
  (fullRegs h.p.ctx.scalState 1 31).flatMap (fun n => bytesOfNat (h.p.ctx.scalVal n).toNat 8) ++
    (fullRegs h.p.ctx.predState 0 7).flatMap (fun n =>
      padTo 4 (packBits (ls.map fun l => (h.k.pred n).getLsbD l))) ++
    (fullRegs h.p.ctx.vecState 0 h.k.alloc).flatMap fun r => ls.flatMap fun l => bytesOfNat (h.k.lane r l).toNat 4

/-- Whether the image of a path holds its whole knot: every other path is pushed under it, and so in its path block (R55, R57). -/
def State.wholeOf (s : State) (h : Here) : Bool := (s.siblings h.p.knot h.u).all fun e => h.p.ctx.pushed.contains e.1

/-- FLAGS of the image header (R55): `single`: it holds the whole knot. -/
def imageFlags (h : Here) (single waiting service : Bool) : Nat :=
  (if waiting then 256 else 0) + (match h.k.crew with | some (_, slot) => 16 * slot + 2 | none => 0) +
    (if h.p.ctx.pushed.isEmpty then 0 else 8) + (if service then 4 else 0) + (if single then 0 else 1)

/-- The pond ids of a path's open instances, innermost last. -/
def openPonds (h : Here) : List Nat :=
  h.p.ctx.ponds.map fun i => ((h.k.insts.find? fun x => x.id == i).map (·.pond)).getD 0

/-- The 256-byte header of a knot image (R54). -/
def imageHeader (h : Here) (flags block len : Nat) : List Byte :=
  bytesOfNat h.p.groupPc.toNat 8 ++ bytesOfNat (summaryOf h.p.ctx.mask).toNat 4 ++ bytesOfNat h.k.grant 2 ++
    bytesOfNat h.k.alloc 2 ++ bytesOfNat h.p.ctx.base 2 ++ bytesOfNat h.p.ctx.frames.length 2 ++ bytesOfNat flags 2 ++
    bytesOfNat block 2 ++ bytesOfNat h.p.ctx.mode.toNat 2 ++ bytesOfNat h.p.ctx.fpstat.toNat 2 ++
    bytesOfNat (stateField (fun i => if i = 7 then 0 else (h.p.ctx.predState i).code) 8) 2 ++ bytesOfNat 0 2 ++
    bytesOfNat h.k.knotId 4 ++ bytesOfNat len 4 ++ bytesOfNat h.k.brood.toNat 8 ++ bytesOfNat h.p.ctx.wd 4 ++
    bytesOfNat ((openPonds h).length * 65536 + ((openPonds h).foldl (fun a i => a ||| 2 ^ i) 0)) 4 ++
    bytesOfNat (stateField (fun i => (h.p.ctx.scalState i).code) 32) 8 ++
    bytesOfNat (stateField (fun i => if i < h.k.alloc then (h.p.ctx.vecState i).code else 2) 256) 64 ++
    h.p.ctx.posts.flatMap fun e => e.bytes h.k.regs.window

/-- The bytes of the image of a path (R54 to R57). -/
def imageBytes (h : Here) (flags seed block : Nat) : List Byte :=
  let body := payloadHead h seed block ++ payloadRegs h
  let len := roundUp (256 + body.length) 256
  padTo 256 (imageHeader h flags block len ++ body)

/-- The image of a path that is to be stored, its place aside, and its bytes. The size of its path block and the block's bytes are free
(log 10, DESIGN CHOICE); its age is the moment of storing. -/
def State.imageOf (s : State) (h : Here) (waiting service : Bool) : Stored × List Byte :=
  let block := 16 * (s.pick 129).1
  let flags := imageFlags h (s.wholeOf h) waiting service
  let bs := imageBytes h flags s.uid block
  ({ home := 0, off := 0, len := bs.length, age := (s.stk h.p.home).cycles, order := s.uid, seed := s.uid, block := block, flags := flags }, bs)

/-- The state after bytes are stored where an image waits (R37), and where: zone, offset; none when no zone has room. -/
def State.storeBytes (s : State) (knot module home : Nat) (kind : AreaKind) (bs : List Byte) : Option (Nat × Nat × State) :=
  (s.placeImage knot module home bs.length kind).map fun r => (r.1, r.2.1, r.2.2.zoneWrite r.1 r.2.1 bs)

/-- The state after a path's image is stored where it waits (R37), and the image; none when no zone has room. -/
def State.storeImage (s : State) (h : Here) (waiting service : Bool) (kind : AreaKind) : Option (Stored × State) :=
  let x := s.imageOf h waiting service
  ((s.pick 129).2.newId.2.storeBytes h.p.knot h.k.module h.p.home kind x.2).map fun r =>
    ({ x.1 with home := r.1, off := r.2.1 }, r.2.2)

/-- The 2-bit field `i` of a byte list read as one number. -/
def field2 (bs : List Byte) (i : Nat) : Nat := (bs.getD (i / 4) 0).toNat / 4 ^ (i % 4) % 4

/-- Whether two state fields differ only by pending registers made dead (R57). -/
def statesAllow (old new : List Byte) (n : Nat) : Bool :=
  decide (old.length = new.length) &&
    (List.range n).all fun i => field2 old i == field2 new i || (field2 old i == 3 && field2 new i == 2)

/-- Whether an altered image changes only what R57 allows: PC, MODE, FPSTAT, states from 11 to 10, payload values; `head`
is the length of the header and the payload's fixed part, `regs` that of the register values. Frame records and mask words count as no
payload values, and a PC that is no multiple of 4 as no PC (log 47, DEDUCED). -/
def imageAllowed (old new : List Byte) (head regs : Nat) : Bool :=
  sub old 6 18 == sub new 6 18 && natOfBytes (sub new 0 6) % 4 == 0 &&
    decide (natOfBytes (sub new 24 2) < 32) && decide (natOfBytes (sub new 26 2) < 32) &&
    statesAllow (sub old 28 2) (sub new 28 2) 8 && sub old 30 26 == sub new 30 26 &&
    statesAllow (sub old 56 8) (sub new 56 8) 32 && statesAllow (sub old 64 64) (sub new 64 64) 256 &&
    sub old 128 (head - 128) == sub new 128 (head - 128) && old.drop (head + regs) == new.drop (head + regs)

/-- Whether the bits that fill up `n` predicates' fields of an image, each of `lanes` bits and whole words, are zero (R57): they are no
payload values. -/
def padsClear (lanes : Nat) : Nat → List Byte → Bool
  | 0, _ => true
  | n + 1, bs =>
    let len := roundUp ((lanes + 7) / 8) 4
    decide (natOfBytes (bs.take len) < 2 ^ lanes) && padsClear lanes n (bs.drop len)

/-- Whether the bytes `new` of a path's image are its bytes `old` or change only what R57 allows; `head` is the length of the header and the
payload's fixed part. -/
def imageLegal (h : Here) (head : Nat) (old new : List Byte) : Bool :=
  old == new ||
    (imageAllowed old new head (payloadRegs h).length &&
      padsClear (lanesOf h.p.ctx.mask h.k.grant).length (fullRegs h.p.ctx.predState 0 7).length
        (new.drop (head + 8 * (fullRegs h.p.ctx.scalState 1 31).length)))

/-- The scalars after the payload's values are taken back. -/
def loadScals : List Nat → List Byte → Sparse DWord → Sparse DWord × List Byte
  | [], bs, m => (m, bs)
  | n :: ns, bs, m => loadScals ns (bs.drop 8) (spPut n (BitVec.ofNat 64 (natOfBytes (bs.take 8))) m)

/-- A mask of the listed lanes, bit by bit from packed bytes. -/
def loadMask (ls : List Nat) (bs : List Byte) : Mask :=
  maskOf ((ls.zipIdx.filter fun e => (bs.getD (e.2 / 8) 0).getLsbD (e.2 % 8)).map (·.1))

/-- The predicates after the payload's values are taken back. -/
def loadPreds (ls : List Nat) : List Nat → List Byte → Sparse Mask → Sparse Mask × List Byte
  | [], bs, m => (m, bs)
  | n :: ns, bs, m =>
    let len := roundUp ((ls.length + 7) / 8) 4
    let v := (spGet 0 m n &&& ~~~(maskOf ls)) ||| loadMask ls (bs.take len)
    loadPreds ls ns (bs.drop len) (spPut n v m)

/-- The allocation registers after the payload's values are taken back. -/
def loadVecs (grant : Nat) (ls : List Nat) : List Nat → List Byte → Sparse (List Word) → Sparse (List Word)
  | [], _, m => m
  | r :: rs, bs, m =>
    let ws := wordsOfBytes (bs.take (4 * ls.length))
    loadVecs grant ls rs (bs.drop (4 * ls.length)) (spPut r (fillLanes grant (spGet [] m r) (ls.zip ws)) m)

/-- The register states after states made dead in an image are taken back (R57). -/
def loadStates (bs : List Byte) (m : Sparse RegState) : Sparse RegState :=
  m.filter fun e => !(e.2 == .pending && field2 bs e.1 == 2)

/-- The function that executes at a PC set by a return or an image: the bound function whose first word it is, otherwise
the one that was executing (R316). -/
def HeapSt.fnFor (h : HeapSt) (pc : Pc) (fn : Nat) : Nat := if (spFind pc.toNat h.fns).isSome then pc.toNat else fn

/-- The records of registers that an altered image still codes fault-pending (R57, R293). -/
def narrowFaults (new : List Byte) (fs : List FaultRec) : List FaultRec :=
  fs.filterMap fun f =>
    (match f.dest with
    | .vec rs =>
      (match rs.filter (fun r => decide (256 ≤ r) || field2 (sub new 64 64) r == 3) with
      | [] => none
      | rs' => some { f with dest := .vec rs' })
    | .scal n => if decide (32 ≤ n) || field2 (sub new 56 8) n == 3 then some f else none)

/-- A path that holds one more trap as pending, behind those that it holds (R283). -/
def Path.hold (t : Trap) (p : Path) : Path := { p with trapHeld := p.trapHeld ++ [t] }

/-- The state after path `u` takes back the bytes `new` of its image (R57): allowed changes are taken, any other leaves
E_IMAGE to be raised at its resumption. -/
def State.takeImage (s : State) (h : Here) (img : Stored) (new : List Byte) : State :=
  let old := imageBytes h img.flags img.seed img.block
  let head := 256 + (payloadHead h img.seed img.block).length
  if old = new then s
  else if !imageLegal h head old new then
    s.modPath h.u (Path.hold { code := .image })
  else
    let ls := lanesOf h.p.ctx.mask h.k.grant
    let scals := loadScals (fullRegs h.p.ctx.scalState 1 31) (new.drop head) h.p.ctx.scal
    let preds := loadPreds ls (fullRegs h.p.ctx.predState 0 7) scals.2 h.k.preds
    let vecs := loadVecs h.k.grant ls (fullRegs h.p.ctx.vecState 0 h.k.alloc) preds.2 h.k.vregs
    let pc : Pc := BitVec.ofNat 48 (natOfBytes (sub new 0 6))
    let same := pc == h.p.groupPc
    (s.modKnot h.p.knot fun k => { k with vregs := vecs, preds := preds.1 }).modPath h.u fun p =>
      { p with
        hints := if same then p.hints else .none
        pend := (match p.pend with
          | .access a => .access a
          | .replay todo => .replay (narrowFaults new todo)
          | x => if same then x else .none)
        ctx := { p.ctx with
          pc := if same then p.ctx.pc else pc
          fn := if same then p.ctx.fn else s.heap.fnFor pc p.ctx.fn
          sent := if same then p.ctx.sent else 0
          mode := BitVec.ofNat 5 (natOfBytes (sub new 24 2))
          fpstat := BitVec.ofNat 5 (natOfBytes (sub new 26 2))
          scal := scals.1
          pst := loadStates (sub new 28 2) p.ctx.pst
          sst := loadStates (sub new 56 8) p.ctx.sst
          vst := loadStates (sub new 64 64) p.ctx.vst }
        faults := narrowFaults new p.faults }

/-- The state after a path whose image lies in a sector that is uncorrectable resumes: E_POISON is held for it (R332). -/
def State.poisonImage (s : State) (u : Nat) (img : Stored) : State :=
  if s.mem.poisoned (zoneAddr img.home img.off) img.len then
    s.modPath u fun p => p.hold { code := .poison, lane := lowestOf p.ctx.mask }
  else s

/-- The state after a stored path takes its image back and its space is released. -/
def State.loadImage (s : State) (u : Nat) (img : Stored) : State :=
  match s.here u with
  | none => s
  | some h =>
    if img.len = 0 then s
    else ((s.takeImage h img (s.zoneRead img.home img.off img.len)).poisonImage u img).freeImage img

/-- The knots of a crew that have not ended, by slot. -/
def Crew.live (c : Crew) : List (Nat × Nat) := (c.members.zipIdx.map fun e => (e.2, e.1)).filter fun e => !c.ended.contains e.1

/-- For each knot of a stored crew that has not ended, in slot order, the path whose image stands for the knot (R301). -/
def State.crewMains (s : State) (w : Crew) : List Here :=
  w.live.filterMap fun m => ((s.pathsOf m.2).find? fun e => e.2.place == .crewed).bind fun e => s.here e.1

/-- The image of the `i`-th knot of a crew image as a stored image of its own: bit `i` of the crew image's flags says whether that knot was
held for service as it was stored (R55). -/
def Stored.part (img : Stored) (s : State) (i : Nat) (h : Here) : Stored :=
  { img with seed := img.seed + i, flags := imageFlags h (s.wholeOf h) false (img.flags.testBit i) }

/-- The bytes of the `i`-th knot of a crew image. -/
def State.partBytes (s : State) (img : Stored) (i : Nat) (h : Here) : List Byte :=
  imageBytes h (img.part s i h).flags (img.part s i h).seed img.block

/-- The bytes of the knot images of a crew image, knot by knot. -/
def State.crewParts (s : State) (w : Crew) (img : Stored) : List (Here × List Byte) :=
  (s.crewMains w).zipIdx.map fun e => (e.1, s.partBytes img e.2 e.1)

/-- FLAGS of a crew image (R301). -/
def Crew.flags (w : Crew) : Nat :=
  match w.engine with
  | none => 0
  | some e => 1 + (if e.mover.run = .ended then 0 else 2) + (if e.mover.run = .stopped then 4 else 0)

/-- The 64-byte header of a crew image (R301). -/
def State.crewHeader (s : State) (w : Crew) (len : Nat) : List Byte :=
  bytesOfNat len 4 ++ bytesOfNat w.size 1 ++ bytesOfNat w.flags 1 ++ bytesOfNat (w.ended.foldl (fun a i => a ||| 2 ^ i) 0) 2 ++
    bytesOfNat w.padSize 4 ++ bytesOfNat (w.parity.foldl (fun a i => a ||| 2 ^ i) 0) 2 ++ bytesOfNat 0 2 ++
    bytesOfNat (match spFind w.launch s.launches with | some la => la.seq | none => 0) 8 ++ bytesOfNat 0 40

/-- The bytes of a crew image: header, knot images, the undocumented engine block (R301, log 10, DESIGN CHOICE). -/
def State.crewBytes (s : State) (w : Crew) (img : Stored) : List Byte :=
  let front := s.crewHeader w img.len ++ (s.crewParts w img).flatMap (·.2)
  front ++ (List.range (img.len - front.length)).map (Config.imageByte (img.seed + 16))

/-- Where the image of path `u` lies in the image of its crew: its POSTTAB's offset from the zone's first byte. -/
def partOffset (u : Nat) : Nat → List (Here × List Byte) → Option Nat
  | _, [] => none
  | off, (h, bs) :: rest => if h.u = u then some (off + 128) else partOffset u (off + bs.length) rest

/-- The state after the POSTTAB of a stored image follows its path's post table (R77). -/
def State.refreshPosts (s : State) (u : Nat) : State :=
  match s.here u with
  | none => s
  | some h =>
    let put (img : Stored) :=
      if img.len = 0 then s
      else s.zoneWrite img.home (img.off + 128) (h.p.ctx.posts.flatMap fun e => e.bytes h.k.regs.window)
    match h.p.place with
    | .parked img | .joined _ img | .heldOut img | .handled img => put img
    | .crewed =>
      (match (h.k.crew.bind fun c => spFind c.1 s.crews) with
      | some w =>
        (match w.place with
        | .stored img =>
          (match partOffset u (img.off + 64) (s.crewParts w img) with
          | some off => s.zoneWrite img.home off (h.p.ctx.posts.flatMap fun e => e.bytes h.k.regs.window)
          | none => s)
        | .core _ => s)
      | none => s)
    | _ => s

end Sys2Proof.Machine
end

