-- ==== Sys2Proof/Machine/Life.lean ====
section
/-! DEFINITION. Residency and the life of knots: slots and space of a core, landing and parking, splits of the path stack,
merging at a JOIN, the end of lanes, knots, crews, and killing (spec/01 R32 to R47, R52; spec/15 R254; spec/17 R290). -/
namespace Sys2Proof.Machine

/-- Whether a stack is present, and issues, places and resumes work (R4, R300, R304). -/
def State.open? (s : State) (home : Nat) : Bool :=
  s.strap.hasHome home && (s.mod (moduleOf home)).preempt == .running && !(s.stk home).halted

/-- The seats taken on a core, one for each path that runs or is held there. -/
def State.seats (s : State) (home core : Nat) : List (Nat × Path × Seat) :=
  s.paths.filterMap fun e =>
    match e.2.place with
    | .resident st | .held st => if e.2.home = home && st.core = core then some (e.1, e.2, st) else none
    | _ => none

/-- The slots taken on a core: partition, slot and the register bytes of the knot there (R22, R52). Paths of one knot that
share a slot count once. -/
def State.slots (s : State) (home core : Nat) : List (Nat × Nat × Nat) :=
  ((s.seats home core).map fun e =>
    (e.2.2.part, e.2.2.slot, match spFind e.2.1.knot s.knots with | some k => k.grant * k.alloc * 4 | none => 0)).dedup

/-- Bytes of a core's register file in use. -/
def State.regsUsed (s : State) (home core : Nat) : Nat := (s.slots home core).foldl (fun n e => n + e.2.2) 0

/-- Free knot slots of a core; none on a withdrawn core (R52, R332). -/
def State.freeSlots (s : State) (home core : Nat) : Nat :=
  if (s.stk home).withdrawn.contains core then 0 else 4 * Config.slotsPerPartition - (s.slots home core).length

/-- Free instruction-buffer entries of a core (R47). -/
def State.freeEntries (s : State) (home core : Nat) : Nat := Config.bufferEntries - (s.seats home core).length

/-- Free bytes of a core's register file (R22). -/
def State.freeRegs (s : State) (home core : Nat) : Nat := Config.registerFileBytes - s.regsUsed home core

/-- The lowest free slot of a partition (R52). -/
def State.freeSlotOf (s : State) (home core part : Nat) : Option Nat :=
  (List.range Config.slotsPerPartition).find? fun i => !(s.slots home core).any fun e => e.1 == part && e.2.1 == i

/-- The partition with the fewest resident knots, the lowest on ties (R32). -/
def State.partFor (s : State) (home core : Nat) : Nat :=
  (leastBy (fun p => 4 * ((s.slots home core).filter fun e => e.1 == p).length + p) [0, 1, 2, 3]).getD 0

/-- A seat on a core, on its emptiest partition (R32, R52). -/
def State.seatOn (s : State) (home core : Nat) : Option Seat :=
  let part := s.partFor home core
  (s.freeSlotOf home core part).map fun slot => { core := core, part := part, slot := slot, since := s.serial }

/-- Whether a core has a free slot, a free entry and register space (R32). -/
def State.coreHas (s : State) (home core bytes : Nat) : Bool :=
  decide (core < Config.coresPerStack) && decide (0 < s.freeSlots home core) && decide (0 < s.freeEntries home core) &&
    decide (bytes ≤ s.freeRegs home core)

/-- The core that takes an arrival: the one named if it has room, otherwise the lowest that has (R32). -/
def State.coreFor (s : State) (home want bytes : Nat) : Option Nat :=
  if s.coreHas home want bytes then some want
  else (List.range Config.coresPerStack).find? fun c => s.coreHas home c bytes

/-- Register bytes of a knot (R22). -/
def Knot.regBytes (k : Knot) : Nat := k.grant * k.alloc * 4

/-- Whether any image waits to resume on a stack: a parked path or a stored crew (R32, R34, R35). -/
def State.anyParked (s : State) (home : Nat) : Bool :=
  (s.paths.any fun e => match e.2.place with | .parked _ => e.2.home == home | _ => false) ||
    (s.crews.any fun e => match e.2.place with | .stored _ => e.2.home == home | _ => false)

/-- The state after a running path's top pushed path starts in its seat (R47). -/
def State.startPushed (s : State) (home : Nat) (place : Place) : List Nat → State
  | [] => s
  | q :: rest => s.modPath q fun p =>
      { p with home := home, place := place, blockedAt := none, ctx := { p.ctx with pushed := rest } }

/-- Without a pond instance. -/
def Knot.closeInst (k : Knot) (id : Nat) : Knot := { k with insts := k.insts.filter (·.id != id) }

/-- With a pond instance changed. -/
def Knot.modInst (k : Knot) (id : Nat) (f : Inst → Inst) : Knot :=
  { k with insts := k.insts.map fun i => if i.id = id then f i else i }

/-- The paths that wait at a pond instance (R43). -/
def State.waitingAt (s : State) (id : Nat) : List Nat :=
  (s.paths.filter fun e => match e.2.place with | .joined i _ => i == id | _ => false).map (·.1)

/-- Take back the images of waiting paths (R43, R57). -/
def State.reload (s : State) : List Nat → State
  | [] => s
  | u :: us =>
    (match s.path? u with
    | some p => (match p.place with | .joined _ img => s.loadImage u img | _ => s)
    | none => s).reload us

/-- Register states after a merge: full where full in every arriving fragment, dead otherwise (R42). -/
def mergeStates (ms : List (Sparse RegState)) : Sparse RegState :=
  match ms with
  | [] => []
  | m :: rest => m.filter fun e => e.2 == .full && rest.all fun n => spGet .dead n e.1 == .full

/-- The registers of a merged path (R42, R182): `lead` holds the lowest lane of the expected mask; the watchdog count is `wd`, and the stamp
is that of `lead` (log 27, DEDUCED). -/
def mergeCtx (lead : Ctx) (all : List Ctx) (pc : Pc) (mask : Mask) (pushed : List Nat) (wd : Nat) : Ctx :=
  { lead with
    mask := mask, pc := pc + 4, wrapped := false
    vst := mergeStates (all.map (·.vst)), sst := mergeStates (all.map (·.sst)), pst := mergeStates (all.map (·.pst))
    fpstat := all.foldl (fun f c => f ||| c.fpstat) 0
    posts := List.replicate 8 .free
    ponds := lead.ponds.dropLast, pushed := pushed, wd := wd, sent := 0 }

/-- The state after the arrivals of an instance merge (R42): the waiting images are taken back, path `u` becomes the merged path in
`place`, the other arrivals are no more, and the instance closes. What an image raises at its resumption (R57) the merged path raises. The
watchdog count returns to zero, but not at supervisor level (R286). -/
def State.merge (s : State) (kn id u : Nat) (others : List Nat) (place : Place) (pushed : List Nat) : State :=
  let s1 := s.reload (u :: others)
  match spFind kn s1.knots, s1.path? u with
  | some k, some p =>
    (match k.insts.find? fun i => i.id == id with
    | none => s1
    | some inst =>
      let all := (u :: others).filterMap fun v => s1.path? v
      let low := lowestOf inst.expected
      let lead := ((all.find? fun q => q.ctx.mask.getLsbD low).getD p).ctx
      let pc := (inst.first.map (·.1)).getD p.ctx.pc
      let ctx := mergeCtx lead (all.map (·.ctx)) pc inst.expected pushed (if p.super then p.ctx.wd else 0)
      let s2 := { s1 with paths := others.foldl (fun m v => spDrop v m) s1.paths }
      (s2.modKnot kn fun k => k.closeInst id).modPath u fun q =>
        { q with ctx := ctx, place := place, home := inst.anchor, hints := .none, pend := .none, wait := none,
                 blockedAt := none, flights := [], faults := [], trapHeld := all.flatMap (·.trapHeld) })
  | _, _ => s1

/-- The state after lanes end: they leave the expected mask of an instance, which merges, closes or stays open (R44). -/
def State.endInst (s : State) (kn : Nat) (lanes : Mask) (id : Nat) : State :=
  match (spFind kn s.knots).bind fun k => k.insts.find? fun i => i.id == id with
  | none => s
  | some inst =>
    let expected := inst.expected &&& ~~~lanes
    let s1 := s.modKnot kn fun k => k.modInst id fun i => { i with expected := expected }
    if expected = 0 then s1.modKnot kn fun k => k.closeInst id
    else if inst.arrived = expected then
      match s1.waitingAt id with
      | [] => s1
      | u :: others => s1.merge kn id u others (.flying inst.anchor) []
    else s1

/-- `endInst` for a stack of instances, innermost first. -/
def State.endInsts (s : State) (kn : Nat) (lanes : Mask) : List Nat → State
  | [] => s
  | id :: ids => (s.endInst kn lanes id).endInsts kn lanes ids

/-- Release the images and frames that a path holds in landing zones. -/
def State.freePath (s : State) (p : Path) : State :=
  let s1 := match p.place with
    | .parked img | .joined _ img | .heldOut img | .handled img => s.freeImage img
    | _ => s
  let s2 := match p.entry with
    | some e => s1.freeArea e.home e.off
    | none => s1
  (p.ctx.posts.flatMap (·.held)).foldl (fun s r => s.freeArea r.home r.area) s2

/-- Free the accumulators of a knot, and drop its request for some (R232, R273). -/
def Engine.releaseAccs (e : Engine) (kn : Nat) : Engine :=
  { e with
    accs := e.accs.filter fun a => a.2.owner != some kn
    accQueue := e.accQueue.filter fun a => a.1 != kn }

/-- The engine after the movement program ends because its crew is killed (R273, R290). -/
def Engine.endMover (e : Engine) : Engine := { e with mover := { e.mover with run := .ended } }

/-- Whether an operation of a batch that the unit has begun is still queued (R235). -/
def Engine.midBatch (e : Engine) : Bool := e.queue.any fun o => spFind o.knot e.begun == some o.batch

/-- Whether every slot of a crew has ended. -/
def Crew.allEnded (c : Crew) : Bool := decide (c.size ≤ c.ended.length)

/-- The state after a crew is no more: the space of its image is released. -/
def State.removeCrew (s : State) (c : Nat) : State :=
  match spFind c s.crews with
  | none => s
  | some w =>
    let s1 := match w.place with
      | .stored img => s.freeImage img
      | .core _ => s
    { s1 with crews := spDrop c s1.crews }

/-- The state after a knot is no more: the accesses that it had issued are performed, its paths, images, frames and records are released,
its accumulators freed, its crew slot ended (R36, R188, R232). A crew without an engine goes with its last knot. -/
def State.dropKnot (s : State) (kn : Nat) : State :=
  match spFind kn s.knots with
  | none => s
  | some k =>
    let s0 := (s.pathsOf kn).foldl (fun s e => s.catchUp e.1) s
    let s1 := (s.pathsOf kn).foldl (fun s e => s.freePath e.2) s0
    let s2 := { s1 with paths := s1.paths.filter (fun e => e.2.knot != kn), knots := spDrop kn s1.knots
                        mem := { s1.mem with areas := s1.mem.areas.filter fun e => e.2.own != some kn } }
    match k.crew with
    | none => s2
    | some (c, slot) =>
      let s3 := s2.modCrew c fun w =>
        { w with ended := w.ended ++ [slot], engine := w.engine.map (·.releaseAccs kn) }
      match spFind c s3.crews with
      | some w => if w.allEnded && w.engine.isNone then s3.removeCrew c else s3
      | none => s3

/-- The unplaced work of a stack that belongs to a launch. -/
def State.workOf (s : State) (l : Nat) : List Work := s.stks.flatMap fun e => e.2.work.filter fun w => w.launch == l

/-- Whether work is a launch's own knots, not tasks of its nodes. -/
def Work.own (w : Work) : Bool :=
  match w.kind with
  | .knots _ | .crew _ => true
  | _ => false

/-- Whether every index of a launch has been handed out to the `n` stacks of its module (R248, R256). -/
def Launch.allHanded (l : Launch) (n : Nat) : Bool := (List.range n).all fun i => decide (l.what.nknots ≤ spGet 0 l.handed i)

/-- Whether a launch's own knots have all ended (R254). -/
def State.ownDone (s : State) (l : Nat) (la : Launch) : Bool :=
  (la.allHanded s.strap.stackCount || la.cancelled) && !(s.workOf l).any Work.own &&
    !(s.knots.any fun e => e.2.launch == l && e.2.node.isNone)

/-- Enqueue work on a stack in its order of placement (R258, R264): higher priority first, then earlier arrival. -/
def State.addWork (s : State) (home : Nat) (w : Work) : State :=
  s.setStk home fun t =>
    { t with work := insertBy (fun a b => decide (b.prio < a.prio) ||
        (a.prio == b.prio && (decide (a.cycle < b.cycle) || (a.cycle == b.cycle && decide (a.order < b.order))))) w t.work }

/-- A task of a node enters the ready queue of its home (R261, R264). -/
def State.releaseTask (s : State) (l : Nat) (la : Launch) (n : Nat) (nd : Node) (stamp : DWord)
    (records : List (List Word)) : State :=
  let home := 16 * la.module + nd.ent.home
  s.addWork home
    { launch := l, prio := nd.ent.prio, any := false, cycle := (s.stk home).cycles, order := n, batch := 0
      kind := .task n stamp records }

/-- Every batch of a clutch launches at once (R254). -/
def State.flushNode (s : State) (l : Nat) (la : Launch) (n : Nat) (nd : Node) : State :=
  (nd.batches.foldl (fun s b => s.releaseTask l la n nd b.brood b.records) s).modLaunch l fun la =>
    { la with nodes := spModify n (fun nd =>
        { nd with batches := [], abandoned := nd.abandoned || (nd.ent.kind == 2 && !nd.spent) }) la.nodes }

/-- When a launch's own knots have all ended, its clutches launch their records and its unreleased counters are abandoned
(R254). -/
def State.flushLaunch (s : State) (l : Nat) : State :=
  match spFind l s.launches with
  | none => s
  | some la =>
    if s.ownDone l la && !la.ownEnded then
      (la.nodes.foldl (fun s e => s.flushNode l la e.1 e.2) s).modLaunch l fun la => { la with ownEnded := true }
    else s

/-- Kill a knot, and for a crew knot every knot of its crew, whose movement program ends (R290): paths, images and
resources go, posts already sent are performed, and the launch is marked KILLED. -/
def State.killKnot (s : State) (kn : Nat) : State :=
  match spFind kn s.knots with
  | none => s
  | some k =>
    let s1 := match k.crew with
      | none => s.dropKnot kn
      | some (c, _) =>
        (match spFind c s.crews with
        | none => s.dropKnot kn
        | some w =>
          let s0 := s.modEngine c fun e =>
            { e.endMover with queue := [], begun := [], words := [], accQueue := [] }
          w.live.foldl (fun (s : State) (m : Nat × Nat) => s.dropKnot m.2) s0)
    (s1.modLaunch k.launch fun la => { la with killed := true }).flushLaunch k.launch

end Sys2Proof.Machine
end

