-- ==== Sys2Proof/Machine/Ops.lean ====
section
/-! DEFINITION. The shared operations of the meanings: decode checks that depend on state, retiring, waiting, taking a trap
and returning from one, and running one instruction of a path or of a movement processor (spec/07 R114 to R124, spec/13 R240,
R241, spec/17 R280 to R288). -/
namespace Sys2Proof.Machine

/-- The outcome of a step. -/
abbrev Out := Host.Outcome State Fault Refusal

/-- What HINT.IMM may do before an instruction (R122): nothing, give 21 bits with the rest zero, give 23 bits. -/
inductive ImmUse where
  | no | low | any
  deriving DecidableEq, Repr

/-- What the decode checks of an instruction depend on (R121 to R124): HINT.IMM, HINT.FMT (`pair`: not F32), a rounding
field of 0b11, the matrix majors, supervisor level; and whether it may issue while earlier accesses of its path are not yet performed
(`defer`, R66, R67). -/
structure InstrForm where
  imm : ImmUse := .no
  fmt : Bool := false
  pair : Bool := false
  rnd : Bool := false
  matrix : Bool := false
  priv : Bool := false
  defer : Bool := false
  deriving DecidableEq, Repr

/-- An instruction that takes no hint of effect and makes no check of its own. -/
def InstrForm.plain : InstrForm := {}

/-- Whether the pending hints are misused before an instruction (R122, R123, R102). -/
def hintsMisused (f : InstrForm) (h : Hints) : Bool :=
  (match f.imm, h.imm with
    | .no, some _ => true
    | .low, some p => p.extractLsb' 21 2 != 0
    | _, _ => false) ||
  (!f.fmt && h.fmt.isSome) || (f.pair && h.fmt == some .f32) || (f.rnd && h.rnd.isNone)

/-- The decode trap of an instruction of a path, in the order of R121; the checks of the word alone are the decoder's. -/
def decodeTrap (s : State) (h : Here) (f : InstrForm) : Option TrapCode :=
  if hintsMisused f h.p.hints then some .illegal
  else if f.matrix && !s.strap.hasMatrix then some .absent
  else if f.priv && !h.p.super then some .priv
  else none

/-- The number of a trap code (R280). -/
def TrapCode.num : TrapCode → Nat
  | .illegal => 1 | .absent => 2 | .priv => 3 | .fetch => 4 | .pcwrap => 5 | .empty => 6 | .dead => 7 | .page => 8
  | .prot => 9 | .align => 10 | .bound => 11 | .poison => 12 | .rooted => 13 | .diverged => 14 | .pond => 15
  | .window => 16 | .postfault => 17 | .plane => 18 | .collide => 19 | .matrix => 20 | .token => 21 | .nested => 22
  | .handle => 23 | .barrier => 24 | .node => 25 | .queue => 26 | .brood => 27 | .chain => 28 | .runaway => 29
  | .image => 30 | .movefault => 31 | .trap => 32 | .bkpt => 33

/-- The entry that names no function: the executing function after a call to what is not a bound function (R178). -/
def noFn : Nat := 4294967296

/-- Whether a word of the heap is a hint (R123). -/
def HeapSt.isHint (h : HeapSt) (pc : Pc) : Bool := (spGet 0 h.words (pc.toNat / 4)).extractLsb' 26 6 == 63#6

/-- The words of the issue group at a PC, 1 to 3 (R124, R285). -/
def HeapSt.groupWords (h : HeapSt) (pc : Pc) : Nat :=
  if h.isHint pc then if h.isHint (pc + 4) then 3 else 2 else 1

/-- The PC of the next word, and whether the increment carried out of bit 47 (R114). -/
def Ctx.advance (c : Ctx) : Ctx := { c with pc := c.pc + 4, wrapped := c.pc == BitVec.allOnes 46 ++ 0#2 }

/-- The halt of a path after an instruction of its skid (R283). -/
def Halt.skid : Halt → Halt
  | .halting n => if n < 7 then .halting (n + 1) else .halted 8
  | h => h

/-- The watchdog count after one more word: no words are counted under a limit of 0, or at supervisor level (R53, R286). -/
def Path.counted (p : Path) (limit : Word) : Nat := if p.super || limit == 0 then p.ctx.wd else p.ctx.wd + 1

/-- The same for a path with its knot. -/
def Here.counted (h : Here) : Nat := h.p.counted h.k.regs.watchdog

/-- A path back before the first word of the issue group that it is in, whose hints count as not yet issued: pre-emption, trap entry, parking
and hops take place only there (R124). -/
def Path.rewind (p : Path) (limit : Word) : Path :=
  { p with
    hints := .none
    ctx := { p.ctx with
      pc := p.groupPc, wrapped := p.ctx.wrapped && p.hints.words == 0
      wd := if p.super || limit == 0 then p.ctx.wd else p.ctx.wd - p.hints.words } }

/-- The state with a path back before its issue group. -/
def State.rewind (s : State) (u : Nat) : State := s.modPath u fun p => p.rewind (s.limitOf p.knot)

/-- The state after a path leaves for a home: at the edge of an issue group, with the values on their way to the paths pushed under it
arrived (R31, R54, R124). -/
def State.depart (s : State) (u home : Nat) : State :=
  let s1 := match s.path? u with
    | some p => p.ctx.pushed.foldl State.drain s
    | none => s
  (s1.rewind u).modPath u fun p => { p with place := .flying home, wait := none, blockedAt := none }

/-- A path after an instruction has issued, its PC aside: hints used, the word counted, nothing pending. -/
def Path.issued (p : Path) (serial : Nat) (limit : Word) : Path :=
  { p with ctx := { p.ctx with wd := p.counted limit, sent := 0 }, hints := .none, pend := .none, wait := none,
           blockedAt := none, lastIssue := serial, halt := p.halt.skid }

/-- The state with one more step of progress made: paths that wait try again (log 4, DESIGN CHOICE). -/
def State.bump (s : State) : State := { s with serial := s.serial + 1 }

/-- The state after path `u` completes an instruction and continues at the next word. -/
def State.retire (s : State) (u : Nat) : State :=
  (s.modPath u fun p =>
    { p.issued s.serial (s.limitOf p.knot) with ctx := (p.issued s.serial (s.limitOf p.knot)).ctx.advance }).bump

/-- The state after path `u` completes an instruction and continues at a target in a function. -/
def State.jump (s : State) (u : Nat) (pc : Pc) (fn : Nat) : State :=
  (s.modPath u fun p =>
    let q := p.issued s.serial (s.limitOf p.knot)
    { q with ctx := { q.ctx with pc := pc, wrapped := false, fn := fn } }).bump

/-- The state after path `u`, whose wait is over, completes its instruction and continues after its issue group; the watchdog
count returns to zero (R53). -/
def State.release (s : State) (u : Nat) : State :=
  (s.modPath u fun p =>
    let n := s.heap.groupWords p.ctx.pc
    let q := p.issued s.serial (s.limitOf p.knot)
    { q with ctx := { q.ctx with
        pc := p.ctx.pc + BitVec.ofNat 48 (4 * n), wrapped := false, wd := if p.super then p.ctx.wd else 0 } }).bump

/-- Whether two waits are of one kind: a path that goes from one to the other has been blocked without a break (R35). -/
def Wait.like : Wait → Wait → Bool
  | .register _, .register _ => true
  | a, b => a == b

/-- The cycle since which a path that waits for `w` has been blocked, `now` when it has not waited for its like before (R35). -/
def Path.since (p : Path) (w : Wait) (now : Nat) : Nat := if p.wait.any (·.like w) then p.blockedCycle else now

/-- The state after a path finds that its instruction must wait: its PC is unchanged (R52). -/
def State.block (s : State) (u : Nat) (w : Wait) : State :=
  s.modPath u fun p =>
    { p with wait := some w, blockedAt := some s.serial, blockedCycle := p.since w (s.stk p.home).cycles }

/-- The state after the instruction of a path has taken effect in part and waits for the rest, from this cycle on (R35, R52). -/
def State.await (s : State) (u : Nat) (pend : Pend) (w : Wait) : State :=
  s.modPath u fun p => { p with pend := pend, wait := some w, blockedCycle := (s.stk p.home).cycles }

/-- The other paths that halt when a path of a knot traps: those of its knot, and for a crew knot those of every knot of the
crew (R283). -/
def State.partners (s : State) (u : Nat) (p : Path) (k : Knot) : List Nat :=
  (s.paths.filter fun e => e.1 != u && (e.2.knot == p.knot ||
    match k.crew, spFind e.2.knot s.knots with
    | some (c, _), some k' => (match k'.crew with | some (c', _) => c == c' | none => false)
    | _, _ => false)).map (·.1)

/-- The fragments or crew knots that halt (SIBS of R285). -/
def State.sibCount (s : State) (u : Nat) (p : Path) (k : Knot) : Nat :=
  (s.siblings p.knot u).length +
    match k.crew with
    | none => 0
    | some (c, _) => (s.knots.filter fun e => e.1 != p.knot && (match e.2.crew with | some (c', _) => c == c' | none => false)).length

/-- A path as a halted sibling with its skid: an issue group in progress begins again (R124, R283). -/
def Path.halted (p : Path) (n : Nat) (limit : Word) : Path := { p.rewind limit with halt := .halted n }

/-- A path told to halt: a resident path has its skid before it, any other is halted already (R283). -/
def Path.toHalt (limit : Word) (p : Path) : Path :=
  match p.halt, p.place with
  | .running, .resident _ => { p with halt := .halting 0 }
  | .running, _ => p.halted 0 limit
  | _, _ => p

/-- The state after some paths are told to halt. -/
def State.haltAll (s : State) : List Nat → State
  | [] => s
  | u :: us => (s.modPath u fun p => p.toHalt (s.limitOf p.knot)).haltAll us

/-- The state after halted paths resume from their own PCs (R288). -/
def State.resumeAll (s : State) : List Nat → State
  | [] => s
  | u :: us => (s.modPath u fun p => { p with halt := .running, blockedAt := none }).resumeAll us

/-- Whether some path is still in its skid. -/
def State.anyHalting (s : State) (us : List Nat) : Bool :=
  us.any fun u => match s.path? u with | some p => (match p.halt with | .halting _ => true | _ => false) | none => false

/-- The launch sequence number of a knot. -/
def State.seqOf (s : State) (k : Knot) : Nat := match spFind k.launch s.launches with | some l => l.seq | none => 0

/-- The 16-bit REG field (R285). -/
def regField : Option RegName → Nat
  | none => 0
  | some r => (match r.file with | .vec => 0 | .scal => 256 | .pred => 512) + r.num % 256

/-- The fault record: bytes 0 to 63 of the trap frame (R285). -/
def State.faultRecord (s : State) (h : Here) (t : Trap) (pc : Pc) : List Byte :=
  bytesOfNat pc.toNat 8 ++ bytesOfNat t.code.num 1 ++ bytesOfNat (s.heap.groupWords pc) 1 ++
    bytesOfNat (min 255 (s.sibCount h.u h.p h.k)) 1 ++ bytesOfNat t.num 1 ++ bytesOfNat (regField t.reg) 2 ++
    bytesOfNat t.lane 2 ++ bytesOfNat t.addr.toNat 8 ++ bytesOfNat h.k.brood.toNat 8 ++ bytesOfNat h.k.knotId 4 ++
    bytesOfNat (h.p.home % 16) 1 ++ bytesOfNat h.p.core 1 ++ bytesOfNat (moduleOf h.p.home) 2 ++
    bytesOfNat (summaryOf h.p.ctx.mask).toNat 4 ++ bytesOfNat (s.seqOf h.k) 4 ++ bytesOfNat 0 16

/-- The trap frame as the device writes it (R285): the fault record, s30, s31 and their states, the rest zero. -/
def trapFrame (c : Ctx) (record : List Byte) : List Byte :=
  record ++ bytesOfNat (c.scalVal 30).toNat 8 ++ bytesOfNat (c.scalVal 31).toNat 8 ++
    bytesOfNat ((c.scalState 30).code + 4 * (c.scalState 31).code) 1 ++ bytesOfNat 0 47

/-- The state after a record is sent to the management core of a module (R240, R286). -/
def State.report (s : State) (m seq : Nat) (bs : List Byte) : State :=
  s.setMod m fun x => { x with inbox := x.inbox ++ [(seq, bs)] }

/-- A double trap (R286): the knot is killed as by HALT, and a fault record goes to the management core. -/
def State.doubleTrap (s : State) (h : Here) (t : Trap) (pc : Pc) : State :=
  ((s.report (moduleOf h.p.home) (s.seqOf h.k) (s.faultRecord h t pc)).killKnot h.p.knot).bump

/-- The path whose pending faults of s30 and s31 are listed as those of its trap frame: s30 and s31 are about to name the frame and the code
(R284, R288). -/
def Path.keepSaved (p : Path) : Path :=
  { p with faults := p.faults.map fun f =>
      match f.dest with
      | .scal n => if n = 30 || n = 31 then { f with dest := .scal (n + 32) } else f
      | _ => f }

/-- The state with a path's pending faults of s30 and s31 listed so. -/
def State.keepSaved (s : State) (u : Nat) : State := s.modPath u Path.keepSaved

/-- The path after s30 or s31, number `n`, is restored from its trap frame with a value and a state (R288 step 4). One that the frame has
fault-pending is full with the value of its replay when that is done, dead when its fault was dropped, and otherwise has its fault again. -/
def Path.restore (p : Path) (n : Nat) (v : DWord) (st : RegState) : Path :=
  let name : RegName := { file := .scal, num := n }
  let clear (c : Ctx) : Ctx := { c with sst := spDrop (n + 32) c.sst, scal := spDrop (n + 32) c.scal }
  let others := p.faults.filter fun f => f.dest != .scal n && f.dest != .scal (n + 32)
  match st, p.faults.find? fun f => f.dest == .scal (n + 32) with
  | .pending, some f =>
    { p with ctx := clear ((p.ctx.setScal n v).setState name .pending), faults := others ++ [{ f with dest := .scal n }] }
  | .pending, none =>
    if p.ctx.scalState (n + 32) = .full then
      { p with ctx := clear ((p.ctx.setScal n (p.ctx.scalVal (n + 32))).setState name .full), faults := others }
    else { p with ctx := clear ((p.ctx.setScal n v).setState name .dead), faults := others }
  | st, _ => { p with ctx := clear ((p.ctx.setScal n v).setState name st), faults := others }

/-- The PC of a vector: word 16 * code of the table that VECBASE locates (R284, R331). -/
def vectorPc (vecbase : DWord) (code : TrapCode) : Pc := vecbase.setWidth 48 + BitVec.ofNat 48 (64 * code.num)

/-- Supervisor entry (R284), for a path at an issue-group boundary: siblings halt, loads in flight drain, the trap frame is written in the
current stack's landing zone, s30 and s31 name it and the code, and the path goes to its vector at supervisor level; other traps that the
path holds as pending wait for its resumption (R283). Without room for the frame, or while a load in flight may not be performed, the
entry waits. -/
def State.enterSupervisor (s : State) (u : Nat) (t : Trap) : State :=
  match s.here u with
  | none => s
  | some h =>
    let s1 := ((s.haltAll (s.partners u h.p h.k)).drain u).keepSaved u
    if !s.settles u then s.block u .memory
    else match s1.here u, s1.takeArea h.p.home { kind := .frame, len := 128, own := some h.p.knot } with
    | some h1, some (off, s2) =>
      let pc := h1.p.ctx.pc
      let s3 := s2.zoneWrite h1.p.home off (trapFrame h1.p.ctx (s.faultRecord h t pc))
      let s4 := (s3.writeScal u 30 (windowAddr h1.k.regs.window h1.p.home off)).writeScal u 31 (BitVec.ofNat 64 t.code.num)
      let vec := vectorPc h1.k.regs.vecbase t.code
      (s4.modPath u fun p =>
        { p with super := true, wait := none, blockedAt := none, hints := .none, pend := .none, trapHeld := []
                 entry := some { home := h1.p.home, off := off, pc := pc, code := t.code, fn := h1.p.ctx.fn, pend := p.pend
                                 sent := p.ctx.sent, held := p.trapHeld }
                 ctx := { p.ctx with pc := vec, wrapped := false, sent := 0, fn := (s.heap.fnAt vec.toNat).getD noFn } }).bump
    | _, _ => s.block u .memory

/-- The handler node of a task, when a trap of its code goes there (R282). The task of a handler that runs at user level, after its own
RFT, is one of them when its node has a HANDLER (log 28, DESIGN CHOICE: R295 sends the own traps of a handler task to the supervisor). -/
def State.handlerOf (s : State) (h : Here) (code : TrapCode) : Option Nat :=
  match h.k.node, spFind h.k.launch s.launches with
  | some n, some la =>
    if h.p.super || !([.page, .prot, .poison, .align, .bound] : List TrapCode).contains code then none
    else (spFind n la.nodes).bind fun nd => nd.ent.handler
  | _, _ => none

/-- A trap routed to a handler task (R295): the siblings halt, the path is saved as an image with SERVICE set (log 37, DEDUCED), its fault
record is written, and the handler node's task is released. Without room, or while a load in flight may not be performed, it waits. -/
def State.toHandler (s : State) (u n : Nat) (t : Trap) : State :=
  match s.here u with
  | none => s
  | some h =>
    let s1 := (s.haltAll (s.partners u h.p h.k)).drainAll u
    if !s.settles u then s.block u .memory
    else match s1.here u, spFind h.k.launch s.launches with
    | some h1, some la =>
      (match spFind n la.nodes, s1.storeImage h1 false true .image with
      | some nd, some (img, s2) =>
        (match s2.takeArea h.p.home { kind := .record, len := 64, own := some h.p.knot } with
        | some (off, s3) =>
          let home := 16 * la.module + nd.ent.home
          let s4 := (s3.zoneWrite h.p.home off (s.faultRecord h t h1.p.ctx.pc)).modPath u fun p =>
            { p with place := .handled img, wait := none, blockedAt := none
                     entry := some { home := h.p.home, off := off, pc := p.ctx.pc, code := t.code, fn := p.ctx.fn, pend := p.pend
                                     sent := p.ctx.sent, held := [] } }
          (s4.addWork home
            { launch := h.k.launch, prio := nd.ent.prio, any := false, cycle := (s.stk home).cycles, order := n, batch := 0
              kind := .handler n u (windowAddr la.regs.window img.home img.off) (windowAddr la.regs.window h.p.home off) }).bump
        | none => s.block u .memory)
      | _, _ => s.block u .memory)
    | _, _ => s

/-- Whether a path is a handler task's, outside any trap of its own: its traps go to supervisor entry (R295). -/
def Here.handles (h : Here) : Bool := h.k.handling.isSome && h.p.entry.isNone

/-- The delivery of a trap to a path at an issue-group boundary (R282, R283): a double trap at supervisor level, a handler task's own
code aside; held as pending in a skid; otherwise a handler task or the supervisor. -/
def State.deliver (s : State) (u : Nat) (t : Trap) : State :=
  match s.here u with
  | none => s
  | some h =>
    if h.p.super && !h.handles then s.doubleTrap h t h.p.ctx.pc
    else match h.p.halt with
      | .halting n => (s.modPath u fun p =>
          { (p.hold t).halted n h.k.regs.watchdog with wait := none, blockedAt := none }).bump
      | .halted _ => (s.modPath u (Path.hold t)).bump
      | .running =>
        match s.handlerOf h t.code with
        | some n => s.toHandler u n t
        | none => s.enterSupervisor u t

/-- TAKING AN EXCEPTION: an instruction of path `u` raises a trap. The frame's PC is the first word of its issue group, or of
the next group for E_TRAP and E_BKPT (R285). -/
def State.takeTrap (s : State) (u : Nat) (t : Trap) : State :=
  match s.path? u with
  | none => s
  | some _ =>
    let s0 := if t.code = .trap || t.code = .bkpt then s.modPath u fun p => { p with ctx := { p.ctx with pc := p.ctx.pc + 4 }, hints := .none }
      else s.rewind u
    let s1 := s0.deliver u t
    -- without room for a frame the instruction is tried again
    match s1.path? u with
    | some q => if q.wait = some .memory then s.block u .memory else s1
    | none => s1

/-- RETURNING FROM ONE: steps 4 to 6 of R288, from the frame's bytes: s30, s31 and their states are restored, the level
returns to user, the PC becomes the frame's, and the halted siblings resume; a trap held as pending since before the entry is held again,
to be taken before the path issues (R283). -/
def State.returnFrom (s : State) (u : Nat) (frame : List Byte) : State :=
  match s.here u with
  | none => s
  | some h =>
    let pc : Pc := alignPc (BitVec.ofNat 48 (natOfBytes (sub frame 0 6)))
    let sstate := natOfBytes (sub frame 80 1)
    let states : List RegState := [.full, .empty, .dead, .pending]
    let stateAt (i : Nat) := states.getD (sstate / 4 ^ i % 4) .dead
    let s1 := match h.p.entry with
      | some e => s.freeArea e.home e.off
      | none => s
    let fn := match h.p.entry with
      | some e => s.heap.fnFor pc e.fn
      | none => s.heap.fnFor pc ((s.heap.fnAt pc.toNat).getD noFn)
    let same := match h.p.entry with
      | some e => e.pc == pc
      | none => false
    let s2 := s1.modPath u fun p =>
      let q := (p.restore 30 (BitVec.ofNat 64 (natOfBytes (sub frame 64 8))) (stateAt 0)).restore 31
        (BitVec.ofNat 64 (natOfBytes (sub frame 72 8))) (stateAt 1)
      { q with super := false, entry := none, hints := .none, wait := none, blockedAt := none, lastIssue := s.serial
               trapHeld := ((h.p.entry.map Entry.held).getD []) ++ q.trapHeld
               pend := (match h.p.entry.map Entry.pend with
                 | some (.access a) => .access a
                 | some x => if same then x else .none
                 | none => .none)
               ctx := { q.ctx with
                 pc := pc, wrapped := false, fn := fn
                 sent := (match h.p.entry with
                   | some e => if same then e.sent else 0
                   | none => 0) } }
    (s2.resumeAll (s.partners u h.p h.k)).bump

/-- A path and the state once the accesses that it has issued are performed. -/
def State.caughtUp (s : State) (h : Here) : State × Here := (s.catchUp h.u, ((s.catchUp h.u).here h.u).getD h)

/-- One instruction of a path: decode checks, the never-guard (R118), then its body, after the accesses that come before it, which it waits
for while one of them may not be performed (R67, R75). -/
def pathRun (f : InstrForm) (never : Bool) (body : State → Here → Res State) (s : State) (h : Here) : State :=
  match decodeTrap s h f with
  | some code => s.takeTrap h.u { code := code }
  | none =>
    if never then s.retire h.u
    else if !f.defer && !s.settles h.u then s.block h.u .stream
    else match (if f.defer then body s h else body (s.caughtUp h).1 (s.caughtUp h).2) with
      | .ok s' => s'
      | .error (.wait w s') => s'.block h.u w
      | .error (.trap t s') => s'.takeTrap h.u t

/-- How an instruction of a movement processor stops short: it waits, or it is a movement fault at issue (R241). -/
inductive MoveStop where
  | wait (s : State)
  | fault (code : TrapCode) (handle : Nat) (addr : DWord)

/-- The result of a part of a movement instruction. -/
abbrev MRes (α : Type) := Except MoveStop α

/-- The first word of the issue group that a movement processor is in. -/
def Mover.groupPc (m : Mover) : Pc := m.pc - BitVec.ofNat 48 (4 * m.hints.words)

/-- The state with the movement processor of a crew changed. -/
def State.modMover (s : State) (c : Nat) (f : Mover → Mover) : State := s.modEngine c fun e => { e with mover := f e.mover }

/-- The state after a movement fault at issue (R241): the processor stops at the faulting group, and its record describes the fault of a
copy that has reached it before, if one has. -/
def State.moveFault (s : State) (c : Nat) (code : TrapCode) (handle : Nat) (addr : DWord) : State :=
  (s.modMover c fun m =>
    { m with run := .stopped, reported := false, wait := false, blockedAt := none, hints := .none, pc := m.groupPc, list := []
             pending := none
             fault := some (match m.pending with
               | some f => { f with stop := m.groupPc }
               | none => { pc := m.groupPc, cause := code, handle := handle, sector := 0, addr := addr, stop := m.groupPc,
                           atIssue := true }) }).bump

/-- The movement processor after an instruction, its PC aside. -/
def Mover.issued (m : Mover) : Mover := { m with hints := .none, wait := false, blockedAt := none, list := [] }

/-- The state after a movement processor completes an instruction and continues at the next word. -/
def State.moveOn (s : State) (c : Nat) : State :=
  (s.modMover c fun m =>
    { m.issued with pc := m.pc + 4, wrapped := m.pc == BitVec.allOnes 46 ++ 0#2 }).bump

/-- The state after a movement processor completes an instruction and continues at a target in a function. -/
def State.moveTo (s : State) (c : Nat) (pc : Pc) (fn : Nat) : State :=
  (s.modMover c fun m => { m.issued with pc := pc, wrapped := false, fn := fn }).bump

/-- A movement processor with its crew. -/
structure MHere where
  c : Nat
  crew : Crew
  e : Engine
  deriving DecidableEq, Repr

/-- The movement processor of a crew, if it has one. -/
def State.mover? (s : State) (c : Nat) : Option MHere :=
  match spFind c s.crews with
  | none => none
  | some w => w.engine.map fun e => { c := c, crew := w, e := e }

/-- One instruction of a movement processor: hint misuse is E_ILLEGAL, then its body. -/
def moverRun (f : InstrForm) (body : State → MHere → MRes State) (s : State) (m : MHere) : State :=
  if hintsMisused f m.e.mover.hints then s.moveFault m.c .illegal 0 0
  else match body s m with
    | .ok s' => s'
    | .error (.wait s') => s'.modMover m.c fun x => { x with wait := true, blockedAt := some s'.serial }
    | .error (.fault code h a) => s.moveFault m.c code h a

/-- One instruction for the current agent, of a path or of a movement processor. -/
def agentRun (f : InstrForm) (never : Bool) (body : State → Here → Res State) (mbody : State → MHere → MRes State)
    (s : State) : Out :=
  match s.cur with
  | .idle => .fault .noAgent
  | .path u =>
    (match s.here u with
    | none => .fault .noAgent
    | some h => .next (pathRun f never body s h))
  | .mover c =>
    (match s.mover? c with
    | none => .fault .noAgent
    | some m => .next (moverRun f mbody s m))

/-- A word outside the movement subset on a movement processor (R130). -/
def outsideSubset (_ : State) (_ : MHere) : MRes State := .error (.fault .illegal 0 0)

/-- An instruction that only knots execute. -/
def knotOp (f : InstrForm) (never : Bool) (body : State → Here → Res State) (s : State) : Out :=
  agentRun f never body outsideSubset s

/-- An instruction that only movement processors execute: E_ILLEGAL on a knot (R121). -/
def moverOp (mbody : State → MHere → MRes State) (s : State) : Out :=
  agentRun .plain false (fun s _ => .error (.trap { code := .illegal } s)) mbody s

/-- An event: the state it leads to. -/
def event (s : State) : Out := .next s

end Sys2Proof.Machine
end

