-- ==== Sys2Proof/Machine/Flags.lean ====
section
/-! DEFINITION. The conditions of ICMP, SCMP and FCMP, the sticky flags of FPSTAT, and rounding directions
(spec/05 R99 to R104, spec/07 R131, R132). -/
namespace Sys2Proof.Machine

/-- MODE[2]: subnormal inputs read as zero (R99). -/
def flushIn (mode : BitVec 5) : Bool := mode.getLsbD 2
/-- MODE[3]: tiny results flush to zero (R99). -/
def flushOut (mode : BitVec 5) : Bool := mode.getLsbD 3
/-- MODE[4]: narrowing conversions saturate (R95, R105). -/
def saturates (mode : BitVec 5) : Bool := mode.getLsbD 4

/-- The direction that a 2-bit code names (R100, R123). -/
def dirOf (c : BitVec 2) : Dir := if c = 0 then .near else if c = 1 then .zero else if c = 2 then .down else .up

/-- The rounding direction of an instruction (R102). -/
def roundingOf (r : RndField) (mode : BitVec 5) (h : Hints) : Dir :=
  match r with
  | .mode => dirOf (mode.extractLsb' 0 2)
  | .near => .near
  | .zero => .zero
  | .hint => h.rnd.getD .near

/-- A condition of ICMP or SCMP on two values of one width (R131). -/
def condHolds {w : Nat} (c : Cond) (a b : BitVec w) : Bool :=
  match c with
  | .eq => a == b
  | .ne => a != b
  | .ltI => a.slt b
  | .leI => a.sle b
  | .gtI => b.slt a
  | .geI => b.sle a
  | .ltN => a.ult b
  | .leN => a.ule b
  | .gtN => b.ult a
  | .geN => b.ule a

/-- The state after a path's FPSTAT takes more flags (R101). -/
def State.addFlags (s : State) (u : Nat) (f : FpFlags) : State :=
  s.modCtx u fun c => { c with fpstat := c.fpstat ||| f }

end Sys2Proof.Machine
end

