-- ==== Sys2Proof/Machine/Operands.lean ====
section
/-! DEFINITION. Every operand form: immediates, offsets and branch targets (spec/07 R122), lane addresses (spec/11 R189),
register groups, and the shapes that the vector and scalar families share (spec/09 R147, R149). -/
namespace Sys2Proof.Machine

/-- imm11 of majors 0x02, 0x03, 0x06 (R122). -/
def vecImm (h : Hints) (i : BitVec 11) : Word :=
  match h.imm with
  | none => i.signExtend 32
  | some p => p.extractLsb' 0 21 ++ i

/-- imm16 of majors 0x21, 0x2B (R122). -/
def scalImm (h : Hints) (i : BitVec 16) : DWord :=
  match h.imm with
  | none => i.signExtend 64
  | some p => (p ++ i).signExtend 64

/-- The offset of the memory format, for an access of `n` bytes (R122). -/
def memOffset (h : Hints) (o : BitVec 3) (n : Nat) : DWord :=
  (match h.imm with
  | none => o.setWidth 64
  | some p => (p ++ o).signExtend 64) * BitVec.ofNat 64 n

/-- The byte offset of the atomic format (R122). -/
def atomOffset (h : Hints) : DWord :=
  match h.imm with
  | none => 0
  | some p => p.signExtend 64

/-- A branch or call target: the address of the word plus four times the offset (R122, R178). -/
def branchTarget (pc : Pc) (o : BitVec 18) : Pc := pc + (o.signExtend 48) * 4

/-- The address of a lane: base, lane offset, immediate, modulo 2^64 (R189); the lane offset is 32 bits unsigned (log 25, DEDUCED). -/
def laneAddr (base : DWord) (lane : Word) (off : DWord) : DWord := base + lane.setWidth 64 + off

/-- A 64-bit value of a lane from a register pair (R94). -/
def lanePair (k : Knot) (r l : Nat) : DWord := Word.pair (k.lane r l) (k.lane (r + 1) l)

/-- The bytes of a lane's data group of `n` registers, low register first (R9). -/
def laneBytes (k : Knot) (r n l : Nat) : List Byte := (List.range n).flatMap fun i => bytesOfNat (k.lane (r + i) l).toNat 4

/-- The mask of the effective lanes at which a condition holds. -/
def maskWhere (eff : Mask) (grant : Nat) (f : Nat → Bool) : Mask := maskOf ((lanesOf eff grant).filter f)

/-- Destinations are waited for only when some lane is effective (R25). -/
def awaitDests (s : State) (p : Path) (eff : Mask) (ds : List RegName) : Res Unit :=
  if eff = 0 then .ok () else checkDests s p ds

/-- An instruction that reads sources and writes one vector register in its effective lanes (R147). -/
def lanewise (f : InstrForm) (g : Guard) (srcs : Ctx → List (RegName × Bool)) (d : VReg) (val : Here → Nat → Word) :
    State → Out :=
  knotOp { f with defer := true } (isNever g) fun s h => do
    checkSources s h.p (guardSource g :: srcs h.p.ctx)
    awaitDests s h.p (effective h g) [{ file := .vec, num := h.p.ctx.reg d.toNat }]
    .ok ((s.writeVec h.u (h.p.ctx.reg d.toNat) (effective h g) (val h)).retire h.u)

/-- The same for a register pair, written on completion (R120). -/
def pairwise (f : InstrForm) (g : Guard) (srcs : Ctx → List (RegName × Bool)) (d : VReg) (val : Here → Nat → DWord) :
    State → Out :=
  knotOp { f with defer := true } (isNever g) fun s h => do
    let r := h.p.ctx.reg d.toNat
    checkSources s h.p (guardSource g :: srcs h.p.ctx)
    awaitDests s h.p (effective h g) [{ file := .vec, num := r }, { file := .vec, num := r + 1 }]
    .ok ((s.writeGroup h.u (effective h g) [(r, fun l => (val h l).lo), (r + 1, fun l => (val h l).hi)]).retire h.u)

/-- The same for a predicate (R155). -/
def predwise (f : InstrForm) (g : Guard) (srcs : Ctx → List (RegName × Bool)) (d : PReg) (val : Here → Nat → Bool) :
    State → Out :=
  knotOp { f with defer := true } (isNever g) fun s h => do
    checkSources s h.p (guardSource g :: srcs h.p.ctx)
    awaitDests s h.p (effective h g) [{ file := .pred, num := d.toNat }]
    .ok ((s.writePred h.u d.toNat (effective h g) (maskWhere (effective h g) h.k.grant (val h))).retire h.u)

/-- A vector function of one register: the lanes it reads and the value it gives. -/
def vec1 (f : InstrForm) (g : Guard) (d a : VReg) (e : Bool) (op : Here → Word → Word) : State → Out :=
  lanewise f g (fun c => [vecSource c a e]) d fun h l => op h (h.k.lane (h.p.ctx.reg a.toNat) l)

/-- A vector function of two registers. -/
def vec2 (f : InstrForm) (g : Guard) (d a b : VReg) (e e' : Bool) (op : Here → Word → Word → Word) : State → Out :=
  lanewise f g (fun c => [vecSource c a e, vecSource c b e']) d fun h l =>
    op h (h.k.lane (h.p.ctx.reg a.toNat) l) (h.k.lane (h.p.ctx.reg b.toNat) l)

/-- A scalar function on a knot or a movement processor: sources in order, and the value (R130, R149, R167). -/
def scalarOp (f : InstrForm) (d : SReg) (srcs : List (RegName × Bool)) (fe : Bool)
    (val : Hints → (Nat → DWord) → DWord) : State → Out :=
  agentRun { f with defer := true } false
    (fun s h => do
      checkSources s h.p srcs
      if d = 0 then pure () else checkDest s h.p { file := .scal, num := d.toNat }
      .ok ((s.writeScal h.u d.toNat (val h.p.hints h.p.ctx.scalVal)).retire h.u))
    (fun s m =>
      if fe then .error (.fault .illegal 0 0)
      else .ok ((s.modMover m.c fun x => x.setReg d.toNat (val x.hints x.reg)).moveOn m.c))

/-- A scalar function of two registers. -/
def scal2 (d a b : SReg) (e e' : Bool) (op : DWord → DWord → DWord) : State → Out :=
  scalarOp .plain d [scalSource a e, scalSource b e'] (e || e') fun _ r => op (r a.toNat) (r b.toNat)

/-- An instruction that acts once per path and writes a scalar before the next instruction issues (R149). -/
def onceScal (f : InstrForm) (never : Bool) (d : SReg) (srcs : List (RegName × Bool))
    (val : State → Here → Res DWord) : State → Out :=
  knotOp { f with defer := true } never fun s h => do
    checkSources s h.p srcs
    if d = 0 then pure () else checkDest s h.p { file := .scal, num := d.toNat }
    let v ← val s h
    .ok ((s.writeScal h.u d.toNat v).retire h.u)

end Sys2Proof.Machine
end

