-- ==== Sys2Proof/Machine/Waits.lean ====
section
/-! DEFINITION. What an instruction waits for before it takes effect: FENCE, earlier accesses, carried registers
(spec/01 R31, R48; spec/03 R70, R76). -/
namespace Sys2Proof.Machine

/-- Refuse with a trap unless a condition holds. -/
def needThat (s : State) (code : TrapCode) (c : Bool) : Res Unit := if c then .ok () else .error (.trap { code := code } s)

/-- FENCE (R76): waits until OUTST is 0 in every VALID entry; then a FAULTED entry is E_POSTFAULT, except at supervisor level
(R286). -/
def fence (s : State) (h : Here) : Res Unit :=
  if h.p.ctx.posts.any fun e => e.valid && decide (0 < e.outst) then .error (.wait .fence s)
  else if !h.p.super && h.p.ctx.posts.any fun e => e.valid && e.faulted then .error (.trap { code := .postfault } s)
  else .ok ()

/-- A part of an instruction whose waits leave the state `s0` from before it: an instruction that waits has had no effect yet, R30 among
them (R30, R177, R182). -/
def orWait {α : Type} (s0 : State) : Res α → Res α
  | .error (.wait w _) => .error (.wait w s0)
  | r => r

/-- The registers of a carried set by name (R29). -/
def Carried.names (c : Carried) : List RegName :=
  c.vec.map (fun r => { file := .vec, num := r }) ++
    ((List.range 32).filter fun i => i != 0 && c.scal.getLsbD i).map (fun i => { file := .scal, num := i }) ++
    ((List.range 7).filter fun i => c.pred.getLsbD i).map fun i => { file := .pred, num := i }

/-- Carried registers are read: an empty one is waited for, a fault-pending one enters the supervisor (R31). -/
def carriedReady (s : State) (p : Path) : List RegName → Res Unit
  | [] => .ok ()
  | r :: rest =>
    match p.ctx.stateOf r with
    | .empty => .error (.wait (.register r) s)
    | .pending => .error (.trap (pendingTrap p r) s)
    | _ => carriedReady s p rest

/-- The knot must be a single fragment with a single path: otherwise E_DIVERGED (R18, R48, R214). -/
def needSingle (s : State) (h : Here) : Res Unit :=
  if s.single h then .ok () else .error (.trap { code := .diverged } s)

/-- It must also have no open pond (R18, R48). -/
def needWhole (s : State) (h : Here) : Res Unit :=
  if s.single h && h.p.ctx.ponds.isEmpty then .ok () else .error (.trap { code := .diverged } s)

/-- Waits until no register of the path is empty (R18, R41). -/
def needFilled (s : State) (h : Here) : Res Unit :=
  if h.p.hasEmpty then .error (.wait .loads s) else .ok ()

/-- The table entries that the translations of some addresses read at a path's core (R322). -/
def State.readsOf (s : State) (h : Here) (vas : List DWord) : List Nat :=
  vas.flatMap fun va => s.accessReads (coreUnit h.p.home h.p.core) h.k.regs va

/-- The state after the walks of some translations at a path's core; one through a halted stack waits (R304, R322). -/
def walkAll (s : State) (h : Here) (vas : List DWord) : Res State :=
  if s.walkStalled (s.readsOf h vas) then .error (.wait .stream s) else .ok (s.walked (s.readsOf h vas))

end Sys2Proof.Machine
end

