-- ==== Sys2Proof/Machine/Plane.lean ====
section
/-! DEFINITION. Plane regions and their steps, and barrier phases: what PSTEP, the barriers and END share
(spec/03 R81 to R86, spec/11 R213, spec/17 R289). -/
namespace Sys2Proof.Machine

/-- The region that holds a pad offset, by number (R81). -/
def Crew.regionAt (c : Crew) (off : Nat) : Option (Nat × Region) :=
  c.regions.find? fun e => decide (e.2.start ≤ off) && decide (off < e.2.start + e.2.length)

/-- Whether a pad offset lies in a plane region (R83). -/
def Crew.inPlane (c : Crew) (off : Nat) : Bool :=
  match c.regionAt off with
  | some (_, r) => r.plane
  | none => false

/-- The writers of the words of a region in this step (R84). -/
def Crew.writersIn (c : Crew) (r : Region) : Sparse (Sparse Word) := spSlice (r.start / 4) ((r.start + r.length) / 4) c.writers

/-- One F32 addition of a SUM32F region (R86, R113). -/
def planeAdd (x y : Word) : Word := BitVec.ofNat 32 ((plainEnv fmtF32).add x.toNat y.toNat).1

/-- The resolved value of a word with at least one writer (R86); `decision` 1 resolves a FAULT region as PRIO (R289). -/
def resolveWord (rule : Nat) (init : Word) (ws : Sparse Word) : Word :=
  if rule = 1 then ws.foldl (fun a w => a + w.2) init
  else if rule = 2 then ws.foldl (fun a w => planeAdd a w.2) init
  else ((ws.head?).map (·.2)).getD init

/-- A word of a list of cells. -/
def cellWord (m : List Host.Cell) (a : Nat) : Word := BitVec.ofNat 32 (natOfBytes (cellRead m a 4))

/-- The next plane with every written word of a region resolved (R85 step 1). -/
def Crew.resolved (c : Crew) (r : Region) : List Host.Cell :=
  (c.writersIn r).foldl (fun m e =>
    cellWrite m (4 * e.1) (bytesOfNat (resolveWord r.rule (cellWord m (4 * e.1)) e.2).toNat 4)) c.next

/-- Cells with a range replaced by the range of others. -/
def replaceRange (dst src : List Host.Cell) (lo hi : Nat) : List Host.Cell :=
  (spSlice lo hi src).foldl (fun m e => spPut e.1 e.2 m) (dst.filter fun e => !(decide (lo ≤ e.1) && decide (e.1 < hi)))

/-- One plane region resolved, swapped and initialised (R85 steps 1 to 3). Its uncorrectable sectors were those of the plane that is now
written whole as the next one, which clears them (R332). -/
def Crew.stepRegion (c : Crew) (n : Nat) (r : Region) : Crew :=
  if !r.plane then c
  else
    let res := c.resolved r
    let hi := r.start + r.length
    { c with
      pad := replaceRange c.pad res r.start hi
      poison := c.poison.filter fun sec => !(decide (r.start ≤ 32 * sec) && decide (32 * sec < hi))
      next := if r.clear then replaceRange c.next [] r.start hi else replaceRange c.next res r.start hi
      parity := if c.parity.contains n then c.parity.filter (· != n) else n :: c.parity }

/-- The crew after a step: every region, then the records cleared (R85). -/
def Crew.stepped (c : Crew) : Crew :=
  { c.regions.foldl (fun w e => w.stepRegion e.1 e.2) c with writers := [], arrived := [], collided := none, decision := 0 }

/-- The lowest word of a FAULT region with two or more writers, and its lowest writer's lane (R86, R289). -/
def Crew.collision (c : Crew) : Option (Nat × Nat) :=
  if c.decision = 1 then none
  else
    (c.writers.find? fun e => decide (2 ≤ e.2.length) &&
      (match c.regionAt (4 * e.1) with | some (_, r) => r.plane && r.rule == 3 | none => false)).map fun e =>
        (4 * e.1, ((e.2.head?).map (·.1)).getD 0 % 1024)

/-- Whether every slot of a crew has arrived at PSTEP or ended (R85). -/
def Crew.allArrived (c : Crew) : Bool :=
  (List.range c.size).all fun i => c.arrived.contains i || c.ended.contains i

/-- Whether a path has a seat on a core. -/
def Path.seated (p : Path) : Bool :=
  match p.place with
  | .resident _ | .held _ => true
  | _ => false

/-- The path of the lowest crew slot that has not ended, with the slot: of a knot of several, the lowest-numbered one that has a seat, and
not one that waits at a JOIN or is pushed (R282, R289; log 28, DESIGN CHOICE). -/
def State.lowestLive (s : State) (c : Nat) : Option (Nat × Nat) :=
  match spFind c s.crews with
  | none => none
  | some w =>
    match w.live with
    | [] => none
    | (slot, kn) :: _ => ((s.pathsOf kn).find? fun e => e.2.seated).map fun e => (slot, e.1)

/-- The state after a crew's step is tried: when every knot has arrived it is performed, or a collision is delivered to the
lowest knot, which is then not arrived (R85, R86, R289). One whose path is at supervisor level, in a handler that it entered while it stood
arrived, has a double trap (R282; log 28, DESIGN CHOICE). -/
def State.tryStep (s : State) (c : Nat) : State :=
  match spFind c s.crews with
  | none => s
  | some w =>
    if !w.allArrived || w.arrived.isEmpty then s
    else
      match w.collision with
      | none => (s.modCrew c Crew.stepped).bump
      | some (off, lane) =>
        match s.lowestLive c with
        | none => s
        | some (slot, u) =>
          ((s.modCrew c fun w =>
              { w with arrived := w.arrived.filter (· != slot), collided := some (off, lane) }).modPath u fun p =>
                { p with pend := .none }).takeTrap u { code := .collide, lane := lane, addr := BitVec.ofNat 64 off }

/-- The scope code of a barrier (R137). -/
def scopeCode (sc : Scope) : Nat :=
  match sc with
  | .core => 0
  | .quad => 1
  | .stack => 2
  | .module => 3
  | .pod => 4

/-- The number of a scope's instance at a location (R14, R6). -/
def scopeInst (sc : Scope) (home core : Nat) : Nat :=
  match sc with
  | .core => 32 * home + core
  | .quad => 8 * home + core / 4
  | .stack => home
  | .module => moduleOf home
  | .pod => 0

/-- The expected count of a launch for an id and scope (R213, R249). -/
def Launch.barCount (l : Launch) (sc : Scope) (id : Nat) : Nat := l.what.barcnt.getD (16 * scopeCode sc + id) 0

/-- Whether a phase has its arrivals; ended knots of a crew count (R213). -/
def Phase.done (p : Phase) (ended : List Nat) : Bool :=
  match p.crew with
  | none => decide (p.expected ≤ p.count)
  | some _ => decide (p.expected ≤ (p.slots ++ ended.filter fun i => !p.slots.contains i).length)

/-- The ended slots of a crew. -/
def State.endedOf (s : State) (c : Option Nat) : List Nat :=
  match c with
  | none => []
  | some c => match spFind c s.crews with | some w => w.ended | none => []

/-- The state after every phase that has its arrivals is complete (R213). -/
def State.tryPhases (s : State) : State :=
  (s.modFlow fun f => { f with bars := f.bars.map fun p =>
    if p.complete || !(p.done (s.endedOf p.crew)) then p else { p with complete := true } }).bump

/-- The phase of an id, if any. -/
def State.phase? (s : State) (id : Nat) : Option Phase := s.flow.bars.find? fun p => p.id == id

/-- Whether some path waits on a phase or some knot has it pending. -/
def State.phaseUsed (s : State) (id : Nat) : Bool :=
  (s.paths.any fun e => e.2.pend == .barrier id) || (s.knots.any fun e => e.2.baras.any fun b => b.2.2 == id)

/-- The state without a complete phase that nothing names any more. -/
def State.dropPhase (s : State) (id : Nat) : State :=
  if s.phaseUsed id then s
  else s.modFlow fun f => { f with bars := f.bars.filter fun p => p.id != id || !p.complete }

/-- The current phase for an arrival, opened when there is none: its id (R213). -/
def State.currentPhase (s : State) (p : Phase) : Nat × State :=
  match s.flow.bars.find? fun q => q.launch == p.launch && q.scope == p.scope && q.inst == p.inst && q.crew == p.crew &&
      q.bid == p.bid && !q.complete with
  | some q => (q.id, s)
  | none =>
    let (id, s1) := s.newId
    (id, s1.modFlow fun f => { f with bars := f.bars ++ [{ p with id := id }] })

/-- The state after one arrival is added to a phase. -/
def State.arriveAt (s : State) (id : Nat) (slot : Option Nat) : State :=
  (s.modFlow fun f => { f with bars := f.bars.map fun p =>
    if p.id = id then { p with count := p.count + 1, slots := p.slots ++ slot.toList } else p }).tryPhases

end Sys2Proof.Machine
end

