-- ==== Sys2Proof/Machine/BarrierOps.lean ====
section
/-! DEFINITION. PSTEP and the barriers (spec/03 R85, R92, spec/11 R211 to R216). -/
namespace Sys2Proof.Machine

/-- PSTEP: a barrier of the whole crew, at which the planes step (R85, R211). A knot that has arrived waits until its slot is
no longer among the arrivals. E_PLANE of a knot outside a crew comes before E_DIVERGED (log 46, DESIGN CHOICE). -/
def execPstep (g : Bool) : State → Out :=
  knotOp .plain g fun s h =>
    match h.k.crew with
    | none => .error (.trap { code := .plane } s)
    | some (c, slot) => do
      needSingle s h
      let arrived := match spFind c s.crews with | some w => w.arrived.contains slot | none => false
      if h.p.pend = .step then
        if arrived then .error (.wait .barrier s) else .ok (s.release h.u)
      else
        let s1 := (s.await h.u .step .barrier).modCrew c fun w => { w with arrived := slot :: w.arrived }
        .ok (s1.bump.tryStep c)

/-- A knot's pending BARA of a scope and id (R214). -/
def Knot.bara (k : Knot) (sc : Scope) (id : Nat) : Option (Scope × Nat × Nat) := k.baras.find? fun b => b.1 == sc && b.2.1 == id

/-- The phase that an arrival of a knot joins: E from the launch record at the instance of its location, or the phase that belongs to its
crew, wherever the crew is (R213). -/
def State.phaseFor (s : State) (h : Here) (sc : Scope) (id : Nat) : Option Phase :=
  match spFind h.k.launch s.launches with
  | none => none
  | some la =>
    let blank : Phase := { id := 0, launch := h.k.launch, scope := sc, inst := scopeInst sc h.p.home h.p.core, crew := none,
                           bid := id, count := 0, slots := [], expected := la.barCount sc id, complete := false }
    if blank.expected ≠ 0 then some blank
    else match sc, h.k.crew with
      | .core, some (c, _) => some { blank with inst := 0, crew := some c, expected := la.what.crew }
      | _, _ => none

/-- An arrival (R214): single path, no pending BARA of the same barrier, a count, the FENCE; then the phase that it joined. -/
def arrive (s : State) (h : Here) (sc : Scope) (id : Nat) : Res (Nat × State) := do
  needSingle s h
  if (h.k.bara sc id).isSome then .error (.trap { code := .barrier } s)
  else match s.phaseFor h sc id with
    | none => .error (.trap { code := .barrier } s)
    | some p => do
      fence s h
      let (ph, s1) := s.currentPhase p
      .ok (ph, s1.arriveAt ph (if p.crew.isSome then h.k.crew.map (·.2) else none))

/-- BAR: arrives, then waits for the phase (R214). -/
def execBar (g : Bool) (i : BitVec 4) (x : Scope) : State → Out :=
  knotOp .plain g fun s h =>
    match h.p.pend with
    | .barrier ph =>
      (match s.phase? ph with
      | some q => if q.complete then .ok ((s.release h.u).dropPhase ph) else .error (.wait (.phase ph) s)
      | none => .ok (s.release h.u))
    | _ => do
      let (ph, s1) ← arrive s h x i.toNat
      .ok (s1.await h.u (.barrier ph) (.phase ph))

/-- BARA: arrives, records the phase as pending, and continues (R214). -/
def execBara (g : Bool) (i : BitVec 4) (x : Scope) : State → Out :=
  knotOp .plain g fun s h => do
    let (ph, s1) ← arrive s h x i.toNat
    .ok ((s1.modKnot h.p.knot fun k => { k with baras := k.baras ++ [(x, i.toNat, ph)] }).retire h.u)

/-- BARW: waits until the pending phase completes, then clears the record (R214). -/
def execBarw (g : Bool) (i : BitVec 4) (x : Scope) : State → Out :=
  knotOp .plain g fun s h =>
    match h.k.bara x i.toNat with
    | none => .error (.trap { code := .barrier } s)
    | some (_, _, ph) =>
      let done := match s.phase? ph with | some q => q.complete | none => true
      if !done then .error (.wait (.phase ph) s)
      else
        let s1 := s.modKnot h.p.knot fun k => { k with baras := k.baras.filter fun b => !(b.1 == x && b.2.1 == i.toNat) }
        .ok ((s1.release h.u).dropPhase ph)

end Sys2Proof.Machine
end

