-- ==== Sys2Proof/Machine/Control.lean ====
section
/-! DEFINITION. Control, majors 0x26 to 0x2B: branches, calls, LOOP, ponds, WIDTH, YIELD, END and NOP (spec/01 R16 to R18, R23,
R39 to R47; spec/09 R178 to R188; on movement processors spec/07 R130, spec/13 R240). -/
namespace Sys2Proof.Machine

/-- The active lanes below the grant. -/
def activeOf (h : Here) : Mask := h.p.ctx.mask &&& maskBelow h.k.grant

/-- The function that a call enters: the bound function whose first word the target is (R178). -/
def HeapSt.callee (hp : HeapSt) (pc : Pc) : Nat := if (spFind pc.toNat hp.fns).isSome then pc.toNat else noFn

/-- The function that a return continues in: that of the call. -/
def HeapSt.caller (hp : HeapSt) (ret : Pc) : Nat := (hp.fnAt (ret - 4).toNat).getD noFn

/-- The state after the registers outside the carried set of the current migration point become dead (R30), with the path. -/
def applyEntry (s : State) (h : Here) : State × Here :=
  let s1 := s.applyDeath h.u (carriedSet s.heap h.p.ctx)
  (s1, (s1.here h.u).getD h)

/-- BRA: the path continues at the target (R179). -/
def execBra (g : Bool) (o : BitVec 18) : State → Out :=
  agentRun { defer := true } g
    (fun s h => .ok (s.jump h.u (branchTarget h.p.ctx.pc o) h.p.ctx.fn))
    (fun s m =>
      if g then .ok (s.moveOn m.c)
      else .ok (s.moveTo m.c (branchTarget m.e.mover.pc o) m.e.mover.fn))

/-- BRU: branches when the guard is true in every active lane, falls through when it is true in none (R180). -/
def execBru (g : Guard) (o : BitVec 18) : State → Out :=
  knotOp { defer := true } (isNever g) fun s h => do
    checkSources s h.p [guardSource g]
    let t := activeOf h &&& guardMask h.k g
    if t = activeOf h then .ok (s.jump h.u (branchTarget h.p.ctx.pc o) h.p.ctx.fn)
    else if t = 0 then .ok (s.retire h.u)
    else .error (.trap { code := .diverged } s)

/-- Whether a pond may not open: it is open in the path's stack already, or the stack is full (R39). -/
def pondShut (h : Here) (w : Pond) : Bool := (openPonds h).contains w.toNat || decide (16 ≤ h.p.ctx.ponds.length)

/-- The state after an instance of a pond opens at the current stack with the path's active mask: its id is innermost in the
path's stack (R39). -/
def State.openPond (s : State) (h : Here) (w : Pond) : State :=
  let (id, s1) := s.newId
  (s1.modKnot h.p.knot fun k =>
      { k with insts := k.insts ++ [{ id := id, pond := w.toNat, anchor := h.p.home, expected := activeOf h, arrived := 0,
                                      first := none }] }).modCtx h.u fun c => { c with ponds := c.ponds ++ [id] }

/-- A pending-fault record with the lanes of a path. -/
def FaultRec.only (r : FaultRec) (m : Mask) : FaultRec :=
  { r with replay := { r.replay with lanes := r.replay.lanes.filter fun l => m.getLsbD l.lane } }

/-- What a path receives of a value in flight to its parent: its own lanes (R25, R149). -/
def Flight.only (f : Flight) (m : Mask) : Flight :=
  { f with fill := match f.fill with
      | .lanes vals => .lanes (vals.map fun e => (e.1, e.2.filter fun l => m.getLsbD l.1))
      | .scal v => .scal v
      | .fault r => .fault (r.only m)
      | .access a => .access a }

/-- A path with some lanes of its parent, and an empty post table (R181). -/
def Path.part (p : Path) (m : Mask) : Path :=
  { p with
    ctx := { p.ctx with mask := m, posts := List.replicate 8 .free }
    flights := p.flights.map fun f => f.only m, faults := p.faults.map fun f => f.only m }

/-- A new path with lanes `m` of path `p`, as BRC and a split start it (R38, R47, R181): it has no pushed path and no entry of
its own. -/
def Path.child (p : Path) (m : Mask) : Path :=
  { p.part m with
    ctx := { (p.part m).ctx with pushed := [], sent := 0 }
    flights := (p.part m).flights.filter fun f => match f.fill with | .access _ => false | _ => true
    entry := none, trapHeld := [], wait := none, blockedAt := none, pend := .none }

/-- The values in flight to a new path under identities of their own. -/
def State.renumber (s : State) (fs : List Flight) : List Flight × State :=
  (fs.zipIdx.map fun e => { e.1 with id := s.uid + e.2 }, { s with uid := s.uid + fs.length })

/-- The state after a new path is added: its number. -/
def State.addPath (s : State) (p : Path) : Nat × State :=
  let (fs, s1) := s.renumber p.flights
  let (v, s2) := s1.newId
  (v, s2.setPath v { p with flights := fs })

/-- BRC (R181): the pond opens; when both ways are taken, the taken path is a new one that runs if a free instruction-buffer
entry exists and is pushed otherwise (R47). -/
def execBrc (g : Guard) (w : Pond) (o : BitVec 18) : State → Out :=
  knotOp .plain (isNever g) fun s h => do
    checkSources s h.p [guardSource g]
    if pondShut h w then .error (.trap { code := .pond } s)
    else
      let t := activeOf h &&& guardMask h.k g
      let f := activeOf h &&& ~~~guardMask h.k g
      let target := branchTarget h.p.ctx.pc o
      if f = 0 then .ok ((s.openPond h w).jump h.u target h.p.ctx.fn)
      else if t = 0 then .ok ((s.openPond h w).retire h.u)
      else do
        fence s h
        let s1 := (s.openPond h w).retire h.u
        match s1.path? h.u with
        | none => .ok s1
        | some p =>
          let child := p.child t
          let child := { child with ctx := { child.ctx with pc := target, wrapped := false } }
          let runs := decide (0 < s.freeEntries h.p.home h.p.core)
          let (v, s2) := s1.addPath (if runs then child else { child with place := .pushed })
          .ok (s2.modPath h.u fun p =>
            let q := p.part f
            if runs then q else { q with ctx := { q.ctx with pushed := v :: q.ctx.pushed } })

/-- The push of a call (R23, R183). -/
def Ctx.push (c : Ctx) (f : Nat) : Ctx :=
  { c with frames := c.frames ++ [{ ret := c.pc + 4, size := f, base := c.base }], base := c.base + f }

/-- A call of a knot: E_WINDOW before any effect, R30, the frame record, the new base, the target, and the function whose first word is at
`entry` (R23, R183). -/
def callKnot (s : State) (h : Here) (f : BitVec 5) (target entry : Pc) : Res State :=
  if h.p.ctx.base + f.toNat + 32 > h.k.alloc then .error (.trap { code := .window } s)
  else
    let s1 := (applyEntry s h).1.modCtx h.u fun c => c.push f.toNat
    .ok (s1.jump h.u target (s.heap.callee entry))

/-- A call of a movement processor: a return stack of 16 entries (R240). -/
def callMover (s : State) (m : MHere) (target entry : Pc) : MRes State :=
  if 16 ≤ m.e.mover.stack.length then .error (.fault .window 0 0)
  else
    let s1 := s.modMover m.c fun x => { x with stack := (x.pc + 4) :: x.stack }
    .ok (s1.moveTo m.c target (s.heap.callee entry))

/-- CALL (R183). -/
def execCall (f : BitVec 5) (o : BitVec 18) : State → Out :=
  agentRun .plain false (fun s h => callKnot s h f (branchTarget h.p.ctx.pc o) (branchTarget h.p.ctx.pc o))
    (fun s m => callMover s m (branchTarget m.e.mover.pc o) (branchTarget m.e.mover.pc o))

/-- CALLI: the target is heap-relative; bits [63:32] not zero are E_FETCH (R184). Bits [1:0] are no bits of a PC (R114), and a target in
which they are not zero is no function's first word, so that its fetch raises E_FETCH (R178). -/
def execCalli (a : SReg) (f : BitVec 5) (e : Bool) : State → Out :=
  agentRun .plain false
    (fun s h => do
      checkSources s h.p [scalSource a e]
      let v := h.p.ctx.scalVal a.toNat
      if v.extractLsb' 32 32 ≠ 0 then .error (.trap { code := .fetch } s)
      else callKnot s h f (alignPc (v.setWidth 48)) (v.setWidth 48))
    (fun s m =>
      let v := m.e.mover.reg a.toNat
      if e then .error (.fault .illegal 0 0)
      else if v.extractLsb' 32 32 ≠ 0 then .error (.fault .fetch 0 0)
      else callMover s m (alignPc (v.setWidth 48)) (v.setWidth 48))

/-- RET: pops the top frame record; E_WINDOW without one (R185, R240). -/
def execRet : State → Out :=
  agentRun .plain false
    (fun s h =>
      match h.p.ctx.frames.getLast? with
      | none => .error (.trap { code := .window } s)
      | some f =>
        let s1 := s.modCtx h.u fun c => { c with frames := c.frames.dropLast, base := f.base }
        .ok (s1.jump h.u f.ret (s.heap.caller f.ret)))
    (fun s m =>
      match m.e.mover.stack with
      | [] => .error (.fault .window 0 0)
      | r :: rest => .ok ((s.modMover m.c fun x => { x with stack := rest }).moveTo m.c r (s.heap.caller r)))

/-- LOOP: the counter less one, and a branch unless it is zero (R186). -/
def execLoop (n : SReg) (o : BitVec 18) : State → Out :=
  agentRun { defer := true } false
    (fun s h => do
      checkSources s h.p [scalSource n false]
      let v := h.p.ctx.scalVal n.toNat - 1
      let s1 := s.writeScal h.u n.toNat v
      .ok (if v = 0 then s1.retire h.u else s1.jump h.u (branchTarget h.p.ctx.pc o) h.p.ctx.fn))
    (fun s m =>
      let v := m.e.mover.reg n.toNat - 1
      let s1 := s.modMover m.c fun x => x.setReg n.toNat v
      .ok (if v = 0 then s1.moveOn m.c else s1.moveTo m.c (branchTarget m.e.mover.pc o) m.e.mover.fn))

/-- NOP (R188). -/
def execNop : State → Out :=
  agentRun { defer := true } false (fun s h => .ok (s.retire h.u)) (fun s m => .ok (s.moveOn m.c))

/-- YIELD: the path has issued (R188). -/
def execYield : State → Out := knotOp { defer := true } false fun s h => .ok (s.retire h.u)

/-- The innermost open instance of a path, when it is one of pond `w` (R41). -/
def innermost (h : Here) (w : Pond) : Option Inst :=
  match h.p.ctx.ponds.getLast? with
  | none => none
  | some id => h.k.insts.find? fun i => i.id == id && i.pond == w.toNat

/-- A waiting fragment of a rooted knot: it takes no landing space (R36). -/
def Stored.rooted : Stored := { home := 0, off := 0, len := 0, age := 0, order := 0, seed := 0, block := 0, flags := 0 }

/-- The state after an arrival that does not complete its instance: the path gives up its seat, its image waits, and its top
pushed path starts (R43, R47). Without landing space it waits to arrive. -/
def State.waitAtJoin (s : State) (h : Here) (id : Nat) : Res State :=
  let p := h.p.issued s.serial h.k.regs.watchdog
  let q := { p with ctx := { p.ctx with wd := if h.p.super then h.p.ctx.wd else 0, pushed := [] } }
  let s1 := s.setPath h.u q
  let put (img : Stored) (s2 : State) :=
    ((s2.modPath h.u fun p => { p with place := .joined id img, wait := some .join }).startPushed h.p.home h.p.place
      h.p.ctx.pushed).bump
  if h.k.rooted then .ok (put .rooted s1)
  else match s1.storeImage { h with p := q } true false .image with
    | some (img, s2) => .ok (put img s2)
    | none => .error (.wait .memory s)

/-- The state after a path arrives at an instance at its anchor (R41 to R43, R182). -/
def State.arriveJoin (s : State) (h : Here) (inst : Inst) : Res State :=
  let here := (h.p.ctx.pc, h.p.ctx.base, h.p.ctx.frames.length)
  if inst.first.isSome && inst.first != some here then .error (.trap { code := .pond } s)
  else
    let arrived := inst.arrived ||| h.p.ctx.mask
    let s1 := s.modKnot h.p.knot fun k =>
      k.modInst inst.id fun i => { i with arrived := arrived, first := some (i.first.getD here) }
    if arrived = inst.expected then
      .ok (((s1.modPath h.u fun p => p.issued s.serial h.k.regs.watchdog).merge h.p.knot inst.id h.u (s.waitingAt inst.id) h.p.place
        h.p.ctx.pushed).bump)
    else s1.waitAtJoin h inst.id

/-- JOIN (R182): R30 and the FENCE where it issues, the pond checks, the hop to the anchor, and the arrival there. The deaths of R30, which
it applies first, stay when it then traps (log 45, DEDUCED). -/
def execJoin (w : Pond) : State → Out :=
  knotOp .plain false fun s h => orWait s do
    let (s1, h1) := applyEntry s h
    (match h.p.pend with
    | .arrive _ => .ok ()
    | _ => fence s1 h1)
    match innermost h1 w with
    | none => .error (.trap { code := .pond } s1)
    | some inst =>
      if inst.anchor = h1.p.home then do
        needFilled s1 h1
        s1.arriveJoin h1 inst
      else if h1.k.rooted then .error (.trap { code := .rooted } s1)
      else do
        carriedReady s1 h1.p (carriedSet s.heap h.p.ctx).names
        .ok (((s1.modPath h.u fun p => { p with pend := .arrive inst.id }).depart h.u inst.anchor).bump)

/-- Whether an operation that the matrix unit has in flight or queued names an accumulator of a knot (R188, R232). -/
def Engine.usesAccs (e : Engine) (kn : Nat) : Bool :=
  e.queue.any fun op => op.knot == kn && (match op.kind with | .multiply .. => true | _ => false)

/-- Whether the accumulators of a knot are named by an operation in flight. -/
def State.accsBusy (s : State) (h : Here) : Bool :=
  match h.k.crew with
  | none => false
  | some (c, _) =>
    match (spFind c s.crews).bind (·.engine) with
    | none => false
    | some e => e.usesAccs h.p.knot

/-- The paths of a rooted knot that a merge left on the way to a core sit where the knot is (R32, R42). -/
def State.seatRooted (s : State) (kn : Nat) (place : Place) : State :=
  { s with paths := spMap (fun _ p =>
      match p.place with
      | .flying _ => if p.knot = kn then { p with place := place } else p
      | _ => p) s.paths }

/-- The state after a knot or crew knot has ended: its crew's step, the barrier phases and its launch take note (R85, R213,
R254). -/
def State.afterEnd (s : State) (k : Knot) : State :=
  let s1 := match k.crew with
    | some (c, _) => s.tryStep c
    | none => s
  (s1.tryPhases.flushLaunch k.launch).bump

/-- The state after a path's lanes end (R44, R188). -/
def State.endPath (s : State) (h : Here) : State :=
  if (s.siblings h.p.knot h.u).isEmpty then (s.dropKnot h.p.knot).afterEnd h.k
  else
    let s1 := s.startPushed h.p.home h.p.place h.p.ctx.pushed
    let s2 := { s1 with paths := spDrop h.u s1.paths }
    let s3 := s2.endInsts h.p.knot h.p.ctx.mask h.p.ctx.ponds.reverse
    (if h.k.rooted then s3.seatRooted h.p.knot h.p.place else s3).bump

/-- END (R188): the FENCE, then the path's lanes end. Every access that the path made has been performed when it issues. -/
def execEndP : State → Out :=
  knotOp .plain false fun s h => do
    fence s h
    if (s.siblings h.p.knot h.u).isEmpty && s.accsBusy h then .error (.wait .accumulator s)
    else .ok (s.endPath h)

/-- The requested grant of a signed request (R16, R187). -/
def requestedGrant (w : Int) : Nat := if w ≤ 32 then 32 else if 1024 ≤ w then 1024 else roundUp w.toNat 32

/-- The largest multiple of 32 registers' lanes that fits in `free` bytes for `n` knots of allocation `a` (R16, R17). -/
def offered (free n a : Nat) : Nat := free / (n * a * 128) * 32

/-- The largest grant from `lo` to `hi`, in steps of 32, whose reservation a landing pool has room for (R18, R36). -/
def coveredGrant (room alloc lo : Nat) : Nat → Nat
  | 0 => lo
  | n + 1 => if reservation (lo + 32 * (n + 1)) alloc ≤ room then lo + 32 * (n + 1) else coveredGrant room alloc lo n

/-- The grant of WIDTH (R16 to R18): what the core can offer, and a larger grant only as far as the reserve covers it. -/
def State.newGrant (s : State) (h : Here) (w : Int) : Nat :=
  let l := offered (s.freeRegs h.p.home h.p.core + h.k.regBytes) 1 h.k.alloc
  let g := min (requestedGrant w) l
  if g ≤ h.k.grant || h.k.rooted then g
  else
    let room := s.strap.stackCount * Config.zoneBytes + h.k.reserved - s.poolUsed h.k.module
    coveredGrant room h.k.alloc h.k.grant ((g - h.k.grant) / 32)

/-- A knot with a new grant (R18): values of lanes past it are discarded, new lanes are zero and clear. -/
def Knot.regrant (k : Knot) (g : Nat) : Knot :=
  { k with
    grant := g
    reserved := if k.rooted then 0 else reservation g k.alloc
    vregs := spMap (fun _ ls => (List.range g).map fun l => if l < k.grant then ls.getD l 0 else 0) k.vregs
    preds := spMap (fun _ m => m &&& maskBelow (min g k.grant)) k.preds }

/-- WIDTH (R18, R187). -/
def execWidth (d a : SReg) (i : BitVec 16) : State → Out :=
  knotOp { imm := .any } false fun s h => do
    checkSources s h.p [scalSource a false]
    needFilled s h
    needWhole s h
    let g := s.newGrant h (h.p.ctx.scalVal a.toNat + scalImm h.p.hints i).toInt
    let old := h.k.grant
    let s1 := (s.modKnot h.p.knot fun k => k.regrant g).modCtx h.u fun c =>
      { c with mask := (c.mask &&& maskBelow (min g old)) ||| (maskBelow g &&& ~~~maskBelow old) }
    .ok ((s1.writeScal h.u d.toNat (BitVec.ofNat 64 g)).retire h.u)

end Sys2Proof.Machine
end

