-- ==== Sys2Proof/Machine/PadSide.lean ====
section
/-! DEFINITION. What a lane's access to the pad and to an accumulator does (spec/11 R210, spec/13 R234, spec/21 R332). -/
namespace Sys2Proof.Machine

/-- Whether pad bytes of a crew lie in a poisoned sector (R332). -/
def Crew.poisoned (c : Crew) (off n : Nat) : Bool :=
  c.poison.any fun sec => decide (sec * 32 < off + n) && decide (off < sec * 32 + 32)

/-- Pad bytes written, and the poison of every sector that they cover whole cleared (R332). -/
def Crew.padWrite (c : Crew) (off : Nat) (bs : List Byte) : Crew :=
  { c with pad := cellWrite c.pad off bs
           poison := c.poison.filter fun sec => !(decide (off ≤ sec * 32) && decide (sec * 32 + 32 ≤ off + bs.length)) }

/-- The crew of a crew knot. -/
def State.crewOf (s : State) (k : Knot) : Option (Nat × Nat × Crew) :=
  match k.crew with
  | none => none
  | some (c, slot) => (spFind c s.crews).map fun w => (c, slot, w)

/-- One lane of a PLD: the single copy, or the present plane (R210). -/
def State.lanePad (s : State) (c : Nat) (z : MemSize) (l : LaneAcc) : State × LaneOut :=
  match spFind c s.crews with
  | none => (s, { lane := l.lane, words := [], poisoned := false })
  | some w => (s, { lane := l.lane, words := loadWords z (cellRead w.pad l.pa z.bytes), poisoned := w.poisoned l.pa z.bytes })

/-- One lane of a PATM (R210). -/
def State.lanePadAtom (s : State) (c : Nat) (op : AtomOp) (t : AtomType) (l : LaneAcc) : State × LaneOut :=
  match spFind c s.crews with
  | none => (s, { lane := l.lane, words := [], poisoned := false })
  | some w =>
    let bs := cellRead w.pad l.pa t.bytes
    let bad := w.poisoned l.pa t.bytes
    let new := bytesOfNat (atomValue op t (natOfBytes bs) l.data) t.bytes
    (if bad then s else s.modCrew c fun w => w.padWrite l.pa new,
     { lane := l.lane, words := wordsOfBytes bs, poisoned := bad })

/-- One lane of an ACCRD: `n` columns of its row (R234). -/
def State.laneAcc (s : State) (c acc col n : Nat) (l : LaneAcc) : State × LaneOut :=
  match (spFind c s.crews).bind (·.engine) with
  | none => (s, { lane := l.lane, words := [], poisoned := false })
  | some e =>
    let r := spGet { owner := none, unit := false, cells := [], poison := [] } e.accs acc
    (s, { lane := l.lane, words := (List.range n).map fun i => spGet 0 r.cells (128 * l.lane + col + i)
          poisoned := (List.range n).any fun i => r.poison.contains (128 * l.lane + col + i) })

end Sys2Proof.Machine
end

