-- ==== Sys2Proof/Machine/Queues.lean ====
section
/-! DEFINITION. Device queues at their homes: what QPUSH and QPOP perform (spec/15 R267 to R270). -/
namespace Sys2Proof.Machine

/-- The fields of a queue descriptor (R267). -/
structure QueueDesc where
  back : DWord
  cap : Nat
  ring : Nat
  size : Nat
  deriving DecidableEq, Repr

/-- The descriptor at an address; a RINGSZ above 256 counts as 256 (log 16, DESIGN CHOICE). -/
def State.queueDesc (s : State) (key : Option Nat) (pa : Nat) : QueueDesc :=
  let bs := s.readMem key pa 16
  { back := BitVec.ofNat 64 (natOfBytes (sub bs 0 8)), cap := natOfBytes (sub bs 8 4)
    ring := min 256 (natOfBytes (sub bs 12 2)), size := (bs.getD 14 0).toNat }

/-- The device state of a queue before first use. -/
def QueueSt.fresh : QueueSt := { ring := [], back := [], ringNext := 0, backNext := 0, area := none }

/-- Whether a queue is before first use: the device state in its descriptor, bytes 16 to 63, is zero (R267). -/
def State.queueFresh (s : State) (key : Option Nat) (pa : Nat) : Bool := (s.readMem key (pa + 16) 48).all (· == 0)

/-- The device state of a queue. -/
def State.queue (s : State) (key : Option Nat) (pa : Nat) : QueueSt :=
  if s.queueFresh key pa then .fresh else spGet .fresh s.flow.queues pa

/-- The bytes of the device state of a queue in use: free, but that they are not all zero (R267, log 16, DESIGN CHOICE). -/
def queueState (n : Nat) : List Byte := (Config.queueByte n 0 ||| 1) :: (List.range 47).map fun i => Config.queueByte n (i + 1)

/-- The state with the device state of a queue, which its descriptor holds. -/
def State.setQueue (s : State) (key : Option Nat) (pa : Nat) (q : QueueSt) : State :=
  let (n, s1) := s.newId
  (s1.modFlow fun f => { f with queues := spPut pa q f.queues }).writeMem key (pa + 16) (queueState n)

/-- The state after ERR of a descriptor is set (R267). -/
def State.queueErr (s : State) (key : Option Nat) (pa : Nat) : State :=
  s.writeMem key (pa + 15) [(s.readMem key (pa + 15) 1).getD 0 0 ||| 1]

/-- Whether a brood is in a cancelled subtree (R273). -/
def State.cancelledBrood (s : State) (b : DWord) : Bool :=
  match spFind b.toNat s.flow.broods with
  | some x => x.cancelled
  | none => false

/-- The first slot, from one on and around, that no entry of a ring or backing region of `cap` slots has (log 16, DEDUCED). -/
def nextSlot (cap start : Nat) (es : List QSlot) : Nat :=
  ((List.range cap).map fun i => (start + i) % max 1 cap).find? (fun i => !es.any fun e => e.slot == i) |>.getD 0

/-- The entries of the hardware ring: none where it has no place in the landing zone (R267). -/
def QueueSt.ringCap (q : QueueSt) (d : QueueDesc) : Nat := if q.area.isSome then d.ring else 0

/-- The address of a slot of a queue's ring, in the landing zone of its home (R267). -/
def QueueSt.ringSlot (q : QueueSt) (home n slot : Nat) : Nat := zoneAddr home (q.area.getD 0 + n * slot)

/-- The state after a queue is in use: at first use its ring takes its place in the landing zone (R36, R267). -/
def State.openQueue (s : State) (key : Option Nat) (pa : Nat) (d : QueueDesc) (n : Nat) : State :=
  if !s.queueFresh key pa then s
  else
    let home := homeOf pa
    let s0 := match (spGet .fresh s.flow.queues pa).area with
      | some off => s.freeArea home off
      | none => s
    let len := roundUp (d.ring * n) 64
    if d.ring ≠ 0 && s0.poolHas (moduleOf home) len then
      match s0.takeArea home { kind := .ring, len := len, own := none } with
      | some (off, s1) => s1.setQueue key pa { QueueSt.fresh with area := some off }
      | none => s0.setQueue key pa .fresh
    else s0.setQueue key pa .fresh

/-- The state after an entry is written to the ring; poison moves with its bytes. -/
def State.putRing (s : State) (key : Option Nat) (pa : Nat) (d : QueueDesc) (q : QueueSt) (n : Nat) (stamp : DWord) (bs : List Byte)
    (bad : Bool) : State :=
  let slot := nextSlot d.ring q.ringNext q.ring
  let at' := q.ringSlot (homeOf pa) n slot
  let s1 := s.writeMem (some 0) at' bs
  let s2 := if bad then s1.modMem fun m => { m with poison := (at' / 32) :: m.poison } else s1
  s2.setQueue key pa { q with ring := q.ring ++ [{ stamp := stamp, slot := slot, pa := at', key := some 0 }], ringNext := slot + 1 }

/-- The state after the ring of a queue has taken entries of the backing region in order, as far as it has room; `fuel` bounds how
many (R267). -/
def State.refill (s : State) (key : Option Nat) (pa : Nat) (d : QueueDesc) (n : Nat) : Nat → State
  | 0 => s
  | fuel + 1 =>
    let q := s.queue key pa
    match q.back with
    | [] => s
    | b :: bs =>
      if q.ringCap d ≤ q.ring.length then s
      else
        let s1 := s.recall false b.pa n
        (s1.putRing key pa d { q with back := bs } n b.stamp (s1.readMem b.key b.pa n) (s1.mem.poisoned b.pa n)).refill key pa d n fuel

/-- The state of a queue that an operation finds: in use, without entries of cancelled broods, its ring refilled (R267, R269). -/
def State.prepQueue (s : State) (key : Option Nat) (pa : Nat) (d : QueueDesc) (n : Nat) : State :=
  let s1 := (s.recall false pa 64).openQueue key pa d n
  let q := s1.queue key pa
  let live (es : List QSlot) := es.filter fun e => !s.cancelledBrood e.stamp
  let s2 := if live q.ring = q.ring && live q.back = q.back then s1
    else s1.setQueue key pa { q with ring := live q.ring, back := live q.back }
  s2.refill key pa d n d.ring

/-- How a backing address translates: the target at the queue's home if it has one, with the state after the walk; none while the walk must
wait (R268, R304, R322). -/
abbrev Backing := State → DWord → Option (Option Target × State)

/-- One entry pushed: to the ring while it has room and nothing is in the backing region, otherwise to the backing region, whether it was
taken, and the state; none while a walk must wait (R267, R268). An entry of a cancelled brood is discarded as it arrives (R274), and its lane
counts as taken, the queue full or not (log 16, DESIGN CHOICE). -/
def State.pushEntry (s : State) (key : Option Nat) (pa : Nat) (d : QueueDesc) (where? : Backing) (e : QEntry) : Option (Bool × State) :=
  let q := s.queue key pa
  if s.cancelledBrood e.stamp then some (true, s)
  else if q.back.isEmpty && decide (q.ring.length < q.ringCap d) then
    some (true, s.putRing key pa d q e.bytes.length e.stamp e.bytes false)
  else if q.back.length < d.cap then
    let slot := nextSlot d.cap q.backNext q.back
    match where? s (d.back + BitVec.ofNat 64 (slot * e.bytes.length)) with
    | none => none
    | some (none, s1) => some (false, s1)
    | some (some t, s1) =>
      some (true, (s1.writeMem t.key t.pa e.bytes).setQueue key pa
        { q with back := q.back ++ [{ stamp := e.stamp, slot := slot, pa := t.pa, key := t.key }], backNext := slot + 1 })
  else some (false, s)

/-- The entries of lanes pushed in order: the lanes whose entries were taken; none while a walk must wait. -/
def State.pushAll (s : State) (key : Option Nat) (pa : Nat) (d : QueueDesc) (where? : Backing) (stamp : DWord) :
    List (Nat × List Byte) → Option (List Nat × State)
  | [] => some ([], s)
  | (l, bs) :: rest =>
    match s.pushEntry key pa d where? { stamp := stamp, bytes := bs } with
    | none => none
    | some (took, s1) => (s1.pushAll key pa d where? stamp rest).map fun r => (if took then l :: r.1 else r.1, r.2)

/-- One entry popped: the first of the ring, which then takes the next backing entry, or of the backing region where there is no ring; the
flag says that the entry's bytes are poisoned, and then it stays (R267, R269, R287). -/
def State.popEntry (s : State) (key : Option Nat) (pa : Nat) (d : QueueDesc) (n : Nat) : Option (List Byte) × Bool × State :=
  let q := s.queue key pa
  match q.ring, q.back with
  | e :: es, _ =>
    if s.mem.poisoned e.pa n then (none, true, s)
    else (some (s.readMem e.key e.pa n), false, (s.setQueue key pa { q with ring := es }).refill key pa d n 1)
  | [], b :: bs =>
    let s1 := s.recall false b.pa n
    if s1.mem.poisoned b.pa n then (none, true, s)
    else (some (s1.readMem b.key b.pa n), false, s1.setQueue key pa { q with back := bs })
  | [], [] => (none, false, s)

/-- Entries popped by lanes in order; a poisoned entry stops them. -/
def State.popLanes (s : State) (key : Option Nat) (pa : Nat) (d : QueueDesc) (n : Nat) :
    List Nat → List (Nat × List Byte) × Bool × State
  | [] => ([], false, s)
  | l :: ls =>
    match s.popEntry key pa d n with
    | (_, true, s1) => ([], true, s1)
    | (e, false, s1) =>
      let (os, bad, s2) := s1.popLanes key pa d n ls
      ((l, e.getD (List.replicate n 0)) :: os, bad, s2)

/-- QPOP at the home (R269): each lane's entry or zeros; a size mismatch gives zeros and sets ERR; poison leaves the queue as
it was. -/
def State.queuePop (s0 : State) (n : Nat) (ls : List LaneAcc) : State × List LaneOut :=
  match ls with
  | [] => (s0, [])
  | l :: _ =>
    let s := s0.recall false l.pa 64
    let d := s.queueDesc l.key l.pa
    let zeros := ls.map fun x => { lane := x.lane, words := List.replicate (n / 4) 0, poisoned := false : LaneOut }
    let bad := ls.map fun x => { lane := x.lane, words := [], poisoned := true : LaneOut }
    if s.mem.poisoned l.pa 64 then (s, bad)
    else if 2 ^ d.size * 16 ≠ n then (s.queueErr l.key l.pa, zeros)
    else match (s.prepQueue l.key l.pa d n).popLanes l.key l.pa d n (ls.map (·.lane)) with
      | (_, true, _) => (s.prepQueue l.key l.pa d n, bad)
      | (es, false, s1) => (s1, es.map fun e => { lane := e.1, words := wordsOfBytes e.2, poisoned := false })

end Sys2Proof.Machine
end

