-- ==== Sys2Proof/Machine/Access.lean ====
section
/-! DEFINITION. Memory migration points: the order of R191, the access at its home, hops and splits, fault-pending registers
and their replay (spec/01 R27 to R31, R38, R39; spec/03 R63 to R68, R75; spec/11 R189 to R195; spec/17 R287). -/
namespace Sys2Proof.Machine

/-- The state after the chain that an operation names is read, for one that ends in E_CHAIN (R327). -/
def State.opPull (s : State) (op : MemOp) (ls : List LaneAcc) : State :=
  match op, ls with
  | .append _, l :: _ => s.chainPull l.key l.pa
  | _, _ => s

/-- The lanes of an access performed: none for E_CHAIN at the home. -/
def State.performOp (s : State) (h : Here) (op : MemOp) (scal : Bool) (ls : List LaneAcc) : Option (State × List LaneOut) :=
  let c := match h.k.crew with | some (c, _) => c | none => 0
  match op with
  | .load _ | .store _ | .atom _ _ | .fork _ | .release => s.homeOp h op scal ls
  | .pop n => some (s.queuePop n ls)
  | .append _ => s.chainAppend h.p.home ls
  | .padLoad z => some (eachLane (fun s l => s.lanePad c z l) s ls)
  | .padAtom o t => some (eachLane (fun s l => s.lanePadAtom c o t l) s ls)
  | .accRead a col n => some (eachLane (fun s l => s.laneAcc c a col n l) s ls)
  | .lost => some (s, ls.map fun l => { lane := l.lane, words := [], poisoned := true })

/-- The state after an access is performed where the path is; none for E_CHAIN. -/
def State.perform (s : State) (h : Here) (a : Access) : Option State :=
  match s.performOp h a.op a.scalar a.lanes with
  | none => none
  | some (s1, outs) => some (s1.answer h a outs)

/-- Whether an access of a path to a home may be performed: every post of its stream there, up to its entry's SEQ, has been
performed or held (R75). -/
def State.streamClear (s : State) (h : Here) (home : Nat) : Bool :=
  match h.p.ctx.posts.find? fun e => e.valid && e.home == home with
  | none => true
  | some e => !s.flow.posts.any fun q =>
      q.knot == h.p.knot && q.home == home && q.stream == e.stream && decide (q.seq ≤ e.seq)

/-- The posts outstanding that an access of a path to the homes of some lanes comes after (R75). -/
def State.marksFor (s : State) (h : Here) (ls : List LaneAcc) : List PostMark :=
  (h.p.ctx.posts.filter fun e => e.valid && ls.any (fun l => homeOf l.pa == e.home) && !s.streamClear h e.home).map fun e =>
    { home := e.home, stream := e.stream, seq := e.seq }

/-- Whether an operation has no home in memory, or none but the current stack. -/
def MemOp.onCore : MemOp → Bool
  | .padLoad _ | .padAtom _ _ | .accRead _ _ _ | .lost | .fork 0 => true
  | _ => false

/-- Whether every lane of an access may be performed; nothing is performed at a halted stack (R304). -/
def State.accessClear (s : State) (h : Here) (op : MemOp) (ls : List LaneAcc) : Bool :=
  op.onCore || ls.all fun l => !(s.stk (homeOf l.pa)).halted && s.streamClear h (homeOf l.pa)

/-- The home that a lane is grouped under: host counts as the current stack (R62). -/
def groupHome (cur pa : Nat) : Nat := if homeOf pa = Config.hostHome then cur else homeOf pa

/-- A memory migration point: what it does and writes, its access size, the permissions it needs, the registers it reads, its
lanes with their addresses and operands, a trap of its own before translation, whether it is an LD, and the code that a
descriptor homed on host raises. -/
structure Point where
  op : MemOp
  dest : Dest
  size : Nat
  need : Needs
  reads : List (RegName × Bool)
  reqs : List (Nat × DWord × List Byte)
  pre : Option TrapCode := none
  load : Bool := false
  hostTrap : Option TrapCode := none

/-- Step 2 of R191: a register read from outside the carried set is E_DEAD. -/
def needCarried (s : State) (p : Path) (c : Carried) : List (RegName × Bool) → Res Unit
  | [] => .ok ()
  | (r, _) :: rest =>
    if c.has r then needCarried s p c rest
    else .error (.trap { code := .dead, reg := some r, lane := lowestOf p.ctx.mask } s)

/-- Step 4 of R191: the first misaligned lane is E_ALIGN (R63). -/
def needAligned (s : State) (size : Nat) : List (Nat × DWord × List Byte) → Res Unit
  | [] => .ok ()
  | (l, va, _) :: rest =>
    if va.toNat % size = 0 then needAligned s size rest
    else .error (.trap { code := .align, lane := l, addr := va } s)

/-- The translation of one lane at the issuing core (R64). -/
def State.translateLane (s : State) (h : Here) (n : Nat) (need : Needs) (va : DWord) : Except XFault Target :=
  s.translate (coreUnit h.p.home h.p.core) h.k.regs h.p.super (moduleOf h.p.home) n need va

/-- The lanes that translate, and those that fault, in ascending order (R64). -/
def State.translateAll (s : State) (h : Here) (n : Nat) (need : Needs) :
    List (Nat × DWord × List Byte) → List LaneAcc × List (Nat × DWord × XFault)
  | [] => ([], [])
  | (l, va, data) :: rest =>
    let (ok, bad) := s.translateAll h n need rest
    match s.translateLane h n need va with
    | .ok t => ({ lane := l, va := va, pa := t.pa, key := t.key, data := data } :: ok, bad)
    | .error e => (ok, (l, va, e) :: bad)

/-- The code of a translation's fault. -/
def XFault.code : XFault → TrapCode
  | .page => .page
  | .prot => .prot

/-- The pond that a migration point opens (R28). -/
def MapEnt.pond? (e : Option MapEnt) : Option Pond := e.bind fun x => x.pond.map fun p => BitVec.ofNat 4 p

/-- Steps 9 and 10 of R191: R30, and the pond; the id of the instance opened. -/
def settle (s : State) (h : Here) (pond : Option Pond) : Option Nat × State :=
  let (s1, h1) := applyEntry s h
  match pond with
  | none => (none, s1)
  | some w => (some s1.uid, s1.openPond h1 w)

/-- An access with the pond instance that its instruction opened. -/
def MemOp.opening (op : MemOp) (id : Option Nat) : MemOp :=
  match op with
  | .append _ => .append id
  | o => o

/-- The state after path `u` leaves for a home, where it performs an access (R31, R38). -/
def State.hopFor (s : State) (u home : Nat) (a : Access) : State :=
  (s.modPath u fun p => { p with pend := .access a }).depart u home

/-- The homes of lanes, each once. -/
def homesOf (cur : Nat) (ls : List LaneAcc) : List Nat := (ls.map fun l => groupHome cur l.pa).dedup

/-- The lanes of one home. -/
def lanesAt (cur home : Nat) (ls : List LaneAcc) : List LaneAcc := ls.filter fun l => groupHome cur l.pa == home

/-- The fragments of a split (R38): `homes` are those of the fragments still to leave; every one is a new path with its own
lanes, which performs them at its home. -/
def State.splitOff (s : State) (p : Path) (a : Access) (rest : Mask) (low cur : Nat) : List Nat → State
  | [] => s
  | hm :: hms =>
    let ls := lanesAt cur hm a.lanes
    let m := maskOf (ls.map (·.lane)) ||| (if ls.any fun l => l.lane == low then rest else 0)
    let child := { p.child m with place := .flying hm, pend := .access { a with lanes := ls } }
    let (_, s1) := s.addPath child
    s1.splitOff p a rest low cur hms

/-- The state after a split (R38): the path itself keeps the lanes of the current stack, or of the group of the lowest lane
when no lane is homed there, and performs them in a turn of its own, before or after the other parts (R67). `s` is the state after steps 9
and 10, the path at the next word. -/
def State.split (s : State) (h : Here) (a : Access) : State :=
  let cur := h.p.home
  let low := ((a.lanes.head?).map (·.lane)).getD 0
  let rest := activeOf h &&& ~~~maskOf (a.lanes.map (·.lane))
  let homes := homesOf cur a.lanes
  let own := if homes.contains cur then cur else ((a.lanes.head?).map fun l => groupHome cur l.pa).getD cur
  match s.path? h.u with
  | none => s
  | some p =>
    let s1 := s.splitOff p a rest low cur (homes.filter (· != own))
    let ls := lanesAt cur own a.lanes
    let m := maskOf (ls.map (·.lane)) ||| (if ls.any fun l => l.lane == low then rest else 0)
    let mine := { a with lanes := ls }
    let s2 := s1.modPath h.u fun q => q.part m
    if own ≠ cur then s2.hopFor h.u own mine else s2.modPath h.u fun p => { p with pend := .access mine }

/-- Waits for the empty registers of a destination that stay empty across R30: those in the carried set (R25). -/
def awaitCarried (s : State) (h : Here) (c : Carried) (d : Dest) : Res Unit :=
  checkDests s h.p (d.names.filter c.has)

/-- Waits until the accesses that a path had issued may be performed: a fragment departs after them (R68). -/
def needSettled (s : State) (h : Here) : Res Unit := if s.settles h.u then .ok () else .error (.wait .stream s)

/-- Whether an access of the stack where the path is may be performed in a later turn than that of its instruction: those of R66 that a
later post may precede. A QPOP is an acquire (R91), and E_CHAIN of a CHAPP is found before the path goes on (R277). -/
def MemOp.defers : MemOp → Bool
  | .load _ | .store _ | .atom _ _ => true
  | _ => false

/-- The state after an access of the current stack is issued, to be performed in a later turn: its destination is empty (R25, R68). -/
def State.postpone (s : State) (u : Nat) (a : Access) : State := (s.markEmpty u a.dest).send u a.dest (.access a)

/-- Step 11 of R191 for lanes that all translate: stay, hop or split (R38). An access of the current stack is performed in the step of its
instruction, or in a later one when the turn says so, after the posts that it comes after and the accesses before it (R66, R75, log 8). -/
def goHome (s : State) (h : Here) (pt : Point) (pond : Option Pond) (ls : List LaneAcc) : Res State := do
  let cur := h.p.home
  let c := carriedSet s.heap h.p.ctx
  let homes := homesOf cur ls
  let acc : Access := { op := pt.op, dest := pt.dest, lanes := ls, group := h.p.groupPc }
  if homes.length ≤ 1 then
    let home := homes.headD cur
    if home = cur then
      if s.late && pt.op.defers then .ok (((settle s h pond).2.postpone h.u { acc with after := s.marksFor h ls }).retire h.u)
      else if !s.accessClear h pt.op ls || !s.settles h.u then .error (.wait .stream s)
      else
        let (_, s1) := settle (s.catchUp h.u) h pond
        match s1.here h.u with
        | none => .ok s1
        | some h1 =>
          match s1.perform h1 acc with
          | some s2 => .ok (s2.retire h.u)
          | none => .error (.trap { code := .chain } (s.opPull pt.op ls))
    else do
      carriedReady s h.p c.names
      needSettled s h
      let (id, s1) := settle s h pond
      .ok ((((s1.retire h.u).catchUp h.u).hopFor h.u home { acc with op := pt.op.opening id }))
  else do
    if pond.isNone then .error (.trap { code := .pond } s) else pure ()
    fence s h
    carriedReady s h.p c.names
    needSettled s h
    let (_, s1) := settle s h pond
    .ok (((s1.retire h.u).catchUp h.u).split h acc)

/-- The state after an LD that faults only in translation: steps 9 and 10 of R191, and its destination fault-pending
(R195). -/
def leavePending (s : State) (h : Here) (pt : Point) (pond : Option Pond) (lane : Nat) (va : DWord) : State :=
  let (_, s1) := settle s h pond
  let rec' : FaultRec :=
    { dest := pt.dest, cause := .page, lane := lane, addr := va
      replay := { op := pt.op, dest := pt.dest, group := h.p.groupPc
                  lanes := pt.reqs.map fun r => { lane := r.1, va := r.2.1, pa := 0, key := none, data := r.2.2 } } }
  (((s1.markEmpty h.u pt.dest).fill h.u { id := 0, dest := pt.dest, fill := .fault rec' })).retire h.u

/-- The trap of the lowest faulting lane, unless the fault is left pending: an LD with no permission fault (R64, R195). -/
def faultTrap (load : Bool) (bad : List (Nat × DWord × XFault)) : Option Trap :=
  match bad with
  | [] => none
  | (l, va, f) :: _ =>
    if load && bad.all fun e => e.2.2 == .page then none else some { code := f.code, lane := l, addr := va }

/-- A memory migration point at issue: steps 2 to 11 of R191. The E_PROT or E_CHAIN of a descriptor homed on host comes before E_ROOTED
(log 48, DEDUCED). -/
def pointBody (s : State) (h : Here) (g : Guard) (pt : Point) : Res State := do
  let e := s.heap.entryAt h.p.ctx.fn h.p.ctx.pc.toNat
  let c := carriedSet s.heap h.p.ctx
  let reads := guardSource g :: pt.reads
  needCarried s h.p c reads
  checkSources s h.p reads
  match pt.pre with
  | some code => .error (.trap { code := code } s)
  | none => pure ()
  needAligned s pt.size pt.reqs
  let s ← walkAll s h (pt.reqs.map (·.2.1))
  let (ls, bad) := s.translateAll h pt.size pt.need pt.reqs
  match faultTrap pt.load bad with
  | some t => .error (.trap t s)
  | none => pure ()
  match pt.hostTrap, ls.find? fun l => homeOf l.pa == Config.hostHome with
  | some code, some l => .error (.trap { code := code, lane := l.lane, addr := l.va } s)
  | _, _ => pure ()
  match if h.k.rooted then ls.find? fun l => homeOf l.pa != h.p.home else none with
  | some l => .error (.trap { code := .rooted, lane := l.lane, addr := l.va } s)
  | none => pure ()
  let pond := MapEnt.pond? e
  match pond with
  | some w => if pondShut h w then .error (.trap { code := .pond } s) else pure ()
  | none => pure ()
  if pt.reqs.isEmpty then .ok ((settle s h pond).2.retire h.u)
  else do
    awaitCarried s h c pt.dest
    match bad with
    | [] => goHome s h pt pond ls
    | (l, va, _) :: _ => .ok (leavePending s h pt pond l va)

/-- A memory migration point (R191). -/
def memPoint (f : InstrForm) (g : Guard) (pt : State → Here → Point) (s : State) : Out :=
  knotOp { f with defer := s.late } (isNever g) (fun s h => pointBody s h g (pt s h)) s

/-- The state after E_CHAIN at the home: the path is back at its instruction, whose pond is closed (R191, R277). -/
def State.chainTrap (s : State) (h : Here) (a : Access) : State :=
  let s1 := match a.op with
    | .append (some id) =>
      (s.modKnot h.p.knot fun k => k.closeInst id).modCtx h.u fun c => { c with ponds := c.ponds.filter (· != id) }
    | _ => s
  (s1.modPath h.u fun p =>
    { p with pend := .none, hints := .none, ctx := { p.ctx with pc := a.group, wrapped := false } }).takeTrap h.u { code := .chain }

/-- A path that has nothing left to do of an instruction before its PC. -/
def Path.landed (serial : Nat) (p : Path) : Path := { p with pend := .none, wait := none, blockedAt := none, lastIssue := serial }

/-- The state after a path that has hopped performs its access (R38, R75), or issues it to be performed in a later turn, when the turn
says so (R66, log 8). -/
def State.landAccess (s : State) (h : Here) (a : Access) : State :=
  if s.late && a.op.defers then
    ((s.postpone h.u { a with after := s.marksFor h a.lanes }).modPath h.u (Path.landed s.serial)).bump
  else if !s.accessClear h a.op a.lanes then s.block h.u .stream
  else match s.perform h a with
    | none => (s.opPull a.op a.lanes).chainTrap h a
    | some s1 => (s1.modPath h.u (Path.landed s.serial)).bump

/-- The bytes and permissions that an operation's replay needs. -/
def MemOp.needs : MemOp → Nat × Needs
  | .load z => (z.bytes, { rd := true, w := false })
  | .store z => (z.bytes, { rd := false, w := true })
  | .atom _ t => (t.bytes, { rd := true, w := true })
  | _ => (64, { rd := true, w := true })

/-- The lanes of a record translated afresh, or why they fault (R287). -/
def State.replayLanes (s : State) (h : Here) (r : FaultRec) : Except (TrapCode × Nat × DWord) (List LaneAcc) :=
  if r.replay.op.onCore then .ok r.replay.lanes
  else
    let (n, need) := r.replay.op.needs
    let h' := { h with p := { h.p with super := false } }
    match s.translateAll h' n need (r.replay.lanes.map fun l => (l.lane, l.va, l.data)) with
    | (ls, []) => .ok ls
    | (_, (l, va, f) :: _) => .error (f.code, l, va)

/-- The table entries that the translations of a replay read (R322). -/
def State.replayReads (s : State) (h : Here) (r : FaultRec) : List Nat :=
  if r.replay.op = .fork 0 then s.forkReads h
  else if r.replay.op.onCore then []
  else s.readsOf h (r.replay.lanes.map (·.va))

/-- The state after a replay faults again: the register stays fault-pending with its new cause (R287). -/
def State.replayFails (s : State) (u : Nat) (d : Dest) (cause : TrapCode) (lane : Nat) (va : DWord) : State :=
  s.modPath u fun p =>
    { p with faults := p.faults.map fun f => if f.dest = d then { f with cause := cause, lane := lane, addr := va } else f }

/-- The state after some lanes of a record are performed at a replay: their values are in place, and a replay to come performs
only the others. -/
def State.replayTook (s : State) (h : Here) (r : FaultRec) (outs : List LaneOut) : State :=
  let good := outs.filter fun o => !o.poisoned
  let s1 := match r.dest, r.replay.dest with
    | .vec rs, .vec group => s.placeVals h.p.knot (lanesFor group rs good)
    | .scal n, _ => if good.isEmpty then s else s.modCtx h.u fun c => c.setScal n (scalOut good)
    | _, _ => s
  s1.modPath h.u fun p =>
    { p with faults := p.faults.map fun f =>
        if f.dest = r.dest then
          { f with replay := { f.replay with lanes := f.replay.lanes.filter fun l => !good.any fun o => o.lane == l.lane } }
        else f }

/-- The state after the last lanes of a record are performed: its registers are full when none is left, and otherwise stay
fault-pending with the poison that they met (R287). -/
def State.replayEnds (s : State) (u : Nat) (d : Dest) : State :=
  match s.path? u with
  | none => s
  | some p =>
    match p.faults.find? fun f => f.dest == d with
    | none => s
    | some f =>
      match f.replay.lanes with
      | [] => s.modPath u fun p =>
          { p with ctx := d.names.foldl (fun c n => c.setState n .full) p.ctx, faults := p.faults.filter fun f => f.dest != d }
      | l :: _ => s.replayFails u d .poison l.lane l.va

/-- What is still to do of a replay's record: the lanes that the path block still lists, none when the register is no longer
fault-pending. -/
def FaultRec.left (r : FaultRec) (fs : List FaultRec) : Option FaultRec :=
  (fs.find? fun f => f.dest == r.dest).map fun f =>
    { r with replay := { r.replay with lanes := r.replay.lanes.filter fun l => f.replay.lanes.any fun m => m.lane == l.lane } }

/-- Replays in order, from where the path is (R195, R287): what is left to do, and the home to hop to for it. -/
def State.replay (s : State) (u : Nat) : List FaultRec → Res (State × List FaultRec × Option Nat)
  | [] => .ok (s, [], none)
  | r :: rest =>
    match s.here u with
    | none => .ok (s, [], none)
    | some h =>
     match r.left h.p.faults, if s.walkStalled (s.replayReads h r) then none else some (s.walked (s.replayReads h r)) with
     | none, _ => s.replay u rest
     | _, none => .error (.wait .stream s)
     | some r, some s =>
      match s.replayLanes h r with
      | .error (c, l, va) => (s.replayFails u r.dest c l va).replay u rest
      | .ok ls =>
        let cur := h.p.home
        let near := if r.replay.op.onCore then ls else lanesAt cur cur ls
        let far := if r.replay.op.onCore then [] else ls.filter fun l => groupHome cur l.pa != cur
        if !s.accessClear h r.replay.op near then .error (.wait .stream s)
        else match s.performOp h r.replay.op r.replay.scalar near with
          | none => (s.replayFails u r.dest .chain 0 0).replay u rest
          | some (s1, outs) =>
            let s2 := s1.replayTook h r outs
            match leastBy (fun l => homeOf l.pa) far with
            | none => (s2.replayEnds u r.dest).replay u rest
            | some l =>
              if h.k.rooted then (s2.replayFails u r.dest .rooted l.lane l.va).replay u rest
              else .ok (s2, { r with replay := { r.replay with lanes := far } } :: rest, some (homeOf l.pa))

/-- The replay of a path's fault-pending registers begun or carried on: whether it is done, or the path is on a hop of it
(R195). The FENCE comes before a hop. -/
def State.replayOn (s : State) (h : Here) (todo : List FaultRec) : Res (Bool × State) := do
  let s0 := s.modPath h.u fun p => { p with pend := .replay todo }
  let (s1, left, hop) ← s0.replay h.u todo
  match hop with
  | none => .ok (true, s1.modPath h.u fun p => { p with pend := .none })
  | some home =>
    match s1.here h.u with
    | none => .ok (true, s1)
    | some h1 =>
      let s2 := s1.modPath h.u fun p => { p with pend := .replay left }
      fence s2 h1
      needFilled s2 h1
      .ok (false, (s2.depart h.u home).bump)

end Sys2Proof.Machine
end

