-- ==== Sys2Proof/Machine/MemoryOps.lean ====
section
/-! DEFINITION. LD, ST, LDS, STS, ATM, HOME, PTAB and FENCE: majors 0x2C to 0x2E and 0x30 (spec/11 R189 to R202). -/
namespace Sys2Proof.Machine

/-- The effective lanes with the addresses that a lane offset, a base and an immediate give (R189), and operand bytes of `n`
registers from window register `v`. -/
def laneReqs (h : Here) (g : Guard) (a : VReg) (b : SReg) (off : DWord) (v n : Nat) : List (Nat × DWord × List Byte) :=
  (lanesOf (effective h g) h.k.grant).map fun l =>
    (l, laneAddr (h.p.ctx.scalVal b.toNat) (h.k.lane (h.p.ctx.reg a.toNat) l) off, laneBytes h.k (h.p.ctx.reg v) n l)

/-- The destination group of `n` window registers from `d`. -/
def vecDest (c : Ctx) (d n : Nat) : Dest := .vec ((List.range n).map fun i => c.reg (d + i))

/-- LD (R192 to R195). -/
def execLd (g : Guard) (d a : VReg) (b : SReg) (e : Bool) (z : MemSize) (o : BitVec 3) : State → Out :=
  memPoint { imm := .any } g fun _ h =>
    { op := .load z, dest := vecDest h.p.ctx d.toNat z.regs, size := z.bytes, need := { rd := true, w := false }
      reads := [vecSource h.p.ctx a e, scalSource b e], load := true
      reqs := laneReqs h g a b (memOffset h.p.hints o z.bytes) 0 0 }

/-- ST (R192, R193). -/
def execSt (g : Guard) (x a : VReg) (b : SReg) (e : Bool) (z : MemSize) (o : BitVec 3) : State → Out :=
  memPoint { imm := .any } g fun _ h =>
    { op := .store z, dest := .vec [], size := z.bytes, need := { rd := false, w := true }
      reads := [vecSource h.p.ctx a e, scalSource b e] ++ groupSources h.p.ctx x.toNat z.regs e
      reqs := laneReqs h g a b (memOffset h.p.hints o z.bytes) x.toNat z.regs }

/-- The guard of an instruction that acts once per path (R117). -/
def onceGuard (g : Bool) : Guard := if g then 15#4 else 7#4

/-- LDS (R196). -/
def execLds (g : Bool) (d b : SReg) (e : Bool) (z : MemSize) (o : BitVec 3) : State → Out :=
  memPoint { imm := .any } (onceGuard g) fun _ h =>
    { op := .load z, dest := .scal d.toNat, size := z.bytes, need := { rd := true, w := false }
      reads := [scalSource b e]
      reqs := [(lowestOf h.p.ctx.mask, h.p.ctx.scalVal b.toNat + memOffset h.p.hints o z.bytes, [])] }

/-- STS (R196). -/
def execSts (g : Bool) (x b : SReg) (e : Bool) (z : MemSize) (o : BitVec 3) : State → Out :=
  memPoint { imm := .any } (onceGuard g) fun _ h =>
    { op := .store z, dest := .vec [], size := z.bytes, need := { rd := false, w := true }
      reads := [scalSource b e, scalSource x e]
      reqs := [(lowestOf h.p.ctx.mask, h.p.ctx.scalVal b.toNat + memOffset h.p.hints o z.bytes,
        bytesOfNat (h.p.ctx.scalVal x.toNat).toNat 8)] }

/-- ATM (R197, R198). -/
def execAtm (g : Guard) (d a : VReg) (b : SReg) (e : Bool) (o : AtomOp) (t : AtomType) : State → Out :=
  memPoint { imm := .any } g fun _ h =>
    { op := .atom o t, dest := vecDest h.p.ctx d.toNat t.regs, size := t.bytes, need := { rd := true, w := true }
      reads := [vecSource h.p.ctx a e, scalSource b e] ++ groupSources h.p.ctx (d.toNat + t.regs) (o.group t - t.regs) e
      reqs := laneReqs h g a b (atomOffset h.p.hints) (d.toNat + t.regs) (o.group t - t.regs) }

/-- HOME: the home code of an address, NONE where it has no translation (R61, R200). -/
def execHome (g : Bool) (d b : SReg) (e : Bool) (o : BitVec 3) : State → Out :=
  knotOp { imm := .any, defer := true } g fun s h => do
    checkSources s h.p [scalSource b e]
    if d = 0 then pure () else checkDest s h.p { file := .scal, num := d.toNat }
    let va := h.p.ctx.scalVal b.toNat + memOffset h.p.hints o 1
    let s1 ← walkAll s h [va]
    let code : DWord := match s1.homeCode (coreUnit h.p.home h.p.core) h.k.regs (moduleOf h.p.home) va with
      | some c => BitVec.ofNat 64 c
      | none => 32768
    .ok ((s1.writeScal h.u d.toNat code).retire h.u)

/-- A post-table entry of a path. -/
def Ctx.post (c : Ctx) (i : Nat) : PostEntry := c.posts.getD i .free

/-- PTAB: bytes 0 to 7 of a post-table entry (R201). -/
def execPtab (g : Bool) (d : SReg) (i : BitVec 3) : State → Out :=
  onceScal .plain g d [] fun _ h =>
    .ok (BitVec.ofNat 64 (natOfBytes (((h.p.ctx.post i.toNat).bytes h.k.regs.window).take 8)))

/-- PTAB.FAIL: the FAILLIST of a post-table entry (R201). -/
def execPtabFail (g : Bool) (d : SReg) (i : BitVec 3) : State → Out :=
  onceScal .plain g d [] fun _ h =>
    .ok (BitVec.ofNat 64 (natOfBytes (((h.p.ctx.post i.toNat).bytes h.k.regs.window).drop 8)))

/-- FENCE (R76, R202). -/
def execFence (g : Bool) : State → Out :=
  knotOp { defer := true } g fun s h => do
    fence s h
    .ok (s.retire h.u)

end Sys2Proof.Machine
end

