-- ==== Sys2Proof/Machine/PostOps.lean ====
section
/-! DEFINITION. Posts: STP and ATP, their sending, performing and acknowledging, and held operations (spec/03 R72 to R80; spec/11
R203 to R207; spec/15 R262, R266). -/
namespace Sys2Proof.Machine

/-- A post to be sent: its lane, what it does, OP and element type of its record, address, where it lies, operand. -/
structure PostReq where
  lane : Nat
  op : PostOp
  code : Nat
  type : Nat
  va : DWord
  pa : Nat
  key : Option Nat
  data : List Byte
  stamp : DWord

/-- SIZE of a held-operation record (R206). -/
def Held.size (r : Held) : Nat := if r.op = 255 then 4 else r.data.length

/-- The 64 bytes of a held-operation record (R78). -/
def Held.bytes (r : Held) (next : DWord) : List Byte :=
  bytesOfNat next.toNat 8 ++ bytesOfNat r.addr.toNat 8 ++ bytesOfNat r.type 1 ++ bytesOfNat r.op 1 ++ bytesOfNat r.size 1 ++
    bytesOfNat r.cause 1 ++ bytesOfNat r.lane 2 ++ bytesOfNat 0 2 ++ bytesOfNat r.seq 4 ++ bytesOfNat 0 4 ++
    (r.data ++ List.replicate (32 - r.data.length) 0)

/-- The address of a held-operation record. -/
def Held.addrIn (r : Held) (window : Nat) : DWord := windowAddr window r.home r.area

/-- The state after a record is written in a landing zone; none without room. -/
def State.writeHeld (s : State) (knot : Nat) (r : Held) : Option (Held × State) :=
  match s.takeArea r.home { kind := .record, len := 64, own := some knot } with
  | none => none
  | some (off, s1) =>
    let r1 := { r with area := off }
    some (r1, s1.zoneWrite r.home off (r1.bytes 0))

/-- The state after the NEXT fields of a FAILLIST are written (R78). -/
def State.relink (s : State) (window : Nat) : List Held → State
  | [] => s
  | r :: rs =>
    let next := match rs with | [] => 0 | n :: _ => n.addrIn window
    (s.zoneWrite r.home r.area (bytesOfNat next.toNat 8)).relink window rs

/-- A record put in issue order. -/
def addHeld (rs : List Held) (r : Held) : List Held := insertBy (fun a b => decide (a.seq < b.seq)) r rs

/-- An entry free once it has drained (R73). -/
def PostEntry.drained (e : PostEntry) : PostEntry := if e.outst = 0 && !e.faulted then .free else e

/-- A context with a post-table entry changed. -/
def Ctx.modPost (c : Ctx) (i : Nat) (f : PostEntry → PostEntry) : Ctx := { c with posts := c.posts.modify i f }

/-- The entry that a post to a home takes, allocated when there is none (R73, R74). A trap names the lane that is not sent and its
address (R285). -/
def entryFor (s : State) (h : Here) (home lane : Nat) (addr : DWord) : Res (Nat × PostEntry) :=
  match findIdx (fun e => e.valid && e.home == home) h.p.ctx.posts with
  | some (i, e) =>
    if e.faulted then .error (.trap { code := .postfault, lane := lane, addr := addr } s)
    else if e.outst = 4095 || e.seq = 4194303 then .error (.wait .post s)
    else .ok (i, e)
  | none =>
    match findIdx (fun e => !e.valid) h.p.ctx.posts with
    | some (i, _) =>
      .ok (i, { valid := true, faulted := false, home := home, outst := 0, stream := lowestOf h.p.ctx.mask, seq := 0, held := [] })
    | none =>
      if h.p.ctx.posts.all fun e => e.faulted then .error (.trap { code := .postfault, lane := lane, addr := addr } s)
      else .error (.wait .post s)

/-- The state after one post is sent to a home, or held at once for a cause found at issue (R204, R78). The
LANE of a DEPDEC is its STREAM (R206). -/
def sendPost (s : State) (h : Here) (home cause : Nat) (r : PostReq) : Res State := do
  let (i, e) ← entryFor s h home r.lane (if r.code = 255 then 0 else r.va)
  let seq := e.seq + 1
  let lane := if r.code = 255 then e.stream else r.lane
  if cause ≠ 0 then
    match s.writeHeld h.p.knot
        { home := h.p.home, area := 0, op := r.code, type := r.type, cause := cause, addr := r.va, lane := lane, seq := seq,
          data := r.data } with
    | none => .error (.wait .memory s)
    | some (rec', s1) =>
      let e1 := { e with seq := seq, faulted := true, held := addHeld e.held rec' }
      .ok ((s1.modCtx h.u fun c => c.modPost i fun _ => e1).relink h.k.regs.window e1.held)
  else
    let (id, s1) := s.newId
    let p : Post := { id := id, launch := h.k.launch, knot := h.p.knot, path := h.u, home := home, stream := e.stream, seq := seq, op := r.op,
                      code := r.code, type := r.type, va := r.va, pa := r.pa, key := r.key, asid := h.k.regs.asid,
                      lane := lane, data := r.data, stamp := r.stamp, window := h.k.regs.window }
    .ok ((s1.modCtx h.u fun c => c.modPost i fun _ => { e with seq := seq, outst := e.outst + 1 }).modFlow fun f =>
      { f with posts := f.posts ++ [p] })

/-- One lane of a post: translated at the issuing core, and charged to the home's entry, or to the current stack's when it
fails there (R204). ATP to host has cause 4. -/
def postLane (s : State) (h : Here) (need : Needs) (host : Bool) (op : PostOp) (code type : Nat)
    (r : Nat × DWord × List Byte) : Res State := do
  let (l, va, data) := r
  let s ← walkAll s h [va]
  let mk (pa : Nat) (key : Option Nat) : PostReq :=
    { lane := l, op := op, code := code, type := type, va := va, pa := pa, key := key, data := data, stamp := h.p.ctx.stamp }
  match s.translateLane h data.length need va with
  | .error .page => sendPost s h h.p.home 1 (mk 0 none)
  | .error .prot => sendPost s h h.p.home 2 (mk 0 none)
  | .ok t =>
    if homeOf t.pa = Config.hostHome && !host then sendPost s h Config.hostHome 4 (mk t.pa t.key)
    else sendPost s h (homeOf t.pa) 0 (mk t.pa t.key)

/-- The lanes of a post sent in ascending order; the state of a stop records the lanes already sent (R204, R205). -/
def postLanes (s : State) (u : Nat) (need : Needs) (host : Bool) (op : PostOp) (code type : Nat) :
    List (Nat × DWord × List Byte) → Res State
  | [] => .ok s
  | r :: rest =>
    match s.here u with
    | none => .ok s
    | some h =>
      if h.p.ctx.sent.getLsbD r.1 then postLanes s u need host op code type rest
      else
        match postLane s h need host op code type r with
        | .error e => .error e
        | .ok s1 =>
          postLanes (s1.modCtx u fun c => { c with sent := c.sent ||| (1#1024 <<< r.1) }) u need host op code type rest

/-- A post instruction: sources, alignment of every lane, then the lanes (R203 to R205). -/
def postOp (g : Guard) (x a : VReg) (b : SReg) (e : Bool) (n : Nat) (need : Needs) (host : Bool) (op : PostOp)
    (code type : Nat) (off : Hints → DWord) : State → Out :=
  knotOp { imm := .any, defer := true } (isNever g) fun s h => do
    checkSources s h.p (guardSource g :: [vecSource h.p.ctx a e, scalSource b e] ++ groupSources h.p.ctx x.toNat (n / 4) e)
    let reqs := laneReqs h g a b (off h.p.hints) x.toNat (n / 4)
    needAligned s n reqs
    let s1 ← postLanes s h.u need host op code type reqs
    .ok (s1.retire h.u)

/-- The element-type byte of an STP record (R206). -/
def stpType (z : MemSize) : Nat :=
  match z with
  | .b64 => 133
  | .b128 => 134
  | _ => 132

/-- STP (R203). -/
def execStp (g : Guard) (x a : VReg) (b : SReg) (e : Bool) (z : MemSize) (o : BitVec 3) : State → Out :=
  postOp g x a b e z.bytes { rd := false, w := true } true .store 0 (stpType z) fun h => memOffset h o z.bytes

/-- The op field of an atomic (R137). -/
def atomCode (o : AtomOp) : Nat :=
  match o with
  | .add => 0
  | .min => 1
  | .max => 2
  | .and => 3
  | .or => 4
  | .xor => 5
  | .xchg => 6
  | .cas => 7

/-- The type field of an atomic (R137). -/
def atomTypeCode (t : AtomType) : Nat :=
  match t with
  | .i32 => 0
  | .n32 => 1
  | .i64 => 2
  | .n64 => 3
  | .f32 => 4
  | .bf16x2 => 5
  | .f16x2 => 6

/-- ATP (R203). -/
def execAtp (g : Guard) (x a : VReg) (b : SReg) (e : Bool) (o : AtomOp) (t : AtomType) : State → Out :=
  postOp g x a b e t.bytes { rd := true, w := true } false (.atom o t) (atomCode o) (atomTypeCode t) atomOffset

/-- ATP VADD: `p` is bit 0 of its op field, and the type field gives the element and the size (R137, R203). -/
def execAtpVadd (g : Guard) (x a : VReg) (b : SReg) (e p : Bool) (t : BitVec 3) : State → Out :=
  postOp g x a b e (vaddBytes t) { rd := true, w := true } false (.vadd p t) (6 + p.toNat) t.toNat atomOffset

/-- The decrement of a counter: none when it is zero already; the one that brings it to zero spends the node and releases its
task, unless the node is abandoned or the stamp's subtree is cancelled (R254, R262, R274). -/
def State.decrement (s : State) (l node : Nat) (stamp : DWord) : Option State :=
  match spFind l s.launches with
  | none => some s
  | some la =>
    match spFind node la.nodes with
    | none => some s
    | some nd =>
      if nd.counter = 0 then none
      else
        let put (f : Node → Node) (s : State) := s.modLaunch l fun la => { la with nodes := spModify node f la.nodes }
        if nd.counter ≠ 1 then some (put (fun nd => { nd with counter := nd.counter - 1 }) s)
        else
          let s1 := put (fun nd => { nd with counter := 0, spent := true }) s
          some (if nd.spent || nd.abandoned || s.cancelledBrood stamp then s1 else s1.releaseTask l la node nd stamp [])

/-- What a post does at its home: none when it fails, with the cause (R78, R80). -/
def State.performPost (s : State) (p : Post) : Except Nat State :=
  match p.op with
  | .dec l n =>
    (match s.decrement l n p.stamp with
    | none => .error 5
    | some s1 => .ok s1)
  | op =>
    let s1 := s.recall false p.pa p.data.length
    if s1.mem.poisoned p.pa p.data.length then .error 3
    else
      let old := s1.readMem p.key p.pa p.data.length
      let new := match op with
        | .atom o t => bytesOfNat (atomValue o t (natOfBytes old) p.data) p.data.length
        | .vadd half t => bytesOfWords (vaddWords (vaddType half t) (wordsOfBytes old) (wordsOfBytes p.data))
        | _ => p.data
      .ok (s1.writeMem p.key p.pa new)

/-- The home whose landing zone takes a record of a post: its own, or for host that of its path's stack (R78). -/
def State.holdHome (s : State) (p : Post) : Nat :=
  if p.home = Config.hostHome then (match s.path? p.path with | some q => q.home | none => 0) else p.home

/-- Whether the stream of a post is held at its home (R78). -/
def State.streamHeld (s : State) (p : Post) : Bool :=
  s.flow.held.any fun x => x.knot == p.knot && x.home == p.home && x.stream == p.stream

/-- The state after an acknowledgement of a post sets out for its path. -/
def State.sendAck (s : State) (p : Post) (held : Option Held) : State :=
  let (id, s1) := s.newId
  s1.modFlow fun f => { f with acks := f.acks ++ [{ id := id, path := p.path, home := p.home, held := held }] }

/-- The state after the stream of a post is held at its home, from its first failure on (R78). -/
def State.holdStream (s : State) (p : Post) : State :=
  if s.streamHeld p then s
  else s.modFlow fun f => { f with held := f.held ++ [{ knot := p.knot, home := p.home, stream := p.stream, last := p.seq }] }

/-- The state after a post is held at its home: its record, its stream held from now on, its acknowledgement; without room for
the record it stays in flight. -/
def State.holdPost (s s0 : State) (p : Post) (cause : Nat) : State :=
  match s.writeHeld p.knot
      { home := s.holdHome p, area := 0, op := p.code, type := p.type, cause := cause, addr := p.va, lane := p.lane,
        seq := p.seq, data := p.data } with
  | none => s0
  | some (r, s1) => (s1.holdStream p).sendAck p (some r)

/-- POST_PERFORM: a post that no earlier post of its stream precedes is performed at its home, or held (R72, R78); nothing is
performed at a halted stack (R304). A post whose path is no more is performed, or fails and is held without a record (R79). -/
def execPostPerform (post : Nat) (s : State) : Out :=
  event <|
    match s.flow.posts.find? fun p => p.id == post with
    | none => s
    | some p =>
      if (s.stk p.home).halted || s.flow.posts.any fun q => q.knot == p.knot && q.home == p.home && q.stream == p.stream && decide (q.seq < p.seq)
      then s
      else
        let s1 := s.modFlow fun f => { f with posts := f.posts.filter fun q => q.id != post }
        let live := (s.path? p.path).isSome
        let out :=
          if s.streamHeld p then (if live then s1.holdPost s p 0 else s1)
          else match s1.performPost p with
            | .ok s2 => if live then s2.sendAck p none else s2
            | .error c => if live then s1.holdPost s p c else s1.holdStream p
        out.bump

/-- POST_ACKNOWLEDGEMENT: OUTST falls; a held report sets FAULTED and adds its record; an entry that drains is free; a stored
image's POSTTAB follows (R73, R77). -/
def execPostAcknowledgement (ack : Nat) (s : State) : Out :=
  event <|
    match s.flow.acks.find? fun a => a.id == ack with
    | none => s
    | some a =>
      let s1 := s.modFlow fun f => { f with acks := f.acks.filter fun b => b.id != ack }
      match s1.here a.path with
      | none => s1.bump
      | some h =>
        match findIdx (fun e => e.valid && e.home == a.home) h.p.ctx.posts with
        | none => s1.bump
        | some (i, e) =>
          let e1 := match a.held with
            | some r => { e with outst := e.outst - 1, faulted := true, held := addHeld e.held r }
            | none => { e with outst := e.outst - 1 }
          (((s1.modCtx a.path fun c => c.modPost i fun _ => e1.drained).relink h.k.regs.window e1.held).refreshPosts a.path).bump

/-- FABRIC_PACKET_RESEND: a corrupted packet is sent again; the post arrives as if it had been sent once (R332). -/
def execFabricPacketResend (_ : Nat) (s : State) : Out := event s

end Sys2Proof.Machine
end

