-- ==== Sys2Proof/Machine/Broods.lean ====
section
/-! DEFINITION. Broods, and what cancelling one does throughout the pod (spec/15 R271 to R274). -/
namespace Sys2Proof.Machine

/-- A brood by its identifier. -/
def State.brood? (s : State) (b : DWord) : Option Brood := spFind b.toNat s.flow.broods

/-- Whether `b` descends from `a`, or is it: at most 255 parents (R271). -/
def descends (bs : Sparse Brood) (a : Nat) : Nat → Nat → Bool
  | 0, b => b == a
  | n + 1, b =>
    b == a || (match spFind b bs with
      | some x => (match x.parent with | some p => descends bs a n p | none => false)
      | none => false)

/-- Whether a brood is in the subtree of another. -/
def State.inSubtree (s : State) (root b : DWord) : Bool := descends s.flow.broods root.toNat 255 b.toNat

/-- The least positive number that is not in a list. -/
def leastUnused (used : List Nat) : Nat := ((List.range (used.length + 1)).find? fun n => !used.contains (n + 1)).getD 0 + 1

/-- An identifier that no brood of the pod has: the one that a choice names when it is free, otherwise the least unused (log
12). -/
def State.freeBrood (s : State) : Nat × State :=
  let (v, s1) := s.pick 0
  let used := s.flow.broods.map (·.1)
  (if v = 0 || decide (2 ^ 64 ≤ v) || used.contains v then leastUnused used else v, s1)

/-- The state with a new brood: a root, or a child (R249, R271). -/
def State.newBrood (s : State) (parent : Option Nat) (depth root : Nat) : DWord × State :=
  let (b, s1) := s.freeBrood
  (BitVec.ofNat 64 b, s1.modFlow fun f =>
    { f with broods := spPut b { parent := parent, depth := depth, root := root, cancelled := false } f.broods })

/-- The paths of a knot that are hopping. -/
def State.flyingOf (s : State) (kn : Nat) : List (Nat × Path) :=
  (s.pathsOf kn).filter fun e => match e.2.place with | .flying _ => true | _ => false

/-- The state after every path of a knot but its hops is retired, with the accesses that it had issued performed, and the knot's reservation
is released; a knot with a hop in flight goes when the hop lands (R33, R36, R273, R274). -/
def State.retireKnot (s : State) (kn : Nat) : State :=
  match s.flyingOf kn with
  | [] => s.dropKnot kn
  | _ =>
    let here := (s.pathsOf kn).filter fun e => match e.2.place with | .flying _ => false | _ => true
    let s0 := here.foldl (fun s e => s.catchUp e.1) s
    let s1 := here.foldl (fun s e => s.freePath e.2) s0
    ({ s1 with paths := s1.paths.filter fun e => !here.any fun x => x.1 == e.1 } : State).modKnot kn fun k => { k with reserved := 0 }

/-- The state after the movement program of a crew ends and its queued work goes, its copies in flight still finishing (R273,
R290). -/
def State.endCrew (s : State) (c : Nat) : State :=
  s.modEngine c fun e => { e.endMover with queue := [], begun := [], words := [], accQueue := [] }

/-- Whether work bears a stamp of a subtree. -/
def State.workIn (s : State) (root : DWord) (w : Work) : Bool :=
  match w.kind with
  | .task _ stamp _ => s.inSubtree root stamp
  | .handler _ u _ _ => (match s.here u with | some h => s.inSubtree root h.k.brood | none => true)
  | _ => (match spFind w.launch s.launches with | some la => s.inSubtree root la.brood | none => false)

/-- The state after the chains stamped in a subtree are released (R273). -/
def State.releaseChains (s : State) (root : DWord) : List ChainReg → State
  | [] => s
  | c :: cs =>
    (if s.inSubtree root c.brood then s.chainRelease (homeOf c.page) c.key c.page else s).releaseChains root cs

/-- The knots of a subtree. -/
def State.knotsIn (s : State) (root : DWord) : List (Nat × Knot) := s.knots.filter fun e => s.inSubtree root e.2.brood

/-- The crews that a knot's retirement ends. -/
def crewsOf (ks : List (Nat × Knot)) : List Nat := (ks.filterMap fun e => e.2.crew.map (·.1)).dedup

/-- The state after a subtree is cancelled throughout the pod (R273). -/
def State.cancelTree (s : State) (root : DWord) : State :=
  let ks := s.knotsIn root
  let s1 := s.modFlow fun f =>
    { f with
      broods := spMap (fun b x => if s.inSubtree root (BitVec.ofNat 64 b) then { x with cancelled := true } else x) f.broods
      queues := spMap (fun _ q =>
        { q with ring := q.ring.filter (fun e => !s.inSubtree root e.stamp), back := q.back.filter fun e => !s.inSubtree root e.stamp }) f.queues }
  let s2 := { s1 with
    stks := spMap (fun _ t => { t with work := t.work.filter fun w => !s.workIn root w }) s1.stks
    launches := spMap (fun _ la =>
      { la with
        cancelled := la.cancelled || s.inSubtree root la.brood
        nodes := spMap (fun _ n => { n with batches := n.batches.filter fun b => !s.inSubtree root b.brood }) la.nodes }) s1.launches }
  let s3 := (crewsOf ks).foldl State.endCrew s2
  let s4 := ks.foldl (fun (s : State) (e : Nat × Knot) => s.retireKnot e.1) s3
  let s5 := s4.releaseChains root s4.flow.chains
  let s6 := (crewsOf ks).foldl State.tryStep s5.tryPhases
  (s6.launches.foldl (fun (s : State) (e : Nat × Launch) => s.flushLaunch e.1) s6).bump

/-- The hops in flight. -/
def State.hopsInFlight (s : State) : List Nat :=
  (s.paths.filter fun e => match e.2.place with | .flying _ => true | _ => false).map (·.1)

/-- Whether every hop that a cancellation waits for has landed (R273). -/
def State.cancelDone (s : State) (c : Cancel) : Bool := c.hops.all fun u => !s.hopsInFlight.contains u

/-- The state without the filter entries of cancellations that are done and whose knot is no more (R273). -/
def State.pruneCancels (s : State) : State :=
  let keep (c : Cancel) : Bool := !s.cancelDone c || s.paths.any fun e => e.2.pend == .cancel c.id
  s.modFlow fun f => { f with cancels := f.cancels.filter keep }

end Sys2Proof.Machine
end

