-- ==== Sys2Proof/Machine/Parking.lean ====
section
/-! DEFINITION. Landing, parking and switching out: hops, parked images, crew images (spec/01 R32 to R37, spec/17 R294, R301,
R302), and the other events of paths (spec/01 R25, R53, spec/17 R283). -/
namespace Sys2Proof.Machine

/-- The state after a path on a core or a hop is stored as an image: at the edge of an issue group (R124), when the values on their way to it
and to the paths pushed under it have arrived (R54); none when no landing zone has room, or an access that it had issued may not be
performed yet. `place` gives its place from where the image lies. -/
def State.imageOut (s : State) (u : Nat) (service : Bool) (place : Stored → Place) : Option State :=
  let s1 := (s.drainAll u).rewind u
  if !s.settles u then none
  else match s1.here u with
  | none => none
  | some h =>
    (s1.storeImage h false service .image).map fun r =>
      r.2.modPath u fun p => { p with place := place r.1, wait := none, blockedAt := none }

/-- The paths of a knot that have a seat on a core. -/
def State.seatedOf (s : State) (kn home core : Nat) : List (Nat × Path) :=
  (s.pathsOf kn).filter fun e =>
    match e.2.place with
    | .resident st | .held st => e.2.home == home && st.core == core
    | _ => false

/-- Whether a knot is held for service (R292). -/
def State.serves (s : State) (kn : Nat) : Bool := (spFind kn s.knots).any (·.serving)

/-- The state after a seated path is switched out: that of a knot held for service stays held (R35, R294, R301). -/
def State.seatOut (s : State) (u kn : Nat) : Option State :=
  if s.serves kn then s.imageOut u true .heldOut else s.imageOut u false .parked

/-- The state after the paths of a knot on a core are switched out, all or none (R35, R294, R332). -/
def State.switchOut (s : State) (home core : Nat) (kn : Nat) : Option State :=
  (s.seatedOf kn home core).foldl (fun (r : Option State) e => r.bind fun s => s.seatOut e.1 kn) (some s)

/-- The knots that hold slots on a core, each with the paths that it has there. -/
def State.knotsOn (s : State) (home core : Nat) : List Nat := ((s.seats home core).map fun e => e.2.1.knot).dedup

/-- When a knot began to be held: its last issue, CTXSV. -/
def State.heldSince (s : State) (home core : Nat) (kn : Nat) : Nat :=
  (s.seatedOf kn home core).foldl (fun n e => max n e.2.lastIssue) 0

/-- The state after the longest held knot of a core is switched out; none when the share of held knots is at or below PARKMAX, or none
of them can be (R294). -/
def State.serviceNext (s : State) (home core : Nat) : Option State :=
  let all := s.knotsOn home core
  let held := all.filter s.serves
  let free := held.filter fun kn => match spFind kn s.knots with | some k => !k.rooted | none => false
  if held.length * 100 ≤ min 100 (s.stk home).parkmax.toNat * all.length then none
  else (leastBy (s.heldSince home core) free).bind fun kn => s.switchOut home core kn

/-- Held knots of a core switched out, longest held first, until their share is at or below PARKMAX (R294). -/
def State.serviceOut (s : State) (home core : Nat) : Nat → State
  | 0 => s
  | n + 1 =>
    match s.serviceNext home core with
    | none => s
    | some s1 => s1.serviceOut home core n

/-- The state after the share of R294 is restored on some cores of a stack. -/
def State.serviceOn (s : State) (home : Nat) (cores : List Nat) : State :=
  cores.foldl (fun s c => s.serviceOut home c 64) s

/-- The pad allocation of a crew (R81). -/
def Crew.padAlloc (w : Crew) : Nat := w.padSize + w.regions.foldl (fun n e => if e.2.plane then n + e.2.length else n) 0

/-- The crews on a core. -/
def State.crewsOn (s : State) (home core : Nat) : List (Nat × Crew) :=
  s.crews.filter fun e => e.2.home == home && (match e.2.place with | .core c => c == core | .stored _ => false)

/-- Whether a core has pad for a crew, and its engine when it needs one (R17, R217). -/
def State.padRoom (s : State) (home core pad : Nat) (engine : Bool) : Bool :=
  let on := s.crewsOn home core
  decide (on.foldl (fun n e => n + e.2.padAlloc) 0 + pad ≤ Config.padBytes) &&
    !(engine && on.any fun e => e.2.engine.isSome)

/-- The paths of a crew that are in its image. -/
def State.crewedOf (s : State) (w : Crew) : List (Nat × Path) :=
  w.live.flatMap fun m => (s.pathsOf m.2).filter fun e => e.2.place == .crewed

/-- Whether a core can take a stored crew (R302). -/
def State.crewFits (s : State) (home core : Nat) (w : Crew) : Bool :=
  let bytes := w.live.foldl (fun n m => match spFind m.2 s.knots with | some k => n + k.regBytes | none => n) 0
  decide (core < Config.coresPerStack) && decide (w.size ≤ s.freeSlots home core) &&
    decide ((s.crewedOf w).length ≤ s.freeEntries home core) && decide (bytes ≤ s.freeRegs home core) &&
    s.padRoom home core w.padAlloc w.engine.isSome

/-- An image that waits to resume on a stack. -/
inductive Waiter where
  | path (u : Nat) (p : Path) (img : Stored)
  | crew (c : Nat) (w : Crew) (img : Stored)

/-- The images that wait to resume on a stack (R34). -/
def State.waiters (s : State) (home : Nat) : List Waiter :=
  (s.paths.filterMap fun e =>
    match e.2.place with
    | .parked img => if e.2.home = home then some (.path e.1 e.2 img) else none
    | _ => none) ++
  s.crews.filterMap fun e =>
    match e.2.place with
    | .stored img => if e.2.home = home then some (.crew e.1 e.2 img) else none
    | .core _ => none

/-- The knot of a waiting image: for a crew, that of its lowest slot that has not ended. -/
def Waiter.knot : Waiter → Nat
  | .path _ p _ => p.knot
  | .crew _ w _ => ((w.live.head?).map (·.2)).getD 0

/-- The cycle at which an image was parked. -/
def Waiter.age : Waiter → Nat
  | .path _ _ img | .crew _ _ img => img.age

/-- The lowest lane of a waiting image. -/
def Waiter.lane : Waiter → Nat
  | .path _ p _ => lowestOf p.ctx.mask
  | .crew _ _ _ => 0

/-- The rank of a waiting image: its age, launch sequence number, KNOTID, lowest lane (R34). -/
def State.rankOf (s : State) (x : Waiter) : Nat :=
  let k := spFind x.knot s.knots
  let seq := match k.bind fun k => spFind k.launch s.launches with | some la => la.seq | none => 0
  let id := match k with | some k => k.knotId | none => 0
  ((x.age * 2 ^ 64 + seq % 2 ^ 64) * 2 ^ 32 + id % 2 ^ 32) * 1024 + x.lane

/-- The oldest image that waits on a stack (R34). -/
def State.oldest (s : State) (home : Nat) : Option Waiter := leastBy s.rankOf (s.waiters home)

/-- Whether a core can take a waiting image (R32, R302). -/
def State.takes (s : State) (home core : Nat) (x : Waiter) : Bool :=
  match x with
  | .path _ p _ => s.coreHas home core (match spFind p.knot s.knots with | some k => k.regBytes | none => 0)
  | .crew _ w _ => s.crewFits home core w

/-- The core that takes a waiting image: the one named if it can, otherwise the lowest that can. -/
def State.coreTaking (s : State) (home want : Nat) (x : Waiter) : Option Nat :=
  if s.takes home want x then some want else (List.range Config.coresPerStack).find? fun c => s.takes home c x

/-- The state after a path takes a seat on a core. -/
def State.sitDown (s : State) (u home core : Nat) : State :=
  match s.seatOn home core with
  | none => s
  | some seat => s.modPath u fun p => { p with home := home, place := .resident seat, wait := none, blockedAt := none }

/-- Whether the image of a knot of a crew image is unaltered, or altered as R57 allows. -/
def State.partLegal (s : State) (img : Stored) (i : Nat) (h : Here) (new : List Byte) : Bool :=
  let p := img.part s i h
  imageLegal h (256 + (payloadHead h p.seed p.block).length) (s.partBytes img i h) new

/-- The knot images of a crew image as memory holds them: each with its number, path and bytes. -/
def cutParts (bs : List Byte) : Nat → List (Here × List Byte) → List (Nat × Here × List Byte)
  | _, [] => []
  | i, (h, old) :: rest => (i, h, bs.take old.length) :: cutParts (bs.drop old.length) (i + 1) rest

/-- The state after a stored crew takes its image back: changes that R57 allows to its knot images are taken; any other
leaves E_IMAGE for every knot (R301). -/
def State.takeCrew (s : State) (w : Crew) (img : Stored) : State :=
  let old := s.crewBytes w img
  let new := s.zoneRead img.home img.off img.len
  if old = new then s
  else
    let parts := s.crewParts w img
    let size := parts.foldl (fun n e => n + e.2.length) 0
    let cut := cutParts (new.drop 64) 0 parts
    if old.take 64 == new.take 64 && old.drop (64 + size) == new.drop (64 + size) &&
        cut.all fun e => s.partLegal img e.1 e.2.1 e.2.2 then
      cut.foldl (fun (s' : State) e => s'.takeImage e.2.1 (img.part s e.1 e.2.1) e.2.2) s
    else parts.foldl (fun (s' : State) e => s'.modPath e.1.u (Path.hold { code := .image })) s

/-- The place of a path of a crew that resumes: held again when its knot is held for service (R292, R302). -/
def resumedPlace (k : Knot) (p : Path) (seat : Seat) : Place := if k.serving && p.halt == .running then .held seat else .resident seat

/-- The state after one knot of a crew sits down with its paths. -/
def State.seatKnot (s : State) (home core kn : Nat) : State :=
  match s.seatOn home core, spFind kn s.knots with
  | some seat, some k =>
    ((s.pathsOf kn).filter fun e => e.2.place == .crewed).foldl (fun (s : State) e =>
      s.modPath e.1 fun p => { p with home := home, place := resumedPlace k p seat, wait := none, blockedAt := none }) s
  | _, _ => s

/-- The state after a stored crew resumes on a core (R302). -/
def State.resumeCrew (s : State) (c core : Nat) (w : Crew) (img : Stored) : State :=
  let s1 := (s.takeCrew w img).freeImage img
  let s2 := w.live.foldl (fun (s : State) m => s.seatKnot w.home core m.2) s1
  s2.modCrew c fun w => { w with place := .core core, engine := w.engine.map fun e => { e with mover := { e.mover with blockedAt := none } } }

/-- PARKED_IMAGE_RESUME: the oldest parked image of a stack resumes on a core that has room (R34, R302). -/
def execParkedImageResume (home core : Nat) (s : State) : Out :=
  event <|
    if !s.open? home then s
    else match s.oldest home with
      | none => s
      | some x =>
        match s.coreTaking home core x, x with
        | none, _ => s
        | some c, .path u _ img => ((s.loadImage u img).sitDown u home c).bump
        | some c, .crew n w img => (s.resumeCrew n c w img).bump

/-- The state after a flying path is discarded on landing because its brood is cancelled (R33). -/
def State.discard (s : State) (h : Here) : State :=
  let s1 := if (s.siblings h.p.knot h.u).isEmpty then (s.dropKnot h.p.knot).afterEnd h.k
    else { s.freePath h.p with paths := spDrop h.u (s.freePath h.p).paths }
  s1.pruneCancels.bump

/-- HOP_LANDING: a hop is discarded, lands on a core, or parks; at a halted stack it waits (R32, R33, R304). -/
def execHopLanding (path core : Nat) (s : State) : Out :=
  event <|
    match s.here path with
    | none => s
    | some h =>
      match h.p.place with
      | .flying dest =>
        if s.cancelledBrood h.k.brood then s.discard h
        else if (s.stk dest).halted then s
        else
          let s1 := s.modPath path fun p => { p with home := dest }
          let seat := if s.anyParked dest || (s.mod (moduleOf dest)).preempt == .stopped then none
            else s.coreFor dest core h.k.regBytes
          (match seat with
          | some c => (s1.sitDown path dest c).bump
          | none => match s1.imageOut path false .parked with
            | some s2 => s2.bump
            | none => s)
      | _ => s

/-- REGISTER_FILL: a value arrives at its register (R25), or an access that a path has issued is performed at its home: the first of the
path's that is not (R66, R67), after the posts that it comes after, at a stack that runs (R75, R304). -/
def execRegisterFill (path flight : Nat) (s : State) : Out :=
  event <|
    match s.path? path with
    | none => s
    | some p =>
      match p.flights.find? fun f => f.id == flight with
      | none => s
      | some f =>
        match f.fill, p.unperformed.head? with
        | .access _, none => s
        | .access a, some e =>
          if e.1.id != flight || !(s.here path).any fun h => s.mayPerform h a then s else (s.performFlight path f a).bump
        | _, _ => (s.fill path f).bump

/-- SIBLING_HALT: a path in its skid halts at an instruction boundary (R283). -/
def execSiblingHalt (path : Nat) (s : State) : Out :=
  event <|
    match s.path? path with
    | none => s
    | some p =>
      match p.halt with
      | .halting n => (s.modPath path fun p => p.halted n (s.limitOf p.knot)).bump
      | _ => s

/-- Whether a path's knot may issue: it is not held for service, and its crew, if it has one, is not leaving its core (R35, R292). -/
def State.knotIssues (s : State) (p : Path) : Bool :=
  match spFind p.knot s.knots with
  | none => true
  | some k => !k.serving && (match k.crew with | some (c, _) => !(spFind c s.crews).any (·.leaving) | none => true)

/-- Whether a path runs: it is on a core, not halted, and its stack, module and knot run (R52, R283, R292, R300, R304). -/
def State.running (s : State) (p : Path) : Bool :=
  (match p.place with | .resident _ => true | _ => false) && (match p.halt with | .halted _ => false | _ => true) &&
    s.open? p.home && s.knotIssues p

/-- Whether a path's watchdog count has reached its limit (R53, R286). -/
def Here.runaway (h : Here) : Bool :=
  h.k.regs.watchdog != 0 && decide (h.k.regs.watchdog.toNat ≤ h.p.ctx.wd) && !h.p.super

/-- Whether a path is at an issue-group boundary at which its next word comes next: it holds no trap as pending (R281, R283), and nothing is
left of an instruction before it. -/
def Path.atWord (p : Path) : Bool := p.hints.words == 0 && p.trapHeld.isEmpty && p.pend == .none

/-- WATCHDOG_EXPIRY: E_RUNAWAY of a path that runs, at an issue-group boundary when the count has reached the limit (R53, R281). -/
def execWatchdogExpiry (path : Nat) (s : State) : Out :=
  event <|
    match s.here path with
    | none => s
    | some h => if s.running h.p && h.p.atWord && h.runaway then s.takeTrap path { code := .runaway } else s

/-- Whether a path is blocked on what R35 names: a barrier phase that is not complete, or a register that is still empty. A path at a JOIN
has no seat, and one that waits for a handle or a step is rooted. -/
def State.idle (s : State) (p : Path) : Bool :=
  match p.wait with
  | some (.phase id) => (s.phase? id).any fun q => !q.complete
  | some (.register r) => p.ctx.stateOf r == .empty
  | some .loads => p.hasEmpty
  | _ => false

/-- The knots of a core that R35 switches out: not rooted, every path there blocked; with the cycle since which the longest is. -/
def State.idleOn (s : State) (home core : Nat) : List (Nat × Nat × Nat) :=
  (s.knotsOn home core).filterMap fun kn =>
    let ps := s.seatedOf kn home core
    match spFind kn s.knots with
    | some k =>
      if k.rooted || !ps.all fun e => s.idle e.2 then none
      else some (core, kn, ps.foldl (fun n e => min n e.2.blockedCycle) (s.stk home).cycles)
    | none => none

/-- The knots that are on withdrawn cores of a stack and not rooted (R332). -/
def State.strandedOn (s : State) (home : Nat) : List (Nat × Nat) :=
  (s.stk home).withdrawn.flatMap fun core =>
    ((s.knotsOn home core).filter fun kn => match spFind kn s.knots with | some k => !k.rooted | none => false).map fun kn => (core, kn)

/-- Whether the oldest image of a stack has waited some cycles and no core can take it (R35). -/
def State.starved (s : State) (home cycles : Nat) : Bool :=
  match s.oldest home with
  | none => false
  | some x => decide (x.age + cycles ≤ (s.stk home).cycles) && (s.coreTaking home 0 x).isNone

/-- The knot that R35 switches out next on a stack. -/
def State.nextIdle (s : State) (home : Nat) : Option (Nat × Nat × Nat) :=
  leastBy (fun e => e.2.2) ((List.range Config.coresPerStack).flatMap (s.idleOn home))

/-- PARK_SWITCH_OUT: a knot goes to the landing pool: one on a withdrawn core, the longest held of a core on which too many are held for
service, or the longest blocked for an image that has waited 65,536 cycles (R35, R294, R332). -/
def execParkSwitchOut (home : Nat) (s : State) : Out :=
  event <|
    let go (core kn : Nat) : State := match s.switchOut home core kn with | some s1 => s1.bump | none => s
    if !s.open? home then s
    else match s.strandedOn home with
      | (core, kn) :: _ => go core kn
      | [] =>
        match (List.range Config.coresPerStack).findSome? (s.serviceNext home) with
        | some s1 => s1.bump
        | none =>
          if s.starved home 65536 then
            match s.nextIdle home with
            | some (core, kn, _) => go core kn
            | none => s
          else s

/-- Whether a crew's engine is at the units of R300: no copy in flight, no batch begun. -/
def Crew.quiet (w : Crew) : Bool :=
  match w.engine with
  | none => true
  | some e => e.copies.isEmpty && !e.midBatch

/-- The paths of a crew that have a seat. -/
def State.seatedCrew (s : State) (w : Crew) : List (Nat × Path) := w.live.flatMap fun m => (s.pathsOf m.2).filter fun e => e.2.seated

/-- Whether a crew may be stored: its engine is at the units of R300, and the accesses that its paths had issued may be performed. -/
def State.crewStill (s : State) (w : Crew) : Bool := w.quiet && (s.seatedCrew w).all fun e => s.settles e.1

/-- A movement processor at an instruction boundary (R300). -/
def Mover.atBoundary (m : Mover) : Mover :=
  { m with pc := m.groupPc, wrapped := m.wrapped && m.hints.words == 0, hints := .none, wait := false,
           blockedAt := none, list := [] }

/-- The length of a crew image: the free size of its engine block among them (R301, log 10, DESIGN CHOICE). -/
def State.crewLength (s : State) (w : Crew) (img : Stored) (extra : Nat) : Nat :=
  roundUp (64 + ((s.crewParts w img).foldl (fun n e => n + e.2.length) 0) + extra) 256

/-- The state after a crew on a core is stored as a crew image (R301); none when its stack's zone has no unreserved room, or an access that a
path of it had issued may not be performed yet. -/
def State.storeCrew (s : State) (c : Nat) (w : Crew) : Option State :=
  let s1 := (s.seatedCrew w).foldl (fun (s : State) e =>
    ((s.drainAll e.1).rewind e.1).modPath e.1 fun p => { p with place := .crewed, wait := none, blockedAt := none }) s
  let s2 := s1.modMover c Mover.atBoundary
  let (b, s3) := s2.pick 129
  let (extra, s4) := s3.pick 0
  let (id, s5) := s4.newId
  let s6 := { s5 with uid := s5.uid + 16 }
  match if (s.seatedCrew w).all fun e => s.settles e.1 then spFind c s6.crews else none with
  | none => none
  | some w1 =>
    let serving := (s6.crewMains w1).zipIdx.foldl (fun f e => if e.1.k.serving then f + 2 ^ e.2 else f) 0
    let img : Stored := { home := w.home, off := 0, len := 0, age := (s.stk w.home).cycles, order := id, seed := id, block := 16 * b, flags := serving }
    let len := s6.crewLength w1 img extra
    if !s6.poolHas (moduleOf w.home) len then none
    else match s6.takeArea w.home { kind := .crewImage, len := len, own := none } with
      | none => none
      | some (off, s7) =>
        let img := { img with off := off, len := len }
        some ((s7.zoneWrite w.home off (s7.crewBytes w1 img)).modCrew c fun w => { w with place := .stored img, leaving := false })

/-- The crews on the cores of a stack in the order of R35: latest launch first, then highest index. -/
def State.crewOrder (s : State) (home : Nat) : List (Nat × Crew) :=
  let key (e : Nat × Crew) : Nat × Nat := (match spFind e.2.launch s.launches with | some la => la.seq | none => 0, e.2.index)
  sortBy (fun a b => decide ((key b).1 < (key a).1) || ((key a).1 == (key b).1 && decide ((key b).2 < (key a).2)))
    (s.crews.filter fun e => e.2.home == home && (match e.2.place with | .core _ => true | .stored _ => false))

/-- The state after the first of some crews, in their order, leaves its core (R35): one that may not be stored yet is leaving from now on;
one whose image does not fit stays in place, and the next one is taken. -/
def State.storeNext (s : State) : List (Nat × Crew) → State
  | [] => s
  | (c, w) :: rest =>
    if !s.crewStill w then (if w.leaving then s else (s.modCrew c fun w => { w with leaving := true }).bump)
    else match s.storeCrew c w with
      | some s1 => s1.bump
      | none => (s.modCrew c fun w => { w with leaving := false }).storeNext rest

/-- The crews of a stack that have to leave their cores, in the order of R35: those on withdrawn cores, or all for an image that has waited
262,144 cycles when no blocked knot is left (R35, R332). -/
def State.leavers (s : State) (home : Nat) : List (Nat × Crew) :=
  let all := s.crewOrder home
  let gone := all.filter fun e => match e.2.place with | .core c => (s.stk home).withdrawn.contains c | .stored _ => false
  if !gone.isEmpty then gone
  else if s.starved home 262144 && (s.nextIdle home).isNone then all
  else []

/-- The state in which no crew of a stack is leaving. -/
def State.stayAll (s : State) (home : Nat) : State :=
  { s with crews := spMap (fun _ w => if w.home = home then { w with leaving := false } else w) s.crews }

/-- CREW_SWITCH_OUT: the latest crew that has to leave stops its engine at its units and goes to its stack's landing zone; the one that is
leaving goes on first (R35, R300, R332). -/
def execCrewSwitchOut (home : Nat) (s : State) : Out :=
  event <|
    if !s.open? home then s
    else
      let all := s.leavers home
      match all.dropWhile fun e => !e.2.leaving with
      | (c, w) :: rest => if s.crewStill w then ((s.storeNext ((c, w) :: rest)).bump) else s
      | [] => if (s.crewOrder home).any (·.2.leaving) then (s.stayAll home).bump else s.storeNext all

/-- Whether the word at a movement processor's PC is an MPWAIT. -/
def State.atMpwait (s : State) (m : Mover) : Bool :=
  match decode (spGet 0 s.heap.words (m.pc.toNat / 4)) with
  | .ok (.mpwait _) => true
  | _ => false

/-- Whether a movement processor lets its engines go (R240). -/
def State.moverDone (s : State) (e : Engine) : Bool :=
  match e.mover.run with
  | .ended => true
  | .stopped => e.mover.reported
  | .running => e.mover.wait && e.mailbox.isEmpty && e.mover.pending.isNone && s.atMpwait e.mover

/-- ENGINE_RELEASE: the engines of a crew whose knots have all ended are released, and the crew with them (R240). -/
def execEngineRelease (crew : Nat) (s : State) : Out :=
  event <|
    match spFind crew s.crews with
    | none => s
    | some w =>
      match w.engine with
      | none => s
      | some e => if w.allEnded && e.copies.isEmpty && s.moverDone e then (s.removeCrew crew).bump else s

end Sys2Proof.Machine
end

