-- ==== Sys2Proof/Machine/Launches.lean ====
section
/-! DEFINITION. Launch records, the distribution and placement of knots, crews and tasks, stealing, completion (spec/15 R247 to
R264, spec/01 R16, R17, R34, R36, spec/17 R295). -/
namespace Sys2Proof.Machine

/-- A little-endian field of a list of bytes. -/
def fieldAt (bs : List Byte) (off n : Nat) : Nat := natOfBytes (sub bs off n)

/-- Whether a range of bytes is zero. -/
def zeroAt (bs : List Byte) (off n : Nat) : Bool := (sub bs off n).all (· == 0)

/-- A region entry that is VALID (R250). -/
def regionOf (v : Nat) : Region :=
  { start := v % 2097152, length := v / 2097152 % 2097152, plane := v / 2 ^ 42 % 2 == 1, rule := v / 2 ^ 43 % 4
    clear := v / 2 ^ 45 % 2 == 1 }

/-- Whether a region entry is legal: all zero when VALID is 0; reserved bits zero, and RULE and INIT zero when flat (R250). -/
def regionEntryOk (v : Nat) : Bool :=
  if v / 2 ^ 63 = 0 then v == 0
  else v / 2 ^ 46 % 2 ^ 17 == 0 && ((regionOf v).plane || ((regionOf v).rule == 0 && !(regionOf v).clear))

/-- The regions of a launch record by number. -/
def regionsOf (bs : List Byte) : Sparse Region :=
  ((List.range 16).map fun i => (i, fieldAt bs (160 + 8 * i) 8)).filterMap fun e => if e.2 / 2 ^ 63 = 1 then some (e.1, regionOf e.2) else none

/-- The fields that a launch keeps of its record (R249). -/
def recordOf (bs : List Byte) : LaunchRec :=
  { kernel := fieldAt bs 0 4
    movement := if fieldAt bs 4 4 = 4294967295 then none else some (fieldAt bs 4 4)
    nknots := fieldAt bs 8 4, width := fieldAt bs 12 2, alloc := fieldAt bs 14 2, pad := fieldAt bs 16 4
    crew := fieldAt bs 20 1, prio := fieldAt bs 21 1, place := fieldAt bs 22 1, mode := BitVec.ofNat 5 (fieldAt bs 23 1)
    args := (List.range (fieldAt bs 24 1)).map fun i => BitVec.ofNat 64 (fieldAt bs (96 + 8 * i) 8)
    base := BitVec.ofNat 64 (fieldAt bs 40 8), stride := BitVec.ofNat 64 (fieldAt bs 48 8)
    compl := BitVec.ofNat 64 (fieldAt bs 72 8)
    regions := regionsOf bs
    barcnt := (List.range 80).map fun i => fieldAt bs (288 + 2 * i) 2 }

/-- The parent brood that a record names (R249). -/
def broodField (bs : List Byte) : DWord := BitVec.ofNat 64 (fieldAt bs 32 8)

/-- Whether an entry is that of a bound function of a kind (R251). -/
def HeapSt.isKind (h : HeapSt) (entry : Nat) (kind : FnKind) : Bool := (spFind entry h.fns).any fun f => f.kind == kind

/-- Whether two regions are apart. -/
def Region.apart (a b : Region) : Bool := decide (a.start + a.length ≤ b.start) || decide (b.start + b.length ≤ a.start)

/-- Whether every pair of some regions is apart. -/
def allApart : List Region → Bool
  | [] => true
  | r :: rs => rs.all r.apart && allApart rs

/-- The checks of R81 on the regions of a record. -/
def LaunchRec.regionsOk (r : LaunchRec) : Bool :=
  let rs := r.regions.map (·.2)
  rs.all (fun x => x.start % 64 == 0 && x.length % 64 == 0 && decide (64 ≤ x.length) && decide (x.start + x.length ≤ r.pad)) &&
    allApart rs && decide (r.pad + rs.foldl (fun n x => if x.plane then n + x.length else n) 0 ≤ Config.padBytes)

/-- The checks of R251 on a record taken from the queue of a priority, its node table aside. A NODETAB that is no multiple of 32 is
refused also while NNODES is 0 (log 36, DESIGN CHOICE: R249 asks the alignment, R251 launches such a record unread). -/
def recordOk (hp : HeapSt) (prio : Nat) (bs : List Byte) : Bool :=
  let r := recordOf bs
  zeroAt bs 25 7 && zeroAt bs 68 4 && zeroAt bs 80 16 && zeroAt bs 448 64 &&
    decide (1 ≤ r.nknots) && decide (r.nknots ≤ 16777216) && decide (1 ≤ r.width) && decide (r.width ≤ 1024) &&
    decide (32 ≤ r.alloc) && decide (r.alloc ≤ 256) && r.alloc % 8 == 0 && r.pad % 64 == 0 && decide (r.crew ≤ 16) &&
    (r.crew != 0 || (r.pad == 0 && r.movement.isNone)) && (r.crew == 0 || r.nknots % r.crew == 0) && r.prio == prio &&
    decide (r.place < 3) && decide (fieldAt bs 23 1 < 32) && decide (fieldAt bs 24 1 ≤ 8) &&
    ((List.range 16).all fun i => regionEntryOk (fieldAt bs (160 + 8 * i) 8)) && r.regionsOk &&
    hp.isKind r.kernel .kernel && (r.movement.all fun m => hp.isKind m .movement) && r.compl.toNat % 8 == 0 &&
    decide (fieldAt bs 64 4 < 65536) && fieldAt bs 56 8 % 32 == 0 && (fieldAt bs 64 4 == 0 || fieldAt bs 56 8 != 0)

/-- The launch unit's translations are held by no TLB (R254, R323). -/
def launchUnit : Nat := 1048576

/-- The bytes of one entry of a node table; none when it cannot be read (R251, R260). -/
def State.nodeBytes (s : State) (regs : KnotRegs) (m : Nat) (va : DWord) : Option (List Byte) :=
  match s.translate launchUnit regs false m 32 { rd := true, w := false } va with
  | .error _ => none
  | .ok t => if s.mem.poisoned t.pa 32 then none else some (s.readMem t.key t.pa 32)

/-- The entries of a node table in order; none when one cannot be read. -/
def State.nodeTable (s : State) (regs : KnotRegs) (m : Nat) (va : DWord) : Nat → Option (List (List Byte))
  | 0 => some []
  | n + 1 =>
    match s.nodeBytes regs m va with
    | none => none
    | some b => (s.nodeTable regs m (va + 32) n).map (b :: ·)

/-- A node entry's fields (R260). -/
def nodeOf (bs : List Byte) : NodeEnt :=
  { entry := fieldAt bs 0 4, kind := fieldAt bs 4 1 % 4, home := fieldAt bs 5 1, prio := fieldAt bs 6 1, recsz := fieldAt bs 7 1
    width := fieldAt bs 8 2, alloc := fieldAt bs 10 2, coalesce := fieldAt bs 12 2
    handler := if fieldAt bs 14 2 = 65535 then none else some (fieldAt bs 14 2)
    timer := fieldAt bs 16 4, count := fieldAt bs 20 4, arg := BitVec.ofNat 64 (fieldAt bs 24 8) }

/-- The kind of an entry of a node table. -/
def kindAt (tab : List (List Byte)) (i : Nat) : Nat := fieldAt (tab.getD i []) 4 1

/-- The checks of R260 on one entry of a table. -/
def nodeOk (c : Strap) (hp : HeapSt) (tab : List (List Byte)) (bs : List Byte) : Bool :=
  let n := nodeOf bs
  let kind := fieldAt bs 4 1
  kind == 0 ||
    (decide (kind < 3) && hp.isKind n.entry .kernel && decide (n.home < c.stackCount) && decide (n.prio < 8) &&
      decide (32 ≤ n.alloc) && decide (n.alloc ≤ 256) && n.alloc % 8 == 0 &&
      (n.handler.all fun i => kindAt tab i == 2) &&
      (if kind = 1 then
        decide (n.recsz < 3) && n.width == 0 && decide (1 ≤ n.coalesce) && decide (n.coalesce ≤ 1024) && n.count == 0
      else n.recsz == 0 && decide (1 ≤ n.width) && decide (n.width ≤ 1024) && n.coalesce == 0))

/-- The nodes of a launch as it begins: counters whose COUNT is 0 are spent (R260, R262). -/
def nodesOf (tab : List (List Byte)) : Sparse Node :=
  (tab.zipIdx.map fun e => (e.2, nodeOf e.1)).filterMap fun e =>
    if e.2.kind = 0 then none
    else some (e.1, { ent := e.2, counter := e.2.count, spent := e.2.kind == 2 && e.2.count == 0, abandoned := false, batches := [] })

/-- Whether the read of a node table must wait: the walk of an entry's address, or the entry, is at a halted stack (R304, R322). -/
def State.tableStalled (s : State) (regs : KnotRegs) (m : Nat) (bs : List Byte) : Bool :=
  (List.range (fieldAt bs 64 4)).any fun i =>
    let va := BitVec.ofNat 64 (fieldAt bs 56 8 + 32 * i)
    s.walkStalled (s.accessReads launchUnit regs va) ||
      (match s.translate launchUnit regs false m 32 { rd := true, w := false } va with
      | .ok t => (s.stk (homeOf t.pa)).halted
      | .error _ => false)

/-- The state after the read of a node table has recalled the lines that it touches (R322, R327). -/
def State.tablePull (s : State) (regs : KnotRegs) (m : Nat) (bs : List Byte) : State :=
  (List.range (fieldAt bs 64 4)).foldl (fun (s : State) i =>
    let va := BitVec.ofNat 64 (fieldAt bs 56 8 + 32 * i)
    let s1 := s.walked (s.accessReads launchUnit regs va)
    match s1.translate launchUnit regs false m 32 { rd := true, w := false } va with
    | .ok t => s1.pull t.pa 32
    | .error _ => s1) s

/-- The nodes of a record; none when R251 refuses it. -/
def State.nodesFor (s : State) (regs : KnotRegs) (m : Nat) (bs : List Byte) : Option (Sparse Node) :=
  if fieldAt bs 64 4 = 0 then some []
  else match s.nodeTable regs m (BitVec.ofNat 64 (fieldAt bs 56 8)) (fieldAt bs 64 4) with
    | none => none
    | some tab => if tab.all (nodeOk s.strap s.heap tab) then some (nodesOf tab) else none

/-- The state after a completion word that could not be written is counted in a queue's header (R251, R254). -/
def State.countError (s0 : State) (header seq : Nat) : State :=
  let s := s0.pull header 64
  (s.writeRaw (header + 32) (bytesOfNat (s.readRawNat (header + 32) 8 + 1) 8)).writeRaw (header + 40) (bytesOfNat seq 8)

/-- Whether the write of a completion word must wait: the walk of its address, or the word, is at a halted stack (R304, R322). -/
def State.completeStalled (s : State) (regs : KnotRegs) (m : Nat) (compl : DWord) : Bool :=
  compl != 0 && compl.toNat % 8 == 0 &&
    (s.walkStalled (s.accessReads launchUnit regs compl) ||
      (match s.translate launchUnit regs false m 8 { rd := false, w := true } compl with
      | .ok t => (s.stk (homeOf t.pa)).halted
      | .error _ => false))

/-- The state after the completion word of a launch is written (R254). -/
def State.complete (s : State) (regs : KnotRegs) (m header seq : Nat) (compl : DWord) (status : Nat) : State :=
  if compl = 0 then s
  else if compl.toNat % 8 ≠ 0 then s.countError header seq
  else
    let s1 := s.walked (s.accessReads launchUnit regs compl)
    match s1.translate launchUnit regs false m 8 { rd := false, w := true } compl with
    | .error _ => s1.countError header seq
    | .ok t =>
      let s2 := s1.recall true t.pa 8
      if s2.mem.poisoned t.pa 8 then s2.countError header seq
      else s2.writeMem t.key t.pa (bytesOfNat (seq % 4294967296 * 4294967296 + status) 8)

/-- The address that ANCHOR distribution takes a launch index by (R257). -/
def Launch.anchor (la : Launch) (i : Nat) : DWord := la.what.base + BitVec.ofNat 64 i * la.what.stride

/-- The table entries that finding the stack of a launch index reads (R257, R322). -/
def State.anchorReads (s : State) (la : Launch) (i : Nat) : List Nat :=
  if la.what.place = 1 then s.accessReads launchUnit la.regs (la.anchor i) else []

/-- The stack within its module that the launch's index goes to (R257). -/
def State.stackFor (s : State) (la : Launch) (i : Nat) : Nat :=
  let n := s.strap.stackCount
  if la.what.place = 1 then
    match s.homeCode launchUnit la.regs la.module (la.anchor i) with
    | some h => if h ≠ Config.hostHome && h / 16 = la.module then h % 16 else i % n
    | none => i % n
  else i % n

/-- Indices of a stack from `i` on: at most `room`, where the search stopped, and the state after its walks; crews take their indices
together (R256). It stops at an index whose walk is at a halted stack (R304, R322). -/
def State.indicesFor (s : State) (la : Launch) (st : Nat) : Nat → Nat → Nat → List Nat × Nat × State
  | 0, _, i => ([], i, s)
  | fuel + 1, room, i =>
    let step := max 1 la.what.crew
    let s1 := s.walked (s.anchorReads la i)
    if la.what.nknots ≤ i || s.walkStalled (s.anchorReads la i) then ([], i, s)
    else if s1.stackFor la i ≠ st then s1.indicesFor la st fuel room (i + step)
    else if room < step then ([], i, s1)
    else
      let (is, j, s2) := s1.indicesFor la st fuel (room - step) (i + step)
      (i :: is, j, s2)

/-- The indices that work stands for. -/
def Work.size (w : Work) (crew : Nat) : Nat :=
  match w.kind with
  | .knots is => is.length
  | .crew _ => crew
  | _ => 1

/-- The size of crews of a launch. -/
def State.crewSize (s : State) (l : Nat) : Nat := match spFind l s.launches with | some la => la.what.crew | none => 0

/-- The free knot slots of a stack. -/
def State.stackSlots (s : State) (home : Nat) : Nat :=
  (List.range Config.coresPerStack).foldl (fun n c => n + s.freeSlots home c) 0

/-- The unplaced launch indices of a stack. -/
def State.unplaced (s : State) (home : Nat) : Nat :=
  ((s.stk home).work.filter Work.own).foldl (fun n w => n + w.size (s.crewSize w.launch)) 0

/-- The work that indices of a launch become: one batch, or their crews. -/
def batchWork (l : Nat) (la : Launch) (cycle batch : Nat) (is : List Nat) : List Work :=
  let mk (k : WorkKind) : Work := 
    { launch := l, prio := la.what.prio, any := la.what.place == 2, cycle := cycle, order := 0, batch := batch, kind := k }
  if is.isEmpty then []
  else if la.what.crew = 0 then [mk (.knots is)]
  else is.map fun i => mk (.crew (i / la.what.crew))

/-- The state after a stack's distributor receives a batch of the launch that its module is handing out (R256): at most 64
indices, and no more than its free slots. -/
def State.handOut (s : State) (home : Nat) : State :=
  let m := moduleOf home
  match (s.mod m).current with
  | none => s
  | some l =>
    match spFind l s.launches with
    | none => s
    | some la =>
      if la.cancelled then s
      else
        let room := min 64 (s.stackSlots home - s.unplaced home)
        let (is, j, s1) := s.indicesFor la (home % 16) la.what.nknots room (spGet 0 la.handed (home % 16))
        let (b, s2) := s1.newId
        ((batchWork l la (s.stk home).cycles b is).foldl (fun (s : State) w => s.addWork home w) s2).modLaunch l fun la =>
          { la with handed := spPut (home % 16) j la.handed }

/-- The state after the launch unit is free when its record has been handed out whole (R248). -/
def State.handedOut (s : State) (m : Nat) : State :=
  match (s.mod m).current with
  | none => s
  | some l =>
    match spFind l s.launches with
    | none => s.setMod m fun x => { x with current := none }
    | some la =>
      if la.cancelled || la.allHanded s.strap.stackCount then s.setMod m fun x => { x with current := none } else s

/-- The registered queue that the launch unit takes from: the highest priority with HEAD below TAIL (R248). -/
def State.nextQueue (s : State) (m : Nat) : Option (Nat × QueueReg) :=
  ((s.mod m).queues.reverse).find? fun q => decide (s.readRawNat (q.2.header + 24) 8 < s.readRawNat (q.2.header + 16) 8)

/-- The state after counters whose COUNT is 0 are released as a launch begins, in ascending node index (R262). -/
def State.releaseZero (s : State) (l : Nat) (la : Launch) : State :=
  (la.nodes.filter fun e => e.2.spent).foldl (fun (s : State) e => s.releaseTask l la e.1 e.2 la.brood []) s

/-- The state after a record that passed its checks is launched (R248, R249, R260). -/
def State.launch (s : State) (m seq : Nat) (q : QueueReg) (bs : List Byte) (nodes : Sparse Node) : State :=
  let (l, s1) := s.newId
  let parent := broodField bs
  let (brood, s2) := match s.brood? parent with
    | some b => s1.newBrood (some parent.toNat) (b.depth + 1) b.root
    | none => s1.newBrood none 0 l
  let la : Launch :=
    { module := m, queue := q.header, seq := seq, what := recordOf bs, regs := q.regs, brood := brood, nodes := nodes
      handed := [], ownEnded := false, killed := false, moveFault := false, cancelled := false }
  let s3 := { s2 with launches := spPut l la s2.launches }
  let s4 := (s3.setMod m fun x => { x with current := some l }).releaseZero l la
  ((s.strap.homesOf m).foldl State.handOut s4).handedOut m

/-- The state after the launch unit of a module has read the headers of its queues: lines that the host holds modified are recalled
(R248, R327). -/
def State.pullQueues (s : State) (m : Nat) : State := (s.mod m).queues.foldl (fun (s : State) q => s.pull q.2.header 64) s

/-- LAUNCH_RECORD_TAKE: the launch unit takes one record, and refuses it, completes it cancelled, or launches it (R248, R251). What it
reads or writes through page tables at a halted stack it waits for (R304). -/
def execLaunchRecordTake (module : Nat) (s : State) : Out :=
  event <|
    if !s.strap.hasModule module || (s.mod module).preempt ≠ .running || (s.mod module).current.isSome then s
    else match (s.pullQueues module).nextQueue module with
      | none => s
      | some (prio, q) =>
        let s0 := s.pullQueues module
        let head := s0.readRawNat (q.header + 24) 8
        let slot := q.base + head % q.slots * 512
        let s1 := s0.pull slot 512
        let bs := s1.readRaw slot 512
        let compl := (recordOf bs).compl
        let seq := (s.mod module).seq + 1
        let parent := broodField bs
        let legal := recordOk s.heap prio bs && (parent == 0 || (s.brood? parent).any fun b => decide (b.depth < 255))
        if s1.completeStalled q.regs module compl || (legal && s1.tableStalled q.regs module bs) then s
        else
          let s2 := (s1.writeRaw (q.header + 24) (bytesOfNat (head + 1) 8)).setMod module fun x => { x with seq := seq }
          if !legal then (s2.complete q.regs module q.header seq compl 3).bump
          else
            let s3 := s2.tablePull q.regs module bs
            match s3.nodesFor q.regs module bs with
            | none => (s3.complete q.regs module q.header seq compl 3).bump
            | some nodes =>
              if parent ≠ 0 && s.cancelledBrood parent then (s3.complete q.regs module q.header seq compl 2).bump
              else (s3.launch module seq q bs nodes).bump

/-- The core for a knot that asks for a grant, and the grant that it gets: the lowest core that gives it all, otherwise the one
that gives most (R17); `exact` takes only a core that gives it all (R263). -/
def State.coreGrant (s : State) (home want alloc : Nat) (exact : Bool) : Option (Nat × Nat) :=
  let offers := (List.range Config.coresPerStack).filterMap fun c =>
    let g := min want (offered (s.freeRegs home c) 1 alloc)
    if s.coreHas home c 0 && decide (32 ≤ g) then some (c, g) else none
  match offers.find? fun e => e.2 == want with
  | some e => some e
  | none => if exact then none else leastBy (fun e => want - e.2) offers

/-- A knot to be placed: what its work gives it. -/
structure NewKnot where
  entry : Nat
  want : Nat
  alloc : Nat
  exact : Bool
  lanes : Option Nat
  knotId : Nat
  nknots : Nat
  brood : DWord
  node : Option Nat
  handling : Option Nat
  super : Bool
  scals : List (Nat × DWord)
  records : List (List Word)

/-- The control state of a path as its knot is placed: every register dead but the preloads (R24, R252, R261, R263). -/
def newCtx (entry : Nat) (mode : BitVec 5) (mask : Mask) (scals : List (Nat × DWord)) (vecs : Nat) (stamp : DWord) : Ctx :=
  { mask := mask, pc := BitVec.ofNat 48 entry, wrapped := false, fn := entry, base := 0, frames := []
    scal := scals, vst := (List.range vecs).map fun i => (i, .full), sst := scals.map fun e => (e.1, .full), pst := []
    mode := mode, fpstat := 0, posts := List.replicate 8 .free, ponds := [], pushed := [], stamp := stamp
    wd := 0, sent := 0 }

/-- A path as its knot is placed: it has not issued, and so counts as longest without issuing (R52, log 36, DEDUCED). -/
def newPath (knot home : Nat) (place : Place) (super : Bool) (c : Ctx) : Path :=
  { knot := knot, home := home, place := place, ctx := c, hints := .none, super := super, entry := none, flights := []
    faults := [], pend := .none, halt := .running, trapHeld := [], wait := none, blockedAt := none, blockedCycle := 0
    lastIssue := 0 }

/-- A knot as it is placed. -/
def newKnot (l : Nat) (la : Launch) (knotId nknots grant alloc : Nat) (brood : DWord) (crew : Option (Nat × Nat))
    (vregs : Sparse (List Word)) : Knot :=
  { launch := l, module := la.module, knotId := knotId, nknots := nknots, grant := grant, alloc := alloc, brood := brood
    crew := crew, node := none, handling := none, regs := la.regs, vregs := vregs, preds := [], insts := []
    batch := 0, accs := [], baras := [], tag := 0, serving := false, reserved := if crew.isSome then 0 else reservation grant alloc, unseen := [] }

/-- The first registers of a clutch task: word `w` of record `i` in lane `i` of v[w] (R263). -/
def recordRegs (records : List (List Word)) : Sparse (List Word) :=
  (List.range ((records.head?.map List.length).getD 0)).map fun w => (w, records.map fun r => r.getD w 0)

/-- Where a knot to be placed sits: core, grant, seat; none when no core takes it or its reservation does not fit (R17, R36). -/
def State.placeFor (s : State) (home : Nat) (la : Launch) (n : NewKnot) : Option (Nat × Seat) :=
  match s.coreGrant home n.want n.alloc n.exact with
  | none => none
  | some (core, g) =>
    if s.poolHas la.module (reservation g n.alloc) then (s.seatOn home core).map fun seat => (g, seat) else none

/-- The state after a knot is placed on a seat with its grant. -/
def State.putKnot (s : State) (home l : Nat) (la : Launch) (n : NewKnot) (g : Nat) (seat : Seat) : State :=
  let (kn, s1) := s.newId
  let (u, s2) := s1.newId
  let k := { newKnot l la n.knotId n.nknots g n.alloc n.brood none (recordRegs n.records) with node := n.node, handling := n.handling }
  let c := newCtx n.entry la.what.mode (maskBelow (n.lanes.getD g)) n.scals ((n.records.head?.map List.length).getD 0)
    n.brood
  { s2 with knots := spPut kn k s2.knots, paths := spPut u (newPath kn home (.resident seat) n.super c) s2.paths }

/-- The arguments of a launch in s1 upward (R252). -/
def LaunchRec.preload (r : LaunchRec) : List (Nat × DWord) := r.args.zipIdx.map fun e => (e.2 + 1, e.1)

/-- The knot that a launch index becomes (R249, R252). -/
def launchKnot (la : Launch) (i : Nat) : NewKnot :=
  { entry := la.what.kernel, want := requestedGrant la.what.width, alloc := la.what.alloc, exact := false, lanes := none, knotId := i
    nknots := la.what.nknots, brood := la.brood, node := none, handling := none, super := false, scals := la.what.preload
    records := [] }

/-- The knot that a node task becomes (R261 to R263). -/
def taskKnot (n : Nat) (e : NodeEnt) (stamp : DWord) (records : List (List Word)) : NewKnot :=
  { entry := e.entry, want := if e.kind = 1 then roundUp records.length 32 else requestedGrant e.width, alloc := e.alloc
    exact := e.kind == 1, lanes := if e.kind = 1 then some records.length else none, knotId := 0, nknots := 1, brood := stamp
    node := some n, handling := none, super := false
    scals := [(1, e.arg), (2, BitVec.ofNat 64 n)] ++ (if e.kind = 1 then [(3, BitVec.ofNat 64 records.length)] else [])
    records := records }

/-- The knot that a handler task becomes (R295). -/
def handlerKnot (n : Nat) (e : NodeEnt) (brood : DWord) (path : Nat) (image record : DWord) : NewKnot :=
  { taskKnot n e brood [] with
    handling := some path, super := true, scals := [(1, e.arg), (2, BitVec.ofNat 64 n), (3, image), (4, record)] }

/-- The state after the work at the head of a stack's order has given up its first index, or is done. -/
def State.popWork (s : State) (home : Nat) : State :=
  s.setStk home fun t =>
    { t with work := match t.work with
        | [] => []
        | w :: ws =>
          match w.kind with
          | .knots (_ :: i :: is) => { w with kind := .knots (i :: is) } :: ws
          | _ => ws }

/-- The brood under which a handler task runs: that of the faulting knot (R295). -/
def State.handledBrood (s : State) (path : Nat) (la : Launch) : DWord :=
  match s.here path with
  | some h => h.k.brood
  | none => la.brood

/-- The knot that work at the head of the order becomes; none for a crew. -/
def State.nextKnot (s : State) (la : Launch) (w : Work) : Option NewKnot :=
  match w.kind with
  | .knots [] => none
  | .knots (i :: _) => some (launchKnot la i)
  | .crew _ => none
  | .task n stamp records => (spFind n la.nodes).map fun nd => taskKnot n nd.ent stamp records
  | .handler n path image record =>
    (spFind n la.nodes).map fun nd => handlerKnot n nd.ent (s.handledBrood path la) path image record

/-- KNOT_PLACEMENT: the first unplaced knot of a stack, in the order of R258, is placed when a core has room and no image waits to
resume (R17, R34, R36). -/
def execKnotPlacement (home : Nat) (s : State) : Out :=
  event <|
    if !s.open? home || s.anyParked home then s
    else
      let s0 := (s.handOut home).handedOut (moduleOf home)
      match (s0.stk home).work with
      | [] => s0
      | w :: _ =>
        match spFind w.launch s0.launches with
        | none => (s0.popWork home).bump
        | some la =>
          match s0.nextKnot la w with
          | none => s0
          | some n =>
            match s0.placeFor home la n with
            | none => s0
            | some (g, seat) => ((s0.popWork home).putKnot home w.launch la n g seat).bump

/-- The grant that a core offers the crews of a launch: none when it cannot take one (R17, R217). -/
def State.crewOffer (s : State) (home : Nat) (la : Launch) (core : Nat) : Option Nat :=
  let c := la.what.crew
  let g := min (requestedGrant la.what.width) (offered (s.freeRegs home core) c la.what.alloc)
  let pad := la.what.pad + la.what.regions.foldl (fun n e => if e.2.plane then n + e.2.length else n) 0
  if decide (c ≤ s.freeSlots home core) && decide (c ≤ s.freeEntries home core) && decide (32 ≤ g) &&
      s.padRoom home core pad la.what.movement.isSome then some g else none

/-- The core for a crew and its grant (R17). -/
def State.crewCore (s : State) (home : Nat) (la : Launch) : Option (Nat × Nat) :=
  let offers := (List.range Config.coresPerStack).filterMap fun c => (s.crewOffer home la c).map fun g => (c, g)
  match offers.find? fun e => e.2 == requestedGrant la.what.width with
  | some e => some e
  | none => leastBy (fun e => requestedGrant la.what.width - e.2) offers

/-- The engine of a crew as it is placed: its movement program at the first word, the arguments in g1 upward (R236, R240,
R252). -/
def newEngine (la : Launch) (movement : Nat) : Engine :=
  { tiles := [], cfgs := [], fmt := none, latch := none, accs := [], accQueue := [], queue := [], begun := [], words := []
    handles := [], mailbox := []
    mover := { pc := BitVec.ofNat 48 movement, wrapped := false, fn := movement, g := la.what.preload, stack := [], hints := .none
               run := .running, fault := none, pending := none, reported := false, ptbase := la.regs.ptbase, asid := la.regs.asid
               keysel := la.regs.keysel, window := la.regs.window, wait := false, blockedAt := none, unseen := [], list := [] }
    copies := [] }

/-- The state after the knots of a crew are placed one slot after another. -/
def State.putCrew (s : State) (home core l c : Nat) (la : Launch) (idx g : Nat) : Nat → State
  | 0 => s
  | n + 1 =>
    let s1 := s.putCrew home core l c la idx g n
    match s1.seatOn home core with
    | none => s1
    | some seat =>
      let (kn, s2) := s1.newId
      let (u, s3) := s2.newId
      let k := newKnot l la (idx * la.what.crew + n) la.what.nknots g la.what.alloc la.brood (some (c, n)) []
      let ctx := newCtx la.what.kernel la.what.mode (maskBelow g) la.what.preload 0 la.brood
      ({ s3 with knots := spPut kn k s3.knots
                 paths := spPut u (newPath kn home (.resident seat) false ctx) s3.paths }).modCrew c fun w =>
        { w with members := w.members ++ [kn] }

/-- CREW_PLACEMENT: the crew at the head of a stack's order is placed whole on one core (R13, R17, R217). -/
def execCrewPlacement (home : Nat) (s : State) : Out :=
  event <|
    if !s.open? home || s.anyParked home then s
    else
      let s0 := (s.handOut home).handedOut (moduleOf home)
      match (s0.stk home).work with
      | [] => s0
      | w :: _ =>
        match w.kind, spFind w.launch s0.launches with
        | .crew idx, some la =>
          (match s0.crewCore home la with
          | none => s0
          | some (core, g) =>
            let (c, s1) := (s0.popWork home).newId
            let crew : Crew :=
              { launch := w.launch, index := idx, home := home, place := .core core, size := la.what.crew, members := [], ended := []
                padSize := la.what.pad, pad := [], next := [], regions := la.what.regions, parity := [], writers := [], arrived := []
                collided := none, decision := 0, poison := [], leaving := false, engine := la.what.movement.map (newEngine la) }
            (({ s1 with crews := spPut c crew s1.crews }).putCrew home core w.launch c la idx g la.what.crew).bump)
        | _, _ => s0

/-- The unplaced ANY indices of a stack (R259). -/
def State.anyCount (s : State) (home : Nat) : Nat :=
  ((s.stk home).work.filter fun w => w.any && w.own).foldl (fun n w => n + w.size (s.crewSize w.launch)) 0

/-- The work of the newest batch among some work: batches are numbered as they arrive. -/
def newest : List Work → Option Work
  | [] => none
  | w :: ws =>
    match newest ws with
    | none => some w
    | some x => if x.batch < w.batch then some w else some x

/-- The latest of some work, as long as its indices are at most `room`. -/
def takeLatest (crew : Nat) : Nat → List Work → List Work
  | _, [] => []
  | room, w :: ws => if w.size crew ≤ room then w :: takeLatest crew (room - w.size crew) ws else []

/-- What a victim hands over: its newest batch of unplaced ANY indices, the crews of it among them, at most 64 indices (R256, R259). -/
def State.stolen (s : State) (v : Nat) : List Work :=
  match newest ((s.stk v).work.filter fun w => w.any && w.own) with
  | none => []
  | some w =>
    let batch := (s.stk v).work.filter fun x => x.any && x.own && x.batch == w.batch
    takeLatest (s.crewSize w.launch) 64 batch.reverse

/-- STEAL_MESSAGE: an idle distributor takes the newest batch of unplaced ANY indices of the stack that has most (R259). -/
def execStealMessage (thief : Nat) (s : State) : Out :=
  event <|
    let victims := (s.strap.homesOf (moduleOf thief)).filter fun h => h != thief && decide (0 < s.anyCount h) && s.open? h
    if !s.open? thief || !(s.stk thief).work.isEmpty || s.stackSlots thief == 0 then s
    else match leastBy (fun h => 18446744073709551616 - s.anyCount h) victims with
      | none => s
      | some v =>
        let ws := s.stolen v
        if ws.isEmpty then s
        else
          let (b, s1) := s.newId
          (ws.foldl (fun (s' : State) w => s'.addWork thief { w with cycle := (s.stk thief).cycles, batch := b })
            (s1.setStk v fun t => { t with work := ws.foldl List.erase t.work })).bump

/-- Whether everything that a launch waits for is done, the posts of knots that are no more included (R254, R255). -/
def State.launchDone (s : State) (l : Nat) (la : Launch) : Bool :=
  la.ownEnded && (la.cancelled || la.allHanded s.strap.stackCount) && (s.workOf l).isEmpty && !(s.knots.any fun e => e.2.launch == l) &&
    !(s.crews.any fun e => e.2.launch == l) && !(s.flow.emits.any fun e => e.launch == l) &&
    !(s.flow.posts.any fun p => p.launch == l) &&
    la.nodes.all fun e => e.2.batches.isEmpty

/-- STATUS of a launch that is done (R254). -/
def Launch.status (la : Launch) : Nat := if la.cancelled then 2 else if la.killed then 4 else if la.moveFault then 5 else 1

/-- The state without the broods whose root launch has ended, once no launch runs under them (R271). -/
def State.pruneBroods (s : State) : State :=
  let roots := s.launches.filterMap fun e => (s.brood? e.2.brood).map (·.root)
  s.modFlow fun f => { f with broods := f.broods.filter fun e => roots.contains e.2.root || (spFind e.2.root s.launches).isSome }

/-- LAUNCH_COMPLETION: a launch whose work has all ended writes its completion word (R254). -/
def execLaunchCompletion (launch : Nat) (s : State) : Out :=
  event <|
    let s0 := s.flushLaunch launch
    match spFind launch s0.launches with
    | none => s0
    | some la =>
      if !s0.launchDone launch la || s0.completeStalled la.regs la.module la.what.compl then s0
      else
        let s1 := s0.complete la.regs la.module la.queue la.seq la.what.compl la.status
        let s2 := { s1 with launches := spDrop launch s1.launches }
        ((s2.modFlow fun f => { f with bars := f.bars.filter fun p => p.launch != launch }).pruneBroods.handedOut la.module).bump

end Sys2Proof.Machine
end

