-- ==== Sys2Proof/Machine/Integer.lean ====
section
/-! DEFINITION. The vector integer family, majors 0x01 to 0x07 (spec/09 R150 to R155). -/
namespace Sys2Proof.Machine

/-- The signed 64-bit product of two lanes. -/
def mulI32 (x y : Word) : DWord := x.signExtend 64 * y.signExtend 64
/-- The unsigned 64-bit product of two lanes. -/
def mulN32 (x y : Word) : DWord := x.setWidth 64 * y.setWidth 64

/-- A shift left by an amount; 0 from the width on (R151, R167). -/
def shiftLeft {w : Nat} (x : BitVec w) (n : Nat) : BitVec w := if w ≤ n then 0 else x <<< n
/-- A logical shift right; 0 from the width on (R151, R167). -/
def shiftRight {w : Nat} (x : BitVec w) (n : Nat) : BitVec w := if w ≤ n then 0 else x >>> n
/-- An arithmetic shift right; copies of the top bit from the width on (R151, R167). -/
def shiftSigned {w : Nat} (x : BitVec w) (n : Nat) : BitVec w :=
  if w ≤ n then (if x.msb then BitVec.allOnes w else 0) else x.sshiftRight n

/-- The number of 1 bits of a lane. -/
def popCount (x : Word) : Nat := ((List.range 32).filter fun i => x.getLsbD i).length
/-- The number of leading zero bits of a lane. -/
def leadingZeros (x : Word) : Nat := ((List.range 32).takeWhile fun i => !x.getLsbD (31 - i)).length

/-- 2^n - 1 for a length field n - 1 (R153). -/
def fieldMask (l : BitVec 5) : Word := BitVec.ofNat 32 (2 ^ (l.toNat + 1) - 1)
/-- `d` with the field of `l` + 1 bits at `p` replaced by the low bits of `a` (R153). -/
def insertField (d a : Word) (p l : BitVec 5) : Word :=
  (d &&& ~~~(fieldMask l <<< p.toNat)) ||| ((a &&& fieldMask l) <<< p.toNat)

/-- IADD: a + b (R150). -/
def execIadd (g : Guard) (d a b : VReg) (e f : Bool) : State → Out :=
  vec2 .plain g d a b e f fun _ x y => x + y

/-- ISUB: a - b (R150). -/
def execIsub (g : Guard) (d a b : VReg) (e f : Bool) : State → Out :=
  vec2 .plain g d a b e f fun _ x y => x - y

/-- IMUL: bits [31:0] of a * b (R150). -/
def execImul (g : Guard) (d a b : VReg) (e f : Bool) : State → Out :=
  vec2 .plain g d a b e f fun _ x y => x * y

/-- IMULH.I32: bits [63:32] of the signed product (R150). -/
def execImulhI32 (g : Guard) (d a b : VReg) (e f : Bool) : State → Out :=
  vec2 .plain g d a b e f fun _ x y => (mulI32 x y).hi

/-- IMULH.N32: bits [63:32] of the unsigned product (R150). -/
def execImulhN32 (g : Guard) (d a b : VReg) (e f : Bool) : State → Out :=
  vec2 .plain g d a b e f fun _ x y => (mulN32 x y).hi

/-- IMAD: a * b + d; vd is read under fe_a (R150). -/
def execImad (g : Guard) (d a b : VReg) (e f : Bool) : State → Out :=
  lanewise .plain g (fun c => [vecSource c a e, vecSource c b f, vecSource c d e]) d fun h l =>
    h.k.lane (h.p.ctx.reg a.toNat) l * h.k.lane (h.p.ctx.reg b.toNat) l + h.k.lane (h.p.ctx.reg d.toNat) l

/-- IMIN.I32: the lesser, signed (R150). -/
def execIminI32 (g : Guard) (d a b : VReg) (e f : Bool) : State → Out :=
  vec2 .plain g d a b e f fun _ x y => if x.sle y then x else y

/-- IMIN.N32: the lesser, unsigned (R150). -/
def execIminN32 (g : Guard) (d a b : VReg) (e f : Bool) : State → Out :=
  vec2 .plain g d a b e f fun _ x y => if x.ule y then x else y

/-- IMAX.I32: the greater, signed (R150). -/
def execImaxI32 (g : Guard) (d a b : VReg) (e f : Bool) : State → Out :=
  vec2 .plain g d a b e f fun _ x y => if x.sle y then y else x

/-- IMAX.N32: the greater, unsigned (R150). -/
def execImaxN32 (g : Guard) (d a b : VReg) (e f : Bool) : State → Out :=
  vec2 .plain g d a b e f fun _ x y => if x.ule y then y else x

/-- IABS: -a when a is negative, else a (R150). -/
def execIabs (g : Guard) (d a : VReg) (e : Bool) : State → Out :=
  vec1 .plain g d a e fun _ x => if x.msb then -x else x

/-- AND (R150). -/
def execAndV (g : Guard) (d a b : VReg) (e f : Bool) : State → Out :=
  vec2 .plain g d a b e f fun _ x y => x &&& y

/-- OR (R150). -/
def execOrV (g : Guard) (d a b : VReg) (e f : Bool) : State → Out :=
  vec2 .plain g d a b e f fun _ x y => x ||| y

/-- XOR (R150). -/
def execXorV (g : Guard) (d a b : VReg) (e f : Bool) : State → Out :=
  vec2 .plain g d a b e f fun _ x y => x ^^^ y

/-- ANDN: a AND NOT b (R150). -/
def execAndn (g : Guard) (d a b : VReg) (e f : Bool) : State → Out :=
  vec2 .plain g d a b e f fun _ x y => x &&& ~~~y

/-- SHL: 0 when the amount is 32 or more (R151). -/
def execShl (g : Guard) (d a b : VReg) (e f : Bool) : State → Out :=
  vec2 .plain g d a b e f fun _ x y => shiftLeft x y.toNat

/-- SHR: 0 when the amount is 32 or more (R151). -/
def execShr (g : Guard) (d a b : VReg) (e f : Bool) : State → Out :=
  vec2 .plain g d a b e f fun _ x y => shiftRight x y.toNat

/-- SAR: copies of bit 31 when the amount is 32 or more (R151). -/
def execSar (g : Guard) (d a b : VReg) (e f : Bool) : State → Out :=
  vec2 .plain g d a b e f fun _ x y => shiftSigned x y.toNat

/-- POPC: the number of 1 bits (R150). -/
def execPopc (g : Guard) (d a : VReg) (e : Bool) : State → Out :=
  vec1 .plain g d a e fun _ x => BitVec.ofNat 32 (popCount x)

/-- CLZ: leading zero bits, 32 when a is 0 (R150). -/
def execClz (g : Guard) (d a : VReg) (e : Bool) : State → Out :=
  vec1 .plain g d a e fun _ x => BitVec.ofNat 32 (leadingZeros x)

/-- BREV: bit i of the result is bit 31 - i of a (R150). -/
def execBrev (g : Guard) (d a : VReg) (e : Bool) : State → Out :=
  vec1 .plain g d a e fun _ x => x.reverse

/-- MOV (R150). -/
def execMov (g : Guard) (d a : VReg) (e : Bool) : State → Out :=
  vec1 .plain g d a e fun _ x => x

/-- LEA with shift 0: a + b (R150). -/
def execLea (g : Guard) (d a b : VReg) (e f : Bool) : State → Out :=
  vec2 .plain g d a b e f fun _ x y => x + y

/-- SEL: a where pN is true in lane l, else b; pN is read with fe = 0 (R150, R151). -/
def execSel (g : Guard) (d a b : VReg) (e f : Bool) (p : PReg) : State → Out :=
  lanewise .plain g (fun c => [vecSource c a e, vecSource c b f, predSource p false]) d fun h l =>
    if (h.k.pred p.toNat).getLsbD l then h.k.lane (h.p.ctx.reg a.toNat) l else h.k.lane (h.p.ctx.reg b.toNat) l

/-- IADD with immediate (R152). -/
def execIaddImm (g : Guard) (d a : VReg) (e : Bool) (i : BitVec 11) : State → Out :=
  vec1 { imm := .low } g d a e fun h x => x + vecImm h.p.hints i

/-- IMUL with immediate (R152). -/
def execImulImm (g : Guard) (d a : VReg) (e : Bool) (i : BitVec 11) : State → Out :=
  vec1 { imm := .low } g d a e fun h x => x * vecImm h.p.hints i

/-- SHL by immediate (R152). -/
def execShlImm (g : Guard) (d a : VReg) (e : Bool) (n : BitVec 5) : State → Out :=
  vec1 .plain g d a e fun _ x => shiftLeft x n.toNat

/-- SHR by immediate (R152). -/
def execShrImm (g : Guard) (d a : VReg) (e : Bool) (n : BitVec 5) : State → Out :=
  vec1 .plain g d a e fun _ x => shiftRight x n.toNat

/-- SAR by immediate (R152). -/
def execSarImm (g : Guard) (d a : VReg) (e : Bool) (n : BitVec 5) : State → Out :=
  vec1 .plain g d a e fun _ x => shiftSigned x n.toNat

/-- BFE: the field of `l` + 1 bits at `p`, zero-extended (R153). -/
def execBfe (g : Guard) (d a : VReg) (e : Bool) (p l : BitVec 5) : State → Out :=
  vec1 .plain g d a e fun _ x => (x >>> p.toNat) &&& fieldMask l

/-- BFI: the low bits of a inserted in d; vd is read under fe_a (R153). -/
def execBfi (g : Guard) (d a : VReg) (e : Bool) (p l : BitVec 5) : State → Out :=
  lanewise .plain g (fun c => [vecSource c a e, vecSource c d e]) d fun h k =>
    insertField (h.k.lane (h.p.ctx.reg d.toNat) k) (h.k.lane (h.p.ctx.reg a.toNat) k) p l

/-- MOVI (R152). -/
def execMovi (g : Guard) (d : VReg) (i : BitVec 11) : State → Out :=
  lanewise { imm := .low } g (fun _ => []) d fun h _ => vecImm h.p.hints i

/-- IADD64: pair a + pair b, modulo 2^64 (R154). -/
def execIadd64 (g : Guard) (d a b : VReg) (e f : Bool) : State → Out :=
  pairwise .plain g (fun c => groupSources c a.toNat 2 e ++ groupSources c b.toNat 2 f) d fun h l =>
    lanePair h.k (h.p.ctx.reg a.toNat) l + lanePair h.k (h.p.ctx.reg b.toNat) l

/-- ISUB64: pair a - pair b, modulo 2^64 (R154). -/
def execIsub64 (g : Guard) (d a b : VReg) (e f : Bool) : State → Out :=
  pairwise .plain g (fun c => groupSources c a.toNat 2 e ++ groupSources c b.toNat 2 f) d fun h l =>
    lanePair h.k (h.p.ctx.reg a.toNat) l - lanePair h.k (h.p.ctx.reg b.toNat) l

/-- IMULW.I32: the 64-bit product (R154). -/
def execImulwI32 (g : Guard) (d a b : VReg) (e f : Bool) : State → Out :=
  pairwise .plain g (fun c => [vecSource c a e, vecSource c b f]) d fun h l =>
    mulI32 (h.k.lane (h.p.ctx.reg a.toNat) l) (h.k.lane (h.p.ctx.reg b.toNat) l)

/-- IMULW.N32: the 64-bit product (R154). -/
def execImulwN32 (g : Guard) (d a b : VReg) (e f : Bool) : State → Out :=
  pairwise .plain g (fun c => [vecSource c a e, vecSource c b f]) d fun h l =>
    mulN32 (h.k.lane (h.p.ctx.reg a.toNat) l) (h.k.lane (h.p.ctx.reg b.toNat) l)

/-- LEA with shift: a + (b << s), modulo 2^32 (R154). -/
def execLeaShift (g : Guard) (d a b : VReg) (e f : Bool) (n : BitVec 2) : State → Out :=
  vec2 .plain g d a b e f fun _ x y => x + (y <<< n.toNat)

/-- ICMP: 1 in each effective lane where the condition holds, else 0 (R155). -/
def execIcmp (g : Guard) (d : PReg) (a b : VReg) (e f : Bool) (c : Cond) : State → Out :=
  predwise .plain g (fun x => [vecSource x a e, vecSource x b f]) d fun h l =>
    condHolds c (h.k.lane (h.p.ctx.reg a.toNat) l) (h.k.lane (h.p.ctx.reg b.toNat) l)

end Sys2Proof.Machine
end

