-- ==== Sys2Proof/Machine/FloatOps.lean ====
section
/-! DEFINITION. The vector floating-point family, majors 0x08 to 0x0B (spec/09 R156 to R161). -/
namespace Sys2Proof.Machine

/-- The format that HINT.FMT names, or the default (R132). -/
def hintFormat (h : Hints) (default : FloatFmt) : FloatFmt :=
  match h.fmt with
  | some .f32 => fmtF32
  | some .f16 => fmtF16
  | some .bf16 => fmtBF16
  | _ => default

/-- The environment of an instruction of a path in a format (R99, R102). -/
def envIn (h : Here) (f : FloatFmt) (r : RndField) : FpEnv :=
  { fmt := f, dir := roundingOf r h.p.ctx.mode h.p.hints, flushIn := flushIn h.p.ctx.mode,
    flushOut := flushOut h.p.ctx.mode }

/-- The environment of a non-packed instruction (R156). -/
def fpEnv (h : Here) (r : RndField) : FpEnv := envIn h (hintFormat h.p.hints fmtF32) r

/-- The OR of the flags of the effective lanes (R101). -/
def orFlags (eff : Mask) (grant : Nat) (f : Nat → FpFlags) : FpFlags := (lanesOf eff grant).foldl (fun a l => a ||| f l) 0

/-- A lane of a window register as a number; a narrower operand is its low bits (R97). -/
def operand (h : Here) (v : VReg) (l : Nat) : Nat := (h.k.lane (h.p.ctx.reg v.toNat) l).toNat

/-- The shared effect of the floating-point instructions (R158): each effective lane takes its result, FPSTAT the OR of
their flags. -/
def fpLanes (f : InstrForm) (g : Guard) (srcs : Ctx → List (RegName × Bool)) (d : VReg) (res : Here → Nat → Word × FpFlags) :
    State → Out :=
  knotOp { f with defer := true } (isNever g) fun s h => do
    let eff := effective h g
    checkSources s h.p (guardSource g :: srcs h.p.ctx)
    awaitDests s h.p eff [{ file := .vec, num := h.p.ctx.reg d.toNat }]
    let s1 := s.writeVec h.u (h.p.ctx.reg d.toNat) eff fun l => (res h l).1
    .ok ((s1.addFlags h.u (orFlags eff h.k.grant fun l => (res h l).2)).retire h.u)

/-- The form of a floating-point instruction: it may take HINT.FMT, and in major 0x0B needs HINT.RND (R102, R123). -/
def fpForm (r : RndField) : InstrForm := { fmt := true, rnd := r == .hint }

/-- The lane of a result; a narrower result has zeros above it (R97). -/
def placed (o : FpOut) : Word × FpFlags := (BitVec.ofNat 32 o.1, o.2)

/-- A function of one register. -/
def fp1 (r : RndField) (g : Guard) (d a : VReg) (e : Bool) (op : FpEnv → Nat → FpOut) : State → Out :=
  fpLanes (fpForm r) g (fun c => [vecSource c a e]) d fun h l =>
    placed (op (fpEnv h r) (operand h a l % 2 ^ (fpEnv h r).fmt.width))

/-- A function of two registers. -/
def fp2 (r : RndField) (g : Guard) (d a b : VReg) (e f : Bool) (op : FpEnv → Nat → Nat → FpOut) : State → Out :=
  fpLanes (fpForm r) g (fun c => [vecSource c a e, vecSource c b f]) d fun h l =>
    placed (op (fpEnv h r) (operand h a l % 2 ^ (fpEnv h r).fmt.width) (operand h b l % 2 ^ (fpEnv h r).fmt.width))

/-- A function of two registers and the old destination. -/
def fp3 (r : RndField) (g : Guard) (d a b : VReg) (e f : Bool) (op : FpEnv → Nat → Nat → Nat → FpOut) : State → Out :=
  fpLanes (fpForm r) g (fun c => [vecSource c a e, vecSource c b f, vecSource c d e]) d fun h l =>
    placed (op (fpEnv h r) (operand h a l % 2 ^ (fpEnv h r).fmt.width) (operand h b l % 2 ^ (fpEnv h r).fmt.width)
      (operand h d l % 2 ^ (fpEnv h r).fmt.width))

/-- Element `i` of a packed pair (R97). -/
def half (x : Word) (i : Nat) : Nat := x.toNat / 2 ^ (16 * i) % 65536

/-- A packed operation: each element on its own, the flags of both (R161). -/
def fpPair (r : RndField) (g : Guard) (srcs : Ctx → List (RegName × Bool)) (d : VReg)
    (op : FpEnv → Here → Nat → Nat → FpOut) : State → Out :=
  fpLanes { fmt := true, pair := true, rnd := r == .hint } g srcs d fun h l =>
    let c := envIn h (hintFormat h.p.hints fmtF16) r
    let lo := op c h l 0
    let hi := op c h l 1
    (BitVec.ofNat 32 (lo.1 + 65536 * hi.1), lo.2 ||| hi.2)

/-- FADD: a + b, correctly rounded (R157). -/
def execFadd (r : RndField) (g : Guard) (d a b : VReg) (e f : Bool) : State → Out :=
  fp2 r g d a b e f FpEnv.add

/-- FSUB: a - b, correctly rounded (R157). -/
def execFsub (r : RndField) (g : Guard) (d a b : VReg) (e f : Bool) : State → Out :=
  fp2 r g d a b e f FpEnv.sub

/-- FMUL: a * b, correctly rounded (R157). -/
def execFmul (r : RndField) (g : Guard) (d a b : VReg) (e f : Bool) : State → Out :=
  fp2 r g d a b e f FpEnv.mul

/-- FFMA: a * b + d, rounded once; vd is read under fe_a (R157). -/
def execFfma (r : RndField) (g : Guard) (d a b : VReg) (e f : Bool) : State → Out :=
  fp3 r g d a b e f FpEnv.fma

/-- FRCP: 1 / a, correctly rounded (R157). -/
def execFrcp (r : RndField) (g : Guard) (d a : VReg) (e : Bool) : State → Out :=
  fp1 r g d a e FpEnv.rcp

/-- FRSQ: 1 / sqrt a, faithful (R157). -/
def execFrsq (r : RndField) (g : Guard) (d a : VReg) (e : Bool) : State → Out :=
  fp1 r g d a e FpEnv.rsq

/-- FSQRT: sqrt a, correctly rounded (R157). -/
def execFsqrt (r : RndField) (g : Guard) (d a : VReg) (e : Bool) : State → Out :=
  fp1 r g d a e FpEnv.sqrt

/-- FEXP2: 2^a, faithful (R157). -/
def execFexp2 (r : RndField) (g : Guard) (d a : VReg) (e : Bool) : State → Out :=
  fp1 r g d a e FpEnv.exp2

/-- FLOG2: log2 a, faithful (R157). -/
def execFlog2 (r : RndField) (g : Guard) (d a : VReg) (e : Bool) : State → Out :=
  fp1 r g d a e FpEnv.log2

/-- FSIN: sin a, within its bound (R157). -/
def execFsin (r : RndField) (g : Guard) (d a : VReg) (e : Bool) : State → Out :=
  fp1 r g d a e fun c x => c.trig false x

/-- FCOS: cos a, within its bound (R157). -/
def execFcos (r : RndField) (g : Guard) (d a : VReg) (e : Bool) : State → Out :=
  fp1 r g d a e fun c x => c.trig true x

/-- FRINT: a rounded to an integral value (R157). -/
def execFrint (r : RndField) (g : Guard) (d a : VReg) (e : Bool) : State → Out :=
  fp1 r g d a e FpEnv.rint

/-- HADD2: per element as FADD (R161). -/
def execHadd2 (r : RndField) (g : Guard) (d a b : VReg) (e f : Bool) : State → Out :=
  fpPair r g (fun c => [vecSource c a e, vecSource c b f]) d fun c h l i =>
    c.add (half (h.k.lane (h.p.ctx.reg a.toNat) l) i) (half (h.k.lane (h.p.ctx.reg b.toNat) l) i)

/-- HMUL2: per element as FMUL (R161). -/
def execHmul2 (r : RndField) (g : Guard) (d a b : VReg) (e f : Bool) : State → Out :=
  fpPair r g (fun c => [vecSource c a e, vecSource c b f]) d fun c h l i =>
    c.mul (half (h.k.lane (h.p.ctx.reg a.toNat) l) i) (half (h.k.lane (h.p.ctx.reg b.toNat) l) i)

/-- HFMA2: per element as FFMA; vd is read under fe_a (R161). -/
def execHfma2 (r : RndField) (g : Guard) (d a b : VReg) (e f : Bool) : State → Out :=
  fpPair r g (fun c => [vecSource c a e, vecSource c b f, vecSource c d e]) d fun c h l i =>
    c.fma (half (h.k.lane (h.p.ctx.reg a.toNat) l) i) (half (h.k.lane (h.p.ctx.reg b.toNat) l) i)
      (half (h.k.lane (h.p.ctx.reg d.toNat) l) i)

/-- FMIN: minimumNumber (R104). -/
def execFmin (g : Guard) (d a b : VReg) (e f : Bool) : State → Out :=
  fp2 .mode g d a b e f fun c x y => c.minMax false x y

/-- FMAX: maximumNumber (R104). -/
def execFmax (g : Guard) (d a b : VReg) (e f : Bool) : State → Out :=
  fp2 .mode g d a b e f fun c x y => c.minMax true x y

/-- FNEG: the flush step, then the sign inverted (R98, R158). -/
def execFneg (g : Guard) (d a : VReg) (e : Bool) : State → Out :=
  fp1 .mode g d a e fun c x => (c.signOp false x, 0)

/-- FABS: the flush step, then the sign cleared (R98, R158). -/
def execFabs (g : Guard) (d a : VReg) (e : Bool) : State → Out :=
  fp1 .mode g d a e fun c x => (c.signOp true x, 0)

/-- FCLASS: the class mask; no flag (R160). -/
def execFclass (g : Guard) (d a : VReg) (e : Bool) : State → Out :=
  fp1 .mode g d a e fun c x => (c.classify x, 0)

/-- FCMP: the condition in each effective lane; only a signalling NaN sets NV (R159). -/
def execFcmp (g : Guard) (d : PReg) (a b : VReg) (e f : Bool) (c : FCond) : State → Out :=
  knotOp { fmt := true, defer := true } (isNever g) fun s h => do
    let eff := effective h g
    let res (l : Nat) := (fpEnv h .mode).cmp c (operand h a l % 2 ^ (fpEnv h .mode).fmt.width)
      (operand h b l % 2 ^ (fpEnv h .mode).fmt.width)
    checkSources s h.p [guardSource g, vecSource h.p.ctx a e, vecSource h.p.ctx b f]
    awaitDests s h.p eff [{ file := .pred, num := d.toNat }]
    let s1 := s.writePred h.u d.toNat eff (maskWhere eff h.k.grant fun l => (res l).1)
    .ok ((s1.addFlags h.u (orFlags eff h.k.grant fun l => (res l).2)).retire h.u)

end Sys2Proof.Machine
end

