-- ==== Sys2Proof/Machine/ConvertOps.lean ====
section
/-! DEFINITION. Conversions and the block formats, majors 0x0C and 0x0D (spec/05 R105 to R108, spec/09 R162 to R165). -/
namespace Sys2Proof.Machine

/-- The width and signedness of an integer type (R129). -/
def intType : TypeCode → Option (Nat × Bool)
  | .i8 => some (8, true) | .i16 => some (16, true) | .i32 => some (32, true) | .i64 => some (64, true)
  | .n8 => some (8, false) | .n16 => some (16, false) | .n32 => some (32, false) | .n64 => some (64, false)
  | _ => none

/-- The format of a floating-point type (R129). -/
def floatType : TypeCode → FloatFmt
  | .f16 => fmtF16 | .bf16 => fmtBF16 | .e4m3 => fmtE4M3 | .e5m2 => fmtE5M2 | _ => fmtF32

/-- The low `w` bits of a number as an integer. -/
def intOf (w : Nat) (signed : Bool) (x : Nat) : Int :=
  let v := x % 2 ^ w
  if signed && decide (2 ^ (w - 1) ≤ v) then (v : Int) - 2 ^ w else v

/-- The least and greatest values of an integer type. -/
def intLow (w : Nat) (signed : Bool) : Int := if signed then -(2 ^ (w - 1)) else 0
/-- The greatest value. -/
def intHigh (w : Nat) (signed : Bool) : Int := if signed then 2 ^ (w - 1) - 1 else 2 ^ w - 1

/-- The low `w` bits of an integer. -/
def intBits (w : Nat) (v : Int) : Nat := (v % 2 ^ w).toNat

/-- Integer to integer: the low bits, or under MODE[4] clamped (R95). -/
def cvtIntInt (sat : Bool) (w : Nat) (signed : Bool) (v : Int) : FpOut :=
  (intBits w (if sat then max (intLow w signed) (min (intHigh w signed) v) else v), 0)

/-- A finite value rounded into a format by a conversion, with the overflow rows of R105. -/
def cvtRound (f : FloatFmt) (dir : Dir) (flush sat : Bool) (neg : Bool) (m : Nat) (e : Int) : FpOut :=
  let r := f.round (.dir dir) flush neg m e false
  if !r.overflowed then (r.bits, r.flags)
  else if sat || !overflowsOut (.dir dir) neg then (f.max neg, flagOF ||| flagNX)
  else if f.e4m3 then (f.nan, flagNV)
  else (f.inf neg, flagOF ||| flagNX)

/-- Whether a format holds every value of another, infinities included, so that a conversion to it does not narrow
(R105, log 22, DEDUCED). -/
def widens (src dst : FloatFmt) : Bool := src = dst || (decide (src.eb ≤ dst.eb) && decide (src.mb ≤ dst.mb))

/-- Float to float (R105): to a wider format the result is exact, so MODE[3] has no part in it (R99, R163, log 42, DEDUCED). -/
def cvtFloatFloat (dst src : FloatFmt) (mode : BitVec 5) (dir : Dir) (x : Nat) : FpOut :=
  match src.value (flushIn mode) x with
  | .nan s => (dst.nan, if s then flagNV else 0)
  | .inf n =>
    if dst.e4m3 then (if saturates mode then (dst.max n, 0) else (dst.nan, flagNV))
    else if saturates mode && !widens src dst then (dst.max n, 0) else (dst.inf n, 0)
  | .num n m e => cvtRound dst dir (flushOut mode && !(src != dst && widens src dst)) (saturates mode) n m e

/-- Float to integer: rounded, then clamped whatever MODE[4]; a clamp or a NaN sets NV and no NX (R105). -/
def cvtFloatInt (w : Nat) (signed : Bool) (src : FloatFmt) (mode : BitVec 5) (dir : Dir) (x : Nat) : FpOut :=
  match src.value (flushIn mode) x with
  | .nan _ => (0, flagNV)
  | .inf n => (intBits w (if n then intLow w signed else intHigh w signed), flagNV)
  | .num n m e =>
    let r := roundAt (.dir dir) n m e false 0
    let v : Int := if n then -(r.1 : Int) else r.1
    if v < intLow w signed then (intBits w (intLow w signed), flagNV)
    else if intHigh w signed < v then (intBits w (intHigh w signed), flagNV)
    else (intBits w v, if r.2 then flagNX else 0)

/-- A conversion between two types: the bits of the result, in the width of its type (R105). -/
def convert (dst src : TypeCode) (mode : BitVec 5) (dir : Dir) (x : Nat) : FpOut :=
  match intType src, intType dst with
  | some (ws, ss), some (wd, sd) => cvtIntInt (saturates mode) wd sd (intOf ws ss x)
  | some (ws, ss), none =>
    let v := intOf ws ss x
    cvtRound (floatType dst) dir (flushOut mode) (saturates mode) (decide (v < 0)) v.natAbs 0
  | none, some (wd, sd) => cvtFloatInt wd sd (floatType src) mode dir x
  | none, none => cvtFloatFloat (floatType dst) (floatType src) mode dir x

/-- The lane value of a converted result: small signed integers are sign-extended to 32 bits (R162). -/
def placeType (t : TypeCode) (bits : Nat) : DWord :=
  match intType t with
  | some (w, true) => if w < 32 then BitVec.ofNat 64 (intBits 32 (intOf w true bits)) else BitVec.ofNat 64 bits
  | _ => BitVec.ofNat 64 bits

/-- The source value of a lane for a type: a pair for 64 bits, otherwise the lane (R162). -/
def sourceBits (h : Here) (t : TypeCode) (a : VReg) (l : Nat) : Nat :=
  if t.regs = 2 then (lanePair h.k (h.p.ctx.reg a.toNat) l).toNat else operand h a l

/-- The low bits that a source type reads (R162). -/
def typeWidth (t : TypeCode) : Nat := match intType t with | some (w, _) => w | none => (floatType t).width

/-- CVT (R162). -/
def execCvt (g : Guard) (d a : VReg) (e : Bool) (r : RndField) (t x : TypeCode) : State → Out :=
  knotOp { rnd := r == .hint, defer := true } (isNever g) fun s h => do
    let eff := effective h g
    let dst := h.p.ctx.reg d.toNat
    let res (l : Nat) := convert t x h.p.ctx.mode (roundingOf r h.p.ctx.mode h.p.hints)
      (sourceBits h x a l % 2 ^ typeWidth x)
    checkSources s h.p (guardSource g :: groupSources h.p.ctx a.toNat x.regs e)
    awaitDests s h.p eff ((List.range t.regs).map fun i => { file := .vec, num := dst + i })
    let lo := (dst, fun l => (placeType t (res l).1).lo)
    let hi := (dst + 1, fun l => (placeType t (res l).1).hi)
    let s1 := s.writeGroup h.u eff (if t.regs = 2 then [lo, hi] else [lo])
    .ok ((s1.addFlags h.u (orFlags eff h.k.grant fun l => (res l).2)).retire h.u)

/-- The lowest bit of a part (R163). -/
def partLow (t : TypeCode) (p : BitVec 2) : Nat := typeWidth t * p.toNat

/-- The full-width type on the other side of a part form (R163). -/
def partnerType (t : TypeCode) : TypeCode :=
  match t with
  | .i8 | .i16 => .i32
  | .n8 | .n16 => .n32
  | _ => .f32

/-- CVTN: converts a lane to a narrow type and writes it into a part; vd is read under fe_a (R163). -/
def execCvtn (g : Guard) (d a : VReg) (e : Bool) (r : RndField) (p : BitVec 2) (t : TypeCode) : State → Out :=
  fpLanes { rnd := r == .hint } g (fun c => [vecSource c a e, vecSource c d e]) d fun h l =>
    let o := convert t (partnerType t) h.p.ctx.mode (roundingOf r h.p.ctx.mode h.p.hints) (operand h a l)
    let field := BitVec.ofNat 32 (2 ^ typeWidth t - 1) <<< partLow t p
    ((h.k.lane (h.p.ctx.reg d.toNat) l &&& ~~~field) ||| (BitVec.ofNat 32 o.1 <<< partLow t p), o.2)

/-- CVT part form: a part widened to F32, I32 or N32, exact whatever MODE[3] (R163). -/
def execCvtPart (g : Guard) (d a : VReg) (e : Bool) (p : BitVec 2) (t : TypeCode) : State → Out :=
  fpLanes .plain g (fun c => [vecSource c a e]) d fun h l =>
    placed (convert (partnerType t) t h.p.ctx.mode .near (operand h a l / 2 ^ partLow t p % 2 ^ typeWidth t))

/-- The greatest magnitude of a block format's element, and the offset of its exponents (R108). -/
def bxMax (bx4 : Bool) : Nat := if bx4 then 3 else 63
/-- The exponent offset k of a block format (R106, R108). -/
def bxBias (bx4 : Bool) : Nat := if bx4 then 128 else 132

/-- RoundEven(|x| / 2^(E - k)) and whether it was inexact (R108). -/
def bxRound (bx4 : Bool) (v : FVal) (ex : Nat) : Nat × Bool :=
  match v with
  | .num _ m e => roundAt (.dir .near) false m e false ((ex : Int) - bxBias bx4)
  | _ => (0, false)

/-- Exponent A of a block: the least from 4 at which no magnitude rounds past the greatest, at most 254 (R108). -/
def bxExpA (bx4 : Bool) (vs : List FVal) : Nat → Nat → Nat
  | 0, a => a
  | n + 1, a => if vs.any fun v => decide (bxMax bx4 < (bxRound bx4 v a).1) then bxExpA bx4 vs n (a + 1) else a

/-- One quantised element: its bits and flags (R108). -/
def bxElement (bx4 : Bool) (a : Nat) (v : FVal) : Nat × FpFlags :=
  let qb := bxRound bx4 v (a - 4)
  let qa := bxRound bx4 v a
  let inB := decide (qb.1 ≤ bxMax bx4)
  let clamped := !inB && decide (bxMax bx4 < qa.1)
  let m := if inB then qb.1 else min qa.1 (bxMax bx4)
  let inexact := (if inB then qb.2 else qa.2) || clamped
  let nonzero := match v with | .num _ k _ => k != 0 | _ => false
  let body := m + (bxMax bx4 + 1) * ((if inB then 1 else 0) + 2 * (if v.isNeg then 1 else 0))
  (body, (if inexact then flagNX else 0) ||| (if m = 0 && nonzero then flagUF ||| flagNX else 0) |||
    (if clamped && a == 254 then flagOF ||| flagNX else 0))

/-- A quantised block: header, elements, flags (R108). -/
def bxQuantise (bx4 : Bool) (vs : List FVal) : Nat × List Nat × FpFlags :=
  if vs.any fun v => (match v with | .num _ _ _ => false | _ => true) then (65535, vs.map fun _ => 0, flagNV)
  else
    let a := bxExpA bx4 vs 250 4
    let els := vs.map (bxElement bx4 a)
    ((a - 4) * 256 + a, els.map (·.1), els.foldl (fun f x => f ||| x.2) 0)

/-- The inputs of the block of mask word `j` (R164). -/
def bxInputs (h : Here) (eff : Mask) (a : VReg) (j : Nat) : List FVal :=
  (List.range 32).map fun i =>
    if eff.getLsbD (32 * j + i) then fmtF32.value (flushIn h.p.ctx.mode) (operand h a (32 * j + i)) else .num false 0 0

/-- BXQ: one block from each mask word with an effective lane (R164). -/
def execBxq (g : Guard) (d a : VReg) (e : Bool) (t : TypeCode) : State → Out :=
  knotOp { defer := true } (isNever g) fun s h => do
    let eff := effective h g
    let blocks := (List.range 32).map fun j =>
      if eff.extractLsb' (32 * j) 32 = 0 then (0, [], 0) else bxQuantise (t == .bx4) (bxInputs h eff a j)
    checkSources s h.p [guardSource g, vecSource h.p.ctx a e]
    awaitDests s h.p eff [{ file := .vec, num := h.p.ctx.reg d.toNat }]
    let s1 := s.writeVec h.u (h.p.ctx.reg d.toNat) eff fun l =>
      let b := blocks.getD (l / 32) (0, [], 0)
      BitVec.ofNat 32 (b.2.1.getD (l % 32) 0 + 65536 * b.1)
    .ok ((s1.addFlags h.u (blocks.foldl (fun f b => f ||| b.2.2) 0)).retire h.u)

/-- The value of a block element under its header (R106). -/
def bxValue (bx4 : Bool) (el hdr : Nat) : FVal :=
  let sz := bxMax bx4 + 1
  let ex := if el / sz % 2 = 1 then hdr / 256 % 256 else hdr % 256
  if ex = 255 then .nan false else .num (el / (2 * sz) % 2 == 1) (el % sz) ((ex : Int) - bxBias bx4)

/-- BXD: the element's F32 value; MODE[3] flushes a tiny one (R165). -/
def execBxd (g : Guard) (d a : VReg) (e : Bool) (t : TypeCode) : State → Out :=
  fpLanes .plain g (fun c => [vecSource c a e]) d fun h l =>
    match bxValue (t == .bx4) (operand h a l) (operand h a l / 65536) with
    | .num n m ex =>
      let r := fmtF32.round (.dir .near) (flushOut h.p.ctx.mode) n m ex false
      placed (r.bits, r.flags)
    | _ => placed (fmtF32.nan, 0)

end Sys2Proof.Machine
end

