-- ==== Sys2Proof/Machine/MatrixOps.lean ====
section
/-! DEFINITION. The matrix unit: tiles, the queue, weights, multiplies, batches and accumulators, majors 0x36 to 0x38
(spec/13 R217 to R235, spec/05 R107 to R111). -/
namespace Sys2Proof.Machine

/-- An engine as a crew knot reaches it. -/
structure EngineHere where
  c : Nat
  w : Crew
  e : Engine
  deriving DecidableEq, Repr

/-- The engine of an engine crew's knot; any other knot raises `code` (R217). -/
def needEngine (s : State) (h : Here) (code : TrapCode) : Res EngineHere :=
  match s.crewOf h.k with
  | some (c, _, w) =>
    (match w.engine with
    | some e => .ok { c := c, w := w, e := e }
    | none => .error (.trap { code := code } s))
  | none => .error (.trap { code := code } s)

/-- An instruction of the matrix majors: the engine crew first, then its body (R224). -/
def matrixOp (never : Bool) (body : State → Here → EngineHere → Res State) : State → Out :=
  knotOp { matrix := true } never fun s h => do
    let g ← needEngine s h .matrix
    body s h g

/-- The fields of a tile configuration (R219). -/
def cfgRows (c : DWord) : Nat := (c.extractLsb' 0 7).toNat + 1
/-- Bytes per row. -/
def cfgBpr (c : DWord) : Nat := (c.extractLsb' 8 8).toNat
/-- The format code. -/
def cfgFmt (c : DWord) : Nat := (c.extractLsb' 16 4).toNat
/-- Whether the format is a block format. -/
def cfgBx (c : DWord) : Bool := cfgFmt c == 13 || cfgFmt c == 14
/-- Whether the format has 16-bit elements, read from a tile pair (R220). -/
def cfgWide (c : DWord) : Bool := cfgFmt c == 9 || cfgFmt c == 10

/-- The check of TCFG (R219, R225). -/
def cfgOk (c : DWord) : Bool :=
  c.extractLsb' 21 43 == 0 && !c.getLsbD 7 && decide (9 ≤ cfgFmt c) && decide (cfgFmt c ≤ 14) &&
    decide (16 ≤ cfgBpr c) && decide (cfgBpr c ≤ 128) && cfgBpr c % 16 == 0 &&
    (cfgFmt c != 13 || cfgBpr c % 32 == 0) && (cfgFmt c != 14 || decide (cfgBpr c ≤ 64)) && c.getLsbD 20 == cfgBx c

/-- The state after an operation of a knot joins the matrix queue (R221, R222). -/
def State.enqueue (s : State) (h : Here) (c : Nat) (kind : MatKind) : State :=
  s.modEngine c fun e => { e with queue := e.queue ++ [{ knot := h.p.knot, batch := h.k.batch + 1, kind := kind }] }

/-- The configuration of a tile as the queue leaves it (R221). -/
def Engine.cfg (e : Engine) (t : Nat) : Option DWord := spFind t e.cfgs

/-- Whether a pair of tiles holds one format and one number of rows (R220). -/
def Engine.pairOk (e : Engine) (t : Nat) (c : DWord) : Bool :=
  match e.cfg (t + 1) with
  | some d => cfgFmt c == cfgFmt d && cfgRows c == cfgRows d
  | none => false

/-- TCFG (R225). -/
def execTcfg (g : Bool) (t : Tile) (y : SReg) (e : Bool) : State → Out :=
  matrixOp g fun s h x => do
    checkSources s h.p [scalSource y e]
    let w := h.p.ctx.scalVal y.toNat
    needThat s .matrix (cfgOk w)
    .ok (((s.enqueue h x.c (.config t.toNat w)).modEngine x.c fun e => { e with cfgs := spPut t.toNat w e.cfgs }).retire h.u)

/-- The pad ranges of a tile move: elements, and headers for a block format (R226). -/
def tileRanges (c : DWord) (eb hb : Nat) : List (Nat × Nat) :=
  (eb, cfgRows c * cfgBpr c) ::
    (if cfgBx c then [(hb, cfgRows c * 2 * (if cfgFmt c = 13 then cfgBpr c / 32 else cfgBpr c / 16))] else [])

/-- The first range that breaks a check. -/
def needRange (s : State) (code : TrapCode) (ok : Nat → Nat → Bool) : List (Nat × Nat) → Res Unit
  | [] => .ok ()
  | (a, n) :: rest =>
    if ok a n then needRange s code ok rest else .error (.trap { code := code, addr := BitVec.ofNat 64 a } s)

/-- Whether a range touches a plane region (R83). -/
def Crew.touchesPlane (c : Crew) (a n : Nat) : Bool :=
  c.regions.any fun e => e.2.plane && decide (e.2.start < a + n) && decide (a < e.2.start + e.2.length)

/-- TLD and TST at issue: the checks of R224 and R226, then the queued operation. -/
def tileMove (g : Bool) (t : Tile) (y z : SReg) (e f : Bool) (kind : Nat → Nat → Nat → MatKind) : State → Out :=
  matrixOp g fun s h x => do
    checkSources s h.p [scalSource y e, scalSource z f]
    match x.e.cfg t.toNat with
    | none => .error (.trap { code := .matrix } s)
    | some c => do
      needThat s .matrix (cfgBx c || z == 0)
      let eb := (h.p.ctx.scalVal y.toNat).toNat
      let hb := (h.p.ctx.scalVal z.toNat).toNat
      let rs := tileRanges c eb hb
      needRange s .align (fun a _ => a % (if cfgBx c then 32 else 16) == 0) rs
      needRange s .bound (fun a n => decide (a + n ≤ x.w.padSize)) rs
      needRange s .plane (fun a n => !x.w.touchesPlane a n) rs
      .ok ((s.enqueue h x.c (kind t.toNat eb hb)).retire h.u)

/-- TLD (R226). -/
def execTld (g : Bool) (t : Tile) (y z : SReg) (e f : Bool) : State → Out := tileMove g t y z e f .load

/-- TST (R226). -/
def execTst (g : Bool) (t : Tile) (y z : SReg) (e f : Bool) : State → Out := tileMove g t y z e f .store

/-- TZERO (R227). -/
def execTzero (g : Bool) (t : Tile) : State → Out :=
  matrixOp g fun s h x => .ok ((s.enqueue h x.c (.zero t.toNat)).retire h.u)

/-- The type that a format code names (R129). -/
def cfgType (c : DWord) : TypeCode :=
  match cfgFmt c with
  | 9 => .f16
  | 10 => .bf16
  | 11 => .e4m3
  | 12 => .e5m2
  | 13 => .bx8
  | _ => .bx4

/-- The group of a format: 8-bit, 4-bit or 16-bit (R229). -/
def formatGroup (t : TypeCode) : Nat :=
  match t with
  | .f16 | .bf16 => 16
  | .bx4 => 4
  | _ => 8

/-- The type that an activation code names (R138). -/
def actType (k : ActType) : TypeCode :=
  match k with
  | .bf16 => .bf16
  | .f16 => .f16
  | .e4m3 => .e4m3
  | .e5m2 => .e5m2
  | .bx8 => .bx8
  | .bx4 => .bx4

/-- WLD (R228). -/
def execWld (g : Bool) (t : Tile) (y : SReg) (e : Bool) : State → Out :=
  matrixOp g fun s h x => do
    checkSources s h.p [scalSource y e]
    match x.e.cfg t.toNat with
    | none => .error (.trap { code := .matrix } s)
    | some c => do
      needThat s .matrix (!cfgWide c || (t != 15 && x.e.pairOk t.toNat c))
      .ok (((s.enqueue h x.c (.weights t.toNat (h.p.ctx.scalVal y.toNat).lo)).modEngine x.c fun e =>
        { e with fmt := some (cfgType c) }).retire h.u)

/-- An accumulator. -/
def Engine.acc (e : Engine) (i : Nat) : AccReg := spGet { owner := none, unit := false, cells := [], poison := [] } e.accs i

/-- The physical accumulator that a knot's acci names, with the token where it must be: otherwise E_TOKEN (R231, R233). -/
def needToken (s : State) (h : Here) (e : Engine) (a : Acc) (unit : Bool) : Res Nat :=
  match h.k.accs[a.toNat]? with
  | none => .error (.trap { code := .token } s)
  | some i => if (e.acc i).unit == unit then .ok i else .error (.trap { code := .token } s)

/-- MMA and MMAS at issue (R230): `scale` is the scale vector of MMAS. -/
def multiply (g : Guard) (a : Acc) (t : Tile) (k : ActType) (scale : Option (VReg × Bool)) : State → Out :=
  matrixOp (isNever g) fun s h x => do
    checkSources s h.p (guardSource g :: (match scale with | some (v, f) => [vecSource h.p.ctx v f] | none => []))
    let i ← needToken s h x.e a true
    match x.e.cfg t.toNat with
    | none => .error (.trap { code := .matrix } s)
    | some c => do
      needThat s .matrix (cfgType c == actType k && (!cfgWide c || x.e.pairOk t.toNat c))
      needThat s .matrix (x.e.fmt.any fun f => formatGroup f == formatGroup (actType k))
      let rows := (lanesOf (effective h g) h.k.grant).filter fun r => decide (r < 128) && decide (r < cfgRows c)
      let scales := scale.map fun vf => rows.map fun r => h.k.lane (h.p.ctx.reg vf.1.toNat) r
      .ok ((s.enqueue h x.c (.multiply i t.toNat k rows scales)).retire h.u)

/-- MMA (R230). -/
def execMma (g : Guard) (a : Acc) (t : Tile) (k : ActType) : State → Out := multiply g a t k none

/-- MMAS (R230). -/
def execMmas (g : Guard) (a : Acc) (t : Tile) (v : VReg) (f : Bool) (k : ActType) : State → Out :=
  multiply g a t k (some (v, f))

/-- MBATCH (R222). -/
def execMbatch (g : Bool) (d : SReg) : State → Out :=
  matrixOp g fun s h _ => do
    if d = 0 then pure () else checkDest s h.p { file := .scal, num := d.toNat }
    .ok (((s.modKnot h.p.knot fun k => { k with batch := k.batch + 1 }).writeScal h.u d.toNat
      (BitVec.ofNat 64 (h.k.batch + 1))).retire h.u)

/-- MWAIT (R222). -/
def execMwait (g : Bool) (y : SReg) (e : Bool) : State → Out :=
  matrixOp g fun s h x => do
    checkSources s h.p [scalSource y e]
    let b := (h.p.ctx.scalVal y.toNat).toNat
    needThat s .matrix (decide (b ≤ h.k.batch))
    if x.e.queue.any fun op => op.knot == h.p.knot && decide (op.batch ≤ b) then .error (.wait .matrix s)
    else .ok (s.retire h.u)

/-- ACCGET: joins the accumulator queue and waits for its grant (R231). -/
def execAccget (g : Bool) (d : SReg) (n : BitVec 5) : State → Out :=
  matrixOp g fun s h x => do
    if d = 0 then pure () else checkDest s h.p { file := .scal, num := d.toNat }
    let queued := x.e.accQueue.any fun a => a.1 == h.p.knot
    if h.p.pend = .accget then
      if queued then .error (.wait .accumulator s)
      else
        let mask := h.k.accs.foldl (fun m i => m + 2 ^ i) 0
        .ok ((s.writeScal h.u d.toNat (BitVec.ofNat 64 mask)).retire h.u)
    else if queued || !h.k.accs.isEmpty then .error (.trap { code := .nested } s)
    else
      .ok ((s.modEngine x.c fun e => { e with accQueue := e.accQueue ++ [(h.p.knot, n.toNat)] }).await h.u .accget .accumulator).bump

/-- `n` of the free accumulators of an engine, from the one a choice names upward in cyclic order (R231). -/
def Engine.chooseAccs (e : Engine) (n from' : Nat) : List Nat :=
  let free := (List.range 8).filter fun i => (e.acc i).owner.isNone
  let chosen := (free.rotateLeft from').take n
  (List.range 8).filter fun i => chosen.contains i

/-- ACCGET_GRANT: the request at the head is granted when enough accumulators are free (R231). -/
def execAccgetGrant (crew : Nat) (s : State) : Out :=
  event <|
    match (spFind crew s.crews).bind (·.engine) with
    | none => s
    | some e =>
      match e.accQueue with
      | [] => s
      | (kn, n) :: rest =>
        if ((List.range 8).filter fun i => (e.acc i).owner.isNone).length < n then s
        else
          let (v, s1) := s.pick 8
          let is := e.chooseAccs n v
          ((s1.modEngine crew fun e =>
            { e with accQueue := rest
                     accs := is.foldl (fun m i =>
                       spPut i { owner := some kn, unit := false, cells := [], poison := [] } m) e.accs }).modKnot kn fun k =>
              { k with accs := is }).bump

/-- ACCPUT: waits for the operations in flight that name the knot's accumulators, then frees them (R232). -/
def execAccput (g : Bool) : State → Out :=
  matrixOp g fun s h x =>
    if x.e.usesAccs h.p.knot then .error (.wait .accumulator s)
    else
      .ok (((s.modEngine x.c fun e => { e with accs := e.accs.filter fun a => a.2.owner != some h.p.knot }).modKnot h.p.knot
        fun k => { k with accs := [] }).retire h.u)

/-- Whether an operation in flight names a physical accumulator. -/
def Engine.accBusy (e : Engine) (i : Nat) : Bool :=
  e.queue.any fun op => match op.kind with | .multiply a .. => a == i | _ => false

/-- The state with the token of an accumulator moved. -/
def State.setToken (s : State) (c i : Nat) (unit : Bool) : State :=
  s.modEngine c fun e => { e with accs := spPut i { e.acc i with unit := unit } e.accs }

/-- ACQ (R233). -/
def execAcq (g : Bool) (a : Acc) : State → Out :=
  matrixOp g fun s h x => do
    let i ← needToken s h x.e a true
    if x.e.accBusy i then .error (.wait .accumulator s) else .ok ((s.setToken x.c i false).retire h.u)

/-- REL (R233). -/
def execRel (g : Bool) (a : Acc) : State → Out :=
  matrixOp g fun s h x => do
    let i ← needToken s h x.e a false
    .ok ((s.setToken x.c i true).retire h.u)

/-- The effective lanes below 128 (R234). -/
def accLanes (h : Here) (g : Guard) : List Nat := (lanesOf (effective h g) h.k.grant).filter fun l => decide (l < 128)

/-- The column check of ACCRD and ACCWR (R234). -/
def needColumn (s : State) (c : DWord) (n : Nat) : Res Unit := needThat s .matrix (decide (c.toNat < 128) && c.toNat % n == 0)

/-- ACCRD of `n` columns (R234). -/
def accRead (g : Guard) (d : VReg) (a : Acc) (z : SReg) (f : Bool) (n : Nat) : State → Out :=
  matrixOp (isNever g) fun s h x => do
    checkSources s h.p [guardSource g, scalSource z f]
    let i ← needToken s h x.e a false
    let c := h.p.ctx.scalVal z.toNat
    needColumn s c n
    let ls := accLanes h g
    if ls.isEmpty then .ok (s.retire h.u)
    else do
      let dest := vecDest h.p.ctx d.toNat n
      checkDests s h.p dest.names
      let acc : Access := { op := .accRead i c.toNat n, dest := dest, group := h.p.groupPc
                            lanes := ls.map fun l => { lane := l, va := 0, pa := 0, key := none, data := [] } }
      .ok (((s.perform h acc).getD s).retire h.u)

/-- ACCRD (R234). -/
def execAccrd (g : Guard) (d : VReg) (a : Acc) (z : SReg) (f : Bool) : State → Out := accRead g d a z f 1

/-- ACCRD.4 (R234). -/
def execAccrd4 (g : Guard) (d : VReg) (a : Acc) (z : SReg) (f : Bool) : State → Out := accRead g d a z f 4

/-- An accumulator with an element written. -/
def AccReg.put (r : AccReg) (row col : Nat) (v : Word) : AccReg :=
  { r with cells := spSet 0 r.cells (128 * row + col) v, poison := r.poison.filter (· != 128 * row + col) }

/-- ACCWR of `n` columns (R234). -/
def accWrite (g : Guard) (a : Acc) (v : VReg) (z : SReg) (e f : Bool) (n : Nat) : State → Out :=
  matrixOp (isNever g) fun s h x => do
    checkSources s h.p (guardSource g :: groupSources h.p.ctx v.toNat n e ++ [scalSource z f])
    let i ← needToken s h x.e a false
    let c := h.p.ctx.scalVal z.toNat
    needColumn s c n
    let put (r : AccReg) (l : Nat) : AccReg :=
      (List.range n).foldl (fun r j => r.put l (c.toNat + j) (h.k.lane (h.p.ctx.reg (v.toNat + j)) l)) r
    .ok ((s.modEngine x.c fun e => { e with accs := spPut i ((accLanes h g).foldl put (e.acc i)) e.accs }).retire h.u)

/-- ACCWR (R234). -/
def execAccwr (g : Guard) (a : Acc) (v : VReg) (z : SReg) (e f : Bool) : State → Out := accWrite g a v z e f 1

/-- ACCWR.4 (R234). -/
def execAccwr4 (g : Guard) (a : Acc) (v : VReg) (z : SReg) (e f : Bool) : State → Out := accWrite g a v z e f 4

/-- A tile as at crew launch: bytes zero, unconfigured (R219). -/
def TileReg.blank : TileReg := { cfg := none, bytes := [], hdr := [], poison := [] }

/-- A tile of an engine. -/
def Engine.tile (e : Engine) (t : Nat) : TileReg := spGet .blank e.tiles t

/-- Byte `i` of row `r` of a tile. -/
def TileReg.byte (t : TileReg) (r i : Nat) : Nat := (cellGet t.bytes (128 * r + i)).toNat

/-- The header of block `b` of row `r`. -/
def TileReg.header (t : TileReg) (r b : Nat) : Nat :=
  (cellGet t.hdr (8 * r + 2 * b)).toNat + 256 * (cellGet t.hdr (8 * r + 2 * b + 1)).toNat

/-- Element `k` of row `r` of one tile (R220). -/
def TileReg.element (t : TileReg) (r k : Nat) : FVal :=
  match t.cfg with
  | none => .num false 0 0
  | some c =>
    match cfgType c with
    | .bx8 => if k < cfgBpr c then bxValue false (t.byte r k) (t.header r (k / 32)) else .num false 0 0
    | .bx4 =>
      if k < 2 * cfgBpr c then bxValue true (t.byte r (k / 2) / 16 ^ (k % 2) % 16) (t.header r (k / 32)) else .num false 0 0
    | .f16 => if 2 * k < cfgBpr c then fmtF16.value false (t.byte r (2 * k) + 256 * t.byte r (2 * k + 1)) else .num false 0 0
    | .bf16 => if 2 * k < cfgBpr c then fmtBF16.value false (t.byte r (2 * k) + 256 * t.byte r (2 * k + 1)) else .num false 0 0
    | ty => if k < cfgBpr c then (floatType ty).value false (t.byte r k) else .num false 0 0

/-- The 128 elements that the matrix path reads of a row: from one tile, or from a pair (R220). -/
def matrixRow (low high : TileReg) (r : Nat) : List FVal :=
  if low.cfg.any cfgWide then
    (List.range 64).map (low.element r) ++ (List.range 64).map (high.element r)
  else (List.range 128).map (low.element r)

/-- The exact sum of finite values in units of 2^q. -/
def exactSum (q : Int) (ps : List FVal) : Int :=
  ps.foldl (fun t p => match p with | .num n m e => if m = 0 then t else t + signedAt n m e q | _ => t) 0

/-- The lowest exponent of the non-zero finite values. -/
def lowestExp (ps : List FVal) : Int :=
  ps.foldl (fun q p => match p with | .num _ m e => if m = 0 then q else min q e | _ => q) 0

/-- The F32 bits of the exact sum of products, rounded once (R110). -/
def passSum (ps : List FVal) : Nat :=
  let isInf (n : Bool) := ps.any fun p => match p with | .inf m => m == n | _ => false
  if ps.any FVal.isNan || (isInf true && isInf false) then fmtF32.nan
  else if isInf true then fmtF32.inf true
  else if isInf false then fmtF32.inf false
  else
    let q := lowestExp ps
    let t := exactSum q ps
    if t = 0 then fmtF32.sign (ps.all fun p => match p with | .num n m _ => n && m == 0 | _ => false)
    else (fmtF32.round (.dir .near) false (decide (t < 0)) t.natAbs q false).bits

/-- One element of an accumulator after a pass (R110). -/
def passElement (a w : List FVal) (scales : Option (Word × Word)) (old : Word) : Word :=
  let env := plainEnv fmtF32
  let t := passSum (List.zipWith mulVals a w)
  let t' := match scales with
    | some (sa, sw) => (env.mul (env.mul t sa.toNat).1 sw.toNat).1
    | none => t
  BitVec.ofNat 32 (env.add old.toNat t').1

/-- Whether the matrix path reads an uncorrectable word in a row of a tile or pair. -/
def rowLost (low high : TileReg) (r : Nat) : Bool := low.poison.contains r || (low.cfg.any cfgWide && high.poison.contains r)

/-- An accumulator after an MMA or MMAS (R230): an element from a row that holds an uncorrectable word is uncorrectable itself (R287,
log 19, DEDUCED). -/
def AccReg.pass (r : AccReg) (low high : TileReg) (l : Latch) (rows : List Nat) (scales : Option (List Word)) : AccReg :=
  let n := (l.low.cfg.map cfgRows).getD 0
  let ws := (List.range n).map fun j => matrixRow l.low l.high j
  rows.zipIdx.foldl (fun r x =>
    let a := matrixRow low high x.1
    let sc := scales.map fun ss => (ss.getD x.2 0, l.scale)
    ws.zipIdx.foldl (fun r w =>
      let i := 128 * x.1 + w.2
      { r with cells := spSet 0 r.cells i (passElement a w.1 sc (spGet 0 r.cells i))
               poison := if rowLost low high x.1 || rowLost l.low l.high w.2 then i :: r.poison.filter (· != i) else r.poison }) r) r

/-- A tile after a TLD of its rows from the pad (R226): a row that meets an uncorrectable sector holds it (R287). -/
def TileReg.loadRows (t : TileReg) (c : DWord) (w : Crew) (eb hb : Nat) : TileReg :=
  let pad := w.pad
  let b := cfgBpr c
  let nb := if cfgFmt c = 13 then b / 32 else b / 16
  let bytes := (List.range (cfgRows c)).foldl (fun m r => cellWrite m (128 * r) (cellRead pad (eb + r * b) b)) t.bytes
  let hdr := if cfgBx c then
      (List.range (cfgRows c)).foldl (fun m r => cellWrite m (8 * r) (cellRead pad (hb + 2 * r * nb) (2 * nb))) t.hdr
    else t.hdr
  let lost (r : Nat) : Bool := w.poisoned (eb + r * b) b || (cfgBx c && w.poisoned (hb + 2 * r * nb) (2 * nb))
  { t with bytes := bytes, hdr := hdr
           poison := (List.range (cfgRows c)).filter lost ++ t.poison.filter fun r => decide (cfgRows c ≤ r) }

/-- The pad sectors of some bytes with an uncorrectable word in them (R332). -/
def Crew.spoil (w : Crew) (off n : Nat) : Crew :=
  { w with poison := (((List.range ((off + n + 31) / 32 - off / 32)).map (off / 32 + ·)).filter fun x => !w.poison.contains x) ++ w.poison }

/-- A crew after a TST of a tile's rows to the pad (R226): a row that holds an uncorrectable word leaves it there (R287, log 19, DEDUCED). -/
def Crew.storeRows (w : Crew) (t : TileReg) (c : DWord) (eb hb : Nat) : Crew :=
  let b := cfgBpr c
  let nb := if cfgFmt c = 13 then b / 32 else b / 16
  let w1 := (List.range (cfgRows c)).foldl (fun w r => w.padWrite (eb + r * b) (cellRead t.bytes (128 * r) b)) w
  let w2 := if cfgBx c then
      (List.range (cfgRows c)).foldl (fun w r => w.padWrite (hb + 2 * r * nb) (cellRead t.hdr (8 * r) (2 * nb))) w1
    else w1
  ((List.range (cfgRows c)).filter t.poison.contains).foldl (fun w r => w.spoil (eb + r * b) b) w2

/-- One queued operation performed (R221, R225 to R230). -/
def Crew.performMat (w : Crew) (e : Engine) (k : MatKind) : Crew :=
  let setTile (t : Nat) (r : TileReg) : Crew := { w with engine := some { e with tiles := spPut t r e.tiles } }
  match k with
  | .config t c => setTile t { e.tile t with cfg := some c }
  | .zero t => setTile t { e.tile t with bytes := [], hdr := [], poison := [] }
  | .load t eb hb =>
    (match (e.tile t).cfg with
    | some c => setTile t ((e.tile t).loadRows c w eb hb)
    | none => w)
  | .store t eb hb =>
    (match (e.tile t).cfg with
    | some c => w.storeRows (e.tile t) c eb hb
    | none => w)
  | .weights t scale =>
    { w with engine := some { e with latch := some { low := e.tile t, high := e.tile (t + 1), scale := scale } } }
  | .multiply a t _ rows scales =>
    (match e.latch with
    | some l =>
      { w with engine := some { e with accs := spPut a ((e.acc a).pass (e.tile t) (e.tile (t + 1)) l rows scales) e.accs } }
    | none => w)

/-- Whether the matrix unit may perform the operation at the head of its queue: while its module is being pre-empted, its
stack is halted or its crew is leaving, only until every batch that it has begun is complete (R35, R235, R300, R304). -/
def State.unitRuns (s : State) (w : Crew) (e : Engine) : Bool :=
  (match w.place with | .core _ => true | .stored _ => false) &&
    ((s.mod (moduleOf w.home)).preempt == .running && !(s.stk w.home).halted && !w.leaving || e.midBatch)

/-- Whether a TLD or TST moves some byte of a pad word: of its element array, or of the header array of a BX format (R226). -/
def MatKind.covers (e : Engine) (k : MatKind) (i : Nat) : Bool :=
  let within (t eb hb : Nat) : Bool :=
    (e.tile t).cfg.any fun c => (tileRanges c eb hb).any fun r => decide (r.1 < 4 * i + 4) && decide (4 * i < r.1 + r.2)
  match k with
  | .load t eb hb => within t eb hb
  | .store t eb hb => within t eb hb
  | _ => false

/-- Whether every word of a pad sector that the operation at the head of the queue moves has moved (R223). -/
def Engine.sectorMoved (e : Engine) (k : MatKind) (sec : Nat) : Bool :=
  (List.range 8).all fun j => !k.covers e (8 * sec + j) || (spFind (8 * sec + j) e.words).isSome

/-- A crew after the TLD or TST at the head of its engine's queue has moved one pad word, as one unit (R223): a TLD has read it;
a TST has written it, and a word from a row that holds an uncorrectable word leaves its sector uncorrectable (R287, log 19, DEDUCED). -/
def Crew.moveWord (w : Crew) (e : Engine) (k : MatKind) (i : Nat) : Crew :=
  match k with
  | .load _ _ _ =>
    { w with engine := some { e with words := spPut i (cellRead w.pad (4 * i) 4, w.poison.contains (i / 8)) e.words } }
  | .store _ _ _ =>
    let e1 := { e with words := spPut i ([], false) e.words }
    let r := w.performMat e k
    let old := if e1.sectorMoved k (i / 8) then w.poison.filter (· != i / 8) else w.poison
    { w with pad := cellWrite w.pad (4 * i) (cellRead r.pad (4 * i) 4)
             poison := if r.poison.contains (i / 8) && !old.contains (i / 8) then i / 8 :: old else old
             engine := some e1 }
  | _ => w

/-- The pad as the rest of a TLD reads it: the words that it has read hold what they held then, and a sector is uncorrectable when
some word that the TLD reads of it was so (R223, R287). -/
def Crew.asRead (w : Crew) (e : Engine) (k : MatKind) : Crew :=
  let lost (sec j : Nat) : Bool :=
    k.covers e (8 * sec + j) &&
      (match spFind (8 * sec + j) e.words with
       | some x => x.2
       | none => w.poison.contains sec)
  let secs := w.poison ++ (e.words.map (·.1 / 8)).filter fun x => !w.poison.contains x
  { w with pad := e.words.foldl (fun m x => cellWrite m (4 * x.1) x.2.1) w.pad
           poison := secs.filter fun sec => (List.range 8).any (lost sec) }

/-- A crew after what is left of the operation at the head of its engine's queue, some of whose pad words have moved (R223). -/
def Crew.finishMat (w : Crew) (e : Engine) (k : MatKind) : Crew :=
  let done := some { e with words := [] }
  match k with
  | .load _ _ _ =>
    let r := (w.asRead e k).performMat { e with words := [] } k
    { r with pad := w.pad, poison := w.poison }
  | .store _ _ _ =>
    let r := w.performMat e k
    { r with pad := e.words.foldl (fun m x => cellWrite m (4 * x.1) (cellRead w.pad (4 * x.1) 4)) r.pad
             poison := (r.poison.filter fun sec => !e.sectorMoved k sec) ++ w.poison.filter (e.sectorMoved k)
             engine := done }
  | _ => w.performMat { e with words := [] } k

/-- The operation at the head of the queue of a crew's engine, when the unit may work at it. -/
def State.matHead (s : State) (crew : Nat) : Option (Crew × Engine × MatOp × List MatOp) :=
  match spFind crew s.crews with
  | none => none
  | some w =>
    match w.engine with
    | none => none
    | some e =>
      match e.queue with
      | [] => none
      | op :: rest => if s.unitRuns w e then some (w, e, op, rest) else none

/-- The state after the TLD or TST at the head of a queue moves one more pad word before the rest (R223). -/
def State.tileWord (s : State) (crew i : Nat) : State :=
  match s.matHead crew with
  | none => s
  | some (_, e, op, _) =>
    if !op.kind.covers e i || (spFind i e.words).isSome then s
    else (s.modCrew crew fun w => w.moveWord { e with begun := spPut op.knot op.batch e.begun } op.kind i).bump

/-- MATRIX_OPERATION: the unit performs the operation at the head of its queue, or what is left of it (R221, R223). -/
def execMatrixOperation (crew : Nat) (s : State) : Out :=
  event <|
    match s.matHead crew with
    | none => s
    | some (_, e, op, rest) =>
      let e1 := { e with queue := rest, begun := spPut op.knot op.batch e.begun }
      (s.modCrew crew fun w =>
        if e.words.isEmpty then ({ w with engine := some e1 }).performMat e1 op.kind
        else ({ w with engine := some e1 }).finishMat e1 op.kind).bump

end Sys2Proof.Machine
end

