-- ==== Sys2Proof/Machine/HandleOps.lean ====
section
/-! DEFINITION. Handles and the mailbox: major 0x39, and MPWAIT, HSET, HEXP, MPFENCE and MPEND of major 0x3B
(spec/13 R236 to R239, R246). -/
namespace Sys2Proof.Machine

/-- A handle at crew launch (R236). -/
def HandleReg.blank : HandleReg := { state := .free, exp := 0, cred := 0, faulted := false }

/-- A handle of an engine. -/
def Engine.handle (e : Engine) (i : Nat) : HandleReg := spGet .blank e.handles i

/-- Whether a handle is full. -/
def Engine.full (e : Engine) (i : Nat) : Bool := (e.handle i).state == .full

/-- The engine with a handle. -/
def Engine.setHandle (e : Engine) (i : Nat) (r : HandleReg) : Engine := { e with handles := spPut i r e.handles }

/-- HREADY: the full handles (R236). -/
def Engine.hready (e : Engine) : DWord := BitVec.ofNat 64 ((List.range 64).foldl (fun m i => if e.full i then m + 2 ^ i else m) 0)

/-- The handles of a mask, in ascending order. -/
def handlesOf (m : DWord) : List Nat := (List.range 64).filter fun i => m.getLsbD i

/-- An instruction of major 0x39: the engine crew first (R217, R238). -/
def handleOp (body : State → Here → EngineHere → Res State) : State → Out :=
  knotOp .plain false fun s h => do
    let g ← needEngine s h .handle
    body s h g

/-- HWAIT (R238). -/
def execHwait (x : Handle) : State → Out :=
  handleOp fun s h g =>
    match (g.e.handle x.toNat).state with
    | .free | .filling => .error (.wait .handle s)
    | _ => .ok (s.retire h.u)

/-- HANY (R238). -/
def execHany (d a : SReg) (e : Bool) : State → Out :=
  handleOp fun s h g => do
    checkSources s h.p [scalSource a e]
    if d = 0 then pure () else checkDest s h.p { file := .scal, num := d.toNat }
    let m := h.p.ctx.scalVal a.toNat
    needThat s .handle (m != 0)
    match (handlesOf m).find? g.e.full with
    | none => .error (.wait .handle s)
    | some i => .ok ((s.writeScal h.u d.toNat (BitVec.ofNat 64 i)).retire h.u)

/-- HALL (R238). -/
def execHall (a : SReg) (e : Bool) : State → Out :=
  handleOp fun s h g => do
    checkSources s h.p [scalSource a e]
    if (handlesOf (h.p.ctx.scalVal a.toNat)).all fun i => g.e.full i || (g.e.handle i).state == .draining then
      .ok (s.retire h.u)
    else .error (.wait .handle s)

/-- HFIRST (R238). -/
def execHfirst (d a : SReg) (e : Bool) : State → Out :=
  handleOp fun s h g => do
    checkSources s h.p [scalSource a e]
    if d = 0 then pure () else checkDest s h.p { file := .scal, num := d.toNat }
    let v := match (handlesOf (h.p.ctx.scalVal a.toNat)).find? g.e.full with
      | some i => BitVec.ofNat 64 i
      | none => BitVec.allOnes 64
    .ok ((s.writeScal h.u d.toNat v).retire h.u)

/-- HCLAIM (R236, R238). -/
def execHclaim (x : Handle) : State → Out :=
  handleOp fun s h g =>
    if g.e.full x.toNat then
      .ok ((s.modEngine g.c fun e => e.setHandle x.toNat { e.handle x.toNat with state := .draining }).retire h.u)
    else .error (.wait .handle s)

/-- HFREE (R236, R238). -/
def execHfree (x : Handle) : State → Out :=
  handleOp fun s h g => do
    needThat s .handle ((g.e.handle x.toNat).state == .draining)
    .ok ((s.modEngine g.c fun e =>
      e.setHandle x.toNat { e.handle x.toNat with state := .free, exp := 0, cred := 0 }).retire h.u)

/-- HSIG: waits for room in the mailbox (R239). Every earlier access of the path has been performed when it issues. -/
def execHsig (a : SReg) (e : Bool) : State → Out :=
  handleOp fun s h g => do
    checkSources s h.p [scalSource a e]
    if 16 ≤ g.e.mailbox.length then .error (.wait .mailbox s)
    else
      .ok ((s.modEngine g.c fun e => { e with mailbox := e.mailbox ++ [(h.p.ctx.scalVal a.toNat).lo] }).retire h.u)

/-- MPWAIT (R246). -/
def execMpwait (d : GReg) : State → Out :=
  moverOp fun s m =>
    match m.e.mailbox with
    | [] => .error (.wait s)
    | w :: ws =>
      .ok ((s.modEngine m.c fun e =>
        { e with mailbox := ws, mover := e.mover.setReg d.toNat (w.setWidth 64) }).moveOn m.c)

/-- Whether a copy that names a handle is in flight. -/
def Engine.copying (e : Engine) (i : Nat) : Bool := e.copies.any fun c => c.handle == i

/-- HSET on a free handle: none when more has been credited than is expected (R236). -/
def HandleReg.expect (r : HandleReg) (n : Nat) : Option HandleReg :=
  if r.cred < n then some { r with state := .filling, exp := n }
  else if r.cred = n then some { r with state := .full, exp := n }
  else none

/-- HSET (R236, R246). -/
def execHset (a : GReg) (x : Handle) : State → Out :=
  moverOp fun s m =>
    let v := (m.e.mover.reg a.toNat).toNat
    let i := x.toNat
    let r := m.e.handle i
    if 4294967295 < v then .error (.fault .handle i 0)
    else if r.faulted && m.e.copying i then .error (.wait s)
    else
      let r1 := if r.faulted then HandleReg.blank else r
      if r1.state ≠ .free then .error (.fault .handle i 0)
      else match r1.expect v with
        | none => .error (.fault .handle i 0)
        | some r2 => .ok ((s.modEngine m.c fun e => e.setHandle i r2).moveOn m.c)

/-- HEXP (R236, R246). -/
def execHexp (a : GReg) (x : Handle) : State → Out :=
  moverOp fun s m =>
    let v := (m.e.mover.reg a.toNat).toNat
    let i := x.toNat
    let r := m.e.handle i
    if 4294967295 < v || r.state != .filling || decide (4294967295 < r.exp + v) then .error (.fault .handle i 0)
    else .ok ((s.modEngine m.c fun e => e.setHandle i { r with exp := r.exp + v }).moveOn m.c)

/-- MPFENCE: waits until every copy has finished (R246). -/
def execMpfence : State → Out :=
  moverOp fun s m => if m.e.copies.isEmpty then .ok (s.moveOn m.c) else .error (.wait s)

/-- MPEND: an MPFENCE, then the movement program ends (R246). -/
def execMpend : State → Out :=
  moverOp fun s m =>
    if m.e.copies.isEmpty then
      .ok ((s.modMover m.c fun x => { x with run := .ended, wait := false, blockedAt := none, hints := .none }).bump)
    else .error (.wait s)

end Sys2Proof.Machine
end

