-- ==== Sys2Proof/Machine/SystemOps.lean ====
section
/-! DEFINITION. Special registers and traps: majors 0x3D and 0x3E (spec/07 R126 to R128, spec/17 R288 to R299, R305, spec/21 R330
to R332). -/
namespace Sys2Proof.Machine

/-- CAP0 (R330). -/
def State.cap0 (s : State) : DWord :=
  let part := match s.strap.part with | .aj16 => 16 | .aj12 => 12 | .aj8v => 8
  let ports := match s.strap.part with | .aj8v => 0 | _ => 4095
  BitVec.ofNat 64 (3 * 2 ^ 48 + ports * 2 ^ 36 + s.strap.hasMatrix.toNat * 2 ^ 32 + (2 ^ s.strap.stackCount - 1) * 65536 +
    s.strap.rev.toNat * 256 + part)

/-- DIMS of CAP1; zero on an AJ3-8V (R330). -/
def Strap.dims (c : Strap) : Nat := if c.part = .aj8v then 0 else (c.dimZ - 1) * 64 + (c.dimY - 1) * 8 + (c.dimX - 1)

/-- CAP1 of a module (R330). -/
def State.cap1 (s : State) (m : Nat) : DWord :=
  let coord := if s.strap.part = .aj8v then 0 else (s.mod m).coord.toNat
  BitVec.ofNat 64 ((s.mod m).clock % 65536 * 2 ^ 32 + s.strap.dims % 1024 * 2 ^ 20 + coord * 1024 + m % 1024)

/-- The withdrawn cores of a stack (R332). -/
def State.withdrawnOf (s : State) (home : Nat) : Nat := (s.stk home).withdrawn.length

/-- CAP2 of a module: WCORES of each stack, saturating at 15 (R330). -/
def State.cap2 (s : State) (m : Nat) : DWord :=
  BitVec.ofNat 64 ((List.range s.strap.stackCount).foldl (fun a i => a + min 15 (s.withdrawnOf (16 * m + i)) * 16 ^ i) 0)

/-- CAP3 (R330). -/
def cap3 : DWord := 4210752#64

/-- WCOUNT of a module: a count above 255 is a free value (R332, log 6, DESIGN CHOICE). -/
def State.wcount (s : State) (m : Nat) : Nat :=
  let n := (s.strap.homesOf m).foldl (fun a h => a + s.withdrawnOf h) 0
  if n < 256 then n else (Config.freeDWord n).toNat % 256

/-- SERVICE of a module (R332). -/
def State.service (s : State) (m : Nat) : DWord :=
  BitVec.ofNat 64 ((s.mod m).retired.toNat * 65536 + s.wcount m * 256 + (s.mod m).uncorr.toNat * 2 + (s.mod m).replace.toNat)

/-- POSTS of a path (R128). -/
def postsOf (c : Ctx) : DWord :=
  let flags (f : PostEntry → Bool) := c.posts.zipIdx.foldl (fun a e => if f e.1 then a + 2 ^ e.2 else a) 0
  BitVec.ofNat 64 ((c.posts.foldl (fun a e => if e.valid then a + e.outst else a) 0) * 2 ^ 32 +
    flags (fun e => e.valid && e.faulted) * 256 + flags (·.valid))

/-- HREADY of a knot (R127). -/
def State.hreadyOf (s : State) (k : Knot) : DWord :=
  match s.crewOf k with
  | some (_, _, w) => (match w.engine with | some e => e.hready | none => 0)
  | none => 0

/-- LANDING of a knot (R331). -/
def KnotRegs.landing (r : KnotRegs) : DWord := BitVec.ofNat 64 (r.window % 524288 * 68719476736 + 4)

/-- The value of a special register of a path (R127); LANEID is read as a vector only. -/
def State.special (s : State) (h : Here) (n : Special) : DWord :=
  let m := moduleOf h.p.home
  match n with
  | .grant => BitVec.ofNat 64 h.k.grant
  | .laneid => 0
  | .knotid => BitVec.ofNat 64 h.k.knotId
  | .nknots => BitVec.ofNat 64 h.k.nknots
  | .brood => h.k.brood
  | .stack => BitVec.ofNat 64 (h.p.home % 16)
  | .core => BitVec.ofNat 64 h.p.core
  | .module => BitVec.ofNat 64 m
  | .mode => h.p.ctx.mode.setWidth 64
  | .fpstat => h.p.ctx.fpstat.setWidth 64
  | .cycles => BitVec.ofNat 64 (s.stk h.p.home).cycles
  | .hready => s.hreadyOf h.k
  | .posts => postsOf h.p.ctx
  | .ptbase => h.k.regs.ptbase
  | .asid => h.k.regs.asid.setWidth 64
  | .keysel => h.k.regs.keysel
  | .vecbase => h.k.regs.vecbase
  | .landing => h.k.regs.landing
  | .parkmax => (s.stk h.p.home).parkmax.setWidth 64
  | .watchdog => h.k.regs.watchdog.setWidth 64
  | .cap0 => s.cap0
  | .cap1 => s.cap1 m
  | .cap2 => s.cap2 m
  | .cap3 => cap3
  | .service => s.service m

/-- The value of a special register in the movement subset; none outside it (R127, R130). -/
def State.moverSpecial (s : State) (m : MHere) (n : Special) : Option DWord :=
  match n with
  | .cycles => some (BitVec.ofNat 64 (s.stk m.crew.home).cycles)
  | .hready => some m.e.hready
  | .stack => some (BitVec.ofNat 64 (m.crew.home % 16))
  | .core => some (match m.crew.place with | .core c => BitVec.ofNat 64 c | .stored _ => 0)
  | .module => some (BitVec.ofNat 64 (moduleOf m.crew.home))
  | _ => none

/-- SRD to a scalar (R299): LANEID is no scalar register (R127). -/
def execSrd (r : SReg) (n : Special) : State → Out :=
  agentRun { priv := n.privileged, defer := true } false
    (fun s h =>
      if n = .laneid then .error (.trap { code := .illegal } s)
      else do
        if r = 0 then pure () else checkDest s h.p { file := .scal, num := r.toNat }
        .ok ((s.writeScal h.u r.toNat (s.special h n)).retire h.u))
    (fun s m =>
      match s.moverSpecial m n with
      | none => .error (.fault .illegal 0 0)
      | some v => .ok ((s.modMover m.c fun x => x.setReg r.toNat v).moveOn m.c))

/-- SRD of LANEID to a vector: every active lane below the grant (R299). -/
def execSrdVector (r : VReg) : State → Out :=
  knotOp .plain false fun s h => do
    awaitDests s h.p (activeOf h) [{ file := .vec, num := h.p.ctx.reg r.toNat }]
    .ok ((s.writeVec h.u (h.p.ctx.reg r.toNat) (activeOf h) fun l => BitVec.ofNat 32 l).retire h.u)

/-- The registers of a knot that SWR writes after the check for a single path (R322, R331). -/
def perKnot : Special → Bool
  | .ptbase | .asid | .keysel | .vecbase | .landing | .watchdog => true
  | _ => false

/-- PTBASE and VECBASE with their reserved bits zero (R322, R331). -/
def ptbaseOf (v : DWord) : DWord := v &&& 4503599627304960#64
def vecbaseOf (v : DWord) : DWord := v &&& 4294963200#64

/-- A knot's registers with one written; reserved bits are ignored (R322, R331). -/
def KnotRegs.write (r : KnotRegs) (n : Special) (v : DWord) : KnotRegs :=
  match n with
  | .ptbase => { r with ptbase := ptbaseOf v }
  | .asid => { r with asid := v.setWidth 16 }
  | .keysel => { r with keysel := v }
  | .vecbase => { r with vecbase := vecbaseOf v }
  | .landing => { r with window := (v.extractLsb' 36 19).toNat }
  | .watchdog => { r with watchdog := v.setWidth 32 }
  | _ => r

/-- The state after a special register is written (R299). -/
def State.writeSpecial (s : State) (h : Here) (n : Special) (v : DWord) : State :=
  match n with
  | .mode => s.modCtx h.u fun c => { c with mode := v.setWidth 5 }
  | .fpstat => s.modCtx h.u fun c => { c with fpstat := v.setWidth 5 }
  | .parkmax => s.setStk h.p.home fun t => { t with parkmax := v.setWidth 7 }
  | .service => s.setMod (moduleOf h.p.home) fun m =>
      { m with retired := v.extractLsb' 16 16, uncorr := m.uncorr && !v.getLsbD 1, replace := m.replace && !v.getLsbD 0 }
  | n => s.modKnot h.p.knot fun k => { k with regs := k.regs.write n v }

/-- SWR (R299): E_ILLEGAL at either level for a register that is not writable (R127); a write to PARKMAX may switch held knots out (R294). -/
def execSwr (r : SReg) (e : Bool) (n : Special) : State → Out :=
  knotOp { priv := n.writable && n.privileged } false fun s h =>
    if !n.writable then .error (.trap { code := .illegal } s)
    else do
      checkSources s h.p [scalSource r e]
      if perKnot n then needSingle s h else pure ()
      let s1 := (s.writeSpecial h n (h.p.ctx.scalVal r.toNat)).retire h.u
      .ok (if n = .parkmax then s1.serviceOn h.p.home (List.range Config.coresPerStack) else s1)

/-- TRAP: E_TRAP with NUM and the operand in ADDR (R296). -/
def execTrap (a : SReg) (n : BitVec 5) (e : Bool) : State → Out :=
  knotOp .plain false fun s h => do
    checkSources s h.p [scalSource a e]
    .error (.trap { code := .trap, num := n.toNat, addr := h.p.ctx.scalVal a.toNat } s)

/-- BKPT: E_BKPT with NUM (R296). -/
def execBkpt (n : BitVec 5) : State → Out :=
  knotOp .plain false fun s _ => .error (.trap { code := .bkpt, num := n.toNat } s)

/-- IFENCE: later fetches of the knot see every code-heap write that was completed before (R93, R297). -/
def execIfence : State → Out := knotOp .plain false fun s h =>
  .ok ((s.modKnot h.p.knot fun k => { k with unseen := [] }).retire h.u)

/-- HALT: kills the executing knot, and for a crew knot its crew (R290). -/
def execHalt : State → Out := knotOp { priv := true } false fun s h => .ok (s.killKnot h.p.knot).bump

/-- A range of virtual addresses as parts that do not cross a page: address and length. -/
def pagePieces (va n : Nat) : List (Nat × Nat) :=
  if n = 0 then []
  else
    let first := min n (65536 - va % 65536)
    (va, first) :: (List.range ((n - first + 65535) / 65536)).map fun i =>
      (va + first + 65536 * i, min 65536 (n - first - 65536 * i))

/-- The translations of a range that a path accesses while it stays in place, of parts whose walks have been made; a fault is the trap, and
an access that posts order waits (R64, R75). -/
def spanParts (s : State) (h : Here) (need : Needs) : List (Nat × Nat) → Res (List (Target × Nat))
  | [] => .ok []
  | (va, n) :: rest =>
    match s.translateLane h n need (BitVec.ofNat 64 va) with
    | .error e => .error (.trap { code := e.code, lane := lowestOf h.p.ctx.mask, addr := BitVec.ofNat 64 va } s)
    | .ok t =>
      if (s.stk (homeOf t.pa)).halted || !s.streamClear h (homeOf t.pa) then .error (.wait .stream s)
      else match spanParts s h need rest with
        | .error e => .error e
        | .ok ts => .ok ((t, n) :: ts)

/-- The walks and translations of a range that a path accesses while it stays in place (R64, R75, R322). -/
def spanTargets (s : State) (h : Here) (need : Needs) (parts : List (Nat × Nat)) : Res (List (Target × Nat) × State) := do
  let s1 ← walkAll s h (parts.map fun e => BitVec.ofNat 64 e.1)
  let ts ← spanParts s1 h need parts
  .ok (ts, s1)

/-- The bytes of a range that a path reads in place, after the recalls; bytes that are then poisoned are E_POISON (R327, R332). -/
def spanRead (s : State) (h : Here) (va n : Nat) : Res (List Byte × State) := do
  let (ts, s) ← spanTargets s h { rd := true, w := false } (pagePieces va n)
  let s1 := ts.foldl (fun s t => s.recall false t.1.pa t.2) s
  if ts.any fun t => s1.mem.poisoned t.1.pa t.2 then
    .error (.trap { code := .poison, lane := lowestOf h.p.ctx.mask, addr := BitVec.ofNat 64 va } s1)
  else .ok (ts.flatMap fun t => s1.readMem t.1.key t.1.pa t.2, s1)

/-- The state after bytes are written in order to the parts of a range. -/
def State.spanPut (s : State) : List (Target × Nat) → List Byte → State
  | [], _ => s
  | (t, n) :: ts, bs => (s.writeMem t.key t.pa (bs.take n)).spanPut ts (bs.drop n)

/-- The state after a path writes a range in place. -/
def spanWrite (s : State) (h : Here) (va : Nat) (bs : List Byte) : Res State := do
  let (ts, s) ← spanTargets s h { rd := false, w := true } (pagePieces va bs.length)
  .ok (s.spanPut ts bs)

/-- A destination whose registers are counted from `k` higher (SPILL) or lower (FILL): those of spilled frames lie below
65536. -/
def Dest.shift (f : Nat → Nat) : Dest → Dest
  | .vec rs => .vec (rs.map f)
  | .scal n => .scal n

/-- A pending-fault record after the registers are renumbered. -/
def FaultRec.shift (f : Nat → Nat) (r : FaultRec) : FaultRec :=
  { r with dest := r.dest.shift f, replay := { r.replay with dest := r.replay.dest.shift f } }

/-- A pending-fault record as those of its registers that a test takes, and the others. -/
def FaultRec.parts (p : Nat → Bool) (r : FaultRec) : List FaultRec :=
  match r.dest with
  | .scal _ => [r]
  | .vec rs =>
    (if (rs.filter p).isEmpty then [] else [{ r with dest := .vec (rs.filter p) }]) ++
      (if (rs.filter fun i => !p i).isEmpty then [] else [{ r with dest := .vec (rs.filter fun i => !p i) }])

/-- The lanes of allocation registers with some keys moved by `f`, in the lanes that no other path holds. -/
def moveRegs (grant alloc : Nat) (other : Mask) (old : Sparse (List Word)) (src : Nat → Option (List Word)) : Sparse (List Word) :=
  (List.range alloc).foldl (fun m j =>
    match src j with
    | none => m
    | some vs => spPut j ((List.range grant).map fun l => if other.getLsbD l then (spGet [] old j).getD l 0 else vs.getD l 0) m) old

/-- Frame record from its 16 bytes (R57). -/
def frameOf (bs : List Byte) : Frame :=
  { ret := alignPc (BitVec.ofNat 48 (natOfBytes (sub bs 0 6))), size := natOfBytes (sub bs 6 1) % 32, base := natOfBytes (sub bs 8 2) }

/-- The callee base of a frame record (R23). -/
def Frame.callee (f : Frame) : Nat := f.base + f.size

/-- The bytes of a spill area (R288). -/
def spillBytes (h : Here) (k m : Nat) : List Byte :=
  bytesOfNat k 4 ++ bytesOfNat m 4 ++ bytesOfNat h.k.grant 8 ++ (h.p.ctx.frames.take m).flatMap Frame.bytes ++
    bytesOfNat (stateField (fun i => (h.p.ctx.vecState i).code) k) ((k + 31) / 32 * 8) ++
    (List.range k).flatMap fun r => (List.range h.k.grant).flatMap fun l => bytesOfNat (h.k.lane r l).toNat 4

/-- SPILL: the m outermost frames and their registers go to the spill area (R288). -/
def State.spill (s : State) (h : Here) (m area : Nat) : Res State := do
  let k := ((h.p.ctx.frames[m - 1]?).map Frame.callee).getD 0
  let s1 ← spanWrite s h area (spillBytes h k m)
  let other := s.otherLanes h.p.knot h.u
  let down (r : Nat) := (r + 65536 - k) % 65536
  .ok ((s1.modKnot h.p.knot fun x =>
      { x with vregs := moveRegs x.grant (x.alloc - k) other x.vregs fun j => some (x.vec (j + k)) }).modPath h.u fun p =>
        { p with
          faults := (p.faults.flatMap fun f => f.parts fun r => decide (r < k)).map (·.shift down)
          ctx := { p.ctx with
            vst := (p.ctx.vst.filter fun e => decide (k ≤ e.1)).map fun e => (e.1 - k, e.2)
            frames := (p.ctx.frames.drop m).map fun f => { f with base := f.base - k }
            base := p.ctx.base - k } })

/-- FILL: frames and registers come back from the spill area; none when its checks fail (R288). -/
def State.unspill (s : State) (h : Here) (area : Nat) : Res (Option State) := do
  let (hd, s1) ← spanRead s h area 16
  let k := natOfBytes (sub hd 0 4)
  let m := natOfBytes (sub hd 4 4)
  if natOfBytes (sub hd 8 8) ≠ h.k.grant || decide (h.k.alloc < k + 32) then .ok none
  else do
    let sts := (k + 31) / 32 * 8
    let (bs, s2) ← spanRead s1 h (area + 16) (16 * m + sts + 4 * k * h.k.grant)
    let frames := (List.range m).map fun i => frameOf (sub bs (16 * i) 16)
    let states := sub bs (16 * m) sts
    let ws := wordsOfBytes (bs.drop (16 * m + sts))
    let other := s.otherLanes h.p.knot h.u
    let kinds : List RegState := [.full, .empty, .dead, .pending]
    let old : Sparse RegState := ((List.range k).map fun j => (j, kinds.getD (field2 states j) .dead)).filter fun e => e.2 != .dead
    let up (r : Nat) := (r + k) % 65536
    .ok (some ((s2.modKnot h.p.knot fun x =>
      { x with vregs := moveRegs x.grant x.alloc other x.vregs fun j =>
          if j < k then some ((ws.drop (j * x.grant)).take x.grant) else some (x.vec (j - k)) }).modPath h.u fun p =>
        { p with
          faults := p.faults.map (·.shift up)
          ctx := { p.ctx with
            vst := old ++ (p.ctx.vst.map fun e => (e.1 + k, e.2)).filter fun e => decide (e.1 < h.k.alloc)
            frames := frames
            base := ((frames.getLast?).map Frame.callee).getD k } }))

/-- The ACTION byte and the spill fields of a trap frame (R285, R288). -/
structure Action where
  act : Byte
  count : Nat
  area : Nat
  pc : Pc

/-- ACTION of a frame. -/
def actionOf (fr : List Byte) : Action :=
  { act := fr.getD 81 0, count := natOfBytes (sub fr 82 2), area := natOfBytes (sub fr 88 8), pc := BitVec.ofNat 48 (natOfBytes (sub fr 0 6)) }

/-- Whether RFT is misused: a double trap (R288, R289). -/
def Action.misused (a : Action) (p : Path) : Bool :=
  let collide := a.act.extractLsb' 5 2
  a.act.getLsbD 7 || collide == 3 || (a.act.getLsbD 1 && a.act.getLsbD 2) || (a.act.getLsbD 3 && a.act.getLsbD 4) ||
    (a.act.getLsbD 3 && (a.count == 0 || decide (p.ctx.frames.length < a.count))) ||
    (a.act.getLsbD 4 && (p.ctx.base != 0 || !p.ctx.frames.isEmpty)) ||
    (collide != 0 && !(p.entry.any fun e => e.code == .collide && e.pc == a.pc))

/-- The movement processor after RFT restarts it (R288 step 3). -/
def Mover.restart (hp : HeapSt) (skip : Bool) (m : Mover) : Mover :=
  match m.run, m.fault with
  | .stopped, some f =>
    { m with
      run := .running, fault := none, hints := .none, wait := false, blockedAt := none, wrapped := false
      pc := if !skip then f.pc else if f.atIssue then f.pc + BitVec.ofNat 48 (4 * hp.groupWords f.pc) else f.stop }
  | _, _ => m

/-- The state after the decision on a collided step (R289). -/
def State.judge (s : State) (k : Knot) (how : Nat) : State :=
  match k.crew with
  | none => s
  | some (c, _) =>
    s.modCrew c fun w =>
      if how = 1 then { w with decision := 1 }
      else if how = 2 then
        { w with writers := w.writers.filter fun e =>
            match w.regionAt (4 * e.1) with
            | some (_, r) => !(r.plane && r.rule == 3)
            | none => true }
      else w

/-- The state after the movement fault record that a frame names is released. -/
def State.dropRecord (s : State) (h : Here) (fr : List Byte) : State :=
  match windowOf h.k.regs.window (BitVec.ofNat 64 (natOfBytes (sub fr 16 8))), h.p.entry with
  | some (st, off), some e =>
    if e.code = .movefault then s.freeArea (16 * moduleOf h.p.home + st) off else s
  | _, _ => s

/-- Steps 3 to 6 of R288. -/
def State.leave (s : State) (h : Here) (fr : List Byte) (a : Action) : State :=
  let s1 := if a.act.getLsbD 1 || a.act.getLsbD 2 then
      (match h.k.crew with
      | some (c, _) => s.modMover c (Mover.restart s.heap (a.act.getLsbD 2))
      | none => s)
    else s
  ((s1.judge h.k (a.act.extractLsb' 5 2).toNat).dropRecord h fr).returnFrom h.u fr

/-- A path after DROPPEND: every fault-pending register is dead (R287, R288). -/
def Path.dropPending (p : Path) : Path :=
  { p with
    faults := p.faults.filter fun f => match f.dest with | .vec rs => rs.all fun r => decide (256 ≤ r) | .scal _ => false
    ctx := { p.ctx with vst := p.ctx.vst.filter fun e => e.2 != .pending, sst := p.ctx.sst.filter fun e => e.2 != .pending,
                        pst := p.ctx.pst.filter fun e => e.2 != .pending } }

/-- A path without the pending faults of s30 and s31 of its trap frame whose states software has changed there (R288). -/
def Path.keepFramed (fr : List Byte) (p : Path) : Path :=
  let gone (n : Nat) : Bool := natOfBytes (sub fr 80 1) / 4 ^ (n - 30) % 4 != 3
  { p with faults := p.faults.filter fun f => match f.dest with | .scal n => !(decide (62 ≤ n) && gone (n - 32)) | .vec _ => true }

/-- The records that a replay performs: not those of spilled frames. -/
def Path.toReplay (p : Path) : List FaultRec :=
  p.faults.filter fun f => match f.dest with | .vec rs => rs.all fun r => decide (r < 256) | .scal _ => true

/-- Step 1 of R288: SPILL or FILL; none when a check of FILL fails. -/
def State.spillOrFill (s : State) (h : Here) (a : Action) : Res (Option State) :=
  if a.act.getLsbD 3 then do
    needFilled s h
    (s.spill h a.count a.area).map some
  else if a.act.getLsbD 4 then do
    needFilled s h
    s.unspill h a.area
  else .ok (some s)

/-- RFT (R288, R289). While its replay visits homes it comes back to step 2. A misuse is a double trap whatever code it is in, a handler
task's own among it; its record has the RFT's issue group as PC (R285) and the frame's address. -/
def execRft (a : SReg) (e : Bool) : State → Out :=
  knotOp { priv := true } false fun s h => do
    checkSources s h.p [scalSource a e]
    checkDests s h.p [{ file := .scal, num := 30 }, { file := .scal, num := 31 }]
    let va := h.p.ctx.scalVal a.toNat
    let (fr, s1) ← spanRead s h va.toNat 128
    let act := actionOf fr
    let double (s : State) := s.doubleTrap h { code := .illegal, addr := va } h.p.groupPc
    match h.p.pend with
    | .replay todo => do
      let (done, s2) ← s1.replayOn h todo
      .ok (if done then (match s2.here h.u with | some h2 => s2.leave h2 fr act | none => s2) else s2)
    | _ =>
      if act.misused h.p then .ok (double s1)
      else do
        match ← s1.spillOrFill h act with
        | none => .ok (double s1)
        | some filled =>
          let s2 := filled.modPath h.u (Path.keepFramed fr)
          match s2.here h.u with
          | none => .ok s2
          | some h2 =>
            if act.act.getLsbD 0 then .ok ((s2.modPath h.u Path.dropPending).leave h2 fr act)
            else do
              let (done, s3) ← s2.replayOn h2 h2.p.toReplay
              .ok (if done then (match s3.here h.u with | some h3 => s3.leave h3 fr act | none => s3) else s3)

/-- What a held record does when it is sent again (R206, R291). -/
def Held.postOp (r : Held) (launch : Nat) : PostOp :=
  if r.op = 255 then .dec launch r.addr.toNat
  else if r.op = 6 || r.op = 7 then .vadd (r.op == 7) (BitVec.ofNat 3 r.type)
  else if 128 ≤ r.type then .store
  else .atom ([AtomOp.add, .min, .max, .and, .or, .xor].getD r.op .xor)
    ([AtomType.i32, .n32, .i64, .n64, .f32, .bf16x2, .f16x2].getD r.type .i32)

/-- The home and cause of a held record as its address translates now, and where it lies (R204, R305). -/
def State.retryTarget (s : State) (h : Here) (r : Held) : Nat × Nat × Target :=
  let none' : Target := { pa := 0, key := none }
  if r.op = 255 then
    match spFind h.k.launch s.launches with
    | some la => (16 * la.module + (match spFind r.addr.toNat la.nodes with | some nd => nd.ent.home | none => 0), 0, none')
    | none => (h.p.home, 0, none')
  else
    match s.translateLane h r.data.length { rd := decide (r.type < 128), w := true } r.addr with
    | .error .page => (h.p.home, 1, none')
    | .error .prot => (h.p.home, 2, none')
    | .ok t =>
      if homeOf t.pa = Config.hostHome && decide (r.type < 128) then (Config.hostHome, 4, t) else (homeOf t.pa, 0, t)

/-- The post table after records stay held on entry `i` (R291): `old` is the entry as it was. -/
def Ctx.keepHeld (c : Ctx) (i : Nat) (old : PostEntry) : Ctx :=
  c.modPost i fun e =>
    let e1 := if e.valid then e else { old with outst := 0, held := [] }
    { e1 with faulted := true, held := old.held.foldl addHeld e1.held }

/-- The state after retries from a list of held records, and how many were sent (R291): `old` is the faulted entry, `sent` the
count so far. A wait leaves the records still to send with the path. A retry that goes elsewhere frees the entry, so that a later one
to the entry's own home begins a fresh entry, at SEQ 1 (log 29, DESIGN CHOICE). -/
def State.retryAll (s : State) (u i : Nat) (old : PostEntry) (sent : Nat) : List Held → Res (Nat × State)
  | [] => .ok (sent, s.modCtx u fun c => c.modPost i PostEntry.drained)
  | r :: rest =>
    match s.here u with
    | none => .ok (sent, s)
    | some h =>
     let waits (w : Wait) (s : State) : Res (Nat × State) :=
       .error (.wait w (s.modPath u fun p => { p with pend := .pfix sent { old with held := r :: rest } }))
     match walkAll s h (if r.op = 255 then [] else [r.addr]) with
     | .error _ => waits .stream s
     | .ok s =>
      let (home, cause, t) := s.retryTarget h r
      -- the entry drains when the retry goes elsewhere, or when its SEQ is exhausted and it is to be allocated afresh (R74, R305)
      let s1 := s.modCtx u fun c => c.modPost i fun e =>
        if e.home = old.home && (home != old.home || e.seq == 4194303) then e.drained else e
      match s1.here u with
      | none => .ok (sent, s1)
      | some h1 =>
        match sendPost s1 h1 home cause
            { lane := r.lane, op := r.postOp h.k.launch, code := r.op, type := r.type, va := r.addr, pa := t.pa, key := t.key
              data := r.data, stamp := h.p.ctx.stamp } with
        | .ok s2 => (s2.freeArea r.home r.area).retryAll u i old (sent + 1) rest
        | .error (.wait w _) => waits w s1
        | .error (.trap _ _) =>
          let s2 := s1.modCtx u fun c => c.keepHeld i { old with held := r :: rest }
          .ok (sent, match s2.here u with
            | some h2 => s2.relink h2.k.regs.window (h2.p.ctx.post i).held
            | none => s2)

/-- The state after the stream of an entry is open again at its home (R78). -/
def State.reopen (s : State) (knot : Nat) (e : PostEntry) : State :=
  s.modFlow fun f => { f with held := f.held.filter fun x => !(x.knot == knot && x.home == e.home && x.stream == e.stream) }

/-- PFIX, retry (R291, R305). -/
def execPfix (d : SReg) (i : BitVec 3) : State → Out :=
  knotOp { priv := true } false fun s h => do
    if d = 0 then pure () else checkDest s h.p { file := .scal, num := d.toNat }
    let e := h.p.ctx.post i.toNat
    match h.p.pend with
    | .pfix sent old => do
      let (n, s1) ← s.retryAll h.u i.toNat old sent old.held
      .ok ((s1.writeScal h.u d.toNat (BitVec.ofNat 64 n)).retire h.u)
    | _ =>
      if !e.valid || !e.faulted then .ok ((s.writeScal h.u d.toNat 0).retire h.u)
      else do
        let s1 := (s.modCtx h.u fun c => c.modPost i.toNat fun e => { e with faulted := false, held := [] }).reopen h.p.knot e
        let (n, s2) ← s1.retryAll h.u i.toNat e 0 e.held
        .ok ((s2.writeScal h.u d.toNat (BitVec.ofNat 64 n)).retire h.u)

/-- PFIX, drop (R291). -/
def execPfixDrop (d : SReg) (i : BitVec 3) : State → Out :=
  knotOp { priv := true } false fun s h => do
    if d = 0 then pure () else checkDest s h.p { file := .scal, num := d.toNat }
    let e := h.p.ctx.post i.toNat
    if !e.valid || !e.faulted then .ok ((s.writeScal h.u d.toNat 0).retire h.u)
    else
      let s1 := e.held.foldl (fun s r => s.freeArea r.home r.area) s
      let s2 := (s1.modCtx h.u fun c => c.modPost i.toNat fun e =>
        ({ e with faulted := false, held := [] } : PostEntry).drained).reopen h.p.knot e
      .ok ((s2.writeScal h.u d.toNat (BitVec.ofNat 64 e.held.length)).retire h.u)

/-- A service tag that no knot has: the one that a choice names when it is free, otherwise the least unused (log 12, DESIGN CHOICE). -/
def State.freeTag (s : State) : DWord × State :=
  let (v, s1) := s.pick 0
  let used := s.knots.map fun e => e.2.tag.toNat
  (BitVec.ofNat 64 (if v = 0 || decide (2 ^ 64 ≤ v) || used.contains v then leastUnused used else v), s1)

/-- CTXSV: stores the knot's service tag, and holds the knot in its slot, which may switch held knots out (R292, R294). -/
def execCtxsv (a : SReg) (e : Bool) : State → Out :=
  knotOp { priv := true } false fun s h => do
    checkSources s h.p [scalSource a e]
    let va := h.p.ctx.scalVal a.toNat
    needAligned s 8 [(lowestOf h.p.ctx.mask, va, [])]
    let (tag, s1) := if h.k.tag = 0 then s.freeTag else (h.k.tag, s)
    let s2 ← spanWrite s1 h va.toNat (bytesOfNat tag.toNat 8)
    let s3 := (s2.modKnot h.p.knot fun k => { k with tag := tag, serving := true }).retire h.u
    .ok ((s3.modPath h.u fun p =>
      match p.place with
      | .resident st => { p with place := .held st }
      | _ => p).serviceOn h.p.home [h.p.core])

/-- A path of a knot that CTXLD resumes: ready on its core, or a parked image (R293). -/
def Path.unhold (now order : Nat) (p : Path) : Path :=
  match p.place with
  | .held st => { p with place := .resident st, blockedAt := none }
  | .heldOut img => { p with place := .parked { img with age := now, order := order } }
  | _ => p

/-- The knot held for service that a tag names (R293). -/
def State.heldBy (s : State) (v : DWord) : Option Nat :=
  if v = 0 then none else (s.knots.find? fun e => e.2.serving && e.2.tag == v).map (·.1)

/-- The path whose image, given to a handler task, lies at an address (R293, R295). -/
def State.imageAt (s : State) (v : DWord) : Option (Nat × Path × Stored) :=
  (s.paths.find? fun e =>
    match e.2.place with
    | .handled img =>
      (match (spFind e.2.knot s.knots).bind fun k => spFind k.launch s.launches with
      | some la => windowAddr la.regs.window img.home img.off == v
      | none => false)
    | _ => false).bind fun e =>
      match e.2.place with
      | .handled img => some (e.1, e.2, img)
      | _ => none

/-- The state after a knot held for service is ready again (R293). -/
def State.endService (s : State) (kn : Nat) : State :=
  let (id, s1) := s.newId
  let s2 := s1.modKnot kn fun k => { k with serving := false }
  (s.pathsOf kn).foldl (fun s e => s.modPath e.1 (Path.unhold (s.stk e.2.home).cycles id)) s2

/-- The state after an image given to a handler task becomes a parked image of its stack: its fault record is released, its
siblings resume, and its fault-pending registers are replayed when it resumes (R293, R295). -/
def State.endHandling (s : State) (u : Nat) (p : Path) (img : Stored) : State :=
  let (id, s1) := s.newId
  let s2 := match p.entry with
    | some e => s1.freeArea e.home e.off
    | none => s1
  let s3 := s2.modPath u fun p =>
    { p with place := .parked { img with age := (s.stk p.home).cycles, order := id }, entry := none
             pend := if p.toReplay.isEmpty then p.pend else .replay p.toReplay }
  match s.here u with
  | some h => s3.resumeAll (s.partners u h.p h.k)
  | none => s3

/-- CTXLD: `kill` for the second form (R293). -/
def ctxLoad (kill : Bool) (d a : SReg) (e : Bool) : State → Out :=
  knotOp { priv := true } false fun s h => do
    checkSources s h.p [scalSource a e]
    if d = 0 then pure () else checkDest s h.p { file := .scal, num := d.toNat }
    let v := h.p.ctx.scalVal a.toNat
    let done (s1 : State) (n : DWord) : Res State := .ok ((s1.writeScal h.u d.toNat n).retire h.u)
    match s.heldBy v with
    | some kn => done (if kill then s.killKnot kn else s.endService kn) 1
    | none =>
      match s.imageAt v with
      | some (u, p, img) => done (if kill then s.killKnot p.knot else s.endHandling u p img) 1
      | none => done s 0

/-- CTXLD (R293). -/
def execCtxld (d a : SReg) (e : Bool) : State → Out := ctxLoad false d a e

/-- CTXLD.KILL (R293). -/
def execCtxldKill (d a : SReg) (e : Bool) : State → Out := ctxLoad true d a e

end Sys2Proof.Machine
end

