-- ==== Sys2Proof/Machine/Commands.lean ====
section
/-! DEFINITION. The management core: the command ring and its commands, pre-emption, debugger halts, reset
(spec/17 R300 to R304; spec/21 R323 to R328, R332 to R337). -/
namespace Sys2Proof.Machine

/-- The command that a management core executes next: the header of its ring, HEAD, the physical address of its slot, its 64
bytes (R247, R325). -/
structure Command where
  ring : Nat
  head : Nat
  slot : Nat
  bytes : List Byte
  deriving DecidableEq, Repr

/-- OP of a command (R325). -/
def Command.op (c : Command) : Nat := fieldAt c.bytes 0 2

/-- Operand `i` of a command other than QREG and CIRCUIT: 8 bytes each from byte 8 upward, in the order of R326 (log 31, PRESUMED). -/
def Command.arg (c : Command) (i : Nat) : Nat := fieldAt c.bytes (8 + 8 * i) 8

/-- STATUS of a command that is done, has a bad argument, or finds its table full (R325). -/
def cmdDone : Nat := 1
def cmdBadarg : Nat := 2
def cmdFull : Nat := 3

/-- Whether `n` bytes from a physical address exist, all of one home. -/
def physOk (c : Strap) (pa n : Nat) : Bool :=
  validPa c pa && validPa c (pa + n - 1) && homeOf pa == homeOf (pa + n - 1)

/-- The command at the head of a module's ring: none without a ring that can be read, without a command, or while the module is
left in reset (R325, R334). -/
def State.command (s : State) (m : Nat) : Option Command :=
  match (s.mod m).ring, (s.mod m).failedStage with
  | some ring, none =>
    if !s.strap.hasModule m || !physOk s.strap ring 64 then none
    else
      let base := s.readRawNat ring 8
      let slots := s.readRawNat (ring + 8) 4
      let tail := s.readRawNat (ring + 16) 8
      let head := s.readRawNat (ring + 24) 8
      let slot := base + head % slots * 64
      if slots = 0 || tail ≤ head || !physOk s.strap slot 64 then none
      else some { ring := ring, head := head, slot := slot, bytes := s.readRaw slot 64 }
  | _, _ => none

/-- The state after a command is complete: HEAD has passed it, then its STATUS is written (R247, R325). -/
def State.finish (s : State) (c : Command) (status : Nat) : State :=
  ((s.writeRaw (c.ring + 24) (bytesOfNat (c.head + 1) 8)).writeRaw (c.slot + 4) (bytesOfNat status 4)).bump

/-- The state after the management core of a module has read its ring's header and the slot that it names: lines that the host holds
modified are recalled (R325, R327). -/
def State.pullRing (s : State) (m : Nat) : State :=
  match (s.mod m).ring with
  | none => s
  | some ring =>
    let s1 := s.pull ring 64
    s1.pull (s1.readRawNat ring 8 + s1.readRawNat (ring + 24) 8 % s1.readRawNat (ring + 8) 4 * 64) 64

/-- The command that the management core of a module executes next, with the state after it is read. -/
def State.nextCommand (s : State) (m : Nat) : Option (Command × State) := ((s.pullRing m).command m).map fun c => (c, s.pullRing m)

/-- A command of one OP at the head of a module's ring: what it does in the state after it is read, and nothing when another command is
there. -/
def command (op module : Nat) (s : State) (f : State → Command → State) : Out :=
  event <|
    match s.nextCommand module with
    | none => s
    | some (c, s1) => if c.op = op then f s1 c else s

/-- Whether a header is one that QREG accepts (R337). -/
def State.headerOk (s : State) (header : Nat) : Bool :=
  let bs := s.readRaw header 64
  let slots := fieldAt bs 8 4
  fieldAt bs 0 8 % 512 == 0 && decide (1 ≤ slots) && decide (slots ≤ 65536) && 2 ^ Nat.log2 slots == slots &&
    zeroAt bs 12 36 && zeroAt bs 48 16

/-- The per-knot registers that QREG registers (R331, R337). -/
def Command.regs (c : Command) : KnotRegs :=
  { ptbase := BitVec.ofNat 64 (fieldAt c.bytes 24 8), asid := BitVec.ofNat 16 (fieldAt c.bytes 60 2)
    keysel := BitVec.ofNat 64 (fieldAt c.bytes 32 8), vecbase := BitVec.ofNat 64 (fieldAt c.bytes 48 8)
    window := fieldAt c.bytes 40 8 / 68719476736, watchdog := BitVec.ofNat 32 (fieldAt c.bytes 56 4) }

/-- Whether the operands of QREG are legal: reserved bits zero, HEADER aligned and present (R337). -/
def State.qregOk (s : State) (c : Command) : Bool :=
  let header := fieldAt c.bytes 16 8
  let ptbase := fieldAt c.bytes 24 8
  let landing := fieldAt c.bytes 40 8
  let vecbase := fieldAt c.bytes 48 8
  decide (fieldAt c.bytes 8 1 < 8) && zeroAt c.bytes 9 7 && zeroAt c.bytes 62 2 && zeroAt c.bytes 2 2 &&
    header % 64 == 0 && validPa s.strap header && ptbase % 65536 == 0 && decide (ptbase < 2 ^ 52) &&
    landing % 68719476736 == 0 && decide (landing < 2 ^ 55) && vecbase % 4096 == 0 && decide (vecbase < 2 ^ 32) &&
    s.headerOk header

/-- QREG: registers the launch queue of a priority, in place of the one registered before (R326, R337). -/
def execQreg (module : Nat) (s : State) : Out :=
  command 1 module s fun s0 c =>
    let s := s0.pull (fieldAt c.bytes 16 8) 64
    if !s.qregOk c then s.finish c cmdBadarg
    else
      let header := fieldAt c.bytes 16 8
      let q : QueueReg := { header := header, base := s.readRawNat header 8, slots := s.readRawNat (header + 8) 4, regs := c.regs }
      (s.setMod module fun x => { x with queues := spPut (fieldAt c.bytes 8 1) q x.queues }).finish c cmdDone

/-- Whether a virtual address under an address space lies in a range of pages. -/
def inPages (asid page count : Nat) (a : BitVec 16) (va : DWord) : Bool :=
  a.toNat == asid && decide (page ≤ va.toNat / 65536) && decide (va.toNat / 65536 < page + count)

/-- Whether a path holds an access translated in a range that it has not yet performed (R323). -/
def State.pathTranslated (s : State) (asid page count : Nat) (p : Path) : Bool :=
  match p.pend, spFind p.knot s.knots with
  | .access a, some k => !a.op.onCore && a.lanes.any fun l => inPages asid page count k.regs.asid l.va
  | _, some k => p.unperformed.any fun e => e.2.lanes.any fun l => inPages asid page count k.regs.asid l.va
  | _, _ => false

/-- SHOOT: every TLB of the pod drops its entries for a range; complete when every access already translated there is performed
or held (R323, R326). -/
def execShoot (module : Nat) (s : State) : Out :=
  command 3 module s fun s c =>
    let keep (e : TlbEnt) : Bool :=
      !(e.asid == c.arg 0 && decide (c.arg 1 ≤ e.page) && decide (e.page < c.arg 1 + c.arg 2))
    let s1 := s.modMem fun m => { m with tlb := m.tlb.filter keep }
    let busy := (s.flow.posts.any fun p => inPages (c.arg 0) (c.arg 1) (c.arg 2) p.asid p.va) ||
      s.paths.any fun e => s.pathTranslated (c.arg 0) (c.arg 1) (c.arg 2) e.2
    if busy then (if s1.mem.tlb = s.mem.tlb then s else s1.bump) else s1.finish c cmdDone

/-- KEYLOAD: a key slot from 1 to 63 is loaded from a record encrypted to the device key (R324, R326). -/
def execKeyload (module : Nat) (s : State) : Out :=
  command 4 module s fun s0 c =>
    let s := s0.pull (c.arg 1) Config.keyRecordBytes
    let record := if physOk s.strap (c.arg 1) Config.keyRecordBytes then
        Config.openKeyRecord module (s.readRaw (c.arg 1) Config.keyRecordBytes) else none
    match record with
    | some key =>
      if c.arg 0 = 0 || decide (64 ≤ c.arg 0) then s.finish c cmdBadarg
      else (s.setMod module fun x => { x with keys := spPut (c.arg 0) key x.keys }).finish c cmdDone
    | none => s.finish c cmdBadarg

/-- The ends of a circuit (R328). -/
def circuitEnds (e : BitVec 16) : Nat × Nat := ((e.extractLsb' 0 4).toNat, (e.extractLsb' 4 4).toNat)

/-- Whether a circuit ends at a stack. -/
def circuitAt (st : Nat) (e : BitVec 16) : Bool := (circuitEnds e).1 == st || (circuitEnds e).2 == st

/-- The circuits of a module that end at a stack (R328). -/
def ModuleSt.circuitsAt (x : ModuleSt) (st : Nat) : Nat := (x.circuits.filter fun e => circuitAt st e.2).length

/-- CIRCUIT: tears down the entry that the connection table holds at INDEX, then sets the new one, BADARG before FULL (R328, R336); an
entry that is refused leaves its INDEX without a circuit (log 38, DEDUCED). -/
def execCircuit (module : Nat) (s : State) : Out :=
  command 5 module s fun s c =>
    let idx := fieldAt c.bytes 8 2
    let e := BitVec.ofNat 16 (fieldAt c.bytes 10 2) &&& 0x80FF#16
    let (a, b) := circuitEnds e
    if decide (64 ≤ idx) || !zeroAt c.bytes 12 52 then s.finish c cmdBadarg
    else
      let s1 := s.setMod module fun x => { x with circuits := spDrop idx x.circuits }
      if !e.getLsbD 15 then s1.finish c cmdDone
      else if decide (b ≤ a) || decide (s.strap.stackCount ≤ b) then s1.finish c cmdBadarg
      else if decide (8 ≤ (s1.mod module).circuitsAt a) || decide (8 ≤ (s1.mod module).circuitsAt b) then s1.finish c cmdFull
      else (s1.setMod module fun x => { x with circuits := spPut idx e x.circuits }).finish c cmdDone

/-- POOL: pages of a stack's memory join its free-page pool (R275, R326). -/
def execPool (module : Nat) (s : State) : Out :=
  command 6 module s fun s c =>
    let home := 16 * module + c.arg 0
    let a := c.arg 1
    let n := c.arg 2
    if decide (s.strap.stackCount ≤ c.arg 0) || a % 65536 != 0 || (n != 0 && !(physOk s.strap a (65536 * n) && homeOf a == home)) then
      s.finish c cmdBadarg
    else (((List.range n).foldl (fun (s : State) i => s.givePage home (a + 65536 * i)) s)).finish c cmdDone

/-- PREEMPT: the launch unit and every engine stop; the command completes with PREEMPTION_COMPLETE (R300). -/
def execPreempt (module : Nat) (s : State) : Out :=
  command 7 module s fun s c =>
    match (s.mod module).preempt with
    | .running => (s.setMod module fun x => { x with preempt := .stopping }).bump
    | .stopping => s
    | .stopped => s.finish c cmdDone

/-- Whether a home is a stack of a module. -/
def ofModule (m home : Nat) : Bool := moduleOf home == m

/-- Whether every engine of a module has acknowledged a pre-emption: no stack halted, no hop on its way there, no access of a path left to
perform that may not be performed yet, no copy in flight and no batch begun (R300, R304). -/
def State.allStopped (s : State) (m : Nat) : Bool :=
  (s.strap.homesOf m).all (fun h => !(s.stk h).halted) &&
    s.paths.all (fun e => (match e.2.place with | .flying d => !ofModule m d | _ => true) && (!ofModule m e.2.home || s.settles e.1)) &&
    s.crews.all fun e => !ofModule m e.2.home || e.2.quiet

/-- The state after a non-rooted path of a module that has a seat is stored as an image (R301). -/
def State.storePath (s : State) (m u : Nat) : State :=
  match s.here u with
  | none => s
  | some h =>
    if !ofModule m h.p.home || h.k.rooted then s
    else match h.p.place with
      | .resident _ | .held _ => (s.seatOut u h.p.knot).getD s
      | _ => s

/-- The state after a crew of a module that is on a core is stored as a crew image; one that does not fit keeps its core
(R301). -/
def State.storeCrewOf (s : State) (m c : Nat) : State :=
  match spFind c s.crews with
  | none => s
  | some w =>
    match w.place with
    | .core _ => if ofModule m w.home then (s.storeCrew c w).getD s else s
    | .stored _ => s

/-- PREEMPTION_COMPLETE: every engine has stopped, and knots and crews are stored (R301). -/
def execPreemptionComplete (module : Nat) (s : State) : Out :=
  event <|
    if !s.strap.hasModule module || (s.mod module).preempt ≠ .stopping || !s.allStopped module then s
    else
      let s1 := (s.paths.map (·.1)).foldl (fun (s : State) u => s.storePath module u) s
      let s2 := (s1.crews.map (·.1)).foldl (fun (s : State) c => s.storeCrewOf module c) s1
      let s3 := (s2.setMod module fun x => { x with preempt := .stopped }).bump
      match s3.nextCommand module with
      | none => s3
      | some (c, s4) => if c.op = 7 then s4.finish c cmdDone else s3

/-- RESUME: the module runs again, and its images resume under R34 (R302). -/
def execResume (module : Nat) (s : State) : Out :=
  command 8 module s fun s c => (s.setMod module fun x => { x with preempt := .running }).finish c cmdDone

/-- Whether the engines of a halted stack have stopped: no copy in flight and no batch begun (R304). -/
def State.stackQuiet (s : State) (home : Nat) : Bool := s.crews.all fun e => e.2.home != home || e.2.quiet

/-- HALTSTK: one stack halts; complete when its copies and begun batches are (R304). -/
def execHaltstk (module : Nat) (s : State) : Out :=
  command 9 module s fun s c =>
    let home := 16 * module + c.arg 0
    if decide (s.strap.stackCount ≤ c.arg 0) then s.finish c cmdBadarg
    else
      let s1 := s.setStk home fun t => { t with halted := true }
      if s.stackQuiet home then s1.finish c cmdDone else if (s.stk home).halted then s else s1.bump

/-- RUNSTK: a halted stack resumes (R304). -/
def execRunstk (module : Nat) (s : State) : Out :=
  command 10 module s fun s c =>
    if decide (s.strap.stackCount ≤ c.arg 0) then s.finish c cmdBadarg
    else (s.setStk (16 * module + c.arg 0) fun t => { t with halted := false }).finish c cmdDone

/-- The device hash: the first 32 bytes of SHA-512 over PART, REV and the binder firmware version (R335). -/
def State.deviceHash (s : State) : List Byte :=
  (digestBytes (sha512 (sub (bytesOfNat s.cap0.toNat 8) 0 2 ++ Config.binderVersion))).take 32

/-- The report of ATTEST: nonce, measurement, CAP0 and device hash, and their signature (R335, log 32, PRESUMED). -/
def State.attestation (s : State) (m : Nat) (nonce : List Byte) : List Byte :=
  let body := nonce ++ digestBytes (s.mod m).measure ++ bytesOfNat s.cap0.toNat 8 ++ s.deviceHash
  body ++ deviceSign m body

/-- ATTEST: writes the signed report for a nonce (R335). -/
def execAttest (module : Nat) (s : State) : Out :=
  command 11 module s fun s0 c =>
    let s := s0.pull (c.arg 0) 64
    let bs := s.attestation module (s.readRaw (c.arg 0) 64)
    if physOk s.strap (c.arg 0) 64 && physOk s.strap (c.arg 1) bs.length then (s.writeRaw (c.arg 1) bs).finish c cmdDone
    else s.finish c cmdBadarg

/-- DEVHASH: writes the 32-byte device hash (R326, R335). -/
def execDevhashReport (module : Nat) (s : State) : Out :=
  command 12 module s fun s c =>
    if physOk s.strap (c.arg 0) 32 then (s.writeRaw (c.arg 0) s.deviceHash).finish c cmdDone else s.finish c cmdBadarg

/-- The map of withdrawn cores: bit 32 s + c for core c of stack s (R326). -/
def State.withdrawnMap (s : State) (m : Nat) : Nat :=
  (List.range 16).foldl (fun a st => (s.stk (16 * m + st)).withdrawn.foldl (fun a c => a ||| 2 ^ (32 * st + c)) a) 0

/-- WLIST: writes the 64-byte map of withdrawn cores (R326). -/
def execWlist (module : Nat) (s : State) : Out :=
  command 13 module s fun s c =>
    if physOk s.strap (c.arg 0) 64 then (s.writeRaw (c.arg 0) (bytesOfNat (s.withdrawnMap module) 64)).finish c cmdDone
    else s.finish c cmdBadarg

/-- Whether a key record is signed by the root key or a registered key: its last 512 bytes are the signature (R326, log 33, PRESUMED). -/
def ModuleSt.keyTrusted (x : ModuleSt) (record : List Byte) : Bool :=
  let message := record.take (record.length - 512)
  let signature := record.drop (record.length - 512)
  rsaVerify Config.rootKey message signature || x.signKeys.any fun k => rsaVerify k.2 message signature

/-- SIGNKEY: registers a signed code-signing key under its KEYID (R326). -/
def execSignkey (module : Nat) (s : State) : Out :=
  command 14 module s fun s0 c =>
    let s := s0.pull (c.arg 1) Config.signKeyBytes
    let id := BitVec.ofNat 64 (c.arg 0)
    let record := s.readRaw (c.arg 1) Config.signKeyBytes
    let others := (s.mod module).signKeys.filter fun k => k.1 != id
    if !physOk s.strap (c.arg 1) Config.signKeyBytes || !(s.mod module).keyTrusted record then s.finish c cmdBadarg
    else if 64 ≤ others.length then s.finish c cmdFull
    else (s.setMod module fun x => { x with signKeys := others ++ [(id, record.take (record.length - 512))] }).finish c cmdDone

/-- UNLISTED_COMMAND: an OP that R326 does not list completes with BADARG. -/
def execUnlistedCommand (module : Nat) (s : State) : Out :=
  event <|
    match s.nextCommand module with
    | none => s
    | some (c, s1) => if decide (1 ≤ c.op) && decide (c.op ≤ 14) then s else s1.finish c cmdBadarg

/-- Whether a knot goes with a module's reset: the module launched it (R334). -/
def Knot.launchedBy (k : Knot) (m : Nat) : Bool := k.module == m

/-- Whether a path is on a stack of a module, or on its way there. -/
def Path.inModule (p : Path) (m : Nat) : Bool :=
  ofModule m p.home || (match p.place with | .flying d => ofModule m d | _ => false)

/-- The state without what runs on a module and what it launched (R334, log 34, DEDUCED). -/
def State.stopModule (s : State) (m : Nat) : State :=
  let gone := s.paths.filter fun e => e.2.inModule m || (spFind e.2.knot s.knots).all (·.launchedBy m)
  let paths := s.paths.filter fun e => !gone.any fun x => x.1 == e.1
  let live (u : Nat) : Bool := paths.any fun e => e.1 == u
  let s := gone.foldl (fun (s : State) e => s.freePath e.2) s
  { s with
    paths := paths
    knots := s.knots.filter fun e => paths.any fun x => x.2.knot == e.1
    crews := s.crews.filter fun e => !ofModule m e.2.home
    launches := s.launches.filter fun e => e.2.module != m
    stks := s.stks.filter fun e => !ofModule m e.1
    flow := { s.flow with
      posts := s.flow.posts.filter fun p => live p.path && !ofModule m p.home
      acks := s.flow.acks.filter fun a => live a.path
      emits := s.flow.emits.filter fun e => (spFind e.launch s.launches).any fun la => la.module != m
      held := s.flow.held.filter fun h => !ofModule m h.home
      bars := s.flow.bars.filter fun p => (spFind p.launch s.launches).any fun la => la.module != m
      queues := s.flow.queues.filter fun e => !ofModule m (homeOf e.1)
      chains := s.flow.chains.filter fun c => !ofModule m (homeOf c.page)
      broods := s.flow.broods.filter fun e => (spFind e.2.root s.launches).any fun la => la.module != m } }

/-- The firmware stages that verify against the root key, up to the first that fails (R334): a stage is its image and its signature. -/
def goodStages (stages : List (List Byte × List Byte)) : List (List Byte) :=
  (stages.takeWhile fun st => rsaVerify Config.rootKey st.1 st.2).map (·.1)

/-- A module after the reset of R334 that finds some firmware stages: registrations, keys and circuits cleared, the epoch of its slot-0 key
one higher, the stages verified and measured; the first that fails is reported. -/
def ModuleSt.restarted (x : ModuleSt) (module : Nat) (stages : List (List Byte × List Byte)) : ModuleSt :=
  { ModuleSt.reset module with
    epoch := x.epoch + 1, coord := x.coord, measure := measureOf (goodStages stages)
    failedStage := if (goodStages stages).length < stages.length then some (goodStages stages).length else none }

/-- RESET of a module: registrations, keys and TLBs are cleared, slot 0 holds a fresh key, and the firmware stages found are verified and
measured; a stage that fails leaves the module in reset. Memory keeps its contents (R334). -/
def execResetModule (module : Nat) (stages : List (List Byte × List Byte)) (s : State) : Out :=
  event <|
    if !s.strap.hasModule module then s
    else
      let s1 := s.stopModule module
      let s2 := s1.setMod module fun _ => (s.mod module).restarted module stages
      let s3 := s2.modMem fun mem =>
        { mem with tlb := mem.tlb.filter fun e => !ofModule module (e.unit / 64)
                   areas := mem.areas.filter fun e =>
                     !ofModule module (e.1 / Config.zoneBytes) && e.2.own.all fun k => (spFind k s1.knots).isSome }
      (if s.strap.moduleCount = 1 then { s3 with heap := .reset } else s3).bump

end Sys2Proof.Machine
end

