-- ==== Sys2Proof/Machine/Objects.lean ====
section
/-! DEFINITION. Xouxa objects: header, section table, symbols, relocation records, migration maps, and the checks that a bind makes
on them (spec/19 R306 to R311, R315, spec/20 R320; spec/01 R27, R28; spec/07 R121 to R124, R130). -/
namespace Sys2Proof.Machine

/-- A failure of a bind: STATUS and DETAIL (R314, R320). -/
structure BindFail where
  status : Nat
  detail : Nat
  deriving DecidableEq, Repr

/-- BADFORM of the header or the section table (R320). -/
def badHeader : BindFail := { status := 2, detail := 4294967295 }

/-- An entry of the section table (R307); `clear` says that bytes 24 to 31 are zero. -/
structure Sect where
  off : Nat
  size : Nat
  type : Nat
  link : Nat
  name : Nat
  align : Nat
  flags : Nat
  clear : Bool
  deriving DecidableEq, Repr

/-- A symbol (R308). -/
structure Sym where
  name : Nat
  sect : Nat
  kind : Nat
  bind : Nat
  value : Nat
  deriving DecidableEq, Repr

/-- A relocation record, with the section that it patches (R309); `clear` says that bytes 9 to 15 are zero. -/
structure Reloc where
  link : Nat
  off : Nat
  sym : Nat
  type : Nat
  clear : Bool
  addend : Int
  deriving DecidableEq, Repr

/-- An object read into the management core. -/
structure Obj where
  bytes : List Byte
  sectab : Nat
  base : Nat
  delayed : Bool
  sects : List Sect
  deriving DecidableEq, Repr

/-- An entry of the section table at an offset. -/
def sectAt (bs : List Byte) (off : Nat) : Sect :=
  { off := fieldAt bs off 4, size := fieldAt bs (off + 4) 4, type := fieldAt bs (off + 8) 2, link := fieldAt bs (off + 10) 2
    name := fieldAt bs (off + 12) 4, align := fieldAt bs (off + 16) 4, flags := fieldAt bs (off + 20) 4
    clear := zeroAt bs (off + 24) 8 }

/-- The object in some bytes; none when its header fails (R306). -/
def objOf (bs : List Byte) : Option Obj :=
  let nsect := fieldAt bs 6 2
  let sectab := fieldAt bs 12 4
  let flags := fieldAt bs 20 4
  if fieldAt bs 0 4 == 0x58554F58 && fieldAt bs 4 2 == 1 && decide (1 ≤ nsect) && fieldAt bs 8 4 == bs.length &&
      sectab % 32 == 0 && decide (1024 ≤ sectab) && decide (sectab + 32 * nsect ≤ bs.length) && fieldAt bs 16 4 % 4096 == 0 &&
      decide (flags < 2) && zeroAt bs 640 384 then
    some { bytes := bs, sectab := sectab, base := fieldAt bs 16 4, delayed := flags == 1
           sects := (List.range nsect).map fun i => sectAt bs (sectab + 32 * i) }
  else none

/-- The bytes of a section. -/
def Obj.data (o : Obj) (x : Sect) : List Byte := sub o.bytes x.off x.size

/-- The sections of a type, with their indexes. -/
def Obj.ofType (o : Obj) (t : Nat) : List (Nat × Sect) := (o.sects.zipIdx.map fun e => (e.2, e.1)).filter fun e => e.2.type == t

/-- The bytes of the first section of a type. -/
def Obj.first (o : Obj) (t : Nat) : List Byte := ((o.ofType t).head?.map fun e => o.data e.2).getD []

/-- The name at an offset of the string table; none when nothing ends it. -/
def Obj.nameAt (o : Obj) (off : Nat) : Option (List Byte) :=
  let r := (o.first 7).drop off
  if r.contains 0 then some (r.takeWhile fun b => b != 0) else none

/-- The symbols (R308). -/
def Obj.syms (o : Obj) : List Sym :=
  let bs := o.first 6
  (List.range (bs.length / 24)).map fun i =>
    { name := fieldAt bs (24 * i) 4, sect := fieldAt bs (24 * i + 4) 2, kind := fieldAt bs (24 * i + 6) 1
      bind := fieldAt bs (24 * i + 7) 1, value := fieldAt bs (24 * i + 8) 8 }

/-- The records of a RELOC section (R309). -/
def Obj.relocsOf (o : Obj) (x : Sect) : List Reloc :=
  let bs := o.data x
  (List.range (bs.length / 24)).map fun i =>
    { link := x.link, off := fieldAt bs (24 * i) 4, sym := fieldAt bs (24 * i + 4) 4, type := fieldAt bs (24 * i + 8) 1
      clear := zeroAt bs (24 * i + 9) 7, addend := (BitVec.ofNat 64 (fieldAt bs (24 * i + 16) 8)).toInt }

/-- Every record in the order of application (R315, R320). -/
def Obj.relocs (o : Obj) : List Reloc := (o.ofType 8).flatMap fun e => o.relocsOf e.2

/-- The section at an index. -/
def Obj.sect? (o : Obj) (i : Nat) : Option Sect := o.sects[i]?

/-- Whether the section at an index has one of some types. -/
def Obj.isType (o : Obj) (i : Nat) (ts : List Nat) : Bool := (o.sect? i).any fun x => ts.contains x.type

/-- Whether LINK of a section names what R307 gives its type. -/
def Obj.linkOk (o : Obj) (i : Nat) (x : Sect) : Bool :=
  match x.type with
  | 1 => x.link == 65535 || (x.flags != 2 && (o.sect? x.link).any fun y => y.type == 2 && y.link == i)
  | 2 => (o.sect? x.link).any fun y => y.type == 1 && y.link == i
  | 6 => o.isType x.link [7]
  | 8 => o.isType x.link [1, 3, 4, 5]
  | _ => x.link == 65535

/-- Whether two ranges meet. -/
def rangesMeet (a n b m : Nat) : Bool := decide (0 < n) && decide (0 < m) && decide (a < b + m) && decide (b < a + n)

/-- Whether a symbol is well formed (R308). -/
def Obj.symOk (o : Obj) (y : Sym) : Bool :=
  (o.nameAt y.name).isSome && decide (y.kind < 2) && decide (y.bind < 2) &&
    (y.sect == 65535 ||
      (if y.kind = 0 then o.isType y.sect [1] && y.value == 0
       else (o.sect? y.sect).any fun x => ([3, 4, 5] : List Nat).contains x.type && decide (y.value ≤ x.size)))

/-- The names of the global symbols that an object defines. -/
def Obj.globals (o : Obj) : List (List Byte) :=
  (o.syms.filter fun y => y.bind == 1 && y.sect != 65535).map fun y => (o.nameAt y.name).getD []

/-- Whether the numbers of a list never fall. -/
def neverFalls : List Nat → Bool
  | a :: b :: rest => decide (a ≤ b) && neverFalls (b :: rest)
  | _ => true

/-- The word offsets of a migration map in order (R28). -/
def mapOffsets (bs : List Byte) : List Nat := (List.range (bs.length / 16)).map fun i => fieldAt bs (16 * i) 4

/-- Whether each entry of the GOT is named by exactly one ABS64 (R311). -/
def Obj.gotOk (o : Obj) (i : Nat) (x : Sect) : Bool :=
  (List.range (x.size / 8)).all fun j =>
    (o.relocs.filter fun r => r.link == i && r.off == 8 * j && r.type == 1).length == 1

/-- What R307 to R311 ask of the contents of a section. -/
def Obj.contentsOk (o : Obj) (i : Nat) (x : Sect) : Bool :=
  match x.type with
  | 1 => decide (0 < x.size) && x.size % 4 == 0
  | 2 => x.size % 16 == 0 && neverFalls (mapOffsets (o.data x))
  | 5 => x.size % 8 == 0 && o.gotOk i x
  | 6 => x.size % 24 == 0 && o.syms.all o.symOk && decide o.globals.Nodup
  | 8 => x.size % 24 == 0 && (o.relocsOf x).all fun r =>
      r.clear && decide (r.sym < o.syms.length) && (o.sect? x.link).any fun y => decide (r.off < y.size)
  | _ => true

/-- Whether a section passes the layout checks of R307 to R309; at most one GOT, SYMTAB and STRTAB. -/
def Obj.sectOk (o : Obj) (i : Nat) (x : Sect) : Bool :=
  let earlier := o.sects.take i
  decide (1 ≤ x.type) && decide (x.type ≤ 8) && x.clear && decide (4 ≤ x.align) && decide (x.align ≤ 65536) &&
    2 ^ Nat.log2 x.align == x.align && x.off % x.align == 0 && decide (1024 ≤ x.off) && decide (x.off + x.size ≤ o.bytes.length) &&
    !rangesMeet x.off x.size o.sectab (32 * o.sects.length) &&
    (earlier.all fun y => !rangesMeet x.off x.size y.off y.size) &&
    (if x.type = 1 then decide (x.flags < 3) else x.flags == 0) && (o.nameAt x.name).isSome && o.linkOk i x &&
    !(([5, 6, 7] : List Nat).contains x.type && earlier.any fun y => y.type == x.type) && o.contentsOk i x

/-- The layout checks (R315 step 1): the first section that fails. -/
def Obj.layout (o : Obj) : Except BindFail Unit :=
  if (o.ofType 6).isEmpty || (o.ofType 7).isEmpty then .error badHeader
  else match (o.sects.zipIdx).find? fun e => !o.sectOk e.2 e.1 with
    | some (_, i) => .error { status := 2, detail := i }
    | none => .ok ()

/-- Whether an instruction is a migration point (R27); a call site is one with CALLSITE. -/
def isMigration : Instr → Bool
  | .ld _ _ _ _ _ _ _ | .st _ _ _ _ _ _ _ | .lds _ _ _ _ _ _ | .sts _ _ _ _ _ _ | .atm _ _ _ _ _ _ _ | .qpop _ _ _ _
  | .chapp _ _ _ _ _ _ | .join _ | .pack _ | .regroup _ _ _ _ | .call _ _ | .calli _ _ _ => true
  | _ => false

/-- Whether an instruction is a call site. -/
def isCall : Instr → Bool
  | .call _ _ | .calli _ _ _ => true
  | _ => false

/-- Whether an instruction may open a pond (R28). -/
def mayPond : Instr → Bool
  | .ld _ _ _ _ _ _ _ | .st _ _ _ _ _ _ _ | .lds _ _ _ _ _ _ | .sts _ _ _ _ _ _ | .atm _ _ _ _ _ _ _ | .qpop _ _ _ _
  | .chapp _ _ _ _ _ _ => true
  | _ => false

/-- The word at index `j` of a code section. -/
def wordIn (bs : List Byte) (j : Nat) : Word := BitVec.ofNat 32 (fieldAt bs (4 * j) 4)

/-- The instruction at index `j` of a code section. -/
def instrIn (bs : List Byte) (j : Nat) : Option Instr :=
  match decode (wordIn bs j) with
  | .ok i => if 4 * j < bs.length then some i else none
  | .error _ => none

/-- The migration-map entry at a place (R28). -/
def mapEntAt (bs : List Byte) (i : Nat) : MapEnt :=
  let flags := fieldAt bs (16 * i + 14) 2
  { offset := fieldAt bs (16 * i) 4, vlive := BitVec.ofNat 32 (fieldAt bs (16 * i + 4) 4)
    slive := BitVec.ofNat 32 (fieldAt bs (16 * i + 8) 4), plive := BitVec.ofNat 8 (fieldAt bs (16 * i + 12) 1)
    pond := if flags % 2 = 1 then some (fieldAt bs (16 * i + 13) 1 % 16) else none, callsite := flags / 4 % 2 == 1 }

/-- The entries of a migration map. -/
def mapOf (bs : List Byte) : List MapEnt := (List.range (bs.length / 16)).map (mapEntAt bs)

/-- Whether an entry passes the checks of R27. -/
def mapEntOk (code map : List Byte) (i : Nat) : Bool :=
  let e := mapEntAt map i
  let flags := fieldAt map (16 * i + 14) 2
  decide (fieldAt map (16 * i + 13) 1 < 16) && decide (flags < 8) && flags / 2 % 2 == 0 &&
    !((List.range i).any fun j => (mapEntAt map j).offset == e.offset) &&
    (instrIn code e.offset).any fun x => isMigration x && isCall x == e.callsite && (e.pond.isNone || mayPond x)

/-- The migration map of a CODE section. -/
def Obj.mapSect (o : Obj) (x : Sect) : Option Sect := if x.link = 65535 then none else o.sect? x.link

/-- The checks of R27 on one CODE section: the object byte offset of what fails (R320). -/
def Obj.mapFails (o : Obj) (x : Sect) : Option Nat :=
  if x.flags = 2 then none
  else
    let code := o.data x
    let map := ((o.mapSect x).map o.data).getD []
    let moff := ((o.mapSect x).map (·.off)).getD 0
    match (List.range (map.length / 16)).find? fun i => !mapEntOk code map i with
    | some i => some (moff + 16 * i)
    | none =>
      ((List.range (x.size / 4)).find? fun j =>
        (instrIn code j).any isMigration && !(mapOffsets map).contains j).map fun j => x.off + 4 * j

/-- The migration-map checks of every CODE section (R315). -/
def Obj.maps (o : Obj) : Except BindFail Unit :=
  match (o.ofType 1).findSome? fun e => o.mapFails e.2 with
  | some d => .error { status := 5, detail := d }
  | none => .ok ()

/-- What HINT.IMM, HINT.FMT and HINT.RND may do before an instruction (R102, R122, R123). -/
def hintForm : Instr → InstrForm
  | .iaddImm _ _ _ _ _ | .imulImm _ _ _ _ _ | .movi _ _ _ => { imm := .low }
  | .saddi _ _ _ | .width _ _ _ | .ld _ _ _ _ _ _ _ | .st _ _ _ _ _ _ _ | .lds _ _ _ _ _ _ | .sts _ _ _ _ _ _
  | .home _ _ _ _ _ | .stp _ _ _ _ _ _ _ | .atm _ _ _ _ _ _ _ | .atp _ _ _ _ _ _ _ | .atpVadd _ _ _ _ _ _ _
  | .pld _ _ _ _ _ _ _ | .pst _ _ _ _ _ _ _ | .patm _ _ _ _ _ _ _ => { imm := .any }
  | .fadd r _ _ _ _ _ _ | .fsub r _ _ _ _ _ _ | .fmul r _ _ _ _ _ _ | .ffma r _ _ _ _ _ _ => { fmt := true, rnd := r == .hint }
  | .frcp r _ _ _ _ | .frsq r _ _ _ _ | .fsqrt r _ _ _ _ | .fexp2 r _ _ _ _ | .flog2 r _ _ _ _ | .fsin r _ _ _ _
  | .fcos r _ _ _ _ | .frint r _ _ _ _ => { fmt := true, rnd := r == .hint }
  | .hfma2 r _ _ _ _ _ _ | .hadd2 r _ _ _ _ _ _ | .hmul2 r _ _ _ _ _ _ => { fmt := true, pair := true, rnd := r == .hint }
  | .fmin _ _ _ _ _ _ | .fmax _ _ _ _ _ _ | .fneg _ _ _ _ | .fabs _ _ _ _ | .fclass _ _ _ _ | .fcmp _ _ _ _ _ _ _ =>
    { fmt := true }
  | .cvt _ _ _ _ r _ _ | .cvtn _ _ _ _ r _ _ => { rnd := r == .hint }
  | .reduceAddF32Hint _ _ _ _ _ _ | .scanAddF32Hint _ _ _ _ _ _ => { rnd := true }
  | _ => .plain

/-- Whether a word is in the movement subset (R130). -/
def inSubset : Instr → Bool
  | .sadd _ _ _ e f | .ssub _ _ _ e f | .smul _ _ _ e f | .smulhI64 _ _ _ e f | .smulhN64 _ _ _ e f | .sand _ _ _ e f
  | .sor _ _ _ e f | .sxor _ _ _ e f | .sshl _ _ _ e f | .sshr _ _ _ e f | .ssar _ _ _ e f | .sminI64 _ _ _ e f
  | .sminN64 _ _ _ e f | .smaxI64 _ _ _ e f | .smaxN64 _ _ _ e f | .scmp _ _ _ e f _ | .ssel _ _ _ e f => !e && !f
  | .smov _ _ e | .calli _ _ e => !e
  | .srd _ n => n == .cycles || n == .hready || n == .stack || n == .core || n == .module
  | .saddi _ _ _ | .slih _ _ | .sshlImm _ _ _ | .sshrImm _ _ _ | .ssarImm _ _ _ | .bra _ _ | .loop _ _ | .nop | .call _ _
  | .ret | .copy _ _ _ | .copy2d _ _ _ | .gather _ _ _ | .scatter _ _ _ | .mpwait _ | .hset _ _ | .hexp _ _ | .mpfence
  | .mpend | .hintImm _ | .hintSched _ => true
  | _ => false

/-- Whether an instruction is one of majors 0x3A and 0x3B, illegal on a knot (R121). -/
def onlyMover : Instr → Bool
  | .copy _ _ _ | .copy2d _ _ _ | .gather _ _ _ | .scatter _ _ _ | .mpwait _ | .hset _ _ | .hexp _ _ | .mpfence | .mpend => true
  | _ => false

/-- The hints pending after a word (R124): none where the word is illegal there. -/
def bindHint (h : Hints) (i : Instr) : Option Hints :=
  let more (same : Bool) (n : Hints) : Option Hints :=
    if decide (2 ≤ h.words) || same then none else some { n with words := h.words + 1 }
  match i with
  | .hintImm p => more h.imm.isSome { h with imm := some p }
  | .hintRnd r => more h.rnd.isSome { h with rnd := some r }
  | .hintSched _ => more h.sched { h with sched := true }
  | .hintFmt t => more h.fmt.isSome { h with fmt := some t }
  | i => if hintsMisused (hintForm i) h then none else some .none

/-- The first of some words that raises E_ILLEGAL, from word `j` on (R315 step 3). -/
def firstIllegal (mover : Bool) : Nat → Hints → List Word → Option Nat
  | _, _, [] => none
  | j, h, w :: ws =>
    match decode w with
    | .error _ => some j
    | .ok i =>
      if (if mover then !inSubset i else onlyMover i) then some j
      else match bindHint h i with
        | none => some j
        | some h' => firstIllegal mover (j + 1) h' ws

/-- The words of a section that raise E_ILLEGAL in every object that is re-bound (R315 step 3, R320). -/
def Obj.illegal (o : Obj) : Except BindFail Unit :=
  match (o.ofType 1).findSome? fun e =>
      (firstIllegal (e.2.flags == 2) 0 .none (wordsOfBytes (o.data e.2))).map fun j => e.2.off + 4 * j with
  | some d => .error { status := 4, detail := d }
  | none => .ok ()

/-- Steps 1 to 3 of R315 on an object, by the management core of a module: layout and maps; DIGEST and SIG under KEYID; and for
an object stamped for another device, every word and the maps again. -/
def State.verify (s : State) (m : Nat) (o : Obj) : Except BindFail Unit := do
  o.layout
  o.maps
  let message := o.bytes.take 64 ++ o.bytes.drop 1024
  let key := (s.mod m).signKeys.find? fun k => k.1 == BitVec.ofNat 64 (fieldAt o.bytes 24 8)
  let signed := sub o.bytes 64 64 == digestBytes (sha512 message) &&
    key.any fun k => rsaVerify k.2 message (sub o.bytes 128 512)
  if !signed then .error { status := 3, detail := 0 }
  else if sub o.bytes 32 32 == s.deviceHash then .ok ()
  else do
    o.illegal
    o.maps

end Sys2Proof.Machine
end

