-- ==== Sys2Proof/Machine/Binding.lean ====
section
/-! DEFINITION. Binding: placement, resolution, relocation and the writes of the management core, whole and lazy (spec/19 R308 to
R317, spec/20 R320; spec/03 R93). -/
namespace Sys2Proof.Machine

/-- A bind request (R314), at a physical address. -/
structure BindReq where
  addr : Nat
  obj : Nat
  data : Nat
  datasz : Nat
  stub : Nat
  asid : BitVec 16
  ptbase : DWord
  deriving DecidableEq, Repr

/-- The request at a physical address. -/
def State.bindReq (s : State) (pa : Nat) : BindReq :=
  let bs := s.readRaw pa 64
  { addr := pa, obj := fieldAt bs 0 8, data := fieldAt bs 8 8, datasz := fieldAt bs 16 4, stub := fieldAt bs 20 4
    asid := BitVec.ofNat 16 (fieldAt bs 36 2), ptbase := BitVec.ofNat 64 (fieldAt bs 40 8) }

/-- Where a virtual address of a request lies: any key slot that is not empty may be named, and no permission is asked (R314). -/
def State.bindTarget (s : State) (r : BindReq) (va : Nat) : Option Target :=
  (s.leaf launchUnit r.ptbase r.asid (BitVec.ofNat 64 va)).bind fun l => (s.leafKey l).map fun k => { pa := l.pa, key := k }

/-- The state after a range of a request's address space is walked and read: lines that the host holds modified are recalled (R322,
R327). -/
def State.bindTouch (s : State) (r : BindReq) (va n : Nat) : State :=
  (pagePieces va n).foldl (fun (s : State) e =>
    let s1 := s.walked (s.leafReads launchUnit r.ptbase r.asid (BitVec.ofNat 64 e.1))
    match s1.bindTarget r e.1 with
    | none => s1
    | some t => s1.pull t.pa e.2) s

/-- The bytes of a range of a request's address space; none when part of it is not mapped. -/
def State.bindRead (s : State) (r : BindReq) : List (Nat × Nat) → Option (List Byte)
  | [] => some []
  | (va, n) :: rest =>
    match s.bindTarget r va with
    | none => none
    | some t => (s.bindRead r rest).map fun bs => s.readMem t.key t.pa n ++ bs

/-- The state after bytes are written to a range of a request's address space, as far as it is mapped: each walk first reads its entries
(R322, R327). -/
def State.bindWrite (s : State) (r : BindReq) : List (Nat × Nat) → List Byte → State
  | [], _ => s
  | (va, n) :: rest, bs =>
    let s1 := s.walked (s.leafReads launchUnit r.ptbase r.asid (BitVec.ofNat 64 va))
    (match s1.bindTarget r va with
    | none => s1
    | some t => s1.writeMem t.key t.pa (bs.take n)).bindWrite r rest (bs.drop n)

/-- The state after bytes are written upward from a virtual address of a request. -/
def State.bindPut (s : State) (r : BindReq) (va : Nat) (bs : List Byte) : State := s.bindWrite r (pagePieces va bs.length) bs

/-- Whether a range of a request's address space is mapped. -/
def State.bindMapped (s : State) (r : BindReq) (va n : Nat) : Bool := (pagePieces va n).all fun e => (s.bindTarget r e.1).isSome

/-- The state after the object that a request names is read, and the data area's translations are made (R314). -/
def State.bindPull (s : State) (r : BindReq) : State :=
  let s1 := s.bindTouch r r.obj 1024
  let s2 := match s1.bindRead r (pagePieces r.obj 1024) with
    | none => s1
    | some hd => s1.bindTouch r r.obj (fieldAt hd 8 4)
  (pagePieces r.data r.datasz).foldl (fun (s : State) e =>
    s.walked (s.leafReads launchUnit r.ptbase r.asid (BitVec.ofNat 64 e.1))) s2

/-- The object that a request names (R306): BADFORM when it cannot be read, or its header fails. -/
def State.bindObj (s : State) (r : BindReq) : Except BindFail Obj :=
  match s.bindRead r (pagePieces r.obj 1024) with
  | none => .error badHeader
  | some hd =>
    let size := fieldAt hd 8 4
    if size < 1024 then .error badHeader
    else match (s.bindRead r (pagePieces r.obj size)).bind objOf with
      | none => .error badHeader
      | some o => .ok o

/-- Sections placed one after another, each at the next multiple of its ALIGN (R312): their indexes and addresses, and the end. -/
def placeFrom : Nat → List (Nat × Sect) → List (Nat × Nat) × Nat
  | cur, [] => ([], cur)
  | cur, (i, x) :: rest =>
    let a := roundUp cur x.align
    let r := placeFrom (a + x.size) rest
    ((i, a) :: r.1, r.2)

/-- The lowest multiple of 65,536 from `cur` on that is followed by `span` bytes free of heap words (R312). -/
def lowestBase (span : Nat) : Nat → Sparse Word → Nat
  | cur, [] => cur
  | cur, (j, _) :: ws => if cur + span ≤ 4 * j then cur else lowestBase span (max cur (roundUp (4 * j + 4) 65536)) ws

/-- Whether a range of the heap is free. -/
def HeapSt.freeRange (h : HeapSt) (lo span : Nat) : Bool :=
  decide (lo + span ≤ 4294967296) && !h.words.any fun e => decide (lo < 4 * e.1 + 4) && decide (4 * e.1 < lo + span)

/-- Where `span` bytes go: at a preferred base when it is free, otherwise at the lowest multiple of 65,536 (R312). -/
def HeapSt.baseFor (h : HeapSt) (want : Option Nat) (span : Nat) : Option Nat :=
  if (want.any fun b => h.freeRange b span) then want
  else
    let b := lowestBase span 0 h.words
    if b + span ≤ 4294967296 then some b else none

/-- A page of a module's pools: of its lowest stack that has one. -/
def State.poolPage (s : State) : List Nat → Option (Nat × State)
  | [] => none
  | h :: hs =>
    match s.takePage h with
    | some r => some r
    | none => s.poolPage hs

/-- A backing page in each of some modules for one heap page (R313). -/
def State.backPage (s : State) : List Nat → Option (List Nat × State)
  | [] => some ([], s)
  | m :: ms =>
    match s.poolPage (s.strap.homesOf m) with
    | none => none
    | some (p, s1) => (s1.backPage ms).map fun r => (p :: r.1, r.2)

/-- The state with backing pages for every heap page of a range; none where a pool has no page (R313). -/
def State.backPages (s : State) : List Nat → Option State
  | [] => some s
  | g :: gs =>
    if (spFind g s.heap.pages).isSome then s.backPages gs
    else match s.backPage (List.range s.strap.moduleCount) with
      | none => none
      | some (ps, s1) => ({ s1 with heap := { s1.heap with pages := spPut g ps s1.heap.pages } }).backPages gs

/-- The heap pages of a range. -/
def heapPages (lo span : Nat) : List Nat :=
  if span = 0 then [] else (List.range ((lo + span - 1) / 65536 - lo / 65536 + 1)).map (lo / 65536 + ·)

/-- The state after a heap word is written, in every module's copy (R313). -/
def State.heapWord (s : State) (addr : Nat) (w : Word) : State :=
  let s1 := { s with heap := { s.heap with words := spPut (addr / 4) w s.heap.words } }
  (spGet [] s.heap.pages (addr / 65536)).foldl (fun (s : State) p => s.writeRaw (p + addr % 65536) (bytesOfNat w.toNat 4)) s1

/-- The state after heap words are written upward from an address. -/
def State.heapWords (s : State) (addr : Nat) : List Word → State
  | [] => s
  | w :: ws => (s.heapWord addr w).heapWords (addr + 4) ws

/-- What binding knows of an object: the address of each section that has one, the stub of each function that has one, each symbol's
address and whether it is a function, and the bytes of the sections as relocated so far. -/
structure Image where
  obj : Obj
  addrs : Sparse Nat
  stubs : Sparse Nat
  vals : List (Nat × Bool)
  bytes : Sparse (List Byte)

/-- The definition of a name among the objects bound for an address space: its address and whether it is a function; a lazily bound
function that is placed has its own address (R308, R316). -/
def HeapSt.lookup (h : HeapSt) (asid : BitVec 16) (name : List Byte) : Option (Nat × Bool) :=
  ((h.objects.filter fun o => o.asid == asid).findSome? fun o => o.symbols.find? fun y => y.name == name).map fun y =>
    (((h.lazies.find? fun z => y.function && z.stub == y.value.toNat).bind (·.bound)).getD y.value.toNat, y.function)

/-- The addresses of the symbols of an object (R308, R309): UNDEF for an extern symbol that no object defines. `code` gives the
address of a function by its section. -/
def symVals (h : HeapSt) (asid : BitVec 16) (o : Obj) (code addrs : Sparse Nat) : Nat → List Sym → Except BindFail (List (Nat × Bool))
  | _, [] => .ok []
  | i, y :: ys => do
    let v ← (if y.sect = 65535 then
        match h.lookup asid ((o.nameAt y.name).getD []) with
        | some v => .ok v
        | none => .error { status := 7, detail := i }
      else if y.kind = 0 then .ok (spGet 0 code y.sect, true)
      else .ok (spGet 0 addrs y.sect + y.value, false))
    let rest ← symVals h asid o code addrs (i + 1) ys
    .ok (v :: rest)

/-- The address of a symbol's GOT entry; none when it has none (R311). -/
def Image.gotOf (x : Image) (sym : Nat) : Option Nat :=
  match (x.obj.ofType 5).head? with
  | none => none
  | some (g, _) => (x.obj.relocs.find? fun r => r.link == g && r.type == 1 && r.sym == sym).map fun r => spGet 0 x.addrs g + r.off

/-- A list of bytes with some of them replaced. -/
def patch (bs : List Byte) (off : Nat) (new : List Byte) : List Byte := bs.take off ++ new ++ bs.drop (off + new.length)

/-- The majors at whose words a relocation may stand, and the width of its field (R310); none for one that patches data. -/
def fieldOf : Nat → Option (List Nat × Nat)
  | 2 | 4 => some ([34], 20)
  | 3 | 5 => some ([33], 16)
  | 6 => some ([40], 18)
  | 7 => some ([38, 39, 41], 18)
  | _ => none

/-- The value that a relocation of a code word writes: none for RANGE (R310). -/
def Image.codeValue (x : Image) (r : Reloc) (target : Nat) (own : Bool) : Option Int :=
  let v : Int := target + r.addend
  let start := spGet 0 x.addrs r.link
  let p : Int := start + r.off
  let hi := (v + 2048) / 4096
  let q := (v - p) / 4
  let size := ((x.obj.sect? r.link).map (·.size)).getD 0
  match r.type with
  | 2 | 4 => if 0 ≤ v ∧ v ≤ 4294967295 ∧ hi ≤ 1048575 then some hi else none
  | 3 | 5 =>
    if 0 ≤ v ∧ v ≤ 4294967295 ∧ hi ≤ 1048575 then some ((BitVec.ofInt 12 v).toInt) else none
  | 6 => if own ∧ r.addend % 4 = 0 ∧ -131072 ≤ q ∧ q ≤ 131071 then some q else none
  | _ =>
    if (start : Int) ≤ v ∧ v < (start + size : Nat) ∧ v % 4 = 0 ∧ -131072 ≤ q ∧ q ≤ 131071 then some q else none

/-- The stub that a record's symbol names: of a function of this object that has one (R316). -/
def Image.stubOf (x : Image) (r : Reloc) : Option Nat :=
  (x.obj.syms[r.sym]?).bind fun y => if y.kind = 0 && y.sect != 65535 then spFind y.sect x.stubs else none

/-- The address that a record of a code word resolves to (R310, R311): the symbol's GOT entry, the stub that a CALL18 goes to (R316), or the
symbol's own address. -/
def Image.target (x : Image) (r : Reloc) : Nat :=
  if r.type == 4 || r.type == 5 then (x.gotOf r.sym).getD 0
  else if r.type == 6 then (x.stubOf r).getD (x.vals.getD r.sym (0, false)).1
  else (x.vals.getD r.sym (0, false)).1

/-- One record applied (R310): BADFORM or RANGE with its position. The alignment of a field that patches data is that of its section offset,
and a misaligned one is BADFORM (log 40, DESIGN CHOICE). -/
def Image.apply (x : Image) (pos : Nat) (r : Reloc) : Except BindFail Image :=
  let bad : Except BindFail Image := .error { status := 2, detail := pos }
  let range : Except BindFail Image := .error { status := 6, detail := pos }
  let bs := spGet [] x.bytes r.link
  let (val, isFn) := x.vals.getD r.sym (0, false)
  let own := isFn && (x.obj.syms[r.sym]?).any fun y => y.sect != 65535
  let put (new : List Byte) : Image := { x with bytes := spPut r.link (patch bs r.off new) x.bytes }
  match fieldOf r.type with
  | none =>
    let n := if r.type = 1 then 8 else 4
    let v : Int := val + r.addend
    if !((r.type == 1 && x.obj.isType r.link [3, 4, 5]) || (r.type == 8 && x.obj.isType r.link [3, 4])) || r.off % n != 0 ||
        decide (bs.length < r.off + n) || !zeroAt bs r.off n then bad
    else if r.type = 1 then .ok (put (bytesOfNat (BitVec.ofInt 64 v).toNat 8))
    else if !isFn || decide (v < 0) || decide (4294967295 < v) then range
    else .ok (put (bytesOfNat v.toNat 4))
  | some (majors, width) =>
    let w := fieldAt bs r.off 4
    let got := r.type == 4 || r.type == 5
    if !x.obj.isType r.link [1] || r.off % 4 != 0 || decide (bs.length < r.off + 4) || !majors.contains (w / 67108864) ||
        w % 2 ^ width != 0 || (got && (x.gotOf r.sym).isNone) then bad
    else match x.codeValue r (x.target r) own with
      | none => range
      | some v => .ok (put (bytesOfNat (w + (BitVec.ofInt width v).toNat) 4))

/-- The records of some sections applied in order, each with its position among all (R315 step 6, R320). -/
def Image.applyAll (links : List Nat) : Nat → List Reloc → Image → Except BindFail Image
  | _, [], x => .ok x
  | pos, r :: rs, x => if links.contains r.link then do
      let x1 ← x.apply pos r
      applyAll links (pos + 1) rs x1
    else applyAll links (pos + 1) rs x

/-- The CONST, DATA and GOT sections in section-table order (R312). -/
def Obj.blocks (o : Obj) : List (Nat × Sect) :=
  (o.sects.zipIdx.map fun e => (e.2, e.1)).filter fun e => ([3, 4, 5] : List Nat).contains e.2.type

/-- The kind of a CODE section (R307). -/
def Sect.fnKind (x : Sect) : FnKind := if x.flags = 1 then .kernel else if x.flags = 2 then .movement else .fn

/-- A function of the heap as its object gives it. -/
def Obj.fnOf (o : Obj) (x : Sect) : Fn := { size := x.size, kind := x.fnKind, map := mapOf (((o.mapSect x).map o.data).getD []) }

/-- The global symbols of a bound object (R308). -/
def Image.exports (x : Image) : List Symbol :=
  ((x.obj.syms.zip x.vals).filter fun e => e.1.bind == 1 && e.1.sect != 65535).map fun e =>
    { name := (x.obj.nameAt e.1.name).getD [], function := e.1.kind == 0, value := BitVec.ofNat 64 e.2.1 }

/-- The state after the data area of an object is written (R312, R316). -/
def State.writeBlocks (s : State) (r : BindReq) (x : Image) : State :=
  x.obj.blocks.foldl (fun (s : State) e => s.bindPut r (spGet 0 x.addrs e.1) (spGet [] x.bytes e.1)) s

/-- The GOT entries of an object that name the function at an address, with what each adds to it (R311, R316). -/
def Image.gotsFor (x : Image) (value : Nat) : List (DWord × Int) :=
  match (x.obj.ofType 5).head? with
  | none => []
  | some (g, _) =>
    (x.obj.relocs.filter fun r => r.link == g && r.type == 1 && (x.vals.getD r.sym (0, false)) == (value, true)).map
      fun r => (BitVec.ofNat 64 (spGet 0 x.addrs g + r.off), r.addend)

/-- The state after the GOT entries of a newly bound object join those of the lazily bound functions that they name. -/
def State.noteGots (s : State) (asid : BitVec 16) (x : Image) : State :=
  { s with heap := { s.heap with lazies := s.heap.lazies.map fun z =>
      if z.asid = asid && z.bound.isNone then { z with gots := z.gots ++ x.gotsFor z.stub } else z } }

/-- The heap words of placed functions: each function's words, and zero words in the gaps between them, which stay reserved. -/
def State.writeCode (s : State) (x : Image) (lo : Nat) (places : List (Nat × Nat)) : State :=
  (places.foldl (fun (r : State × Nat) e =>
    let ws := wordsOfBytes (spGet [] x.bytes e.1)
    let s1 := (r.1.heapWords r.2 (List.replicate ((e.2 - r.2) / 4) 0)).heapWords e.2 ws
    let fn := match x.obj.sect? e.1 with
      | some y => spPut e.2 (x.obj.fnOf y) s1.heap.fns
      | none => s1.heap.fns
    ({ s1 with heap := { s1.heap with fns := fn } }, e.2 + 4 * ws.length)) (s, lo)).1

/-- The end of a bind: the object joins those of its address space (R308). -/
def State.joinObject (s : State) (asid : BitVec 16) (x : Image) : State :=
  { s with heap := { s.heap with objects := s.heap.objects ++ [{ asid := asid, symbols := x.exports }] } }

/-- Where the data area of an object goes: addresses, or NOSPACE (R312, R315 step 5). -/
def Obj.placeData (o : Obj) (s : State) (r : BindReq) : Except BindFail (Sparse Nat) :=
  let p := placeFrom r.data o.blocks
  let full : Bool := !o.blocks.isEmpty && (decide (r.data + r.datasz < p.2) || !s.bindMapped r r.data (p.2 - r.data))
  if full then .error { status := 8, detail := 0 } else .ok p.1

/-- The sections of an object as it gives them. -/
def Obj.given (o : Obj) : Sparse (List Byte) := o.sects.zipIdx.map fun e => (e.2, o.data e.1)

/-- Steps 4 to 7 of R315 for an object whose functions are placed: the state, and B. HEAPSZ runs from the address of the first CODE
section to the end of the last, and every function keeps its offset at BASE (R312). A gap before the first section puts the code above B:
where it then passes the end of the heap (R313), or meets words of another object (log 40, DESIGN CHOICE), there is NOSPACE. -/
def State.bindWhole (s : State) (r : BindReq) (o : Obj) : Except BindFail (State × Nat) := do
  let atBase := placeFrom o.base (o.ofType 1)
  let first := (atBase.1.head?.map (·.2)).getD atBase.2
  let span := atBase.2 - first
  let space := s.heap.baseFor (some o.base) span
  let b := space.getD 0
  let code := atBase.1.map fun e => (e.1, e.2 - o.base + b)
  let area := o.placeData s r
  let addrs := (area.toOption).getD []
  let vals ← symVals s.heap r.asid o code addrs 0 o.syms
  let addrs ← area
  if space.isNone || !s.heap.freeRange (first - o.base + b) span then .error { status := 8, detail := 0 }
  else match s.backPages (heapPages (first - o.base + b) span) with
    | none => .error { status := 8, detail := 0 }
    | some s1 => do
      let all := code.foldl (fun m e => spPut e.1 e.2 m) addrs
      let x : Image := { obj := o, addrs := all, stubs := [], vals := vals, bytes := o.given }
      let x ← Image.applyAll (List.range o.sects.length) 0 o.relocs x
      .ok ((((s1.writeCode x (first - o.base + b) code).writeBlocks r x).joinObject r.asid x).noteGots r.asid x, b)

/-- The word of a stub: TRAP 31, s0 (R316). -/
def stubWord : Word := 0xF800F800

/-- The state after the stubs of a lazy object are written, from an address upward (R316). -/
def State.writeStubs (s : State) (r : BindReq) (x : Image) (addr : Nat) : List (Nat × Sect) → State
  | [] => s
  | (i, y) :: rest =>
    let s1 := s.heapWord addr stubWord
    let z : Lazy :=
      { stub := addr, bytes := x.obj.bytes, sect := i, asid := r.asid, bound := none, calls := [], gots := []
        addrs := (List.range x.obj.sects.length).map (spGet 0 x.addrs) }
    let fn : Fn := { size := 4, kind := y.fnKind, map := [] }
    ({ s1 with heap := { s1.heap with fns := spPut addr fn s1.heap.fns, lazies := s1.heap.lazies ++ [z] } }).writeStubs r x (addr + 4) rest

/-- Steps 4 to 7 of R315 for an object with LAZY set: stubs in place of its functions (R316). The checks of R310 on the records of a CODE
section are made when its function is placed (log 41, DESIGN CHOICE). -/
def State.bindStubs (s : State) (r : BindReq) (o : Obj) : Except BindFail (State × Nat) := do
  let fns := o.ofType 1
  let span := 4 * fns.length
  let space := s.heap.baseFor (some o.base) span
  let b := space.getD 0
  let code := fns.zipIdx.map fun e => (e.1.1, b + 4 * e.2)
  let area := o.placeData s r
  let vals ← symVals s.heap r.asid o code ((area.toOption).getD []) 0 o.syms
  let addrs ← area
  if space.isNone then .error { status := 8, detail := 0 }
  else match s.backPages (heapPages b span) with
    | none => .error { status := 8, detail := 0 }
    | some s1 => do
      let x : Image := { obj := o, addrs := addrs, stubs := code, vals := vals, bytes := o.given }
      let x ← Image.applyAll (o.blocks.map (·.1)) 0 o.relocs x
      .ok ((((s1.writeStubs r x b fns).writeBlocks r x).joinObject r.asid x).noteGots r.asid x, b)

/-- The state after a request's answer is written: BASEOUT and DETAIL, then STATUS (R314, R320). -/
def State.answerBind (s : State) (r : BindReq) (status base detail : Nat) : State :=
  let s1 := if status = 1 then s.writeRaw (r.addr + 28) (bytesOfNat base 4) else s
  (s1.writeRaw (r.addr + 32) (bytesOfNat detail 4)).writeRaw (r.addr + 24) (bytesOfNat status 4)

/-- The state after a bind fails: nothing is written to the heap, and the data area holds free bytes (R315, log 24, DESIGN CHOICE). -/
def State.failBind (s : State) (r : BindReq) (e : BindFail) : State :=
  let (seed, s1) := s.newId
  (s1.bindPut r r.data ((List.range r.datasz).map (Config.bindByte seed))).answerBind r e.status 0 e.detail

/-- A bind of a whole object (R315, R316). -/
def State.bindDo (s : State) (m : Nat) (r : BindReq) : Except BindFail (State × Nat) := do
  let o ← s.bindObj r
  s.verify m o
  if o.delayed then s.bindStubs r o else s.bindWhole r o

/-- BIND: the management core binds the object that a request names (R314, R315). -/
def execBindObject (module : Nat) (s : State) : Out :=
  command 2 module s fun s0 c =>
    if !physOk s0.strap (c.arg 0) 64 then s0.finish c cmdBadarg
    else
      let s1 := s0.pull (c.arg 0) 64
      let r := s1.bindReq (c.arg 0)
      if r.stub ≠ 0 then s0
      else
        let s2 := s1.bindPull r
        match s2.bindDo module r with
        | .ok (s3, b) => (s3.answerBind r 1 b 0).finish c cmdDone
        | .error e => (s2.failBind r e).finish c cmdDone

/-- The call sites of a relocated section that name a stub, with what each adds to it (R316). -/
def Image.callsTo (x : Image) (link stub : Nat) : List (Nat × Int) :=
  (x.obj.relocs.filter fun r => r.link == link && r.type == 6 && x.stubOf r == some stub).map fun r =>
    (spGet 0 x.addrs link + r.off, r.addend)

/-- The state after a lazily bound function is placed and written; the state unchanged when it is placed already (R316, R317). -/
def State.placeLazy (s : State) (z : Lazy) : Except BindFail State :=
  match z.bound, objOf z.bytes with
  | some _, _ => .ok s
  | none, none => .error badHeader
  | none, some o =>
    match o.sect? z.sect with
    | none => .error badHeader
    | some y =>
      let mine := s.heap.lazies.filter fun w => w.bytes == z.bytes && w.asid == z.asid && w.addrs == z.addrs
      match s.heap.baseFor none y.size with
      | none => .error { status := 8, detail := 0 }
      | some b =>
        match s.backPages (heapPages b y.size) with
        | none => .error { status := 8, detail := 0 }
        | some s1 => do
          let stubs := mine.foldl (fun m w => spPut w.sect w.stub m) []
          let code := mine.foldl (fun m w => spPut w.sect (if w.sect = z.sect then b else w.bound.getD w.stub) m) []
          let addrs := spPut z.sect b (z.addrs.zipIdx.map fun e => (e.2, e.1))
          let vals ← symVals s.heap z.asid o code addrs 0 o.syms
          let x : Image := { obj := o, addrs := addrs, stubs := stubs, vals := vals, bytes := o.given }
          let x ← Image.applyAll [z.sect] 0 o.relocs x
          let s2 := s1.writeCode x b [(z.sect, b)]
          .ok { s2 with heap := { s2.heap with lazies := s2.heap.lazies.map fun w =>
            let w := if mine.contains w then { w with calls := w.calls ++ x.callsTo z.sect w.stub } else w
            if w.stub = z.stub then { w with bound := some b } else w } }

/-- The state in which every knot and movement processor may still fetch an earlier word of a call site: a knot's next IFENCE ends
that (R93, R317). -/
def State.leaveUnseen (s : State) (site : Nat) (w : Word) : State :=
  { s with knots := spMap (fun _ k => { k with unseen := k.unseen ++ [(site / 4, w)] }) s.knots
           crews := spMap (fun _ c => { c with engine := c.engine.map fun g =>
             { g with mover := { g.mover with unseen := g.mover.unseen ++ [(site / 4, w)] } } }) s.crews }

/-- The state after a CALL word that names a stub is rewritten, where the new offset fits (R316). -/
def State.retarget (s : State) (target : Int) (site : Nat) : State :=
  let q : Int := (target - site) / 4
  if -131072 ≤ q ∧ q ≤ 131071 then
    let w := spGet 0 s.heap.words (site / 4)
    (s.leaveUnseen site w).heapWord site (w.extractLsb' 18 14 ++ BitVec.ofInt 18 q)
  else s

/-- The state after the CALL words and GOT entries that name a stub are rewritten (R316). -/
def State.rewrite (s : State) (r : BindReq) (z : Lazy) (target : Nat) : State :=
  z.gots.foldl (fun (s : State) e => s.bindPut r e.1.toNat (bytesOfNat (BitVec.ofInt 64 (target + e.2)).toNat 8))
    (z.calls.foldl (fun (s : State) e => s.retarget (target + e.2) e.1) s)

/-- LAZY_BIND: one function of a lazily bound object is placed and its callers rewritten (R316, R317). -/
def execLazyBind (module : Nat) (s : State) : Out :=
  command 2 module s fun s0 c =>
    if !physOk s0.strap (c.arg 0) 64 then s0
    else
      let s := s0.pull (c.arg 0) 64
      let r := s.bindReq (c.arg 0)
      if r.stub = 0 then s0
      else match s.heap.lazies.find? fun z => z.stub == r.stub with
        | none => (s.answerBind r 2 0 badHeader.detail).finish c cmdDone
        | some z =>
          match s.placeLazy z with
          | .error e => (s.answerBind r e.status 0 e.detail).finish c cmdDone
          | .ok s1 =>
            match s1.heap.lazies.find? fun z => z.stub == r.stub with
            | none => s0
            | some z1 =>
              let b := z1.bound.getD 0
              ((s1.rewrite r z1 b).answerBind r 1 b 0).finish c cmdDone

end Sys2Proof.Machine
end

