-- ==== Sys2Proof/Machine/CrossLane.lean ====
section
/-! DEFINITION. The cross-lane family, majors 0x0F and 0x10, but for PACK and REGROUP (spec/05 R112, spec/09 R169 to R175). -/
namespace Sys2Proof.Machine

/-- A value with the flags that it raised. -/
abbrev Item := Word × FpFlags

/-- A combination of REDUCE and SCAN (R112): what reads an input, what combines two values, what canonicalises a result. -/
structure Comb where
  read : Word → Item
  op : Word → Word → Item
  result : Word → Word

/-- An integer combination: no flag (R95). -/
def intComb (op : Word → Word → Word) : Comb :=
  { read := fun x => (x, 0), op := fun x y => (op x y, 0), result := id }

/-- A floating combination: inputs under MODE[2], NV for a signalling NaN, canonical NaN results (R112). -/
def floatComb (h : Here) (r : RndField) (op : FpEnv → Nat → Nat → FpOut) : Comb :=
  let c := envIn h fmtF32 r
  { read := fun x => (BitVec.ofNat 32 (fmtF32.asRead c.flushIn x.toNat), nvOf [fmtF32.value false x.toNat])
    op := fun x y => placed (op c x.toNat y.toNat)
    result := fun x => if (fmtF32.value false x.toNat).isNan then BitVec.ofNat 32 fmtF32.nan else x }

/-- Combine, with ABSENT as none (R112). -/
def Comb.join (c : Comb) : Option Item → Option Item → Option Item
  | none, y => y
  | x, none => x
  | some x, some y => some ((c.op x.1 y.1).1, x.2 ||| y.2 ||| (c.op x.1 y.1).2)

/-- One level of the tree of a mask word (R112). -/
def Comb.level (c : Comb) : List (Option Item) → List (Option Item)
  | x :: y :: rest => c.join x y :: c.level rest
  | l => l

/-- The result of mask word `j` (R112). -/
def Comb.word (c : Comb) (eff : Mask) (val : Nat → Word) (j : Nat) : Option Item :=
  let leaves := (List.range 32).map fun i =>
    if eff.getLsbD (32 * j + i) then some (c.read (val (32 * j + i))) else none
  (c.level (c.level (c.level (c.level (c.level leaves))))).headD none

/-- The fold of the word results over an initial value (R112). -/
def Comb.reduce (c : Comb) (eff : Mask) (val : Nat → Word) (init : Option Item) : Option Item :=
  (List.range 32).foldl (fun s j => c.join s (c.word eff val j)) init

/-- The initial value of the accumulating form; none for a vb field of zero (R133, R172). -/
def initItem (h : Here) (c : Comb) (b : SReg) : Option Item := if b = 0 then none else some (c.read (h.p.ctx.scalVal b.toNat).lo)

/-- The sources of REDUCE and SCAN: guard, vector, and the scalar of the accumulating form. -/
def foldSources (h : Here) (g : Guard) (a : VReg) (b : SReg) (e f : Bool) : List (RegName × Bool) :=
  [guardSource g, vecSource h.p.ctx a e] ++ (if b = 0 then [] else [scalSource b f])

/-- REDUCE (R112, R172): the result in sd, sign-extended for .I32; with no present lane no flag is set (R101). -/
def reduceOp (form : InstrForm) (g : Guard) (d : SReg) (a : VReg) (b : SReg) (e f : Bool) (comb : Here → Comb) (empty : Word)
    (signed : Bool) : State → Out :=
  knotOp { form with defer := true } (isNever g) fun s h => do
    let eff := effective h g
    let c := comb h
    checkSources s h.p (foldSources h g a b e f)
    if d = 0 then pure () else checkDest s h.p { file := .scal, num := d.toNat }
    let r := (c.reduce eff (fun l => h.k.lane (h.p.ctx.reg a.toNat) l) (initItem h c b)).getD (empty, 0)
    let v := c.result r.1
    let s1 := s.writeScal h.u d.toNat (if signed then v.signExtend 64 else v.setWidth 64)
    .ok ((if eff = 0 then s1 else s1.addFlags h.u r.2).retire h.u)

/-- The inclusive prefix over the present lanes in ascending order: each lane's result, and the flags (R173). -/
def Comb.scan (c : Comb) (val : Nat → Word) : List Nat → Option Item → List (Nat × Word) × FpFlags
  | [], s => ([], (s.map (·.2)).getD 0)
  | l :: ls, s =>
    let s' := c.join s (some (c.read (val l)))
    let rest := c.scan val ls s'
    ((l, c.result ((s'.map (·.1)).getD 0)) :: rest.1, rest.2)

/-- SCAN (R173). -/
def scanOp (form : InstrForm) (g : Guard) (d a : VReg) (b : SReg) (e f : Bool) (comb : Here → Comb) : State → Out :=
  knotOp { form with defer := true } (isNever g) fun s h => do
    let eff := effective h g
    let c := comb h
    checkSources s h.p (foldSources h g a b e f)
    awaitDests s h.p eff [{ file := .vec, num := h.p.ctx.reg d.toNat }]
    let r := c.scan (fun l => h.k.lane (h.p.ctx.reg a.toNat) l) (lanesOf eff h.k.grant) (initItem h c b)
    let s1 := s.writeVec h.u (h.p.ctx.reg d.toNat) eff fun l => ((r.1.find? fun x => x.1 == l).map (·.2)).getD 0
    .ok ((if eff = 0 then s1 else s1.addFlags h.u r.2).retire h.u)

/-- VOTE (R171): the result of the present lanes in [31:0], the ballot of word k in [63:32]. -/
def voteOp (g : Guard) (d : SReg) (a : PReg) (k : BitVec 5) (e : Bool) (res : Nat → Nat → Nat) : State → Out :=
  onceScal .plain (isNever g) d [guardSource g, predSource a e] fun _ h =>
    let eff := effective h g
    let yes := eff &&& h.k.pred a.toNat
    .ok (yes.extractLsb' (32 * k.toNat) 32 ++ BitVec.ofNat 32 (res (countOf yes) (countOf eff)))

/-- Whether a source lane is present (R169). -/
def present (h : Here) (eff : Mask) (i : Nat) : Bool := decide (i < h.k.grant) && eff.getLsbD i

/-- The source lane of SHFL; none when it cannot be a lane (R170). -/
def shflSource (m : ShflMode) (l : Nat) (b : Word) : Option Nat :=
  match m with
  | .idx => some b.toNat
  | .up => if l < b.toNat then none else some (l - b.toNat)
  | .down => some (l + b.toNat)
  | .xor => some (l ^^^ b.toNat)

/-- SHFL: the source lane's value where it is present, else the lane's own; pN tells which (R170). -/
def execShfl (g : Guard) (d a b : VReg) (e f : Bool) (m : ShflMode) (p : PReg) : State → Out :=
  knotOp { defer := true } (isNever g) fun s h => do
    let eff := effective h g
    let va := fun l => h.k.lane (h.p.ctx.reg a.toNat) l
    let src := fun l => (shflSource m l (h.k.lane (h.p.ctx.reg b.toNat) l)).filter (present h eff)
    checkSources s h.p [guardSource g, vecSource h.p.ctx a e, vecSource h.p.ctx b f]
    awaitDests s h.p eff ({ file := .vec, num := h.p.ctx.reg d.toNat } ::
      if p = 7 then [] else [{ file := .pred, num := p.toNat }])
    let s1 := s.writeVec h.u (h.p.ctx.reg d.toNat) eff fun l => match src l with | some i => va i | none => va l
    .ok ((s1.writePred h.u p.toNat eff (maskWhere eff h.k.grant fun l => (src l).isSome)).retire h.u)

/-- MATCH: the lowest present lane with the same value (R174). -/
def execMatchV (g : Guard) (d a : VReg) (e : Bool) : State → Out :=
  lanewise .plain g (fun c => [vecSource c a e]) d fun h l =>
    let va := fun i => h.k.lane (h.p.ctx.reg a.toNat) i
    BitVec.ofNat 32 (((lanesOf (effective h g) h.k.grant).find? fun m => va m == va l).getD l)

/-- BCAST: lane i of va in every effective lane when it is present, otherwise each lane its own (R175). -/
def execBcast (g : Guard) (d a : VReg) (b : SReg) (e f : Bool) : State → Out :=
  lanewise .plain g (fun c => [vecSource c a e, scalSource b f]) d fun h l =>
    let i := (h.p.ctx.scalVal b.toNat).toNat
    h.k.lane (h.p.ctx.reg a.toNat) (if present h (effective h g) i then i else l)

/-- V2S: lane i of va when it is present, else 0 (R175). -/
def execV2s (g : Guard) (d : SReg) (a : VReg) (b : SReg) (e f : Bool) : State → Out :=
  knotOp { defer := true } (isNever g) fun s h => do
    checkSources s h.p [guardSource g, vecSource h.p.ctx a e, scalSource b f]
    if d = 0 then pure () else checkDest s h.p { file := .scal, num := d.toNat }
    let i := (h.p.ctx.scalVal b.toNat).toNat
    let v := if present h (effective h g) i then h.k.lane (h.p.ctx.reg a.toNat) i else 0
    .ok ((s.writeScal h.u d.toNat (v.setWidth 64)).retire h.u)

/-- S2V: the low word of a scalar in every effective lane (R175). -/
def execS2v (g : Guard) (d : VReg) (a : SReg) (e : Bool) : State → Out :=
  lanewise .plain g (fun _ => [scalSource a e]) d fun h _ => (h.p.ctx.scalVal a.toNat).lo

/-- REDUCE.ADD.I32 (R112, R172). -/
def execReduceAddI32 (g : Guard) (d : SReg) (a : VReg) (b : SReg) (e f : Bool) : State → Out :=
  reduceOp .plain g d a b e f (fun _ => intComb (· + ·)) 0 true

/-- REDUCE.MIN.I32 (R112, R172). -/
def execReduceMinI32 (g : Guard) (d : SReg) (a : VReg) (b : SReg) (e f : Bool) : State → Out :=
  reduceOp .plain g d a b e f (fun _ => intComb fun x y => if x.sle y then x else y) 0x7FFFFFFF true

/-- REDUCE.MIN.N32 (R112, R172). -/
def execReduceMinN32 (g : Guard) (d : SReg) (a : VReg) (b : SReg) (e f : Bool) : State → Out :=
  reduceOp .plain g d a b e f (fun _ => intComb fun x y => if x.ule y then x else y) 0xFFFFFFFF false

/-- REDUCE.MAX.I32 (R112, R172). -/
def execReduceMaxI32 (g : Guard) (d : SReg) (a : VReg) (b : SReg) (e f : Bool) : State → Out :=
  reduceOp .plain g d a b e f (fun _ => intComb fun x y => if x.sle y then y else x) 0x80000000 true

/-- REDUCE.MAX.N32 (R112, R172). -/
def execReduceMaxN32 (g : Guard) (d : SReg) (a : VReg) (b : SReg) (e f : Bool) : State → Out :=
  reduceOp .plain g d a b e f (fun _ => intComb fun x y => if x.ule y then y else x) 0 false

/-- REDUCE.AND (R112, R172). -/
def execReduceAnd (g : Guard) (d : SReg) (a : VReg) (b : SReg) (e f : Bool) : State → Out :=
  reduceOp .plain g d a b e f (fun _ => intComb (· &&& ·)) 0xFFFFFFFF false

/-- REDUCE.OR (R112, R172). -/
def execReduceOr (g : Guard) (d : SReg) (a : VReg) (b : SReg) (e f : Bool) : State → Out :=
  reduceOp .plain g d a b e f (fun _ => intComb (· ||| ·)) 0 false

/-- REDUCE.XOR (R112, R172). -/
def execReduceXor (g : Guard) (d : SReg) (a : VReg) (b : SReg) (e f : Bool) : State → Out :=
  reduceOp .plain g d a b e f (fun _ => intComb (· ^^^ ·)) 0 false

/-- REDUCE.MIN.F32 (R112, R172). -/
def execReduceMinF32 (g : Guard) (d : SReg) (a : VReg) (b : SReg) (e f : Bool) : State → Out :=
  reduceOp .plain g d a b e f (fun h => floatComb h .mode fun c x y => c.minMax false x y) 0x7F800000 false

/-- REDUCE.MAX.F32 (R112, R172). -/
def execReduceMaxF32 (g : Guard) (d : SReg) (a : VReg) (b : SReg) (e f : Bool) : State → Out :=
  reduceOp .plain g d a b e f (fun h => floatComb h .mode fun c x y => c.minMax true x y) 0xFF800000 false

/-- REDUCE.ADD.F32 (R112, R172). -/
def execReduceAddF32 (g : Guard) (d : SReg) (a : VReg) (b : SReg) (e f : Bool) : State → Out :=
  reduceOp { rnd := false } g d a b e f (fun h => floatComb h .mode FpEnv.add) 0 false

/-- REDUCE.ADD.F32 with .rn (R112, R172). -/
def execReduceAddF32Rn (g : Guard) (d : SReg) (a : VReg) (b : SReg) (e f : Bool) : State → Out :=
  reduceOp { rnd := false } g d a b e f (fun h => floatComb h .near FpEnv.add) 0 false

/-- REDUCE.ADD.F32 with .rz (R112, R172). -/
def execReduceAddF32Rz (g : Guard) (d : SReg) (a : VReg) (b : SReg) (e f : Bool) : State → Out :=
  reduceOp { rnd := false } g d a b e f (fun h => floatComb h .zero FpEnv.add) 0 false

/-- REDUCE.ADD.F32 after HINT.RND (R112, R172). -/
def execReduceAddF32Hint (g : Guard) (d : SReg) (a : VReg) (b : SReg) (e f : Bool) : State → Out :=
  reduceOp { rnd := true } g d a b e f (fun h => floatComb h .hint FpEnv.add) 0 false

/-- SCAN.ADD.I32 (R173). -/
def execScanAddI32 (g : Guard) (d a : VReg) (b : SReg) (e f : Bool) : State → Out :=
  scanOp .plain g d a b e f fun _ => intComb (· + ·)

/-- SCAN.MIN.I32 (R173). -/
def execScanMinI32 (g : Guard) (d a : VReg) (b : SReg) (e f : Bool) : State → Out :=
  scanOp .plain g d a b e f fun _ => intComb fun x y => if x.sle y then x else y

/-- SCAN.MAX.I32 (R173). -/
def execScanMaxI32 (g : Guard) (d a : VReg) (b : SReg) (e f : Bool) : State → Out :=
  scanOp .plain g d a b e f fun _ => intComb fun x y => if x.sle y then y else x

/-- SCAN.ADD.F32 (R173). -/
def execScanAddF32 (g : Guard) (d a : VReg) (b : SReg) (e f : Bool) : State → Out :=
  scanOp { rnd := false } g d a b e f fun h => floatComb h .mode FpEnv.add

/-- SCAN.ADD.F32 with .rn (R173). -/
def execScanAddF32Rn (g : Guard) (d a : VReg) (b : SReg) (e f : Bool) : State → Out :=
  scanOp { rnd := false } g d a b e f fun h => floatComb h .near FpEnv.add

/-- SCAN.ADD.F32 with .rz (R173). -/
def execScanAddF32Rz (g : Guard) (d a : VReg) (b : SReg) (e f : Bool) : State → Out :=
  scanOp { rnd := false } g d a b e f fun h => floatComb h .zero FpEnv.add

/-- SCAN.ADD.F32 after HINT.RND (R173). -/
def execScanAddF32Hint (g : Guard) (d a : VReg) (b : SReg) (e f : Bool) : State → Out :=
  scanOp { rnd := true } g d a b e f fun h => floatComb h .hint FpEnv.add

/-- VOTE.ANY: 1 when pa is true in some present lane (R171). -/
def execVoteAny (g : Guard) (d : SReg) (a : PReg) (k : BitVec 5) (e : Bool) : State → Out :=
  voteOp g d a k e fun yes _ => if yes = 0 then 0 else 1

/-- VOTE.ALL: 1 when pa is true in every present lane (R171). -/
def execVoteAll (g : Guard) (d : SReg) (a : PReg) (k : BitVec 5) (e : Bool) : State → Out :=
  voteOp g d a k e fun yes all => if yes = all then 1 else 0

/-- VOTE.CNT: the present lanes in which pa is true (R171). -/
def execVoteCnt (g : Guard) (d : SReg) (a : PReg) (k : BitVec 5) (e : Bool) : State → Out :=
  voteOp g d a k e fun yes _ => yes

end Sys2Proof.Machine
end

