-- ==== Sys2Proof/Machine/Fetch.lean ====
section
/-! DEFINITION. Fetch: the extent of the executing function, and the traps of fetch and decode (spec/07 R114, R121; spec/19 R313). -/
namespace Sys2Proof.Machine

/-- The word at a PC of the code heap (R313). -/
def HeapSt.wordAt (h : HeapSt) (pc : Pc) : Word := spGet 0 h.words (pc.toNat / 4)

/-- The word that a core of a module fetches at a PC, from its module's copy of the heap (R313): that of the heap, or what its backing page
reads as where that was written under a key that slot 0 of the module no longer holds (R324, R334). -/
def State.codeWord (s : State) (module : Nat) (pc : Pc) : Word :=
  match (spGet [] s.heap.pages (pc.toNat / 65536))[module]? with
  | none => s.heap.wordAt pc
  | some page =>
    let pa := page + pc.toNat % 65536 / 4 * 4
    if (List.range 4).all fun i => s.slotKey module 0 == some (s.mem.keyOf (pa + i)) then s.heap.wordAt pc
    else BitVec.ofNat 32 (natOfBytes (s.readMem (some 0) pa 4))

/-- The word that a fetch at a PC gives: that of the heap, or an earlier word of a rewritten call site that the agent may still see
(R93, R317), as the next choice says. -/
def State.fetchWord (s : State) (module : Nat) (unseen : List (Nat × Word)) (pc : Pc) : Word × State :=
  match unseen.filter fun e => e.1 == pc.toNat / 4 with
  | [] => (s.codeWord module pc, s)
  | o :: os =>
    let (n, s1) := s.pick (os.length + 2)
    (match n with
      | 0 => s.codeWord module pc
      | i + 1 => (((o :: os)[i]?).map (·.2)).getD (s.codeWord module pc), s1)

/-- Whether a PC lies in the extent of the function whose first word is at `fn`; a PC above 0xFFFF_FFFF names no heap word (R114, R178,
R313). -/
def HeapSt.inExtent (h : HeapSt) (fn : Nat) (pc : Pc) : Bool :=
  match spFind fn h.fns with
  | some f => decide (fn ≤ pc.toNat) && decide (pc.toNat < fn + f.size) && decide (pc.toNat < 4294967296)
  | none => false

/-- The trap of a fetch: E_PCWRAP after an increment out of bit 47, otherwise E_FETCH (R114). -/
def fetchCode (wrapped : Bool) : TrapCode := if wrapped then .pcwrap else .fetch

/-- A trap that needs nothing of the word, raised for the current agent. -/
def fetchTrap (path : Path → TrapCode) (mover : Mover → TrapCode) (s : State) : Out :=
  match s.cur with
  | .idle => .fault .noAgent
  | .path u =>
    (match s.here u with
    | none => .fault .noAgent
    | some h => .next (s.takeTrap u { code := path h.p }))
  | .mover c =>
    (match s.mover? c with
    | none => .fault .noAgent
    | some m => .next (s.moveFault c (mover m.e.mover) 0 0))

/-- ILLEGAL_ENCODING: E_ILLEGAL at the decode of an illegal word, whatever the mask or guard (R121). -/
def execIllegalEncoding (s : State) : Out := fetchTrap (fun _ => .illegal) (fun _ => .illegal) s

/-- FETCH_BEYOND_EXTENT: E_FETCH, or E_PCWRAP, before any word is decoded (R114). -/
def execFetchBeyondExtent (s : State) : Out :=
  fetchTrap (fun p => fetchCode p.ctx.wrapped) (fun m => fetchCode m.wrapped) s

end Sys2Proof.Machine
end

