-- ==== Sys2Proof/Machine/Hints.lean ====
section
/-! DEFINITION. Hint words, major 0x3F (spec/07 R123, R124; on movement processors R130). -/
namespace Sys2Proof.Machine

/-- The state after a path reads a hint word: a third hint, or a second of one kind, traps (R124). -/
def hintPath (same : Hints → Bool) (put : Hints → Hints) (s : State) (h : Here) : State :=
  if decide (2 ≤ h.p.hints.words) || same h.p.hints then s.takeTrap h.u { code := .illegal }
  else
    (s.modPath h.u fun p =>
      { p with ctx := { p.ctx.advance with wd := p.counted h.k.regs.watchdog }
               hints := { put p.hints with words := p.hints.words + 1 }
               wait := none, blockedAt := none, lastIssue := s.serial }).bump

/-- The state after a movement processor reads a hint word. -/
def hintMover (same : Hints → Bool) (put : Hints → Hints) (s : State) (m : MHere) : State :=
  if decide (2 ≤ m.e.mover.hints.words) || same m.e.mover.hints then s.moveFault m.c .illegal 0 0
  else
    (s.modMover m.c fun x =>
      { x with pc := x.pc + 4, wrapped := x.pc == BitVec.allOnes 46 ++ 0#2
               hints := { put x.hints with words := x.hints.words + 1 }, wait := false, blockedAt := none }).bump

/-- A hint word for the current agent; `subset` says whether a movement processor takes it (R130). -/
def hintWord (subset : Bool) (same : Hints → Bool) (put : Hints → Hints) (s : State) : Out :=
  match s.cur with
  | .idle => .fault .noAgent
  | .path u =>
    (match s.here u with
    | none => .fault .noAgent
    | some h => .next (hintPath same put s h))
  | .mover c =>
    (match s.mover? c with
    | none => .fault .noAgent
    | some m => .next (if subset then hintMover same put s m else s.moveFault m.c .illegal 0 0))

/-- HINT.IMM (R123). -/
def execHintImm (p : BitVec 23) : State → Out := hintWord true (·.imm.isSome) fun h => { h with imm := some p }

/-- HINT.RND (R123). -/
def execHintRnd (r : Dir) : State → Out := hintWord false (·.rnd.isSome) fun h => { h with rnd := some r }

/-- HINT.SCHED: advisory (R123). -/
def execHintSched (_ : BitVec 23) : State → Out := hintWord true (·.sched) fun h => { h with sched := true }

/-- HINT.FMT (R123). -/
def execHintFmt (t : TypeCode) : State → Out := hintWord false (·.fmt.isSome) fun h => { h with fmt := some t }

end Sys2Proof.Machine
end

