-- ==== Sys2Proof/Machine/PadOps.lean ====
section
/-! DEFINITION. PLD, PST and PATM, majors 0x33 to 0x35 (spec/03 R82 to R84, spec/11 R208 to R210). -/
namespace Sys2Proof.Machine

/-- The pad size that a knot sees: that of its crew, 0 without one (R209). -/
def State.padSize (s : State) (k : Knot) : Nat :=
  match s.crewOf k with
  | some (_, _, w) => w.padSize
  | none => 0

/-- Whether a pad offset of a knot's crew lies in a plane region. -/
def State.padPlane (s : State) (k : Knot) (off : Nat) : Bool :=
  match s.crewOf k with
  | some (_, _, w) => w.inPlane off
  | none => false

/-- The bounds check over all lanes: E_BOUND (R82). -/
def needBound (s : State) (h : Here) (n : Nat) : List (Nat × DWord × List Byte) → Res Unit
  | [] => .ok ()
  | (l, va, _) :: rest =>
    if va.toNat + n ≤ s.padSize h.k then needBound s h n rest
    else .error (.trap { code := .bound, lane := l, addr := va } s)

/-- The plane check over all lanes: E_PLANE (R83). -/
def needFlat (s : State) (h : Here) : List (Nat × DWord × List Byte) → Res Unit
  | [] => .ok ()
  | (l, va, _) :: rest =>
    if s.padPlane h.k va.toNat then .error (.trap { code := .plane, lane := l, addr := va } s) else needFlat s h rest

/-- A pad access: sources, alignment, bounds, planes, an empty destination, then the access (R209, R210). `flat` says whether a
plane region is E_PLANE for it. -/
def padOp (g : Guard) (reads : Here → List (RegName × Bool)) (dest : Here → Dest) (n : Nat) (flat : Bool)
    (reqs : Here → List (Nat × DWord × List Byte)) (act : State → Here → List LaneAcc → State) : State → Out :=
  knotOp { imm := .any } (isNever g) fun s h => do
    checkSources s h.p (guardSource g :: reads h)
    let rs := reqs h
    needAligned s n rs
    needBound s h n rs
    if flat then needFlat s h rs else pure ()
    if rs.isEmpty then .ok (s.retire h.u)
    else do
      checkDests s h.p (dest h).names
      let ls := rs.map fun r => { lane := r.1, va := r.2.1, pa := r.2.1.toNat, key := none, data := r.2.2 : LaneAcc }
      .ok ((act s h ls).retire h.u)

/-- A pad access that answers a destination. -/
def padRead (op : MemOp) (dest : Here → Dest) (s : State) (h : Here) (ls : List LaneAcc) : State :=
  (s.perform h { op := op, dest := dest h, lanes := ls, group := h.p.groupPc }).getD s

/-- PLD (R208, R210). -/
def execPld (g : Guard) (d a : VReg) (b : SReg) (e : Bool) (z : MemSize) (o : BitVec 3) : State → Out :=
  padOp g (fun h => [vecSource h.p.ctx a e, scalSource b e]) (fun h => vecDest h.p.ctx d.toNat z.regs) z.bytes false
    (fun h => laneReqs h g a b (memOffset h.p.hints o z.bytes) 0 0)
    (padRead (.padLoad z) fun h => vecDest h.p.ctx d.toNat z.regs)

/-- The writer records after a writer writes words upward from a word index (R84). -/
def recordWords (key : Nat) (m : Sparse (Sparse Word)) (w : Nat) : List Word → Sparse (Sparse Word)
  | [] => m
  | v :: vs => recordWords key (spPut w (spPut key v (spGet [] m w)) m) (w + 1) vs

/-- One lane of a PST: the single copy, or the next plane with its words recorded for their writer (R84, R210). -/
def Crew.padStore (c : Crew) (slot : Nat) (n : Nat) (l : LaneAcc) : Crew :=
  if c.inPlane l.pa then
    { c with writers := recordWords (slot * 1024 + l.lane) c.writers (l.pa / 4) (wordsOfBytes (l.data.take n)) }
  else c.padWrite l.pa (l.data.take n)

/-- PST: below 4 bytes a plane region is E_PLANE (R83, R208, R210). -/
def execPst (g : Guard) (x a : VReg) (b : SReg) (e : Bool) (z : MemSize) (o : BitVec 3) : State → Out :=
  padOp g (fun h => [vecSource h.p.ctx a e, scalSource b e] ++ groupSources h.p.ctx x.toNat z.regs e) (fun _ => .vec []) z.bytes
    (decide (z.bytes < 4))
    (fun h => laneReqs h g a b (memOffset h.p.hints o z.bytes) x.toNat z.regs)
    (fun s h ls =>
      match s.crewOf h.k with
      | none => s
      | some (c, slot, _) => s.modCrew c fun w => ls.foldl (fun w l => w.padStore slot z.bytes l) w)

/-- PATM (R208, R210). -/
def execPatm (g : Guard) (d a : VReg) (b : SReg) (e : Bool) (o : AtomOp) (t : PatmType) : State → Out :=
  padOp g
    (fun h => [vecSource h.p.ctx a e, scalSource b e] ++
      groupSources h.p.ctx (d.toNat + t.atom.regs) (o.group t.atom - t.atom.regs) e)
    (fun h => vecDest h.p.ctx d.toNat t.atom.regs) t.atom.bytes true
    (fun h => laneReqs h g a b (atomOffset h.p.hints) (d.toNat + t.atom.regs) (o.group t.atom - t.atom.regs))
    (padRead (.padAtom o t.atom) fun h => vecDest h.p.ctx d.toNat t.atom.regs)

end Sys2Proof.Machine
end

