-- ==== Sys2Proof/Machine/MovementOps.lean ====
section
/-! DEFINITION. Copies: major 0x3A, the copy engine, and movement faults (spec/13 R240 to R245, spec/03 R88, R89, spec/17 R282). -/
namespace Sys2Proof.Machine

/-- The translation unit of a crew's copies (R323). -/
def MHere.unit (m : MHere) : Nat := copyUnit m.crew.home (match m.crew.place with | .core c => c | .stored _ => 0)

/-- The translation of a copy's address under the launch queue's registers (R240, R324). An address in the landing window is E_PROT, as
for any access below supervisor level, and E_PAGE where it names no byte of a zone (R331, log 23, DEDUCED). -/
def State.moverTarget (s : State) (m : MHere) (n : Nat) (need : Needs) (va : DWord) : Except XFault Target :=
  let mv := m.e.mover
  match windowOf mv.window va with
  | some (st, off) => if st < s.strap.stackCount && off + n ≤ Config.zoneBytes then .error .prot else .error .page
  | none =>
    match s.leaf m.unit mv.ptbase mv.asid va with
    | none => .error .page
    | some l => if n = 0 then .error .page else s.permit mv.keysel need l

/-- The table entries that the translation of a copy's address reads: none for one in the pad (R322). -/
def State.moverReads (s : State) (m : MHere) (pad : Bool) (va : DWord) : List Nat :=
  if pad || (windowOf m.e.mover.window va).isSome then [] else s.leafReads m.unit m.e.mover.ptbase m.e.mover.asid va

/-- The pad checks of a copy: none, or the code of the fault (R89, R241). -/
def Crew.padFault (c : Crew) (off : DWord) (n : Nat) : Option TrapCode :=
  if c.padSize < off.toNat + n then some .bound
  else if c.touchesPlane off.toNat n then some .plane
  else none

/-- The fields of a descriptor of a movement copy (R242). -/
structure Desc where
  src : DWord
  dst : DWord
  ctl : DWord
  limit : DWord
  x4 : DWord
  x5 : DWord
  deriving DecidableEq, Repr

/-- The descriptor group at g[desc]. -/
def Mover.desc (m : Mover) (g : GReg) : Desc :=
  { src := m.reg g.toNat, dst := m.reg (g.toNat + 1), ctl := m.reg (g.toNat + 2), limit := m.reg (g.toNat + 3)
    x4 := m.reg (g.toNat + 4), x5 := m.reg (g.toNat + 5) }

/-- ROWBYTES, and ROWS or COUNT. -/
def Desc.rowBytes (d : Desc) : Nat := (d.ctl.extractLsb' 0 16).toNat
/-- ROWS or COUNT. -/
def Desc.rows (d : Desc) : Nat := (d.ctl.extractLsb' 32 16).toNat
/-- BYTES of COPY. -/
def Desc.bytes (d : Desc) : Nat := (d.ctl.extractLsb' 0 48).toNat
/-- SPAD. -/
def Desc.spad (d : Desc) : Bool := d.ctl.getLsbD 63
/-- DPAD. -/
def Desc.dpad (d : Desc) : Bool := d.ctl.getLsbD 62
/-- IPAD. -/
def Desc.ipad (d : Desc) : Bool := d.ctl.getLsbD 61

/-- Whether a field is a multiple of 32. -/
def by32 (v : DWord) : Bool := v.toNat % 32 == 0

/-- The descriptor checks at issue, in order (R242); then the handle's (R237). -/
def Mover.checks (e : Engine) (h : Nat) (aligned legal : Bool) : Option TrapCode :=
  if !aligned then some .align
  else if !legal then some .handle
  else match (e.handle h).state, (e.handle h).faulted with
    | .free, false | .filling, false => none
    | _, _ => some .handle

/-- A row of sectors, before they are numbered: source and destination offsets by 32. -/
def rowSectors (src dst : DWord) (n : Nat) : List (DWord × DWord) :=
  (List.range (n / 32)).map fun t => (src + BitVec.ofNat 64 (32 * t), dst + BitVec.ofNat 64 (32 * t))

/-- Sectors whose source ends at or below SEND, compared without wrapping (R243). -/
def withinEnd (send : DWord) (ss : List (DWord × DWord)) : List (DWord × DWord) :=
  ss.filter fun e => decide (e.1.toNat + 32 ≤ send.toNat)

/-- The sector list of COPY (R243). -/
def Desc.copySectors (d : Desc) : List (DWord × DWord) := withinEnd d.limit (rowSectors d.src d.dst d.bytes)

/-- The sector list of COPY2D (R243). -/
def Desc.copy2dSectors (d : Desc) : List (DWord × DWord) :=
  withinEnd d.limit ((List.range d.rows).flatMap fun j =>
    rowSectors (d.src + BitVec.ofNat 64 j * d.x4) (d.dst + BitVec.ofNat 64 j * d.x5) d.rowBytes)

/-- The sector list of GATHER (R244). -/
def Desc.gatherSectors (d : Desc) (idx : List Nat) : List (DWord × DWord) :=
  idx.zipIdx.flatMap fun e =>
    if e.1 < d.limit.toNat then
      rowSectors (d.src + BitVec.ofNat 64 e.1 * d.x5) (d.dst + BitVec.ofNat 64 (e.2 * d.rowBytes)) d.rowBytes
    else []

/-- The sector list of SCATTER (R244). -/
def Desc.scatterSectors (d : Desc) (idx : List Nat) : List (DWord × DWord) :=
  idx.zipIdx.flatMap fun e =>
    if e.1 < d.limit.toNat then
      rowSectors (d.src + BitVec.ofNat 64 (e.2 * d.rowBytes)) (d.dst + BitVec.ofNat 64 e.1 * d.x5) d.rowBytes
    else []

/-- Where a sector address lies: in the pad, or at a physical address; none when it does not translate. -/
def State.sectorPlace (s : State) (m : MHere) (pad : Bool) (a : DWord) : Option (Bool × Nat) :=
  if pad then some (true, a.toNat)
  else match s.moverTarget m 32 { rd := false, w := false } a with
    | .ok t => some (false, t.pa)
    | .error _ => none

/-- Whether two sector addresses name one sector: the same address, or one place by two. -/
def State.sameSector (s : State) (m : MHere) (pad : Bool) (a : DWord) (pad' : Bool) (b : DWord) : Bool :=
  pad == pad' && (a == b || ((s.sectorPlace m pad a).isSome && s.sectorPlace m pad a == s.sectorPlace m pad' b))

/-- Whether the source and destination footprints of a copy overlap (R245). -/
def State.footprintsMeet (s : State) (m : MHere) (spad dpad : Bool) (ss : List (DWord × DWord)) : Bool :=
  spad == dpad &&
    (let dsts := ss.map (·.2)
     let places := (dsts.map fun b => s.sectorPlace m dpad b).filter (·.isSome)
     ss.any fun e => dsts.contains e.1 || places.contains (s.sectorPlace m spad e.1))

/-- The state after a copy is issued: g[dest] holds its number of sectors, and the copy is in flight (R243). -/
def State.startCopy (s : State) (m : MHere) (h : Handle) (dest : GReg) (d : Desc) (ordered : Bool)
    (ss : List (DWord × DWord)) : State :=
  let (id, s1) := s.newId
  let sectors := ss.zipIdx.map fun e =>
    { idx := e.2, src := e.1.1, dst := e.1.2, spad := d.spad, dpad := d.dpad, data := none : Sector }
  let ahead := s.footprintsMeet m d.spad d.dpad ss
  let copy : Copy := { id := id, handle := h.toNat, pc := m.e.mover.groupPc, sectors := sectors, ahead := ahead, ordered := ordered }
  (s1.modEngine m.c fun e =>
    { e with mover := e.mover.setReg dest.toNat (BitVec.ofNat 64 ss.length)
             copies := if ss.isEmpty then e.copies else e.copies ++ [copy] }).moveOn m.c

/-- COPY (R242, R243). -/
def execCopy (x : Handle) (g d : GReg) : State → Out :=
  moverOp fun s m =>
    let ds := m.e.mover.desc g
    let aligned := by32 ds.src && by32 ds.dst && ds.bytes % 32 == 0
    let legal := ds.ctl.extractLsb' 48 14 == 0 && decide (ds.bytes ≤ 4294967264)
    match Mover.checks m.e x.toNat aligned legal with
    | some c => .error (.fault c x.toNat 0)
    | none => .ok (s.startCopy m x d ds false ds.copySectors)

/-- COPY2D (R242, R243). -/
def execCopy2d (x : Handle) (g d : GReg) : State → Out :=
  moverOp fun s m =>
    let ds := m.e.mover.desc g
    let aligned := by32 ds.src && by32 ds.dst && by32 ds.x4 && by32 ds.x5 && ds.rowBytes % 32 == 0
    let legal := ds.ctl.extractLsb' 48 14 == 0 && ds.ctl.extractLsb' 16 16 == 0 && ds.rowBytes != 0
    match Mover.checks m.e x.toNat aligned legal with
    | some c => .error (.fault c x.toNat 0)
    | none => .ok (s.startCopy m x d ds false ds.copy2dSectors)

/-- One word of an index list with the state after its read; the fault, or none while the stack that holds it is halted (R241, R244,
R304). -/
def State.indexWord (s : State) (m : MHere) (ipad : Bool) (a : DWord) : Except (Option TrapCode) (Word × State) :=
  if ipad then
    match m.crew.padFault a 4 with
    | some c => .error (some c)
    | none =>
      if m.crew.poisoned a.toNat 4 then .error (some .poison)
      else .ok (BitVec.ofNat 32 (natOfBytes (cellRead m.crew.pad a.toNat 4)), s)
  else if s.walkStalled (s.moverReads m false a) then .error none
  else
    let s1 := s.walked (s.moverReads m false a)
    match s1.moverTarget m 4 { rd := true, w := false } a with
    | .error e => .error (some e.code)
    | .ok t =>
      if homeOf t.pa = Config.hostHome then .error (some .prot)
      else if (s.stk (homeOf t.pa)).halted then .error none
      else
        let s2 := s1.recall false t.pa 4
        if s2.mem.poisoned t.pa 4 then .error (some .poison)
        else .ok (BitVec.ofNat 32 (natOfBytes (s2.readMem t.key t.pa 4)), s2)

/-- Some positions of an index list read in order, beside those read before; the first fault with its address, or none for a wait
(R244). -/
def State.readIndexes (s : State) (m : MHere) (ipad : Bool) (base : DWord) :
    List Nat → List (Nat × Word) → Except (Option (TrapCode × DWord)) (List (Nat × Word) × State)
  | [], got => .ok (got, s)
  | j :: js, got =>
    let a := base + BitVec.ofNat 64 (4 * j)
    match s.indexWord m ipad a with
    | .error e => .error (e.map fun c => (c, a))
    | .ok (v, s1) => s1.readIndexes m ipad base js (spPut j v got)

/-- The engine after a copy that names a handle faults: FAULTED, whatever the handle's state (R236, R241). -/
def Engine.faultHandle (e : Engine) (i : Nat) : Engine := e.setHandle i { e.handle i with faulted := true }

/-- GATHER and SCATTER: the checks, the whole index list, then the copy (R242, R244). The positions of the list are read one by one, in
any order, over several steps: a choice of 0 reads all that are left, `r` + 1 one of them (R66). The list is no part of the copy's
footprint: it is read without waiting for the unfinished writes of an earlier copy (log 23, DEDUCED). -/
def indexed (x : Handle) (g d : GReg) (ordered : Bool) (sectors : Desc → List Nat → List (DWord × DWord)) : State → Out :=
  moverOp fun s m =>
    let ds := m.e.mover.desc g
    let before := m.e.mover.list
    let aligned := by32 ds.src && by32 ds.dst && by32 ds.x5 && ds.rowBytes % 32 == 0 && ds.x4.toNat % 4 == 0
    let legal := ds.ctl.extractLsb' 48 13 == 0 && ds.ctl.extractLsb' 16 16 == 0 && ds.rowBytes != 0
    match if before.isEmpty then Mover.checks m.e x.toNat aligned legal else none with
    | some c => .error (.fault c x.toNat 0)
    | none =>
      let todo := (List.range ds.rows).filter fun j => !before.any fun e => e.1 == j
      let (r, s1) := s.pick 0
      let now := if r = 0 then todo else (todo.drop ((r - 1) % todo.length)).take 1
      match s1.readIndexes m ds.ipad ds.x4 now before with
      | .error none => .error (.wait s)
      | .error (some (c, a)) => .ok ((s1.modEngine m.c fun e => e.faultHandle x.toNat).moveFault m.c c x.toNat a)
      | .ok (got, s2) =>
        if now.length < todo.length then
          .ok ((s2.modMover m.c fun v => { v with list := got, wait := false, blockedAt := none }).bump)
        else .ok (s2.startCopy m x d ds ordered (sectors ds ((List.range ds.rows).map fun j => (spGet 0 got j).toNat)))

/-- GATHER (R244). -/
def execGather (x : Handle) (g d : GReg) : State → Out := indexed x g d false Desc.gatherSectors

/-- SCATTER (R244). -/
def execScatter (x : Handle) (g d : GReg) : State → Out := indexed x g d true Desc.scatterSectors

/-- Whether two sectors of different copies must keep their issue order (R88). -/
def State.sectorsMeet (s : State) (m : MHere) (a b : Sector) : Bool :=
  s.sameSector m a.dpad a.dst b.dpad b.dst || s.sameSector m a.spad a.src b.dpad b.dst || s.sameSector m a.dpad a.dst b.spad b.src

/-- Whether a sector must wait: an earlier copy still has a sector that meets it; or, for its write, an ordered copy has an earlier
sector of the same destination (R88, R244). -/
def State.sectorWaits (s : State) (m : MHere) (c : Copy) (x : Sector) : List Copy → Bool
  | [] => false
  | d :: ds =>
    if d.id = c.id then
      c.ordered && x.data.isSome && c.sectors.any fun y => decide (y.idx < x.idx) && s.sameSector m y.dpad y.dst x.dpad x.dst
    else (d.sectors.any fun y => s.sectorsMeet m y x) || s.sectorWaits m c x ds

/-- The bytes of a source sector with the state after its read, or the fault (R89, R241). -/
def State.sectorRead (s : State) (m : MHere) (x : Sector) : Except TrapCode (List Byte × State) :=
  if x.spad then
    match m.crew.padFault x.src 32 with
    | some c => .error c
    | none => if m.crew.poisoned x.src.toNat 32 then .error .poison else .ok (cellRead m.crew.pad x.src.toNat 32, s)
  else match s.moverTarget m 32 { rd := true, w := false } x.src with
    | .error e => .error e.code
    | .ok t =>
      let s1 := s.recall false t.pa 32
      if s1.mem.poisoned t.pa 32 then .error .poison else .ok (s1.readMem t.key t.pa 32, s1)

/-- The state after a destination sector is written, or the fault (R89). -/
def State.sectorWrite (s : State) (m : MHere) (x : Sector) (bs : List Byte) : Except TrapCode State :=
  if x.dpad then
    match m.crew.padFault x.dst 32 with
    | some c => .error c
    | none => .ok (s.modCrew m.c fun w => w.padWrite x.dst.toNat bs)
  else match s.moverTarget m 32 { rd := false, w := true } x.dst with
    | .error e => .error e.code
    | .ok t => .ok (s.writeMem t.key t.pa bs)

/-- The state after a fault reaches the movement processor: the first before its stop is kept (R241). -/
def State.reach (s : State) (c : Nat) (f : MoveFault) : State :=
  s.modMover c fun m => if m.run == .running && m.pending.isNone then { m with pending := some f } else m

/-- The state after a copy stops on a fault (R89, R236, R241). -/
def State.copyFaults (s : State) (m : MHere) (c : Copy) (x : Sector) (code : TrapCode) (a : DWord) : State :=
  (s.modEngine m.c fun e =>
    { e.faultHandle c.handle with copies := e.copies.filter fun d => d.id != c.id }).reach m.c
      { pc := c.pc, cause := code, handle := c.handle, sector := x.idx, addr := a, stop := c.pc, atIssue := false }

/-- The engine with a copy's sectors changed; a copy with none left is finished. -/
def Engine.modCopy (e : Engine) (id : Nat) (f : List Sector → List Sector) : Engine :=
  let put (c : Copy) : Copy := if c.id = id then { c with sectors := f c.sectors } else c
  { e with copies := (e.copies.map put).filter fun c => !c.sectors.isEmpty }

/-- One credit (R236): a FAULTED handle does not become full by it. -/
def HandleReg.credit (r : HandleReg) : HandleReg :=
  let n := r.cred + 1
  { r with cred := n, state := if r.state == .filling && n == r.exp && !r.faulted then .full else r.state }

/-- The state after a sector with its data reaches its handle: written and credited, or discarded (R236, R243). -/
def State.finishSector (s : State) (m : MHere) (c : Copy) (x : Sector) (bs : List Byte) : State :=
  let r := m.e.handle c.handle
  let drop (s : State) := s.modEngine m.c fun e => e.modCopy c.id fun ss => ss.filter fun y => y.idx != x.idx
  match r.state with
  | .full | .draining =>
    (drop s).reach m.c { pc := c.pc, cause := .handle, handle := c.handle, sector := x.idx, addr := 0, stop := c.pc, atIssue := false }
  | _ =>
    match s.sectorWrite m x bs with
    | .error code => s.copyFaults m c x code x.dst
    | .ok s1 => (drop s1).modEngine m.c fun e => e.setHandle c.handle (e.handle c.handle).credit

/-- Whether the memory of an address stands still: its stack is halted, and is not the crew's own (R304). -/
def State.sectorHalted (s : State) (m : MHere) (pad : Bool) (a : DWord) : Bool :=
  match s.sectorPlace m pad a with
  | some (false, pa) => (s.stk (homeOf pa)).halted && homeOf pa != m.crew.home
  | _ => false

/-- The address that the copy engine turns to next for a sector, and whether it is in the pad: its source, then its destination. -/
def Sector.next (x : Sector) : Bool × DWord := if x.data.isSome then (x.dpad, x.dst) else (x.spad, x.src)

/-- COPY_SECTOR: the copy engine reads a sector of a copy, or writes one that it has read; a copy whose footprints overlap reads them
all before it writes (R66, R243, R245). -/
def execCopySector (crew copy sector : Nat) (s : State) : Out :=
  event <|
    match s.mover? crew with
    | none => s
    | some m =>
      match m.e.copies.find? fun c => c.id == copy with
      | none => s
      | some c =>
        match c.sectors.find? fun x => x.idx == sector with
        | none => s
        | some x =>
          let (pad, a) := x.next
          let reads := s.moverReads m pad a
          if s.sectorWaits m c x m.e.copies || s.sectorHalted m pad a || s.walkStalled reads then s
          else
            let s := s.walked reads
            match x.data with
            | some bs => if c.ahead && !c.sectors.all (fun y => y.data.isSome) then s else (s.finishSector m c x bs).bump
            | none =>
              match s.sectorRead m x with
              | .error code => (s.copyFaults m c x code x.src).bump
              | .ok (bs, s1) =>
                (s1.modEngine crew fun e => e.modCopy c.id fun ss =>
                  ss.map fun y => if y.idx = x.idx then { y with data := some bs } else y).bump

/-- The 64 bytes of a movement fault record (R241). -/
def MoveFault.bytes (f : MoveFault) : List Byte :=
  bytesOfNat f.pc.toNat 8 ++ bytesOfNat f.cause.num 1 ++ bytesOfNat f.handle 1 ++ bytesOfNat 0 2 ++ bytesOfNat f.sector 4 ++
    bytesOfNat f.addr.toNat 8 ++ bytesOfNat f.stop.toNat 8 ++ bytesOfNat 0 32

/-- The state after a movement processor at an instruction boundary stops on the fault that reached it (R241). -/
def State.stopMover (s : State) (c : Nat) : State :=
  match s.mover? c with
  | none => s
  | some m =>
    match m.e.mover.pending with
    | none => s
    | some f =>
      if m.e.mover.run == .running && m.e.mover.hints.words == 0 && m.e.mover.list.isEmpty then
        (s.modMover c fun x =>
          { x with run := .stopped, reported := false, wait := false, blockedAt := none, pending := none
                   fault := some { f with stop := x.pc } }).bump
      else s

/-- Whether the movement processor of a crew runs: the crew is on a core that it is not leaving, of a stack that runs (R300, R303). -/
def State.moverRuns (s : State) (c : Nat) : Bool :=
  (spFind c s.crews).any fun w => (match w.place with | .core _ => true | .stored _ => false) && !w.leaving && s.open? w.home

/-- Whether a path is between issue groups, or waits in one, which it then begins again (R281). -/
def Path.betweenGroups (p : Path) : Bool := p.hints.words == 0 || p.wait.isSome

/-- A path that tries again at its next turn. -/
def Path.awake (p : Path) : Path := { p with blockedAt := none }

/-- MOVEMENT_FAULT: the processor stops on a fault that has reached it; a stop not yet reported goes to the lowest live knot as
E_MOVEFAULT, with its record in the landing zone, or to the management core when every knot has ended (R240, R241, R282); for a crew that
is not running, after its resumption (R303). The knot's path holds it as pending from an issue-group boundary on, behind what it holds
already, and so takes it before its next group (R281, R283). -/
def execMovementFault (crew : Nat) (s : State) : Out :=
  event <|
    let s1 := if s.moverRuns crew then s.stopMover crew else s
    match if s.moverRuns crew then s1.mover? crew else none with
    | none => s1
    | some m =>
      match m.e.mover.fault with
      | none => s1
      | some f =>
        if m.e.mover.run != .stopped || m.e.mover.reported then s1
        else
          let done (s : State) := s.modMover crew fun x => { x with reported := true }
          if (spFind crew s1.crews).any fun w => w.live.isEmpty then
            let seq := match spFind m.crew.launch s.launches with | some l => l.seq | none => 0
            (((done s1).report (moduleOf m.crew.home) seq f.bytes).modLaunch m.crew.launch fun la =>
              { la with moveFault := true }).bump
          else match (s1.lowestLive crew).bind fun e => s1.here e.2 with
          | none => s1
          | some h =>
            match s1.takeArea m.crew.home { kind := .movement, len := 64, own := some h.p.knot } with
            | some (off, s2) =>
              if h.p.betweenGroups then
                (((done s2).zoneWrite m.crew.home off f.bytes).modPath h.u fun p =>
                  ((p.rewind h.k.regs.watchdog).hold
                    { code := .movefault, addr := windowAddr h.k.regs.window m.crew.home off }).awake).bump
              else s1
            | none => s1

end Sys2Proof.Machine
end

