-- ==== Sys2Proof/Machine/Predicate.lean ====
section
/-! DEFINITION. The predicate family, major 0x0E (spec/09 R166). -/
namespace Sys2Proof.Machine

/-- A predicate function of two predicates. -/
def pred2 (g : Guard) (d a b : PReg) (e f : Bool) (op : Bool → Bool → Bool) : State → Out :=
  predwise .plain g (fun _ => [predSource a e, predSource b f]) d fun h l =>
    op ((h.k.pred a.toNat).getLsbD l) ((h.k.pred b.toNat).getLsbD l)

/-- PAND (R166). -/
def execPand (g : Guard) (d a b : PReg) (e f : Bool) : State → Out := pred2 g d a b e f (· && ·)

/-- POR (R166). -/
def execPor (g : Guard) (d a b : PReg) (e f : Bool) : State → Out := pred2 g d a b e f (· || ·)

/-- PXOR (R166). -/
def execPxor (g : Guard) (d a b : PReg) (e f : Bool) : State → Out := pred2 g d a b e f (· != ·)

/-- PNOT (R166). -/
def execPnot (g : Guard) (d a : PReg) (e : Bool) : State → Out :=
  predwise .plain g (fun _ => [predSource a e]) d fun h l => !(h.k.pred a.toNat).getLsbD l

/-- PSET: 1 where the lane of va is not 0 (R166). -/
def execPset (g : Guard) (d : PReg) (a : VReg) (e : Bool) : State → Out :=
  predwise .plain g (fun c => [vecSource c a e]) d fun h l => h.k.lane (h.p.ctx.reg a.toNat) l != 0

/-- PGET: 1 where the predicate is true, else 0 (R166). -/
def execPget (g : Guard) (d : VReg) (a : PReg) (e : Bool) : State → Out :=
  lanewise .plain g (fun _ => [predSource a e]) d fun h l => if (h.k.pred a.toNat).getLsbD l then 1 else 0

end Sys2Proof.Machine
end

