-- ==== Sys2Proof/Machine/Regroup.lean ====
section
/-! DEFINITION. PACK, REGROUP and the end of a REGROUP window (spec/01 R48 to R51; spec/09 R176, R177). -/
namespace Sys2Proof.Machine

/-- The values of some lanes of a register, in order. -/
def gather (k : Knot) (r : Nat) (ls : List Nat) : List Word := ls.map fun l => k.lane r l

/-- A register with values placed at positions 0 upward. -/
def placeLanes (grant : Nat) (old vals : List Word) : List Word :=
  (List.range grant).map fun l => if l < vals.length then vals.getD l 0 else old.getD l 0

/-- A predicate with bits placed at positions 0 upward. -/
def placeBits (old : Mask) (bits : List Bool) : Mask :=
  maskOf ((bits.zipIdx.filter (·.1)).map (·.2)) ||| (old &&& ~~~maskBelow bits.length)

/-- The bits of some lanes of a predicate, in order. -/
def gatherBits (k : Knot) (n : Nat) (ls : List Nat) : List Bool := ls.map fun l => (k.pred n).getLsbD l

/-- PACK (R48, R49, R176). The deaths of R30, which it applies first, stay when it then traps (log 45, DEDUCED). -/
def execPack (g : Bool) : State → Out :=
  knotOp .plain g fun s h => orWait s do
    let (s1, h1) := applyEntry s h
    needWhole s1 h1
    carriedReady s1 h1.p (carriedSet s.heap h.p.ctx).names
    let ls := lanesOf (activeOf h1) h1.k.grant
    let s2 := s1.modKnot h.p.knot fun k =>
      { k with
        vregs := (fullRegs h1.p.ctx.vecState 0 k.alloc).foldl
          (fun m r => spPut r (placeLanes k.grant (k.vec r) (gather k r ls)) m) k.vregs
        preds := (fullRegs h1.p.ctx.predState 0 7).foldl
          (fun m n => spPut n (placeBits (k.pred n) (gatherBits k n ls)) m) k.preds }
    .ok ((s2.modCtx h.u fun c => { c with mask := maskBelow ls.length }).retire h.u)

/-- The state after a path whose REGROUP is over writes its destination and continues after its issue group; the watchdog
count goes on (R51, R177). -/
def State.regrouped (s : State) (u dst : Nat) (v : DWord) : State :=
  match s.path? u with
  | none => s
  | some p => ((s.writeScal u dst v).release u).modCtx u fun c => { c with wd := p.counted (s.limitOf p.knot) }

/-- When a path that waits at a REGROUP arrived there: the cycle, and its partition slot (R50). -/
def Path.arrival (p : Path) : Nat × Nat :=
  match p.pend with
  | .regroup _ c o _ => (c, o)
  | _ => (0, 0)

/-- Whether one arrival at a REGROUP comes before another (R50). -/
def arrivesFirst (a b : Path) : Bool :=
  decide (a.arrival.1 < b.arrival.1) || (a.arrival.1 == b.arrival.1 && decide (a.arrival.2 < b.arrival.2))

/-- Whether path `a`, which waits at a REGROUP of a partition, is an eligible partner of the later arrival `b` there (R50). -/
def State.eligible (s : State) (a b : Path) : Bool :=
  match a.pend, b.pend, spFind a.knot s.knots, spFind b.knot s.knots with
  | .regroup ka ca _ _, .regroup kb cb _ _, some x, some y =>
    ka == kb && decide (cb ≤ ca + 256) && x.launch == y.launch && a.ctx.fn == b.ctx.fn && x.alloc == y.alloc &&
      a.ctx.base == b.ctx.base && a.ctx.frames.length == b.ctx.frames.length && x.brood == y.brood
  | _, _, _, _ => false

/-- The paths that wait at a REGROUP on a partition and arrived in a cycle that has passed, in order of arrival (R50). -/
def State.regroupers (s : State) (home core part : Nat) : List (Nat × Path) :=
  sortBy (fun a b => arrivesFirst a.2 b.2) (s.paths.filter fun e =>
    match e.2.pend, e.2.place with
    | .regroup _ c _ _, .resident st => e.2.home == home && st.core == core && st.part == part && decide (c < (s.stk home).cycles)
    | _, _ => false)

/-- The first pair of some arrivals in order: the first that finds an eligible one among those before it pairs with the earliest of them
(R50). -/
def firstPair (ok : Path → Path → Bool) : List (Nat × Path) → List (Nat × Path) → Option (Nat × Nat)
  | _, [] => none
  | before, y :: ys =>
    match before.find? fun x => ok x.2 y.2 with
    | some x => some (x.1, y.1)
    | none => firstPair ok (before ++ [y]) ys

/-- The destination that a path at a REGROUP named. -/
def Path.regroupDst (p : Path) : Nat :=
  match p.pend with
  | .regroup _ _ _ n => n
  | _ => 0

/-- The knot that survives with the lanes of both: registers full in both hold the survivor's lanes, then the partner's
(R51). -/
def fuseKnot (a b : Here) (la lb : List Nat) (k : Knot) : Knot :=
  { k with
    vregs := ((fullRegs a.p.ctx.vecState 0 k.alloc).filter fun r => b.p.ctx.vecState r == .full).foldl
      (fun m r => spPut r (placeLanes k.grant (k.vec r) (gather a.k r la ++ gather b.k r lb)) m) k.vregs
    preds := ((fullRegs a.p.ctx.predState 0 7).filter fun n => b.p.ctx.predState n == .full).foldl
      (fun m n => spPut n (placeBits (k.pred n) (gatherBits a.k n la ++ gatherBits b.k n lb)) m) k.preds }

/-- The state after two partners pair: survivor `a`, partner `b`, with their destinations (R51). -/
def State.fuse (s : State) (a b : Here) (da db : Nat) : State :=
  let la := lanesOf (activeOf a) a.k.grant
  let lb := lanesOf (activeOf b) b.k.grant
  if a.k.grant < la.length + lb.length then (s.regrouped a.u da 0).regrouped b.u db 0
  else
    let s1 := (s.modKnot a.p.knot fun k => fuseKnot a b la lb k).modCtx a.u fun c =>
      { c with mask := maskBelow (la.length + lb.length)
               fpstat := c.fpstat ||| b.p.ctx.fpstat
               vst := mergeStates [c.vst, b.p.ctx.vst], pst := mergeStates [c.pst, b.p.ctx.pst] }
    ((s1.dropKnot b.p.knot).afterEnd b.k).regrouped a.u da 1

/-- The state after two paths that wait at a REGROUP pair: the one of the lower KNOTID survives, of equal ones the one that arrived first
(R51, log 15, DEDUCED). -/
def State.pair (s : State) (u v : Nat) : State :=
  match s.here u, s.here v with
  | some a, some b =>
    if a.k.knotId ≤ b.k.knotId then s.fuse a b a.p.regroupDst b.p.regroupDst else s.fuse b a b.p.regroupDst a.p.regroupDst
  | _, _ => s

/-- REGROUP (R48, R50, R51, R177): the path arrives, and waits for the events of its window; a rooted knot receives 0 at once. The deaths
of R30, which it applies first, stay when it then traps (log 45, DEDUCED). -/
def execRegroup (g : Bool) (d a : SReg) (e : Bool) : State → Out :=
  knotOp .plain g fun s h =>
    match h.p.pend with
    | .regroup .. => .error (.wait .regroup s)
    | _ => orWait s do
      checkSources s h.p [scalSource a e]
      let key := h.p.ctx.scalVal a.toNat
      let (s1, h1) := applyEntry s h
      needWhole s1 h1
      carriedReady s1 h1.p (carriedSet s.heap h.p.ctx).names
      fence s1 h1
      if h1.k.rooted then .ok (s1.regrouped h.u d.toNat 0)
      else
        let slot := match h.p.place with | .resident st => st.slot | _ => 0
        .ok (s1.await h.u (.regroup key (s.stk h.p.home).cycles slot d.toNat) .regroup).bump

/-- REGROUP_WINDOW_EXPIRY: on a partition where a path waits at a REGROUP, the first pair in order of arrival is formed once the cycle of
its arrivals has passed; when there is none, a path whose window of 256 cycles is over receives 0 and continues (R50). -/
def execRegroupWindowExpiry (path : Nat) (s : State) : Out :=
  event <|
    match s.path? path with
    | none => s
    | some p =>
      match p.pend, p.place with
      | .regroup _ c _ d, .resident st =>
        (match firstPair s.eligible [] (s.regroupers p.home st.core st.part) with
        | some (u, v) => (s.pair u v).bump
        | none => if c + 256 < (s.stk p.home).cycles then s.regrouped path d 0 else s)
      | _, _ => s

end Sys2Proof.Machine
end

