-- ==== Sys2Proof/Machine/Scalar.lean ====
section
/-! DEFINITION. The scalar family, majors 0x20 to 0x23, on knots and on movement processors (spec/07 R130, spec/09 R167,
R168). -/
namespace Sys2Proof.Machine

/-- SADD: x + y (R167). -/
def execSadd (d a b : SReg) (e f : Bool) : State → Out :=
  scal2 d a b e f fun x y => x + y

/-- SSUB: x - y (R167). -/
def execSsub (d a b : SReg) (e f : Bool) : State → Out :=
  scal2 d a b e f fun x y => x - y

/-- SMUL: bits [63:0] of the product (R167). -/
def execSmul (d a b : SReg) (e f : Bool) : State → Out :=
  scal2 d a b e f fun x y => x * y

/-- SMULH.I64: bits [127:64] of the signed product (R167). -/
def execSmulhI64 (d a b : SReg) (e f : Bool) : State → Out :=
  scal2 d a b e f fun x y => (x.signExtend 128 * y.signExtend 128).extractLsb' 64 64

/-- SMULH.N64: bits [127:64] of the unsigned product (R167). -/
def execSmulhN64 (d a b : SReg) (e f : Bool) : State → Out :=
  scal2 d a b e f fun x y => (x.setWidth 128 * y.setWidth 128).extractLsb' 64 64

/-- SAND (R167). -/
def execSand (d a b : SReg) (e f : Bool) : State → Out :=
  scal2 d a b e f fun x y => x &&& y

/-- SOR (R167). -/
def execSor (d a b : SReg) (e f : Bool) : State → Out :=
  scal2 d a b e f fun x y => x ||| y

/-- SXOR (R167). -/
def execSxor (d a b : SReg) (e f : Bool) : State → Out :=
  scal2 d a b e f fun x y => x ^^^ y

/-- SSHL: 0 at 64 or more (R167). -/
def execSshl (d a b : SReg) (e f : Bool) : State → Out :=
  scal2 d a b e f fun x y => shiftLeft x y.toNat

/-- SSHR: 0 at 64 or more (R167). -/
def execSshr (d a b : SReg) (e f : Bool) : State → Out :=
  scal2 d a b e f fun x y => shiftRight x y.toNat

/-- SSAR: copies of bit 63 at 64 or more (R167). -/
def execSsar (d a b : SReg) (e f : Bool) : State → Out :=
  scal2 d a b e f fun x y => shiftSigned x y.toNat

/-- SMIN.I64 (R167). -/
def execSminI64 (d a b : SReg) (e f : Bool) : State → Out :=
  scal2 d a b e f fun x y => if x.sle y then x else y

/-- SMIN.N64 (R167). -/
def execSminN64 (d a b : SReg) (e f : Bool) : State → Out :=
  scal2 d a b e f fun x y => if x.ule y then x else y

/-- SMAX.I64 (R167). -/
def execSmaxI64 (d a b : SReg) (e f : Bool) : State → Out :=
  scal2 d a b e f fun x y => if x.sle y then y else x

/-- SMAX.N64 (R167). -/
def execSmaxN64 (d a b : SReg) (e f : Bool) : State → Out :=
  scal2 d a b e f fun x y => if x.ule y then y else x

/-- SMOV (R167). -/
def execSmov (d a : SReg) (e : Bool) : State → Out :=
  scalarOp .plain d [scalSource a e] e fun _ r => r a.toNat

/-- SCMP: 1 when the condition holds, else 0 (R167). -/
def execScmp (d a b : SReg) (e f : Bool) (c : Cond) : State → Out :=
  scal2 d a b e f fun x y => if condHolds c x y then 1 else 0

/-- SSEL: x when the old sd is not 0, else y; sd is read under fe_a (R167). -/
def execSsel (d a b : SReg) (e f : Bool) : State → Out :=
  scalarOp .plain d [scalSource a e, scalSource b f, scalSource d e] (e || f) fun _ r =>
    if r d.toNat = 0 then r b.toNat else r a.toNat

/-- SADDI: x + imm (R168). -/
def execSaddi (d a : SReg) (i : BitVec 16) : State → Out :=
  scalarOp { imm := .any } d [scalSource a false] false fun h r => r a.toNat + scalImm h i

/-- SLIH: imm20 * 4,096 (R168). -/
def execSlih (d : SReg) (i : BitVec 20) : State → Out :=
  scalarOp .plain d [] false fun _ _ => i.setWidth 64 <<< 12

/-- SSHL by immediate (R168). -/
def execSshlImm (d a : SReg) (n : BitVec 6) : State → Out :=
  scalarOp .plain d [scalSource a false] false fun _ r => shiftLeft (r a.toNat) n.toNat

/-- SSHR by immediate (R168). -/
def execSshrImm (d a : SReg) (n : BitVec 6) : State → Out :=
  scalarOp .plain d [scalSource a false] false fun _ r => shiftRight (r a.toNat) n.toNat

/-- SSAR by immediate (R168). -/
def execSsarImm (d a : SReg) (n : BitVec 6) : State → Out :=
  scalarOp .plain d [scalSource a false] false fun _ r => shiftSigned (r a.toNat) n.toNat

end Sys2Proof.Machine
end

