-- ==== Sys2Proof/Machine/ServiceOps.lean ====
section
/-! DEFINITION. Host accesses over Larzon, detected errors and the withdrawal of cores, the governor, the configuration space
(spec/03 R71; spec/21 R325, R327, R332, R333). -/
namespace Sys2Proof.Machine

/-- Whether every byte of a host access lies in the memory of one present stack (R327). -/
def State.hostReach (s : State) (pa n : Nat) : Bool :=
  decide (0 < n) && validPa s.strap pa && homeOf pa != Config.hostHome && validPa s.strap (pa + n - 1) &&
    homeOf (pa + n - 1) == homeOf pa

/-- The bytes that the host reads: its own copy of a line it holds modified, otherwise the line through slot 0 (R324, R327). -/
def State.hostRead (s : State) (pa n : Nat) : List Byte :=
  (List.range n).map fun i =>
    match spFind ((pa + i) / 64) s.mem.lines with
    | some line => line.getD ((pa + i) % 64) 0
    | none => s.mem.readByte (s.keyFor (s.rawKey (pa + i)) (pa + i)) (pa + i)

/-- The state after the host's modified line is written back to its home. -/
def State.hostWriteBack (s : State) (line : Nat) : State :=
  match spFind line s.mem.lines with
  | none => s
  | some bs => (s.modMem fun m => { m with lines := spDrop line m.lines }).writeRaw (64 * line) bs

/-- The answer of the link to a host access. -/
def State.answerHost (s : State) (data : List Byte) (error : Bool) : State := { s with host := { data := data, error := error } }

/-- The first byte and the number of bytes of a host access. -/
def hostRange : HostOp → Nat × Nat
  | .read pa len => (pa, len)
  | .write pa bytes => (pa, bytes.length)
  | .takeShared pa | .takeModified pa _ | .writeBack pa => (pa / 64 * 64, 64)

/-- What a host access does at its home (R71, R327). -/
def State.hostDo (s : State) (op : HostOp) : State :=
  match op with
  | .read pa len => s.answerHost (s.hostRead pa len) false
  | .write pa bytes => (s.writeRaw pa bytes).answerHost [] false
  | .takeShared pa => (s.modMem fun m => { m with shared := (pa / 64) :: m.shared.filter (· != pa / 64) }).answerHost (s.hostRead (pa / 64 * 64) 64) false
  | .takeModified pa bytes =>
    let line := (bytes ++ List.replicate 64 0).take 64
    (s.modMem fun m =>
      { m with lines := spPut (pa / 64) line m.lines, shared := (pa / 64) :: m.shared.filter (· != pa / 64) }).answerHost [] false
  | .writeBack pa =>
    ((s.hostWriteBack (pa / 64)).modMem fun m => { m with shared := m.shared.filter (· != pa / 64) }).answerHost [] false

/-- HOST_ACCESS: an error answer outside the memory present, and otherwise the access at its home; at a halted stack it waits
(R71, R304, R327). -/
def execHostAccess (op : HostOp) (s : State) : Out :=
  event <|
    let (pa, n) := hostRange op
    if !s.hostReach pa n then (s.answerHost [] true).bump
    else if (s.stk (homeOf pa)).halted then s
    else (s.hostDo op).bump

/-- The state after a module notes an uncorrectable error (R332). -/
def State.noteUncorrectable (s : State) (m : Nat) : State := s.setMod m fun x => { x with uncorr := true }

/-- The state after a core is withdrawn: nothing more is placed on it, its knots and crews go to the landing zones, and SERVICE
asks for replacement (R332). A crew whose engine is not at its stopping units is leaving; what cannot be stored at once follows by
PARK_SWITCH_OUT and CREW_SWITCH_OUT, as on a halted stack, whose memory stands still (R304). -/
def State.withdraw (s : State) (home core : Nat) : State :=
  if (s.stk home).withdrawn.contains core then s
  else
    let s1 := (s.setStk home fun t => { t with withdrawn := t.withdrawn ++ [core] }).setMod (moduleOf home) fun m => { m with replace := true }
    if (s.stk home).halted then s1
    else
      let s2 := (s1.strandedOn home).foldl (fun (s : State) e => (s.switchOut home e.1 e.2).getD s) s1
      ((s2.crewOrder home).filter fun e => e.2.place == .core core).foldl (fun (s : State) e =>
        if s.crewStill e.2 then (s.storeCrew e.1 e.2).getD s else s.modCrew e.1 fun w => { w with leaving := true }) s2

/-- The core of a crew, where it is on one. -/
def State.coreOf (s : State) (c : Nat) : Option (Nat × Nat) :=
  match spFind c s.crews with
  | some w => (match w.place with | .core x => some (w.home, x) | .stored _ => none)
  | none => none

/-- The state after an uncorrectable error in the pad or accumulators of a crew. -/
def State.crewError (s : State) (c : Nat) (f : Crew → Crew) : State :=
  match spFind c s.crews with
  | none => s
  | some w =>
    let s1 := (s.modCrew c f).noteUncorrectable (moduleOf w.home)
    match s.coreOf c with
    | some (home, core) => s1.withdraw home core
    | none => s1

/-- The register that a number of the REG field names (R285). -/
def regNamed (n : Nat) : RegName :=
  if n < 256 then { file := .vec, num := n } else if n < 512 then { file := .scal, num := n - 256 } else { file := .pred, num := n - 512 }

/-- The pending fault of a register of which a word is lost, whatever replays it: none for a predicate, whose reader meets E_POISON by its
state alone (R26, R287). -/
def lostFault (r : RegName) (lane : Nat) (pc : Pc) : List FaultRec :=
  let rec' (d : Dest) : FaultRec :=
    { dest := d, cause := .poison, lane := lane, addr := 0
      replay := { op := .lost, dest := d, group := pc, lanes := [{ lane := lane, va := 0, pa := 0, key := none, data := [] }] } }
  match r.file with
  | .vec => [rec' (.vec [r.num])]
  | .scal => [rec' (.scal r.num)]
  | .pred => []

/-- The path after a word of one of its full registers is uncorrectable: the register is fault-pending with E_POISON (R287). -/
def Path.loseReg (p : Path) (r : RegName) (lane : Nat) : Path :=
  if p.ctx.stateOf r = .full then
    { p with ctx := p.ctx.setState r .pending, faults := p.faults ++ (if (p.ctx.setState r .pending).stateOf r = .full then [] else lostFault r lane p.ctx.pc) }
  else p

/-- Corrected errors of a core within 2^30 cycles (R332). -/
def State.recentErrors (s : State) (home core : Nat) : Nat :=
  ((s.stk home).corrected.filter fun e => e.1 == core && decide ((s.stk home).cycles < e.2 + 1073741824)).length

/-- The state after an error is detected (R332). -/
def State.detect (s : State) (e : EccError) : State :=
  match e with
  | .dramCorrected _ => s
  | .dramUncorrected pa =>
    if s.strap.hasHome (homeOf pa) && homeOf pa != Config.hostHome && (decide (zoneBase ≤ pa) || validPa s.strap pa) then
      (s.modMem fun m => { m with poison := if m.poison.contains (pa / 32) then m.poison else (pa / 32) :: m.poison }).noteUncorrectable
        (moduleOf (homeOf pa))
    else s
  | .padUncorrected c off =>
    s.crewError c fun w =>
      if off < w.padSize && !w.poison.contains (off / 32) then { w with poison := off / 32 :: w.poison } else w
  | .accUncorrected c a r col =>
    s.crewError c fun w => { w with engine := w.engine.map fun e =>
      { e with accs := spModify a (fun x => { x with poison := (128 * r + col) :: x.poison }) e.accs } }
  | .registerUncorrected u reg =>
    (match s.path? u with
    | none => s
    | some p =>
      match p.place with
      | .resident st | .held st =>
        ((s.modPath u fun p => p.loseReg (regNamed reg) (lowestOf p.ctx.mask)).noteUncorrectable (moduleOf p.home)).withdraw p.home st.core
      | _ => s)
  | .coreCorrected home core =>
    if core < Config.coresPerStack && s.strap.hasHome home then
      let s1 := s.setStk home fun t => { t with corrected := (core, t.cycles) :: t.corrected }
      if 64 ≤ s1.recentErrors home core then s1.withdraw home core else s1
    else s
  | .bufferParity _ _ => s

/-- ECC_ERROR: an error is detected; corrected DRAM errors and refetched instruction words change nothing (R332). -/
def execEccError (error : EccError) (s : State) : Out :=
  event <|
    match error with
    | .dramCorrected _ | .bufferParity _ _ => s
    | e => (s.detect e).bump

/-- GOVERNOR_STEP: the clock moves by 25 MHz between 700 and 1,400 MHz (R333). -/
def execGovernorStep (module : Nat) (up : Bool) (s : State) : Out :=
  event <|
    let c := (s.mod module).clock
    if !s.strap.hasModule module then s
    else if up then (if c + 25 ≤ 1400 then (s.setMod module fun m => { m with clock := c + 25 }).bump else s)
    else if 725 ≤ c then (s.setMod module fun m => { m with clock := c - 25 }).bump else s

/-- LARZON_CONFIGURATION_SPACE_WRITE: the host writes the address of the command ring's header (R325). -/
def execLarzonConfigurationSpaceWrite (module header : Nat) (s : State) : Out :=
  event (if s.strap.hasModule module then (s.setMod module fun m => { m with ring := some header }).bump else s)

end Sys2Proof.Machine
end

