-- ==== Sys2Proof/Machine/TaskOps.lean ====
section
/-! DEFINITION. Tasks, queues, broods and chains: major 0x3C, and the clutches (spec/15 R261 to R279). -/
namespace Sys2Proof.Machine

/-- The node that a reference names in the launch of a knot, when it is of a kind (R260, R261). -/
def State.nodeRef (s : State) (h : Here) (ref : DWord) (kind : Nat) : Option (Nat × Node) :=
  if ref.extractLsb' 16 48 ≠ 0 then none
  else match spFind h.k.launch s.launches with
    | none => none
    | some la =>
      match spFind ref.toNat la.nodes with
      | some nd => if nd.ent.kind = kind then some (ref.toNat, nd) else none
      | none => none

/-- The state after records of a path are sent to a clutch. -/
def State.sendRecords (s : State) (h : Here) (node : Nat) : List (List Word) → State
  | [] => s
  | r :: rs =>
    let (id, s1) := s.newId
    (s1.modFlow fun f => { f with emits := f.emits ++
      [{ id := id, path := h.u, launch := h.k.launch, node := node, stamp := h.p.ctx.stamp, words := r }] }).sendRecords h node rs

/-- EMIT (R265). -/
def execEmit (g : Guard) (d : VReg) (a : SReg) (e : Bool) : State → Out :=
  knotOp .plain (isNever g) fun s h => do
    checkSources s h.p [guardSource g, scalSource a e]
    match s.nodeRef h (h.p.ctx.scalVal a.toNat) 1 with
    | none => .error (.trap { code := .node } s)
    | some (n, nd) =>
      let k := 4 * 2 ^ nd.ent.recsz
      if 32 < d.toNat + k then .error (.trap { code := .node } s)
      else do
        checkSources s h.p (groupSources h.p.ctx d.toNat k e)
        let rs := (lanesOf (effective h g) h.k.grant).map fun l =>
          (List.range k).map fun i => h.k.lane (h.p.ctx.reg (d.toNat + i)) l
        .ok ((s.sendRecords h n rs).retire h.u)

/-- DEPDEC: one post to the counter's home (R266). -/
def execDepdec (g : Bool) (a : SReg) (e : Bool) : State → Out :=
  knotOp .plain g fun s h => do
    checkSources s h.p [scalSource a e]
    let ref := h.p.ctx.scalVal a.toNat
    match s.nodeRef h ref 2, spFind h.k.launch s.launches with
    | some (n, nd), some la => do
      let s1 ← sendPost s h (16 * la.module + nd.ent.home) 0
        { lane := 0, op := .dec h.k.launch n, code := 255, type := 6, va := ref, pa := 0, key := none, data := [], stamp := h.p.ctx.stamp }
      .ok (s1.retire h.u)
    | _, _ => .error (.trap { code := .node } s)

/-- The entry size that a queue reference names: none for E_QUEUE (R267). -/
def queueSize (ref : DWord) : Option Nat :=
  if ref.extractLsb' 0 2 = 3 || ref.extractLsb' 2 4 ≠ 0 then none else some (16 * 2 ^ (ref.extractLsb' 0 2).toNat)

/-- The descriptor address of a queue reference. -/
def queueAddr (ref : DWord) : DWord := ref &&& ~~~(3#64)

/-- The permissions of queue and chain instructions (R321). -/
def readWrite : Needs := { rd := true, w := true }

/-- The descriptor of a queue or chain that a path names while it stays in place: translation, host, and a home that runs (R64, R304). -/
def needPlace (s : State) (h : Here) (va : DWord) (host : TrapCode) : Res (Target × State) := do
  let s ← walkAll s h [va]
  match s.translateLane h 64 readWrite va with
  | .error e => .error (.trap { code := e.code, lane := lowestOf h.p.ctx.mask, addr := va } s)
  | .ok t =>
    if homeOf t.pa = Config.hostHome then .error (.trap { code := host, lane := lowestOf h.p.ctx.mask, addr := va } s)
    else if (s.stk (homeOf t.pa)).halted then .error (.wait .stream s)
    else .ok (t, s)

/-- The descriptor of a queue that a path names, once the posts of its stream to the queue's home are past (R75). -/
def needHome (s : State) (h : Here) (va : DWord) (host : TrapCode) : Res (Target × State) := do
  let (t, s) ← needPlace s h va host
  if !s.streamClear h (homeOf t.pa) then .error (.wait .stream s) else .ok (t, s)

/-- The translation of a backing address, with its walk: no target when it is unmapped or homed elsewhere (R268, R322). -/
def backing (h : Here) (home n : Nat) : Backing := fun s va =>
  match walkAll s h [va] with
  | .error _ => none
  | .ok s1 =>
    match s1.translateLane h n readWrite va with
    | .ok t => some (if homeOf t.pa = home then some t else none, s1)
    | .error _ => some (none, s1)

/-- QPUSH (R268). -/
def execQpush (g : Guard) (p : PReg) (a : VReg) (b : SReg) (e f : Bool) : State → Out :=
  knotOp .plain (isNever g) fun s h => do
    checkSources s h.p [guardSource g, scalSource b f]
    let ref := h.p.ctx.scalVal b.toNat
    match queueSize ref with
    | none => .error (.trap { code := .queue } s)
    | some n =>
      if 32 < a.toNat + n / 4 then .error (.trap { code := .queue } s)
      else do
        checkSources s h.p (groupSources h.p.ctx a.toNat (n / 4) e)
        let (t, s) ← needHome s h (queueAddr ref) .prot
        fence s h
        let eff := effective h g
        awaitDests s h.p eff [{ file := .pred, num := p.toNat }]
        let es := (lanesOf eff h.k.grant).map fun l => (l, laneBytes h.k (h.p.ctx.reg a.toNat) (n / 4) l)
        let s := if es.isEmpty then s else s.recall false t.pa 64
        let d := s.queueDesc t.key t.pa
        if 16 * 2 ^ d.size ≠ n || es.any fun x => natOfBytes (x.2.take 4) == 0 then
          let s1 := if es.isEmpty then s else s.queueErr t.key t.pa
          .ok ((s1.writePred h.u p.toNat eff 0).retire h.u)
        else
          match if es.isEmpty then some ([], s)
              else (s.prepQueue t.key t.pa d n).pushAll t.key t.pa d (backing h (homeOf t.pa) n) h.p.ctx.stamp es with
          | none => .error (.wait .stream s)
          | some (took, s1) => .ok ((s1.writePred h.u p.toNat eff (maskOf took)).retire h.u)

/-- QPOP: a migration point of one home (R269). A group that passes v31 is E_QUEUE at issue, as R268 gives for QPUSH (log 16, DESIGN
CHOICE). -/
def execQpop (g : Guard) (d : VReg) (b : SReg) (f : Bool) : State → Out :=
  memPoint .plain g fun _ h =>
    let ref := h.p.ctx.scalVal b.toNat
    let n := (queueSize ref).getD 0
    { op := .pop n, dest := vecDest h.p.ctx d.toNat (n / 4), size := 64, need := readWrite, reads := [scalSource b f]
      pre := if (queueSize ref).isNone || decide (32 < d.toNat + n / 4) then some .queue else none
      hostTrap := some .prot
      reqs := (lanesOf (effective h g) h.k.grant).map fun l => (l, queueAddr ref, []) }

/-- BFORK: a child of the knot's stamp (R272, R273). -/
def execBfork (g : Bool) (d : SReg) : State → Out :=
  knotOp .plain g fun s h => do
    if d = 0 then pure () else checkDest s h.p { file := .scal, num := d.toNat }
    match s.brood? h.p.ctx.stamp with
    | none => .error (.trap { code := .brood } s)
    | some b =>
      if b.cancelled || decide (255 ≤ b.depth) then .error (.trap { code := .brood } s)
      else
        let (id, s1) := s.newBrood (some h.p.ctx.stamp.toNat) (b.depth + 1) b.root
        .ok ((s1.writeScal h.u d.toNat id).retire h.u)

/-- BFORK.STAMP: sets the stamp to a descendant of the knot's own brood that is not cancelled (R272, R273). -/
def execBforkStamp (g : Bool) (a : SReg) (e : Bool) : State → Out :=
  knotOp .plain g fun s h => do
    checkSources s h.p [scalSource a e]
    let v := h.p.ctx.scalVal a.toNat
    if s.inSubtree h.k.brood v && !s.cancelledBrood v then
      .ok ((s.modCtx h.u fun c => { c with stamp := v }).retire h.u)
    else .error (.trap { code := .brood } s)

/-- BCANCEL: takes a filter entry, cancels the subtree, and returns when every hop in flight at its start has landed (R273). -/
def execBcancel (g : Bool) (a : SReg) (e : Bool) : State → Out :=
  knotOp .plain g fun s h =>
    match h.p.pend with
    | .cancel id =>
      (match s.flow.cancels.find? fun c => c.id == id with
      | some c =>
        if s.cancelDone c then
          .ok ((s.modFlow fun f => { f with cancels := f.cancels.filter fun x => x.id != id }).retire h.u)
        else .error (.wait .filter s)
      | none => .ok (s.retire h.u))
    | _ => do
      checkSources s h.p [scalSource a e]
      let v := h.p.ctx.scalVal a.toNat
      if !s.inSubtree h.k.brood v then .error (.trap { code := .brood } s)
      else if 64 ≤ s.flow.cancels.length then .error (.wait .filter s)
      else
        let (id, s1) := s.newId
        let s2 := s1.modFlow fun f => { f with cancels := f.cancels ++ [{ id := id, root := v.toNat, hops := s.hopsInFlight }] }
        let s3 := s2.await h.u (.cancel id) .filter
        .ok ((s3.cancelTree v).pruneCancels)

/-- A chain reference is 64 KiB aligned (R275). -/
def chainAligned (ref : DWord) : Bool := ref.extractLsb' 0 16 == 0

/-- The chain that a path names while it stays in place, as a lane of an access: every misuse is E_CHAIN at issue (R275, R280). -/
def needChain (s : State) (h : Here) (ref : DWord) : Res (LaneAcc × State) := do
  needThat s .chain (chainAligned ref)
  let (t, s) ← needPlace s h ref .chain
  let s := s.chainPull t.key t.pa
  needThat s .chain (s.chain t.key t.pa).valid
  .ok ({ lane := lowestOf h.p.ctx.mask, va := ref, pa := t.pa, key := t.key, data := [] }, s)

/-- The pool that CHFORK of an empty chain takes its page from, as a lane at the current stack, once the table entries that give the page's
key are read (R276, R322). -/
def needPool (s : State) (h : Here) : Res (LaneAcc × State) :=
  if s.walkStalled (s.forkReads h) then .error (.wait .stream s)
  else .ok ({ lane := lowestOf h.p.ctx.mask, va := 0, pa := stackBase h.p.home, key := none, data := [] }, s.walked (s.forkReads h))

/-- CHFORK and CHREL at their home while the path stays in place (R75, R275, R276). The access is performed in the step of its instruction
when the posts that it comes after are past, no earlier access is left to perform, and the turn does not put it off; otherwise the path goes
on, and the access is performed in a later turn, as the home stands then (R66, log 8; log 18, DESIGN CHOICE). What makes it E_CHAIN as the
home stands now is a trap at issue. -/
def callHome (s : State) (h : Here) (a : Access) : Res State :=
  match s.homeOp h a.op a.scalar a.lanes with
  | none => .error (.trap { code := .chain } s)
  | some (s1, outs) =>
    if s.late || !h.p.unperformed.isEmpty || !(s.marksFor h a.lanes).isEmpty then
      .ok ((s.postpone h.u { a with after := s.marksFor h a.lanes }).retire h.u)
    else .ok ((s1.answer h a outs).retire h.u)

/-- CHFORK (R276). -/
def execChfork (g : Bool) (d a : SReg) (e : Bool) : State → Out :=
  knotOp { defer := true } g fun s h => do
    checkSources s h.p [scalSource a e]
    if d = 0 then pure () else checkDest s h.p { file := .scal, num := d.toNat }
    let ref := h.p.ctx.scalVal a.toNat
    let (l, s) ← if ref = 0 then needPool s h else needChain s h ref
    callHome s h { op := .fork ref.toNat, dest := .scal d.toNat, lanes := [l], group := h.p.groupPc }

/-- CHAPP: a migration point whose one home is the chain's (R277). -/
def execChapp (g : Guard) (d a : VReg) (b : SReg) (e f : Bool) : State → Out :=
  memPoint .plain g fun _ h =>
    let ref := h.p.ctx.scalVal b.toNat
    { op := .append none, dest := vecDest h.p.ctx d.toNat 1, size := 64, need := readWrite
      reads := [vecSource h.p.ctx a e, scalSource b f]
      pre := if chainAligned ref then none else some .chain
      hostTrap := some .chain
      reqs := (lanesOf (effective h g) h.k.grant).map fun l => (l, ref, laneBytes h.k (h.p.ctx.reg a.toNat) 1 l) }

/-- CHREL (R278). -/
def execChrel (g : Bool) (a : SReg) (e : Bool) : State → Out :=
  knotOp { defer := true } g fun s h => do
    checkSources s h.p [scalSource a e]
    let (l, s) ← needChain s h (h.p.ctx.scalVal a.toNat)
    callHome s h { op := .release, dest := .scal 0, lanes := [l], group := h.p.groupPc }

/-- A record added to the open batch of its stamp, which opens with it (R263). -/
def addRecord (bs : List Batch) (stamp : DWord) (now : Nat) (r : List Word) : List Batch :=
  if bs.any fun b => b.brood == stamp then bs.map fun b => if b.brood = stamp then { b with records := b.records ++ [r] } else b
  else bs ++ [{ brood := stamp, opened := now, records := [r] }]

/-- The state after a clutch launches the batch of a brood (R263). -/
def State.launchBatch (s : State) (l n : Nat) (brood : DWord) : State :=
  match spFind l s.launches with
  | none => s
  | some la =>
    match spFind n la.nodes with
    | none => s
    | some nd =>
      match nd.batches.find? fun b => b.brood == brood with
      | none => s
      | some b =>
        (s.releaseTask l la n nd b.brood b.records).modLaunch l fun la =>
          { la with nodes := spModify n (fun nd => { nd with batches := nd.batches.filter fun b => b.brood != brood }) la.nodes }

/-- CLUTCH_RECORD_ARRIVAL: a record that no earlier record of its fragment for that clutch precedes joins its batch, which is
launched at COALESCE records, and at once when the launch's own knots have ended before it arrives (R254, R263, R274; log 36,
DESIGN CHOICE: R254 says it of the records that a clutch holds when the last of them ends). -/
def execClutchRecordArrival (record : Nat) (s : State) : Out :=
  event <|
    match s.flow.emits.find? fun r => r.id == record with
    | none => s
    | some r =>
      match spFind r.launch s.launches with
      | none => (s.modFlow fun f => { f with emits := f.emits.filter fun x => x.id != record }).bump
      | some la =>
        let home := 16 * la.module + (match spFind r.node la.nodes with | some nd => nd.ent.home | none => 0)
        if (s.stk home).halted || s.flow.emits.any fun x =>
            x.path == r.path && x.launch == r.launch && x.node == r.node && decide (x.id < r.id) then s
        else
          let s1 := s.modFlow fun f => { f with emits := f.emits.filter fun x => x.id != record }
          if s.cancelledBrood r.stamp then s1.bump
          else
            let s2 := s1.modLaunch r.launch fun la =>
              { la with nodes := spModify r.node (fun nd =>
                  { nd with batches := addRecord nd.batches r.stamp (s.stk home).cycles r.words }) la.nodes }
            let due : Bool := match (spFind r.launch s2.launches).bind fun la => spFind r.node la.nodes with
              | some nd => (nd.batches.find? fun b => b.brood == r.stamp).any fun b =>
                  la.ownEnded || decide (nd.ent.coalesce ≤ b.records.length)
              | none => false
            (if due = true then s2.launchBatch r.launch r.node r.stamp else s2).bump

/-- CLUTCH_TIMER: a batch whose timer has run out is launched (R263). -/
def execClutchTimer (launch node brood : Nat) (s : State) : Out :=
  event <|
    match (spFind launch s.launches).bind fun la => (spFind node la.nodes).map fun nd => (la, nd) with
    | none => s
    | some (la, nd) =>
      match nd.batches.find? fun b => b.brood.toNat == brood with
      | none => s
      | some b =>
        let t := s.stk (16 * la.module + nd.ent.home)
        if nd.ent.timer ≠ 0 && !t.halted && decide (b.opened + nd.ent.timer ≤ t.cycles) then
          (s.launchBatch launch node b.brood).bump
        else s

end Sys2Proof.Machine
end

