-- ==== Sys2Proof/Machine/Dispatch.lean ====
section
/-! DEFINITION. The dispatch: one arm for each constructor of `Instr`, each a call of its meaning. -/
namespace Sys2Proof.Machine

/-- What an instruction, event or command does in a state. -/
def exec (i : Instr) (s : State) : Host.Outcome State Fault Refusal :=
  match i with
  | .iadd g d a b e f => Sys2Proof.Machine.execIadd g d a b e f s
  | .isub g d a b e f => Sys2Proof.Machine.execIsub g d a b e f s
  | .imul g d a b e f => Sys2Proof.Machine.execImul g d a b e f s
  | .imulhI32 g d a b e f => Sys2Proof.Machine.execImulhI32 g d a b e f s
  | .imulhN32 g d a b e f => Sys2Proof.Machine.execImulhN32 g d a b e f s
  | .imad g d a b e f => Sys2Proof.Machine.execImad g d a b e f s
  | .iminI32 g d a b e f => Sys2Proof.Machine.execIminI32 g d a b e f s
  | .iminN32 g d a b e f => Sys2Proof.Machine.execIminN32 g d a b e f s
  | .imaxI32 g d a b e f => Sys2Proof.Machine.execImaxI32 g d a b e f s
  | .imaxN32 g d a b e f => Sys2Proof.Machine.execImaxN32 g d a b e f s
  | .iabs g d a e => Sys2Proof.Machine.execIabs g d a e s
  | .andV g d a b e f => Sys2Proof.Machine.execAndV g d a b e f s
  | .orV g d a b e f => Sys2Proof.Machine.execOrV g d a b e f s
  | .xorV g d a b e f => Sys2Proof.Machine.execXorV g d a b e f s
  | .andn g d a b e f => Sys2Proof.Machine.execAndn g d a b e f s
  | .shl g d a b e f => Sys2Proof.Machine.execShl g d a b e f s
  | .shr g d a b e f => Sys2Proof.Machine.execShr g d a b e f s
  | .sar g d a b e f => Sys2Proof.Machine.execSar g d a b e f s
  | .popc g d a e => Sys2Proof.Machine.execPopc g d a e s
  | .clz g d a e => Sys2Proof.Machine.execClz g d a e s
  | .brev g d a e => Sys2Proof.Machine.execBrev g d a e s
  | .mov g d a e => Sys2Proof.Machine.execMov g d a e s
  | .lea g d a b e f => Sys2Proof.Machine.execLea g d a b e f s
  | .sel g d a b e f p => Sys2Proof.Machine.execSel g d a b e f p s
  | .iaddImm g d a e i0 => Sys2Proof.Machine.execIaddImm g d a e i0 s
  | .imulImm g d a e i0 => Sys2Proof.Machine.execImulImm g d a e i0 s
  | .shlImm g d a e n => Sys2Proof.Machine.execShlImm g d a e n s
  | .shrImm g d a e n => Sys2Proof.Machine.execShrImm g d a e n s
  | .sarImm g d a e n => Sys2Proof.Machine.execSarImm g d a e n s
  | .bfe g d a e p l => Sys2Proof.Machine.execBfe g d a e p l s
  | .bfi g d a e p l => Sys2Proof.Machine.execBfi g d a e p l s
  | .movi g d i0 => Sys2Proof.Machine.execMovi g d i0 s
  | .iadd64 g d a b e f => Sys2Proof.Machine.execIadd64 g d a b e f s
  | .isub64 g d a b e f => Sys2Proof.Machine.execIsub64 g d a b e f s
  | .imulwI32 g d a b e f => Sys2Proof.Machine.execImulwI32 g d a b e f s
  | .imulwN32 g d a b e f => Sys2Proof.Machine.execImulwN32 g d a b e f s
  | .leaShift g d a b e f s0 => Sys2Proof.Machine.execLeaShift g d a b e f s0 s
  | .icmp g d a b e f c => Sys2Proof.Machine.execIcmp g d a b e f c s
  | .fadd r g d a b e f => Sys2Proof.Machine.execFadd r g d a b e f s
  | .fsub r g d a b e f => Sys2Proof.Machine.execFsub r g d a b e f s
  | .fmul r g d a b e f => Sys2Proof.Machine.execFmul r g d a b e f s
  | .ffma r g d a b e f => Sys2Proof.Machine.execFfma r g d a b e f s
  | .frcp r g d a e => Sys2Proof.Machine.execFrcp r g d a e s
  | .frsq r g d a e => Sys2Proof.Machine.execFrsq r g d a e s
  | .fsqrt r g d a e => Sys2Proof.Machine.execFsqrt r g d a e s
  | .fexp2 r g d a e => Sys2Proof.Machine.execFexp2 r g d a e s
  | .flog2 r g d a e => Sys2Proof.Machine.execFlog2 r g d a e s
  | .fsin r g d a e => Sys2Proof.Machine.execFsin r g d a e s
  | .fcos r g d a e => Sys2Proof.Machine.execFcos r g d a e s
  | .frint r g d a e => Sys2Proof.Machine.execFrint r g d a e s
  | .hfma2 r g d a b e f => Sys2Proof.Machine.execHfma2 r g d a b e f s
  | .hadd2 r g d a b e f => Sys2Proof.Machine.execHadd2 r g d a b e f s
  | .hmul2 r g d a b e f => Sys2Proof.Machine.execHmul2 r g d a b e f s
  | .fmin g d a b e f => Sys2Proof.Machine.execFmin g d a b e f s
  | .fmax g d a b e f => Sys2Proof.Machine.execFmax g d a b e f s
  | .fneg g d a e => Sys2Proof.Machine.execFneg g d a e s
  | .fabs g d a e => Sys2Proof.Machine.execFabs g d a e s
  | .fclass g d a e => Sys2Proof.Machine.execFclass g d a e s
  | .fcmp g d a b e f c => Sys2Proof.Machine.execFcmp g d a b e f c s
  | .cvt g d a e r t s0 => Sys2Proof.Machine.execCvt g d a e r t s0 s
  | .cvtn g d a e r p t => Sys2Proof.Machine.execCvtn g d a e r p t s
  | .cvtPart g d a e p t => Sys2Proof.Machine.execCvtPart g d a e p t s
  | .bxq g d a e t => Sys2Proof.Machine.execBxq g d a e t s
  | .bxd g d a e t => Sys2Proof.Machine.execBxd g d a e t s
  | .pand g d a b e f => Sys2Proof.Machine.execPand g d a b e f s
  | .por g d a b e f => Sys2Proof.Machine.execPor g d a b e f s
  | .pxor g d a b e f => Sys2Proof.Machine.execPxor g d a b e f s
  | .pnot g d a e => Sys2Proof.Machine.execPnot g d a e s
  | .pset g d a e => Sys2Proof.Machine.execPset g d a e s
  | .pget g d a e => Sys2Proof.Machine.execPget g d a e s
  | .reduceAddI32 g d a b e f => Sys2Proof.Machine.execReduceAddI32 g d a b e f s
  | .reduceMinI32 g d a b e f => Sys2Proof.Machine.execReduceMinI32 g d a b e f s
  | .reduceMinN32 g d a b e f => Sys2Proof.Machine.execReduceMinN32 g d a b e f s
  | .reduceMaxI32 g d a b e f => Sys2Proof.Machine.execReduceMaxI32 g d a b e f s
  | .reduceMaxN32 g d a b e f => Sys2Proof.Machine.execReduceMaxN32 g d a b e f s
  | .reduceAnd g d a b e f => Sys2Proof.Machine.execReduceAnd g d a b e f s
  | .reduceOr g d a b e f => Sys2Proof.Machine.execReduceOr g d a b e f s
  | .reduceXor g d a b e f => Sys2Proof.Machine.execReduceXor g d a b e f s
  | .reduceMinF32 g d a b e f => Sys2Proof.Machine.execReduceMinF32 g d a b e f s
  | .reduceMaxF32 g d a b e f => Sys2Proof.Machine.execReduceMaxF32 g d a b e f s
  | .reduceAddF32Rz g d a b e f => Sys2Proof.Machine.execReduceAddF32Rz g d a b e f s
  | .reduceAddF32Hint g d a b e f => Sys2Proof.Machine.execReduceAddF32Hint g d a b e f s
  | .reduceAddF32 g d a b e f => Sys2Proof.Machine.execReduceAddF32 g d a b e f s
  | .reduceAddF32Rn g d a b e f => Sys2Proof.Machine.execReduceAddF32Rn g d a b e f s
  | .scanAddI32 g d a b e f => Sys2Proof.Machine.execScanAddI32 g d a b e f s
  | .scanMinI32 g d a b e f => Sys2Proof.Machine.execScanMinI32 g d a b e f s
  | .scanMaxI32 g d a b e f => Sys2Proof.Machine.execScanMaxI32 g d a b e f s
  | .scanAddF32Rn g d a b e f => Sys2Proof.Machine.execScanAddF32Rn g d a b e f s
  | .scanAddF32Rz g d a b e f => Sys2Proof.Machine.execScanAddF32Rz g d a b e f s
  | .scanAddF32Hint g d a b e f => Sys2Proof.Machine.execScanAddF32Hint g d a b e f s
  | .scanAddF32 g d a b e f => Sys2Proof.Machine.execScanAddF32 g d a b e f s
  | .voteAny g d a k e => Sys2Proof.Machine.execVoteAny g d a k e s
  | .voteAll g d a k e => Sys2Proof.Machine.execVoteAll g d a k e s
  | .voteCnt g d a k e => Sys2Proof.Machine.execVoteCnt g d a k e s
  | .matchV g d a e => Sys2Proof.Machine.execMatchV g d a e s
  | .bcast g d a b e f => Sys2Proof.Machine.execBcast g d a b e f s
  | .v2s g d a b e f => Sys2Proof.Machine.execV2s g d a b e f s
  | .s2v g d a e => Sys2Proof.Machine.execS2v g d a e s
  | .pack g => Sys2Proof.Machine.execPack g s
  | .regroup g d a e => Sys2Proof.Machine.execRegroup g d a e s
  | .shfl g d a b e f m p => Sys2Proof.Machine.execShfl g d a b e f m p s
  | .sadd d a b e f => Sys2Proof.Machine.execSadd d a b e f s
  | .ssub d a b e f => Sys2Proof.Machine.execSsub d a b e f s
  | .smul d a b e f => Sys2Proof.Machine.execSmul d a b e f s
  | .smulhI64 d a b e f => Sys2Proof.Machine.execSmulhI64 d a b e f s
  | .smulhN64 d a b e f => Sys2Proof.Machine.execSmulhN64 d a b e f s
  | .sand d a b e f => Sys2Proof.Machine.execSand d a b e f s
  | .sor d a b e f => Sys2Proof.Machine.execSor d a b e f s
  | .sxor d a b e f => Sys2Proof.Machine.execSxor d a b e f s
  | .sshl d a b e f => Sys2Proof.Machine.execSshl d a b e f s
  | .sshr d a b e f => Sys2Proof.Machine.execSshr d a b e f s
  | .ssar d a b e f => Sys2Proof.Machine.execSsar d a b e f s
  | .sminI64 d a b e f => Sys2Proof.Machine.execSminI64 d a b e f s
  | .sminN64 d a b e f => Sys2Proof.Machine.execSminN64 d a b e f s
  | .smaxI64 d a b e f => Sys2Proof.Machine.execSmaxI64 d a b e f s
  | .smaxN64 d a b e f => Sys2Proof.Machine.execSmaxN64 d a b e f s
  | .smov d a e => Sys2Proof.Machine.execSmov d a e s
  | .scmp d a b e f c => Sys2Proof.Machine.execScmp d a b e f c s
  | .ssel d a b e f => Sys2Proof.Machine.execSsel d a b e f s
  | .saddi d a i0 => Sys2Proof.Machine.execSaddi d a i0 s
  | .slih d i0 => Sys2Proof.Machine.execSlih d i0 s
  | .sshlImm d a n => Sys2Proof.Machine.execSshlImm d a n s
  | .sshrImm d a n => Sys2Proof.Machine.execSshrImm d a n s
  | .ssarImm d a n => Sys2Proof.Machine.execSsarImm d a n s
  | .bra g o => Sys2Proof.Machine.execBra g o s
  | .bru g o => Sys2Proof.Machine.execBru g o s
  | .brc g w o => Sys2Proof.Machine.execBrc g w o s
  | .call f o => Sys2Proof.Machine.execCall f o s
  | .loop n o => Sys2Proof.Machine.execLoop n o s
  | .nop => Sys2Proof.Machine.execNop s
  | .join w => Sys2Proof.Machine.execJoin w s
  | .calli a f e => Sys2Proof.Machine.execCalli a f e s
  | .ret => Sys2Proof.Machine.execRet s
  | .yield => Sys2Proof.Machine.execYield s
  | .endP => Sys2Proof.Machine.execEndP s
  | .width d a i0 => Sys2Proof.Machine.execWidth d a i0 s
  | .ld g d a b e z o => Sys2Proof.Machine.execLd g d a b e z o s
  | .st g s0 a b e z o => Sys2Proof.Machine.execSt g s0 a b e z o s
  | .lds g d b e z o => Sys2Proof.Machine.execLds g d b e z o s
  | .sts g s0 b e z o => Sys2Proof.Machine.execSts g s0 b e z o s
  | .home g d b e o => Sys2Proof.Machine.execHome g d b e o s
  | .ptab g d i0 => Sys2Proof.Machine.execPtab g d i0 s
  | .ptabFail g d i0 => Sys2Proof.Machine.execPtabFail g d i0 s
  | .fence g => Sys2Proof.Machine.execFence g s
  | .stp g s0 a b e z o => Sys2Proof.Machine.execStp g s0 a b e z o s
  | .atm g d a b e o t => Sys2Proof.Machine.execAtm g d a b e o t s
  | .atp g s0 a b e o t => Sys2Proof.Machine.execAtp g s0 a b e o t s
  | .atpVadd g s0 a b e p t => Sys2Proof.Machine.execAtpVadd g s0 a b e p t s
  | .pld g d a b e z o => Sys2Proof.Machine.execPld g d a b e z o s
  | .pst g s0 a b e z o => Sys2Proof.Machine.execPst g s0 a b e z o s
  | .patm g d a b e o t => Sys2Proof.Machine.execPatm g d a b e o t s
  | .pstep g => Sys2Proof.Machine.execPstep g s
  | .bar g i0 s0 => Sys2Proof.Machine.execBar g i0 s0 s
  | .bara g i0 s0 => Sys2Proof.Machine.execBara g i0 s0 s
  | .barw g i0 s0 => Sys2Proof.Machine.execBarw g i0 s0 s
  | .tcfg g t y e => Sys2Proof.Machine.execTcfg g t y e s
  | .tld g t y z e f => Sys2Proof.Machine.execTld g t y z e f s
  | .tst g t y z e f => Sys2Proof.Machine.execTst g t y z e f s
  | .tzero g t => Sys2Proof.Machine.execTzero g t s
  | .wld g t y e => Sys2Proof.Machine.execWld g t y e s
  | .mma g a t k => Sys2Proof.Machine.execMma g a t k s
  | .mmas g a t v f k => Sys2Proof.Machine.execMmas g a t v f k s
  | .mbatch g d => Sys2Proof.Machine.execMbatch g d s
  | .mwait g y e => Sys2Proof.Machine.execMwait g y e s
  | .accget g d n => Sys2Proof.Machine.execAccget g d n s
  | .accput g => Sys2Proof.Machine.execAccput g s
  | .acq g a => Sys2Proof.Machine.execAcq g a s
  | .rel g a => Sys2Proof.Machine.execRel g a s
  | .accrd g d a z f => Sys2Proof.Machine.execAccrd g d a z f s
  | .accrd4 g d a z f => Sys2Proof.Machine.execAccrd4 g d a z f s
  | .accwr g a v z e f => Sys2Proof.Machine.execAccwr g a v z e f s
  | .accwr4 g a v z e f => Sys2Proof.Machine.execAccwr4 g a v z e f s
  | .hwait h => Sys2Proof.Machine.execHwait h s
  | .hany d a e => Sys2Proof.Machine.execHany d a e s
  | .hall a e => Sys2Proof.Machine.execHall a e s
  | .hfirst d a e => Sys2Proof.Machine.execHfirst d a e s
  | .hclaim h => Sys2Proof.Machine.execHclaim h s
  | .hfree h => Sys2Proof.Machine.execHfree h s
  | .hsig a e => Sys2Proof.Machine.execHsig a e s
  | .copy h g d => Sys2Proof.Machine.execCopy h g d s
  | .copy2d h g d => Sys2Proof.Machine.execCopy2d h g d s
  | .gather h g d => Sys2Proof.Machine.execGather h g d s
  | .scatter h g d => Sys2Proof.Machine.execScatter h g d s
  | .mpwait d => Sys2Proof.Machine.execMpwait d s
  | .hset a h => Sys2Proof.Machine.execHset a h s
  | .hexp a h => Sys2Proof.Machine.execHexp a h s
  | .mpfence => Sys2Proof.Machine.execMpfence s
  | .mpend => Sys2Proof.Machine.execMpend s
  | .emit g d a e => Sys2Proof.Machine.execEmit g d a e s
  | .depdec g a e => Sys2Proof.Machine.execDepdec g a e s
  | .qpush g p a b e f => Sys2Proof.Machine.execQpush g p a b e f s
  | .qpop g d b f => Sys2Proof.Machine.execQpop g d b f s
  | .bfork g d => Sys2Proof.Machine.execBfork g d s
  | .bforkStamp g a e => Sys2Proof.Machine.execBforkStamp g a e s
  | .bcancel g a e => Sys2Proof.Machine.execBcancel g a e s
  | .chfork g d a e => Sys2Proof.Machine.execChfork g d a e s
  | .chapp g d a b e f => Sys2Proof.Machine.execChapp g d a b e f s
  | .chrel g a e => Sys2Proof.Machine.execChrel g a e s
  | .srd r n => Sys2Proof.Machine.execSrd r n s
  | .swr r e n => Sys2Proof.Machine.execSwr r e n s
  | .srdVector r => Sys2Proof.Machine.execSrdVector r s
  | .trap a n e => Sys2Proof.Machine.execTrap a n e s
  | .rft a e => Sys2Proof.Machine.execRft a e s
  | .ifence => Sys2Proof.Machine.execIfence s
  | .bkpt n => Sys2Proof.Machine.execBkpt n s
  | .halt => Sys2Proof.Machine.execHalt s
  | .pfix d i0 => Sys2Proof.Machine.execPfix d i0 s
  | .pfixDrop d i0 => Sys2Proof.Machine.execPfixDrop d i0 s
  | .ctxsv a e => Sys2Proof.Machine.execCtxsv a e s
  | .ctxld d a e => Sys2Proof.Machine.execCtxld d a e s
  | .ctxldKill d a e => Sys2Proof.Machine.execCtxldKill d a e s
  | .hintImm p => Sys2Proof.Machine.execHintImm p s
  | .hintRnd r => Sys2Proof.Machine.execHintRnd r s
  | .hintSched p => Sys2Proof.Machine.execHintSched p s
  | .hintFmt t => Sys2Proof.Machine.execHintFmt t s
  | .siblingHalt path => Sys2Proof.Machine.execSiblingHalt path s
  | .registerFill path flight => Sys2Proof.Machine.execRegisterFill path flight s
  | .hopLanding path core => Sys2Proof.Machine.execHopLanding path core s
  | .parkedImageResume home core => Sys2Proof.Machine.execParkedImageResume home core s
  | .parkSwitchOut home => Sys2Proof.Machine.execParkSwitchOut home s
  | .crewSwitchOut home => Sys2Proof.Machine.execCrewSwitchOut home s
  | .watchdogExpiry path => Sys2Proof.Machine.execWatchdogExpiry path s
  | .regroupWindowExpiry path => Sys2Proof.Machine.execRegroupWindowExpiry path s
  | .postPerform post => Sys2Proof.Machine.execPostPerform post s
  | .postAcknowledgement ack => Sys2Proof.Machine.execPostAcknowledgement ack s
  | .hostAccess op => Sys2Proof.Machine.execHostAccess op s
  | .copySector crew copy sector => Sys2Proof.Machine.execCopySector crew copy sector s
  | .matrixOperation crew => Sys2Proof.Machine.execMatrixOperation crew s
  | .accgetGrant crew => Sys2Proof.Machine.execAccgetGrant crew s
  | .movementFault crew => Sys2Proof.Machine.execMovementFault crew s
  | .engineRelease crew => Sys2Proof.Machine.execEngineRelease crew s
  | .clutchRecordArrival record => Sys2Proof.Machine.execClutchRecordArrival record s
  | .clutchTimer launch node brood => Sys2Proof.Machine.execClutchTimer launch node brood s
  | .launchRecordTake module => Sys2Proof.Machine.execLaunchRecordTake module s
  | .knotPlacement home => Sys2Proof.Machine.execKnotPlacement home s
  | .crewPlacement home => Sys2Proof.Machine.execCrewPlacement home s
  | .stealMessage thief => Sys2Proof.Machine.execStealMessage thief s
  | .launchCompletion launch => Sys2Proof.Machine.execLaunchCompletion launch s
  | .preemptionComplete module => Sys2Proof.Machine.execPreemptionComplete module s
  | .eccError error => Sys2Proof.Machine.execEccError error s
  | .governorStep module up => Sys2Proof.Machine.execGovernorStep module up s
  | .resetModule module stages => Sys2Proof.Machine.execResetModule module stages s
  | .qreg module => Sys2Proof.Machine.execQreg module s
  | .bindObject module => Sys2Proof.Machine.execBindObject module s
  | .lazyBind module => Sys2Proof.Machine.execLazyBind module s
  | .shoot module => Sys2Proof.Machine.execShoot module s
  | .keyload module => Sys2Proof.Machine.execKeyload module s
  | .circuit module => Sys2Proof.Machine.execCircuit module s
  | .pool module => Sys2Proof.Machine.execPool module s
  | .preempt module => Sys2Proof.Machine.execPreempt module s
  | .resume module => Sys2Proof.Machine.execResume module s
  | .haltstk module => Sys2Proof.Machine.execHaltstk module s
  | .runstk module => Sys2Proof.Machine.execRunstk module s
  | .attest module => Sys2Proof.Machine.execAttest module s
  | .devhashReport module => Sys2Proof.Machine.execDevhashReport module s
  | .wlist module => Sys2Proof.Machine.execWlist module s
  | .signkey module => Sys2Proof.Machine.execSignkey module s
  | .unlistedCommand module => Sys2Proof.Machine.execUnlistedCommand module s
  | .illegalEncoding => Sys2Proof.Machine.execIllegalEncoding s
  | .fetchBeyondExtent => Sys2Proof.Machine.execFetchBeyondExtent s
  | .larzonConfigurationSpaceWrite module header => Sys2Proof.Machine.execLarzonConfigurationSpaceWrite module header s
  | .fabricPacketResend post => Sys2Proof.Machine.execFabricPacketResend post s

end Sys2Proof.Machine
end

