-- ==== Sys2Proof/Machine/Issue.lean ====
section
/-! DEFINITION. Whose turn it is and what it runs: readiness and selection, issue-group boundaries, fetch, the turns of the schedule, and
the schedule the machine follows when none is given (spec/01 R52, R53, spec/07 R114, spec/17 R281 to R284, spec/21 R323; log 4, DESIGN CHOICE). -/
namespace Sys2Proof.Machine

/-- The first element of a list that no other is before. -/
def bestBy {α : Type} (lt : α → α → Bool) : List α → Option α
  | [] => none
  | a :: as =>
    match bestBy lt as with
    | none => some a
    | some b => if lt b a then some b else some a

/-- Whether the siblings that a trap halts have halted: supervisor entry comes after (R283, R284). -/
def State.siblingsStill (s : State) (u : Nat) (p : Path) : Bool :=
  match spFind p.knot s.knots with
  | some k => !s.anyHalting (s.partners u p k)
  | none => true

/-- Whether a path may issue: it runs, does not wait for what has not changed, and its handler's siblings have halted (R52, R283). -/
def State.ready (s : State) (u : Nat) (p : Path) : Bool :=
  s.running p && p.blockedAt != some s.serial && (!p.super || s.siblingsStill u p)

/-- A ready path on a partition, and its seat. -/
def State.readyOn (s : State) (home core part : Nat) : List (Nat × Path × Seat) :=
  (s.seats home core).filter fun e => e.2.2.part == part && s.ready e.1 e.2.1

/-- The order in which a partition issues: longest without issuing, then longest resident (R52). Two paths of one knot are aged apart, and
a full tie goes to the lower path number (log 36, DEDUCED). -/
def issuesFirst (a b : Nat × Path × Seat) : Bool :=
  decide (a.2.1.lastIssue < b.2.1.lastIssue) ||
    (a.2.1.lastIssue == b.2.1.lastIssue && (decide (a.2.2.since < b.2.2.since) || (a.2.2.since == b.2.2.since && decide (a.1 < b.1))))

/-- The path that a partition issues from (R52). -/
def State.chosen (s : State) (home core part : Nat) : Option Nat := (bestBy issuesFirst (s.readyOn home core part)).map (·.1)

/-- Fetch, decode and execute the word at a path's PC (R114, R121). -/
def State.fetchRun (s : State) (h : Here) : Out :=
  let s1 := { s with cur := .path h.u }
  if h.p.ctx.wrapped || !s.heap.inExtent h.p.ctx.fn h.p.ctx.pc then exec .fetchBeyondExtent s1
  else
    let (w, s2) := s1.fetchWord (moduleOf h.p.home) h.k.unseen h.p.ctx.pc
    match decode w with
    | .ok i => exec i s2
    | .error _ => exec .illegalEncoding s2

/-- The state after the first trap held as pending is delivered; without room for a frame it stays held (R281, R283). -/
def State.deliverHeld (s : State) (h : Here) (t : Trap) (rest : List Trap) : State :=
  let s1 := (s.modPath h.u fun p => { p with trapHeld := rest }).deliver h.u t
  match s1.path? h.u with
  | some q => if q.wait = some .memory && !q.super then s.block h.u .memory else s1
  | none => s1

/-- The state after a path that resumes carries on the replay of its fault-pending registers (R287, R293). -/
def State.resumeReplay (s : State) (h : Here) (todo : List FaultRec) : State :=
  match s.replayOn h todo with
  | .ok (done, s1) => if done then s1.bump else s1
  | .error (.wait w s1) => s1.block h.u w
  | .error (.trap t s1) => s1.takeTrap h.u t

/-- A path issues: at a boundary what waits for one comes first, then the next word (R281, R283). -/
def State.issue (s : State) (u : Nat) : Out :=
  match s.here u with
  | none => .next s
  | some h =>
    if h.p.hints.words ≠ 0 then s.fetchRun h
    else match h.p.trapHeld, h.p.pend with
      | t :: rest, _ => .next (s.deliverHeld h t rest)
      | [], .access a => .next (s.landAccess h a)
      | [], .replay todo => if h.p.super then s.fetchRun h else .next (s.resumeReplay h todo)
      | [], .none => if h.runaway then exec (.watchdogExpiry u) s else s.fetchRun h
      | [], _ => s.fetchRun h

/-- A movement processor issues: a fault that has reached it stops it, otherwise it runs the next word (R240, R241). -/
def State.moveIssue (s : State) (c : Nat) : Out :=
  match s.mover? c with
  | none => .next s
  | some m =>
    let v := m.e.mover
    let s1 := { s with cur := .mover c }
    if v.pending.isSome && v.hints.words == 0 && v.list.isEmpty then exec (.movementFault c) s
    else if v.wrapped || !s.heap.inExtent v.fn v.pc then exec .fetchBeyondExtent s1
    else
      let (w, s2) := s1.fetchWord (moduleOf m.crew.home) v.unseen v.pc
      match decode w with
      | .ok i => exec i s2
      | .error _ => exec .illegalEncoding s2

/-- Whether a movement processor may issue. -/
def State.moverReady (s : State) (c : Nat) : Bool :=
  s.moverRuns c && (s.mover? c).any fun m => m.e.mover.run == .running && m.e.mover.blockedAt != some s.serial

/-- Whether a constructor is an event or a command, and not an instruction word or the trap of a fetch. -/
def isEvent (i : Instr) : Bool := (encode i).isNone && i != .illegalEncoding && i != .fetchBeyondExtent

/-- The state after a stack's CYCLES advances; that of a halted stack stands still (R304, log 7, DESIGN CHOICE). -/
def State.tick (s : State) (home n : Nat) : State :=
  if (s.stk home).halted || !s.strap.hasHome home then s else (s.setStk home fun t => { t with cycles := (t.cycles + n) % 18446744073709551616 }).bump

/-- Whether an address space is one that some knot or movement processor translates under. -/
def State.usesSpace (s : State) (ptbase asid : Nat) : Bool :=
  (s.knots.any fun e => e.2.regs.ptbase.toNat == ptbase && e.2.regs.asid.toNat == asid) ||
    s.crews.any fun e => e.2.engine.any fun g => g.mover.ptbase.toNat == ptbase && g.mover.asid.toNat == asid

/-- The state after a TLB takes the translation of a page as the tables give it now, unless the walk must wait (R304, R322, R323). -/
def State.tlbFill (s : State) (unit ptbase asid page : Nat) : State :=
  let table := ptbase / 65536 % 68719476736 * 65536
  let reads := s.walkReads table (page * 65536) 3
  if launchUnit ≤ unit || 549755813888 ≤ page || !s.usesSpace ptbase asid || s.walkStalled reads then s
  else match (s.walked reads).walk table (page * 65536) 3 with
    | none => s.walked reads
    | some l =>
      (s.walked reads).modMem fun m =>
        { m with tlb := { unit := unit, asid := asid, page := page, pa := l.pa, key := l.key, heap := l.heap, w := l.w, rd := l.rd }
                          :: m.tlb.filter fun e => !(e.unit == unit && e.asid == asid && e.page == page) }

/-- One turn of the schedule. -/
def State.turn (s : State) (t : Turn) : Out :=
  match t with
  | .issue home core part late =>
    (match s.chosen home core part with
    | some u => ({ s with late := late }).issue u
    | none => .next s)
  | .move c => if s.moverReady c then s.moveIssue c else .next s
  | .tileWord c i => .next (s.tileWord c i)
  | .event i => if isEvent i then exec i s else .next s
  | .tick home n => .next (s.tick home n)
  | .tlbFill unit ptbase asid page => .next (s.tlbFill unit ptbase asid page)
  | .tlbDrop unit => .next (s.modMem fun m => { m with tlb := m.tlb.filter fun e => e.unit != unit })

/-- The events of a path that could happen. -/
def pathEvents (u : Nat) (p : Path) : List (State → Out) :=
  (match p.halt with | .halting _ => [execSiblingHalt u] | _ => []) ++ (p.flights.map fun f => execRegisterFill u f.id) ++
    (match p.place with | .flying _ => [execHopLanding u 0] | _ => []) ++
    (match p.pend with | .regroup _ _ _ _ => [execRegroupWindowExpiry u] | _ => [])

/-- The events of a crew that could happen. -/
def crewEvents (c : Nat) (w : Crew) : List (State → Out) :=
  match w.engine with
  | none => []
  | some e =>
    (e.copies.flatMap fun d => d.sectors.map fun x => execCopySector c d.id x.idx) ++
      [execMatrixOperation c, execAccgetGrant c, execMovementFault c, execEngineRelease c]

/-- The events of a launch that could happen. -/
def launchEvents (l : Nat) (la : Launch) : List (State → Out) :=
  (la.nodes.flatMap fun n => n.2.batches.map fun b => execClutchTimer l n.1 b.brood.toNat) ++ [execLaunchCompletion l]

/-- The events of a stack that could happen. -/
def stackEvents (h : Nat) : List (State → Out) :=
  [execParkedImageResume h 0, execKnotPlacement h, execCrewPlacement h, execStealMessage h, execParkSwitchOut h, execCrewSwitchOut h]

/-- The commands and other events of a module's management core and launch unit. -/
def moduleEvents (m : Nat) : List (State → Out) :=
  [execQreg m, execBindObject m, execLazyBind m, execShoot m, execKeyload m, execCircuit m, execPool m, execPreempt m, execResume m,
    execHaltstk m, execRunstk m, execAttest m, execDevhashReport m, execWlist m, execSignkey m, execUnlistedCommand m,
    execPreemptionComplete m, execLaunchRecordTake m]

/-- The events that could happen in a state without the world outside. -/
def State.candidates (s : State) : List (State → Out) :=
  (s.paths.flatMap fun e => pathEvents e.1 e.2) ++ (s.flow.posts.map fun p => execPostPerform p.id) ++
    (s.flow.acks.map fun a => execPostAcknowledgement a.id) ++ (s.flow.emits.map fun e => execClutchRecordArrival e.id) ++
    (s.crews.flatMap fun e => crewEvents e.1 e.2) ++ (s.launches.flatMap fun e => launchEvents e.1 e.2) ++
    (s.strap.homes.flatMap stackEvents) ++ (List.range s.strap.moduleCount).flatMap moduleEvents

/-- The first of some events that makes progress. -/
def State.firstEvent (s : State) : List (State → Out) → Option Out
  | [] => none
  | f :: fs =>
    match f s with
    | .next s1 => if s1.serial = s.serial then s.firstEvent fs else some (.next s1)
    | o => some o

/-- The ready path that the machine issues when no turn is given. -/
def State.anyReady (s : State) : Option Nat :=
  (bestBy issuesFirst ((s.paths.filterMap fun e =>
    match e.2.place with
    | .resident seat => some (e.1, e.2, seat)
    | _ => none).filter fun e => s.ready e.1 e.2.1)).map (·.1)

/-- The movement processor that the machine runs when no turn is given: the ready ones in rotation. -/
def State.anyMover (s : State) : Option Nat :=
  match (s.crews.map (·.1)).filter s.moverReady with
  | [] => none
  | c :: cs => (c :: cs)[s.round / 2 % (c :: cs).length]?

/-- A cycle passes on every stack. -/
def State.tickAll (s : State) : State := s.strap.homes.foldl (fun (s : State) h => s.tick h 1) s

/-- The turn that the machine takes when none is given: every sixteenth a cycle passes everywhere; otherwise an event that makes progress;
otherwise a ready path or movement processor, each going first in every other round; otherwise a cycle passes (log 4, DESIGN CHOICE). -/
def State.ownTurn (s0 : State) : Out :=
  let s := { s0 with round := s0.round + 1, late := false }
  if s0.round % 16 = 15 then .next s.tickAll
  else match s.firstEvent s.candidates with
    | some o => o
    | none =>
      match s.anyReady, s.anyMover with
      | some u, none => s.issue u
      | none, some c => s.moveIssue c
      | some u, some c => if s.round % 2 = 0 then s.moveIssue c else s.issue u
      | none, none => .next s.tickAll

/-- Whether the path that a partition would issue from is at a boundary where nothing but its next word waits. -/
def State.plain (s : State) (u : Nat) : Bool :=
  match s.here u with
  | none => false
  | some h => h.p.atWord && !h.runaway

/-- A migration map that keeps everything at the first word. -/
def allLive : List MapEnt :=
  [{ offset := 0, vlive := BitVec.allOnes 32, slive := BitVec.allOnes 32, plive := BitVec.allOnes 8, pond := none, callsite := false }]

/-- The state with a word at a PC, in a function: the one that has it in its extent, or one of one word (log 5, DESIGN CHOICE). -/
def State.placeWord (s : State) (fn : Nat) (pc : Pc) (w : Word) : State × Nat :=
  let words := spPut (pc.toNat / 4) w s.heap.words
  if s.heap.inExtent fn pc then ({ s with heap := { s.heap with words := words } }, fn)
  else
    ({ s with heap := { s.heap with words := words, fns := spPut pc.toNat { size := 4, kind := .kernel, map := allLive } s.heap.fns } },
      pc.toNat)

/-- Where a word goes when a path is ready to run it: home, core, partition, path. -/
def State.slotFor (s : State) : Option (Nat × Nat × Nat × Nat) :=
  s.paths.findSome? fun e =>
    match e.2.place with
    | .resident seat =>
      (match s.chosen e.2.home seat.core seat.part with
      | some u => if s.plain u then some (e.2.home, seat.core, seat.part, u) else none
      | none => none)
    | _ => none

/-- A launch record with one knot of 32 lanes (log 5, DESIGN CHOICE). -/
def loadRec (entry : Nat) (crew : Nat) (movement : Option Nat) : LaunchRec :=
  { kernel := entry, movement := movement, nknots := 1, width := 32, alloc := 32, pad := 64 * crew, crew := crew, prio := 0, place := 0
    mode := 0, args := [], base := 0, stride := 0, compl := 0, regions := [], barcnt := List.replicate 80 0 }

/-- The per-knot registers of a queue registered with zeros (R337). -/
def zeroRegs : KnotRegs := { ptbase := 0, asid := 0, keysel := 0, vecbase := 0, window := 0, watchdog := 0 }

/-- The state with a launch of one knot placed on core 0 of stack 0 of module 0, as a host's launch record would have it: `crew` asks
for an engine crew (log 5, DESIGN CHOICE). -/
def State.load (s : State) (crew : Bool) (entry : Nat) : State × Nat × Nat :=
  let (b, s0) := s.newBrood none 0 1
  let (l, s1) := s0.newId
  let (c, s2) := s1.newId
  let (kn, s3) := s2.newId
  let (u, s4) := s3.newId
  let r := loadRec entry (if crew then 1 else 0) (if crew then some entry else none)
  let la : Launch :=
    { module := 0, queue := 0, seq := 0, what := r, regs := zeroRegs, brood := b, nodes := []
      handed := (List.range s.strap.stackCount).map fun i => (i, 1), ownEnded := false, killed := false, moveFault := false
      cancelled := false }
  let seat : Seat := { core := 0, part := 0, slot := (s.freeSlotOf 0 0 0).getD 0, since := 0 }
  let k := newKnot l la 0 1 32 32 b (if crew then some (c, 0) else none) []
  let w : Crew :=
    { launch := l, index := 0, home := 0, place := .core 0, size := 1, members := [kn], ended := [], padSize := 64, pad := [], next := []
      regions := [], parity := [], writers := [], arrived := [], collided := none, decision := 0, poison := [], leaving := false
      engine := some (newEngine la entry) }
  let s5 := { s4 with launches := spPut l la s4.launches, knots := spPut kn k s4.knots
                      crews := if crew then spPut c w s4.crews else s4.crews
                      paths := spPut u (newPath kn 0 (.resident seat) false (newCtx entry 0 (maskBelow 32) [] 0 b)) s4.paths }
  ((s5.setMod 0 fun x => { x with preempt := .running }).setStk 0 fun t => { t with halted := false }, u, c)

/-- The state with a word placed where the next step fetches: on the path that a partition issues from next, on a movement processor
for majors 0x3A and 0x3B, otherwise on a launch loaded for it (log 5, DESIGN CHOICE). -/
def State.withWord (s : State) (w : Word) : State :=
  let major := (w.extractLsb' 26 6).toNat
  let forMover := major = 58 || major = 59
  let forCrew := decide (51 ≤ major) && decide (major ≤ 57)
  if forMover then
    match (s.crews.map (·.1)).find? fun c => s.moverReady c && (s.mover? c).any fun m => m.e.mover.pending.isNone && m.e.mover.hints.words == 0 && m.e.mover.list.isEmpty with
    | some c =>
      (match s.mover? c with
      | some m =>
        let (s1, fn) := s.placeWord m.e.mover.fn m.e.mover.pc w
        { (s1.modMover c fun x => { x with fn := fn, wrapped := false, unseen := [] }) with agenda := .move c :: s.agenda }
      | none => s)
    | none =>
      let entry := lowestBase 4 0 s.heap.words
      let (s1, _, c) := s.load true entry
      { (s1.placeWord noFn (BitVec.ofNat 48 entry) w).1 with agenda := .move c :: s.agenda }
  else
    match s.slotFor with
    | some (home, core, part, u) =>
      (match s.path? u with
      | some p =>
        let (s1, fn) := s.placeWord p.ctx.fn p.ctx.pc w
        { ((s1.modCtx u fun x => { x with fn := fn, wrapped := false }).modKnot p.knot fun k => { k with unseen := [] }) with
            agenda := .issue home core part false :: s.agenda }
      | none => s)
    | none =>
      let entry := lowestBase 4 0 s.heap.words
      let (s1, _, _) := s.load forCrew entry
      { (s1.placeWord noFn (BitVec.ofNat 48 entry) w).1 with agenda := .issue 0 0 0 false :: s.agenda }

end Sys2Proof.Machine
end

