-- ==== Sys2Proof/Machine/Step.lean ====
section
/-! DEFINITION. One step of the machine (log 4, DESIGN CHOICE), and where it fetches (log 5, DESIGN CHOICE). -/
namespace Sys2Proof.Machine

/-- One step: the turn at the head of the schedule, or the machine's own when the schedule is empty. -/
def step (s : State) : Host.Outcome State Fault Refusal :=
  match s.agenda with
  | t :: ts => ({ s with agenda := ts }).turn t
  | [] => s.ownTurn

/-- The state with an instruction placed where the next step fetches. -/
def State.withFetchWord (s : State) (_nbits w : Nat) : State := s.withWord (BitVec.ofNat 32 w)

end Sys2Proof.Machine
end

