-- ==== Sys2Proof/Machine/Frame.lean ====
section
/-! DEFINITION. What an instruction of one path needs to run to its effect, and what it leaves alone: the terms in which claims about
one instruction are stated. -/
namespace Sys2Proof.Machine

/-- What a path needs for an instruction to reach its effect, its operands aside: it is the current agent, the decode checks of
R121 find nothing (the hints before it are ones it takes, its level is the one it needs, the part has its unit), and an instruction that
comes after every access that the path has issued finds each of them performed (R67). -/
structure Admits (s : State) (u : Nat) (h : Here) (f : InstrForm) : Prop where
  cur : s.cur = .path u
  here : s.here u = some h
  decode : decodeTrap s h f = none
  settled : f.defer = true ∨ h.p.unperformed = []

/-- Memory but for some bytes: every other byte holds what it held, under the key that it was stored under, and reads the same under that
key and with no key; under any other key, every byte reads the same whose block of 16 bytes holds none of them (R324). -/
structure MemSt.SameBut (m n : MemSt) (touched : Nat → Prop) : Prop where
  key : ∀ a, ¬touched a → n.keyOf a = m.keyOf a
  stored : ∀ a, ¬touched a → n.readByte none a = m.readByte none a
  own : ∀ a, ¬touched a → n.readByte (some (m.keyOf a)) a = m.readByte (some (m.keyOf a)) a
  block : ∀ j a, (∀ b ∈ blockOf a, ¬touched b) → n.readByte j a = m.readByte j a

/-- Two states that agree on everything but path `u`, knot `k` and the model's own counters (progress, own turns, identities, free
values): all of memory, the code heap, everything in flight, every crew, launch, stack and module, every other path and knot. -/
structure State.SameRest (s t : State) (u k : Nat) : Prop where
  strap : t.strap = s.strap
  cur : t.cur = s.cur
  late : t.late = s.late
  agenda : t.agenda = s.agenda
  picks : t.picks = s.picks
  mem : t.mem = s.mem
  heap : t.heap = s.heap
  flow : t.flow = s.flow
  crews : t.crews = s.crews
  launches : t.launches = s.launches
  stks : t.stks = s.stks
  modules : t.modules = s.modules
  host : t.host = s.host
  paths : ∀ v, v ≠ u → t.path? v = s.path? v
  knots : ∀ j, j ≠ k → spFind j t.knots = spFind j s.knots

/-- The same lanes, function, window, frames, MODE, post table and ponds; the PC, the registers with their states, FPSTAT and the
bookkeeping of issue may differ. -/
structure Ctx.Keeps (c d : Ctx) : Prop where
  mask : d.mask = c.mask
  fn : d.fn = c.fn
  base : d.base = c.base
  frames : d.frames = c.frames
  mode : d.mode = c.mode
  posts : d.posts = c.posts
  ponds : d.ponds = c.ponds
  pushed : d.pushed = c.pushed
  stamp : d.stamp = c.stamp

/-- The same path in the same place at the same level, with the same values in flight; its registers, pending faults and the bookkeeping
of issue may differ. -/
structure Path.Keeps (p q : Path) : Prop where
  knot : q.knot = p.knot
  home : q.home = p.home
  place : q.place = p.place
  super : q.super = p.super
  entry : q.entry = p.entry
  flights : q.flights = p.flights
  trapHeld : q.trapHeld = p.trapHeld

/-- The same knot but for its vector registers and predicates. -/
structure Knot.Keeps (k l : Knot) : Prop where
  launch : l.launch = k.launch
  module : l.module = k.module
  knotId : l.knotId = k.knotId
  nknots : l.nknots = k.nknots
  grant : l.grant = k.grant
  alloc : l.alloc = k.alloc
  brood : l.brood = k.brood
  crew : l.crew = k.crew
  node : l.node = k.node
  handling : l.handling = k.handling
  regs : l.regs = k.regs
  insts : l.insts = k.insts
  batch : l.batch = k.batch
  accs : l.accs = k.accs
  baras : l.baras = k.baras
  tag : l.tag = k.tag
  serving : l.serving = k.serving
  reserved : l.reserved = k.reserved

end Sys2Proof.Machine
end

