-- ==== Sys2Proof/Safety.lean ====
section
/-! DEFINITION. What a safe run is, and what it means that an instruction completes with a result and changes nothing else: the terms
in which the statements are written. -/
namespace Sys2Proof

/-- A state from which `k` steps run without a fault or a refusal. -/
def Safe : Nat → Machine.State → Prop
  | 0, _ => True
  | k + 1, s => match Machine.step s with
    | .next s' => Safe k s'
    | _ => False

end Sys2Proof

namespace Sys2Proof.Claims
open Sys2Proof.Machine

/-- What a register instruction reads, and what it writes when it completes: the guard under which lanes are effective (p7, always
true, where the word has none), allocation registers with the values of their effective lanes, a predicate, a scalar, and the
FPSTAT flags it adds; `defer`: it may issue before earlier accesses of its path are performed (R66, R67). -/
structure RegClaim where
  form : InstrForm := .plain
  defer : Bool := true
  guard : Guard := 7
  reads : List RegName := []
  vecs : List (Nat × (Nat → Word)) := []
  pred : Option (PReg × (Nat → Bool)) := none
  scal : Option (SReg × DWord) := none
  flags : FpFlags := 0

/-- The registers that a claim writes. -/
def RegClaim.dests (c : RegClaim) : List RegName :=
  c.vecs.map (fun w => { file := .vec, num := w.1 }) ++ c.pred.toList.map (fun w => { file := .pred, num := w.1.toNat }) ++
    c.scal.toList.map fun w => { file := .scal, num := w.1.toNat }

/-- A window vector register, a predicate, a scalar and a guard's predicate, by name. -/
def vecName (h : Here) (v : VReg) : RegName := { file := .vec, num := h.p.ctx.base + v.toNat }
def predName (p : PReg) : RegName := { file := .pred, num := p.toNat }
def scalName (a : SReg) : RegName := { file := .scal, num := a.toNat }
def guardName (g : Guard) : RegName := predName (g.extractLsb' 0 3)

/-- A lane of a window vector register. -/
def laneOf (h : Here) (v : VReg) (l : Nat) : Word := h.k.lane (h.p.ctx.base + v.toNat) l

/-- A lane of a register after a write under R25: an effective lane has its value; of the others, a register that was dead or
fault-pending keeps only the lanes that another path of the knot holds and reads zero elsewhere; with no effective lane nothing
changes. -/
def laneAfter (s : State) (h : Here) (eff : Mask) (r : Nat) (val : Nat → Word) (l : Nat) : Word :=
  if eff = 0 then h.k.lane r l
  else if eff.getLsbD l then val l
  else if (h.p.ctx.vecState r = .dead ∨ h.p.ctx.vecState r = .pending) ∧ (s.otherLanes h.p.knot h.u).getLsbD l = false then 0
  else h.k.lane r l

/-- The same for a predicate. -/
def predAfter (s : State) (h : Here) (eff : Mask) (n : Nat) (val : Nat → Bool) (l : Nat) : Bool :=
  if eff = 0 then (h.k.pred n).getLsbD l
  else if eff.getLsbD l then val l
  else if (h.p.ctx.predState n = .dead ∨ h.p.ctx.predState n = .pending) ∧ (s.otherLanes h.p.knot h.u).getLsbD l = false then false
  else (h.k.pred n).getLsbD l

/-- The path and its knot after one instruction that ends at the next word: only the PC, the registers, their states and faults,
FPSTAT and the bookkeeping of issue differ. -/
def OneOn (h : Here) (q : Path) (k : Knot) : Prop :=
  q.ctx.pc = h.p.ctx.pc + 4 ∧ h.p.Keeps q ∧ h.p.ctx.Keeps q.ctx ∧ h.k.Keeps k ∧ q.hints = .none ∧ q.pend = .none ∧ q.wait = none

/-- Every lane of every allocation register, and its state, after a claim: the written ones as R25 and the claim say, the others as
before. -/
def VecsAre (s : State) (h : Here) (c : RegClaim) (q : Path) (k : Knot) : Prop :=
  (∀ w ∈ c.vecs, ∀ l < h.k.grant, k.lane w.1 l = laneAfter s h (effective h c.guard) w.1 w.2 l) ∧
  (∀ w ∈ c.vecs, effective h c.guard ≠ 0 → q.ctx.vecState w.1 = .full) ∧
  (∀ r, (effective h c.guard = 0 ∨ ∀ w ∈ c.vecs, r ≠ w.1) → k.vec r = h.k.vec r ∧ q.ctx.vecState r = h.p.ctx.vecState r)

/-- The same for predicates; p7 is never written (R116). -/
def PredsAre (s : State) (h : Here) (c : RegClaim) (q : Path) (k : Knot) : Prop :=
  (∀ w ∈ c.pred, w.1 ≠ 7 → ∀ l < h.k.grant,
    (k.pred w.1.toNat).getLsbD l = predAfter s h (effective h c.guard) w.1.toNat w.2 l) ∧
  (∀ w ∈ c.pred, effective h c.guard ≠ 0 → q.ctx.predState w.1.toNat = .full) ∧
  (∀ n, (effective h c.guard = 0 ∨ n = 7 ∨ ∀ w ∈ c.pred, n ≠ w.1.toNat) →
    k.pred n = h.k.pred n ∧ q.ctx.predState n = h.p.ctx.predState n)

/-- The same for scalars; a write to s0 is discarded (R125, R167). -/
def ScalsAre (h : Here) (c : RegClaim) (q : Path) : Prop :=
  (∀ w ∈ c.scal, q.ctx.scalVal w.1.toNat = (if w.1 = 0 then 0 else w.2) ∧ q.ctx.scalState w.1.toNat = .full) ∧
  (∀ n, (∀ w ∈ c.scal, n ≠ w.1.toNat) → q.ctx.scalVal n = h.p.ctx.scalVal n ∧ q.ctx.scalState n = h.p.ctx.scalState n)

/-- An instruction of a claim completes when its operands can be read and its destinations are not empty: a next state, in which the
registers are as the claim says, FPSTAT has the claim's flags added, the PC is at the next word, and nothing else has changed: every
byte of memory reads as before. -/
def RegisterResult (s : State) (h : Here) (i : Instr) (c : RegClaim) : Prop :=
  Admits s h.u h { c.form with defer := c.defer } → c.guard ≠ 15 → (∀ r ∈ c.reads, h.p.ctx.stateOf r = .full) →
    (∀ r ∈ c.dests, h.p.ctx.stateOf r ≠ .empty) →
    ∃ t q k, exec i s = .next t ∧ t.here h.u = some { u := h.u, p := q, k := k } ∧ OneOn h q k ∧
      VecsAre s h c q k ∧ PredsAre s h c q k ∧ ScalsAre h c q ∧ q.ctx.fpstat = h.p.ctx.fpstat ||| c.flags ∧
      s.SameRest t h.u h.p.knot ∧ ∀ key a, t.mem.readByte key a = s.mem.readByte key a

/-- A claim that writes one vector register from some lanes. -/
def vecClaim (h : Here) (g : Guard) (d : VReg) (srcs : List RegName) (val : Nat → Word) : RegClaim :=
  { guard := g, reads := guardName g :: srcs, vecs := [(h.p.ctx.base + d.toNat, val)] }

/-- A function of one register, and of two. -/
def vecClaim1 (h : Here) (g : Guard) (d a : VReg) (op : Word → Word) : RegClaim :=
  vecClaim h g d [vecName h a] fun l => op (laneOf h a l)
def vecClaim2 (h : Here) (g : Guard) (d a b : VReg) (op : Word → Word → Word) : RegClaim :=
  vecClaim h g d [vecName h a, vecName h b] fun l => op (laneOf h a l) (laneOf h b l)

/-- A claim that writes a register pair, low word first (R94). -/
def pairClaim (h : Here) (g : Guard) (d : VReg) (srcs : List RegName) (val : Nat → DWord) : RegClaim :=
  { guard := g, reads := guardName g :: srcs
    vecs := [(h.p.ctx.base + d.toNat, fun l => (val l).setWidth 32),
             (h.p.ctx.base + d.toNat + 1, fun l => (val l).extractLsb' 32 32)] }

/-- A register pair by name, and as a 64-bit lane value. -/
def pairNames (h : Here) (v : VReg) : List RegName :=
  [{ file := .vec, num := h.p.ctx.base + (v.toNat + 0) }, { file := .vec, num := h.p.ctx.base + (v.toNat + 1) }]
def pairOf (h : Here) (v : VReg) (l : Nat) : DWord :=
  h.k.lane (h.p.ctx.base + v.toNat + 1) l ++ h.k.lane (h.p.ctx.base + v.toNat) l

/-- A predicate claim. -/
def predClaim (g : Guard) (d : PReg) (srcs : List RegName) (val : Nat → Bool) : RegClaim :=
  { guard := g, reads := guardName g :: srcs, pred := some (d, val) }

end Sys2Proof.Claims

namespace Sys2Proof.Claims
open Sys2Proof.Machine

/-- The immediate of majors 0x02, 0x03 and 0x06: sign-extended, or with the low 21 bits of HINT.IMM above it (R122). -/
def imm32 (h : Here) (i : BitVec 11) : Word :=
  match h.p.hints.imm with
  | none => i.signExtend 32
  | some p => p.extractLsb' 0 21 ++ i

/-- The vector integer family, majors 0x01 to 0x07 (R150 to R155). -/
def intClaim (h : Here) : Instr → Option RegClaim
  | .iadd g d a b _ _ => some (vecClaim2 h g d a b fun x y => x + y)
  | .isub g d a b _ _ => some (vecClaim2 h g d a b fun x y => x - y)
  | .imul g d a b _ _ => some (vecClaim2 h g d a b fun x y => x * y)
  | .imulhI32 g d a b _ _ => some (vecClaim2 h g d a b fun x y => (x.signExtend 64 * y.signExtend 64).extractLsb' 32 32)
  | .imulhN32 g d a b _ _ => some (vecClaim2 h g d a b fun x y => (x.setWidth 64 * y.setWidth 64).extractLsb' 32 32)
  | .imad g d a b _ _ =>
      some (vecClaim h g d [vecName h a, vecName h b, vecName h d] fun l => laneOf h a l * laneOf h b l + laneOf h d l)
  | .iminI32 g d a b _ _ => some (vecClaim2 h g d a b fun x y => if x.toInt ≤ y.toInt then x else y)
  | .iminN32 g d a b _ _ => some (vecClaim2 h g d a b fun x y => if x.toNat ≤ y.toNat then x else y)
  | .imaxI32 g d a b _ _ => some (vecClaim2 h g d a b fun x y => if x.toInt ≤ y.toInt then y else x)
  | .imaxN32 g d a b _ _ => some (vecClaim2 h g d a b fun x y => if x.toNat ≤ y.toNat then y else x)
  | .iabs g d a _ => some (vecClaim1 h g d a fun x => if x.toInt < 0 then -x else x)
  | .andV g d a b _ _ => some (vecClaim2 h g d a b fun x y => x &&& y)
  | .orV g d a b _ _ => some (vecClaim2 h g d a b fun x y => x ||| y)
  | .xorV g d a b _ _ => some (vecClaim2 h g d a b fun x y => x ^^^ y)
  | .andn g d a b _ _ => some (vecClaim2 h g d a b fun x y => x &&& ~~~y)
  | .shl g d a b _ _ => some (vecClaim2 h g d a b fun x y => if 32 ≤ y.toNat then 0 else x <<< y.toNat)
  | .shr g d a b _ _ => some (vecClaim2 h g d a b fun x y => if 32 ≤ y.toNat then 0 else x >>> y.toNat)
  | .sar g d a b _ _ =>
      some (vecClaim2 h g d a b fun x y =>
        if 32 ≤ y.toNat then (if x.getLsbD 31 then BitVec.allOnes 32 else 0) else x.sshiftRight y.toNat)
  | .popc g d a _ => some (vecClaim1 h g d a fun x => BitVec.ofNat 32 ((List.range 32).countP fun i => x.getLsbD i))
  | .clz g d a _ =>
      some (vecClaim1 h g d a fun x => BitVec.ofNat 32 ((List.range 32).takeWhile fun i => !x.getLsbD (31 - i)).length)
  | .brev g d a _ => some (vecClaim1 h g d a fun x => x.reverse)
  | .mov g d a _ => some (vecClaim1 h g d a fun x => x)
  | .lea g d a b _ _ => some (vecClaim2 h g d a b fun x y => x + y)
  | .sel g d a b _ _ p =>
      some (vecClaim h g d [vecName h a, vecName h b, predName p] fun l =>
        if (h.k.pred p.toNat).getLsbD l then laneOf h a l else laneOf h b l)
  | .iaddImm g d a _ i => some { vecClaim1 h g d a (fun x => x + imm32 h i) with form := { imm := .low } }
  | .imulImm g d a _ i => some { vecClaim1 h g d a (fun x => x * imm32 h i) with form := { imm := .low } }
  | .shlImm g d a _ n => some (vecClaim1 h g d a fun x => x <<< n.toNat)
  | .shrImm g d a _ n => some (vecClaim1 h g d a fun x => x >>> n.toNat)
  | .sarImm g d a _ n => some (vecClaim1 h g d a fun x => x.sshiftRight n.toNat)
  | .bfe g d a _ p l => some (vecClaim1 h g d a fun x => (x >>> p.toNat) &&& BitVec.ofNat 32 (2 ^ (l.toNat + 1) - 1))
  | .bfi g d a _ p l =>
      let m := BitVec.ofNat 32 (2 ^ (l.toNat + 1) - 1)
      some (vecClaim h g d [vecName h a, vecName h d] fun k =>
        (laneOf h d k &&& ~~~(m <<< p.toNat)) ||| ((laneOf h a k &&& m) <<< p.toNat))
  | .movi g d i => some { vecClaim h g d [] (fun _ => imm32 h i) with form := { imm := .low } }
  | .iadd64 g d a b _ _ => some (pairClaim h g d (pairNames h a ++ pairNames h b) fun l => pairOf h a l + pairOf h b l)
  | .isub64 g d a b _ _ => some (pairClaim h g d (pairNames h a ++ pairNames h b) fun l => pairOf h a l - pairOf h b l)
  | .imulwI32 g d a b _ _ =>
      some (pairClaim h g d [vecName h a, vecName h b] fun l => (laneOf h a l).signExtend 64 * (laneOf h b l).signExtend 64)
  | .imulwN32 g d a b _ _ =>
      some (pairClaim h g d [vecName h a, vecName h b] fun l => (laneOf h a l).setWidth 64 * (laneOf h b l).setWidth 64)
  | .leaShift g d a b _ _ n => some (vecClaim2 h g d a b fun x y => x + (y <<< n.toNat))
  | .icmp g d a b _ _ c =>
      some (predClaim g d [vecName h a, vecName h b] fun l =>
        let x := laneOf h a l
        let y := laneOf h b l
        match c with
        | .eq => decide (x = y)
        | .ne => decide (x ≠ y)
        | .ltI => decide (x.toInt < y.toInt)
        | .leI => decide (x.toInt ≤ y.toInt)
        | .gtI => decide (y.toInt < x.toInt)
        | .geI => decide (y.toInt ≤ x.toInt)
        | .ltN => decide (x.toNat < y.toNat)
        | .leN => decide (x.toNat ≤ y.toNat)
        | .gtN => decide (y.toNat < x.toNat)
        | .geN => decide (y.toNat ≤ x.toNat))
  | _ => none

/-- The environment of a floating-point instruction (R99, R102, R123): the format of HINT.FMT or the default, the direction of the
rounding field, MODE[2] and MODE[3]. -/
def fpEnvOf (h : Here) (r : RndField) (default : FloatFmt) : FpEnv :=
  { fmt := (match h.p.hints.fmt with
      | some .f32 => fmtF32
      | some .f16 => fmtF16
      | some .bf16 => fmtBF16
      | _ => default)
    dir := (match r with
      | .mode => (match (h.p.ctx.mode.extractLsb' 0 2).toNat with
          | 0 => .near
          | 1 => .zero
          | 2 => .down
          | _ => .up)
      | .near => .near
      | .zero => .zero
      | .hint => h.p.hints.rnd.getD .near)
    flushIn := h.p.ctx.mode.getLsbD 2
    flushOut := h.p.ctx.mode.getLsbD 3 }

/-- The OR of the flags of the effective lanes (R101). -/
def flagsOf (h : Here) (g : Guard) (res : Nat → Word × FpFlags) : FpFlags :=
  (List.range h.k.grant).foldl (fun a l => if (effective h g).getLsbD l then a ||| (res l).2 else a) 0

/-- A claim of a floating-point instruction: each effective lane has its result, FPSTAT the OR of their flags (R158). -/
def fpClaim (h : Here) (form : InstrForm) (g : Guard) (d : VReg) (srcs : List RegName) (res : Nat → Word × FpFlags) : RegClaim :=
  { form := form, guard := g, reads := guardName g :: srcs, vecs := [(h.p.ctx.base + d.toNat, fun l => (res l).1)]
    flags := flagsOf h g res }

/-- A lane as a number of the instruction's format: its low bits (R97). -/
def numOf (h : Here) (r : RndField) (v : VReg) (l : Nat) : Nat := (laneOf h v l).toNat % 2 ^ (fpEnvOf h r fmtF32).fmt.width

/-- The non-packed shapes, by what they apply to the numbers (R156 to R158). -/
def fpClaim1 (h : Here) (r : RndField) (g : Guard) (d a : VReg) (op : FpEnv → Nat → FpOut) : RegClaim :=
  fpClaim h { fmt := true, rnd := r == .hint } g d [vecName h a] fun l =>
    let o := op (fpEnvOf h r fmtF32) (numOf h r a l)
    (BitVec.ofNat 32 o.1, o.2)
def fpClaim2 (h : Here) (r : RndField) (g : Guard) (d a b : VReg) (op : FpEnv → Nat → Nat → FpOut) : RegClaim :=
  fpClaim h { fmt := true, rnd := r == .hint } g d [vecName h a, vecName h b] fun l =>
    let o := op (fpEnvOf h r fmtF32) (numOf h r a l) (numOf h r b l)
    (BitVec.ofNat 32 o.1, o.2)

/-- A packed claim: two elements per lane, F16 unless HINT.FMT says BF16, the flags of both (R161). -/
def packClaim (h : Here) (r : RndField) (g : Guard) (d : VReg) (srcs : List RegName) (op : FpEnv → Nat → Nat → FpOut) : RegClaim :=
  fpClaim h { fmt := true, pair := true, rnd := r == .hint } g d srcs fun l =>
    let lo := op (fpEnvOf h r fmtF16) l 0
    let hi := op (fpEnvOf h r fmtF16) l 1
    (BitVec.ofNat 32 (lo.1 + 65536 * hi.1), lo.2 ||| hi.2)

/-- Element 0 or 1 of a packed lane (R97). -/
def elementOf (h : Here) (v : VReg) (l i : Nat) : Nat := (laneOf h v l).toNat / 2 ^ (16 * i) % 65536

/-- The vector floating-point family, majors 0x08 to 0x0B (R156 to R161). -/
def floatClaim (h : Here) : Instr → Option RegClaim
  | .fadd r g d a b _ _ => some (fpClaim2 h r g d a b FpEnv.add)
  | .fsub r g d a b _ _ => some (fpClaim2 h r g d a b FpEnv.sub)
  | .fmul r g d a b _ _ => some (fpClaim2 h r g d a b FpEnv.mul)
  | .ffma r g d a b _ _ =>
      some (fpClaim h { fmt := true, rnd := r == .hint } g d [vecName h a, vecName h b, vecName h d] fun l =>
        let o := (fpEnvOf h r fmtF32).fma (numOf h r a l) (numOf h r b l) (numOf h r d l)
        (BitVec.ofNat 32 o.1, o.2))
  | .frcp r g d a _ => some (fpClaim1 h r g d a FpEnv.rcp)
  | .frsq r g d a _ => some (fpClaim1 h r g d a FpEnv.rsq)
  | .fsqrt r g d a _ => some (fpClaim1 h r g d a FpEnv.sqrt)
  | .fexp2 r g d a _ => some (fpClaim1 h r g d a FpEnv.exp2)
  | .flog2 r g d a _ => some (fpClaim1 h r g d a FpEnv.log2)
  | .fsin r g d a _ => some (fpClaim1 h r g d a fun c x => c.trig false x)
  | .fcos r g d a _ => some (fpClaim1 h r g d a fun c x => c.trig true x)
  | .frint r g d a _ => some (fpClaim1 h r g d a FpEnv.rint)
  | .hadd2 r g d a b _ _ =>
      some (packClaim h r g d [vecName h a, vecName h b] fun c l i => c.add (elementOf h a l i) (elementOf h b l i))
  | .hmul2 r g d a b _ _ =>
      some (packClaim h r g d [vecName h a, vecName h b] fun c l i => c.mul (elementOf h a l i) (elementOf h b l i))
  | .hfma2 r g d a b _ _ =>
      some (packClaim h r g d [vecName h a, vecName h b, vecName h d] fun c l i =>
        c.fma (elementOf h a l i) (elementOf h b l i) (elementOf h d l i))
  | .fmin g d a b _ _ => some (fpClaim2 h .mode g d a b fun c x y => c.minMax false x y)
  | .fmax g d a b _ _ => some (fpClaim2 h .mode g d a b fun c x y => c.minMax true x y)
  | .fneg g d a _ => some (fpClaim1 h .mode g d a fun c x => (c.signOp false x, 0))
  | .fabs g d a _ => some (fpClaim1 h .mode g d a fun c x => (c.signOp true x, 0))
  | .fclass g d a _ => some (fpClaim1 h .mode g d a fun c x => (c.classify x, 0))
  | .fcmp g d a b _ _ k =>
      let res := fun l => (fpEnvOf h .mode fmtF32).cmp k (numOf h .mode a l) (numOf h .mode b l)
      some { form := { fmt := true }, guard := g, reads := [guardName g, vecName h a, vecName h b]
             pred := some (d, fun l => (res l).1), flags := flagsOf h g fun l => (0, (res l).2) }
  | _ => none

/-- The direction of a conversion (R102). -/
def dirIn (h : Here) (r : RndField) : Dir := (fpEnvOf h r fmtF32).dir

/-- The bits of a field of `w` bits at `p`. -/
def fieldAt (w p : Nat) : Word := BitVec.ofNat 32 (2 ^ w - 1) <<< p

/-- The conversions, majors 0x0C and 0x0D (R162 to R165): `convert` and the block functions are R105 to R108. -/
def convertClaim (h : Here) : Instr → Option RegClaim
  | .cvt g d a _ r t x =>
      let src := fun l => (if x.regs = 2 then (pairOf h a l).toNat else (laneOf h a l).toNat) % 2 ^ typeWidth x
      let res := fun l => convert t x h.p.ctx.mode (dirIn h r) (src l)
      let lo : Nat × (Nat → Word) := (h.p.ctx.base + d.toNat, fun l => (placeType t (res l).1).setWidth 32)
      let hi : Nat × (Nat → Word) := (h.p.ctx.base + d.toNat + 1, fun l => (placeType t (res l).1).extractLsb' 32 32)
      some { form := { rnd := r == .hint }, guard := g
             reads := guardName g :: (if x.regs = 2 then pairNames h a else [{ file := .vec, num := h.p.ctx.base + (a.toNat + 0) }])
             vecs := if t.regs = 2 then [lo, hi] else [lo], flags := flagsOf h g fun l => (0, (res l).2) }
  | .cvtn g d a _ r p t =>
      some (fpClaim h { rnd := r == .hint } g d [vecName h a, vecName h d] fun l =>
        let o := convert t (partnerType t) h.p.ctx.mode (dirIn h r) (laneOf h a l).toNat
        let at' := typeWidth t * p.toNat
        ((laneOf h d l &&& ~~~fieldAt (typeWidth t) at') ||| (BitVec.ofNat 32 o.1 <<< at'), o.2))
  | .cvtPart g d a _ p t =>
      some (fpClaim h .plain g d [vecName h a] fun l =>
        let o := convert (partnerType t) t h.p.ctx.mode .near ((laneOf h a l).toNat / 2 ^ (typeWidth t * p.toNat) % 2 ^ typeWidth t)
        (BitVec.ofNat 32 o.1, o.2))
  | .bxq g d a _ t =>
      let block := fun j => if (effective h g).extractLsb' (32 * j) 32 = 0 then (0, [], 0)
        else bxQuantise (t == .bx4) (bxInputs h (effective h g) a j)
      some { guard := g, reads := [guardName g, vecName h a]
             vecs := [(h.p.ctx.base + d.toNat, fun l =>
               BitVec.ofNat 32 ((((List.range 32).map block).getD (l / 32) (0, [], 0)).2.1.getD (l % 32) 0 +
                 65536 * (((List.range 32).map block).getD (l / 32) (0, [], 0)).1))]
             flags := (List.range 32).foldl (fun f j => f ||| (block j).2.2) 0 }
  | .bxd g d a _ t =>
      some (fpClaim h .plain g d [vecName h a] fun l =>
        match bxValue (t == .bx4) (laneOf h a l).toNat ((laneOf h a l).toNat / 65536) with
        | .num n m ex =>
          let r := fmtF32.round (.dir .near) (h.p.ctx.mode.getLsbD 3) n m ex false
          (BitVec.ofNat 32 r.bits, r.flags)
        | _ => (BitVec.ofNat 32 fmtF32.nan, 0))
  | _ => none

/-- The predicate family, major 0x0E (R166). -/
def predFamilyClaim (h : Here) : Instr → Option RegClaim
  | .pand g d a b _ _ => some (predClaim g d [predName a, predName b] fun l =>
      (h.k.pred a.toNat).getLsbD l && (h.k.pred b.toNat).getLsbD l)
  | .por g d a b _ _ => some (predClaim g d [predName a, predName b] fun l =>
      (h.k.pred a.toNat).getLsbD l || (h.k.pred b.toNat).getLsbD l)
  | .pxor g d a b _ _ => some (predClaim g d [predName a, predName b] fun l =>
      (h.k.pred a.toNat).getLsbD l != (h.k.pred b.toNat).getLsbD l)
  | .pnot g d a _ => some (predClaim g d [predName a] fun l => !(h.k.pred a.toNat).getLsbD l)
  | .pset g d a _ => some (predClaim g d [vecName h a] fun l => decide (laneOf h a l ≠ 0))
  | .pget g d a _ => some (vecClaim h g d [predName a] fun l => if (h.k.pred a.toNat).getLsbD l then 1 else 0)
  | _ => none

/-- The lanes that an instruction of a guard has present: effective, in ascending order (R112, R169). -/
def presentLanes (h : Here) (g : Guard) : List Nat := (List.range h.k.grant).filter fun l => (effective h g).getLsbD l

/-- Whether lane `i` is present. -/
def isPresent (h : Here) (g : Guard) (i : Nat) : Bool := decide (i < h.k.grant) && (effective h g).getLsbD i

/-- The accumulating scalar of REDUCE and SCAN: none for a field of zero (R133, R172). -/
def accName (b : SReg) : List RegName := if b = 0 then [] else [scalName b]
def accItem (h : Here) (k : Comb) (b : SReg) : Option Item :=
  if b = 0 then none else some (k.read ((h.p.ctx.scalVal b.toNat).setWidth 32))

/-- REDUCE (R112, R172): the fold of the word results of the tree of R112, in sd; no flag without a present lane. -/
def reduceClaim (h : Here) (rnd : Bool) (g : Guard) (d : SReg) (a : VReg) (b : SReg) (k : Comb) (empty : Word) (signed : Bool) :
    RegClaim :=
  let r := (k.reduce (effective h g) (laneOf h a) (accItem h k b)).getD (empty, 0)
  { form := { rnd := rnd }, guard := g, reads := [guardName g, vecName h a] ++ accName b
    scal := some (d, if signed then (k.result r.1).signExtend 64 else (k.result r.1).setWidth 64)
    flags := if effective h g = 0 then 0 else r.2 }

/-- SCAN (R173): the inclusive prefix over the present lanes. -/
def scanClaim (h : Here) (rnd : Bool) (g : Guard) (d a : VReg) (b : SReg) (k : Comb) : RegClaim :=
  let r := k.scan (laneOf h a) (presentLanes h g) (accItem h k b)
  { form := { rnd := rnd }, guard := g, reads := [guardName g, vecName h a] ++ accName b
    vecs := [(h.p.ctx.base + d.toNat, fun l => ((r.1.find? fun x => x.1 == l).map (·.2)).getD 0)]
    flags := if effective h g = 0 then 0 else r.2 }

/-- VOTE (R171): the count of the present lanes where pa is true and of all, and the ballot of one mask word above. -/
def voteClaim (h : Here) (g : Guard) (d : SReg) (a : PReg) (k : BitVec 5) (res : Nat → Nat → Nat) : RegClaim :=
  let yes := effective h g &&& h.k.pred a.toNat
  { guard := g, reads := [guardName g, predName a]
    scal := some (d, yes.extractLsb' (32 * k.toNat) 32 ++
      BitVec.ofNat 32 (res ((List.range 1024).filter fun l => yes.getLsbD l).length
        ((List.range 1024).filter fun l => (effective h g).getLsbD l).length)) }

/-- The source lane of SHFL, when it is a present lane (R170). -/
def shflLane (h : Here) (g : Guard) (m : ShflMode) (l : Nat) (b : Word) : Option Nat :=
  (match m with
    | .idx => some b.toNat
    | .up => if l < b.toNat then none else some (l - b.toNat)
    | .down => some (l + b.toNat)
    | .xor => some (l ^^^ b.toNat)).filter (isPresent h g)

/-- The cross-lane family, majors 0x0F and 0x10, but for PACK and REGROUP (R112, R169 to R175). -/
def crossClaim (h : Here) : Instr → Option RegClaim
  | .reduceAddI32 g d a b _ _ => some (reduceClaim h false g d a b (intComb fun x y => x + y) 0 true)
  | .reduceMinI32 g d a b _ _ => some (reduceClaim h false g d a b (intComb fun x y => if x.sle y then x else y) 0x7FFFFFFF true)
  | .reduceMinN32 g d a b _ _ => some (reduceClaim h false g d a b (intComb fun x y => if x.ule y then x else y) 0xFFFFFFFF false)
  | .reduceMaxI32 g d a b _ _ => some (reduceClaim h false g d a b (intComb fun x y => if x.sle y then y else x) 0x80000000 true)
  | .reduceMaxN32 g d a b _ _ => some (reduceClaim h false g d a b (intComb fun x y => if x.ule y then y else x) 0 false)
  | .reduceAnd g d a b _ _ => some (reduceClaim h false g d a b (intComb fun x y => x &&& y) 0xFFFFFFFF false)
  | .reduceOr g d a b _ _ => some (reduceClaim h false g d a b (intComb fun x y => x ||| y) 0 false)
  | .reduceXor g d a b _ _ => some (reduceClaim h false g d a b (intComb fun x y => x ^^^ y) 0 false)
  | .reduceMinF32 g d a b _ _ =>
      some (reduceClaim h false g d a b (floatComb h .mode fun c x y => c.minMax false x y) 0x7F800000 false)
  | .reduceMaxF32 g d a b _ _ =>
      some (reduceClaim h false g d a b (floatComb h .mode fun c x y => c.minMax true x y) 0xFF800000 false)
  | .reduceAddF32 g d a b _ _ => some (reduceClaim h false g d a b (floatComb h .mode FpEnv.add) 0 false)
  | .reduceAddF32Rn g d a b _ _ => some (reduceClaim h false g d a b (floatComb h .near FpEnv.add) 0 false)
  | .reduceAddF32Rz g d a b _ _ => some (reduceClaim h false g d a b (floatComb h .zero FpEnv.add) 0 false)
  | .reduceAddF32Hint g d a b _ _ => some (reduceClaim h true g d a b (floatComb h .hint FpEnv.add) 0 false)
  | .scanAddI32 g d a b _ _ => some (scanClaim h false g d a b (intComb fun x y => x + y))
  | .scanMinI32 g d a b _ _ => some (scanClaim h false g d a b (intComb fun x y => if x.sle y then x else y))
  | .scanMaxI32 g d a b _ _ => some (scanClaim h false g d a b (intComb fun x y => if x.sle y then y else x))
  | .scanAddF32 g d a b _ _ => some (scanClaim h false g d a b (floatComb h .mode FpEnv.add))
  | .scanAddF32Rn g d a b _ _ => some (scanClaim h false g d a b (floatComb h .near FpEnv.add))
  | .scanAddF32Rz g d a b _ _ => some (scanClaim h false g d a b (floatComb h .zero FpEnv.add))
  | .scanAddF32Hint g d a b _ _ => some (scanClaim h true g d a b (floatComb h .hint FpEnv.add))
  | .voteAny g d a k _ => some (voteClaim h g d a k fun yes _ => if yes = 0 then 0 else 1)
  | .voteAll g d a k _ => some (voteClaim h g d a k fun yes all => if yes = all then 1 else 0)
  | .voteCnt g d a k _ => some (voteClaim h g d a k fun yes _ => yes)
  | .matchV g d a _ =>
      some (vecClaim h g d [vecName h a] fun l =>
        BitVec.ofNat 32 (((presentLanes h g).find? fun m => laneOf h a m == laneOf h a l).getD l))
  | .bcast g d a b _ _ =>
      some (vecClaim h g d [vecName h a, scalName b] fun l =>
        laneOf h a (if isPresent h g (h.p.ctx.scalVal b.toNat).toNat then (h.p.ctx.scalVal b.toNat).toNat else l))
  | .v2s g d a b _ _ =>
      some { guard := g, reads := [guardName g, vecName h a, scalName b]
             scal := some (d, if isPresent h g (h.p.ctx.scalVal b.toNat).toNat
               then (laneOf h a (h.p.ctx.scalVal b.toNat).toNat).setWidth 64 else 0) }
  | .s2v g d a _ => some (vecClaim h g d [scalName a] fun _ => (h.p.ctx.scalVal a.toNat).setWidth 32)
  | .shfl g d a b _ _ m p =>
      let src := fun l => shflLane h g m l (laneOf h b l)
      some { guard := g, reads := [guardName g, vecName h a, vecName h b]
             vecs := [(h.p.ctx.base + d.toNat, fun l => match src l with | some i => laneOf h a i | none => laneOf h a l)]
             pred := some (p, fun l => (src l).isSome) }
  | _ => none

/-- A scalar claim. -/
def scalClaim (d : SReg) (srcs : List RegName) (v : DWord) : RegClaim := { reads := srcs, scal := some (d, v) }

/-- The value of SADDI's immediate (R122). -/
def imm64 (i : Option (BitVec 23)) (low : BitVec 16) : DWord :=
  match i with
  | none => low.signExtend 64
  | some p => (p ++ low).signExtend 64

/-- What a scalar instruction gives, from the values of scalars and HINT.IMM (R167, R168): its destination, the scalars it reads, its
value. -/
def scalarValue (r : SReg → DWord) (hint : Option (BitVec 23)) : Instr → Option (SReg × List SReg × DWord)
  | .sadd d a b _ _ => some (d, [a, b], r a + r b)
  | .ssub d a b _ _ => some (d, [a, b], r a - r b)
  | .smul d a b _ _ => some (d, [a, b], r a * r b)
  | .smulhI64 d a b _ _ => some (d, [a, b], ((r a).signExtend 128 * (r b).signExtend 128).extractLsb' 64 64)
  | .smulhN64 d a b _ _ => some (d, [a, b], ((r a).setWidth 128 * (r b).setWidth 128).extractLsb' 64 64)
  | .sand d a b _ _ => some (d, [a, b], r a &&& r b)
  | .sor d a b _ _ => some (d, [a, b], r a ||| r b)
  | .sxor d a b _ _ => some (d, [a, b], r a ^^^ r b)
  | .sshl d a b _ _ => some (d, [a, b], if 64 ≤ (r b).toNat then 0 else r a <<< (r b).toNat)
  | .sshr d a b _ _ => some (d, [a, b], if 64 ≤ (r b).toNat then 0 else r a >>> (r b).toNat)
  | .ssar d a b _ _ =>
      some (d, [a, b], if 64 ≤ (r b).toNat then (if (r a).getLsbD 63 then BitVec.allOnes 64 else 0)
        else (r a).sshiftRight (r b).toNat)
  | .sminI64 d a b _ _ => some (d, [a, b], if (r a).toInt ≤ (r b).toInt then r a else r b)
  | .sminN64 d a b _ _ => some (d, [a, b], if (r a).toNat ≤ (r b).toNat then r a else r b)
  | .smaxI64 d a b _ _ => some (d, [a, b], if (r a).toInt ≤ (r b).toInt then r b else r a)
  | .smaxN64 d a b _ _ => some (d, [a, b], if (r a).toNat ≤ (r b).toNat then r b else r a)
  | .smov d a _ => some (d, [a], r a)
  | .scmp d a b _ _ c =>
      some (d, [a, b], if (match c with
        | .eq => decide (r a = r b)
        | .ne => decide (r a ≠ r b)
        | .ltI => decide ((r a).toInt < (r b).toInt)
        | .leI => decide ((r a).toInt ≤ (r b).toInt)
        | .gtI => decide ((r b).toInt < (r a).toInt)
        | .geI => decide ((r b).toInt ≤ (r a).toInt)
        | .ltN => decide ((r a).toNat < (r b).toNat)
        | .leN => decide ((r a).toNat ≤ (r b).toNat)
        | .gtN => decide ((r b).toNat < (r a).toNat)
        | .geN => decide ((r b).toNat ≤ (r a).toNat)) then 1 else 0)
  | .ssel d a b _ _ => some (d, [a, b, d], if r d = 0 then r b else r a)
  | .saddi d a i => some (d, [a], r a + imm64 hint i)
  | .slih d i => some (d, [], BitVec.ofNat 64 (i.toNat * 4096))
  | .sshlImm d a n => some (d, [a], r a <<< n.toNat)
  | .sshrImm d a n => some (d, [a], r a >>> n.toNat)
  | .ssarImm d a n => some (d, [a], (r a).sshiftRight n.toNat)
  | _ => none

/-- The form of a scalar instruction: SADDI takes all of HINT.IMM (R122). -/
def scalarForm : Instr → InstrForm
  | .saddi _ _ _ => { imm := .any }
  | _ => .plain

/-- The scalar family on a knot, majors 0x20 to 0x23 (R167, R168). -/
def scalarClaim (h : Here) (i : Instr) : Option RegClaim :=
  (scalarValue (fun a => h.p.ctx.scalVal a.toNat) h.p.hints.imm i).map fun x =>
    { scalClaim x.1 (x.2.1.map scalName) x.2.2 with form := scalarForm i }

/-- Whether a scalar instruction has an fe bit set. -/
def hasFe : Instr → Bool
  | .sadd _ _ _ e f | .ssub _ _ _ e f | .smul _ _ _ e f | .smulhI64 _ _ _ e f | .smulhN64 _ _ _ e f | .sand _ _ _ e f
  | .sor _ _ _ e f | .sxor _ _ _ e f | .sshl _ _ _ e f | .sshr _ _ _ e f | .ssar _ _ _ e f | .sminI64 _ _ _ e f
  | .sminN64 _ _ _ e f | .smaxI64 _ _ _ e f | .smaxN64 _ _ _ e f | .scmp _ _ _ e f _ | .ssel _ _ _ e f => e || f
  | .smov _ _ e => e
  | _ => false

/-- Two states that agree on everything but the movement processor of crew `c` and the progress counter, and whose movement
processors differ as `f` says. -/
def OnlyMover (s t : State) (c : Nat) (w : Crew) (e : Engine) (m : Mover) : Prop :=
  t = { s with serial := t.serial, crews := t.crews } ∧ spFind c t.crews = some { w with engine := some { e with mover := m } } ∧
    ∀ j, j ≠ c → spFind j t.crews = spFind j s.crews

/-- One instruction of a path is complete: the path is `b` with context `c`, its word counted by the watchdog and no hint, pending part
or wait left; its knot is `k`; every other path and knot, every byte of memory and the rest of the machine are as before. -/
def Completes (s t : State) (h : Here) (b : Path) (c : Ctx) (k : Knot) : Prop :=
  ∃ q, t.here h.u = some { u := h.u, p := q, k := k } ∧ q.ctx = { c with wd := h.counted, sent := 0 } ∧ b.Keeps q ∧
    q.hints = .none ∧ q.pend = .none ∧ q.wait = none ∧ s.SameRest t h.u h.p.knot ∧
    ∀ key a, t.mem.readByte key a = s.mem.readByte key a

/-- A context at the next word (R114), and at a target in a function (R178). -/
def nextWord (c : Ctx) : Ctx := { c with pc := c.pc + 4, wrapped := c.pc == 0xFFFFFFFFFFFC#48 }
def goesTo (c : Ctx) (pc : Pc) (fn : Nat) : Ctx := { c with pc := pc, wrapped := false, fn := fn }

/-- The target of a branch or call at a PC: four times the signed offset from the word itself (R122, R178). -/
def targetOf (pc : Pc) (o : BitVec 18) : Pc := pc + 4 * o.signExtend 48

/-- The PC that a value names: its low 48 bits, of which bits [1:0] are zero (R114). -/
def wordPc (v : DWord) : Pc := (v.setWidth 48).extractLsb' 2 46 ++ 0#2

/-- The active lanes: those of the path below the grant (R20). -/
def activeLanes (h : Here) : Mask := h.p.ctx.mask &&& maskBelow h.k.grant

/-- The active lanes in which a guard is true (R117, R180). -/
def trueLanes (h : Here) (g : Guard) : Mask := activeLanes h &&& guardMask h.k g

/-- The path after the registers outside the carried set of its migration point became dead (R30). -/
def carriedOnly (s : State) (h : Here) : Path := h.p.die (carriedSet s.heap h.p.ctx)

/-- Every VALID post-table entry has OUTST 0, and is not FAULTED unless the path is at supervisor level (R76, R286). -/
def Fenced (h : Here) : Prop := ∀ e ∈ h.p.ctx.posts, e.valid = true → e.outst = 0 ∧ (h.p.super = true ∨ e.faulted = false)

/-- The movement processor after an instruction: `n` at a PC, with no hint and no wait left (R240). -/
def moverAt (n : Mover) (pc : Pc) (wrapped : Bool) (fn : Nat) : Mover :=
  { n with hints := .none, wait := false, blockedAt := none, list := [], pc := pc, wrapped := wrapped, fn := fn }
def moverNext (m : MHere) (n : Mover) : Mover := moverAt n (m.e.mover.pc + 4) (m.e.mover.pc == 0xFFFFFFFFFFFC#48) n.fn

/-- A movement-processor instruction with no hint before it. -/
def MovesOn (s : State) (m : MHere) : Prop :=
  s.cur = .mover m.c ∧ s.mover? m.c = some m ∧ hintsMisused .plain m.e.mover.hints = false

/-- The context after a call: a frame record, and the base moved up by F (R23, R183). -/
def called (c : Ctx) (f : BitVec 5) : Ctx :=
  { c with frames := c.frames ++ [{ ret := c.pc + 4, size := f.toNat, base := c.base }], base := c.base + f.toNat }

/-- The state after a pond instance of `w` opens: the next identity, innermost in the path's stack, expecting the path's active lanes
at the current stack (R39). -/
def pondOpened (s : State) (h : Here) (w : Pond) : State :=
  let inst : Inst := { id := s.uid, pond := w.toNat, anchor := h.p.home, expected := activeLanes h, arrived := 0, first := none }
  (({ s with uid := s.uid + 1 }).modKnot h.p.knot fun k => { k with insts := k.insts ++ [inst] }).modCtx h.u fun c =>
    { c with ponds := c.ponds ++ [s.uid] }

/-- The claim of a register instruction of a knot: the tables of the vector, conversion, predicate, cross-lane and scalar families. -/
def registerClaim (h : Here) (i : Instr) : Option RegClaim :=
  ((((intClaim h i).or (floatClaim h i)).or (convertClaim h i)).or (predFamilyClaim h i)).or ((crossClaim h i).or (scalarClaim h i))

/-- The register-state tables of a path list each register once, in rising order. -/
def TablesRise (c : Ctx) : Prop := spRising none c.vst = true ∧ spRising none c.sst = true ∧ spRising none c.pst = true

/-- The state and the path after R30 at a migration point: registers outside the carried set are dead. -/
def stateCarried (s : State) (h : Here) : State := s.modPath h.u fun p => p.die (carriedSet s.heap h.p.ctx)

/-- The carried registers of a path that may leave: none is empty and none fault-pending (R31). -/
def CarriedReady (s : State) (h : Here) : Prop :=
  ∀ r ∈ (carriedSet s.heap h.p.ctx).names, (carriedOnly s h).ctx.stateOf r ≠ .empty ∧ (carriedOnly s h).ctx.stateOf r ≠ .pending

/-- The path's knot is this one path, with no open pond (R18, R48). -/
def WholeKnot (s : State) (h : Here) : Prop := s.siblings h.p.knot h.u = [] ∧ h.p.ctx.ponds = []

/-- The instance of pond `w` that is innermost in a path's stack (R41). -/
def Innermost (h : Here) (w : Pond) (inst : Inst) : Prop :=
  ∃ id, h.p.ctx.ponds.getLast? = some id ∧ (h.k.insts.find? fun i => i.id == id && i.pond == w.toNat) = some inst

/-- Where a path arrives at a JOIN: the PC, base and number of frame records that every arrival of an instance shares (R41). -/
def arrivalOf (h : Here) : Pc × Nat × Nat := (h.p.ctx.pc, h.p.ctx.base, h.p.ctx.frames.length)

/-- The state after the arrival of a path is recorded in its instance (R41). -/
def arrivalNoted (s : State) (h : Here) (inst : Inst) : State :=
  (stateCarried s h).modKnot h.p.knot fun k =>
    { k with insts := k.insts.map fun i =>
        if i.id = inst.id then { i with arrived := inst.arrived ||| h.p.ctx.mask, first := some (i.first.getD (arrivalOf h)) } else i }

/-- The path that waits at a JOIN, as its image is stored: nothing pending, no pushed path, its watchdog count zero outside the supervisor
(R43, R53, R286). -/
def waitingPath (s : State) (h : Here) : Path :=
  let p := (carriedOnly s h).issued s.serial h.k.regs.watchdog
  { p with ctx := { p.ctx with wd := if h.p.super then h.p.ctx.wd else 0, pushed := [] } }

/-- Two knots whose paths may pair at a REGROUP where `b` arrived later (R50): one key, within 256 cycles, of one launch, function,
allocation, base, depth and brood. -/
structure MayPair (a b : Here) (key : DWord) (ca cb oa ob da db : Nat) : Prop where
  first : a.p.pend = .regroup key ca oa da
  second : b.p.pend = .regroup key cb ob db
  within : cb ≤ ca + 256
  launch : b.k.launch = a.k.launch
  fn : b.p.ctx.fn = a.p.ctx.fn
  alloc : b.k.alloc = a.k.alloc
  base : b.p.ctx.base = a.p.ctx.base
  depth : b.p.ctx.frames.length = a.p.ctx.frames.length
  brood : b.k.brood = a.k.brood

/-- A path of `h`'s knot that waits at an instance: in place when its knot is rooted, otherwise as an image that is as it was stored and in
no sector that is uncorrectable (R36, R43, R57). -/
structure WaitsThere (s : State) (h : Here) (id v : Nat) (g : Here) : Prop where
  here : s.here v = some g
  knot : g.p.knot = h.p.knot
  waits : ∃ img, g.p.place = .joined id img ∧ (img.len = 0 ∨
    (s.zoneRead img.home img.off img.len = imageBytes g img.flags img.seed img.block ∧
      s.mem.poisoned (zoneAddr img.home img.off) img.len = false))

/-- What the arrivals `as` of an instance become (R42, R182): `m` is its expected mask. Each register is full where it is full in every
arrival and otherwise dead; the scalars, MODE, the frame records and the outer ponds are those of the arrival that has the lowest expected
lane; FPSTAT is the OR of all; the post table is empty. -/
structure Merged (as : List Ctx) (m : Mask) (c : Ctx) : Prop where
  mask : c.mask = m
  posts : c.posts = List.replicate 8 .free
  full : ∀ r, (∀ a ∈ as, a.stateOf r = .full) → c.stateOf r = .full
  dead : ∀ r, (∃ a ∈ as, a.stateOf r ≠ .full) → c.stateOf r = .dead
  lead : ∀ a ∈ as, ∀ low, m.getLsbD low = true → (∀ l < low, m.getLsbD l = false) → a.mask.getLsbD low = true →
    (∀ b ∈ as, b.mask.getLsbD low = true → b = a) →
    (∀ i : SReg, c.scalVal i.toNat = a.scalVal i.toNat) ∧ c.mode = a.mode ∧ c.base = a.base ∧ c.frames = a.frames ∧
      c.ponds = a.ponds.dropLast
  fpstat : ∀ i, c.fpstat.getLsbD i = as.any fun a => a.fpstat.getLsbD i

/-- The contexts of the paths that wait at an instance (R43). -/
def waiting (s : State) (id : Nat) : List Ctx := (s.waitingAt id).filterMap fun v => (s.path? v).map (·.ctx)

/-- No path, no knot and no space of a landing zone is the knot's any more, and every other knot's path and every byte is as before (R36,
R188). -/
structure KnotGone (s t : State) (kn : Nat) : Prop where
  paths : ∀ v q, t.path? v = some q → q.knot ≠ kn
  knot : spFind kn t.knots = none
  space : ∀ e ∈ t.mem.areas, e.2.own ≠ some kn
  others : ∀ v p, s.path? v = some p → p.knot ≠ kn → t.path? v = some p
  bytes : ∀ key a, t.mem.readByte key a = s.mem.readByte key a

/-- An END that leaves other paths of its knot: the tables list each path and instance once, its pushed paths are pushed, and every path
that waits at one of its open instances waits with its image as it was stored. -/
structure EndsAmong (s : State) (h : Here) : Prop where
  paths : spRising none s.paths = true
  insts : (h.k.insts.map (·.id)).Nodup
  ponds : h.p.ctx.ponds.Nodup
  seat : (∀ i img, h.p.place ≠ .joined i img) ∧ ∀ x, h.p.place ≠ .flying x
  pushed : ∀ v ∈ h.p.ctx.pushed, ∃ p, s.path? v = some p ∧ p.place = .pushed ∧ v ≠ h.u
  waits : ∀ id ∈ h.p.ctx.ponds, ∀ v ∈ s.waitingAt id, ∃ g, WaitsThere s h id v g ∧ TablesRise g.p.ctx ∧
    g.p.ctx.ponds <+: h.p.ctx.ponds ∧ g.p.ctx.ponds.getLast? = some id

/-- What the end of a path's lanes does to an open instance that the path is in (R44): `k` is its knot afterwards. -/
structure LanesEnded (s t : State) (h : Here) (k : Knot) (i : Inst) : Prop where
  closes : i.expected &&& ~~~h.p.ctx.mask = 0 → ∀ j ∈ k.insts, j.id ≠ i.id
  stays : i.expected &&& ~~~h.p.ctx.mask ≠ 0 → i.arrived ≠ i.expected &&& ~~~h.p.ctx.mask →
    { i with expected := i.expected &&& ~~~h.p.ctx.mask } ∈ k.insts
  merges : i.expected &&& ~~~h.p.ctx.mask ≠ 0 → i.arrived = i.expected &&& ~~~h.p.ctx.mask → ∀ v rest at', s.waitingAt i.id = v :: rest →
    i.first = some at' →
    (∀ j ∈ k.insts, j.id ≠ i.id) ∧ (∀ x ∈ rest, t.path? x = none) ∧
    ∃ q, t.path? v = some q ∧ Merged (waiting s i.id) (i.expected &&& ~~~h.p.ctx.mask) q.ctx ∧ q.ctx.pc = at'.1 + 4 ∧ q.home = i.anchor ∧
      q.place = (if h.k.crew.isSome = true then h.p.place else .flying i.anchor) ∧ q.pend = .none ∧ q.wait = none

/-- The contexts of the paths that merge when the last arrival is made: that path after R30, and those that wait (R42). -/
def arrivals (s : State) (h : Here) (id : Nat) : List Ctx :=
  (carriedOnly s h).ctx :: waiting s id

/-- The entries that the carried set of a path is the union of, each with its base: that of the executing word at the path's base, and that
of each frame's call site at the frame's base (R29). -/
def carrying (hp : HeapSt) (c : Ctx) : List (MapEnt × Nat) :=
  ((hp.entryAt c.fn c.pc.toNat).map fun e => (e, c.base)).toList ++
    c.frames.filterMap fun f =>
      ((hp.fnAt (f.ret - 4).toNat).bind fun fn => hp.entryAt fn (f.ret - 4).toNat).map fun e => (e, f.base)

/-- The register sources of an instruction that have an fe bit, with their bits, in the order in which they are read after the guard
(R26): vector integer, floating-point and scalar instructions. -/
def feSources (h : Here) : Instr → List (RegName × Bool)
  | .iadd _ _ a b e f | .isub _ _ a b e f | .imul _ _ a b e f | .imulhI32 _ _ a b e f | .imulhN32 _ _ a b e f | .imad _ _ a b e f
  | .iminI32 _ _ a b e f | .iminN32 _ _ a b e f | .imaxI32 _ _ a b e f | .imaxN32 _ _ a b e f | .andV _ _ a b e f | .orV _ _ a b e f
  | .xorV _ _ a b e f | .andn _ _ a b e f | .shl _ _ a b e f | .shr _ _ a b e f | .sar _ _ a b e f | .lea _ _ a b e f
  | .sel _ _ a b e f _ | .leaShift _ _ a b e f _ | .icmp _ _ a b e f _ | .fadd _ _ _ a b e f | .fsub _ _ _ a b e f
  | .fmul _ _ _ a b e f | .ffma _ _ _ a b e f | .hadd2 _ _ _ a b e f | .hmul2 _ _ _ a b e f | .hfma2 _ _ _ a b e f
  | .fmin _ _ a b e f | .fmax _ _ a b e f | .fcmp _ _ a b e f _ => [(vecName h a, e), (vecName h b, f)]
  | .iabs _ _ a e | .popc _ _ a e | .clz _ _ a e | .brev _ _ a e | .mov _ _ a e | .iaddImm _ _ a e _ | .imulImm _ _ a e _
  | .shlImm _ _ a e _ | .shrImm _ _ a e _ | .sarImm _ _ a e _ | .bfe _ _ a e _ _ | .bfi _ _ a e _ _ | .frcp _ _ _ a e
  | .frsq _ _ _ a e | .fsqrt _ _ _ a e | .fexp2 _ _ _ a e | .flog2 _ _ _ a e | .fsin _ _ _ a e | .fcos _ _ _ a e
  | .frint _ _ _ a e | .fneg _ _ a e | .fabs _ _ a e | .fclass _ _ a e => [(vecName h a, e)]
  | .sadd _ a b e f | .ssub _ a b e f | .smul _ a b e f | .smulhI64 _ a b e f | .smulhN64 _ a b e f | .sand _ a b e f
  | .sor _ a b e f | .sxor _ a b e f | .sshl _ a b e f | .sshr _ a b e f | .ssar _ a b e f | .sminI64 _ a b e f
  | .sminN64 _ a b e f | .smaxI64 _ a b e f | .smaxN64 _ a b e f | .scmp _ a b e f _ => [(scalName a, e), (scalName b, f)]
  | .smov _ a e => [(scalName a, e)]
  | _ => []

/-- What the decode checks of an instruction under the never-guard depend on: memory points, posts, pad accesses, barriers, matrix, queue,
brood and chain instructions, and the control instructions that have a guard (R117, R121). -/
def neverForm : Instr → Option InstrForm
  | .ld 15 .. | .st 15 .. | .lds true .. | .sts true .. | .atm 15 .. | .stp 15 .. | .atp 15 .. | .atpVadd 15 .. | .pld 15 ..
  | .pst 15 .. | .patm 15 .. | .home true .. => some { imm := .any }
  | .ptab true .. | .ptabFail true .. | .fence true | .pstep true | .bar true .. | .bara true .. | .barw true .. | .pack true
  | .regroup true .. | .brc 15 .. | .bru 15 _ | .bra true _ | .emit 15 .. | .depdec true .. | .qpush 15 .. | .qpop 15 ..
  | .bfork true _ | .bforkStamp true .. | .bcancel true .. | .chfork true .. | .chapp 15 .. | .chrel true .. => some .plain
  | .tcfg true .. | .tld true .. | .tst true .. | .tzero true .. | .wld true .. | .mma 15 .. | .mmas 15 .. | .mbatch true ..
  | .mwait true .. | .accget true .. | .accput true | .acq true .. | .rel true .. | .accrd 15 .. | .accrd4 15 .. | .accwr 15 ..
  | .accwr4 15 .. => some { matrix := true }
  | _ => none

/-- The lanes of a knot that are active, in ascending order (R49). -/
def activeList (h : Here) : List Nat := (List.range h.k.grant).filter fun l => (activeLanes h).getLsbD l

/-- A memory migration point: its guard, what it does at the home, its destination, its access size and permissions, the registers it
reads, and its lanes in ascending order with their addresses and operand bytes (R189 to R198, R269, R277). -/
structure PointClaim where
  form : InstrForm := { imm := .any }
  guard : Guard
  op : MemOp
  dest : Dest
  size : Nat
  need : Needs
  reads : List RegName
  reqs : List (Nat × DWord × List Byte)

/-- The address of a lane: base scalar, lane offset, and an immediate, modulo 2^64 (R189). -/
def addrOf (h : Here) (a : VReg) (b : SReg) (off : DWord) (l : Nat) : DWord :=
  h.p.ctx.scalVal b.toNat + (laneOf h a l).setWidth 64 + off

/-- The offset of the memory format for an access of `n` bytes: HINT.IMM above the 3-bit field, signed, or the field alone, times the
access size (R122). -/
def offsetOf (h : Here) (o : BitVec 3) (n : Nat) : DWord :=
  (match h.p.hints.imm with
    | none => o.setWidth 64
    | some p => (p ++ o).signExtend 64) * BitVec.ofNat 64 n

/-- The byte offset of the atomic format (R122). -/
def atomicOffset (h : Here) : DWord :=
  match h.p.hints.imm with
  | none => 0
  | some p => p.signExtend 64

/-- The bytes of a lane in `n` window registers from `v`, low register first (R9). -/
def groupBytes (h : Here) (v n l : Nat) : List Byte :=
  (List.range n).flatMap fun i => bytesOfNat (h.k.lane (h.p.ctx.base + v + i) l).toNat 4

/-- A group of `n` window registers by number, and by name. -/
def groupRegs (h : Here) (v n : Nat) : List Nat := (List.range n).map fun i => h.p.ctx.base + (v + i)
def groupNames (h : Here) (v n : Nat) : List RegName := (groupRegs h v n).map fun r => { file := .vec, num := r }

/-- The guard of an instruction that acts once per path, whose guard field is only the never-guard bit (R117). -/
def pathGuard (g : Bool) : Guard := if g then 15 else 7

/-- LD, ST, LDS, STS and ATM (R192 to R198). -/
def memoryClaim (h : Here) : Instr → Option PointClaim
  | .ld g d a b _ z o =>
      some { guard := g, op := .load z, dest := .vec (groupRegs h d.toNat z.regs), size := z.bytes, need := { rd := true, w := false }
             reads := [guardName g, vecName h a, scalName b]
             reqs := (presentLanes h g).map fun l => (l, addrOf h a b (offsetOf h o z.bytes) l, []) }
  | .st g x a b _ z o =>
      some { guard := g, op := .store z, dest := .vec [], size := z.bytes, need := { rd := false, w := true }
             reads := [guardName g, vecName h a, scalName b] ++ groupNames h x.toNat z.regs
             reqs := (presentLanes h g).map fun l => (l, addrOf h a b (offsetOf h o z.bytes) l, groupBytes h x.toNat z.regs l) }
  | .lds g d b _ z o =>
      some { guard := pathGuard g, op := .load z, dest := .scal d.toNat, size := z.bytes, need := { rd := true, w := false }
             reads := [scalName b]
             reqs := [(lowestOf h.p.ctx.mask, h.p.ctx.scalVal b.toNat + offsetOf h o z.bytes, [])] }
  | .sts g x b _ z o =>
      some { guard := pathGuard g, op := .store z, dest := .vec [], size := z.bytes, need := { rd := false, w := true }
             reads := [scalName b, scalName x]
             reqs := [(lowestOf h.p.ctx.mask, h.p.ctx.scalVal b.toNat + offsetOf h o z.bytes,
               bytesOfNat (h.p.ctx.scalVal x.toNat).toNat 8)] }
  | .atm g d a b _ o t =>
      some { guard := g, op := .atom o t, dest := .vec (groupRegs h d.toNat t.regs), size := t.bytes, need := { rd := true, w := true }
             reads := [guardName g, vecName h a, scalName b] ++ groupNames h (d.toNat + t.regs) (o.group t - t.regs)
             reqs := (presentLanes h g).map fun l =>
               (l, addrOf h a b (atomicOffset h) l, groupBytes h (d.toNat + t.regs) (o.group t - t.regs) l) }
  | _ => none

/-- The pond that the migration-map entry of a path's instruction opens (R28). -/
def pondOf (s : State) (h : Here) : Option Pond :=
  (s.heap.entryAt h.p.ctx.fn h.p.ctx.pc.toNat).bind fun e => e.pond.map fun p => BitVec.ofNat 4 p

/-- The state after R30 and the opening of the instruction's pond, if it has one: steps 9 and 10 of R191. -/
def settledAt (s : State) (h : Here) : State :=
  match pondOf s h with
  | none => stateCarried s h
  | some w => pondOpened (stateCarried s h) { h with p := carriedOnly s h } w

/-- The page-table entries that some translations read at a path's core lie at stacks that run, in lines that the host does not hold
modified (R304, R322, R327). -/
structure Walks (s : State) (h : Here) (vas : List DWord) : Prop where
  running : ∀ pa ∈ s.readsOf h vas, (s.stk (homeOf pa)).halted = false
  lines : ∀ pa ∈ s.readsOf h vas, ∀ line ∈ linesOf pa 8, spFind line s.mem.lines = none

/-- What steps 1 to 5 of R191 ask of a migration point: every register read is carried and full, every lane aligned. -/
structure PointReads (s : State) (h : Here) (c : PointClaim) : Prop where
  admits : Admits s h.u h { c.form with defer := s.late }
  guard : c.guard ≠ 15
  reads : ∀ r ∈ c.reads, h.p.ctx.stateOf r = .full ∧ (carriedSet s.heap h.p.ctx).has r = true

/-- The home that a lane of a migration point is performed at: host memory at the current stack (R38, R62). -/
def partHome (h : Here) (l : LaneAcc) : Nat := if homeOf l.pa = Config.hostHome then h.p.home else homeOf l.pa

/-- What lets a migration point go on where the path is (R191): its lanes `ls` translate with the permissions it needs and lie at the
current stack, or, for a knot that is not rooted, at the host (R62, R65), with page walks that find their entries, its pond may open, its
carried destination registers are not empty, and nothing at the home holds the access up. -/
structure PointGoes (s : State) (h : Here) (c : PointClaim) (ls : List LaneAcc) : Prop extends PointReads s h c where
  aligned : ∀ r ∈ c.reqs, r.2.1.toNat % c.size = 0
  walks : Walks s h (c.reqs.map (·.2.1))
  lanes : ls.map (fun l => (l.lane, l.va, l.data)) = c.reqs
  translated : ∀ l ∈ ls, s.translateLane h c.size c.need l.va = .ok { pa := l.pa, key := l.key }
  home : ∀ l ∈ ls, partHome h l = h.p.home
  rooted : h.k.crew.isSome = true → ∀ l ∈ ls, homeOf l.pa = h.p.home
  pond : ∀ w, pondOf s h = some w → pondShut h w = false
  dest : ∀ r ∈ c.dest.names, (carriedSet s.heap h.p.ctx).has r = true → h.p.ctx.stateOf r ≠ .empty
  clear : s.accessClear h c.op ls = true

/-- No lane touches a line that the host holds modified (R327), or poisoned bytes (R287). -/
def Untouched (s : State) (n : Nat) (ls : List LaneAcc) : Prop :=
  ∀ l ∈ ls, l.pa + n ≤ zoneBase ∧ (∀ line ∈ linesOf l.pa n, spFind line s.mem.lines = none) ∧ s.mem.poisoned l.pa n = false

/-- The bytes that `n`-byte accesses of lanes touch. -/
def touchedBy (n : Nat) (ls : List LaneAcc) (a : Nat) : Prop := ∃ l ∈ ls, l.pa ≤ a ∧ a < l.pa + n

/-- The atomics of lanes one after the other, in ascending order: each reads the bytes `bs` lists for it, as the earlier ones left them, and
leaves what its operation makes of them; no other byte changes; memory is `m` at the end (R67, R80, R198). -/
def AtomsRun (o : AtomOp) (y : AtomType) : State → List LaneAcc → List (List Byte) → MemSt → Prop
  | s, [], bs, m => bs = [] ∧ m = s.mem
  | s, l :: ls, bs, m => ∃ b rest s1, bs = b :: rest ∧ b = s.readMem l.key l.pa y.bytes ∧ s1 = { s with mem := s1.mem } ∧
      s1.readMem l.key l.pa y.bytes = bytesOfNat (atomValue o y (natOfBytes b) l.data) y.bytes ∧
      s.mem.SameBut s1.mem (touchedBy y.bytes [l]) ∧ AtomsRun o y s1 ls rest m

/-- The home whose lanes a path that splits keeps: the current stack, or, when no lane lies there, that of the lowest lane (R38). -/
def keptHome (h : Here) (ls : List LaneAcc) : Nat :=
  if ls.any fun l => partHome h l == h.p.home then h.p.home else ((ls.head?).map (partHome h)).getD h.p.home

/-- The lanes of a part of a split; the active lanes with no address go with the lowest lane (R38). -/
def partMask (h : Here) (ls : List LaneAcc) (home : Nat) : Mask :=
  maskOf ((ls.filter fun l => partHome h l == home).map (·.lane)) |||
    (if (ls.head?).map (partHome h) = some home then activeLanes h &&& ~~~maskOf (ls.map (·.lane)) else 0)

/-- What a load gives each register of a group: the words of each lane (R190). -/
def loadedLanes (s : State) (z : MemSize) (rs : List Nat) (ls : List LaneAcc) : List (Nat × List (Nat × Word)) :=
  rs.zipIdx.map fun e => (e.1, ls.map fun l => (l.lane, (loadWords z (s.readMem l.key l.pa z.bytes)).getD e.2 0))

/-- A post instruction: its size, permissions, whether host takes it, what it does, OP and element type of its record, the registers it
reads, and its lanes (R203 to R206). -/
structure PostClaim where
  guard : Guard
  size : Nat
  need : Needs
  host : Bool
  op : PostOp
  code : Nat
  type : Nat
  reads : List RegName
  reqs : List (Nat × DWord × List Byte)

/-- STP, ATP and ATP VADD (R203). -/
def postClaim (h : Here) : Instr → Option PostClaim
  | .stp g x a b _ z o =>
      some { guard := g, size := z.bytes, need := { rd := false, w := true }, host := true, op := .store, code := 0, type := stpType z
             reads := [guardName g, vecName h a, scalName b] ++ groupNames h x.toNat (z.bytes / 4)
             reqs := (presentLanes h g).map fun l =>
               (l, addrOf h a b (offsetOf h o z.bytes) l, groupBytes h x.toNat (z.bytes / 4) l) }
  | .atp g x a b _ o y =>
      some { guard := g, size := y.bytes, need := { rd := true, w := true }, host := false, op := .atom o y, code := atomCode o
             type := atomTypeCode y, reads := [guardName g, vecName h a, scalName b] ++ groupNames h x.toNat (y.bytes / 4)
             reqs := (presentLanes h g).map fun l => (l, addrOf h a b (atomicOffset h) l, groupBytes h x.toNat (y.bytes / 4) l) }
  | .atpVadd g x a b _ p y =>
      some { guard := g, size := vaddBytes y, need := { rd := true, w := true }, host := false, op := .vadd p y, code := 6 + p.toNat
             type := y.toNat, reads := [guardName g, vecName h a, scalName b] ++ groupNames h x.toNat (vaddBytes y / 4)
             reqs := (presentLanes h g).map fun l =>
               (l, addrOf h a b (atomicOffset h) l, groupBytes h x.toNat (vaddBytes y / 4) l) }
  | _ => none

/-- Entry `i` of a post table takes a post to a home: the VALID entry of that home, not FAULTED and with room in OUTST and SEQ, or else
the lowest free entry, new for the home, with the lowest active lane as its STREAM (R73, R74). -/
def EntryTakes (c : Ctx) (home i : Nat) (e : PostEntry) : Prop :=
  (findIdx (fun x => x.valid && x.home == home) c.posts = some (i, e) ∧ e.faulted = false ∧ e.outst ≠ 4095 ∧ e.seq ≠ 4194303) ∨
  (findIdx (fun x => x.valid && x.home == home) c.posts = none ∧ (∃ x, findIdx (fun x => !x.valid) c.posts = some (i, x)) ∧
    e = { valid := true, faulted := false, home := home, outst := 0, stream := lowestOf c.mask, seq := 0, held := [] })

/-- The state after one lane's post is sent to a home through entry `i`: OUTST and SEQ are one more, and the post is in flight with that
SEQ and the entry's STREAM (R72, R73); the lane counts as sent (R205). -/
def postedLane (s : State) (h : Here) (c : PostClaim) (home i : Nat) (e : PostEntry) (pa : Nat) (key : Option Nat)
    (r : Nat × DWord × List Byte) : State :=
  let p : Post :=
    { id := s.uid, launch := h.k.launch, knot := h.p.knot, path := h.u, home := home, stream := e.stream, seq := e.seq + 1, op := c.op
      code := c.code
      type := c.type, va := r.2.1, pa := pa, key := key, asid := h.k.regs.asid, lane := r.1, data := r.2.2, stamp := h.p.ctx.stamp
      window := h.k.regs.window }
  ((({ s with uid := s.uid + 1 }).modCtx h.u fun x =>
      { x with posts := x.posts.modify i fun _ => { e with seq := e.seq + 1, outst := e.outst + 1 } }).modFlow fun f =>
      { f with posts := f.posts ++ [p] }).modCtx h.u fun x => { x with sent := x.sent ||| (1#1024 <<< r.1) }

/-- The lanes of a post go out in ascending order, each translating with the permissions it needs and finding an entry, from state `s`
to state `t` (R204). -/
def PostsGo (u : Nat) (c : PostClaim) : State → List (Nat × DWord × List Byte) → State → Prop
  | s, [], t => t = s
  | s, r :: rest, t => ∃ h y i e, s.here u = some h ∧ h.u = u ∧ h.p.ctx.sent.getLsbD r.1 = false ∧ Walks s h [r.2.1] ∧
      s.translateLane h r.2.2.length c.need r.2.1 = .ok y ∧ (homeOf y.pa ≠ Config.hostHome ∨ c.host = true) ∧
      EntryTakes h.p.ctx (homeOf y.pa) i e ∧ PostsGo u c (postedLane s h c (homeOf y.pa) i e y.pa y.key r) rest t

/-- The state after one lane of a post fails at issue and is held: its record `x`, whose place is `s1`'s, joins the entry's FAILLIST in SEQ
order, the entry is FAULTED, and no operation is outstanding for it (R78, R204). -/
def heldLane (s1 : State) (h : Here) (i : Nat) (e : PostEntry) (x : Held) (r : Nat × DWord × List Byte) : State :=
  let e1 := { e with seq := e.seq + 1, faulted := true, held := addHeld e.held x }
  ((s1.modCtx h.u fun c => { c with posts := c.posts.modify i fun _ => e1 }).relink h.k.regs.window e1.held).modCtx h.u fun c =>
    { c with sent := c.sent ||| (1#1024 <<< r.1) }

/-- Why a lane of a post fails at issue, and the home whose entry it is charged to: translation and permission faults at the current stack,
ATP to host at host (R78, R204). -/
inductive FailsAtIssue (s : State) (h : Here) (c : PostClaim) (r : Nat × DWord × List Byte) : Nat → Nat → Prop
  | page : s.translateLane h r.2.2.length c.need r.2.1 = .error .page → FailsAtIssue s h c r h.p.home 1
  | prot : s.translateLane h r.2.2.length c.need r.2.1 = .error .prot → FailsAtIssue s h c r h.p.home 2
  | host (y : Target) : s.translateLane h r.2.2.length c.need r.2.1 = .ok y → homeOf y.pa = Config.hostHome → c.host = false →
      FailsAtIssue s h c r Config.hostHome 4

/-- A post that its home may take up: it is in flight, its stack runs, and no earlier post of its stream is in flight (R72, R304). -/
structure PostDue (s : State) (p : Post) : Prop where
  inFlight : (s.flow.posts.find? fun q => q.id == p.id) = some p
  running : (s.stk p.home).halted = false
  first : ∀ q ∈ s.flow.posts, q.knot = p.knot → q.home = p.home → q.stream = p.stream → p.seq ≤ q.seq

/-- The pad after the atomics of lanes one after the other, in ascending order: each reads the bytes `bs` lists for it, as the earlier ones
left them, and leaves what its operation makes of them (R67, R210). -/
def PadAtomsRun (o : AtomOp) (y : AtomType) : List Host.Cell → List LaneAcc → List (List Byte) → List Host.Cell → Prop
  | m, [], bs, n => bs = [] ∧ n = m
  | m, l :: ls, bs, n => ∃ rest, bs = cellRead m l.pa y.bytes :: rest ∧
      PadAtomsRun o y (cellWrite m l.pa (bytesOfNat (atomValue o y (natOfBytes (cellRead m l.pa y.bytes)) l.data) y.bytes)) ls rest n

/-- The value of a word at a plane step, from its value in the next plane and the values that its writers last wrote, in ascending order of
writer: SUM32 and SUM32F add them, PRIO and FAULT take that of the lowest writer (R86). -/
def resolvedWord (rule : Nat) (init : Word) (vs : List Word) : Word :=
  match rule, vs with
  | 1, vs => vs.foldl (fun a v => a + v) init
  | 2, vs => vs.foldl planeAdd init
  | _, v :: _ => v
  | _, [] => init

/-- A pad access: its size, whether a plane region is E_PLANE for it, its destination, the registers it reads, and its lanes with their
pad offsets (R82, R83, R209, R210). -/
structure PadClaim where
  guard : Guard
  size : Nat
  flat : Bool
  dest : Dest
  reads : List RegName
  reqs : List (Nat × DWord × List Byte)

/-- PLD, PST and PATM. -/
def padClaim (h : Here) : Instr → Option PadClaim
  | .pld g d a b _ z o =>
      some { guard := g, size := z.bytes, flat := false, dest := .vec (groupRegs h d.toNat z.regs)
             reads := [guardName g, vecName h a, scalName b]
             reqs := (presentLanes h g).map fun l => (l, addrOf h a b (offsetOf h o z.bytes) l, []) }
  | .pst g x a b _ z o =>
      some { guard := g, size := z.bytes, flat := decide (z.bytes < 4), dest := .vec []
             reads := [guardName g, vecName h a, scalName b] ++ groupNames h x.toNat z.regs
             reqs := (presentLanes h g).map fun l => (l, addrOf h a b (offsetOf h o z.bytes) l, groupBytes h x.toNat z.regs l) }
  | .patm g d a b _ o y =>
      some { guard := g, size := y.atom.bytes, flat := true, dest := .vec (groupRegs h d.toNat y.atom.regs)
             reads := [guardName g, vecName h a, scalName b] ++
               groupNames h (d.toNat + y.atom.regs) (o.group y.atom - y.atom.regs)
             reqs := (presentLanes h g).map fun l =>
               (l, addrOf h a b (atomicOffset h) l, groupBytes h (d.toNat + y.atom.regs) (o.group y.atom - y.atom.regs) l) }
  | _ => none

/-- What lets a pad access of a knot whose crew is `w` reach its effect (R209): operands, alignment, bounds, planes, and a destination
that is not empty. -/
structure PadGoes (s : State) (h : Here) (c : PadClaim) (cn slot : Nat) (w : Crew) : Prop where
  admits : Admits s h.u h { imm := .any }
  guard : c.guard ≠ 15
  reads : ∀ r ∈ c.reads, h.p.ctx.stateOf r = .full
  crew : h.k.crew = some (cn, slot) ∧ spFind cn s.crews = some w
  aligned : ∀ r ∈ c.reqs, r.2.1.toNat % c.size = 0
  bound : ∀ r ∈ c.reqs, r.2.1.toNat + c.size ≤ w.padSize
  plane : c.flat = true → ∀ r ∈ c.reqs, w.inPlane r.2.1.toNat = false
  dest : ∀ r ∈ c.dest.names, h.p.ctx.stateOf r ≠ .empty

/-- The registers `rs` of a path are empty, and the values of a group are the latest on their way to them (R25). -/
def Sent (t : State) (u : Nat) (rs : List Nat) (vals : List (Nat × List (Nat × Word))) : Prop :=
  ∃ h f, t.here u = some h ∧ (∀ r ∈ rs, h.p.ctx.vecState r = .empty) ∧ h.p.flights.getLast? = some f ∧ f.dest = .vec rs ∧
    f.fill = .lanes vals

/-- What the lanes of a PST leave in the pad (R67, R83, R84, R210): each byte outside plane regions that lanes cover holds that of the
highest of them, and no other byte of the single copy changes; each word of a plane region that a lane covers is recorded for that lane of
the slot, and every other record is as it was; nothing else of the crew changes. -/
structure PadStored (w v : Crew) (slot n : Nat) (reqs : List (Nat × DWord × List Byte)) : Prop where
  stored : ∀ before r after j, reqs = before ++ r :: after → j < n → w.inPlane r.2.1.toNat = false →
    (∀ x ∈ after, w.inPlane x.2.1.toNat = false → r.2.1.toNat + j < x.2.1.toNat ∨ x.2.1.toNat + n ≤ r.2.1.toNat + j) →
    cellGet v.pad (r.2.1.toNat + j) = r.2.2.getD j 0
  single : ∀ a, (∀ r ∈ reqs, w.inPlane r.2.1.toNat = false → a < r.2.1.toNat ∨ r.2.1.toNat + n ≤ a) → cellGet v.pad a = cellGet w.pad a
  recorded : ∀ r ∈ reqs, w.inPlane r.2.1.toNat = true → ∀ i < n / 4,
    spFind (1024 * slot + r.1) (spGet [] v.writers (r.2.1.toNat / 4 + i)) = some ((wordsOfBytes r.2.2).getD i 0)
  kept : ∀ j key,
    (∀ r ∈ reqs, w.inPlane r.2.1.toNat = true → key = 1024 * slot + r.1 → 4 * j < r.2.1.toNat ∨ r.2.1.toNat + n ≤ 4 * j) →
    spFind key (spGet [] v.writers j) = spFind key (spGet [] w.writers j)
  rest : v = { w with pad := v.pad, writers := v.writers }

/-- Whether a word of the pad lies in a FAULT region of planes (R86). -/
def FaultWord (w : Crew) (j : Nat) : Prop := ∃ n r, w.regionAt (4 * j) = some (n, r) ∧ r.plane = true ∧ r.rule = 3

/-- The step of a crew collides at the word of a pad offset: the lowest word of its FAULT regions that two writers or more have, `lane`
that of the lowest of them (R84, R86, R289). -/
def Collides (w : Crew) (off lane : Nat) : Prop :=
  w.decision ≠ 1 ∧ ∃ j key v rest, off = 4 * j ∧ FaultWord w j ∧ spFind j w.writers = some ((key, v) :: rest) ∧ rest ≠ [] ∧
    lane = key % 1024 ∧ ∀ i < j, FaultWord w i → (spGet [] w.writers i).length < 2

/-- A pad lane as an access. -/
def padLane (r : Nat × DWord × List Byte) : LaneAcc := { lane := r.1, va := r.2.1, pa := r.2.1.toNat, key := none, data := r.2.2 }

/-- The path after a wait at its instruction is over: the first word after its issue group, the watchdog count zero (R53). -/
def releasedCtx (s : State) (h : Here) : Ctx :=
  { h.p.ctx with pc := h.p.ctx.pc + BitVec.ofNat 48 (4 * s.heap.groupWords h.p.ctx.pc), wrapped := false
                 wd := if h.p.super then h.p.ctx.wd else 0, sent := 0 }

/-- A crew knot whose crew holds an engine (R217). -/
structure HasEngine (s : State) (h : Here) (c slot : Nat) (w : Crew) (e : Engine) : Prop where
  knot : h.k.crew = some (c, slot)
  crew : spFind c s.crews = some w
  engine : w.engine = some e

/-- One instruction of a crew knot is complete: the path has context `c`, its word counted; its knot is `k`; its crew's engine is `e`;
memory, every other path, knot and crew are as before. -/
def EngineDone (s t : State) (h : Here) (c : Ctx) (k : Knot) (n : Nat) (w : Crew) (e : Engine) : Prop :=
  (∃ q, t.here h.u = some { u := h.u, p := q, k := k } ∧ q.ctx = { c with wd := h.counted, sent := 0 } ∧ h.p.Keeps q ∧
    q.hints = .none ∧ q.pend = .none ∧ q.wait = none) ∧
  spFind n t.crews = some { w with engine := some e } ∧ (∀ j, j ≠ n → spFind j t.crews = spFind j s.crews) ∧
  t.mem = s.mem ∧ t.flow = s.flow ∧ t.stks = s.stks ∧ (∀ v, v ≠ h.u → t.path? v = s.path? v) ∧
  ∀ j, j ≠ h.p.knot → spFind j t.knots = spFind j s.knots

/-- The engine with an operation of the path's knot and its open batch at the end of its queue (R221, R222). -/
def queued (e : Engine) (h : Here) (kind : MatKind) : Engine :=
  { e with queue := e.queue ++ [{ knot := h.p.knot, batch := h.k.batch + 1, kind := kind }] }

/-- The physical accumulator of a knot's acci whose token the unit holds, or the knot (R231, R233). -/
def Token (h : Here) (e : Engine) (a : Acc) (i : Nat) (unit : Bool) : Prop := h.k.accs[a.toNat]? = some i ∧ (e.acc i).unit = unit

/-- The rows of a multiply: effective lanes below 128 and below the rows of the tile (R230). -/
def rowsOf (h : Here) (g : Guard) (c : DWord) : List Nat :=
  (presentLanes h g).filter fun r => decide (r < 128) && decide (r < cfgRows c)

/-- What MMA and MMAS ask of a tile's configuration and of the latched weights (R230). -/
def MultiplyOk (e : Engine) (t : Tile) (k : ActType) (c : DWord) : Prop :=
  e.cfg t.toNat = some c ∧ cfgType c = actType k ∧ (cfgWide c = true → e.pairOk t.toNat c = true) ∧
    ∃ f, e.fmt = some f ∧ formatGroup f = formatGroup (actType k)

/-- The lanes of ACCRD and ACCWR: effective and below 128 (R234). -/
def accRows (h : Here) (g : Guard) : List Nat := (presentLanes h g).filter fun l => decide (l < 128)

/-- The values of ACCRD of `n` columns from `col` on their way: of each lane its row, where no element is uncorrectable (R234). -/
def AccSent (t : State) (h : Here) (g : Guard) (v : VReg) (e : Engine) (i col n : Nat) : Prop :=
  (∀ l ∈ accRows h g, ∀ j < n, 128 * l + (col + j) ∉ (e.acc i).poison) →
    Sent t h.u (groupRegs h v.toNat n) ((groupRegs h v.toNat n).zipIdx.map fun x =>
      (x.1, (accRows h g).map fun l => (l, spGet 0 (e.acc i).cells (128 * l + (col + x.2)))))

/-- The instructions of the matrix majors 0x36 to 0x38, and of the handle major 0x39 (R217). -/
def isMatrix : Instr → Bool
  | .tcfg .. | .tld .. | .tst .. | .tzero .. | .wld .. | .mma .. | .mmas .. | .mbatch .. | .mwait .. | .accget .. | .accput _ | .acq ..
  | .rel .. | .accrd .. | .accrd4 .. | .accwr .. | .accwr4 .. => true
  | _ => false
def isHandle : Instr → Bool
  | .hwait _ | .hany .. | .hall .. | .hfirst .. | .hclaim _ | .hfree _ | .hsig .. => true
  | _ => false

/-- The movement instructions, majors 0x3A and 0x3B (R130). -/
def isMovement : Instr → Bool
  | .copy .. | .copy2d .. | .gather .. | .scatter .. | .mpwait _ | .hset .. | .hexp .. | .mpfence | .mpend => true
  | _ => false

/-- The movement subset: the scalar majors with fe bits zero, control, SRD of five registers, the movement instructions and two kinds of
hint (R130). -/
def inSubset (i : Instr) : Bool :=
  isMovement i || ((scalarValue (fun _ => 0) none i).isSome && !hasFe i) ||
    match i with
    | .bra .. | .loop .. | .nop | .call .. | .ret | .hintImm _ | .hintSched _ => true
    | .calli _ _ e => !e
    | .srd _ n => ([.cycles, .hready, .stack, .core, .module] : List Special).contains n
    | _ => false

/-- A knot whose crew, if it is one's, holds no engine (R217). -/
def NoEngine (s : State) (h : Here) : Prop :=
  h.k.crew = none ∨ ∃ n slot w, h.k.crew = some (n, slot) ∧ spFind n s.crews = some w ∧ w.engine = none

/-- A movement-processor instruction with no hint before it changes only its own engine, the progress counter and the identities in
use. -/
def MoverDone (s t : State) (m : MHere) (e : Engine) : Prop :=
  t = { s with serial := t.serial, uid := t.uid, crews := t.crews } ∧
    spFind m.c t.crews = some { m.crew with engine := some e } ∧ ∀ j, j ≠ m.c → spFind j t.crews = spFind j s.crews

/-- A copy of a sector list, in flight, and its number of sectors in g[dest] (R243); `ahead`: its source and destination footprints
overlap, by the places that their addresses name (R245). -/
def copyStarted (s : State) (m : MHere) (x : Handle) (dest : GReg) (d : Desc) (ordered : Bool) (ss : List (DWord × DWord)) : Engine :=
  let copy : Copy :=
    { id := s.uid, handle := x.toNat, pc := m.e.mover.groupPc, ordered := ordered
      sectors := ss.zipIdx.map fun e => { idx := e.2, src := e.1.1, dst := e.1.2, spad := d.spad, dpad := d.dpad, data := none }
      ahead := s.footprintsMeet m d.spad d.dpad ss }
  { m.e with mover := moverNext m (m.e.mover.setReg dest.toNat (BitVec.ofNat 64 ss.length))
             copies := if ss = [] then m.e.copies else m.e.copies ++ [copy] }

/-- A handle that a copy may name: free or filling, and not faulted (R237). -/
def HandleOpen (e : Engine) (x : Handle) : Prop :=
  ((e.handle x.toNat).state = .free ∨ (e.handle x.toNat).state = .filling) ∧ (e.handle x.toNat).faulted = false

/-- The headers of a row of a block format: one for 32 elements (R226). -/
def blocksPerRow (c : DWord) : Nat := if cfgFmt c = 13 then cfgBpr c / 32 else cfgBpr c / 16

/-- A multiple of 32 (R242). -/
def Sectored (n : Nat) : Prop := n % 32 = 0

/-- What `RegisterResult` concludes of a next state, for an instruction that also changes something other than its path and knot: `s` is
the state with that change alone. -/
def RegDone (s t : State) (h : Here) (c : RegClaim) : Prop :=
  ∃ q k, t.here h.u = some { u := h.u, p := q, k := k } ∧ OneOn h q k ∧ VecsAre s h c q k ∧ PredsAre s h c q k ∧ ScalsAre h c q ∧
    q.ctx.fpstat = h.p.ctx.fpstat ||| c.flags ∧ s.SameRest t h.u h.p.knot ∧ ∀ key a, t.mem.readByte key a = s.mem.readByte key a

/-- The state after records of a path are on their way to a clutch, in order, with the path's stamp (R263, R265, R271). -/
def emitted (s : State) (h : Here) (n : Nat) (rs : List (List Word)) : State :=
  let sent (e : List Word × Nat) : Emit :=
    { id := s.uid + e.2, path := h.u, launch := h.k.launch, node := n, stamp := h.p.ctx.stamp, words := e.1 }
  { s with uid := s.uid + rs.length, flow := { s.flow with emits := s.flow.emits ++ rs.zipIdx.map sent } }

/-- The state after a decrement of counter node `n` is sent as a post through entry `i` (R266). -/
def decremented (s : State) (h : Here) (home n i : Nat) (e : PostEntry) (ref : DWord) : State :=
  let p : Post :=
    { id := s.uid, launch := h.k.launch, knot := h.p.knot, path := h.u, home := home, stream := e.stream, seq := e.seq + 1
      op := .dec h.k.launch n, code := 255, type := 6, va := ref, pa := 0, key := none, asid := h.k.regs.asid, lane := e.stream, data := []
      stamp := h.p.ctx.stamp, window := h.k.regs.window }
  (({ s with uid := s.uid + 1 }).modCtx h.u fun c =>
      { c with posts := c.posts.modify i fun _ => { e with seq := e.seq + 1, outst := e.outst + 1 } }).modFlow fun f =>
    { f with posts := f.posts ++ [p] }

/-- A descriptor that a path names while it stays in place: it translates with read and write permission to a target that is not host,
at a stack that is not halted, and the host holds none of its lines modified (R64, R304, R327). -/
structure Placed (s : State) (h : Here) (va : DWord) (t : Target) : Prop where
  walks : Walks s h [va]
  lines : ∀ line ∈ linesOf t.pa 64, spFind line s.mem.lines = none
  translated : s.translateLane h 64 readWrite va = .ok t
  host : homeOf t.pa ≠ Config.hostHome
  running : (s.stk (homeOf t.pa)).halted = false

/-- One that no earlier post holds up (R75). -/
structure Reaches (s : State) (h : Here) (va : DWord) (t : Target) : Prop extends Placed s h va t where
  clear : s.streamClear h (homeOf t.pa) = true

/-- The access that CHFORK or CHREL makes at its home as a lane (R275): of an empty chain, at the current stack. -/
def chainLane (h : Here) (ref : DWord) (y : Target) : LaneAcc :=
  { lane := lowestOf h.p.ctx.mask, va := ref, pa := y.pa, key := y.key, data := [] }

/-- An access of a home is performed in the step of its instruction: no earlier access is left to perform, no post that it comes after is
outstanding, and the turn does not put it off (R66, R75, log 8). -/
def AtOnce (s : State) (h : Here) (home : Nat) : Prop := s.late = false ∧ h.p.unperformed = [] ∧ s.streamClear h home = true

/-- The state after an access of the current stack or of a chain's home is left to be performed in a later turn: its destination is empty,
it stands among the path's flights with the posts that it comes after, and the path goes on at the next word (R25, R66, R75, log 8). -/
def putOff (s : State) (h : Here) (a : Access) : State := (s.postpone h.u { a with after := s.marksFor h a.lanes }).retire h.u

/-- The entries that the effective lanes of a QPUSH push, in ascending lane order, with the path's stamp (R268, R271). -/
def pushedEntries (h : Here) (g : Guard) (a n : Nat) : List QEntry :=
  (presentLanes h g).map fun l => ({ stamp := h.p.ctx.stamp, bytes := groupBytes h a (n / 4) l } : QEntry)

/-- A queue in use whose device state is `q`, with no entry of a cancelled brood, its descriptor below the landing zones and in blocks of
its own (R267, R273). -/
structure QueueIs (s : State) (key : Option Nat) (pa : Nat) (q : QueueSt) : Prop where
  inUse : s.queueFresh key pa = false
  state : s.queue key pa = q
  live : ∀ e ∈ q.ring ++ q.back, s.cancelledBrood e.stamp = false
  lines : ∀ line ∈ linesOf pa 64, spFind line s.mem.lines = none
  place : pa % 64 = 0 ∧ pa + 64 ≤ zoneBase
  poison : s.mem.poisoned pa 64 = false

/-- An entry of a queue, of `n` bytes, whose bytes can be read and do not overlap the descriptor (R267, R327). -/
structure EntryIs (s : State) (pa n : Nat) (e : QSlot) : Prop where
  lines : ∀ line ∈ linesOf e.pa n, spFind line s.mem.lines = none
  place : e.pa % 16 = 0 ∧ (e.pa + n ≤ pa ∨ pa + 64 ≤ e.pa)
  poison : s.mem.poisoned e.pa n = false

/-- Only the device state of a queue, and the bytes `touched` beside it, differ (R267). -/
def OnlyQueue (s t : State) (pa : Nat) (touched : Nat → Prop) : Prop :=
  t.flow = { s.flow with queues := t.flow.queues } ∧
    s.mem.SameBut t.mem fun a => (pa + 16 ≤ a ∧ a < pa + 64) ∨ touched a

/-- The start of `n` bytes appended to a chain of `len` bytes: at the next multiple of 16, and at the next page where they would cross into
it (R277). -/
def appendStart (len n : Nat) : Nat :=
  if n = 0 ∨ roundUp len 16 / 65536 = (roundUp len 16 + n - 1) / 65536 then roundUp len 16 else roundUp (roundUp len 16) 65536

/-- The starts of appends one after the other, and the length of the chain after them (R277). -/
def appendStarts (len : Nat) : List Nat → List Nat
  | [] => []
  | n :: ns => appendStart len n :: appendStarts (if n = 0 then len else appendStart len n + n) ns
def appendLen (len : Nat) : List Nat → Nat
  | [] => len
  | n :: ns => appendLen (if n = 0 then len else appendStart len n + n) ns

/-- A valid chain at a page that can be read at its home (R275, R287, R327). -/
structure ChainIs (s : State) (key : Option Nat) (pa : Nat) (d : ChainDesc) : Prop where
  desc : s.chain key pa = d
  valid : d.valid = true
  pages : d.pages ≤ 8184 ∧ d.len < 2 ^ 64
  place : pa % 65536 = 0 ∧ pa + 65536 ≤ zoneBase
  lines : s.mem.lines = []
  poison : s.mem.poisoned pa (64 + 8 * d.pages) = false
  wf : s.mem.wf = true

/-- The bytes that lanes of a CHAPP append. -/
def appendSizes (ls : List LaneAcc) : List Nat := ls.map fun l => natOfBytes l.data

/-- The appends of lanes fit the chain's pages: each is of at most 65536 bytes and lies in a page that the chain has and does not share
(R277). -/
def AppendFits (s : State) (key : Option Nat) (pa : Nat) (d : ChainDesc) (ls : List LaneAcc) : Prop :=
  (∀ n ∈ appendSizes ls, n ≤ 65536) ∧ (∀ x ∈ appendStarts d.len (appendSizes ls), x / 65536 < d.pages) ∧
    (∀ p ∈ s.chainPages key pa d, s.refs p ≤ 1) ∧ appendLen d.len (appendSizes ls) < 2 ^ 64

/-- The state in which a BCANCEL has taken a filter entry for a subtree, and its path waits for the hops in flight (R273). -/
def cancelBegun (s : State) (h : Here) (v : DWord) : State :=
  let c : Cancel := { id := s.uid, root := v.toNat, hops := s.hopsInFlight }
  (({ s with uid := s.uid + 1 }).modFlow fun f => { f with cancels := f.cancels ++ [c] }).modPath h.u fun p =>
    { p with pend := .cancel s.uid, wait := some .filter, blockedCycle := (s.stk h.p.home).cycles }

/-- QPOP and CHAPP as migration points of one home, that of their descriptor (R269, R277). -/
def descriptorClaim (h : Here) : Instr → Option PointClaim
  | .qpop g d b _ =>
      let ref := h.p.ctx.scalVal b.toNat
      let n := 16 * 2 ^ (ref.extractLsb' 0 2).toNat
      if ref.extractLsb' 0 2 = 3 ∨ ref.extractLsb' 2 4 ≠ 0 ∨ 32 < d.toNat + n / 4 then none
      else some { form := .plain, guard := g, op := .pop n, dest := .vec (groupRegs h d.toNat (n / 4)), size := 64
                  need := { rd := true, w := true }, reads := [guardName g, scalName b]
                  reqs := (presentLanes h g).map fun l => (l, ref &&& ~~~(3#64), []) }
  | .chapp g d a b _ _ =>
      let ref := h.p.ctx.scalVal b.toNat
      if ref.toNat % 65536 ≠ 0 then none
      else some { form := .plain, guard := g, op := .append none, dest := .vec [h.p.ctx.base + d.toNat], size := 64
                  need := { rd := true, w := true }, reads := [guardName g, vecName h a, scalName b]
                  reqs := (presentLanes h g).map fun l => (l, ref, bytesOfNat (laneOf h a l).toNat 4) }
  | _ => none

/-- A range of bytes that a path reads or writes in place: it lies in one 64 KiB page, whose walk finds its entries and which translates to
`y` with the permission needed, at a stack that is not halted, with no earlier post in the way, no line that the host holds modified, and
no poison (R64, R75,
R327, R332). -/
structure InPlace (s : State) (h : Here) (need : Needs) (va n : Nat) (y : Target) : Prop where
  walks : Walks s h [BitVec.ofNat 64 va]
  page : va % 65536 + n ≤ 65536
  translated : s.translateLane h n need (BitVec.ofNat 64 va) = .ok y
  below : y.pa + n ≤ zoneBase
  running : (s.stk (homeOf y.pa)).halted = false
  clear : s.streamClear h (homeOf y.pa) = true
  lines : ∀ line ∈ linesOf y.pa n, spFind line s.mem.lines = none
  poison : s.mem.poisoned y.pa n = false

/-- The bits that a special register keeps of a value written to it (R100, R101, R322, R331). -/
def regsWritten (r : KnotRegs) (n : Special) (v : DWord) : Option KnotRegs :=
  match n with
  | .ptbase => some { r with ptbase := v &&& (BitVec.allOnes 36 ++ 0#16).setWidth 64 }
  | .asid => some { r with asid := v.extractLsb' 0 16 }
  | .keysel => some { r with keysel := v }
  | .vecbase => some { r with vecbase := v &&& (BitVec.allOnes 20 ++ 0#12).setWidth 64 }
  | .landing => some { r with window := (v.extractLsb' 36 19).toNat }
  | .watchdog => some { r with watchdog := v.extractLsb' 0 32 }
  | _ => none

/-- Where the frame's PC points: the first word of the issue group, and after TRAP and BKPT the next word (R285). -/
def framePc (h : Here) (t : Trap) : Pc := if t.code = .trap ∨ t.code = .bkpt then h.p.ctx.pc + 4 else h.p.groupPc

/-- The context that a trap's frame describes: at the start of its issue group, whose hints count as not issued, or after TRAP and BKPT at
the next word (R53, R124, R285). -/
def frameCtx (h : Here) (t : Trap) : Ctx :=
  if t.code = .trap ∨ t.code = .bkpt then { h.p.ctx with pc := framePc h t }
  else
    { h.p.ctx with
      pc := framePc h t, wrapped := h.p.ctx.wrapped && h.p.hints.words == 0
      wd := if h.p.super = true ∨ h.k.regs.watchdog = 0 then h.p.ctx.wd else h.p.ctx.wd - h.p.hints.words }

/-- The trap of a path at user level, or of a handler task's own code (R295), that no other path or handler node shares, with nothing on its
way to its registers, in a state whose landing zone has room for the frame at `off` (R282 to R284). -/
structure EntersAlone (s : State) (h : Here) (t : Trap) (off : Nat) : Prop where
  here : s.here h.u = some h
  level : h.p.super = false ∨ (h.k.handling ≠ none ∧ h.p.entry = none)
  running : h.p.halt = .running
  noHandler : s.handlerOf h t.code = none
  alone : s.partners h.u h.p h.k = []
  landed : h.p.flights = []
  room : ∃ r, s.takeArea h.p.home { kind := .frame, len := 128, own := some h.p.knot } = some (off, r)
  wf : s.mem.wf = true

/-- The bytes of a trap frame as R285 lays them out; the fields that a handler writes are zero. -/
structure FrameSays (s : State) (h : Here) (t : Trap) (fr : List Byte) : Prop where
  length : fr.length = 128
  pc : natOfBytes (sub fr 0 8) = (framePc h t).toNat
  code : natOfBytes (sub fr 8 1) = t.code.num
  group : natOfBytes (sub fr 9 1) = s.heap.groupWords (framePc h t)
  num : natOfBytes (sub fr 11 1) = t.num % 256
  noReg : t.reg = none → natOfBytes (sub fr 12 2) = 0
  vecReg : ∀ n, t.reg = some { file := .vec, num := n } → natOfBytes (sub fr 12 2) = n % 256
  scalReg : ∀ n, t.reg = some { file := .scal, num := n } → natOfBytes (sub fr 12 2) = 256 + n % 256
  predReg : ∀ n, t.reg = some { file := .pred, num := n } → natOfBytes (sub fr 12 2) = 512 + n % 256
  lane : natOfBytes (sub fr 14 2) = t.lane % 65536
  addr : natOfBytes (sub fr 16 8) = t.addr.toNat
  brood : natOfBytes (sub fr 24 8) = h.k.brood.toNat
  knotId : natOfBytes (sub fr 32 4) = h.k.knotId % 2 ^ 32
  stack : natOfBytes (sub fr 36 1) = h.p.home % 16
  core : natOfBytes (sub fr 37 1) = h.p.core % 256
  module : natOfBytes (sub fr 38 2) = h.p.home / 16 % 65536
  masksum : natOfBytes (sub fr 40 4) = (summaryOf h.p.ctx.mask).toNat
  gap : natOfBytes (sub fr 48 16) = 0
  s30 : natOfBytes (sub fr 64 8) = (h.p.ctx.scalVal 30).toNat
  s31 : natOfBytes (sub fr 72 8) = (h.p.ctx.scalVal 31).toNat
  states : natOfBytes (sub fr 80 1) = (h.p.ctx.scalState 30).code + 4 * (h.p.ctx.scalState 31).code
  rest : natOfBytes (sub fr 81 47) = 0

/-- A path `h` has entered the supervisor for a trap, from state `s` to state `t`, with its frame at `off` (R284, R285). -/
def Entered (s t : State) (h : Here) (x : Trap) (off : Nat) : Prop :=
  ∃ q, t.here h.u = some { u := h.u, p := q, k := h.k } ∧ q.super = true ∧ q.hints = .none ∧ q.pend = .none ∧
    q.wait = none ∧ q.ctx.pc = h.k.regs.vecbase.setWidth 48 + BitVec.ofNat 48 (64 * x.code.num) ∧
    q.ctx.scalVal 30 = windowAddr h.k.regs.window h.p.home off ∧ q.ctx.scalState 30 = .full ∧
    q.ctx.scalVal 31 = BitVec.ofNat 64 x.code.num ∧ q.ctx.scalState 31 = .full ∧
    (∀ n, n ≠ 30 → n ≠ 31 → q.ctx.scalVal n = h.p.ctx.scalVal n ∧ q.ctx.scalState n = h.p.ctx.scalState n) ∧
    q.ctx.vst = h.p.ctx.vst ∧ q.ctx.pst = h.p.ctx.pst ∧ q.ctx.mode = h.p.ctx.mode ∧ q.ctx.fpstat = h.p.ctx.fpstat ∧
    q.ctx.base = h.p.ctx.base ∧ q.ctx.frames = h.p.ctx.frames ∧ q.ctx.mask = h.p.ctx.mask ∧ q.ctx.ponds = h.p.ctx.ponds ∧
    q.ctx.posts = h.p.ctx.posts ∧ (∃ e, q.entry = some e ∧ e.home = h.p.home ∧ e.off = off ∧ e.pc = framePc h x) ∧
    FrameSays s h x (t.zoneRead h.p.home off 128) ∧ (∀ v, v ≠ h.u → t.path? v = s.path? v) ∧
    ∀ key a, a < zoneBase → t.mem.readByte key a = s.mem.readByte key a

/-- An RFT that reads its trap frame `fr` at the target `y`: nothing is left of it from before, s30 and s31 are not empty, and the
frame is read in place (R288). -/
structure Returning (s : State) (h : Here) (a : SReg) (y : Target) (fr : List Byte) : Prop where
  admits : Admits s h.u h { priv := true }
  operand : h.p.ctx.scalState a.toNat = .full
  saved : h.p.ctx.scalState 30 ≠ .empty ∧ h.p.ctx.scalState 31 ≠ .empty
  begun : h.p.pend = .none
  place : InPlace s h { rd := true, w := false } (h.p.ctx.scalVal a.toNat).toNat 128 y
  frame : fr = s.readMem y.key y.pa 128

/-- ACTION of a trap frame (R285, R288). -/
def actionByte (fr : List Byte) : Nat := natOfBytes (sub fr 81 1)

/-- The misuses of RFT that R288 and R289 list, but for the checks that FILL makes of its area. -/
def RftMisused (h : Here) (fr : List Byte) : Prop :=
  let act := actionByte fr
  let m := natOfBytes (sub fr 82 2)
  act.testBit 7 = true ∨ act / 32 % 4 = 3 ∨ (act.testBit 1 = true ∧ act.testBit 2 = true) ∨
    (act.testBit 3 = true ∧ (act.testBit 4 = true ∨ m = 0 ∨ h.p.ctx.frames.length < m)) ∨
    (act.testBit 4 = true ∧ (h.p.ctx.base ≠ 0 ∨ h.p.ctx.frames ≠ [])) ∨
    (act / 32 % 4 ≠ 0 ∧ ∀ e, h.p.entry = some e → e.code ≠ .collide ∨ e.pc ≠ BitVec.ofNat 48 (natOfBytes (sub fr 0 6)))

/-- The double trap of a misused RFT: the knot is killed, and a record with E_ILLEGAL, the PC of the RFT's issue group and the frame's
address goes to the management core (R286, R288). -/
def rftDoubled (s : State) (h : Here) (va : DWord) : State :=
  ((s.report (h.p.home / 16) (s.seqOf h.k) (s.faultRecord h { code := .illegal, addr := va } h.p.groupPc)).killKnot h.p.knot).bump

/-- What RFT leaves in every case: the path is at user level, out of its trap, at the frame's PC (R288 steps 4 and 5). -/
def Returned (t : State) (h : Here) (q : Path) (k : Knot) (fr : List Byte) : Prop :=
  t.here h.u = some { u := h.u, p := q, k := k } ∧ q.super = false ∧ q.entry = none ∧
    q.ctx.pc = wordPc (BitVec.ofNat 64 (natOfBytes (sub fr 0 6)))

/-- The bytes of a spill area: `k` registers of `m` frames of a path (R288). -/
structure SpillSays (h : Here) (k m : Nat) (bs : List Byte) : Prop where
  regs : natOfBytes (sub bs 0 4) = k % 2 ^ 32
  frames : natOfBytes (sub bs 4 4) = m % 2 ^ 32
  grant : natOfBytes (sub bs 8 8) = h.k.grant % 2 ^ 64
  record : ∀ i < m, ∀ f, h.p.ctx.frames[i]? = some f → natOfBytes (sub bs (16 + 16 * i) 6) = f.ret.toNat ∧
    natOfBytes (sub bs (22 + 16 * i) 1) = f.size % 32 ∧ natOfBytes (sub bs (24 + 16 * i) 2) = f.base % 65536
  state : ∀ j < k, field2 (bs.drop (16 + 16 * m)) j = (h.p.ctx.vecState j).code
  lane : ∀ j < k, ∀ l < h.k.grant,
    natOfBytes (sub bs (16 + 16 * m + (k + 31) / 32 * 8 + 4 * (j * h.k.grant + l)) 4) = (h.k.lane j l).toNat

/-- The length of a spill area (R288). -/
def spillLength (h : Here) (k m : Nat) : Nat := 16 + 16 * m + (k + 31) / 32 * 8 + 4 * k * h.k.grant

/-- What a lane of a register holds after values of lanes are in place: the value listed for it, otherwise what it held (R25). -/
def filledLane (old : Nat → Word) (vals : List (Nat × Word)) (l : Nat) : Word :=
  match vals.find? fun e => e.1 == l with
  | some e => e.2
  | none => old l

/-- A sector of a copy whose turn it is: it is of a copy in flight, no earlier sector holds it up, the end that the engine turns to next
lies at no halted stack, and the walk of that end's address finds its entries; `s1` is the state after that walk (R88, R89, R243, R304,
R322). -/
structure SectorGoes (s : State) (m : MHere) (c : Copy) (x : Sector) (s1 : State) : Prop where
  mover : s.mover? m.c = some m
  copy : (m.e.copies.find? fun d => d.id == c.id) = some c
  sector : (c.sectors.find? fun y => y.idx == x.idx) = some x
  order : s.sectorWaits m c x m.e.copies = false
  running : s.sectorHalted m x.next.1 x.next.2 = false
  entries : s.walkStalled (s.moverReads m x.next.1 x.next.2) = false
  walked : s1 = s.walked (s.moverReads m x.next.1 x.next.2)

/-- The source of a sector can be read: `bs` are its bytes and `s2` the state after the read, which recalls the lines that the host holds
modified (R89, R243, R327). -/
def SourceIs (s1 : State) (m : MHere) (x : Sector) (bs : List Byte) (s2 : State) : Prop :=
  (x.spad = true ∧ x.src.toNat + 32 ≤ m.crew.padSize ∧ m.crew.touchesPlane x.src.toNat 32 = false ∧
    m.crew.poisoned x.src.toNat 32 = false ∧ bs = cellRead m.crew.pad x.src.toNat 32 ∧ s2 = s1) ∨
  (x.spad = false ∧ ∃ y, s1.moverTarget m 32 { rd := true, w := false } x.src = .ok y ∧ s1.mem.poisoned y.pa 32 = false ∧
    s2 = s1.recall false y.pa 32 ∧ bs = s2.readMem y.key y.pa 32)

/-- The engine after a sector of a copy is over: the sector is no longer listed, nor a copy with no sector left, and every other copy and
handle is as it was (R243). -/
def SectorOver (e e' : Engine) (c : Copy) (x : Sector) : Prop :=
  (∀ d ∈ e'.copies, d.id = c.id → ∀ z ∈ d.sectors, z.idx ≠ x.idx) ∧ (∀ d ∈ e.copies, d.id ≠ c.id → d.sectors ≠ [] → d ∈ e'.copies) ∧
    ∀ j, j ≠ c.handle → e'.handle j = e.handle j

/-- A handle with one more credit: full when its count is reached, unless it is FAULTED (R236). -/
def credited (r : HandleReg) : HandleReg :=
  { r with cred := r.cred + 1
           state := if r.state = .filling ∧ r.cred + 1 = r.exp ∧ r.faulted = false then .full else r.state }

/-- The fault of a copy's sector, as the movement processor is told of it (R241). -/
def sectorFault (c : Copy) (x : Sector) (code : TrapCode) (a : DWord) : MoveFault :=
  { pc := c.pc, cause := code, handle := c.handle, sector := x.idx, addr := a, stop := c.pc, atIssue := false }

/-- The byte that the host reads at an address: of its own copy of a line that it holds modified, otherwise what memory gives under slot 0
(R324, R327). -/
def hostByte (s : State) (pa : Nat) : Byte :=
  match spFind (pa / 64) s.mem.lines with
  | some line => line.getD (pa % 64) 0
  | none => s.mem.readByte (s.keyFor (s.rawKey pa) pa) pa

/-- A core is withdrawn: it takes nothing more, and SERVICE asks for replacement (R332). -/
def Withdrawn (t : State) (home core : Nat) : Prop :=
  core ∈ (t.stk home).withdrawn ∧ (t.mod (home / 16)).replace = true ∧ ∀ bytes, t.coreHas home core bytes = false

/-- The work of a stack that a placement event looks at: its stack and module run, no image waits to resume there, and the launch unit
hands nothing out (R34, R256, R300). -/
structure PlacesOn (s : State) (home : Nat) (w : Work) (ws : List Work) : Prop where
  openStack : s.open? home = true
  noImage : s.anyParked home = false
  noCurrent : (s.mod (home / 16)).current = none
  head : (s.stk home).work = w :: ws

/-- The command that the management core of a module executes next has an OP; `s1` is the state after it is read (R325, R327). -/
def Commanded (s : State) (m op : Nat) (c : Command) (s1 : State) : Prop := s.nextCommand m = some (c, s1) ∧ c.op = op

/-- A module's state without the circuit that its connection table holds at an index (R336). -/
def tornDown (x : ModuleSt) (idx : Nat) : ModuleSt := { x with circuits := spDrop idx x.circuits }

/-- A firmware stage verifies against the root key: its image and its signature (R334). -/
def StageOk (st : List Byte × List Byte) : Prop := rsaVerify Config.rootKey st.1 st.2 = true

/-- A range of TLB entries by address space and page (R323). -/
def TlbIn (asid page count : Nat) (e : TlbEnt) : Prop := e.asid = asid ∧ page ≤ e.page ∧ e.page < page + count

/-- A path that fetches its next word when it issues: within an issue group, or at a boundary with no trap held, nothing left of an access
or a replay, and its watchdog below the limit (R52, R281, R287). -/
def Fetches (h : Here) : Prop :=
  h.p.hints.words ≠ 0 ∨ (h.p.trapHeld = [] ∧ (∀ a, h.p.pend ≠ .access a) ∧ (h.p.super = false → ∀ r, h.p.pend ≠ .replay r) ∧
    (h.p.super = true ∨ h.k.regs.watchdog = 0 ∨ h.p.ctx.wd < h.k.regs.watchdog.toNat))

/-- The word that a stack's module has at a PC inside the extent of the executing function, which is no call site with an earlier word
that the agent may still fetch (R93, R114, R313). -/
def WordAt (s : State) (home fn : Nat) (wrapped : Bool) (pc : Pc) (unseen : List (Nat × Word)) (w : Word) : Prop :=
  wrapped = false ∧ s.heap.inExtent fn pc = true ∧ s.codeWord (home / 16) pc = w ∧ ∀ e ∈ unseen, e.1 ≠ pc.toNat / 4

/-- A module's copy of a heap word is under the key that its slot 0 holds: the heap has no backing page for it, or the page's bytes are so
(R313, R324). -/
def CopyHeld (s : State) (module : Nat) (pc : Pc) : Prop :=
  ∀ page, (spGet [] s.heap.pages (pc.toNat / 65536))[module]? = some page →
    ∀ i < 4, s.slotKey module 0 = some (s.mem.keyOf (page + pc.toNat % 65536 / 4 * 4 + i))

/-- The words that the instruction chapters of the spec write out, with the instructions they encode: majors 0x01 to 0x2B. -/
def computeWords : List (Word × Instr) :=
  [(0x05C22180, .iadd 7 1 2 3 false false), (0x19C207FD, .movi 7 1 0x7FD), (0x25C84180, .fadd .near 7 4 4 3 false false),
   (0x2DC84180, .fadd .hint 7 4 4 3 false false), (0x31C62130, .cvt 7 3 2 false .mode .f16 .f32),
   (0x35CC506A, .bxq 7 6 5 false .bx8), (0x3DCA430D, .reduceAddF32Rn 7 5 4 6 false false), (0x3DCE2017, .voteCnt 7 7 2 0 false),
   (0x3DC0001C, .pack false), (0x3DCE901D, .regroup false 7 9 false), (0x41C41199, .shfl 7 2 1 3 false false .xor 1)] ++
  [(0x80221800, .sadd 1 2 3 false false), (0x8D01007B, .sshrImm 8 1 59), (0x84630000, .saddi 3 3 0), (0x88680001, .slih 3 0x80001),
   (0x9CC80005, .brc 3 2 5), (0x9E40001B, .brc 9 0 27), (0xA083FFEC, .call 4 0x3FFEC), (0xA523FFFA, .loop 9 0x3FFFA),
   (0xA8000000, .nop), (0xA8001801, .join 3), (0xA8000005, .endP), (0xAC800400, .width 4 0 0x400)]

/-- Majors 0x2C to 0x35. -/
def memoryWords : List (Word × Instr) :=
  [(0xB0461120, .ld 1 3 1 2 false .b32 0), (0xB1C61120, .ld 7 3 1 2 false .b32 0), (0xB5CC2229, .st 7 6 2 4 false .b64 1),
   (0xB9CA01A8, .lds false 5 3 false .b64 0), (0xB9CC2100, .home false 6 2 false 0), (0xB9CE3002, .ptab false 7 2),
   (0xB9CE3082, .ptabFail false 7 2), (0xB9C04000, .fence false), (0xC1C61100, .atm 7 3 1 2 false .add .i32)] ++
  [(0xBDC81120, .stp 7 4 1 2 false .b32 0), (0xC5CA0100, .atp 7 5 0 2 false .add .i32), (0xC5D01135, .atpVadd 7 8 1 2 false false 5),
   (0xCDCC2020, .pld 7 6 2 0 false .b32 0), (0xD1CA2021, .pst 7 5 2 0 false .b32 1), (0xD5C62000, .patm 7 3 2 0 false .add .i32),
   (0xD5C00007, .pstep false), (0xD5CC800F, .bar false 3 .stack), (0xD5C0C017, .bara false 0 .module), (0xD5C0C01F, .barw false 0 .module)]

/-- Majors 0x36 to 0x3C. -/
def engineWords : List (Word × Instr) :=
  [(0xD9C86000, .tcfg false 4 6 false), (0xD9C88481, .tld false 4 8 9 false false), (0xD9CA0003, .tzero false 5),
   (0xD9C4A004, .wld false 2 10 false), (0xDDC04008, .mma 7 0 4 .bx8), (0xDDC24609, .mmas 7 1 4 12 false .bx8),
   (0xE1D20000, .mbatch false 9), (0xE1C09001, .mwait false 9 false), (0xE1C60102, .accget false 3 2), (0xE1C20004, .acq false 1),
   (0xE1C00005, .rel false 0), (0xE1E80586, .accrd 7 20 0 11 false)] ++
  [(0xE4001400, .hwait 5), (0xE4860001, .hany 4 6 false), (0xE4030006, .hsig 3 false), (0xE8000514, .copy 1 8 20),
   (0xE8020C34, .gather 3 1 20), (0xECA00000, .mpwait 5), (0xEC140C01, .hset 20 3), (0xEC000004, .mpend),
   (0xF1C83000, .emit 7 4 3 false), (0xF1C03001, .depdec false 3 false), (0xF1C44282, .qpush 7 2 4 5 false false),
   (0xF1D00283, .qpop 7 8 5 false), (0xF1CC0004, .bfork false 6), (0xF1C06005, .bforkStamp false 6 false),
   (0xF1C06006, .bcancel false 6 false), (0xF1CE3007, .chfork false 7 3 false), (0xF1D2A188, .chapp 7 9 10 3 false false),
   (0xF1C03009, .chrel false 3 false)]

/-- Majors 0x3D to 0x3F. -/
def systemWords : List (Word × Instr) :=
  [(0xF4A00000, .srd 5 .grant), (0xF4100001, .srdVector 0), (0xF4C0000C, .srd 6 .posts), (0xF4680008, .swr 3 false .mode),
   (0xF4880086, .swr 4 false .watchdog), (0xF8042800, .trap 4 5 false), (0xF81E0001, .rft 30 false), (0xF8000002, .ifence),
   (0xF8001803, .bkpt 3), (0xF8000004, .halt), (0xF8A05005, .pfixDrop 5 2), (0xF8060006, .ctxsv 6 false),
   (0xF8430807, .ctxldKill 2 3 false), (0xFC800003, .hintRnd .up), (0xFC000100, .hintImm 0x100)]

/-- Whether the sign bit of a pattern is set (R96). -/
def negBit (f : FloatFmt) (bits : Nat) : Bool := bits / 2 ^ (f.eb + f.mb) % 2 == 1

/-- A pattern of a format that encodes a finite value (R96). -/
def FiniteBits (f : FloatFmt) (bits : Nat) : Prop :=
  bits < 2 ^ (1 + f.eb + f.mb) ∧ (f.e4m3 = true → bits % 128 ≠ 127) ∧ (f.e4m3 = false → bits / 2 ^ f.mb % 2 ^ f.eb ≠ 2 ^ f.eb - 1)

/-- The value that a finite pattern encodes (R96). -/
def valueQ (f : FloatFmt) (bits : Nat) : ℚ :=
  (if negBit f bits then -1 else 1) *
    (if bits / 2 ^ f.mb % 2 ^ f.eb = 0 then ((bits % 2 ^ f.mb : Nat) : ℚ) * 2 ^ (1 - (f.bias : ℤ) - f.mb)
     else ((2 ^ f.mb + bits % 2 ^ f.mb : Nat) : ℚ) * 2 ^ (((bits / 2 ^ f.mb % 2 ^ f.eb : Nat) : ℤ) - f.bias - f.mb))

/-- The value of a finite operand as it is read: a subnormal is a zero when inputs are flushed (R99). -/
def readQ (f : FloatFmt) (flush : Bool) (bits : Nat) : ℚ :=
  if flush = true ∧ bits / 2 ^ f.mb % 2 ^ f.eb = 0 then 0 else valueQ f bits

/-- The exact value of a number. -/
def fvalQ : FVal → ℚ
  | .num n m e => (if n then -1 else 1) * (m : ℚ) * 2 ^ e
  | _ => 0

/-- The largest finite value of a format, and the step that would follow it (R96). -/
def largestQ (f : FloatFmt) : ℚ := valueQ f (f.max false)
def lastStep (f : FloatFmt) : ℚ := 2 ^ f.qmax

/-- A direction rounds the magnitude of a value down, or up (R102). -/
def Down (d : Dir) (x : ℚ) : Prop := d = .zero ∨ (d = .down ∧ 0 < x) ∨ (d = .up ∧ x < 0)
def Up (d : Dir) (x : ℚ) : Prop := (d = .up ∧ 0 < x) ∨ (d = .down ∧ x < 0)

/-- A value does not overflow: rounded as if the exponent range were unbounded, its magnitude is at most the largest finite value (R103). -/
def InRange (f : FloatFmt) (d : Dir) (x : ℚ) : Prop :=
  (d = .near → f.e4m3 = false → |x| < largestQ f + lastStep f / 2) ∧ (d = .near → f.e4m3 = true → |x| ≤ largestQ f + lastStep f / 2) ∧
    (Down d x → |x| < largestQ f + lastStep f) ∧ (Up d x → |x| ≤ largestQ f)

/-- A value is tiny: rounded as if the exponent range were unbounded, its magnitude is below the smallest normal value (R99). -/
def Tiny (f : FloatFmt) (d : Dir) (x : ℚ) : Prop :=
  x ≠ 0 ∧ (d = .near → |x| < 2 ^ (1 - (f.bias : ℤ)) - 2 ^ (-(f.bias : ℤ) - f.mb) / 2) ∧ (Down d x → |x| < 2 ^ (1 - (f.bias : ℤ))) ∧
    (Up d x → |x| ≤ 2 ^ (1 - (f.bias : ℤ)) - 2 ^ (-(f.bias : ℤ) - f.mb))

/-- The result of an overflow: the largest finite value where the direction rounds the magnitude down or the conversion saturates, otherwise
infinity; with OF and NX (R103, R105). -/
def ieeeOver (f : FloatFmt) (d : Dir) (sat : Bool) (x : ℚ) : FpOut :=
  (if sat || d == .zero || (d == .down && decide (0 < x)) || (d == .up && decide (x < 0)) then f.max (decide (x < 0))
   else f.inf (decide (x < 0)), flagOF ||| flagNX)

/-- The same for E4M3, which has no infinity (R105). -/
def e4m3Over (d : Dir) (sat : Bool) (x : ℚ) : FpOut :=
  if sat || d == .zero || (d == .down && decide (0 < x)) || (d == .up && decide (x < 0)) then
    (fmtE4M3.max (decide (x < 0)), flagOF ||| flagNX)
  else (fmtE4M3.nan, flagNV)

/-- A result is a non-zero exact value rounded once in a direction, with its flags (R96, R99, R102, R103): of the finite values the
nearest, the even one of two, or the greatest not above or the least not below in magnitude, with the sign of the exact value; NX where it
differs, UF where it is tiny beside; a tiny result that is flushed is a zero with UF and NX; `ov` where it overflows. -/
def RoundsTo (f : FloatFmt) (d : Dir) (flush : Bool) (ov : FpOut) (x : ℚ) (o : FpOut) : Prop :=
  (¬InRange f d x → o = ov) ∧
  (InRange f d x → flush = true → Tiny f d x → o = (f.sign (decide (x < 0)), flagUF ||| flagNX)) ∧
  (InRange f d x → ¬(flush = true ∧ Tiny f d x) →
    FiniteBits f o.1 ∧ negBit f o.1 = decide (x < 0) ∧
    (d = .near → ∀ b, FiniteBits f b → |valueQ f o.1 - x| ≤ |valueQ f b - x| ∧
      (valueQ f b ≠ valueQ f o.1 → |valueQ f b - x| = |valueQ f o.1 - x| → o.1 % 2 = 0)) ∧
    (Down d x → |valueQ f o.1| ≤ |x| ∧ ∀ b, FiniteBits f b → |valueQ f b| ≤ |x| → |valueQ f b| ≤ |valueQ f o.1|) ∧
    (Up d x → |x| ≤ |valueQ f o.1| ∧ ∀ b, FiniteBits f b → |x| ≤ |valueQ f b| → |valueQ f o.1| ≤ |valueQ f b|) ∧
    (valueQ f o.1 = x → o.2 = 0) ∧ (valueQ f o.1 ≠ x → Tiny f d x → o.2 = flagUF ||| flagNX) ∧
    (valueQ f o.1 ≠ x → ¬Tiny f d x → o.2 = flagNX))

/-- A sum of two finite values that is exactly zero: of two zeros of one sign that zero, otherwise -0 only toward -inf; no flag (R103). -/
def zeroSum (c : FpEnv) (x y : ℚ) (nx ny : Bool) : FpOut :=
  (c.fmt.sign (if x = 0 ∧ y = 0 ∧ nx = ny then nx else c.dir == .down), 0)

/-- An integer is the nearest to a value, the even one of two (R102). -/
def NearInt (x : ℚ) (v : ℤ) : Prop := |x - v| ≤ 1 / 2 ∧ (|x - v| = 1 / 2 → v % 2 = 0)

/-- An integer is a value rounded in a direction (R102, R105). -/
def RoundsInt (d : Dir) (x : ℚ) (v : ℤ) : Prop :=
  match d with
  | .near => NearInt x v
  | .zero => v = if x < 0 then ⌈x⌉ else ⌊x⌋
  | .down => v = ⌊x⌋
  | .up => v = ⌈x⌉

/-- The floating-point types of conversions with their formats (R129). -/
def floatTypes : List (TypeCode × FloatFmt) :=
  [(.f32, fmtF32), (.f16, fmtF16), (.bf16, fmtBF16), (.e4m3, fmtE4M3), (.e5m2, fmtE5M2)]

/-- What a conversion to a format gives where it overflows (R105). -/
def convertOver (f : FloatFmt) (d : Dir) (sat : Bool) (x : ℚ) : FpOut := if f.e4m3 then e4m3Over d sat x else ieeeOver f d sat x

/-- mmax and k of a block format (R108). -/
def blockMax (bx4 : Bool) : Nat := if bx4 then 3 else 63
def blockOffset (bx4 : Bool) : ℤ := if bx4 then 128 else 132

/-- RoundEven(|x| / 2^(E - k)) (R108). -/
def Quant (bx4 : Bool) (v : FVal) (ex q : Nat) : Prop := NearInt (|fvalQ v| / 2 ^ ((ex : ℤ) - blockOffset bx4)) q

/-- The value of an element of a block under a header (R106). -/
def blockQ (bx4 : Bool) (el hdr : Nat) : ℚ :=
  (if el / (2 * (blockMax bx4 + 1)) % 2 = 1 then -1 else 1) * ((el % (blockMax bx4 + 1) : Nat) : ℚ) *
    2 ^ ((((if el / (blockMax bx4 + 1) % 2 = 1 then hdr / 256 else hdr % 256 : Nat)) : ℤ) - blockOffset bx4)

/-- An element that R108 chooses: selector 1 with the magnitude under B where that fits, otherwise selector 0 with the one under A. -/
def blockElement (bx4 : Bool) (neg : Bool) (qa qb : Nat) : Nat :=
  (if qb ≤ blockMax bx4 then qb + (blockMax bx4 + 1) else min qa (blockMax bx4)) + 2 * (blockMax bx4 + 1) * (if neg then 1 else 0)

/-- A pattern of F32, F16 or BF16 that is a NaN, a signalling one (its first fraction bit clear), and an infinity (R96, R98). -/
def NanBits (f : FloatFmt) (b : Nat) : Prop := b / 2 ^ f.mb % 2 ^ f.eb = 2 ^ f.eb - 1 ∧ b % 2 ^ f.mb ≠ 0
def SignallingBits (f : FloatFmt) (b : Nat) : Prop := NanBits f b ∧ b / 2 ^ (f.mb - 1) % 2 = 0
def InfBits (f : FloatFmt) (b : Nat) : Prop := b / 2 ^ f.mb % 2 ^ f.eb = 2 ^ f.eb - 1 ∧ b % 2 ^ f.mb = 0

/-- An operand as it is read: the zero of its sign for a subnormal when inputs are flushed (R99). -/
def readBits (f : FloatFmt) (flush : Bool) (b : Nat) : Nat :=
  if flush = true ∧ b / 2 ^ f.mb % 2 ^ f.eb = 0 then (if negBit f b then 2 ^ (f.eb + f.mb) else 0) else b

/-- One operand is less than another as they are read, neither being a NaN (R159). -/
def Below (f : FloatFmt) (flush : Bool) (x y : Nat) : Prop :=
  (InfBits f x ∧ negBit f x = true ∧ ¬(InfBits f y ∧ negBit f y = true)) ∨
    (InfBits f y ∧ negBit f y = false ∧ ¬(InfBits f x ∧ negBit f x = false)) ∨
    (¬InfBits f x ∧ ¬InfBits f y ∧ readQ f flush x < readQ f flush y)

/-- The condition of an FCMP holds (R104, R159). -/
def Holds (f : FloatFmt) (flush : Bool) (k : FCond) (x y : Nat) : Prop :=
  match k with
  | .eq => ¬NanBits f x ∧ ¬NanBits f y ∧ ¬Below f flush x y ∧ ¬Below f flush y x
  | .ne => NanBits f x ∨ NanBits f y ∨ Below f flush x y ∨ Below f flush y x
  | .lt => ¬NanBits f x ∧ ¬NanBits f y ∧ Below f flush x y
  | .le => ¬NanBits f x ∧ ¬NanBits f y ∧ ¬Below f flush y x
  | .gt => ¬NanBits f x ∧ ¬NanBits f y ∧ Below f flush y x
  | .ge => ¬NanBits f x ∧ ¬NanBits f y ∧ ¬Below f flush x y
  | .ord => ¬NanBits f x ∧ ¬NanBits f y
  | .unord => NanBits f x ∨ NanBits f y

/-- A pattern is the square root of a positive value, rounded once in a direction (R102, R103). Of two magnitudes the one is nearer to the
root whose side of their mean the root lies on; the mean is compared by its square. -/
def RootOf (f : FloatFmt) (d : Dir) (x : ℚ) (o : FpOut) : Prop :=
  FiniteBits f o.1 ∧ negBit f o.1 = false ∧
    (d = .near → ∀ b, FiniteBits f b → 0 ≤ valueQ f b →
      (valueQ f o.1 < valueQ f b → x ≤ ((valueQ f o.1 + valueQ f b) / 2) ^ 2) ∧
      (valueQ f b < valueQ f o.1 → ((valueQ f o.1 + valueQ f b) / 2) ^ 2 ≤ x)) ∧
    (d = .zero ∨ d = .down → valueQ f o.1 ^ 2 ≤ x ∧ ∀ b, FiniteBits f b → valueQ f b ^ 2 ≤ x → valueQ f b ≤ valueQ f o.1) ∧
    (d = .up → x ≤ valueQ f o.1 ^ 2 ∧ ∀ b, FiniteBits f b → 0 ≤ valueQ f b → x ≤ valueQ f b ^ 2 → valueQ f o.1 ≤ valueQ f b) ∧
    o.2 = if valueQ f o.1 ^ 2 = x then 0 else flagNX

/-- The bit of FCLASS's mask for an operand as it is read (R160). -/
def ClassIs (f : FloatFmt) (flush : Bool) (b i : Nat) : Prop :=
  let r := readBits f flush b
  let normal := ¬InfBits f b ∧ ¬NanBits f b ∧ r / 2 ^ f.mb % 2 ^ f.eb ≠ 0
  let subnormal := r / 2 ^ f.mb % 2 ^ f.eb = 0 ∧ r % 2 ^ f.mb ≠ 0
  let zero := r / 2 ^ f.mb % 2 ^ f.eb = 0 ∧ r % 2 ^ f.mb = 0
  match i with
  | 0 => InfBits f b ∧ negBit f b = true
  | 1 => normal ∧ negBit f b = true
  | 2 => subnormal ∧ negBit f b = true
  | 3 => zero ∧ negBit f b = true
  | 4 => zero ∧ negBit f b = false
  | 5 => subnormal ∧ negBit f b = false
  | 6 => normal ∧ negBit f b = false
  | 7 => InfBits f b ∧ negBit f b = false
  | 8 => SignallingBits f b
  | 9 => NanBits f b ∧ ¬SignallingBits f b
  | _ => False

/-- A finite number. -/
def IsNum (v : FVal) : Prop := ∃ n m e, v = .num n m e

end Sys2Proof.Claims
end

