-- ==== Sys2Proof/Certificates/Slice0/Obligations.lean ====
section
/-! DEFINITION. The statements about the model for the provers, one proposition each, in the terms of Sys2Proof.Claims; nothing here is
proved. OBLIGATIONS.json lists them. -/

/-- R150 to R155: every vector integer instruction completes with the result the rules give in each effective lane, and changes nothing
else. -/
def Obligations.VectorIntegerResults : Prop :=
  ∀ (s : Sys2Proof.Machine.State) (h : Sys2Proof.Machine.Here) (i : Sys2Proof.Instr) (c : Sys2Proof.Claims.RegClaim),
    Sys2Proof.Claims.intClaim h i = some c → Sys2Proof.Claims.RegisterResult s h i c

/-- R156 to R161: every floating-point instruction completes with its result in each effective lane and the OR of their flags in FPSTAT, and
changes nothing else. R162 to R165: every conversion completes with its result in each effective lane and the OR of their flags in
FPSTAT, and changes nothing else. -/
def Obligations.FloatAndConvertResults : Prop :=
  (∀ (s : Sys2Proof.Machine.State) (h : Sys2Proof.Machine.Here) (i : Sys2Proof.Instr) (c : Sys2Proof.Claims.RegClaim),
     Sys2Proof.Claims.floatClaim h i = some c → Sys2Proof.Claims.RegisterResult s h i c) ∧
  (∀ (s : Sys2Proof.Machine.State) (h : Sys2Proof.Machine.Here) (i : Sys2Proof.Instr) (c : Sys2Proof.Claims.RegClaim),
     Sys2Proof.Claims.convertClaim h i = some c → Sys2Proof.Claims.RegisterResult s h i c)

/-- R166: every predicate instruction completes with its result in each effective lane, and changes nothing else. R112, R169 to R175: every
REDUCE, SCAN, VOTE, SHFL, MATCH, BCAST, V2S and S2V completes with its result, and changes nothing else. That REDUCE, VOTE and V2S,
which write a scalar, write it and leave it full when no lane is present is the model's reading of R25 (log 42). -/
def Obligations.PredicateAndCrossLaneResults : Prop :=
  (∀ (s : Sys2Proof.Machine.State) (h : Sys2Proof.Machine.Here) (i : Sys2Proof.Instr) (c : Sys2Proof.Claims.RegClaim),
     Sys2Proof.Claims.predFamilyClaim h i = some c → Sys2Proof.Claims.RegisterResult s h i c) ∧
  (∀ (s : Sys2Proof.Machine.State) (h : Sys2Proof.Machine.Here) (i : Sys2Proof.Instr) (c : Sys2Proof.Claims.RegClaim),
     Sys2Proof.Claims.crossClaim h i = some c → Sys2Proof.Claims.RegisterResult s h i c)

/-- R125, R167, R168: every scalar instruction of a knot completes with its result in sd, once per path; a write to s0 is discarded; nothing
else changes. R125, R130: on a movement processor every scalar instruction with no fe bit set completes with its result in the g
register of the same number; a write to g0 is ignored; the PC is at the next word, and nothing else of the machine changes. The value of
each func is that of R167. -/
def Obligations.ScalarResults : Prop :=
  (∀ (s : Sys2Proof.Machine.State) (h : Sys2Proof.Machine.Here) (i : Sys2Proof.Instr) (c : Sys2Proof.Claims.RegClaim),
     Sys2Proof.Claims.scalarClaim h i = some c → Sys2Proof.Claims.RegisterResult s h i c) ∧
  (∀ (s : Sys2Proof.Machine.State) (m : Sys2Proof.Machine.MHere) (i : Sys2Proof.Instr) (d : Sys2Proof.SReg)
     (srcs : List Sys2Proof.SReg) (v : Sys2Proof.DWord),
     s.cur = .mover m.c → s.mover? m.c = some m →
     Sys2Proof.Claims.scalarValue (fun a => m.e.mover.reg a.toNat) m.e.mover.hints.imm i = some (d, srcs, v) →
     Sys2Proof.Claims.hasFe i = false → Sys2Proof.Machine.hintsMisused (Sys2Proof.Claims.scalarForm i) m.e.mover.hints = false →
     ∃ t n, Sys2Proof.Machine.exec i s = .next t ∧ Sys2Proof.Claims.OnlyMover s t m.c m.crew m.e n ∧
       (∀ r : Sys2Proof.GReg, n.reg r.toNat = if r = d ∧ d ≠ 0 then v else m.e.mover.reg r.toNat) ∧
       n.pc = m.e.mover.pc + 4 ∧ n.run = m.e.mover.run ∧ n.stack = m.e.mover.stack ∧ n.fn = m.e.mover.fn ∧
       n.fault = m.e.mover.fault ∧ n.ptbase = m.e.mover.ptbase ∧ n.asid = m.e.mover.asid ∧ n.keysel = m.e.mover.keysel)

/-- R118: under the never-guard 0b1111 a register instruction has no effect at all and completes: it reads no register, so an empty, dead or
fault-pending operand does not matter. R118: an instruction of any other family under the never-guard has no effect at all and
completes, whatever the state of its registers, its crew or its memory; the decode checks come first. R24, R26: a register instruction
whose first source that is not full is dead traps with E_DEAD, naming the register and the lowest active lane; nothing has been written
before it. R26: the first source that is not full decides how an instruction of the vector integer, floating-point and scalar families
stops: an empty one with fe = 1 traps with E_EMPTY, an empty one with fe = 0 is waited for, a fault-pending one traps with the cause,
lane and address of its record. R102, R121 to R123: a register instruction after a hint that it does not take, or without the hint that
its rounding field needs, traps with E_ILLEGAL before any operand is looked at, whatever its guard. Which of several sources that are
not full decides how the instruction stops is the model's choice (log 49). -/
def Obligations.OperandChecks : Prop :=
  (∀ (s : Sys2Proof.Machine.State) (h : Sys2Proof.Machine.Here) (i : Sys2Proof.Instr) (c : Sys2Proof.Claims.RegClaim),
     Sys2Proof.Claims.registerClaim h i = some c → Sys2Proof.Machine.Admits s h.u h { c.form with defer := c.defer } → c.guard = 15 →
     ∃ t, Sys2Proof.Machine.exec i s = .next t ∧ Sys2Proof.Claims.Completes s t h h.p (Sys2Proof.Claims.nextWord h.p.ctx) h.k) ∧
  (∀ (s : Sys2Proof.Machine.State) (h : Sys2Proof.Machine.Here) (i : Sys2Proof.Instr) (f : Sys2Proof.Machine.InstrForm),
     Sys2Proof.Claims.neverForm i = some f → s.cur = .path h.u → s.here h.u = some h →
     (Sys2Proof.Machine.decodeTrap s h f = none → ∃ t, Sys2Proof.Machine.exec i s = .next t ∧
       Sys2Proof.Claims.Completes s t h h.p (Sys2Proof.Claims.nextWord h.p.ctx) h.k) ∧
     ∀ c, Sys2Proof.Machine.decodeTrap s h f = some c → Sys2Proof.Machine.exec i s = .next (s.takeTrap h.u { code := c })) ∧
  (∀ (s : Sys2Proof.Machine.State) (h : Sys2Proof.Machine.Here) (i : Sys2Proof.Instr) (c : Sys2Proof.Claims.RegClaim)
     (before after : List Sys2Proof.Machine.RegName) (r : Sys2Proof.Machine.RegName),
     Sys2Proof.Claims.registerClaim h i = some c → Sys2Proof.Machine.Admits s h.u h { c.form with defer := c.defer } → c.guard ≠ 15 →
     c.reads = before ++ r :: after → (∀ x ∈ before, h.p.ctx.stateOf x = .full) → h.p.ctx.stateOf r = .dead →
     Sys2Proof.Machine.exec i s =
       .next (s.takeTrap h.u { code := .dead, reg := some r, lane := Sys2Proof.Machine.lowestOf h.p.ctx.mask })) ∧
  (∀ (s : Sys2Proof.Machine.State) (h : Sys2Proof.Machine.Here) (i : Sys2Proof.Instr) (c : Sys2Proof.Claims.RegClaim)
     (before after : List (Sys2Proof.Machine.RegName × Bool)) (r : Sys2Proof.Machine.RegName) (e : Bool),
     Sys2Proof.Claims.registerClaim h i = some c → Sys2Proof.Machine.Admits s h.u h { c.form with defer := c.defer } → c.guard ≠ 15 →
     h.p.ctx.stateOf (Sys2Proof.Claims.guardName c.guard) = .full → Sys2Proof.Claims.feSources h i = before ++ (r, e) :: after →
     (∀ x ∈ before, h.p.ctx.stateOf x.1 = .full) →
     (h.p.ctx.stateOf r = .empty → e = true → Sys2Proof.Machine.exec i s =
       .next (s.takeTrap h.u { code := .empty, reg := some r, lane := Sys2Proof.Machine.lowestOf h.p.ctx.mask })) ∧
     (h.p.ctx.stateOf r = .empty → e = false → Sys2Proof.Machine.exec i s = .next (s.block h.u (.register r))) ∧
     (∀ f, h.p.ctx.stateOf r = .pending → h.p.faultOf r = some f → Sys2Proof.Machine.exec i s =
       .next (s.takeTrap h.u { code := f.cause, reg := some r, lane := f.lane, addr := f.addr }))) ∧
  (∀ (s : Sys2Proof.Machine.State) (h : Sys2Proof.Machine.Here) (i : Sys2Proof.Instr) (c : Sys2Proof.Claims.RegClaim),
     Sys2Proof.Claims.registerClaim h i = some c → s.cur = .path h.u → s.here h.u = some h →
     Sys2Proof.Machine.hintsMisused c.form h.p.hints = true →
     Sys2Proof.Machine.exec i s = .next (s.takeTrap h.u { code := .illegal }))

/-- R179, R183 to R186, R188: on a knot BRA, CALL, CALLI, RET, LOOP, NOP and YIELD complete. BRA continues at its target, and has no effect
under the never-guard; CALL and CALLI kill the registers outside the carried set, push a frame record, move the base up and continue at
the target, whose bits [1:0] are no bits of a PC; RET pops the top record; LOOP writes its counter less one and branches unless it is
zero; the others continue at the next word. Nothing else changes. CALL, CALLI and RET come after the accesses of their path. R23, R183
to R185: a CALL or CALLI whose callee's window would end past the allocation, and a RET without a frame record, trap with E_WINDOW; a
CALLI whose target has a bit above 31 set traps with E_FETCH. -/
def Obligations.KnotControl : Prop :=
  (∀ (s : Sys2Proof.Machine.State) (h : Sys2Proof.Machine.Here), Sys2Proof.Machine.Admits s h.u h { defer := true } →
     (∀ o, ∃ t, Sys2Proof.Machine.exec (.bra false o) s = .next t ∧
       Sys2Proof.Claims.Completes s t h h.p (Sys2Proof.Claims.goesTo h.p.ctx (Sys2Proof.Claims.targetOf h.p.ctx.pc o) h.p.ctx.fn) h.k) ∧
     (∀ o, ∃ t, Sys2Proof.Machine.exec (.bra true o) s = .next t ∧
       Sys2Proof.Claims.Completes s t h h.p (Sys2Proof.Claims.nextWord h.p.ctx) h.k) ∧
     (∀ f o, h.p.unperformed = [] → h.p.ctx.base + f.toNat + 32 ≤ h.k.alloc → ∃ t, Sys2Proof.Machine.exec (.call f o) s = .next t ∧
       Sys2Proof.Claims.Completes s t h (Sys2Proof.Claims.carriedOnly s h)
         (Sys2Proof.Claims.goesTo (Sys2Proof.Claims.called (Sys2Proof.Claims.carriedOnly s h).ctx f)
           (Sys2Proof.Claims.targetOf h.p.ctx.pc o) (s.heap.callee (Sys2Proof.Claims.targetOf h.p.ctx.pc o))) h.k) ∧
     (∀ a f e, h.p.unperformed = [] → h.p.ctx.scalState a.toNat = .full → (h.p.ctx.scalVal a.toNat).toNat < 2 ^ 32 →
       h.p.ctx.base + f.toNat + 32 ≤ h.k.alloc → ∃ t, Sys2Proof.Machine.exec (.calli a f e) s = .next t ∧
       Sys2Proof.Claims.Completes s t h (Sys2Proof.Claims.carriedOnly s h)
         (Sys2Proof.Claims.goesTo (Sys2Proof.Claims.called (Sys2Proof.Claims.carriedOnly s h).ctx f)
           (Sys2Proof.Claims.wordPc (h.p.ctx.scalVal a.toNat)) (s.heap.callee ((h.p.ctx.scalVal a.toNat).setWidth 48))) h.k) ∧
     (∀ f, h.p.unperformed = [] → h.p.ctx.frames.getLast? = some f → ∃ t, Sys2Proof.Machine.exec .ret s = .next t ∧
       Sys2Proof.Claims.Completes s t h h.p
         (Sys2Proof.Claims.goesTo { h.p.ctx with frames := h.p.ctx.frames.dropLast, base := f.base } f.ret (s.heap.caller f.ret)) h.k) ∧
     (∀ n o, h.p.ctx.scalState n.toNat = .full → ∃ t, Sys2Proof.Machine.exec (.loop n o) s = .next t ∧
       ∃ c, (∀ i : Sys2Proof.SReg, c.scalVal i.toNat = if i = n ∧ n ≠ 0 then h.p.ctx.scalVal n.toNat - 1 else h.p.ctx.scalVal i.toNat) ∧
         (∀ r, c.stateOf r = h.p.ctx.stateOf r) ∧ h.p.ctx.Keeps c ∧ c.fpstat = h.p.ctx.fpstat ∧
         Sys2Proof.Claims.Completes s t h h.p
           (if h.p.ctx.scalVal n.toNat - 1 = 0 then Sys2Proof.Claims.nextWord { c with pc := h.p.ctx.pc }
             else Sys2Proof.Claims.goesTo c (Sys2Proof.Claims.targetOf h.p.ctx.pc o) h.p.ctx.fn) h.k) ∧
     (∃ t, Sys2Proof.Machine.exec .nop s = .next t ∧ Sys2Proof.Claims.Completes s t h h.p (Sys2Proof.Claims.nextWord h.p.ctx) h.k) ∧
     (∃ t, Sys2Proof.Machine.exec .yield s = .next t ∧ Sys2Proof.Claims.Completes s t h h.p (Sys2Proof.Claims.nextWord h.p.ctx) h.k)) ∧
  (∀ (s : Sys2Proof.Machine.State) (h : Sys2Proof.Machine.Here), Sys2Proof.Machine.Admits s h.u h .plain →
     (∀ f o, h.k.alloc < h.p.ctx.base + f.toNat + 32 →
       Sys2Proof.Machine.exec (.call f o) s = .next (s.takeTrap h.u { code := .window })) ∧
     (∀ a f e, h.p.ctx.scalState a.toNat = .full →
       (2 ^ 32 ≤ (h.p.ctx.scalVal a.toNat).toNat →
         Sys2Proof.Machine.exec (.calli a f e) s = .next (s.takeTrap h.u { code := .fetch })) ∧
       ((h.p.ctx.scalVal a.toNat).toNat < 2 ^ 32 → h.k.alloc < h.p.ctx.base + f.toNat + 32 →
         Sys2Proof.Machine.exec (.calli a f e) s = .next (s.takeTrap h.u { code := .window }))) ∧
     (h.p.ctx.frames = [] → Sys2Proof.Machine.exec .ret s = .next (s.takeTrap h.u { code := .window })))

/-- R130, R240: on a movement processor BRA, CALL, CALLI, RET, LOOP and NOP complete, with the return stack of 16 entries and the g
registers, and change nothing else. -/
def Obligations.MoverControl : Prop :=
  ∀ (s : Sys2Proof.Machine.State) (m : Sys2Proof.Machine.MHere), Sys2Proof.Claims.MovesOn s m →
    (∀ o, ∃ t, Sys2Proof.Machine.exec (.bra false o) s = .next t ∧ Sys2Proof.Claims.OnlyMover s t m.c m.crew m.e
      (Sys2Proof.Claims.moverAt m.e.mover (Sys2Proof.Claims.targetOf m.e.mover.pc o) false m.e.mover.fn)) ∧
    (∀ f o, m.e.mover.stack.length < 16 → ∃ t, Sys2Proof.Machine.exec (.call f o) s = .next t ∧
      Sys2Proof.Claims.OnlyMover s t m.c m.crew m.e
        (Sys2Proof.Claims.moverAt { m.e.mover with stack := (m.e.mover.pc + 4) :: m.e.mover.stack }
          (Sys2Proof.Claims.targetOf m.e.mover.pc o) false (s.heap.callee (Sys2Proof.Claims.targetOf m.e.mover.pc o)))) ∧
    (∀ a f, (m.e.mover.reg a.toNat).toNat < 2 ^ 32 → m.e.mover.stack.length < 16 →
      ∃ t, Sys2Proof.Machine.exec (.calli a f false) s = .next t ∧ Sys2Proof.Claims.OnlyMover s t m.c m.crew m.e
        (Sys2Proof.Claims.moverAt { m.e.mover with stack := (m.e.mover.pc + 4) :: m.e.mover.stack }
          (Sys2Proof.Claims.wordPc (m.e.mover.reg a.toNat)) false (s.heap.callee ((m.e.mover.reg a.toNat).setWidth 48)))) ∧
    (∀ r rest, m.e.mover.stack = r :: rest → ∃ t, Sys2Proof.Machine.exec .ret s = .next t ∧
      Sys2Proof.Claims.OnlyMover s t m.c m.crew m.e
        (Sys2Proof.Claims.moverAt { m.e.mover with stack := rest } r false (s.heap.caller r))) ∧
    (∀ n o, ∃ t, Sys2Proof.Machine.exec (.loop n o) s = .next t ∧ Sys2Proof.Claims.OnlyMover s t m.c m.crew m.e
      (if m.e.mover.reg n.toNat - 1 = 0 then Sys2Proof.Claims.moverNext m (m.e.mover.setReg n.toNat (m.e.mover.reg n.toNat - 1))
        else Sys2Proof.Claims.moverAt (m.e.mover.setReg n.toNat (m.e.mover.reg n.toNat - 1))
          (Sys2Proof.Claims.targetOf m.e.mover.pc o) false m.e.mover.fn)) ∧
    (∃ t, Sys2Proof.Machine.exec .nop s = .next t ∧
      Sys2Proof.Claims.OnlyMover s t m.c m.crew m.e (Sys2Proof.Claims.moverNext m m.e.mover))

/-- R180, R181: BRU branches when its guard is true in every active lane, falls through when it is true in none, and otherwise traps with
E_DIVERGED; it opens no pond, and under the never-guard neither has an effect. BRC opens its pond; with one way taken the path goes that
way, and with an empty active mask to the target. R38, R47, R181: a BRC that takes both ways runs after its FENCE: its pond opens and
the false lanes stay with the path at the next word; the true lanes are a new path at the target, which runs when the core has a free
instruction-buffer entry and is pushed under the other path when it has none; both have empty post tables. -/
def Obligations.ConditionalBranches : Prop :=
  ((∀ (s : Sys2Proof.Machine.State) (h : Sys2Proof.Machine.Here) (o : BitVec 18), Sys2Proof.Machine.Admits s h.u h { defer := true } →
     (∃ t, Sys2Proof.Machine.exec (.bru 15 o) s = .next t ∧
       Sys2Proof.Claims.Completes s t h h.p (Sys2Proof.Claims.nextWord h.p.ctx) h.k) ∧
     ∀ w, ∃ t, Sys2Proof.Machine.exec (.brc 15 w o) s = .next t ∧
       Sys2Proof.Claims.Completes s t h h.p (Sys2Proof.Claims.nextWord h.p.ctx) h.k) ∧
   ∀ (s : Sys2Proof.Machine.State) (h : Sys2Proof.Machine.Here) (g : Sys2Proof.Guard) (o : BitVec 18),
     Sys2Proof.Machine.Admits s h.u h { defer := true } → g ≠ 15 → h.p.ctx.stateOf (Sys2Proof.Claims.guardName g) = .full →
     (Sys2Proof.Claims.trueLanes h g = Sys2Proof.Claims.activeLanes h → ∃ t, Sys2Proof.Machine.exec (.bru g o) s = .next t ∧
       Sys2Proof.Claims.Completes s t h h.p (Sys2Proof.Claims.goesTo h.p.ctx (Sys2Proof.Claims.targetOf h.p.ctx.pc o) h.p.ctx.fn) h.k) ∧
     (Sys2Proof.Claims.trueLanes h g = 0 → Sys2Proof.Claims.activeLanes h ≠ 0 → ∃ t, Sys2Proof.Machine.exec (.bru g o) s = .next t ∧
       Sys2Proof.Claims.Completes s t h h.p (Sys2Proof.Claims.nextWord h.p.ctx) h.k) ∧
     (Sys2Proof.Claims.trueLanes h g ≠ Sys2Proof.Claims.activeLanes h → Sys2Proof.Claims.trueLanes h g ≠ 0 →
       Sys2Proof.Machine.exec (.bru g o) s = .next (s.takeTrap h.u { code := .diverged })) ∧
     (∀ w, h.p.unperformed = [] → Sys2Proof.Machine.pondShut h w = true →
       Sys2Proof.Machine.exec (.brc g w o) s = .next (s.takeTrap h.u { code := .pond })) ∧
     (∀ w, h.p.unperformed = [] → Sys2Proof.Machine.pondShut h w = false →
       Sys2Proof.Claims.trueLanes h g = 0 ∨ Sys2Proof.Claims.trueLanes h g = Sys2Proof.Claims.activeLanes h →
       ∃ t, Sys2Proof.Machine.exec (.brc g w o) s = .next t ∧
         Sys2Proof.Claims.Completes s t h h.p
           (let c := { h.p.ctx with ponds := h.p.ctx.ponds ++ [s.uid] }
            if Sys2Proof.Claims.trueLanes h g = Sys2Proof.Claims.activeLanes h
            then Sys2Proof.Claims.goesTo c (Sys2Proof.Claims.targetOf h.p.ctx.pc o) h.p.ctx.fn else Sys2Proof.Claims.nextWord c)
           { h.k with insts := h.k.insts ++ [{ id := s.uid, pond := w.toNat, anchor := h.p.home
                                               expected := Sys2Proof.Claims.activeLanes h, arrived := 0, first := none }] })) ∧
  (∀ (s : Sys2Proof.Machine.State) (h : Sys2Proof.Machine.Here) (g : Sys2Proof.Guard) (w : Sys2Proof.Pond) (o : BitVec 18),
     Sys2Proof.Machine.Admits s h.u h .plain → g ≠ 15 → h.p.ctx.stateOf (Sys2Proof.Claims.guardName g) = .full →
     Sys2Proof.Machine.pondShut h w = false → Sys2Proof.Claims.Fenced h →
     Sys2Proof.Claims.trueLanes h g ≠ 0 → Sys2Proof.Claims.trueLanes h g ≠ Sys2Proof.Claims.activeLanes h →
     ∃ q new r, ((Sys2Proof.Claims.pondOpened s h w).retire h.u).path? h.u = some q ∧
       q.ctx = { Sys2Proof.Claims.nextWord h.p.ctx with ponds := h.p.ctx.ponds ++ [s.uid], wd := h.counted, sent := 0 } ∧
       new.ctx = { h.p.ctx with
         pc := Sys2Proof.Claims.targetOf h.p.ctx.pc o, wrapped := false, mask := Sys2Proof.Claims.trueLanes h g
         posts := List.replicate 8 .free, ponds := h.p.ctx.ponds ++ [s.uid], wd := h.counted, sent := 0, pushed := [] } ∧
       new.knot = h.p.knot ∧ new.home = h.p.home ∧ new.super = h.p.super ∧ new.pend = .none ∧ new.wait = none ∧
       new.place = (if 0 < s.freeEntries h.p.home h.p.core then h.p.place else .pushed) ∧
       r = ((Sys2Proof.Claims.pondOpened s h w).retire h.u).addPath new ∧
       Sys2Proof.Machine.exec (.brc g w o) s = .next (r.2.modPath h.u fun p =>
         let m := p.part (Sys2Proof.Claims.activeLanes h &&& ~~~Sys2Proof.Claims.trueLanes h g)
         if 0 < s.freeEntries h.p.home h.p.core then m else { m with ctx := { m.ctx with pushed := r.1 :: m.ctx.pushed } }) ∧
       (∀ key a, r.2.mem.readByte key a = s.mem.readByte key a))

/-- R29: a register is in the carried set exactly when its bit stands in VLIVE, SLIVE or PLIVE of an entry that the set is the union of: the
entry of the executing word at the path's window base, or the entry of a frame's call site at that frame's base; s0 and p7 always are.
R29, R30: after a migration point a register of the carried set keeps its state, and every other register is dead; s0 and p7 stay full.
The register-state tables list each register once, in rising order. The second part is about the operation of R30 that every migration
point applies, for an arbitrary set; the statements of the migration points say where they apply it to the carried set. -/
def Obligations.DeathOutsideTheCarriedSet : Prop :=
  (∀ (hp : Sys2Proof.Machine.HeapSt) (c : Sys2Proof.Machine.Ctx),
     (∀ r, (Sys2Proof.Machine.carriedSet hp c).has { file := .vec, num := r } = true ↔
       ∃ x ∈ Sys2Proof.Claims.carrying hp c, ∃ i < 32, x.1.vlive.getLsbD i = true ∧ r = x.2 + i) ∧
     (∀ n < 32, (Sys2Proof.Machine.carriedSet hp c).has { file := .scal, num := n } = true ↔
       n = 0 ∨ ∃ x ∈ Sys2Proof.Claims.carrying hp c, x.1.slive.getLsbD n = true) ∧
     ∀ n < 8, (Sys2Proof.Machine.carriedSet hp c).has { file := .pred, num := n } = true ↔
       n = 7 ∨ ∃ x ∈ Sys2Proof.Claims.carrying hp c, x.1.plive.getLsbD n = true) ∧
  (∀ (p : Sys2Proof.Machine.Path) (c : Sys2Proof.Machine.Carried) (r : Sys2Proof.Machine.RegName),
     Sys2Proof.Claims.TablesRise p.ctx →
     (p.die c).ctx.stateOf r = (if c.has r = true then p.ctx.stateOf r else .dead))

/-- R41 to R43, R182: a JOIN at its anchor, after its FENCE and once no register is empty, arrives. The last arrival closes the instance:
the arrivals merge into one path, which continues. An earlier arrival waits: of a rooted knot in place, of another as a WAITING image in
the landing zone, its seat given to its top pushed path; it keeps its PC at the JOIN (log 15, DEDUCED). A path away from the anchor
travels there. R42: the last arrival of an instance at which no other path waits becomes the merged path: the expected lanes, the word
after the JOIN, an empty post table, its pond no longer open; the instance is closed and no other path changes. R42, R57, R182: the last
arrival of an instance merges with every arrival that waits there, each with its image as it was stored. The merged path has the
expected lanes, the word after the JOIN, an empty post table and a watchdog count of zero. A register is full where it is full in every
arrival and otherwise dead; the vector and predicate lanes keep their positions, being the knot's own, which nothing changes; scalars,
MODE, the frame records and the outer ponds are those of the arrival that has the lowest expected lane; FPSTAT is the OR of all. The
other arrivals are no more, the instance is closed, and no other path and no byte of memory changes. That an arrival that waits keeps
its PC at the JOIN is the model's reading (log 15), as is the order of its deaths and traps (log 45). -/
def Obligations.JoinCompletes : Prop :=
  (∀ (s : Sys2Proof.Machine.State) (h : Sys2Proof.Machine.Here) (w : Sys2Proof.Pond) (inst : Sys2Proof.Machine.Inst),
     Sys2Proof.Machine.Admits s h.u h .plain → Sys2Proof.Claims.Fenced h → Sys2Proof.Claims.Innermost h w inst →
     (inst.anchor = h.p.home → (Sys2Proof.Claims.carriedOnly s h).hasEmpty = false →
       inst.first = none ∨ inst.first = some (Sys2Proof.Claims.arrivalOf h) →
       (inst.arrived ||| h.p.ctx.mask = inst.expected →
         Sys2Proof.Machine.exec (.join w) s =
           .next ((((Sys2Proof.Claims.arrivalNoted s h inst).modPath h.u fun p =>
             p.issued s.serial h.k.regs.watchdog).merge h.p.knot inst.id h.u
             ((Sys2Proof.Claims.arrivalNoted s h inst).waitingAt inst.id) h.p.place h.p.ctx.pushed).bump)) ∧
       (inst.arrived ||| h.p.ctx.mask ≠ inst.expected → h.k.crew.isSome = true →
         ∃ q, Sys2Proof.Machine.exec (.join w) s =
           .next (((((Sys2Proof.Claims.arrivalNoted s h inst).setPath h.u q).modPath h.u fun p =>
             { p with place := .joined inst.id .rooted, wait := some .join }).startPushed h.p.home h.p.place h.p.ctx.pushed).bump) ∧
           q.ctx = { (Sys2Proof.Claims.carriedOnly s h).ctx with
             wd := if h.p.super = true then h.p.ctx.wd else 0, sent := 0, pushed := [] }) ∧
       (inst.arrived ||| h.p.ctx.mask ≠ inst.expected → h.k.crew = none → ∀ img s2,
         ((Sys2Proof.Claims.arrivalNoted s h inst).setPath h.u (Sys2Proof.Claims.waitingPath s h)).storeImage
           { h with p := Sys2Proof.Claims.waitingPath s h } true false .image = some (img, s2) →
         ∃ t, Sys2Proof.Machine.exec (.join w) s = .next t ∧
           t = ((s2.modPath h.u fun p => { p with place := .joined inst.id img, wait := some .join }).startPushed h.p.home h.p.place
             h.p.ctx.pushed).bump ∧
           ∀ v rest, h.p.ctx.pushed = v :: rest → ∀ p, t.path? v = some p →
             p.home = h.p.home ∧ p.place = h.p.place ∧ p.ctx.pushed = rest)) ∧
     (inst.anchor ≠ h.p.home → h.k.crew = none → Sys2Proof.Claims.CarriedReady s h →
       Sys2Proof.Machine.exec (.join w) s =
         .next ((((Sys2Proof.Claims.stateCarried s h).modPath h.u fun p =>
           { p with pend := .arrive inst.id }).depart h.u inst.anchor).bump) ∧
       (h.p.ctx.pushed = [] → ∃ t q, Sys2Proof.Machine.exec (.join w) s = .next t ∧ t.path? h.u = some q ∧
         q.place = .flying inst.anchor ∧ q.pend = .arrive inst.id ∧ q.ctx.pc = h.p.groupPc ∧ q.wait = none ∧ q.hints = .none ∧
         t.mem = s.mem ∧ ∀ v, v ≠ h.u → t.path? v = s.path? v))) ∧
  (∀ (s : Sys2Proof.Machine.State) (h : Sys2Proof.Machine.Here) (w : Sys2Proof.Pond) (inst : Sys2Proof.Machine.Inst),
     Sys2Proof.Machine.Admits s h.u h .plain → Sys2Proof.Claims.Fenced h → Sys2Proof.Claims.Innermost h w inst →
     inst.anchor = h.p.home → (Sys2Proof.Claims.carriedOnly s h).hasEmpty = false →
     inst.first = none ∨ inst.first = some (Sys2Proof.Claims.arrivalOf h) →
     inst.arrived ||| h.p.ctx.mask = inst.expected → s.waitingAt inst.id = [] → (∀ i img, h.p.place ≠ .joined i img) →
     (∀ i ∈ h.k.insts, i.id = inst.id → i = inst) →
     ∃ t q k, Sys2Proof.Machine.exec (.join w) s = .next t ∧ t.here h.u = some { u := h.u, p := q, k := k } ∧
       q.ctx.mask = inst.expected ∧ q.ctx.pc = h.p.ctx.pc + 4 ∧ q.ctx.ponds = h.p.ctx.ponds.dropLast ∧
       q.ctx.posts = List.replicate 8 .free ∧ q.place = h.p.place ∧
       (∀ i : Sys2Proof.SReg, q.ctx.scalVal i.toNat = h.p.ctx.scalVal i.toNat) ∧
       k = { h.k with insts := h.k.insts.filter fun i => i.id != inst.id } ∧
       (∀ v, v ≠ h.u → t.path? v = s.path? v) ∧ ∀ key a, t.mem.readByte key a = s.mem.readByte key a) ∧
  (∀ (s : Sys2Proof.Machine.State) (h : Sys2Proof.Machine.Here) (w : Sys2Proof.Pond) (inst : Sys2Proof.Machine.Inst),
     Sys2Proof.Machine.Admits s h.u h .plain → Sys2Proof.Claims.Fenced h → Sys2Proof.Claims.Innermost h w inst →
     inst.anchor = h.p.home → (Sys2Proof.Claims.carriedOnly s h).hasEmpty = false →
     inst.first = none ∨ inst.first = some (Sys2Proof.Claims.arrivalOf h) →
     inst.arrived ||| h.p.ctx.mask = inst.expected → (∀ i img, h.p.place ≠ .joined i img) →
     (∀ i ∈ h.k.insts, i.id = inst.id → i = inst) →
     Sys2Proof.Machine.spRising none s.paths = true →
     (∀ v ∈ s.waitingAt inst.id, ∃ g, Sys2Proof.Claims.WaitsThere s h inst.id v g) →
     (∀ a ∈ Sys2Proof.Claims.arrivals s h inst.id, Sys2Proof.Claims.TablesRise a) →
     ∃ t q, Sys2Proof.Machine.exec (.join w) s = .next t ∧
       t.here h.u = some { u := h.u, p := q, k := { h.k with insts := h.k.insts.filter fun i => i.id != inst.id } } ∧
       Sys2Proof.Claims.Merged (Sys2Proof.Claims.arrivals s h inst.id) inst.expected q.ctx ∧ q.ctx.pc = h.p.ctx.pc + 4 ∧
       q.place = h.p.place ∧ q.home = h.p.home ∧ q.pend = .none ∧ q.wait = none ∧ (h.p.super = false → q.ctx.wd = 0) ∧
       (∀ v ∈ s.waitingAt inst.id, t.path? v = none) ∧
       (∀ v, v ≠ h.u → v ∉ s.waitingAt inst.id → t.path? v = s.path? v) ∧
       ∀ key a, t.mem.readByte key a = s.mem.readByte key a)

/-- R18, R48 to R50, R176, R177, R187: PACK compacts the active lanes of the full registers to the lowest positions; WIDTH takes the grant
that the core can offer and gives it in sd; REGROUP of a rooted knot, whose lanes never move, gives 0 and continues after its issue
group; REGROUP of another knot arrives, and waits with its key, the cycle and its slot. R50, R51: two eligible knots that wait at a
REGROUP on one partition pair once the cycle of their arrivals has passed. When the grant of the one with the lower KNOTID holds the
lanes of both, it goes on with the value 1: its lanes at the lowest positions, then the other's, in every register full in both, with
the flags of both; the other knot is no more. Otherwise both receive 0 and go on. That of two knots with one KNOTID the earlier arrival
goes on, and that waiting and pairing are an event after the instruction, are the model's choices (log 15). -/
def Obligations.RegroupingCompletes : Prop :=
  (∀ (s : Sys2Proof.Machine.State) (h : Sys2Proof.Machine.Here), Sys2Proof.Claims.WholeKnot s h →
     (Sys2Proof.Machine.Admits s h.u h .plain → Sys2Proof.Claims.CarriedReady s h → ∃ t k, Sys2Proof.Machine.exec (.pack false) s = .next t ∧
       Sys2Proof.Claims.Completes s t h (Sys2Proof.Claims.carriedOnly s h)
         { Sys2Proof.Claims.nextWord (Sys2Proof.Claims.carriedOnly s h).ctx with
           mask := Sys2Proof.Machine.maskBelow (Sys2Proof.Claims.activeList h).length } k ∧ h.k.Keeps k ∧
       (∀ r, (Sys2Proof.Claims.carriedOnly s h).ctx.vecState r = .full → r < h.k.alloc →
         ∀ i < (Sys2Proof.Claims.activeList h).length,
           k.lane r i = h.k.lane r ((Sys2Proof.Claims.activeList h).getD i 0)) ∧
       (∀ n < 7, (Sys2Proof.Claims.carriedOnly s h).ctx.predState n = .full →
         ∀ i < (Sys2Proof.Claims.activeList h).length,
           (k.pred n).getLsbD i = (h.k.pred n).getLsbD ((Sys2Proof.Claims.activeList h).getD i 0))) ∧
     (∀ d a i, Sys2Proof.Machine.Admits s h.u h { imm := .any } → h.p.ctx.scalState a.toNat = .full → h.p.hasEmpty = false →
       let g := s.newGrant h (h.p.ctx.scalVal a.toNat + Sys2Proof.Claims.imm64 h.p.hints.imm i).toInt
       ∃ (t : Sys2Proof.Machine.State) (c : Sys2Proof.Machine.Ctx), Sys2Proof.Machine.exec (.width d a i) s = .next t ∧ c.pc = h.p.ctx.pc ∧
         Sys2Proof.Claims.Completes s t h h.p (Sys2Proof.Claims.nextWord c) (h.k.regrant g) ∧
         c.mask = (h.p.ctx.mask &&& Sys2Proof.Machine.maskBelow (min g h.k.grant)) |||
           (Sys2Proof.Machine.maskBelow g &&& ~~~Sys2Proof.Machine.maskBelow h.k.grant) ∧
         (∀ r : Sys2Proof.SReg, c.scalVal r.toNat = if r = d ∧ d ≠ 0 then BitVec.ofNat 64 g else h.p.ctx.scalVal r.toNat) ∧
         c.vst = h.p.ctx.vst ∧ c.pst = h.p.ctx.pst ∧ c.frames = h.p.ctx.frames ∧ c.base = h.p.ctx.base ∧ c.fpstat = h.p.ctx.fpstat) ∧
     (∀ d a e, Sys2Proof.Machine.Admits s h.u h .plain → h.k.crew.isSome = true → Sys2Proof.Claims.CarriedReady s h →
       Sys2Proof.Claims.Fenced h → h.p.ctx.scalState a.toNat = .full → h.p.pend = .none →
       ∃ q r, Sys2Proof.Machine.exec (.regroup false d a e) s = .next r ∧ r.here h.u = some { u := h.u, p := q, k := h.k } ∧
         q.ctx.pc = h.p.ctx.pc + BitVec.ofNat 48 (4 * s.heap.groupWords h.p.ctx.pc) ∧ q.ctx.mask = h.p.ctx.mask ∧
         (∀ i : Sys2Proof.SReg, q.ctx.scalVal i.toNat = if i = d then 0 else h.p.ctx.scalVal i.toNat) ∧
         (d ≠ 0 → q.ctx.scalState d.toNat = .full) ∧ q.pend = .none ∧ q.wait = none ∧ q.ctx.wd = h.counted ∧
         s.SameRest r h.u h.p.knot ∧ ∀ key a, r.mem.readByte key a = s.mem.readByte key a) ∧
     (∀ d a e st, Sys2Proof.Machine.Admits s h.u h .plain → h.k.crew = none → Sys2Proof.Claims.CarriedReady s h →
       Sys2Proof.Claims.Fenced h → h.p.ctx.scalState a.toNat = .full → (∀ k c o n, h.p.pend ≠ .regroup k c o n) →
       h.p.place = .resident st →
       ∃ q r, Sys2Proof.Machine.exec (.regroup false d a e) s = .next r ∧ r.here h.u = some { u := h.u, p := q, k := h.k } ∧
         q = { Sys2Proof.Claims.carriedOnly s h with
           pend := .regroup (h.p.ctx.scalVal a.toNat) (s.stk h.p.home).cycles st.slot d.toNat, wait := some .regroup
           blockedCycle := (s.stk h.p.home).cycles } ∧
         s.SameRest r h.u h.p.knot)) ∧
  (∀ (s : Sys2Proof.Machine.State) (a b : Sys2Proof.Machine.Here) (key : Sys2Proof.DWord) (ca cb oa ob da db : Nat)
     (st : Sys2Proof.Machine.Seat),
     s.here a.u = some a → s.here b.u = some b → a.p.place = .resident st → Sys2Proof.Claims.MayPair a b key ca cb oa ob da db →
     s.regroupers a.p.home st.core st.part = [(a.u, a.p), (b.u, b.p)] → a.k.knotId ≤ b.k.knotId → a.p.knot ≠ b.p.knot →
     b.k.crew = none →
     let la := Sys2Proof.Claims.activeList a
     let lb := Sys2Proof.Claims.activeList b
     (la.length + lb.length ≤ a.k.grant →
       ∃ t q k, Sys2Proof.Machine.exec (.regroupWindowExpiry a.u) s = .next t ∧ t.here a.u = some { u := a.u, p := q, k := k } ∧
         q.ctx.mask = Sys2Proof.Machine.maskBelow (la.length + lb.length) ∧ q.ctx.fpstat = a.p.ctx.fpstat ||| b.p.ctx.fpstat ∧
         q.ctx.pc = a.p.ctx.pc + BitVec.ofNat 48 (4 * s.heap.groupWords a.p.ctx.pc) ∧ q.pend = .none ∧
         (∀ n, q.ctx.scalVal n = if n = da ∧ n ≠ 0 then 1 else a.p.ctx.scalVal n) ∧
         (∀ r < a.k.alloc, a.p.ctx.vecState r = .full → b.p.ctx.vecState r = .full → q.ctx.vecState r = .full ∧
           (∀ i < la.length, k.lane r i = a.k.lane r (la.getD i 0)) ∧
           ∀ i < lb.length, k.lane r (la.length + i) = b.k.lane r (lb.getD i 0)) ∧
         ∀ v p, t.path? v = some p → p.knot ≠ b.p.knot) ∧
     (a.k.grant < la.length + lb.length → a.u ≠ b.u →
       ∃ t p q, Sys2Proof.Machine.exec (.regroupWindowExpiry a.u) s = .next t ∧ t.here a.u = some { u := a.u, p := p, k := a.k } ∧
         t.here b.u = some { u := b.u, p := q, k := b.k } ∧ p.pend = .none ∧ q.pend = .none ∧ p.ctx.mask = a.p.ctx.mask ∧
         q.ctx.mask = b.p.ctx.mask ∧ (∀ n, p.ctx.scalVal n = if n = da ∧ n ≠ 0 then 0 else a.p.ctx.scalVal n) ∧
         ∀ n, q.ctx.scalVal n = if n = db ∧ n ≠ 0 then 0 else b.p.ctx.scalVal n))

/-- R44, R188: END of the last path of a knot, after its FENCE and with none of its accumulators in use, ends the knot and its launch takes
note: no path is the knot's, the knot is no more and owns no space of a landing zone, a crew has its slot ended, and every other knot's
path and every byte of memory is as before. END of another path ends that path's lanes only: the path is no more, its top pushed path
starts in its seat, and its lanes leave the expected mask of each of its open instances, which closes when the mask is empty, merges
those that wait when they are all that is expected, and otherwise stays open; nothing else of the knot changes. -/
def Obligations.EndCompletes : Prop :=
  ∀ (s : Sys2Proof.Machine.State) (h : Sys2Proof.Machine.Here), Sys2Proof.Machine.Admits s h.u h .plain → Sys2Proof.Claims.Fenced h →
    (s.siblings h.p.knot h.u = [] → s.accsBusy h = false → ∃ t, Sys2Proof.Machine.exec .endP s = .next t ∧
      t = (s.dropKnot h.p.knot).afterEnd h.k ∧
      (h.k.crew = none → Sys2Proof.Machine.spRising none s.paths = true → Sys2Proof.Machine.spRising none s.knots = true →
        Sys2Proof.Claims.KnotGone s t h.p.knot) ∧
      (∀ c slot, h.k.crew = some (c, slot) → Sys2Proof.Machine.spRising none s.paths = true →
        Sys2Proof.Machine.spRising none s.knots = true → Sys2Proof.Claims.KnotGone s (s.dropKnot h.p.knot) h.p.knot ∧
        ∀ w, Sys2Proof.Machine.spFind c (s.dropKnot h.p.knot).crews = some w → slot ∈ w.ended ∧
          ∀ e, w.engine = some e → ∀ a ∈ e.accs, a.2.owner ≠ some h.p.knot)) ∧
    (s.siblings h.p.knot h.u ≠ [] → ∃ t t', Sys2Proof.Machine.exec .endP s = .next t ∧
      t' = { s.startPushed h.p.home h.p.place h.p.ctx.pushed with
        paths := Sys2Proof.Machine.spDrop h.u (s.startPushed h.p.home h.p.place h.p.ctx.pushed).paths } ∧
      t = (if h.k.crew.isSome = true
        then ((t'.endInsts h.p.knot h.p.ctx.mask h.p.ctx.ponds.reverse).seatRooted h.p.knot h.p.place).bump
        else (t'.endInsts h.p.knot h.p.ctx.mask h.p.ctx.ponds.reverse).bump) ∧
      (Sys2Proof.Claims.EndsAmong s h → ∃ k, Sys2Proof.Machine.spFind h.p.knot t.knots = some k ∧ t.path? h.u = none ∧
        (∀ i ∈ h.k.insts, i.id ∉ h.p.ctx.ponds → i ∈ k.insts) ∧
        (∀ i ∈ h.k.insts, i.id ∈ h.p.ctx.ponds → Sys2Proof.Claims.LanesEnded s t h k i) ∧
        k = { h.k with insts := k.insts } ∧
        (∀ v rest p, h.p.ctx.pushed = v :: rest → s.path? v = some p → ∃ q, t.path? v = some q ∧ q.place = h.p.place ∧
          q.home = h.p.home ∧ q.ctx = { p.ctx with pushed := rest }) ∧
        (∀ v p, s.path? v = some p → v ≠ h.u → h.p.ctx.pushed.head? ≠ some v → (∀ i img, p.place ≠ .joined i img) →
          (∀ x, p.place ≠ .flying x) → t.path? v = some p) ∧
        ∀ key a, t.mem.readByte key a = s.mem.readByte key a))

/-- R30, R38, R62, R67, R191 to R198: LD, ST, LDS, STS and ATM whose lanes all lie at the current stack, or, for a knot that is not rooted,
in host memory, which the bridge of the current module accesses for it, complete there: the registers outside the carried set are dead,
the pond of the map entry is open, the access is performed, or, when the turn defers it, left to be performed in a later step with its
destination empty, and the path goes on at the next word. With no effective lane nothing is accessed. That the access is performed
within the step of the instruction is the model's choice (log 8); lane offsets are zero-extended (log 25). -/
def Obligations.MemoryPointsComplete : Prop :=
  ∀ (s : Sys2Proof.Machine.State) (h : Sys2Proof.Machine.Here) (i : Sys2Proof.Instr) (c : Sys2Proof.Claims.PointClaim)
    (ls : List Sys2Proof.Machine.LaneAcc),
    Sys2Proof.Claims.memoryClaim h i = some c → Sys2Proof.Claims.PointGoes s h c ls →
    (ls = [] → Sys2Proof.Machine.exec i s = .next ((Sys2Proof.Claims.settledAt s h).retire h.u)) ∧
    (ls ≠ [] → s.late = true → Sys2Proof.Machine.exec i s = .next (((Sys2Proof.Claims.settledAt s h).postpone h.u
      { op := c.op, dest := c.dest, lanes := ls, group := h.p.groupPc }).retire h.u)) ∧
    (ls ≠ [] → s.late = false → ∃ h1 t, (Sys2Proof.Claims.settledAt s h).here h.u = some h1 ∧
      (Sys2Proof.Claims.settledAt s h).perform h1 { op := c.op, dest := c.dest, lanes := ls, group := h.p.groupPc } = some t ∧
      Sys2Proof.Machine.exec i s = .next (t.retire h.u))

/-- R25, R67, R190, R193, R196: an LD or LDS at the current stack or the host leaves its destination empty with the loaded values on their
way, in little-endian order and extended as its size says, and leaves memory as it was. R67, R193, R196: an ST or STS at the current
stack or the host writes each lane's bytes at its address: each stored byte holds that of the highest lane that covers it, and no other
byte of memory changes. R67, R80, R197, R198: the lanes of an ATM at the current stack or the host are performed in ascending order:
each returns the bits that memory holds after the earlier lanes, and leaves there what its operation makes of them; no other byte
changes, and the destination is empty with the old bits of every lane on their way. The access is performed within the step of the
instruction (log 8); lane offsets are zero-extended (log 25). -/
def Obligations.MemoryAccesses : Prop :=
  (∀ (s : Sys2Proof.Machine.State) (h : Sys2Proof.Machine.Here) (i : Sys2Proof.Instr) (c : Sys2Proof.Claims.PointClaim)
     (z : Sys2Proof.MemSize) (ls : List Sys2Proof.Machine.LaneAcc),
     Sys2Proof.Claims.memoryClaim h i = some c → c.op = .load z → Sys2Proof.Claims.PointGoes s h c ls →
     Sys2Proof.Claims.Untouched s z.bytes ls → ls ≠ [] → s.late = false →
     ∃ t q k, Sys2Proof.Machine.exec i s = .next t ∧ t.here h.u = some { u := h.u, p := q, k := k } ∧
       q.ctx.pc = h.p.ctx.pc + 4 ∧ (∀ key a, t.mem.readByte key a = s.mem.readByte key a) ∧
       (∀ rs, c.dest = .vec rs → (∀ r ∈ rs, q.ctx.vecState r = .empty) ∧
         (rs ≠ [] → ∃ f, q.flights.getLast? = some f ∧ f.dest = c.dest ∧
           f.fill = .lanes (Sys2Proof.Claims.loadedLanes s z rs ls))) ∧
       (∀ d l, c.dest = .scal d → d ≠ 0 → ls = [l] → q.ctx.scalState d = .empty ∧
         ∃ f, q.flights.getLast? = some f ∧ f.dest = c.dest ∧
           f.fill = .scal (Sys2Proof.Machine.loadValue z (s.readMem l.key l.pa z.bytes)))) ∧
  (∀ (s : Sys2Proof.Machine.State) (h : Sys2Proof.Machine.Here) (i : Sys2Proof.Instr) (c : Sys2Proof.Claims.PointClaim)
     (z : Sys2Proof.MemSize) (ls : List Sys2Proof.Machine.LaneAcc),
     Sys2Proof.Claims.memoryClaim h i = some c → c.op = .store z → Sys2Proof.Claims.PointGoes s h c ls →
     Sys2Proof.Claims.Untouched s z.bytes ls → s.mem.wf = true → s.late = false →
     ∃ t, Sys2Proof.Machine.exec i s = .next t ∧ s.mem.SameBut t.mem (Sys2Proof.Claims.touchedBy z.bytes ls) ∧
       ∀ before l after j, ls = before ++ l :: after → j < z.bytes →
         (∀ m ∈ after, l.pa + j < m.pa ∨ m.pa + z.bytes ≤ l.pa + j) →
         t.mem.readByte (s.keyFor l.key l.pa) (l.pa + j) = l.data.getD j 0) ∧
  (∀ (s : Sys2Proof.Machine.State) (h : Sys2Proof.Machine.Here) (i : Sys2Proof.Instr) (c : Sys2Proof.Claims.PointClaim)
     (o : Sys2Proof.AtomOp) (y : Sys2Proof.AtomType) (ls : List Sys2Proof.Machine.LaneAcc),
     Sys2Proof.Claims.memoryClaim h i = some c → c.op = .atom o y → Sys2Proof.Claims.PointGoes s h c ls → ls ≠ [] →
     Sys2Proof.Claims.Untouched s y.bytes ls → s.mem.wf = true → s.late = false →
     ∃ t q k f bs, Sys2Proof.Machine.exec i s = .next t ∧ t.here h.u = some { u := h.u, p := q, k := k } ∧
       Sys2Proof.Claims.AtomsRun o y s ls bs t.mem ∧ q.ctx.pc = h.p.ctx.pc + 4 ∧
       q.flights.getLast? = some f ∧ f.dest = c.dest ∧
       ∀ rs, c.dest = .vec rs → (∀ r ∈ rs, q.ctx.vecState r = .empty) ∧
         f.fill = .lanes (rs.zipIdx.map fun e =>
           (e.1, (ls.zip bs).map fun x => (x.1.lane, (Sys2Proof.Machine.wordsOfBytes x.2).getD e.2 0))))

/-- R63 to R65, R191: a migration point traps at its first misaligned lane with E_ALIGN; a store, an ATM or an LDS at its first lane that
does not translate with E_PAGE or E_PROT, an LD at one without permission with E_PROT; a rooted knot at its first lane that lies at
another home with E_ROOTED. Nothing has been accessed, and the frame names the lane and its address. R31, R38: when the lanes of a
migration point of a knot that is not rooted all lie at one other stack, the path leaves for it, past the instruction, carrying the
access with it. R38: the lanes of a migration point of a knot that is not rooted lie at two or more homes. Where its map entry opens no
pond it traps with E_POND; with posts outstanding it waits for its FENCE; otherwise the path splits: it keeps the lanes of the current
stack, or of the home of its lowest lane when none lies there, and for every other home a new path with that home's lanes leaves for it,
each past the instruction with its part of the access. R64, R195, R287: an LD none of whose lanes lacks permission, and some of whose
lanes do not translate, leaves its destination fault-pending and goes on: the record names E_PAGE, the lowest such lane and its address,
and holds the access for its replay; nothing has been accessed. When the PC moves past the instruction is the model's choice (log 8);
lane offsets are zero-extended (log 25). -/
def Obligations.MemoryPointStops : Prop :=
  (∀ (s : Sys2Proof.Machine.State) (h : Sys2Proof.Machine.Here) (i : Sys2Proof.Instr) (c : Sys2Proof.Claims.PointClaim)
     (before after : List (Nat × Sys2Proof.DWord × List Sys2Proof.Byte)) (r : Nat × Sys2Proof.DWord × List Sys2Proof.Byte),
     Sys2Proof.Claims.memoryClaim h i = some c → Sys2Proof.Claims.PointReads s h c → c.reqs = before ++ r :: after →
     ((∀ x ∈ before, x.2.1.toNat % c.size = 0) → r.2.1.toNat % c.size ≠ 0 →
       Sys2Proof.Machine.exec i s = .next (s.takeTrap h.u { code := .align, lane := r.1, addr := r.2.1 })) ∧
     ((∀ x ∈ c.reqs, x.2.1.toNat % c.size = 0) → Sys2Proof.Claims.Walks s h (c.reqs.map (·.2.1)) →
       (∀ x ∈ before, ∃ y, s.translateLane h c.size c.need x.2.1 = .ok y) →
       (∀ f, s.translateLane h c.size c.need r.2.1 = .error f →
         f = .prot ∨ (∀ z, c.op ≠ .load z) ∨ (∃ d, c.dest = .scal d) →
         Sys2Proof.Machine.exec i s = .next (s.takeTrap h.u { code := f.code, lane := r.1, addr := r.2.1 })) ∧
       ((∀ x ∈ c.reqs, ∃ y, s.translateLane h c.size c.need x.2.1 = .ok y) → h.k.crew.isSome = true →
         (∀ x ∈ before, ∀ y, s.translateLane h c.size c.need x.2.1 = .ok y → Sys2Proof.Machine.homeOf y.pa = h.p.home) →
         (∀ y, s.translateLane h c.size c.need r.2.1 = .ok y → Sys2Proof.Machine.homeOf y.pa ≠ h.p.home) →
         Sys2Proof.Machine.exec i s = .next (s.takeTrap h.u { code := .rooted, lane := r.1, addr := r.2.1 })))) ∧
  (∀ (s : Sys2Proof.Machine.State) (h : Sys2Proof.Machine.Here) (i : Sys2Proof.Instr) (c : Sys2Proof.Claims.PointClaim)
     (ls : List Sys2Proof.Machine.LaneAcc) (home : Nat),
     Sys2Proof.Claims.memoryClaim h i = some c → Sys2Proof.Claims.PointReads s h c → ls ≠ [] →
     (∀ r ∈ c.reqs, r.2.1.toNat % c.size = 0) → Sys2Proof.Claims.Walks s h (c.reqs.map (·.2.1)) → h.u ∉ h.p.ctx.pushed →
     ls.map (fun l => (l.lane, l.va, l.data)) = c.reqs → (∀ l ∈ ls, s.translateLane h c.size c.need l.va = .ok { pa := l.pa, key := l.key }) →
     (∀ l ∈ ls, Sys2Proof.Machine.homeOf l.pa = home) → home ≠ h.p.home → home ≠ Sys2Proof.Config.hostHome → h.k.crew = none →
     (∀ w, Sys2Proof.Claims.pondOf s h = some w → Sys2Proof.Machine.pondShut h w = false) →
     (∀ r ∈ c.dest.names, (Sys2Proof.Machine.carriedSet s.heap h.p.ctx).has r = true → h.p.ctx.stateOf r ≠ .empty) →
     (∀ r ∈ (Sys2Proof.Machine.carriedSet s.heap h.p.ctx).names, h.p.ctx.stateOf r ≠ .empty ∧ h.p.ctx.stateOf r ≠ .pending) →
     ∃ t q, Sys2Proof.Machine.exec i s = .next t ∧ t.path? h.u = some q ∧ q.place = .flying home ∧
       q.ctx.pc = h.p.ctx.pc + 4 ∧ q.pend = .access { op := c.op, dest := c.dest, lanes := ls, group := h.p.groupPc } ∧
       q.ctx.scal = h.p.ctx.scal ∧ q.ctx.mask = h.p.ctx.mask ∧ (h.p.unperformed = [] → h.p.ctx.pushed = [] → t.mem = s.mem)) ∧
  (∀ (s : Sys2Proof.Machine.State) (h : Sys2Proof.Machine.Here) (i : Sys2Proof.Instr) (c : Sys2Proof.Claims.PointClaim)
     (ls : List Sys2Proof.Machine.LaneAcc),
     Sys2Proof.Claims.memoryClaim h i = some c → Sys2Proof.Claims.PointReads s h c → h.p.unperformed = [] →
     (∀ r ∈ c.reqs, r.2.1.toNat % c.size = 0) → Sys2Proof.Claims.Walks s h (c.reqs.map (·.2.1)) →
     ls.map (fun l => (l.lane, l.va, l.data)) = c.reqs →
     (∀ l ∈ ls, s.translateLane h c.size c.need l.va = .ok { pa := l.pa, key := l.key }) →
     (∃ l ∈ ls, ∃ m ∈ ls, Sys2Proof.Claims.partHome h l ≠ Sys2Proof.Claims.partHome h m) → h.k.crew = none →
     (∀ r ∈ c.dest.names, (Sys2Proof.Machine.carriedSet s.heap h.p.ctx).has r = true → h.p.ctx.stateOf r ≠ .empty) →
     (∀ v, s.uid ≤ v → s.path? v = none) → (∀ v ∈ h.p.ctx.pushed, v ≠ h.u ∧ v < s.uid) →
     (Sys2Proof.Claims.pondOf s h = none → Sys2Proof.Machine.exec i s = .next (s.takeTrap h.u { code := .pond })) ∧
     ∀ w, Sys2Proof.Claims.pondOf s h = some w → Sys2Proof.Machine.pondShut h w = false →
       ((∃ e ∈ h.p.ctx.posts, e.valid = true ∧ 0 < e.outst) → Sys2Proof.Machine.exec i s = .next (s.block h.u .fence)) ∧
       (Sys2Proof.Claims.Fenced h →
         (∀ r ∈ (Sys2Proof.Machine.carriedSet s.heap h.p.ctx).names, h.p.ctx.stateOf r ≠ .empty ∧ h.p.ctx.stateOf r ≠ .pending) →
         ∃ t, Sys2Proof.Machine.exec i s = .next t ∧
           ∀ home ∈ ls.map (Sys2Proof.Claims.partHome h), ∃ v q, t.path? v = some q ∧ q.knot = h.p.knot ∧
             q.pend = .access { op := c.op, dest := c.dest, group := h.p.groupPc
                                lanes := ls.filter fun l => Sys2Proof.Claims.partHome h l == home } ∧
             q.ctx.pc = h.p.ctx.pc + 4 ∧ q.ctx.scal = h.p.ctx.scal ∧ q.ctx.mask = Sys2Proof.Claims.partMask h ls home ∧
             q.ctx.posts = List.replicate 8 .free ∧ (v = h.u ↔ home = Sys2Proof.Claims.keptHome h ls) ∧
             q.place = (if home = h.p.home then h.p.place else .flying home))) ∧
  (∀ (s : Sys2Proof.Machine.State) (h : Sys2Proof.Machine.Here) (g : Sys2Proof.Guard) (d a : Sys2Proof.VReg) (b : Sys2Proof.SReg)
     (e : Bool) (z : Sys2Proof.MemSize) (o : BitVec 3) (c : Sys2Proof.Claims.PointClaim)
     (before after : List (Nat × Sys2Proof.DWord × List Sys2Proof.Byte)) (r : Nat × Sys2Proof.DWord × List Sys2Proof.Byte),
     Sys2Proof.Claims.memoryClaim h (.ld g d a b e z o) = some c → Sys2Proof.Claims.PointReads s h c → h.k.crew = none →
     (∀ x ∈ c.reqs, x.2.1.toNat % c.size = 0) → Sys2Proof.Claims.Walks s h (c.reqs.map (·.2.1)) → c.reqs = before ++ r :: after →
     (∀ x ∈ before, ∃ y, s.translateLane h c.size c.need x.2.1 = .ok y) → s.translateLane h c.size c.need r.2.1 = .error .page →
     (∀ x ∈ after, s.translateLane h c.size c.need x.2.1 ≠ .error .prot) →
     (∀ w, Sys2Proof.Claims.pondOf s h = some w → Sys2Proof.Machine.pondShut h w = false) →
     (∀ x ∈ c.dest.names, (Sys2Proof.Machine.carriedSet s.heap h.p.ctx).has x = true → h.p.ctx.stateOf x ≠ .empty) →
     ∃ t q k f, Sys2Proof.Machine.exec (.ld g d a b e z o) s = .next t ∧ t.here h.u = some { u := h.u, p := q, k := k } ∧
       q.ctx.pc = h.p.ctx.pc + 4 ∧ q.faults.getLast? = some f ∧ f.dest = c.dest ∧ f.cause = .page ∧ f.lane = r.1 ∧ f.addr = r.2.1 ∧
       f.replay.op = c.op ∧ f.replay.lanes.map (fun l => (l.lane, l.va)) = c.reqs.map (fun x => (x.1, x.2.1)) ∧
       (∀ x ∈ c.dest.names, q.ctx.stateOf x = .pending) ∧ t.mem = s.mem)

/-- R56, R61, R76, R200 to R202: HOME gives the home code of an address, or bit 15 alone where it has none; PTAB and PTAB.FAIL give the two
halves of a post-table entry. They complete, and change nothing but their scalar. R76, R202, R286: FENCE completes once every VALID
entry has OUTST 0 and none is FAULTED, and changes nothing; at user level a FAULTED entry that has drained is E_POSTFAULT; until then it
waits. -/
def Obligations.PostTableHomeAndFence : Prop :=
  (∀ (s : Sys2Proof.Machine.State) (h : Sys2Proof.Machine.Here) (g : Bool) (d : Sys2Proof.SReg),
     (∀ b e o, Sys2Proof.Claims.Walks s h [h.p.ctx.scalVal b.toNat + Sys2Proof.Claims.offsetOf h o 1] →
       Sys2Proof.Claims.RegisterResult s h (.home g d b e o)
       { form := { imm := .any }, guard := Sys2Proof.Claims.pathGuard g, reads := [Sys2Proof.Claims.scalName b]
         scal := some (d, BitVec.ofNat 64 ((s.homeCode (Sys2Proof.Machine.coreUnit h.p.home h.p.core) h.k.regs
           (Sys2Proof.Machine.moduleOf h.p.home) (h.p.ctx.scalVal b.toNat + Sys2Proof.Claims.offsetOf h o 1)).getD (2 ^ 15))) }) ∧
     (∀ n, Sys2Proof.Claims.RegisterResult s h (.ptab g d n)
       { guard := Sys2Proof.Claims.pathGuard g, reads := []
         scal := some (d, BitVec.ofNat 64 (Sys2Proof.Machine.natOfBytes
           (((h.p.ctx.posts.getD n.toNat .free).bytes h.k.regs.window).take 8))) }) ∧
     (∀ n, Sys2Proof.Claims.RegisterResult s h (.ptabFail g d n)
       { guard := Sys2Proof.Claims.pathGuard g, reads := []
         scal := some (d, BitVec.ofNat 64 (Sys2Proof.Machine.natOfBytes
           (((h.p.ctx.posts.getD n.toNat .free).bytes h.k.regs.window).drop 8))) })) ∧
  (∀ (s : Sys2Proof.Machine.State) (h : Sys2Proof.Machine.Here), Sys2Proof.Machine.Admits s h.u h { defer := true } →
     (Sys2Proof.Claims.Fenced h → ∃ t, Sys2Proof.Machine.exec (.fence false) s = .next t ∧
       Sys2Proof.Claims.Completes s t h h.p (Sys2Proof.Claims.nextWord h.p.ctx) h.k) ∧
     ((∃ e ∈ h.p.ctx.posts, e.valid = true ∧ 0 < e.outst) →
       Sys2Proof.Machine.exec (.fence false) s = .next (s.block h.u .fence)) ∧
     ((∀ e ∈ h.p.ctx.posts, e.valid = true → e.outst = 0) → h.p.super = false →
       (∃ e ∈ h.p.ctx.posts, e.valid = true ∧ e.faulted = true) →
       Sys2Proof.Machine.exec (.fence false) s = .next (s.takeTrap h.u { code := .postfault })))

/-- R72 to R74, R203 to R205: STP, ATP and ATP VADD complete when their lanes are aligned, translate and find post-table entries: each lane
is one post in flight, in ascending lane order, counted in its home's entry; the path goes on at once, and no byte of memory has changed
yet. R74, R204: when a lane of a post finds no entry, the lanes before it have been sent. It traps with E_POSTFAULT, naming the lane and
its address, where the entry of its home is FAULTED, or there is none and all eight entries are; it waits where that entry has no room
in OUTST or SEQ, or there is none and no entry is free. R78: a lane that does not translate, lacks permission, or is an ATP to host is
held at once with its cause, when a landing zone has room for its record, and the other lanes go out. Lane offsets are zero-extended
(log 25); that E_POSTFAULT of a post names the lane that finds no entry, and its address, is the model's reading (log 29). -/
def Obligations.PostsComplete : Prop :=
  (∀ (s t : Sys2Proof.Machine.State) (h : Sys2Proof.Machine.Here) (i : Sys2Proof.Instr) (c : Sys2Proof.Claims.PostClaim),
     Sys2Proof.Claims.postClaim h i = some c → Sys2Proof.Machine.Admits s h.u h { imm := .any, defer := true } → c.guard ≠ 15 →
     (∀ r ∈ c.reads, h.p.ctx.stateOf r = .full) → (∀ r ∈ c.reqs, r.2.1.toNat % c.size = 0) →
     Sys2Proof.Claims.PostsGo h.u c s c.reqs t →
     Sys2Proof.Machine.exec i s = .next (t.retire h.u) ∧ (t.retire h.u).mem = s.mem ∧
       (t.retire h.u).flow.posts.length = s.flow.posts.length + c.reqs.length ∧
       ∃ q, (t.retire h.u).path? h.u = some q ∧ q.ctx.pc = h.p.ctx.pc + 4 ∧ q.ctx.scal = h.p.ctx.scal ∧ q.ctx.vst = h.p.ctx.vst ∧
         q.ctx.sst = h.p.ctx.sst ∧ q.ctx.pst = h.p.ctx.pst ∧ q.ctx.fpstat = h.p.ctx.fpstat) ∧
  (∀ (s s1 : Sys2Proof.Machine.State) (h h1 : Sys2Proof.Machine.Here) (i : Sys2Proof.Instr) (c : Sys2Proof.Claims.PostClaim)
     (before after : List (Nat × Sys2Proof.DWord × List Sys2Proof.Byte)) (r : Nat × Sys2Proof.DWord × List Sys2Proof.Byte),
     Sys2Proof.Claims.postClaim h i = some c → Sys2Proof.Machine.Admits s h.u h { imm := .any, defer := true } → c.guard ≠ 15 →
     (∀ r ∈ c.reads, h.p.ctx.stateOf r = .full) → (∀ r ∈ c.reqs, r.2.1.toNat % c.size = 0) → c.reqs = before ++ r :: after →
     Sys2Proof.Claims.PostsGo h.u c s before s1 → s1.here h.u = some h1 → h1.p.ctx.sent.getLsbD r.1 = false →
     Sys2Proof.Claims.Walks s1 h1 [r.2.1] →
     (∀ y, s1.translateLane h1 r.2.2.length c.need r.2.1 = .ok y →
       Sys2Proof.Machine.homeOf y.pa ≠ Sys2Proof.Config.hostHome ∨ c.host = true →
       (∀ n e, Sys2Proof.Machine.findIdx (fun x => x.valid && x.home == Sys2Proof.Machine.homeOf y.pa) h1.p.ctx.posts = some (n, e) →
         (e.faulted = true →
           Sys2Proof.Machine.exec i s = .next (s1.takeTrap h.u { code := .postfault, lane := r.1, addr := r.2.1 })) ∧
         (e.faulted = false → e.outst = 4095 ∨ e.seq = 4194303 → Sys2Proof.Machine.exec i s = .next (s1.block h.u .post))) ∧
       ((∀ e ∈ h1.p.ctx.posts, e.valid = true ∧ e.home ≠ Sys2Proof.Machine.homeOf y.pa) →
         ((∀ e ∈ h1.p.ctx.posts, e.faulted = true) →
           Sys2Proof.Machine.exec i s = .next (s1.takeTrap h.u { code := .postfault, lane := r.1, addr := r.2.1 })) ∧
         ((∃ e ∈ h1.p.ctx.posts, e.faulted = false) → Sys2Proof.Machine.exec i s = .next (s1.block h.u .post)))) ∧
     (∀ home cause n e x s2 t, Sys2Proof.Claims.FailsAtIssue s1 h1 c r home cause → Sys2Proof.Claims.EntryTakes h1.p.ctx home n e →
       s1.writeHeld h1.p.knot { home := h1.p.home, area := 0, op := c.code, type := c.type, cause := cause, addr := r.2.1, lane := r.1
                                seq := e.seq + 1, data := r.2.2 } = some (x, s2) →
       Sys2Proof.Claims.PostsGo h.u c (Sys2Proof.Claims.heldLane s2 h1 n e x r) after t →
       Sys2Proof.Machine.exec i s = .next (t.retire h.u) ∧ x.cause = cause ∧ x.home = h1.p.home ∧ x.seq = e.seq + 1))

/-- R72, R75, R80: a post of the lowest SEQ of its stream whose stream is not held is performed at its home: an STP writes its bytes, an ATP
what its operation makes of the old ones, an ATP VADD the sum of each word with its own, and an acknowledgement sets out; other bytes of
memory do not change. R80, R262: a DEPDEC lowers its node's counter by one; the one that brings it to zero spends the node and releases
its task, for a node that is neither spent nor abandoned and a stamp whose subtree is not cancelled. An acknowledgement sets out; memory
and every path stay as they are. R78: a post whose stream is held, or that meets poison, or that decrements a counter of zero, is held
at its home when the landing zone has room: a record in SEQ order with its cause goes back with the acknowledgement, the stream is held
from the first failure on, and no byte of memory changes. R73, R77: an acknowledgement of a performed post lowers OUTST of its entry by
one; an entry with no operation outstanding and none held is free again. R332: a fabric packet that is sent again changes nothing. That
a packet sent again is an event without effect is the model's reading of R332 (log 43). -/
def Obligations.PostsArePerformed : Prop :=
  (∀ (s : Sys2Proof.Machine.State) (p : Sys2Proof.Machine.Post), Sys2Proof.Claims.PostDue s p → s.streamHeld p = false →
     (s.path? p.path).isSome = true → s.mem.wf = true → p.pa + p.data.length ≤ Sys2Proof.Machine.zoneBase →
     (∀ line ∈ Sys2Proof.Machine.linesOf p.pa p.data.length, Sys2Proof.Machine.spFind line s.mem.lines = none) →
     s.mem.poisoned p.pa p.data.length = false → (∀ l n, p.op ≠ .dec l n) → p.data.length % 4 = 0 →
     ∃ t, Sys2Proof.Machine.exec (.postPerform p.id) s = .next t ∧
       s.mem.SameBut t.mem (fun a => p.pa ≤ a ∧ a < p.pa + p.data.length) ∧
       (let old := s.readMem p.key p.pa p.data.length
        let new := t.readMem p.key p.pa p.data.length
        (p.op = .store → new = p.data) ∧
        (∀ o y, p.op = .atom o y → new = Sys2Proof.Machine.bytesOfNat
          (Sys2Proof.Machine.atomValue o y (Sys2Proof.Machine.natOfBytes old) p.data) p.data.length) ∧
        (∀ half y, p.op = .vadd half y → ∀ i < p.data.length / 4,
          (Sys2Proof.Machine.wordsOfBytes new).getD i 0 = BitVec.ofNat 32 (Sys2Proof.Machine.typeAdd
            (Sys2Proof.Machine.vaddType half y) ((Sys2Proof.Machine.wordsOfBytes old).getD i 0).toNat
            ((Sys2Proof.Machine.wordsOfBytes p.data).getD i 0).toNat))) ∧
       t.flow.posts = s.flow.posts.filter (fun q => q.id != p.id) ∧
       t.flow.acks = s.flow.acks ++ [{ id := s.uid, path := p.path, home := p.home, held := none }] ∧
       ∀ v, t.path? v = s.path? v) ∧
  (∀ (s : Sys2Proof.Machine.State) (p : Sys2Proof.Machine.Post) (l n : Nat) (la : Sys2Proof.Machine.Launch)
     (nd : Sys2Proof.Machine.Node), Sys2Proof.Claims.PostDue s p → s.streamHeld p = false → (s.path? p.path).isSome = true →
     p.op = .dec l n → Sys2Proof.Machine.spFind l s.launches = some la → Sys2Proof.Machine.spFind n la.nodes = some nd →
     nd.counter ≠ 0 →
     ∃ t l2 n2, Sys2Proof.Machine.exec (.postPerform p.id) s = .next t ∧ t.mem = s.mem ∧ t.paths = s.paths ∧
       Sys2Proof.Machine.spFind l t.launches = some l2 ∧ Sys2Proof.Machine.spFind n l2.nodes = some n2 ∧
       n2.counter = nd.counter - 1 ∧ n2.ent = nd.ent ∧ n2.batches = nd.batches ∧
       (nd.counter = 1 → n2.spent = true ∧ (nd.spent = false → nd.abandoned = false → s.cancelledBrood p.stamp = false →
         ∃ w ∈ (t.stk (16 * la.module + nd.ent.home)).work, w.launch = l ∧ w.kind = .task n p.stamp [])) ∧
       (∃ a, t.flow.acks = s.flow.acks ++ [a] ∧ a.path = p.path ∧ a.home = p.home ∧ a.held = none)) ∧
  (∀ (s : Sys2Proof.Machine.State) (p : Sys2Proof.Machine.Post) (cause : Nat), Sys2Proof.Claims.PostDue s p →
     (s.path? p.path).isSome = true →
     (s.takeArea (s.holdHome p) { kind := .record, len := 64, own := some p.knot }).isSome = true →
     (s.streamHeld p = true ∧ cause = 0) ∨
       (s.streamHeld p = false ∧ (∀ l n, p.op ≠ .dec l n) ∧ s.mem.poisoned p.pa p.data.length = true ∧ cause = 3) ∨
       (s.streamHeld p = false ∧ (∃ l n la nd, p.op = .dec l n ∧ Sys2Proof.Machine.spFind l s.launches = some la ∧
         Sys2Proof.Machine.spFind n la.nodes = some nd ∧ nd.counter = 0) ∧ cause = 5) →
     ∃ t r a, Sys2Proof.Machine.exec (.postPerform p.id) s = .next t ∧
       t.flow.posts = s.flow.posts.filter (fun q => q.id != p.id) ∧ t.flow.acks = s.flow.acks ++ [a] ∧ a.path = p.path ∧
       a.home = p.home ∧ a.held = some r ∧ r.home = s.holdHome p ∧ r.op = p.code ∧ r.type = p.type ∧ r.cause = cause ∧ r.addr = p.va ∧
       r.lane = p.lane ∧ r.seq = p.seq ∧ r.data = p.data ∧ t.streamHeld p = true ∧ t.paths = s.paths ∧ t.launches = s.launches ∧
       ∀ key a, a < Sys2Proof.Machine.zoneBase → t.mem.readByte key a = s.mem.readByte key a) ∧
  ((∀ (s : Sys2Proof.Machine.State) (a : Sys2Proof.Machine.Ack) (h : Sys2Proof.Machine.Here) (i : Nat) (e : Sys2Proof.Machine.PostEntry)
     (seat : Sys2Proof.Machine.Seat),
     (s.flow.acks.find? fun x => x.id == a.id) = some a → s.here a.path = some h → a.held = none →
     Sys2Proof.Machine.findIdx (fun x => x.valid && x.home == a.home) h.p.ctx.posts = some (i, e) → e.held = [] →
     h.p.place = .resident seat →
     let e1 : Sys2Proof.Machine.PostEntry := if e.outst - 1 = 0 ∧ e.faulted = false then .free else { e with outst := e.outst - 1 }
     ∃ t, Sys2Proof.Machine.exec (.postAcknowledgement a.id) s = .next t ∧
       t.here a.path = some { h with p := { h.p with ctx := { h.p.ctx with posts := h.p.ctx.posts.modify i fun _ => e1 } } } ∧
       t.flow.acks = s.flow.acks.filter (fun x => x.id != a.id) ∧ t.flow.posts = s.flow.posts ∧ t.mem = s.mem ∧
       ∀ v, v ≠ a.path → t.path? v = s.path? v) ∧
   ∀ (s : Sys2Proof.Machine.State) (n : Nat), Sys2Proof.Machine.exec (.fabricPacketResend n) s = .next s)

/-- R82 to R84, R208 to R210: PLD, PST and PATM of a crew knot complete: PLD and PATM read the single copy or the present plane and leave
their destination empty with the values on their way; PST writes the bytes of its lanes in the single copy, the highest lane last, or
records each word that a lane covers for that writer of the next plane, and leaves every other byte and record of the pad; memory does
not change. R82, R83: a pad access traps at its first misaligned lane with E_ALIGN, else at the first lane past the end of the pad with
E_BOUND, else, for PATM and stores below four bytes, at the first lane in a plane region with E_PLANE. Lane offsets are zero-extended
(log 25). -/
def Obligations.PadAccesses : Prop :=
  (∀ (s : Sys2Proof.Machine.State) (h : Sys2Proof.Machine.Here) (i : Sys2Proof.Instr) (c : Sys2Proof.Claims.PadClaim)
     (cn slot : Nat) (w : Sys2Proof.Machine.Crew),
     Sys2Proof.Claims.padClaim h i = some c → Sys2Proof.Claims.PadGoes s h c cn slot w →
     ∃ t, Sys2Proof.Machine.exec i s = .next (t.retire h.u) ∧ (∀ key a, (t.retire h.u).mem.readByte key a = s.mem.readByte key a) ∧
       (c.reqs = [] → t = s) ∧
       (c.reqs ≠ [] →
         (∀ g d a b e z o, i = .pld g d a b e z o → s.perform h
           { op := .padLoad z, dest := c.dest, lanes := c.reqs.map Sys2Proof.Claims.padLane, group := h.p.groupPc } = some t) ∧
         (∀ g d a b e o y, i = .patm g d a b e o y → s.perform h
           { op := .padAtom o y.atom, dest := c.dest, lanes := c.reqs.map Sys2Proof.Claims.padLane, group := h.p.groupPc } = some t) ∧
         (∀ g x a b e z o, i = .pst g x a b e z o → t = s.modCrew cn fun v =>
           (c.reqs.map Sys2Proof.Claims.padLane).foldl (fun v l => v.padStore slot z.bytes l) v) ∧
         (∀ g x a b e z o, i = .pst g x a b e z o → Sys2Proof.Machine.cellsWf w.pad = true →
           ∃ v, Sys2Proof.Machine.spFind cn t.crews = some v ∧ Sys2Proof.Claims.PadStored w v slot z.bytes c.reqs ∧
             t.paths = s.paths ∧ t.knots = s.knots ∧
             ∀ j, j ≠ cn → Sys2Proof.Machine.spFind j t.crews = Sys2Proof.Machine.spFind j s.crews) ∧
         ((∀ r ∈ c.reqs, w.poisoned r.2.1.toNat c.size = false) → ∀ rs, c.dest = .vec rs →
           (∀ g d a b e z o, i = .pld g d a b e z o → Sys2Proof.Machine.spFind cn t.crews = some w ∧
             Sys2Proof.Claims.Sent t h.u rs (rs.zipIdx.map fun x => (x.1, c.reqs.map fun r =>
               (r.1, (Sys2Proof.Machine.loadWords z (Sys2Proof.Machine.cellRead w.pad r.2.1.toNat z.bytes)).getD x.2 0)))) ∧
           (∀ g d a b e o y, i = .patm g d a b e o y → ∃ bs v, Sys2Proof.Machine.spFind cn t.crews = some v ∧
             Sys2Proof.Claims.PadAtomsRun o y.atom w.pad (c.reqs.map Sys2Proof.Claims.padLane) bs v.pad ∧ v.next = w.next ∧
             Sys2Proof.Claims.Sent t h.u rs (rs.zipIdx.map fun x => (x.1, (c.reqs.zip bs).map fun r =>
               (r.1.1, (Sys2Proof.Machine.wordsOfBytes r.2).getD x.2 0))))))) ∧
  (∀ (s : Sys2Proof.Machine.State) (h : Sys2Proof.Machine.Here) (i : Sys2Proof.Instr) (c : Sys2Proof.Claims.PadClaim)
     (cn slot : Nat) (w : Sys2Proof.Machine.Crew) (before after : List (Nat × Sys2Proof.DWord × List Sys2Proof.Byte))
     (r : Nat × Sys2Proof.DWord × List Sys2Proof.Byte),
     Sys2Proof.Claims.padClaim h i = some c → Sys2Proof.Machine.Admits s h.u h { imm := .any } → c.guard ≠ 15 →
     (∀ x ∈ c.reads, h.p.ctx.stateOf x = .full) → h.k.crew = some (cn, slot) → Sys2Proof.Machine.spFind cn s.crews = some w →
     c.reqs = before ++ r :: after →
     ((∀ x ∈ before, x.2.1.toNat % c.size = 0) → r.2.1.toNat % c.size ≠ 0 →
       Sys2Proof.Machine.exec i s = .next (s.takeTrap h.u { code := .align, lane := r.1, addr := r.2.1 })) ∧
     ((∀ x ∈ c.reqs, x.2.1.toNat % c.size = 0) → (∀ x ∈ before, x.2.1.toNat + c.size ≤ w.padSize) →
       (w.padSize < r.2.1.toNat + c.size →
         Sys2Proof.Machine.exec i s = .next (s.takeTrap h.u { code := .bound, lane := r.1, addr := r.2.1 })) ∧
       ((∀ x ∈ c.reqs, x.2.1.toNat + c.size ≤ w.padSize) → c.flat = true → (∀ x ∈ before, w.inPlane x.2.1.toNat = false) →
         w.inPlane r.2.1.toNat = true →
         Sys2Proof.Machine.exec i s = .next (s.takeTrap h.u { code := .plane, lane := r.1, addr := r.2.1 }))))

/-- R85, R86, R211, R289: PSTEP outside a crew traps with E_PLANE, and by a crew knot of several paths with E_DIVERGED. A crew knot of one
path arrives at PSTEP; the arrival that leaves no knot of the crew to wait for steps every plane region when no word of a FAULT region
collides; when one does, no plane steps, and E_COLLIDE, with the offset of the lowest such word and its lowest writer's lane, is taken
by the knot of lowest slot, which is no more among the arrivals. A knot whose step is over completes. R84 to R86: at a step every word
of a plane region that has writers takes the value that the region's rule gives, and any other the value that it has in the next plane;
the new next plane is zero in a CLEAR region and a copy otherwise; no byte outside the region changes. R53: a path whose wait at its
instruction is over continues after its whole issue group with the watchdog count zero, and nothing else changes. That E_PLANE is found
before E_DIVERGED is the model's choice (log 46). -/
def Obligations.PlaneStepCompletes : Prop :=
  (∀ (s : Sys2Proof.Machine.State) (h : Sys2Proof.Machine.Here), Sys2Proof.Machine.Admits s h.u h .plain →
     (h.k.crew = none → Sys2Proof.Machine.exec (.pstep false) s = .next (s.takeTrap h.u { code := .plane })) ∧
     (∀ c, h.k.crew = some c → s.siblings h.p.knot h.u ≠ [] →
       Sys2Proof.Machine.exec (.pstep false) s = .next (s.takeTrap h.u { code := .diverged })) ∧
     (∀ c slot w, h.k.crew = some (c, slot) → s.siblings h.p.knot h.u = [] → Sys2Proof.Machine.spFind c s.crews = some w →
       (∀ off lane low u p, h.p.pend ≠ .step → { w with arrived := slot :: w.arrived }.allArrived = true →
         Sys2Proof.Machine.spRising none w.writers = true → Sys2Proof.Claims.Collides w off lane → s.lowestLive c = some (low, u) →
         s.path? u = some p → ∃ (t : Sys2Proof.Machine.State) (q : Sys2Proof.Machine.Path),
           Sys2Proof.Machine.exec (.pstep false) s = .next (t.takeTrap u
             { code := .collide, lane := lane, addr := BitVec.ofNat 64 off }) ∧
           Sys2Proof.Machine.spFind c t.crews = some { w with
             arrived := (slot :: w.arrived).filter (· != low), collided := some (off, lane) } ∧
           t.path? u = some q ∧ q.ctx = p.ctx ∧ q.pend = .none ∧ t.mem = s.mem) ∧
       (h.p.pend ≠ .step → ∃ t, Sys2Proof.Machine.exec (.pstep false) s = .next t ∧
         ({ w with arrived := slot :: w.arrived }.allArrived = true → { w with arrived := slot :: w.arrived }.collision = none →
           Sys2Proof.Machine.spFind c t.crews = some { w with arrived := slot :: w.arrived }.stepped ∧ t.mem = s.mem) ∧
         ({ w with arrived := slot :: w.arrived }.allArrived = false →
           Sys2Proof.Machine.spFind c t.crews = some { w with arrived := slot :: w.arrived } ∧ t.mem = s.mem ∧
           ∃ q, t.path? h.u = some q ∧ q.pend = .step ∧ q.wait = some .barrier ∧ q.ctx = h.p.ctx ∧
             q.blockedCycle = (s.stk h.p.home).cycles)) ∧
       (h.p.pend = .step → w.arrived.contains slot = false → ∃ t q, Sys2Proof.Machine.exec (.pstep false) s = .next t ∧
         t.here h.u = some { u := h.u, p := q, k := h.k } ∧ q.ctx = Sys2Proof.Claims.releasedCtx s h ∧ q.pend = .none ∧
         s.SameRest t h.u h.p.knot ∧ ∀ key a, t.mem.readByte key a = s.mem.readByte key a))) ∧
  (∀ (w : Sys2Proof.Machine.Crew) (n : Nat) (r : Sys2Proof.Machine.Region), r.plane = true → r.start % 4 = 0 → r.length % 4 = 0 →
     Sys2Proof.Machine.cellsWf w.pad = true → Sys2Proof.Machine.cellsWf w.next = true →
     Sys2Proof.Machine.spRising none w.writers = true →
     (∀ j, r.start ≤ 4 * j → 4 * j < r.start + r.length →
       Sys2Proof.Machine.cellWord (w.stepRegion n r).pad (4 * j) =
         (match Sys2Proof.Machine.spFind j w.writers with
         | some ws => Sys2Proof.Claims.resolvedWord r.rule (Sys2Proof.Machine.cellWord w.next (4 * j)) (ws.map (·.2))
         | none => Sys2Proof.Machine.cellWord w.next (4 * j)) ∧
       Sys2Proof.Machine.cellWord (w.stepRegion n r).next (4 * j) =
         if r.clear = true then 0 else Sys2Proof.Machine.cellWord (w.stepRegion n r).pad (4 * j)) ∧
     ∀ a, a < r.start ∨ r.start + r.length ≤ a →
       Sys2Proof.Machine.cellGet (w.stepRegion n r).pad a = Sys2Proof.Machine.cellGet w.pad a ∧
       Sys2Proof.Machine.cellGet (w.stepRegion n r).next a = Sys2Proof.Machine.cellGet w.next a) ∧
  (∀ (s : Sys2Proof.Machine.State) (h : Sys2Proof.Machine.Here), s.here h.u = some h →
     ∃ q, (s.release h.u).here h.u = some { u := h.u, p := q, k := h.k } ∧ q.ctx = Sys2Proof.Claims.releasedCtx s h ∧
       q.pend = .none ∧ q.wait = none ∧ h.p.Keeps q ∧ s.SameRest (s.release h.u) h.u h.p.knot)

/-- R213, R214: an arrival of a single-path knot at a barrier that its launch counts, with no pending BARA of the barrier and its posts
fenced, joins the current phase. BARA records the phase as pending and goes on; BAR stays until the phase completes. BAR and BARW
complete when their phase has its arrivals, and BARW clears the pending record; BARW without one is E_BARRIER. -/
def Obligations.BarriersComplete : Prop :=
  ∀ (s : Sys2Proof.Machine.State) (h : Sys2Proof.Machine.Here) (i : BitVec 4) (x : Sys2Proof.Scope),
    Sys2Proof.Machine.Admits s h.u h .plain →
    (∀ p, s.siblings h.p.knot h.u = [] → h.k.bara x i.toNat = none → s.phaseFor h x i.toNat = some p → Sys2Proof.Claims.Fenced h →
      (Sys2Proof.Machine.exec (.bara false i x) s = .next
        ((((s.currentPhase p).2.arriveAt (s.currentPhase p).1 (if p.crew.isSome = true then h.k.crew.map (·.2) else none)).modKnot
          h.p.knot fun k => { k with baras := k.baras ++ [(x, i.toNat, (s.currentPhase p).1)] }).retire h.u)) ∧
      ((∀ ph, h.p.pend ≠ .barrier ph) → Sys2Proof.Machine.exec (.bar false i x) s = .next
        (((s.currentPhase p).2.arriveAt (s.currentPhase p).1 (if p.crew.isSome = true then h.k.crew.map (·.2) else none)).modPath
          h.u fun q => { q with pend := .barrier (s.currentPhase p).1, wait := some (.phase (s.currentPhase p).1)
                                blockedCycle := (s.stk h.p.home).cycles }))) ∧
    (∀ ph q, h.p.pend = .barrier ph → s.phase? ph = some q →
      (q.complete = true → Sys2Proof.Machine.exec (.bar false i x) s = .next ((s.release h.u).dropPhase ph)) ∧
      (q.complete = false → Sys2Proof.Machine.exec (.bar false i x) s = .next (s.block h.u (.phase ph)))) ∧
    (∀ ph q a b, h.k.bara x i.toNat = some (a, b, ph) → s.phase? ph = some q →
      (q.complete = true → Sys2Proof.Machine.exec (.barw false i x) s = .next
        (((s.modKnot h.p.knot fun k => { k with baras := k.baras.filter fun e => !(e.1 == x && e.2.1 == i.toNat) }).release
          h.u).dropPhase ph)) ∧
      (q.complete = false → Sys2Proof.Machine.exec (.barw false i x) s = .next (s.block h.u (.phase ph)))) ∧
    (h.k.bara x i.toNat = none → Sys2Proof.Machine.exec (.barw false i x) s = .next (s.takeTrap h.u { code := .barrier }))

/-- R219, R221, R222, R224 to R228: TCFG, TLD, TST, TZERO and WLD of an engine crew complete by queuing their operation for the matrix unit,
once their operands pass the checks: the word of TCFG is legal; the ranges of TLD and TST are aligned, inside the pad and outside every
plane region; the tile of WLD is configured, and a pair for 16-bit elements. -/
def Obligations.TileOperationsQueue : Prop :=
  ∀ (s : Sys2Proof.Machine.State) (h : Sys2Proof.Machine.Here) (n slot : Nat) (w : Sys2Proof.Machine.Crew)
    (e : Sys2Proof.Machine.Engine) (x : Sys2Proof.Tile),
    Sys2Proof.Machine.Admits s h.u h { matrix := true } → Sys2Proof.Claims.HasEngine s h n slot w e →
    (∀ y f, h.p.ctx.scalState y.toNat = .full → Sys2Proof.Machine.cfgOk (h.p.ctx.scalVal y.toNat) = true →
      ∃ t, Sys2Proof.Machine.exec (.tcfg false x y f) s = .next t ∧
        Sys2Proof.Claims.EngineDone s t h (Sys2Proof.Claims.nextWord h.p.ctx) h.k n w
          { Sys2Proof.Claims.queued e h (.config x.toNat (h.p.ctx.scalVal y.toNat)) with
            cfgs := Sys2Proof.Machine.spPut x.toNat (h.p.ctx.scalVal y.toNat) e.cfgs }) ∧
    (∀ y z f f' c, h.p.ctx.scalState y.toNat = .full → h.p.ctx.scalState z.toNat = .full → e.cfg x.toNat = some c →
      (Sys2Proof.Machine.cfgBx c = true ∨ z = 0) →
      (∀ r ∈ Sys2Proof.Machine.tileRanges c (h.p.ctx.scalVal y.toNat).toNat (h.p.ctx.scalVal z.toNat).toNat,
        r.1 % (if Sys2Proof.Machine.cfgBx c = true then 32 else 16) = 0 ∧ r.1 + r.2 ≤ w.padSize ∧ w.touchesPlane r.1 r.2 = false) →
      (∃ t, Sys2Proof.Machine.exec (.tld false x y z f f') s = .next t ∧
        Sys2Proof.Claims.EngineDone s t h (Sys2Proof.Claims.nextWord h.p.ctx) h.k n w (Sys2Proof.Claims.queued e h
          (.load x.toNat (h.p.ctx.scalVal y.toNat).toNat (h.p.ctx.scalVal z.toNat).toNat))) ∧
      (∃ t, Sys2Proof.Machine.exec (.tst false x y z f f') s = .next t ∧
        Sys2Proof.Claims.EngineDone s t h (Sys2Proof.Claims.nextWord h.p.ctx) h.k n w (Sys2Proof.Claims.queued e h
          (.store x.toNat (h.p.ctx.scalVal y.toNat).toNat (h.p.ctx.scalVal z.toNat).toNat)))) ∧
    (∃ t, Sys2Proof.Machine.exec (.tzero false x) s = .next t ∧
      Sys2Proof.Claims.EngineDone s t h (Sys2Proof.Claims.nextWord h.p.ctx) h.k n w
        (Sys2Proof.Claims.queued e h (.zero x.toNat))) ∧
    (∀ y f c, h.p.ctx.scalState y.toNat = .full → e.cfg x.toNat = some c →
      (Sys2Proof.Machine.cfgWide c = true → x ≠ 15 ∧ e.pairOk x.toNat c = true) →
      ∃ t, Sys2Proof.Machine.exec (.wld false x y f) s = .next t ∧
        Sys2Proof.Claims.EngineDone s t h (Sys2Proof.Claims.nextWord h.p.ctx) h.k n w
          { Sys2Proof.Claims.queued e h (.weights x.toNat ((h.p.ctx.scalVal y.toNat).setWidth 32)) with
            fmt := some (Sys2Proof.Machine.cfgType c) })

/-- R222, R230: MMA and MMAS complete by queuing a multiply of the effective rows, with a scale for each row in MMAS, when the unit holds
the accumulator's token and the formats agree. MBATCH closes the open batch and gives its number; MWAIT completes when no operation of
the knot's batches up to its operand is queued, and waits until then. -/
def Obligations.MultipliesQueue : Prop :=
  ∀ (s : Sys2Proof.Machine.State) (h : Sys2Proof.Machine.Here) (n slot : Nat) (w : Sys2Proof.Machine.Crew)
    (e : Sys2Proof.Machine.Engine),
    Sys2Proof.Machine.Admits s h.u h { matrix := true } → Sys2Proof.Claims.HasEngine s h n slot w e →
    (∀ g a x k i c, g ≠ 15 → h.p.ctx.stateOf (Sys2Proof.Claims.guardName g) = .full → Sys2Proof.Claims.Token h e a i true →
      Sys2Proof.Claims.MultiplyOk e x k c →
      (∃ t, Sys2Proof.Machine.exec (.mma g a x k) s = .next t ∧
        Sys2Proof.Claims.EngineDone s t h (Sys2Proof.Claims.nextWord h.p.ctx) h.k n w
          (Sys2Proof.Claims.queued e h (.multiply i x.toNat k (Sys2Proof.Claims.rowsOf h g c) none))) ∧
      (∀ v f, h.p.ctx.stateOf (Sys2Proof.Claims.vecName h v) = .full →
        ∃ t, Sys2Proof.Machine.exec (.mmas g a x v f k) s = .next t ∧
          Sys2Proof.Claims.EngineDone s t h (Sys2Proof.Claims.nextWord h.p.ctx) h.k n w
            (Sys2Proof.Claims.queued e h (.multiply i x.toNat k (Sys2Proof.Claims.rowsOf h g c)
              (some ((Sys2Proof.Claims.rowsOf h g c).map (Sys2Proof.Claims.laneOf h v))))))) ∧
    (∀ d, h.p.ctx.scalState d.toNat ≠ .empty → ∃ t c, Sys2Proof.Machine.exec (.mbatch false d) s = .next t ∧
      Sys2Proof.Claims.EngineDone s t h (Sys2Proof.Claims.nextWord c) { h.k with batch := h.k.batch + 1 } n w e ∧
      c.pc = h.p.ctx.pc ∧ c.vst = h.p.ctx.vst ∧ c.pst = h.p.ctx.pst ∧ c.fpstat = h.p.ctx.fpstat ∧ h.p.ctx.Keeps c ∧
      ∀ r : Sys2Proof.SReg, c.scalVal r.toNat =
        if r = d ∧ d ≠ 0 then BitVec.ofNat 64 (h.k.batch + 1) else h.p.ctx.scalVal r.toNat) ∧
    (∀ y f, h.p.ctx.scalState y.toNat = .full → (h.p.ctx.scalVal y.toNat).toNat ≤ h.k.batch →
      ((∀ op ∈ e.queue, op.knot = h.p.knot → (h.p.ctx.scalVal y.toNat).toNat < op.batch) →
        ∃ t, Sys2Proof.Machine.exec (.mwait false y f) s = .next t ∧
          Sys2Proof.Claims.Completes s t h h.p (Sys2Proof.Claims.nextWord h.p.ctx) h.k) ∧
      ((∃ op ∈ e.queue, op.knot = h.p.knot ∧ op.batch ≤ (h.p.ctx.scalVal y.toNat).toNat) →
        Sys2Proof.Machine.exec (.mwait false y f) s = .next (s.block h.u .matrix)))

/-- R231 to R234: ACCGET joins the accumulator queue, and completes with the mask of the granted accumulators once its request has been
taken; ACCPUT frees the knot's accumulators when no operation names one; ACQ takes an idle accumulator's token and REL gives it back;
ACCRD and ACCRD.4 leave their group empty with the elements of each lane's row on their way; ACCWR and ACCWR.4 write them. -/
def Obligations.AccumulatorsComplete : Prop :=
  ∀ (s : Sys2Proof.Machine.State) (h : Sys2Proof.Machine.Here) (n slot : Nat) (w : Sys2Proof.Machine.Crew)
    (e : Sys2Proof.Machine.Engine),
    Sys2Proof.Machine.Admits s h.u h { matrix := true } → Sys2Proof.Claims.HasEngine s h n slot w e →
    (∀ d k, h.p.ctx.scalState d.toNat ≠ .empty → (∀ r ∈ e.accQueue, r.1 ≠ h.p.knot) →
      (h.p.pend = .accget → ∃ t c, Sys2Proof.Machine.exec (.accget false d k) s = .next t ∧
        Sys2Proof.Claims.Completes s t h h.p (Sys2Proof.Claims.nextWord c) h.k ∧ c.pc = h.p.ctx.pc ∧ c.vst = h.p.ctx.vst ∧
        c.pst = h.p.ctx.pst ∧ c.fpstat = h.p.ctx.fpstat ∧
        ∀ r : Sys2Proof.SReg, c.scalVal r.toNat = if r = d ∧ d ≠ 0
          then BitVec.ofNat 64 (h.k.accs.foldl (fun m i => m + 2 ^ i) 0) else h.p.ctx.scalVal r.toNat) ∧
      (h.p.pend ≠ .accget → h.k.accs = [] → ∃ t q, Sys2Proof.Machine.exec (.accget false d k) s = .next t ∧
        t.path? h.u = some q ∧ q.pend = .accget ∧ q.wait = some .accumulator ∧ q.ctx = h.p.ctx ∧
        Sys2Proof.Machine.spFind n t.crews =
          some { w with engine := some { e with accQueue := e.accQueue ++ [(h.p.knot, k.toNat)] } }) ∧
      (h.p.pend ≠ .accget → h.k.accs ≠ [] →
        Sys2Proof.Machine.exec (.accget false d k) s = .next (s.takeTrap h.u { code := .nested }))) ∧
    ((∀ op ∈ e.queue, op.knot = h.p.knot → ∀ a x k r z, op.kind ≠ .multiply a x k r z) →
      ∃ t, Sys2Proof.Machine.exec (.accput false) s = .next t ∧
        Sys2Proof.Claims.EngineDone s t h (Sys2Proof.Claims.nextWord h.p.ctx) { h.k with accs := [] } n w
          { e with accs := e.accs.filter fun a => a.2.owner != some h.p.knot }) ∧
    (∀ a i, Sys2Proof.Claims.Token h e a i true → (∀ op ∈ e.queue, ∀ x k r z, op.kind ≠ .multiply i x k r z) →
      ∃ t, Sys2Proof.Machine.exec (.acq false a) s = .next t ∧
        Sys2Proof.Claims.EngineDone s t h (Sys2Proof.Claims.nextWord h.p.ctx) h.k n w
          { e with accs := Sys2Proof.Machine.spPut i { e.acc i with unit := false } e.accs }) ∧
    (∀ a i, Sys2Proof.Claims.Token h e a i false →
      (∃ t, Sys2Proof.Machine.exec (.rel false a) s = .next t ∧
        Sys2Proof.Claims.EngineDone s t h (Sys2Proof.Claims.nextWord h.p.ctx) h.k n w
          { e with accs := Sys2Proof.Machine.spPut i { e.acc i with unit := true } e.accs }) ∧
      ∀ (g : Sys2Proof.Guard) (v : Sys2Proof.VReg) (z : Sys2Proof.SReg) (f f' : Bool), g ≠ 15 →
        h.p.ctx.stateOf (Sys2Proof.Claims.guardName g) = .full → h.p.ctx.scalState z.toNat = .full →
        (h.p.ctx.scalVal z.toNat).toNat < 128 →
        ((h.p.ctx.stateOf (Sys2Proof.Claims.vecName h v) ≠ .empty → Sys2Proof.Claims.accRows h g ≠ [] →
          ∃ t, Sys2Proof.Machine.exec (.accrd g v a z f) s = .next (t.retire h.u) ∧ t.mem = s.mem ∧ s.perform h
            { op := .accRead i (h.p.ctx.scalVal z.toNat).toNat 1, dest := .vec (Sys2Proof.Claims.groupRegs h v.toNat 1)
              lanes := (Sys2Proof.Claims.accRows h g).map fun l => { lane := l, va := 0, pa := 0, key := none, data := [] }
              group := h.p.groupPc } = some t ∧ Sys2Proof.Claims.AccSent t h g v e i (h.p.ctx.scalVal z.toNat).toNat 1) ∧
        ((h.p.ctx.scalVal z.toNat).toNat % 4 = 0 → (∀ r ∈ Sys2Proof.Claims.groupNames h v.toNat 4, h.p.ctx.stateOf r ≠ .empty) →
          Sys2Proof.Claims.accRows h g ≠ [] →
          ∃ t, Sys2Proof.Machine.exec (.accrd4 g v a z f) s = .next (t.retire h.u) ∧ t.mem = s.mem ∧ s.perform h
            { op := .accRead i (h.p.ctx.scalVal z.toNat).toNat 4, dest := .vec (Sys2Proof.Claims.groupRegs h v.toNat 4)
              lanes := (Sys2Proof.Claims.accRows h g).map fun l => { lane := l, va := 0, pa := 0, key := none, data := [] }
              group := h.p.groupPc } = some t ∧ Sys2Proof.Claims.AccSent t h g v e i (h.p.ctx.scalVal z.toNat).toNat 4) ∧
        (h.p.ctx.stateOf (Sys2Proof.Claims.vecName h v) = .full →
          ∃ t, Sys2Proof.Machine.exec (.accwr g a v z f f') s = .next t ∧
            Sys2Proof.Claims.EngineDone s t h (Sys2Proof.Claims.nextWord h.p.ctx) h.k n w
              { e with accs := Sys2Proof.Machine.spPut i ((Sys2Proof.Claims.accRows h g).foldl (fun r l =>
                  r.put l (h.p.ctx.scalVal z.toNat).toNat (Sys2Proof.Claims.laneOf h v l)) (e.acc i)) e.accs }) ∧
        ((h.p.ctx.scalVal z.toNat).toNat % 4 = 0 → (∀ r ∈ Sys2Proof.Claims.groupNames h v.toNat 4, h.p.ctx.stateOf r = .full) →
          ∃ t, Sys2Proof.Machine.exec (.accwr4 g a v z f f') s = .next t ∧
            Sys2Proof.Claims.EngineDone s t h (Sys2Proof.Claims.nextWord h.p.ctx) h.k n w
              { e with accs := Sys2Proof.Machine.spPut i ((Sys2Proof.Claims.accRows h g).foldl (fun r l =>
                  (List.range 4).foldl (fun r j => r.put l ((h.p.ctx.scalVal z.toNat).toNat + j)
                    (h.k.lane (h.p.ctx.base + (v.toNat + j)) l)) r) (e.acc i)) e.accs })))

/-- R5, R217, R224, R238: on a part without matrix units every matrix instruction traps with E_ABSENT, whatever its guard. Elsewhere, a
matrix instruction of a knot outside an engine crew, or of a crew without an engine, traps with E_MATRIX unless it is under the
never-guard, and a handle instruction of such a knot with E_HANDLE. R121, R130: a movement instruction of a knot, and every instruction
outside the movement subset on a movement processor, is E_ILLEGAL: the knot traps; the movement processor stops on a movement fault at
issue. -/
def Obligations.EngineRefusals : Prop :=
  (∀ (s : Sys2Proof.Machine.State) (h : Sys2Proof.Machine.Here) (i : Sys2Proof.Instr),
     (Sys2Proof.Claims.isMatrix i = true → s.cur = .path h.u → s.here h.u = some h →
       Sys2Proof.Machine.hintsMisused { matrix := true } h.p.hints = false →
       (s.strap.hasMatrix = false → Sys2Proof.Machine.exec i s = .next (s.takeTrap h.u { code := .absent })) ∧
       (s.strap.hasMatrix = true → Sys2Proof.Claims.neverForm i = none → h.p.unperformed = [] → Sys2Proof.Claims.NoEngine s h →
         Sys2Proof.Machine.exec i s = .next (s.takeTrap h.u { code := .matrix }))) ∧
     (Sys2Proof.Claims.isHandle i = true → Sys2Proof.Machine.Admits s h.u h .plain → Sys2Proof.Claims.NoEngine s h →
       Sys2Proof.Machine.exec i s = .next (s.takeTrap h.u { code := .handle }))) ∧
  ((∀ (s : Sys2Proof.Machine.State) (h : Sys2Proof.Machine.Here) (i : Sys2Proof.Instr), Sys2Proof.Machine.Admits s h.u h .plain →
     Sys2Proof.Claims.isMovement i = true → Sys2Proof.Machine.exec i s = .next (s.takeTrap h.u { code := .illegal })) ∧
   ∀ (s : Sys2Proof.Machine.State) (m : Sys2Proof.Machine.MHere) (i : Sys2Proof.Instr), Sys2Proof.Claims.MovesOn s m →
     (Sys2Proof.encode i).isSome = true → Sys2Proof.Claims.inSubset i = false →
     Sys2Proof.Machine.exec i s = .next (s.moveFault m.c .illegal 0 0))

/-- R236, R238, R239: HWAIT completes once its handle is full or draining; HANY gives the lowest full handle of its mask; HALL completes
when every handle of its mask is full or draining; HFIRST gives the lowest full one, or all ones; HCLAIM takes a full handle to draining
and HFREE a draining one to free with EXP and CRED zero; HSIG adds a word to a mailbox of fewer than 16. -/
def Obligations.HandlesComplete : Prop :=
  ∀ (s : Sys2Proof.Machine.State) (h : Sys2Proof.Machine.Here) (n slot : Nat) (w : Sys2Proof.Machine.Crew)
    (e : Sys2Proof.Machine.Engine), Sys2Proof.Claims.HasEngine s h n slot w e →
    (∀ d a f i, (List.range 64).find? (fun i => (h.p.ctx.scalVal a.toNat).getLsbD i && e.full i) = some i →
      Sys2Proof.Claims.RegisterResult s h (.hany d a f)
        { defer := false, reads := [Sys2Proof.Claims.scalName a], scal := some (d, BitVec.ofNat 64 i) }) ∧
    (∀ d a f, Sys2Proof.Claims.RegisterResult s h (.hfirst d a f)
      { defer := false, reads := [Sys2Proof.Claims.scalName a]
        scal := some (d, match (List.range 64).find? (fun i => (h.p.ctx.scalVal a.toNat).getLsbD i && e.full i) with
          | some i => BitVec.ofNat 64 i
          | none => BitVec.allOnes 64) }) ∧
    (Sys2Proof.Machine.Admits s h.u h .plain →
      (∀ x : Sys2Proof.Handle, ((e.handle x.toNat).state = .full ∨ (e.handle x.toNat).state = .draining →
          ∃ t, Sys2Proof.Machine.exec (.hwait x) s = .next t ∧
            Sys2Proof.Claims.Completes s t h h.p (Sys2Proof.Claims.nextWord h.p.ctx) h.k) ∧
        ((e.handle x.toNat).state = .full → ∃ t, Sys2Proof.Machine.exec (.hclaim x) s = .next t ∧
          Sys2Proof.Claims.EngineDone s t h (Sys2Proof.Claims.nextWord h.p.ctx) h.k n w
            (e.setHandle x.toNat { e.handle x.toNat with state := .draining })) ∧
        ((e.handle x.toNat).state = .draining → ∃ t, Sys2Proof.Machine.exec (.hfree x) s = .next t ∧
          Sys2Proof.Claims.EngineDone s t h (Sys2Proof.Claims.nextWord h.p.ctx) h.k n w
            (e.setHandle x.toNat { e.handle x.toNat with state := .free, exp := 0, cred := 0 })) ∧
        ((e.handle x.toNat).state ≠ .draining →
          Sys2Proof.Machine.exec (.hfree x) s = .next (s.takeTrap h.u { code := .handle }))) ∧
      (∀ a f, h.p.ctx.scalState a.toNat = .full →
        ((∀ i < 64, (h.p.ctx.scalVal a.toNat).getLsbD i = true →
            (e.handle i).state = .full ∨ (e.handle i).state = .draining) →
          ∃ t, Sys2Proof.Machine.exec (.hall a f) s = .next t ∧
            Sys2Proof.Claims.Completes s t h h.p (Sys2Proof.Claims.nextWord h.p.ctx) h.k) ∧
        (e.mailbox.length < 16 → ∃ t, Sys2Proof.Machine.exec (.hsig a f) s = .next t ∧
          Sys2Proof.Claims.EngineDone s t h (Sys2Proof.Claims.nextWord h.p.ctx) h.k n w
            { e with mailbox := e.mailbox ++ [(h.p.ctx.scalVal a.toNat).setWidth 32] })))

/-- R242 to R244: COPY, COPY2D, GATHER and SCATTER complete at issue when their descriptor is aligned and legal and their handle open: the
sectors that end at or below SEND are numbered, their count is in g[dest], and the copy is in flight; an empty list starts none. GATHER
and SCATTER read their whole index list first, in one step where no choice is given; with a choice they read one index more, and read on
at a later step. R236, R246: MPWAIT takes the first mailbox word; HSET gives a free handle its expected count, full at once when as much
is credited, and HEXP adds to a filling one's; MPFENCE completes when no copy is in flight; MPEND then ends the movement program. That
GATHER and SCATTER read their whole index list in one step, or one index for each choice of the schedule, is the model's (log 23, log
4). -/
def Obligations.MovementCompletes : Prop :=
  (∀ (s : Sys2Proof.Machine.State) (m : Sys2Proof.Machine.MHere) (x : Sys2Proof.Handle) (g d : Sys2Proof.GReg),
     Sys2Proof.Claims.MovesOn s m → Sys2Proof.Claims.HandleOpen m.e x →
     (let ds := m.e.mover.desc g
      (Sys2Proof.Claims.Sectored ds.src.toNat → Sys2Proof.Claims.Sectored ds.dst.toNat → Sys2Proof.Claims.Sectored ds.bytes →
        ds.ctl.extractLsb' 48 14 = 0 → ds.bytes ≤ 2 ^ 32 - 32 →
        ∃ t, Sys2Proof.Machine.exec (.copy x g d) s = .next t ∧
          Sys2Proof.Claims.MoverDone s t m (Sys2Proof.Claims.copyStarted s m x d ds false ds.copySectors)) ∧
      (Sys2Proof.Claims.Sectored ds.src.toNat → Sys2Proof.Claims.Sectored ds.dst.toNat → Sys2Proof.Claims.Sectored ds.x4.toNat →
        Sys2Proof.Claims.Sectored ds.x5.toNat → Sys2Proof.Claims.Sectored ds.rowBytes → ds.rowBytes ≠ 0 →
        ds.ctl.extractLsb' 48 14 = 0 → ds.ctl.extractLsb' 16 16 = 0 →
        ∃ t, Sys2Proof.Machine.exec (.copy2d x g d) s = .next t ∧
          Sys2Proof.Claims.MoverDone s t m (Sys2Proof.Claims.copyStarted s m x d ds false ds.copy2dSectors)) ∧
      (∀ idx : List Nat, Sys2Proof.Claims.Sectored ds.src.toNat → Sys2Proof.Claims.Sectored ds.dst.toNat →
        Sys2Proof.Claims.Sectored ds.x5.toNat → Sys2Proof.Claims.Sectored ds.rowBytes → ds.rowBytes ≠ 0 → ds.x4.toNat % 4 = 0 →
        ds.ctl.extractLsb' 48 13 = 0 → ds.ctl.extractLsb' 16 16 = 0 → idx.length = ds.rows →
        m.e.mover.list = [] → s.picks = [] →
        (∀ i < ds.rows, s.indexWord m ds.ipad (ds.x4 + BitVec.ofNat 64 (4 * i)) = .ok (BitVec.ofNat 32 (idx.getD i 0), s)) →
        (∀ v ∈ idx, v < 2 ^ 32) →
        (∃ t, Sys2Proof.Machine.exec (.gather x g d) s = .next t ∧
          Sys2Proof.Claims.MoverDone s t m (Sys2Proof.Claims.copyStarted s m x d ds false (ds.gatherSectors idx))) ∧
        (∃ t, Sys2Proof.Machine.exec (.scatter x g d) s = .next t ∧
          Sys2Proof.Claims.MoverDone s t m (Sys2Proof.Claims.copyStarted s m x d ds true (ds.scatterSectors idx)))) ∧
      (∀ r rest v, Sys2Proof.Claims.Sectored ds.src.toNat → Sys2Proof.Claims.Sectored ds.dst.toNat →
        Sys2Proof.Claims.Sectored ds.x5.toNat → Sys2Proof.Claims.Sectored ds.rowBytes → ds.rowBytes ≠ 0 → ds.x4.toNat % 4 = 0 →
        ds.ctl.extractLsb' 48 13 = 0 → ds.ctl.extractLsb' 16 16 = 0 → m.e.mover.list = [] → s.picks = (r + 1) :: rest → r + 1 < ds.rows →
        { s with picks := rest }.indexWord m ds.ipad (ds.x4 + BitVec.ofNat 64 (4 * r)) = .ok (v, { s with picks := rest }) →
        ∀ i ∈ [Sys2Proof.Instr.gather x g d, .scatter x g d], ∃ t, Sys2Proof.Machine.exec i s = .next t ∧
          t = { s with serial := t.serial, picks := rest, crews := t.crews } ∧
          Sys2Proof.Machine.spFind m.c t.crews = some { m.crew with engine := some { m.e with
            mover := { m.e.mover with list := [(r, v)], wait := false, blockedAt := none } } }))) ∧
  (∀ (s : Sys2Proof.Machine.State) (m : Sys2Proof.Machine.MHere), Sys2Proof.Claims.MovesOn s m →
     (∀ d v rest, m.e.mailbox = v :: rest → ∃ t, Sys2Proof.Machine.exec (.mpwait d) s = .next t ∧
       Sys2Proof.Claims.MoverDone s t m { m.e with
         mailbox := rest, mover := Sys2Proof.Claims.moverNext m (m.e.mover.setReg d.toNat (v.setWidth 64)) }) ∧
     (∀ (a : Sys2Proof.GReg) (x : Sys2Proof.Handle), (m.e.mover.reg a.toNat).toNat < 2 ^ 32 →
       ((m.e.handle x.toNat).state = .free → (m.e.handle x.toNat).faulted = false →
         (m.e.handle x.toNat).cred ≤ (m.e.mover.reg a.toNat).toNat →
         ∃ t, Sys2Proof.Machine.exec (.hset a x) s = .next t ∧
           Sys2Proof.Claims.MoverDone s t m
             { m.e.setHandle x.toNat { m.e.handle x.toNat with
                 state := if (m.e.handle x.toNat).cred < (m.e.mover.reg a.toNat).toNat then .filling else .full
                 exp := (m.e.mover.reg a.toNat).toNat } with mover := Sys2Proof.Claims.moverNext m m.e.mover }) ∧
       ((m.e.handle x.toNat).state = .filling → (m.e.handle x.toNat).exp + (m.e.mover.reg a.toNat).toNat < 2 ^ 32 →
         ∃ t, Sys2Proof.Machine.exec (.hexp a x) s = .next t ∧
           Sys2Proof.Claims.MoverDone s t m
             { m.e.setHandle x.toNat { m.e.handle x.toNat with
                 exp := (m.e.handle x.toNat).exp + (m.e.mover.reg a.toNat).toNat } with
               mover := Sys2Proof.Claims.moverNext m m.e.mover })) ∧
     (m.e.copies = [] →
       (∃ t, Sys2Proof.Machine.exec .mpfence s = .next t ∧
         Sys2Proof.Claims.MoverDone s t m { m.e with mover := Sys2Proof.Claims.moverNext m m.e.mover }) ∧
       (∃ t, Sys2Proof.Machine.exec .mpend s = .next t ∧
         Sys2Proof.Claims.MoverDone s t m { m.e with
           mover := { m.e.mover with run := .ended, wait := false, blockedAt := none, hints := .none } })) ∧
     (m.e.copies ≠ [] → m.e.mailbox = [] → ∀ i ∈ [Sys2Proof.Instr.mpfence, .mpend, .mpwait 0],
       Sys2Proof.Machine.exec i s = .next (s.modMover m.c fun x => { x with wait := true, blockedAt := some s.serial })))

/-- R263, R265, R266: EMIT sends one record for each effective lane to the clutch that its reference names, and DEPDEC one post to the home
of its counter node; both complete, and change nothing else. A reference that is no node of the kind in the knot's launch is E_NODE, and
so is a record past register 31. -/
def Obligations.NodeInstructions : Prop :=
  ∀ (s : Sys2Proof.Machine.State) (h : Sys2Proof.Machine.Here) (g : Sys2Proof.Guard) (d : Sys2Proof.VReg) (a : Sys2Proof.SReg)
    (e : Bool), Sys2Proof.Machine.Admits s h.u h .plain → h.p.ctx.scalState a.toNat = .full →
    (g ≠ 15 → h.p.ctx.stateOf (Sys2Proof.Claims.guardName g) = .full →
      (∀ n nd, s.nodeRef h (h.p.ctx.scalVal a.toNat) 1 = some (n, nd) →
        (d.toNat + 4 * 2 ^ nd.ent.recsz ≤ 32 →
          (∀ r ∈ Sys2Proof.Claims.groupNames h d.toNat (4 * 2 ^ nd.ent.recsz), h.p.ctx.stateOf r = .full) →
          ∃ t, Sys2Proof.Machine.exec (.emit g d a e) s = .next t ∧
            Sys2Proof.Claims.Completes (Sys2Proof.Claims.emitted s h n ((Sys2Proof.Claims.presentLanes h g).map fun l =>
              (List.range (4 * 2 ^ nd.ent.recsz)).map fun i => h.k.lane (h.p.ctx.base + (d.toNat + i)) l)) t h h.p
              (Sys2Proof.Claims.nextWord h.p.ctx) h.k) ∧
        (32 < d.toNat + 4 * 2 ^ nd.ent.recsz →
          Sys2Proof.Machine.exec (.emit g d a e) s = .next (s.takeTrap h.u { code := .node }))) ∧
      (s.nodeRef h (h.p.ctx.scalVal a.toNat) 1 = none →
        Sys2Proof.Machine.exec (.emit g d a e) s = .next (s.takeTrap h.u { code := .node }))) ∧
    (∀ n nd la i x, s.nodeRef h (h.p.ctx.scalVal a.toNat) 2 = some (n, nd) →
      Sys2Proof.Machine.spFind h.k.launch s.launches = some la →
      Sys2Proof.Claims.EntryTakes h.p.ctx (16 * la.module + nd.ent.home) i x →
      Sys2Proof.Machine.exec (.depdec false a e) s = .next ((Sys2Proof.Claims.decremented s h (16 * la.module + nd.ent.home) n i x
        (h.p.ctx.scalVal a.toNat)).retire h.u)) ∧
    (s.nodeRef h (h.p.ctx.scalVal a.toNat) 2 = none →
      Sys2Proof.Machine.exec (.depdec false a e) s = .next (s.takeTrap h.u { code := .node }))

/-- R267: at its first use a queue has no entry, and its ring takes 64-byte-rounded space of its stack's landing zone when there is some;
its device state, bytes 16 to 63 of its descriptor, is then not zero. R267, R268: QPUSH of a well-formed queue reference completes after
its FENCE. Of a queue in use: with room in the hardware ring and nothing in the backing region, the lanes' entries join the ring in
ascending lane order, their bytes in its slots, and the predicate is true in each; with the ring full, an entry goes to a free slot of
the backing region, whose page translates to the queue's home; with both full, a lane's predicate is false and the queue stays as it is.
Where the descriptor names another size, or an entry begins with a zero word, nothing is pushed, the predicate is false, and ERR is set.
R267, R269: a queue is first in, first out. A lane that pops takes the entry at the head of those whose brood is not cancelled, and the
others keep their order; with entries in the backing region the first of them moves into the ring; from an empty queue a lane takes
zeros, and the queue stays as it is. A size other than the descriptor's gives zeros and sets ERR. That a QPUSH is performed and fills
its predicate within the step of its instruction, that the device state of a queue in use is not zero, that a queue whose landing zone
has no room has no ring, and that an entry moves from the backing region at once when the ring has room are the model's choices (log
16), and so is where the ring lies in the zone (log 13). -/
def Obligations.DeviceQueues : Prop :=
  (∀ (s : Sys2Proof.Machine.State) (key : Option Nat) (pa n : Nat), s.queueFresh key pa = true → s.mem.wf = true →
     pa + 64 ≤ Sys2Proof.Machine.zoneBase →
     (let d := s.queueDesc key pa
      (s.openQueue key pa d n).queueFresh key pa = false ∧ ((s.openQueue key pa d n).queue key pa).ring = [] ∧
        ((s.openQueue key pa d n).queue key pa).back = [] ∧
        ∀ off, ((s.openQueue key pa d n).queue key pa).area = some off → ∃ x,
          Sys2Proof.Machine.spFind (Sys2Proof.Machine.homeOf pa * 2 ^ 31 + off) (s.openQueue key pa d n).mem.areas = some x ∧
          x.kind = .ring ∧ d.ring * n ≤ x.len)) ∧
  (∀ (s : Sys2Proof.Machine.State) (h : Sys2Proof.Machine.Here) (g : Sys2Proof.Guard) (p : Sys2Proof.PReg) (a : Sys2Proof.VReg)
     (b : Sys2Proof.SReg) (e f : Bool) (n : Nat) (y : Sys2Proof.Machine.Target),
     let ref := h.p.ctx.scalVal b.toNat
     let d := s.queueDesc y.key y.pa
     let es := Sys2Proof.Claims.pushedEntries h g a.toNat n
     Sys2Proof.Machine.Admits s h.u h .plain → g ≠ 15 → h.p.ctx.stateOf (Sys2Proof.Claims.guardName g) = .full →
     h.p.ctx.scalState b.toNat = .full →
     (Sys2Proof.Machine.queueSize ref = none ∨ (Sys2Proof.Machine.queueSize ref = some n ∧ 32 < a.toNat + n / 4) →
       Sys2Proof.Machine.exec (.qpush g p a b e f) s = .next (s.takeTrap h.u { code := .queue })) ∧
     (Sys2Proof.Machine.queueSize ref = some n → a.toNat + n / 4 ≤ 32 →
       (∀ r ∈ Sys2Proof.Claims.groupNames h a.toNat (n / 4), h.p.ctx.stateOf r = .full) →
       Sys2Proof.Claims.Reaches s h (ref &&& ~~~(3#64)) y → Sys2Proof.Claims.Fenced h → h.p.ctx.predState p.toNat ≠ .empty → es ≠ [] →
       (16 * 2 ^ d.size = n → (∀ x ∈ es, Sys2Proof.Machine.natOfBytes (x.bytes.take 4) ≠ 0) → s.mem.wf = true →
         s.cancelledBrood h.p.ctx.stamp = false → ∀ q, Sys2Proof.Claims.QueueIs s y.key y.pa q →
         (q.back = [] → q.ring.length + es.length ≤ q.ringCap d →
           ∃ t, Sys2Proof.Machine.exec (.qpush g p a b e f) s = .next t ∧
             Sys2Proof.Claims.RegDone { s with flow := t.flow, mem := t.mem } t h { guard := g, pred := some (p, fun _ => true) } ∧
             Sys2Proof.Claims.OnlyQueue s t y.pa (fun x => Sys2Proof.Machine.zoneBase ≤ x) ∧
             (t.queue y.key y.pa).back = [] ∧ (t.queue y.key y.pa).ring.take q.ring.length = q.ring ∧
             ((t.queue y.key y.pa).ring.drop q.ring.length).map (fun x => (x.stamp, t.readMem x.key x.pa n)) =
               es.map fun x => (x.stamp, x.bytes)) ∧
         (q.ringCap d ≤ q.ring.length → q.back.length < d.cap → es.length = 1 →
           (∀ i < d.cap, Sys2Proof.Claims.Walks s h [d.back + BitVec.ofNat 64 (i * n)] ∧
             ∃ z, s.translateLane h n Sys2Proof.Machine.readWrite (d.back + BitVec.ofNat 64 (i * n)) = .ok z ∧
             Sys2Proof.Machine.homeOf z.pa = Sys2Proof.Machine.homeOf y.pa ∧ z.pa % 16 = 0 ∧ (z.pa + n ≤ y.pa ∨ y.pa + 64 ≤ z.pa) ∧
             z.pa + n ≤ Sys2Proof.Machine.zoneBase ∧
             ∀ line ∈ Sys2Proof.Machine.linesOf z.pa n, Sys2Proof.Machine.spFind line s.mem.lines = none) →
           ∃ t x, Sys2Proof.Machine.exec (.qpush g p a b e f) s = .next t ∧
             Sys2Proof.Claims.RegDone { s with flow := t.flow, mem := t.mem } t h { guard := g, pred := some (p, fun _ => true) } ∧
             Sys2Proof.Claims.OnlyQueue s t y.pa (fun b => x.pa ≤ b ∧ b < x.pa + n) ∧
             (t.queue y.key y.pa).ring = q.ring ∧ (t.queue y.key y.pa).back = q.back ++ [x] ∧ x.slot < d.cap ∧
             (∀ z ∈ q.back, z.slot ≠ x.slot) ∧
             s.translateLane h n Sys2Proof.Machine.readWrite (d.back + BitVec.ofNat 64 (x.slot * n)) = .ok { pa := x.pa, key := x.key } ∧
             [(x.stamp, t.readMem x.key x.pa n)] = es.map fun x => (x.stamp, x.bytes)) ∧
         (q.ringCap d ≤ q.ring.length → d.cap ≤ q.back.length →
           ∃ t, Sys2Proof.Machine.exec (.qpush g p a b e f) s = .next t ∧
             Sys2Proof.Claims.RegDone s t h { guard := g, pred := some (p, fun _ => false) })) ∧
       (16 * 2 ^ d.size ≠ n ∨ (∃ x ∈ es, Sys2Proof.Machine.natOfBytes (x.bytes.take 4) = 0) →
         ∃ t, Sys2Proof.Machine.exec (.qpush g p a b e f) s = .next t ∧
           Sys2Proof.Claims.RegDone (s.queueErr y.key y.pa) t h { guard := g, pred := some (p, fun _ => false) }))) ∧
  (∀ (s : Sys2Proof.Machine.State) (n : Nat) (l : Sys2Proof.Machine.LaneAcc) (q : Sys2Proof.Machine.QueueSt), s.mem.wf = true →
     (16 * 2 ^ (s.queueDesc l.key l.pa).size = n → Sys2Proof.Claims.QueueIs s l.key l.pa q →
       (∀ e ∈ q.ring ++ q.back, Sys2Proof.Claims.EntryIs s l.pa n e) →
       (∀ x es, q.ring = x :: es → q.back = [] →
         (s.queuePop n [l]).2 =
           [{ lane := l.lane, words := Sys2Proof.Machine.wordsOfBytes (s.readMem x.key x.pa n), poisoned := false }] ∧
         ((s.queuePop n [l]).1.queue l.key l.pa).ring = es ∧ ((s.queuePop n [l]).1.queue l.key l.pa).back = [] ∧
         Sys2Proof.Claims.OnlyQueue s (s.queuePop n [l]).1 l.pa fun _ => False) ∧
       (∀ x es b bs, q.ring = x :: es → q.back = b :: bs → q.ring.length = q.ringCap (s.queueDesc l.key l.pa) →
         (s.queuePop n [l]).2 =
           [{ lane := l.lane, words := Sys2Proof.Machine.wordsOfBytes (s.readMem x.key x.pa n), poisoned := false }] ∧
         ((s.queuePop n [l]).1.queue l.key l.pa).back = bs ∧ ∃ y, ((s.queuePop n [l]).1.queue l.key l.pa).ring = es ++ [y] ∧
           y.stamp = b.stamp ∧ (s.queuePop n [l]).1.readMem y.key y.pa n = s.readMem b.key b.pa n) ∧
       (q.ring = [] → q.back = [] →
         (s.queuePop n [l]).2 = [{ lane := l.lane, words := Sys2Proof.Machine.wordsOfBytes (List.replicate n 0), poisoned := false }] ∧
         (s.queuePop n [l]).1.queue l.key l.pa = q)) ∧
     (16 * 2 ^ (s.queueDesc l.key l.pa).size = n → s.queueFresh l.key l.pa = false → l.pa % 64 = 0 → l.pa + 64 ≤ Sys2Proof.Machine.zoneBase →
       (∀ line ∈ Sys2Proof.Machine.linesOf l.pa 64, Sys2Proof.Machine.spFind line s.mem.lines = none) → s.mem.poisoned l.pa 64 = false →
       (s.queue l.key l.pa).back = [] → ∀ x es,
       (s.queue l.key l.pa).ring.filter (fun e => !s.cancelledBrood e.stamp) = x :: es → Sys2Proof.Claims.EntryIs s l.pa n x →
       (s.queuePop n [l]).2 =
         [{ lane := l.lane, words := Sys2Proof.Machine.wordsOfBytes (s.readMem x.key x.pa n), poisoned := false }] ∧
       ((s.queuePop n [l]).1.queue l.key l.pa).ring = es) ∧
     (16 * 2 ^ (s.queueDesc l.key l.pa).size ≠ n → s.mem.poisoned l.pa 64 = false →
       (∀ line ∈ Sys2Proof.Machine.linesOf l.pa 64, Sys2Proof.Machine.spFind line s.mem.lines = none) →
       s.queuePop n [l] = (s.queueErr l.key l.pa, [{ lane := l.lane, words := List.replicate (n / 4) 0, poisoned := false }])))

/-- R269, R277: QPOP and CHAPP whose descriptor lies at the current stack complete there as the migration points of R191: the registers
outside the carried set are dead, the pond is open, the operation is performed at the descriptor, and the path goes on at the next word;
with no effective lane nothing is performed. CHAPP completes when the appends fit the chain's pages; where the home cannot append it is
E_CHAIN. R277: CHAPP appends the lanes' bytes in ascending lane order: each lane's start is the next multiple of 16 of the chain, or the
next page where it would cross into one, and the lane gets the low word of its address in the page there; LEN is the end of the last. A
lane past the last page takes the first page of the pool; one within a shared last page has a page of the pool, with its bytes, take its
place. It fails where a lane appends more than 65536 bytes, or needs a page when the pool is empty or the chain has 8184. That the
operation is performed within the step of the instruction is the model's choice (log 8), and so are the first page of the pool and the
low word of the address (log 18). -/
def Obligations.DescriptorPointsComplete : Prop :=
  (∀ (s : Sys2Proof.Machine.State) (h : Sys2Proof.Machine.Here) (i : Sys2Proof.Instr) (c : Sys2Proof.Claims.PointClaim)
     (ls : List Sys2Proof.Machine.LaneAcc),
     Sys2Proof.Claims.descriptorClaim h i = some c → Sys2Proof.Claims.PointGoes s h c ls →
     (∀ l ∈ ls, Sys2Proof.Machine.homeOf l.pa = h.p.home) → h.p.home ≠ Sys2Proof.Config.hostHome →
     h.p.unperformed = [] →
     (ls = [] → Sys2Proof.Machine.exec i s = .next ((Sys2Proof.Claims.settledAt s h).retire h.u)) ∧
     (ls ≠ [] → c.op ≠ .append none ∨ (∃ l rest d, ls = l :: rest ∧ Sys2Proof.Claims.ChainIs s l.key l.pa d ∧
         Sys2Proof.Claims.AppendFits s l.key l.pa d ls) →
       ∃ h1 t, (Sys2Proof.Claims.settledAt s h).here h.u = some h1 ∧
         (Sys2Proof.Claims.settledAt s h).perform h1 { op := c.op, dest := c.dest, lanes := ls, group := h.p.groupPc } = some t ∧
         Sys2Proof.Machine.exec i s = .next (t.retire h.u)) ∧
     (∀ h1, ls ≠ [] → s.mem.lines = [] → (Sys2Proof.Claims.settledAt s h).here h.u = some h1 →
       (Sys2Proof.Claims.settledAt s h).perform h1 { op := c.op, dest := c.dest, lanes := ls, group := h.p.groupPc } = none →
       c.op = .append none ∧ Sys2Proof.Machine.exec i s = .next (s.takeTrap h.u { code := .chain }))) ∧
  (∀ (s : Sys2Proof.Machine.State) (home : Nat) (l : Sys2Proof.Machine.LaneAcc) (rest : List Sys2Proof.Machine.LaneAcc)
     (d : Sys2Proof.Machine.ChainDesc), Sys2Proof.Claims.ChainIs s l.key l.pa d →
     (let ps := s.chainPages l.key l.pa d
      let n := Sys2Proof.Machine.natOfBytes l.data
      let st := Sys2Proof.Claims.appendStart d.len n
      (Sys2Proof.Claims.AppendFits s l.key l.pa d (l :: rest) →
        ∃ t, s.chainAppend home (l :: rest) = some (t, ((l :: rest).zip (Sys2Proof.Claims.appendStarts d.len
            (Sys2Proof.Claims.appendSizes (l :: rest)))).map fun x =>
               { lane := x.1.lane, poisoned := false, words := [BitVec.ofNat 32 (ps.getD (x.2 / 65536) 0 + x.2 % 65536)] }) ∧
          t.chain l.key l.pa = { d with len := Sys2Proof.Claims.appendLen d.len (Sys2Proof.Claims.appendSizes (l :: rest)) } ∧
          t.chainPages l.key l.pa d = ps ∧ t.stks = s.stks ∧
          s.mem.SameBut t.mem fun a => l.pa ≤ a ∧ a < l.pa + 64 + 8 * d.pages) ∧
      (rest = [] → 0 < n → n ≤ 65536 → st + n < 2 ^ 64 → ∀ p pool, (s.stk home).pool = p :: pool → p < 2 ^ 48 →
        (st = 65536 * d.pages → d.pages < 8184 →
          ∃ t, s.chainAppend home [l] = some (t, [{ lane := l.lane, words := [BitVec.ofNat 32 p], poisoned := false }]) ∧
            (t.stk home).pool = pool ∧ t.refs p = 1 ∧ t.chain l.key l.pa = { d with len := st + n, pages := d.pages + 1 } ∧
            t.chainPages l.key l.pa { d with pages := d.pages + 1 } = ps ++ [p]) ∧
        (∀ old, ps.getLast? = some old → st / 65536 + 1 = d.pages → st % 65536 ≠ 0 → 1 < s.refs old → old ≠ p →
          old + 65536 ≤ Sys2Proof.Machine.zoneBase → p % 65536 = 0 → p + 65536 ≤ Sys2Proof.Machine.zoneBase → p ≠ l.pa →
          ∃ t, s.chainAppend home [l] =
              some (t, [{ lane := l.lane, words := [BitVec.ofNat 32 (p + st % 65536)], poisoned := false }]) ∧
            (t.stk home).pool = pool ∧ t.refs p = 1 ∧ t.refs old = s.refs old - 1 ∧
            t.chainPages l.key l.pa d = ps.dropLast ++ [p] ∧ t.readMem l.key p 65536 = s.readMem l.key old 65536)) ∧
      ((∃ x ∈ l :: rest, 65536 < Sys2Proof.Machine.natOfBytes x.data) ∨
          (rest = [] ∧ 0 < n ∧ st = 65536 * d.pages ∧ ((s.stk home).pool = [] ∨ d.pages = 8184)) →
        s.chainAppend home (l :: rest) = none)))

/-- R272, R273: BFORK gives the identifier of a new brood, a child of the path's stamp; BFORK.STAMP sets the path's stamp to a live
descendant of the knot's brood; each is E_BROOD where the rules refuse it. BCANCEL begins by taking a filter entry and cancelling the
subtree, and completes when every hop in flight at its start has landed. R273: what a cancellation does throughout the pod: the broods
of the subtree are cancelled and every other brood is as it was; its knots with no hop in flight are retired with their paths; no batch
of a clutch, entry of a queue or chain of it is left; a knot of no crew outside the subtree is as it was. Which unused number a new
brood gets is the model's choice (log 12). -/
def Obligations.BroodInstructions : Prop :=
  (∀ (s : Sys2Proof.Machine.State) (h : Sys2Proof.Machine.Here), Sys2Proof.Machine.Admits s h.u h .plain →
     (∀ (d : Sys2Proof.SReg) (b : Sys2Proof.Machine.Brood), h.p.ctx.scalState d.toNat ≠ .empty → s.brood? h.p.ctx.stamp = some b →
       (b.cancelled = false → b.depth < 255 → ∃ t id, Sys2Proof.Machine.exec (.bfork false d) s = .next t ∧
         Sys2Proof.Machine.spFind id s.flow.broods = none ∧ id ≠ 0 ∧
         (let x : Sys2Proof.Machine.Brood :=
           { parent := some h.p.ctx.stamp.toNat, depth := b.depth + 1, root := b.root, cancelled := false }
          t.flow = { s.flow with broods := Sys2Proof.Machine.spPut id x s.flow.broods }) ∧
         Sys2Proof.Claims.RegDone { s with flow := t.flow, picks := t.picks } t h { scal := some (d, BitVec.ofNat 64 id) }) ∧
       (b.cancelled = true ∨ 255 ≤ b.depth →
         Sys2Proof.Machine.exec (.bfork false d) s = .next (s.takeTrap h.u { code := .brood }))) ∧
     (∀ (a : Sys2Proof.SReg) (e : Bool), h.p.ctx.scalState a.toNat = .full →
       (s.inSubtree h.k.brood (h.p.ctx.scalVal a.toNat) = true → s.cancelledBrood (h.p.ctx.scalVal a.toNat) = false →
         ∃ t, Sys2Proof.Machine.exec (.bforkStamp false a e) s = .next t ∧
           Sys2Proof.Claims.Completes s t h h.p { Sys2Proof.Claims.nextWord h.p.ctx with stamp := h.p.ctx.scalVal a.toNat } h.k) ∧
       (s.inSubtree h.k.brood (h.p.ctx.scalVal a.toNat) = false ∨ s.cancelledBrood (h.p.ctx.scalVal a.toNat) = true →
         Sys2Proof.Machine.exec (.bforkStamp false a e) s = .next (s.takeTrap h.u { code := .brood })) ∧
       (∀ id c, h.p.pend = .cancel id → (s.flow.cancels.find? fun c => c.id == id) = some c →
         ((∀ u ∈ c.hops, ∀ q, s.path? u = some q → ∀ x, q.place ≠ .flying x) →
           (∀ x ∈ s.paths, s.path? x.1 = some x.2) →
           ∃ t, Sys2Proof.Machine.exec (.bcancel false a e) s = .next t ∧
             Sys2Proof.Claims.Completes { s with flow := { s.flow with cancels := s.flow.cancels.filter fun x => x.id != id } } t h h.p
               (Sys2Proof.Claims.nextWord h.p.ctx) h.k) ∧
         ((∃ u ∈ c.hops, ∃ q x, s.path? u = some q ∧ q.place = .flying x) →
           Sys2Proof.Machine.exec (.bcancel false a e) s = .next (s.block h.u .filter))) ∧
       ((∀ id, h.p.pend ≠ .cancel id) →
         (s.inSubtree h.k.brood (h.p.ctx.scalVal a.toNat) = false →
           Sys2Proof.Machine.exec (.bcancel false a e) s = .next (s.takeTrap h.u { code := .brood })) ∧
         (s.inSubtree h.k.brood (h.p.ctx.scalVal a.toNat) = true → 64 ≤ s.flow.cancels.length →
           Sys2Proof.Machine.exec (.bcancel false a e) s = .next (s.block h.u .filter)) ∧
         (s.inSubtree h.k.brood (h.p.ctx.scalVal a.toNat) = true → s.flow.cancels.length < 64 →
           Sys2Proof.Machine.exec (.bcancel false a e) s =
             .next ((Sys2Proof.Claims.cancelBegun s h (h.p.ctx.scalVal a.toNat)).cancelTree (h.p.ctx.scalVal a.toNat)).pruneCancels)))) ∧
  (∀ (s : Sys2Proof.Machine.State) (v : Sys2Proof.DWord), Sys2Proof.Machine.spRising none s.flow.broods = true →
     Sys2Proof.Machine.spRising none s.knots = true → (∀ b x, Sys2Proof.Machine.spFind b s.flow.broods = some x → b < 2 ^ 64) →
     (let t := s.cancelTree v
      (∀ b, Sys2Proof.Machine.spFind b t.flow.broods = (Sys2Proof.Machine.spFind b s.flow.broods).map fun x =>
        if s.inSubtree v (BitVec.ofNat 64 b) = true then { x with cancelled := true } else x) ∧
      (∀ j k, Sys2Proof.Machine.spFind j s.knots = some k → s.inSubtree v k.brood = true →
        s.flyingOf j = [] → Sys2Proof.Machine.spFind j t.knots = none ∧ ∀ u p, t.path? u = some p → p.knot ≠ j) ∧
      (∀ q ∈ t.flow.queues, ∀ e ∈ q.2.ring ++ q.2.back, s.inSubtree v e.stamp = false) ∧
      (∀ c ∈ t.flow.chains, s.inSubtree v c.brood = false) ∧
      (∀ l la n nd, Sys2Proof.Machine.spFind l t.launches = some la → Sys2Proof.Machine.spFind n la.nodes = some nd →
        ∀ b ∈ nd.batches, s.inSubtree v b.brood = false) ∧
      (∀ j k, Sys2Proof.Machine.spFind j s.knots = some k → s.inSubtree v k.brood = false →
        (∀ c ∈ s.crews, j ∉ c.2.members) → Sys2Proof.Machine.spFind j t.knots = some k)))

/-- R75, R275, R276, R278: CHFORK and CHREL do not wait for posts to the chain's home. CHFORK with a zero operand makes an empty chain in
the first page of the current stack's pool and sends its reference to the destination, and without a page it is E_CHAIN; it waits only
for a table entry at a halted stack. CHREL of a valid chain gives back its pages, and CHFORK of one copies it, at once where nothing
comes before the access, and otherwise in a later turn after the posts that it comes after, while the path goes on; a fork that cannot
be made is E_CHAIN. A reference that is not 64 KiB aligned is E_CHAIN in both. R276, R278: CHFORK of a chain takes the first page of the
pool for a new descriptor with the same length and pages, whose counts rise by one, stamped with the path's stamp. CHREL clears VALID,
lowers the count of each page, gives those that reach zero back to the pool in order, then the descriptor's page. That references are
the physical address of the descriptor page, taken from the front of the pool, and what of the instruction is checked at its issue and
what at the access, are the model's choices (log 18); when an access is put off is the model's schedule (log 8). -/
def Obligations.ChainInstructions : Prop :=
  (∀ (s : Sys2Proof.Machine.State) (h : Sys2Proof.Machine.Here) (d a : Sys2Proof.SReg) (e : Bool),
     Sys2Proof.Machine.Admits s h.u h { defer := true } → h.p.ctx.scalState a.toNat = .full → h.p.ctx.scalState d.toNat ≠ .empty →
     (h.p.ctx.scalVal a.toNat = 0 →
       (s.walkStalled (s.forkReads h) = true → Sys2Proof.Machine.exec (.chfork false d a e) s = .next (s.block h.u .stream)) ∧
       (s.walkStalled (s.forkReads h) = false → s.mem.lines = [] →
         Sys2Proof.Machine.homeOf (Sys2Proof.Machine.stackBase h.p.home) = h.p.home →
         (∀ p ps, (s.stk h.p.home).pool = p :: ps →
           (Sys2Proof.Claims.AtOnce s h h.p.home → ∃ t, Sys2Proof.Machine.exec (.chfork false d a e) s = .next t ∧
             (t.stk h.p.home).pool = ps ∧
             (∃ c, t.flow.chains = s.flow.chains ++ [c] ∧ c.page = p ∧ c.brood = h.p.ctx.stamp) ∧
             ∃ q, t.path? h.u = some q ∧ q.ctx.pc = h.p.ctx.pc + 4 ∧
               (d ≠ 0 → q.ctx.scalState d.toNat = .empty ∧
                 ∃ f, q.flights.getLast? = some f ∧ f.dest = .scal d.toNat ∧ f.fill = .scal (BitVec.ofNat 64 p))) ∧
           (¬Sys2Proof.Claims.AtOnce s h h.p.home →
             Sys2Proof.Machine.exec (.chfork false d a e) s = .next (Sys2Proof.Claims.putOff s h
               { op := .fork 0, dest := .scal d.toNat, group := h.p.groupPc
                 lanes := [Sys2Proof.Claims.chainLane h 0 { pa := Sys2Proof.Machine.stackBase h.p.home, key := none }] }))) ∧
         ((s.stk h.p.home).pool = [] →
           Sys2Proof.Machine.exec (.chfork false d a e) s = .next (s.takeTrap h.u { code := .chain })))) ∧
     ((h.p.ctx.scalVal a.toNat).toNat % 65536 ≠ 0 →
       Sys2Proof.Machine.exec (.chfork false d a e) s = .next (s.takeTrap h.u { code := .chain }) ∧
       Sys2Proof.Machine.exec (.chrel false a e) s = .next (s.takeTrap h.u { code := .chain })) ∧
     (∀ y, (h.p.ctx.scalVal a.toNat).toNat % 65536 = 0 → Sys2Proof.Claims.Placed s h (h.p.ctx.scalVal a.toNat) y →
       (s.chain y.key y.pa).valid = true → s.mem.lines = [] →
       (let released := s.chainRelease (Sys2Proof.Machine.homeOf y.pa) y.key y.pa
        let release : Sys2Proof.Machine.Access :=
          { op := .release, dest := .scal 0, lanes := [Sys2Proof.Claims.chainLane h (h.p.ctx.scalVal a.toNat) y], group := h.p.groupPc }
        let fork : Sys2Proof.Machine.Access :=
          { op := .fork (h.p.ctx.scalVal a.toNat).toNat, dest := .scal d.toNat, group := h.p.groupPc
            lanes := [Sys2Proof.Claims.chainLane h (h.p.ctx.scalVal a.toNat) y] }
        (Sys2Proof.Claims.AtOnce s h (Sys2Proof.Machine.homeOf y.pa) →
          Sys2Proof.Machine.exec (.chrel false a e) s = .next (released.retire h.u) ∧
          released.flow.chains = s.flow.chains.filter (fun c => c.page != y.pa)) ∧
        (¬Sys2Proof.Claims.AtOnce s h (Sys2Proof.Machine.homeOf y.pa) →
          Sys2Proof.Machine.exec (.chrel false a e) s = .next (Sys2Proof.Claims.putOff s h release)) ∧
        (h.p.ctx.scalVal a.toNat ≠ 0 →
          (∀ t, s.perform h fork = some t →
            (Sys2Proof.Claims.AtOnce s h (Sys2Proof.Machine.homeOf y.pa) →
              Sys2Proof.Machine.exec (.chfork false d a e) s = .next (t.retire h.u)) ∧
            (¬Sys2Proof.Claims.AtOnce s h (Sys2Proof.Machine.homeOf y.pa) →
              Sys2Proof.Machine.exec (.chfork false d a e) s = .next (Sys2Proof.Claims.putOff s h fork))) ∧
          (s.perform h fork = none →
            Sys2Proof.Machine.exec (.chfork false d a e) s = .next (s.takeTrap h.u { code := .chain })))))) ∧
  (∀ (s : Sys2Proof.Machine.State) (home : Nat) (key : Option Nat) (pa : Nat) (d : Sys2Proof.Machine.ChainDesc),
     Sys2Proof.Claims.ChainIs s key pa d → (s.chainPages key pa d).Nodup →
     (∀ (v : Sys2Proof.DWord) p pool, (s.stk home).pool = p :: pool → p % 65536 = 0 → p + 65536 ≤ Sys2Proof.Machine.zoneBase → p ≠ pa →
       (∀ q ∈ s.chainPages key pa d, s.refs q < 65535) →
       ∃ t, s.chainFork home key pa v = some (p, t) ∧ (t.stk home).pool = pool ∧ t.chain key p = { d with brood := v } ∧
         t.chainPages key p d = s.chainPages key pa d ∧ t.chain key pa = d ∧
         (∀ q ∈ s.chainPages key pa d, t.refs q = s.refs q + 1) ∧
         t.flow.chains = s.flow.chains ++ [{ page := p, key := key, brood := v }]) ∧
     (let t := s.chainRelease home key pa
      (t.stk home).pool = (s.stk home).pool ++ (s.chainPages key pa d).filter (fun q => decide (s.refs q ≤ 1)) ++ [pa] ∧
        (∀ q ∈ s.chainPages key pa d, t.refs q = s.refs q - 1) ∧ (t.chain key pa).valid = false ∧
        t.flow.chains = s.flow.chains.filter (fun c => c.page != pa) ∧
        s.mem.SameBut t.mem fun a => pa ≤ a ∧ a < pa + 64))

/-- R10, R20, R126 to R128, R299: SRD of a scalar register completes with its value, and changes nothing but its destination. The special
registers that name the path, its knot, its place and its own control state read as the rules say: HREADY has the bit of each full
handle of the knot's engine, POSTS the flags and the sum of OUTST of the VALID entries, LANDING the window and the zone's SIZE. R330:
the capability registers: on an AJ3-16 of revision 1 and on an AJ3-8V CAP0 reads the values that the rule gives; the fields of CAP1 are
the module and the clock; CAP2 counts the withdrawn cores of each stack, saturating at 15; CAP3 holds the three counts. R332: the fields
of SERVICE are RETIRED, UNCORR, REPLACE and WCOUNT, which is stated for a count of at most 255, the most that its field holds (log 6). -/
def Obligations.SpecialReads : Prop :=
  (∀ (s : Sys2Proof.Machine.State) (h : Sys2Proof.Machine.Here) (r : Sys2Proof.SReg),
     (∀ n : Sys2Proof.Special, n ≠ .laneid → Sys2Proof.Claims.RegisterResult s h (.srd r n)
       { form := { priv := n.privileged }, reads := [], scal := some (r, s.special h n) }) ∧
     s.special h .grant = BitVec.ofNat 64 h.k.grant ∧ s.special h .knotid = BitVec.ofNat 64 h.k.knotId ∧
     s.special h .nknots = BitVec.ofNat 64 h.k.nknots ∧ s.special h .brood = h.k.brood ∧
     s.special h .stack = BitVec.ofNat 64 (h.p.home % 16) ∧ s.special h .core = BitVec.ofNat 64 h.p.core ∧
     s.special h .module = BitVec.ofNat 64 (h.p.home / 16) ∧ s.special h .mode = h.p.ctx.mode.setWidth 64 ∧
     s.special h .fpstat = h.p.ctx.fpstat.setWidth 64 ∧ s.special h .cycles = BitVec.ofNat 64 (s.stk h.p.home).cycles ∧
     s.special h .ptbase = h.k.regs.ptbase ∧ s.special h .asid = h.k.regs.asid.setWidth 64 ∧ s.special h .keysel = h.k.regs.keysel ∧
     s.special h .vecbase = h.k.regs.vecbase ∧ s.special h .parkmax = (s.stk h.p.home).parkmax.setWidth 64 ∧
     s.special h .watchdog = h.k.regs.watchdog.setWidth 64 ∧
     (h.k.crew = none → s.special h .hready = 0) ∧
     (∀ c slot w, h.k.crew = some (c, slot) → Sys2Proof.Machine.spFind c s.crews = some w →
       (w.engine = none → s.special h .hready = 0) ∧
       ∀ e, w.engine = some e → ∀ i < 64, (s.special h .hready).getLsbD i = decide ((e.handle i).state = .full)) ∧
     (h.p.ctx.posts.length = 8 →
       (∀ i < 8, (s.special h .posts).getLsbD i = (h.p.ctx.posts.getD i .free).valid ∧
         (s.special h .posts).getLsbD (8 + i) =
           ((h.p.ctx.posts.getD i .free).valid && (h.p.ctx.posts.getD i .free).faulted)) ∧
       (s.special h .posts).extractLsb' 16 16 = 0 ∧
       (s.special h .posts).extractLsb' 32 16 =
         BitVec.ofNat 16 ((h.p.ctx.posts.filter (·.valid)).map (·.outst)).sum) ∧
     (s.special h .landing).extractLsb' 0 3 = 4 ∧ (s.special h .landing).extractLsb' 3 33 = 0 ∧
     (s.special h .landing).extractLsb' 36 19 = BitVec.ofNat 19 h.k.regs.window ∧ (s.special h .landing).extractLsb' 55 9 = 0) ∧
  (∀ (s : Sys2Proof.Machine.State) (h : Sys2Proof.Machine.Here),
     (s.strap.part = .aj16 → s.strap.rev = 1 → s.special h .cap0 = 0x0003FFF1FFFF0110#64) ∧
     (s.strap.part = .aj8v → s.strap.rev = 1 → s.special h .cap0 = 0x0003000000FF0108#64 ∧
       (s.special h .cap1).extractLsb' 10 20 = 0) ∧
     (s.special h .cap0).extractLsb' 8 8 = s.strap.rev ∧ (s.special h .cap0).extractLsb' 48 2 = 3 ∧
     (s.special h .cap1).extractLsb' 0 10 = BitVec.ofNat 10 (h.p.home / 16) ∧
     (s.special h .cap1).extractLsb' 32 16 = BitVec.ofNat 16 (s.mod (h.p.home / 16)).clock ∧
     s.special h .cap3 = 0x404040#64 ∧
     (∀ i < s.strap.stackCount, (s.special h .cap2).extractLsb' (4 * i) 4 =
       BitVec.ofNat 4 (min 15 (s.stk (h.p.home / 16 * 16 + i)).withdrawn.length)) ∧
     (∀ i < 16, s.strap.stackCount ≤ i → (s.special h .cap2).extractLsb' (4 * i) 4 = 0) ∧
     (s.special h .service).getLsbD 0 = (s.mod (h.p.home / 16)).replace ∧
     (s.special h .service).getLsbD 1 = (s.mod (h.p.home / 16)).uncorr ∧ (s.special h .service).extractLsb' 2 6 = 0 ∧
     (s.special h .service).extractLsb' 16 16 = (s.mod (h.p.home / 16)).retired ∧ (s.special h .service).extractLsb' 32 32 = 0 ∧
     (let n := ((List.range s.strap.stackCount).map fun i => (s.stk (h.p.home / 16 * 16 + i)).withdrawn.length).sum
      n < 256 → (s.special h .service).extractLsb' 8 8 = BitVec.ofNat 8 n))

/-- R100, R101, R299, R322, R331: SWR completes: MODE and FPSTAT of the path and, of a single-path knot, the per-knot registers take the
bits that they have, and nothing else changes; SERVICE takes RETIRED and clears by ones; PARKMAX is written for the current stack. A
per-knot register of a knot with another path is E_DIVERGED, and a register that no level writes is E_ILLEGAL at either level. -/
def Obligations.SpecialWrites : Prop :=
  ∀ (s : Sys2Proof.Machine.State) (h : Sys2Proof.Machine.Here) (r : Sys2Proof.SReg) (e : Bool) (n : Sys2Proof.Special),
    Sys2Proof.Machine.Admits s h.u h { priv := n.writable && n.privileged } → h.p.ctx.scalState r.toNat = .full →
    (n = .mode → ∃ t, Sys2Proof.Machine.exec (.swr r e n) s = .next t ∧ Sys2Proof.Claims.Completes s t h h.p
      { Sys2Proof.Claims.nextWord h.p.ctx with mode := (h.p.ctx.scalVal r.toNat).extractLsb' 0 5 } h.k) ∧
    (n = .fpstat → ∃ t, Sys2Proof.Machine.exec (.swr r e n) s = .next t ∧ Sys2Proof.Claims.Completes s t h h.p
      { Sys2Proof.Claims.nextWord h.p.ctx with fpstat := (h.p.ctx.scalVal r.toNat).extractLsb' 0 5 } h.k) ∧
    (∀ x, Sys2Proof.Claims.regsWritten h.k.regs n (h.p.ctx.scalVal r.toNat) = some x →
      (s.siblings h.p.knot h.u = [] → ∃ t, Sys2Proof.Machine.exec (.swr r e n) s = .next t ∧
        Sys2Proof.Claims.Completes s t h h.p (Sys2Proof.Claims.nextWord h.p.ctx) { h.k with regs := x }) ∧
      (s.siblings h.p.knot h.u ≠ [] →
        Sys2Proof.Machine.exec (.swr r e n) s = .next (s.takeTrap h.u { code := .diverged }))) ∧
    (n = .service → ∃ t, Sys2Proof.Machine.exec (.swr r e n) s = .next t ∧
      Sys2Proof.Claims.Completes { s with modules := t.modules } t h h.p (Sys2Proof.Claims.nextWord h.p.ctx) h.k ∧
      (let m := s.mod (h.p.home / 16)
       t.mod (h.p.home / 16) = { m with
         retired := (h.p.ctx.scalVal r.toNat).extractLsb' 16 16
         uncorr := m.uncorr && !(h.p.ctx.scalVal r.toNat).getLsbD 1
         replace := m.replace && !(h.p.ctx.scalVal r.toNat).getLsbD 0 }) ∧
      ∀ j, j ≠ h.p.home / 16 → t.mod j = s.mod j) ∧
    (n = .parkmax → Sys2Proof.Machine.exec (.swr r e n) s = .next
      (((s.setStk h.p.home fun x => { x with parkmax := (h.p.ctx.scalVal r.toNat).extractLsb' 0 7 }).retire h.u).serviceOn h.p.home
        (List.range 32))) ∧
    (n.writable = false → Sys2Proof.Machine.exec (.swr r e n) s = .next (s.takeTrap h.u { code := .illegal }))

/-- R126, R283, R299: SRD of LANEID to a vector register gives each active lane its number; IFENCE completes, after it the knot fetches no
earlier word of a call site, and it changes nothing else; HALT ends the knot, all of whose paths are gone. -/
def Obligations.LaneIdsFencesAndHalt : Prop :=
  ∀ (s : Sys2Proof.Machine.State) (h : Sys2Proof.Machine.Here),
    (∀ v : Sys2Proof.VReg, Sys2Proof.Claims.RegisterResult s h (.srdVector v)
      { reads := [], vecs := [(h.p.ctx.base + v.toNat, fun l => BitVec.ofNat 32 l)] }) ∧
    (Sys2Proof.Machine.Admits s h.u h .plain → ∃ t, Sys2Proof.Machine.exec .ifence s = .next t ∧
      Sys2Proof.Claims.Completes s t h h.p (Sys2Proof.Claims.nextWord h.p.ctx) { h.k with unseen := [] }) ∧
    (Sys2Proof.Machine.Admits s h.u h { priv := true } → ∃ t, Sys2Proof.Machine.exec .halt s = .next t ∧
      t = (s.killKnot h.p.knot).bump ∧
      (h.k.crew = none → ∀ v q, t.path? v = some q → q.knot ≠ h.p.knot))

/-- R126, R281: at user level every privileged instruction traps with E_PRIV and has none of its effect. R296: TRAP takes a trap with
E_TRAP, its number and its operand, and BKPT one with E_BKPT and its number; each completes in the handler: the path is at supervisor
level at its vector, and the frame, with its PC at the next word, names the number and the operand. R280: the vector of a trap code, by
its number: the codes run from 1 to 33 in the order of the table, each its own. -/
def Obligations.PrivilegeAndSoftwareTraps : Prop :=
  (∀ (s : Sys2Proof.Machine.State) (h : Sys2Proof.Machine.Here) (i : Sys2Proof.Instr),
     i = .halt ∨ (∃ a e, i = .rft a e) ∨ (∃ d x, i = .pfix d x) ∨ (∃ d x, i = .pfixDrop d x) ∨ (∃ a e, i = .ctxsv a e) ∨
       (∃ d a e, i = .ctxld d a e) ∨ (∃ d a e, i = .ctxldKill d a e) ∨ (∃ r n, n.privileged = true ∧ i = .srd r n) ∨
       (∃ r e n, n.privileged = true ∧ n.writable = true ∧ i = .swr r e n) →
     s.cur = .path h.u → s.here h.u = some h → h.p.super = false → Sys2Proof.Machine.hintsMisused .plain h.p.hints = false →
     Sys2Proof.Machine.exec i s = .next (s.takeTrap h.u { code := .priv })) ∧
  (∀ (s : Sys2Proof.Machine.State) (h : Sys2Proof.Machine.Here), Sys2Proof.Machine.Admits s h.u h .plain →
     (∀ (a : Sys2Proof.SReg) (n : BitVec 5) (e : Bool) off, h.p.ctx.scalState a.toNat = .full →
       Sys2Proof.Claims.EntersAlone s h { code := .trap, num := n.toNat, addr := h.p.ctx.scalVal a.toNat } off →
       ∃ t, Sys2Proof.Machine.exec (.trap a n e) s = .next t ∧
         Sys2Proof.Claims.Entered s t h { code := .trap, num := n.toNat, addr := h.p.ctx.scalVal a.toNat } off) ∧
     (∀ (n : BitVec 5) off, Sys2Proof.Claims.EntersAlone s h { code := .bkpt, num := n.toNat } off →
       ∃ t, Sys2Proof.Machine.exec (.bkpt n) s = .next t ∧ Sys2Proof.Claims.Entered s t h { code := .bkpt, num := n.toNat } off) ∧
     (∀ (a : Sys2Proof.SReg) (n : BitVec 5) (e : Bool), h.p.ctx.scalState a.toNat = .full →
       Sys2Proof.Machine.exec (.trap a n e) s =
         .next (s.takeTrap h.u { code := .trap, num := n.toNat, addr := h.p.ctx.scalVal a.toNat })) ∧
     (∀ n : BitVec 5, Sys2Proof.Machine.exec (.bkpt n) s = .next (s.takeTrap h.u { code := .bkpt, num := n.toNat }))) ∧
  (([.illegal, .absent, .priv, .fetch, .pcwrap, .empty, .dead, .page, .prot, .align, .bound, .poison, .rooted, .diverged, .pond, .window,
     .postfault, .plane, .collide, .matrix, .token, .nested, .handle, .barrier, .node, .queue, .brood, .chain, .runaway, .image,
     .movefault, .trap, .bkpt] : List Sys2Proof.Machine.TrapCode).map Sys2Proof.Machine.TrapCode.num =
       (List.range 33).map (· + 1) ∧
   ∀ a b : Sys2Proof.Machine.TrapCode, a.num = b.num → a = b)

/-- R284, R285: supervisor entry: the trap frame lies in the landing zone of the current stack, s30 holds its address in the knot's window
and s31 the trap code, both full; the path is at supervisor level at word 16 times the code of the vector table; every other register
and its state, MODE, FPSTAT, the window, the frame records, the mask, the ponds and the post table are unchanged, and so is memory.
R283: a trap raised by a path in its skid is held, with its PC at the frame's, until the path resumes, after those that it holds
already; a halted path holds one likewise. R286: a trap at supervisor level, but for a handler task's own code (R295), is a double trap:
the knot is killed as by HALT, and the fault record goes to the management core. The place of the frame in the landing zone is the
model's choice (log 13); that the hint words of the trapped group leave the watchdog count, and that a path holds several traps in their
order, are its readings (log 28). -/
def Obligations.SupervisorEntry : Prop :=
  (∀ (s : Sys2Proof.Machine.State) (h : Sys2Proof.Machine.Here) (x : Sys2Proof.Machine.Trap) (off : Nat),
     Sys2Proof.Claims.EntersAlone s h x off →
     Sys2Proof.Claims.Entered s (s.takeTrap h.u x) h x off) ∧
  (∀ (s : Sys2Proof.Machine.State) (h : Sys2Proof.Machine.Here) (x : Sys2Proof.Machine.Trap), s.here h.u = some h →
     (h.p.super = false → ∀ n, h.p.halt = .halting n →
       ∃ q, (s.takeTrap h.u x).here h.u = some { u := h.u, p := q, k := h.k } ∧ q.trapHeld = h.p.trapHeld ++ [x] ∧
         q.super = false ∧ q.halt = .halted n ∧ q.ctx = Sys2Proof.Claims.frameCtx h x) ∧
     (h.p.super = false → ∀ n, h.p.halt = .halted n → h.p.wait ≠ some .memory →
       ∃ q, (s.takeTrap h.u x).here h.u = some { u := h.u, p := q, k := h.k } ∧ q.trapHeld = h.p.trapHeld ++ [x] ∧
         q.super = false ∧ q.halt = .halted n ∧ q.ctx = Sys2Proof.Claims.frameCtx h x) ∧
     (h.p.super = true → h.k.handling = none ∨ h.p.entry ≠ none → h.k.crew = none → Sys2Proof.Machine.spRising none s.paths = true →
       let s1 := s.modPath h.u fun p => { p with ctx := Sys2Proof.Claims.frameCtx h x, hints := .none }
       let h1 : Sys2Proof.Machine.Here := { h with p := { h.p with ctx := Sys2Proof.Claims.frameCtx h x, hints := .none } }
       s.takeTrap h.u x = ((s1.report (h.p.home / 16) (s.seqOf h.k)
         (s1.faultRecord h1 x (Sys2Proof.Claims.framePc h x))).killKnot h.p.knot).bump))

/-- R288: RFT with ACTION zero and nothing to replay completes: it restores s30, s31 and their states from bytes 64 to 80 of the frame (one
that is fault-pending there without a fault left to replay is dead), returns to user level at the frame's PC, and resumes the halted
siblings; every other register, the mask, the window and memory are unchanged. R287 to R289: RFT whose ACTION is misused is a double
trap of the knot whatever code it is in. DROPPEND makes every fault-pending register of the path dead. MPRETRY restarts a movement
processor that a fault stopped at the first word of the faulting group, and MPSKIP after the faulting instruction, or at the stop PC of
a fault not found at issue; one that no fault stopped stays as it is. COLLIDE resolves the collided step: by the lowest writers, or
without the records of FAULT regions. R288: RFT with SPILL stores the outermost frames with the registers and states below the last
one's callee base in the spill area, and what is left of the path moves down by as many registers; with FILL it takes the frames and
registers of the area back below its own, which move up, unless the area is of another grant or does not fit, which is a double trap.
R195, R287: without DROPPEND a load that left registers fault-pending is performed again, and fills them; one that faults again leaves
them fault-pending with the new cause. That the record of a misused RFT has the first word of its issue group as PC is the model's
reading of R285 and R288 (log 28). -/
def Obligations.ReturnFromTrap : Prop :=
  (∀ (s : Sys2Proof.Machine.State) (h : Sys2Proof.Machine.Here) (a : Sys2Proof.SReg) (e : Bool) (y : Sys2Proof.Machine.Target),
     let fr := s.readMem y.key y.pa 128
     Sys2Proof.Machine.Admits s h.u h { priv := true } → h.p.ctx.scalState a.toNat = .full →
     h.p.ctx.scalState 30 ≠ .empty → h.p.ctx.scalState 31 ≠ .empty → h.p.pend = .none → h.p.toReplay = [] →
     Sys2Proof.Claims.InPlace s h { rd := true, w := false } (h.p.ctx.scalVal a.toNat).toNat 128 y →
     Sys2Proof.Machine.natOfBytes (Sys2Proof.Machine.sub fr 81 1) = 0 →
     (∀ x, h.p.entry = some x → x.code ≠ .movefault) →
     ∃ t q, Sys2Proof.Machine.exec (.rft a e) s = .next t ∧ t.here h.u = some { u := h.u, p := q, k := h.k } ∧ q.super = false ∧
       q.entry = none ∧
       q.ctx.pc = Sys2Proof.Claims.wordPc (BitVec.ofNat 64 (Sys2Proof.Machine.natOfBytes (Sys2Proof.Machine.sub fr 0 6))) ∧
       (∀ i ∈ [30, 31], (let st := Sys2Proof.Machine.natOfBytes (Sys2Proof.Machine.sub fr 80 1) / 4 ^ (i - 30) % 4
         (st ≠ 3 → q.ctx.scalVal i = BitVec.ofNat 64 (Sys2Proof.Machine.natOfBytes (Sys2Proof.Machine.sub fr (64 + 8 * (i - 30)) 8)) ∧
           (q.ctx.scalState i).code = st) ∧
         (st = 3 → h.p.ctx.scalState (i + 32) = .dead → q.ctx.scalState i = .dead))) ∧
       (∀ n < 32, n ≠ 30 → n ≠ 31 → q.ctx.scalVal n = h.p.ctx.scalVal n ∧ q.ctx.scalState n = h.p.ctx.scalState n) ∧
       q.ctx.vst = h.p.ctx.vst ∧ q.ctx.pst = h.p.ctx.pst ∧ q.ctx.mode = h.p.ctx.mode ∧ q.ctx.fpstat = h.p.ctx.fpstat ∧
       q.ctx.mask = h.p.ctx.mask ∧ q.ctx.base = h.p.ctx.base ∧ q.ctx.frames = h.p.ctx.frames ∧ q.ctx.posts = h.p.ctx.posts ∧
       (∀ v ∈ s.partners h.u h.p h.k, ∀ p, t.path? v = some p → p.halt = .running) ∧
       ∀ key b, t.mem.readByte key b = s.mem.readByte key b) ∧
  (∀ (s : Sys2Proof.Machine.State) (h : Sys2Proof.Machine.Here) (a : Sys2Proof.SReg) (e : Bool) (y : Sys2Proof.Machine.Target)
     (fr : List Sys2Proof.Byte), Sys2Proof.Claims.Returning s h a y fr →
     (Sys2Proof.Claims.RftMisused h fr →
       Sys2Proof.Machine.exec (.rft a e) s = .next (Sys2Proof.Claims.rftDoubled s h (h.p.ctx.scalVal a.toNat))) ∧
     (Sys2Proof.Claims.actionByte fr = 1 → Sys2Proof.Machine.spRising none h.p.ctx.vst = true →
       Sys2Proof.Machine.spRising none h.p.ctx.sst = true → Sys2Proof.Machine.spRising none h.p.ctx.pst = true →
       ∃ t q, Sys2Proof.Machine.exec (.rft a e) s = .next t ∧ Sys2Proof.Claims.Returned t h q h.k fr ∧
         (∀ r, q.ctx.vecState r = if h.p.ctx.vecState r = .pending then .dead else h.p.ctx.vecState r) ∧
         (∀ n < 30, q.ctx.scalState n = if h.p.ctx.scalState n = .pending then .dead else h.p.ctx.scalState n) ∧
         (∀ n < 7, q.ctx.predState n = if h.p.ctx.predState n = .pending then .dead else h.p.ctx.predState n) ∧
         ∀ key b, t.mem.readByte key b = s.mem.readByte key b) ∧
     (∀ c slot w g, h.k.crew = some (c, slot) → Sys2Proof.Machine.spFind c s.crews = some w → h.p.toReplay = [] →
       (Sys2Proof.Claims.actionByte fr = 2 ∨ Sys2Proof.Claims.actionByte fr = 4 → w.engine = some g →
         ∃ t q, Sys2Proof.Machine.exec (.rft a e) s = .next t ∧ Sys2Proof.Claims.Returned t h q h.k fr ∧
           (∀ f, g.mover.run = .stopped → g.mover.fault = some f →
             Sys2Proof.Machine.spFind c t.crews = some { w with engine := some { g with mover := { g.mover with
               run := .running, fault := none, hints := .none, wait := false, blockedAt := none, wrapped := false
               pc := if Sys2Proof.Claims.actionByte fr = 2 then f.pc
                 else if f.atIssue = true then f.pc + BitVec.ofNat 48 (4 * s.heap.groupWords f.pc) else f.stop } } }) ∧
           (g.mover.run ≠ .stopped ∨ g.mover.fault = none → Sys2Proof.Machine.spFind c t.crews = some w)) ∧
       (∀ x, Sys2Proof.Claims.actionByte fr = 32 ∨ Sys2Proof.Claims.actionByte fr = 64 → h.p.entry = some x → x.code = .collide →
         x.pc = BitVec.ofNat 48 (Sys2Proof.Machine.natOfBytes (Sys2Proof.Machine.sub fr 0 6)) →
         ∃ t q v, Sys2Proof.Machine.exec (.rft a e) s = .next t ∧ Sys2Proof.Claims.Returned t h q h.k fr ∧
           Sys2Proof.Machine.spFind c t.crews = some v ∧
           (Sys2Proof.Claims.actionByte fr = 32 → v = { w with decision := 1 }) ∧
           (Sys2Proof.Claims.actionByte fr = 64 → v = { w with writers := v.writers } ∧
             (Sys2Proof.Machine.spRising none w.writers = true → ∀ j,
               (Sys2Proof.Claims.FaultWord w j → Sys2Proof.Machine.spFind j v.writers = none) ∧
               (¬Sys2Proof.Claims.FaultWord w j →
                 Sys2Proof.Machine.spFind j v.writers = Sys2Proof.Machine.spFind j w.writers)))))) ∧
  (∀ (s : Sys2Proof.Machine.State) (h : Sys2Proof.Machine.Here) (a : Sys2Proof.SReg) (e : Bool) (y : Sys2Proof.Machine.Target)
     (fr : List Sys2Proof.Byte), Sys2Proof.Claims.Returning s h a y fr → s.mem.wf = true →
     let area := Sys2Proof.Machine.natOfBytes (Sys2Proof.Machine.sub fr 88 8)
     let other := s.otherLanes h.p.knot h.u
     (∀ m f z, Sys2Proof.Claims.actionByte fr = 8 → h.p.faults = [] → h.p.hasEmpty = false →
       m = Sys2Proof.Machine.natOfBytes (Sys2Proof.Machine.sub fr 82 2) → 0 < m → h.p.ctx.frames[m - 1]? = some f →
       let k := f.base + f.size
       let n := Sys2Proof.Claims.spillLength h k m
       Sys2Proof.Claims.InPlace s h { rd := false, w := true } area n z →
       ∃ t q x, Sys2Proof.Machine.exec (.rft a e) s = .next t ∧ Sys2Proof.Claims.Returned t h q x fr ∧
         q.ctx.frames = (h.p.ctx.frames.drop m).map (fun g => { g with base := g.base - k }) ∧ q.ctx.base = h.p.ctx.base - k ∧
         (Sys2Proof.Machine.spRising none h.p.ctx.vst = true → ∀ j, q.ctx.vecState j = h.p.ctx.vecState (j + k)) ∧
         (∀ j < h.k.alloc - k, ∀ l < h.k.grant, x.lane j l = if other.getLsbD l = true then h.k.lane j l else h.k.lane (j + k) l) ∧
         Sys2Proof.Claims.SpillSays h k m (t.readMem z.key z.pa n) ∧
         s.mem.SameBut t.mem fun b => z.pa ≤ b ∧ b < z.pa + n) ∧
     (∀ z, Sys2Proof.Claims.actionByte fr = 16 → h.p.faults = [] → h.p.hasEmpty = false → h.p.ctx.base = 0 → h.p.ctx.frames = [] →
       Sys2Proof.Claims.InPlace s h { rd := true, w := false } area 16 z →
       let head := s.readMem z.key z.pa 16
       let k := Sys2Proof.Machine.natOfBytes (Sys2Proof.Machine.sub head 0 4)
       let m := Sys2Proof.Machine.natOfBytes (Sys2Proof.Machine.sub head 4 4)
       let fits : Prop := Sys2Proof.Machine.natOfBytes (Sys2Proof.Machine.sub head 8 8) = h.k.grant ∧ k + 32 ≤ h.k.alloc
       (¬fits → Sys2Proof.Machine.exec (.rft a e) s = .next (Sys2Proof.Claims.rftDoubled s h (h.p.ctx.scalVal a.toNat))) ∧
       (∀ x, fits → 0 < m →
         Sys2Proof.Claims.InPlace s h { rd := true, w := false } (area + 16) (Sys2Proof.Claims.spillLength h k m - 16) x →
         let bs := s.readMem x.key x.pa (Sys2Proof.Claims.spillLength h k m - 16)
         ∃ t q j, Sys2Proof.Machine.exec (.rft a e) s = .next t ∧ Sys2Proof.Claims.Returned t h q j fr ∧
           q.ctx.frames.length = m ∧ (∀ i < m, ∀ f, q.ctx.frames[i]? = some f →
             f.ret = Sys2Proof.Claims.wordPc (BitVec.ofNat 64 (Sys2Proof.Machine.natOfBytes (Sys2Proof.Machine.sub bs (16 * i) 6))) ∧
             f.size = Sys2Proof.Machine.natOfBytes (Sys2Proof.Machine.sub bs (16 * i + 6) 1) % 32 ∧
             f.base = Sys2Proof.Machine.natOfBytes (Sys2Proof.Machine.sub bs (16 * i + 8) 2) ∧
             (i + 1 = m → q.ctx.base = f.base + f.size)) ∧
           (∀ r < k, (q.ctx.vecState r).code = Sys2Proof.Machine.field2 (bs.drop (16 * m)) r) ∧
           (Sys2Proof.Machine.spRising none h.p.ctx.vst = true → ∀ r, k ≤ r → r < h.k.alloc →
             q.ctx.vecState r = h.p.ctx.vecState (r - k)) ∧
           (∀ r < h.k.alloc, ∀ l < h.k.grant, j.lane r l =
             if other.getLsbD l = true then h.k.lane r l
             else if r < k then BitVec.ofNat 32 (Sys2Proof.Machine.natOfBytes
               (Sys2Proof.Machine.sub bs (16 * m + (k + 31) / 32 * 8 + 4 * (r * h.k.grant + l)) 4))
             else h.k.lane (r - k) l) ∧
           ∀ key b, t.mem.readByte key b = s.mem.readByte key b)) ∧
     (∀ r z rs, Sys2Proof.Claims.actionByte fr = 0 → h.p.faults = [r] → r.replay.op = .load z → r.dest = .vec rs → r.replay.dest = .vec rs →
       rs ≠ [] → (∀ i ∈ rs, i < 256) → rs.Nodup →
       let user : Sys2Proof.Machine.Here := { h with p := { h.p with super := false } }
       let need : Sys2Proof.Machine.Needs := { rd := true, w := false }
       Sys2Proof.Claims.Walks s h (r.replay.lanes.map (·.va)) → (r.replay.lanes.map (·.lane)).Nodup →
       (∀ ls : List Sys2Proof.Machine.LaneAcc, ls ≠ [] →
         ls.map (fun l => (l.lane, l.va, l.data)) = r.replay.lanes.map (fun l => (l.lane, l.va, l.data)) →
         (∀ l ∈ ls, s.translateLane user z.bytes need l.va = .ok { pa := l.pa, key := l.key } ∧ l.lane < h.k.grant) →
         (∀ l ∈ ls, Sys2Proof.Machine.homeOf l.pa = h.p.home) → s.accessClear h (.load z) ls = true →
         Sys2Proof.Claims.Untouched s z.bytes ls →
         ∃ t q x, Sys2Proof.Machine.exec (.rft a e) s = .next t ∧ Sys2Proof.Claims.Returned t h q x fr ∧ q.faults = [] ∧
           (∀ i ∈ rs, q.ctx.vecState i = .full) ∧ (∀ i, i ∉ rs → q.ctx.vecState i = h.p.ctx.vecState i) ∧
           (∀ p ∈ rs.zipIdx, ∀ l < h.k.grant, x.lane p.1 l =
             ((ls.find? fun b => b.lane == l).map fun b =>
               (Sys2Proof.Machine.loadWords z (s.readMem b.key b.pa z.bytes)).getD p.2 0).getD (h.k.lane p.1 l)) ∧
           ∀ key b, t.mem.readByte key b = s.mem.readByte key b) ∧
       (∀ before l after f, r.replay.lanes = before ++ l :: after →
         (∀ b ∈ before, ∃ g, s.translateLane user z.bytes need b.va = .ok g) →
         s.translateLane user z.bytes need l.va = .error f →
         ∃ t q, Sys2Proof.Machine.exec (.rft a e) s = .next t ∧ Sys2Proof.Claims.Returned t h q h.k fr ∧
           q.faults = [{ r with cause := f.code, lane := l.lane, addr := l.va }] ∧ q.ctx.vst = h.p.ctx.vst)))

/-- R291: PFIX and PFIX.DROP of an entry that is not FAULTED give 0 and change nothing; PFIX.DROP of a FAULTED entry gives the number of its
held operations, frees their records, clears the entry, and opens its stream; PFIX sends the held operations again and gives how many.
R292, R293: CTXSV stores the service tag of the knot, a fresh one at its first, and holds the knot; CTXLD and CTXLD.KILL give 1 and
resume or kill the knot that a tag names, or the path whose image was given to a handler task at that address, and 0 when there is none.
Which unused number a tag gets is the model's choice (log 12); that PFIX retries the copy of the records which the device holds is the
model's reading (log 29). -/
def Obligations.PostFixAndContext : Prop :=
  (∀ (s : Sys2Proof.Machine.State) (h : Sys2Proof.Machine.Here) (d : Sys2Proof.SReg) (i : BitVec 3),
     let e := h.p.ctx.posts.getD i.toNat .free
     (∀ n x, h.p.pend ≠ .pfix n x) →
     ((e.valid && e.faulted) = false →
       Sys2Proof.Claims.RegisterResult s h (.pfix d i) { form := { priv := true }, defer := false, reads := [], scal := some (d, 0) } ∧
       Sys2Proof.Claims.RegisterResult s h (.pfixDrop d i) { form := { priv := true }, defer := false, reads := [], scal := some (d, 0) }) ∧
     (e.valid = true → e.faulted = true → Sys2Proof.Machine.Admits s h.u h { priv := true } → h.p.ctx.scalState d.toNat ≠ .empty →
       (∃ t q, Sys2Proof.Machine.exec (.pfixDrop d i) s = .next t ∧ t.here h.u = some { u := h.u, p := q, k := h.k } ∧
         q.ctx.pc = h.p.ctx.pc + 4 ∧
         (∀ n : Sys2Proof.SReg, q.ctx.scalVal n.toNat =
           if n = d ∧ d ≠ 0 then BitVec.ofNat 64 e.held.length else h.p.ctx.scalVal n.toNat) ∧
         q.ctx.posts = h.p.ctx.posts.modify i.toNat (fun x => if x.outst = 0 then .free else { x with faulted := false, held := [] }) ∧
         q.ctx.vst = h.p.ctx.vst ∧ q.ctx.pst = h.p.ctx.pst ∧
         t.flow = { s.flow with held := s.flow.held.filter fun x =>
           !(x.knot == h.p.knot && x.home == e.home && x.stream == e.stream) } ∧
         ∀ key a, t.mem.readByte key a = s.mem.readByte key a) ∧
       (∀ n t, (((s.modCtx h.u fun c => { c with posts := c.posts.modify i.toNat fun x => { x with faulted := false, held := [] } }).modFlow
           fun f => { f with held := f.held.filter fun x => !(x.knot == h.p.knot && x.home == e.home && x.stream == e.stream) }).retryAll
           h.u i.toNat e 0 e.held) = .ok (n, t) →
         Sys2Proof.Machine.exec (.pfix d i) s = .next ((t.writeScal h.u d.toNat (BitVec.ofNat 64 n)).retire h.u)))) ∧
  (∀ (s : Sys2Proof.Machine.State) (h : Sys2Proof.Machine.Here) (a : Sys2Proof.SReg) (e : Bool),
     Sys2Proof.Machine.Admits s h.u h { priv := true } → h.p.ctx.scalState a.toNat = .full →
     ((h.p.ctx.scalVal a.toNat).toNat % 8 ≠ 0 → Sys2Proof.Machine.exec (.ctxsv a e) s = .next (s.takeTrap h.u
       { code := .align, lane := Sys2Proof.Machine.lowestOf h.p.ctx.mask, addr := h.p.ctx.scalVal a.toNat })) ∧
     (∀ y, (h.p.ctx.scalVal a.toNat).toNat % 8 = 0 → h.k.tag ≠ 0 →
       Sys2Proof.Claims.InPlace s h { rd := false, w := true } (h.p.ctx.scalVal a.toNat).toNat 8 y →
       Sys2Proof.Machine.exec (.ctxsv a e) s = .next
         (((((s.writeMem y.key y.pa (Sys2Proof.Machine.bytesOfNat h.k.tag.toNat 8)).modKnot h.p.knot fun k =>
           { k with serving := true }).retire h.u).modPath h.u fun p =>
             match p.place with
             | .resident st => { p with place := .held st }
             | _ => p).serviceOn h.p.home [h.p.core])) ∧
     (∀ y v s1, (h.p.ctx.scalVal a.toNat).toNat % 8 = 0 → h.k.tag = 0 → s.freeTag = (v, s1) →
       Sys2Proof.Claims.InPlace s h { rd := false, w := true } (h.p.ctx.scalVal a.toNat).toNat 8 y →
       (s.knots.length < 2 ^ 63 → v ≠ 0 ∧ ∀ k ∈ s.knots, k.2.tag ≠ v) ∧
       Sys2Proof.Machine.exec (.ctxsv a e) s = .next
         (((((s1.writeMem y.key y.pa (Sys2Proof.Machine.bytesOfNat v.toNat 8)).modKnot h.p.knot fun k =>
           { k with tag := v, serving := true }).retire h.u).modPath h.u fun p =>
             match p.place with
             | .resident st => { p with place := .held st }
             | _ => p).serviceOn h.p.home [h.p.core])) ∧
     (∀ d : Sys2Proof.SReg, h.p.ctx.scalState d.toNat ≠ .empty →
       (∀ kn, s.heldBy (h.p.ctx.scalVal a.toNat) = some kn →
         Sys2Proof.Machine.exec (.ctxld d a e) s = .next (((s.endService kn).writeScal h.u d.toNat 1).retire h.u) ∧
         Sys2Proof.Machine.exec (.ctxldKill d a e) s = .next (((s.killKnot kn).writeScal h.u d.toNat 1).retire h.u) ∧
         ∀ k, Sys2Proof.Machine.spFind kn s.knots = some k →
           Sys2Proof.Machine.spFind kn (s.endService kn).knots = some { k with serving := false }) ∧
       (∀ u p img, s.heldBy (h.p.ctx.scalVal a.toNat) = none → s.imageAt (h.p.ctx.scalVal a.toNat) = some (u, p, img) →
         Sys2Proof.Machine.exec (.ctxld d a e) s = .next (((s.endHandling u p img).writeScal h.u d.toNat 1).retire h.u) ∧
         Sys2Proof.Machine.exec (.ctxldKill d a e) s = .next (((s.killKnot p.knot).writeScal h.u d.toNat 1).retire h.u)) ∧
       (s.heldBy (h.p.ctx.scalVal a.toNat) = none → s.imageAt (h.p.ctx.scalVal a.toNat) = none →
         Sys2Proof.Claims.RegisterResult s h (.ctxld d a e)
           { form := { priv := true }, defer := false, reads := [Sys2Proof.Claims.scalName a], scal := some (d, 0) } ∧
         Sys2Proof.Claims.RegisterResult s h (.ctxldKill d a e)
           { form := { priv := true }, defer := false, reads := [Sys2Proof.Claims.scalName a], scal := some (d, 0) })))

/-- R123, R124, R130: a hint word of a path or a movement processor is read: the hint is pending, the PC is at the next word, and nothing
else changes. A third hint word, or a second of one kind, is E_ILLEGAL; HINT.RND and HINT.FMT are outside the movement subset. R114,
R121: an illegal encoding is E_ILLEGAL, and a fetch outside the extent of the executing function E_FETCH, or E_PCWRAP after an increment
out of bit 47: a path takes the trap, and a movement processor stops on a movement fault. -/
def Obligations.HintsAndFetchTraps : Prop :=
  (∀ (s : Sys2Proof.Machine.State) (i : Sys2Proof.Instr) (p : BitVec 23) (d : Sys2Proof.Dir) (y : Sys2Proof.TypeCode),
     (∀ h : Sys2Proof.Machine.Here, s.cur = .path h.u → s.here h.u = some h →
       ∀ (same : Bool) (x : Sys2Proof.Machine.Hints),
       ((i, same, x) = (Sys2Proof.Instr.hintImm p, h.p.hints.imm.isSome, { h.p.hints with imm := some p }) ∨
        (i, same, x) = (Sys2Proof.Instr.hintRnd d, h.p.hints.rnd.isSome, { h.p.hints with rnd := some d }) ∨
        (i, same, x) = (Sys2Proof.Instr.hintSched p, h.p.hints.sched, { h.p.hints with sched := true }) ∨
        (i, same, x) = (Sys2Proof.Instr.hintFmt y, h.p.hints.fmt.isSome, { h.p.hints with fmt := some y })) →
       (h.p.hints.words < 2 → same = false → ∃ t q, Sys2Proof.Machine.exec i s = .next t ∧
         t.here h.u = some { u := h.u, p := q, k := h.k } ∧
         q.hints = { x with words := h.p.hints.words + 1 } ∧ q.ctx = { Sys2Proof.Claims.nextWord h.p.ctx with wd := h.counted } ∧
         h.p.Keeps q ∧ q.pend = h.p.pend ∧ s.SameRest t h.u h.p.knot ∧ t.mem = s.mem) ∧
       (2 ≤ h.p.hints.words ∨ same = true → Sys2Proof.Machine.exec i s = .next (s.takeTrap h.u { code := .illegal }))) ∧
     (∀ m : Sys2Proof.Machine.MHere, s.cur = .mover m.c → s.mover? m.c = some m →
       (∀ x, m.e.mover.hints.words < 2 →
         (i, x) = (Sys2Proof.Instr.hintImm p, { m.e.mover.hints with imm := some p }) ∧ m.e.mover.hints.imm = none ∨
         (i, x) = (Sys2Proof.Instr.hintSched p, { m.e.mover.hints with sched := true }) ∧ m.e.mover.hints.sched = false →
         ∃ t, Sys2Proof.Machine.exec i s = .next t ∧ Sys2Proof.Claims.OnlyMover s t m.c m.crew m.e
           { m.e.mover with pc := m.e.mover.pc + 4, wrapped := m.e.mover.pc == 0xFFFFFFFFFFFC#48, wait := false, blockedAt := none
                            hints := { x with words := m.e.mover.hints.words + 1 } }) ∧
       (i = .hintRnd d ∨ i = .hintFmt y → Sys2Proof.Machine.exec i s = .next (s.moveFault m.c .illegal 0 0)))) ∧
  (∀ (s : Sys2Proof.Machine.State),
     (∀ h : Sys2Proof.Machine.Here, s.cur = .path h.u → s.here h.u = some h →
       Sys2Proof.Machine.exec .illegalEncoding s = .next (s.takeTrap h.u { code := .illegal }) ∧
       Sys2Proof.Machine.exec .fetchBeyondExtent s =
         .next (s.takeTrap h.u { code := if h.p.ctx.wrapped = true then .pcwrap else .fetch })) ∧
     (∀ m : Sys2Proof.Machine.MHere, s.cur = .mover m.c → s.mover? m.c = some m →
       Sys2Proof.Machine.exec .illegalEncoding s = .next (s.moveFault m.c .illegal 0 0) ∧
       Sys2Proof.Machine.exec .fetchBeyondExtent s =
         .next (s.moveFault m.c (if m.e.mover.wrapped = true then .pcwrap else .fetch) 0 0)))

/-- R25: a value that arrives makes its register full: each lane that it names has its value and the others keep theirs. R50: a REGROUP
whose window has run out with no partner gives 0 and goes on after its issue group. R53, R281: a watchdog at its limit is E_RUNAWAY at a
boundary. R124, R283: a path in its skid halts at an instruction boundary, back at the start of its issue group. That a halt takes the
pending hint words off the watchdog count is the model's reading (log 28, log 37). -/
def Obligations.PathEvents : Prop :=
  ∀ (s : Sys2Proof.Machine.State) (h : Sys2Proof.Machine.Here), s.here h.u = some h →
    (∀ f rs vals, (h.p.flights.find? fun x => x.id == f.id) = some f → f.dest = .vec rs → f.fill = .lanes vals →
      ∃ t q k, Sys2Proof.Machine.exec (.registerFill h.u f.id) s = .next t ∧ t.here h.u = some { u := h.u, p := q, k := k } ∧
        (∀ r ∈ rs, q.ctx.vecState r = .full ∧ ∀ l < h.k.grant, k.lane r l = Sys2Proof.Claims.filledLane (h.k.lane r)
          (((vals.find? fun e => e.1 == r).map (·.2)).getD []) l) ∧
        (∀ r, r ∉ rs → q.ctx.vecState r = h.p.ctx.vecState r ∧ k.vec r = h.k.vec r) ∧
        q.ctx.scal = h.p.ctx.scal ∧ q.ctx.pc = h.p.ctx.pc ∧ q.flights = h.p.flights.filter (fun x => x.id != f.id) ∧ t.mem = s.mem) ∧
    (∀ f n v, (h.p.flights.find? fun x => x.id == f.id) = some f → f.dest = .scal n → f.fill = .scal v → n ≠ 0 →
      ∃ t q, Sys2Proof.Machine.exec (.registerFill h.u f.id) s = .next t ∧ t.here h.u = some { u := h.u, p := q, k := h.k } ∧
        q.ctx.scalVal n = v ∧ q.ctx.scalState n = .full ∧
        (∀ j, j ≠ n → q.ctx.scalVal j = h.p.ctx.scalVal j ∧ q.ctx.scalState j = h.p.ctx.scalState j) ∧ q.ctx.vst = h.p.ctx.vst) ∧
    (∀ n, h.p.halt = .halting n → ∃ t q, Sys2Proof.Machine.exec (.siblingHalt h.u) s = .next t ∧
      t.here h.u = some { u := h.u, p := q, k := h.k } ∧
      q = { h.p with halt := .halted n, hints := .none, ctx := { h.p.ctx with
        pc := h.p.groupPc, wrapped := h.p.ctx.wrapped && h.p.hints.words == 0
        wd := if h.p.super || h.k.regs.watchdog == 0 then h.p.ctx.wd else h.p.ctx.wd - h.p.hints.words } } ∧
      s.SameRest t h.u h.p.knot ∧ t.mem = s.mem) ∧
    (∀ seat, h.p.place = .resident seat → h.k.regs.watchdog ≠ 0 → h.k.regs.watchdog.toNat ≤ h.p.ctx.wd → h.p.super = false →
      h.p.hints.words = 0 → h.p.trapHeld = [] → h.p.pend = .none → (∀ n, h.p.halt ≠ .halted n) → s.open? h.p.home = true →
      s.knotIssues h.p = true →
      Sys2Proof.Machine.exec (.watchdogExpiry h.u) s = .next (s.takeTrap h.u { code := .runaway })) ∧
    (h.p.trapHeld ≠ [] ∨ (∃ n, h.p.halt = .halted n) ∨ s.open? h.p.home = false ∨ h.p.hints.words ≠ 0 →
      Sys2Proof.Machine.exec (.watchdogExpiry h.u) s = .next s) ∧
    (∀ key c o d seat, h.p.pend = .regroup key c o d → h.p.place = .resident seat → c + 256 < (s.stk h.p.home).cycles →
      Sys2Proof.Machine.firstPair s.eligible [] (s.regroupers h.p.home seat.core seat.part) = none →
      ∃ t q, Sys2Proof.Machine.exec (.regroupWindowExpiry h.u) s = .next t ∧ t.here h.u = some { u := h.u, p := q, k := h.k } ∧
        q.ctx.pc = h.p.ctx.pc + BitVec.ofNat 48 (4 * s.heap.groupWords h.p.ctx.pc) ∧ q.pend = .none ∧ q.wait = none ∧
        (∀ n, q.ctx.scalVal n = if n = d ∧ n ≠ 0 then 0 else h.p.ctx.scalVal n) ∧ q.ctx.vst = h.p.ctx.vst ∧
        q.ctx.mask = h.p.ctx.mask ∧ t.mem = s.mem)

/-- R32 to R37: a hop lands on a core of its destination that has room, when no image waits there, with its registers and control state as
they were; it parks when none has, and is discarded when its brood is cancelled. The oldest image of a stack resumes on a core that can
take it. R35, R294, R332: a switch-out takes a knot of a withdrawn core, then one of a core with too many held for service, then the
longest blocked one for an image that has waited; a crew when none is left, once its engine is at its stopping units. The order of the
reasons for a switch-out, and that a crew is marked as leaving until its engine is at its stopping units, are the model's (log 37). -/
def Obligations.LandingAndParking : Prop :=
  ∀ (s : Sys2Proof.Machine.State),
    (∀ (h : Sys2Proof.Machine.Here) (dest core : Nat), s.here h.u = some h → h.p.place = .flying dest →
      (s.cancelledBrood h.k.brood = true → Sys2Proof.Machine.exec (.hopLanding h.u core) s = .next (s.discard h)) ∧
      (s.cancelledBrood h.k.brood = false → (s.stk dest).halted = true →
        Sys2Proof.Machine.exec (.hopLanding h.u core) s = .next s) ∧
      (s.cancelledBrood h.k.brood = false → (s.stk dest).halted = false →
        (∀ c seat, s.anyParked dest = false → (s.mod (dest / 16)).preempt ≠ .stopped → s.coreFor dest core h.k.regBytes = some c →
          (s.modPath h.u fun p => { p with home := dest }).seatOn dest c = some seat →
          ∃ t, Sys2Proof.Machine.exec (.hopLanding h.u core) s = .next t ∧
            t.here h.u = some { h with p := { h.p with home := dest, place := .resident seat, wait := none, blockedAt := none } } ∧
            s.SameRest t h.u h.p.knot ∧ t.mem = s.mem) ∧
        (∀ t, (s.anyParked dest = true ∨ (s.mod (dest / 16)).preempt = .stopped ∨ s.coreFor dest core h.k.regBytes = none) →
          (s.modPath h.u fun p => { p with home := dest }).imageOut h.u false .parked = some t →
          Sys2Proof.Machine.exec (.hopLanding h.u core) s = .next t.bump ∧
          ∃ q img, t.path? h.u = some q ∧ q.place = .parked img))) ∧
    (∀ home core x, s.open? home = true → s.oldest home = some x →
      (∀ c, s.coreTaking home core x = some c →
        (∀ u p img, x = .path u p img →
          Sys2Proof.Machine.exec (.parkedImageResume home core) s = .next (((s.loadImage u img).sitDown u home c).bump)) ∧
        (∀ n w img, x = .crew n w img →
          Sys2Proof.Machine.exec (.parkedImageResume home core) s = .next (s.resumeCrew n c w img).bump)) ∧
      (s.coreTaking home core x = none → Sys2Proof.Machine.exec (.parkedImageResume home core) s = .next s)) ∧
    (∀ home, s.open? home = true →
      (∀ core kn rest t, s.strandedOn home = (core, kn) :: rest → s.switchOut home core kn = some t →
        Sys2Proof.Machine.exec (.parkSwitchOut home) s = .next t.bump) ∧
      (∀ t, s.strandedOn home = [] → (List.range 32).findSome? (s.serviceNext home) = some t →
        Sys2Proof.Machine.exec (.parkSwitchOut home) s = .next t.bump) ∧
      (∀ core kn since t, s.strandedOn home = [] → (List.range 32).findSome? (s.serviceNext home) = none →
        s.starved home 65536 = true → s.nextIdle home = some (core, kn, since) → s.switchOut home core kn = some t →
        Sys2Proof.Machine.exec (.parkSwitchOut home) s = .next t.bump)) ∧
    (∀ home, s.open? home = true →
      ((∀ x ∈ (s.stk home).withdrawn, s.crewsOn home x = []) → s.starved home 262144 = true → s.nextIdle home = none →
        s.leavers home = s.crewOrder home) ∧
      (∀ c w rest, s.leavers home = (c, w) :: rest → (∀ e ∈ s.crewOrder home, e.2.leaving = false) →
        (w.quiet = true → ∀ t, s.storeCrew c w = some t →
          Sys2Proof.Machine.exec (.crewSwitchOut home) s = .next t.bump) ∧
        (w.quiet = false → Sys2Proof.Machine.exec (.crewSwitchOut home) s =
          .next (s.modCrew c fun w => { w with leaving := true }).bump)) ∧
      (∀ before c w rest, s.leavers home = before ++ (c, w) :: rest → (∀ e ∈ before, e.2.leaving = false) → w.leaving = true →
        (w.quiet = true → ∀ t, s.storeCrew c w = some t →
          Sys2Proof.Machine.exec (.crewSwitchOut home) s = .next t.bump.bump) ∧
        (w.quiet = false → Sys2Proof.Machine.exec (.crewSwitchOut home) s = .next s)))

/-- R221, R231: the matrix unit performs the operation at the head of its queue, none of whose pad words has moved yet; a TZERO among them
leaves a tile of zeros. The accumulator request at the head is granted when enough are free: as many free ones, in ascending order, each
owned by the knot with its token there. R219, R225 to R228: what the operations of the matrix queue do when they are performed. TCFG
sets a tile's configuration and TZERO zeroes it; TLD copies each row's bytes, and each block's header, from the pad, and TST to the pad;
WLD latches a tile, the next one and the scale. Each leaves the other tiles, and the other bytes of the pad, as they are. R223: a TLD or
TST may move pad words, each as one unit, before the rest of it. A TST's word has in the pad the bytes that the TST writes there and no
other byte of the pad changes; the rest leaves that word as it is and writes the others. A TLD's word is read, and the rest gives the
tile what the words held when each was read. When a word moves is the model's schedule (log 4, log 19). R110, R230: an MMA or MMAS that
is performed updates, in each of its rows, the elements of the columns that the latched weights have rows for, by one pass over the 128
elements of the activation row and of the weight row; every other element of the accumulator, and everything else of the engine, is as
before. Which free accumulators are granted is a choice of the device (log 4); that a word of a TLD or TST may move before the rest is
the model's reading of R223 (log 19). -/
def Obligations.MatrixUnitEvents : Prop :=
  (∀ (s : Sys2Proof.Machine.State) (n : Nat) (w : Sys2Proof.Machine.Crew) (e : Sys2Proof.Machine.Engine),
     Sys2Proof.Machine.spFind n s.crews = some w → w.engine = some e →
     (∀ op rest, e.queue = op :: rest → s.unitRuns w e = true → e.words = [] →
       ∃ t, Sys2Proof.Machine.exec (.matrixOperation n) s = .next t ∧ t.mem = s.mem ∧ t.paths = s.paths ∧ t.knots = s.knots ∧
         (let e1 := { e with queue := rest, begun := Sys2Proof.Machine.spPut op.knot op.batch e.begun }
          Sys2Proof.Machine.spFind n t.crews = some ({ w with engine := some e1 }.performMat e1 op.kind) ∧
          (∀ x, op.kind = .zero x → Sys2Proof.Machine.spFind n t.crews = some { w with
            engine := some { e1 with tiles := Sys2Proof.Machine.spPut x { e.tile x with bytes := [], hdr := [], poison := [] } e.tiles } })) ∧
         ∀ j, j ≠ n → Sys2Proof.Machine.spFind j t.crews = Sys2Proof.Machine.spFind j s.crews) ∧
     (∀ kn m rest k, e.accQueue = (kn, m) :: rest → Sys2Proof.Machine.spFind kn s.knots = some k →
       m ≤ ((List.range 8).filter fun i => (e.acc i).owner.isNone).length →
       ∃ t is e1, Sys2Proof.Machine.exec (.accgetGrant n) s = .next t ∧ is.length = m ∧ is.Sublist (List.range 8) ∧
         (∀ i ∈ is, (e.acc i).owner = none) ∧ Sys2Proof.Machine.spFind kn t.knots = some { k with accs := is } ∧
         Sys2Proof.Machine.spFind n t.crews = some { w with engine := some e1 } ∧ e1.accQueue = rest ∧
         (∀ i, e1.acc i = if i ∈ is then { owner := some kn, unit := false, cells := [], poison := [] } else e.acc i) ∧
         t.mem = s.mem ∧ t.paths = s.paths)) ∧
  (∀ (w : Sys2Proof.Machine.Crew) (e : Sys2Proof.Machine.Engine) (t : Nat), w.engine = some e →
     (∀ c, (w.performMat e (.config t c)).pad = w.pad ∧ ∃ f, (w.performMat e (.config t c)).engine = some f ∧
       f.tile t = { e.tile t with cfg := some c } ∧ ∀ u, u ≠ t → f.tile u = e.tile u) ∧
     ((w.performMat e (.zero t)).pad = w.pad ∧ ∃ f, (w.performMat e (.zero t)).engine = some f ∧ (f.tile t).cfg = (e.tile t).cfg ∧
       (∀ r i, (f.tile t).byte r i = 0) ∧ (∀ r b, (f.tile t).header r b = 0) ∧ ∀ u, u ≠ t → f.tile u = e.tile u) ∧
     (∀ z, (w.performMat e (.weights t z)).pad = w.pad ∧ (w.performMat e (.weights t z)).engine =
       some { e with latch := some { low := e.tile t, high := e.tile (t + 1), scale := z } }) ∧
     ∀ eb hb c, (e.tile t).cfg = some c → Sys2Proof.Machine.cfgOk c = true →
       (let nb := Sys2Proof.Claims.blocksPerRow c
        (Sys2Proof.Machine.cellsWf (e.tile t).bytes = true → Sys2Proof.Machine.cellsWf (e.tile t).hdr = true →
          (w.performMat e (.load t eb hb)).pad = w.pad ∧ ∃ f, (w.performMat e (.load t eb hb)).engine = some f ∧
            (f.tile t).cfg = some c ∧ (∀ u, u ≠ t → f.tile u = e.tile u) ∧
            (∀ r i, i < 128 → (f.tile t).byte r i =
              if r < Sys2Proof.Machine.cfgRows c ∧ i < Sys2Proof.Machine.cfgBpr c
              then (Sys2Proof.Machine.cellGet w.pad (eb + r * Sys2Proof.Machine.cfgBpr c + i)).toNat else (e.tile t).byte r i) ∧
            (∀ r b, b < 4 → (f.tile t).header r b =
              if Sys2Proof.Machine.cfgBx c = true ∧ r < Sys2Proof.Machine.cfgRows c ∧ b < nb
              then (Sys2Proof.Machine.cellGet w.pad (hb + 2 * (r * nb + b))).toNat +
                256 * (Sys2Proof.Machine.cellGet w.pad (hb + 2 * (r * nb + b) + 1)).toNat
              else (e.tile t).header r b)) ∧
        (Sys2Proof.Machine.cellsWf w.pad = true →
          (Sys2Proof.Machine.cfgBx c = true → eb + Sys2Proof.Machine.cfgRows c * Sys2Proof.Machine.cfgBpr c ≤ hb ∨
            hb + 2 * (Sys2Proof.Machine.cfgRows c * nb) ≤ eb) →
          (w.performMat e (.store t eb hb)).engine = some e ∧
          (∀ r i, r < Sys2Proof.Machine.cfgRows c → i < Sys2Proof.Machine.cfgBpr c →
            (Sys2Proof.Machine.cellGet (w.performMat e (.store t eb hb)).pad (eb + r * Sys2Proof.Machine.cfgBpr c + i)).toNat =
              (e.tile t).byte r i) ∧
          (Sys2Proof.Machine.cfgBx c = true → ∀ r b, r < Sys2Proof.Machine.cfgRows c → b < nb →
            (Sys2Proof.Machine.cellGet (w.performMat e (.store t eb hb)).pad (hb + 2 * (r * nb + b))).toNat +
              256 * (Sys2Proof.Machine.cellGet (w.performMat e (.store t eb hb)).pad (hb + 2 * (r * nb + b) + 1)).toNat =
                (e.tile t).header r b) ∧
          ∀ a, (a < eb ∨ eb + Sys2Proof.Machine.cfgRows c * Sys2Proof.Machine.cfgBpr c ≤ a) →
            (Sys2Proof.Machine.cfgBx c = true → a < hb ∨ hb + 2 * (Sys2Proof.Machine.cfgRows c * nb) ≤ a) →
            Sys2Proof.Machine.cellGet (w.performMat e (.store t eb hb)).pad a = Sys2Proof.Machine.cellGet w.pad a))) ∧
  (∀ (w : Sys2Proof.Machine.Crew) (e : Sys2Proof.Machine.Engine) (t : Nat) (c : Sys2Proof.DWord) (eb hb : Nat),
     w.engine = some e → (e.tile t).cfg = some c → Sys2Proof.Machine.cellsWf w.pad = true →
     Sys2Proof.Machine.spRising none e.words = true →
     (∀ i, ∃ f, (w.moveWord e (.store t eb hb) i).engine = some f ∧ (Sys2Proof.Machine.spFind i f.words).isSome = true ∧
       { f with words := e.words } = e ∧
       ∀ a, Sys2Proof.Machine.cellGet (w.moveWord e (.store t eb hb) i).pad a =
         if a / 4 = i then Sys2Proof.Machine.cellGet (w.performMat e (.store t eb hb)).pad a else Sys2Proof.Machine.cellGet w.pad a) ∧
     (∀ i, (w.moveWord e (.load t eb hb) i).pad = w.pad ∧ ∃ f x, (w.moveWord e (.load t eb hb) i).engine = some f ∧
       { f with words := e.words } = e ∧ Sys2Proof.Machine.spFind i f.words = some x ∧ x.1.length = 4 ∧
       ∀ j < 4, x.1.getD j 0 = Sys2Proof.Machine.cellGet w.pad (4 * i + j)) ∧
     ((w.finishMat e (.store t eb hb)).engine = some { e with words := [] } ∧
       ∀ a, Sys2Proof.Machine.cellGet (w.finishMat e (.store t eb hb)).pad a =
         if (Sys2Proof.Machine.spFind (a / 4) e.words).isSome = true then Sys2Proof.Machine.cellGet w.pad a
         else Sys2Proof.Machine.cellGet (w.performMat e (.store t eb hb)).pad a) ∧
     ((∀ x ∈ e.words, x.2.1.length = 4) → (w.finishMat e (.load t eb hb)).pad = w.pad ∧
       ∀ p, Sys2Proof.Machine.cellsWf p = true →
         (∀ a, Sys2Proof.Machine.cellGet p a =
           (match Sys2Proof.Machine.spFind (a / 4) e.words with
            | some x => x.1.getD (a % 4) 0
            | none => Sys2Proof.Machine.cellGet w.pad a)) →
         ∃ f g, (w.finishMat e (.load t eb hb)).engine = some f ∧ f.words = [] ∧
           ({ w with pad := p }.performMat e (.load t eb hb)).engine = some g ∧
           ∀ x r j, (f.tile x).byte r j = (g.tile x).byte r j ∧ (f.tile x).header r j = (g.tile x).header r j)) ∧
  (∀ (w : Sys2Proof.Machine.Crew) (e : Sys2Proof.Machine.Engine) (a t : Nat) (k : Sys2Proof.ActType) (rows : List Nat)
     (scales : Option (List Sys2Proof.Word)) (l : Sys2Proof.Machine.Latch) (d : Sys2Proof.DWord),
     w.engine = some e → e.latch = some l → l.low.cfg = some d → rows.Nodup →
     Sys2Proof.Machine.spRising none (e.acc a).cells = true →
     ∃ f, (w.performMat e (.multiply a t k rows scales)).engine = some f ∧ (w.performMat e (.multiply a t k rows scales)).pad = w.pad ∧
       { f with accs := e.accs } = e ∧ (∀ b, b ≠ a → f.acc b = e.acc b) ∧ (f.acc a).owner = (e.acc a).owner ∧
       (f.acc a).unit = (e.acc a).unit ∧
       ∀ r n, n < 128 → Sys2Proof.Machine.spGet 0 (f.acc a).cells (128 * r + n) =
         if r ∈ rows ∧ n < Sys2Proof.Machine.cfgRows d
         then Sys2Proof.Machine.passElement (Sys2Proof.Machine.matrixRow (e.tile t) (e.tile (t + 1)) r)
           (Sys2Proof.Machine.matrixRow l.low l.high n) (scales.map fun ss => (ss.getD (rows.idxOf r) 0, l.scale))
           (Sys2Proof.Machine.spGet 0 (e.acc a).cells (128 * r + n))
         else Sys2Proof.Machine.spGet 0 (e.acc a).cells (128 * r + n))

/-- R89, R236, R243, R245: a sector of a copy whose turn it is is read, and in a later turn written: its 32 bytes are at its destination, in
memory or in the pad, every other byte is as it was, it is no longer listed, and its handle has one more credit, which makes it full
when its count is reached; a copy that reads ahead writes when all its sectors are read. A sector for a full or draining handle is
discarded, and its fault reaches the processor; one whose source cannot be read stops its copy, whose handle is FAULTED. R240, R241: a
fault that has reached a running movement processor stops it at its next word, and goes to the lowest live knot as E_MOVEFAULT. R240:
the engines of a crew whose knots have all ended and whose movement program has ended are released. That a sector is read in one turn
and written in a later one is the model's reading (log 23); that of a knot with several fragments the lowest-numbered one takes
E_MOVEFAULT is its choice (log 28). -/
def Obligations.MovementEvents : Prop :=
  (∀ (s s1 : Sys2Proof.Machine.State) (m : Sys2Proof.Machine.MHere) (c : Sys2Proof.Machine.Copy) (x : Sys2Proof.Machine.Sector),
    Sys2Proof.Claims.SectorGoes s m c x s1 →
    (x.data = none →
      (∀ bs s2, Sys2Proof.Claims.SourceIs s1 m x bs s2 →
        ∃ t e d, Sys2Proof.Machine.exec (.copySector m.c c.id x.idx) s = .next t ∧ t.mem = s2.mem ∧ t.stks = s.stks ∧ t.paths = s.paths ∧
          Sys2Proof.Machine.spFind m.c t.crews = some { m.crew with engine := some e } ∧ e.handles = m.e.handles ∧
          e.mover = m.e.mover ∧ (e.copies.find? fun d => d.id == c.id) = some d ∧
          d = { c with sectors := c.sectors.map fun y => if y.idx = x.idx then { y with data := some bs } else y }) ∧
      (∀ code, s1.sectorRead m x = .error code →
        ∃ t e, Sys2Proof.Machine.exec (.copySector m.c c.id x.idx) s = .next t ∧ t.mem = s1.mem ∧
          Sys2Proof.Machine.spFind m.c t.crews = some { m.crew with engine := some e } ∧
          e.handle c.handle = { m.e.handle c.handle with faulted := true } ∧ e.copies = m.e.copies.filter (fun d => d.id != c.id) ∧
          (m.e.mover.run = .running → m.e.mover.pending = none →
            e.mover.pending = some (Sys2Proof.Claims.sectorFault c x code x.src)))) ∧
    (∀ bs, x.data = some bs →
      (c.ahead = true → (∃ y ∈ c.sectors, y.data = none) →
        Sys2Proof.Machine.exec (.copySector m.c c.id x.idx) s = .next s1) ∧
      (c.ahead = false ∨ (∀ y ∈ c.sectors, y.data ≠ none) →
        ((m.e.handle c.handle).state = .free ∨ (m.e.handle c.handle).state = .filling →
          (∀ y, x.dpad = false → s1.moverTarget m 32 { rd := false, w := true } x.dst = .ok y → s1.mem.wf = true →
            y.pa + 32 ≤ Sys2Proof.Machine.zoneBase → bs.length = 32 →
            (∀ line ∈ Sys2Proof.Machine.linesOf y.pa 32, Sys2Proof.Machine.spFind line s1.mem.lines = none) →
            ∃ t e, Sys2Proof.Machine.exec (.copySector m.c c.id x.idx) s = .next t ∧ t.readMem y.key y.pa 32 = bs ∧
              s1.mem.SameBut t.mem (fun a => y.pa ≤ a ∧ a < y.pa + 32) ∧
              Sys2Proof.Machine.spFind m.c t.crews = some { m.crew with engine := some e } ∧
              e.handle c.handle = Sys2Proof.Claims.credited (m.e.handle c.handle) ∧ Sys2Proof.Claims.SectorOver m.e e c x) ∧
          (x.dpad = true → x.dst.toNat + 32 ≤ m.crew.padSize → m.crew.touchesPlane x.dst.toNat 32 = false →
            Sys2Proof.Machine.cellsWf m.crew.pad = true → bs.length = 32 →
            ∃ t w e, Sys2Proof.Machine.exec (.copySector m.c c.id x.idx) s = .next t ∧ t.mem = s1.mem ∧
              Sys2Proof.Machine.spFind m.c t.crews = some w ∧ w.engine = some e ∧
              Sys2Proof.Machine.cellRead w.pad x.dst.toNat 32 = bs ∧
              (∀ a, a < x.dst.toNat ∨ x.dst.toNat + 32 ≤ a →
                Sys2Proof.Machine.cellGet w.pad a = Sys2Proof.Machine.cellGet m.crew.pad a) ∧
              e.handle c.handle = Sys2Proof.Claims.credited (m.e.handle c.handle) ∧ Sys2Proof.Claims.SectorOver m.e e c x)) ∧
        ((m.e.handle c.handle).state = .full ∨ (m.e.handle c.handle).state = .draining →
          ∃ t e, Sys2Proof.Machine.exec (.copySector m.c c.id x.idx) s = .next t ∧ t.mem = s1.mem ∧
            Sys2Proof.Machine.spFind m.c t.crews = some { m.crew with engine := some e } ∧
            e.handle c.handle = m.e.handle c.handle ∧ Sys2Proof.Claims.SectorOver m.e e c x ∧
            (m.e.mover.run = .running → m.e.mover.pending = none →
              e.mover.pending = some (Sys2Proof.Claims.sectorFault c x .handle 0)))))) ∧
  (∀ (s : Sys2Proof.Machine.State) (m : Sys2Proof.Machine.MHere) (f : Sys2Proof.Machine.MoveFault),
    s.mover? m.c = some m → s.moverRuns m.c = true → m.e.mover.run = .running → m.e.mover.pending = some f →
    m.e.mover.hints.words = 0 → m.e.mover.list = [] →
    ∃ t w e, Sys2Proof.Machine.exec (.movementFault m.c) s = .next t ∧ Sys2Proof.Machine.spFind m.c t.crews = some w ∧
      w.engine = some e ∧ e.mover.run = .stopped ∧ e.mover.fault = some { f with stop := m.e.mover.pc } ∧ e.mover.pending = none ∧
      (∀ slot (h : Sys2Proof.Machine.Here) off r, s.lowestLive m.c = some (slot, h.u) → s.here h.u = some h →
        h.p.hints.words = 0 ∨ h.p.wait ≠ none →
        s.takeArea m.crew.home { kind := .movement, len := 64, own := some h.p.knot } = some (off, r) →
        e.mover.reported = true ∧ ∃ q, t.path? h.u = some q ∧ q.ctx.pc = h.p.groupPc ∧ q.trapHeld = h.p.trapHeld ++
          [{ code := .movefault, addr := Sys2Proof.Machine.windowAddr h.k.regs.window m.crew.home off }]) ∧
      (m.crew.live = [] → e.mover.reported = true ∧ t.paths = s.paths ∧
        ∀ la, Sys2Proof.Machine.spFind m.crew.launch s.launches = some la →
          Sys2Proof.Machine.spFind m.crew.launch t.launches = some { la with moveFault := true })) ∧
  (∀ (s : Sys2Proof.Machine.State) (c : Nat) (w : Sys2Proof.Machine.Crew) (e : Sys2Proof.Machine.Engine),
    Sys2Proof.Machine.spFind c s.crews = some w → w.engine = some e → w.size ≤ w.ended.length → e.copies = [] →
    e.mover.run = .ended → Sys2Proof.Machine.exec (.engineRelease c) s = .next (s.removeCrew c).bump ∧
      (Sys2Proof.Machine.spRising none s.crews = true → ∀ j, Sys2Proof.Machine.spFind j (s.removeCrew c).bump.crews =
        if j = c then none else Sys2Proof.Machine.spFind j s.crews))

/-- R254, R263: a record that no earlier one of its path precedes joins the batch of its stamp at its clutch, or opens it. A batch is
launched when a record makes it COALESCE records long, when its timer has run out, when the launch's own knots have all ended, and at
once by a record that arrives after that: its task, with its records in order, joins the work of its node's stack, and the batch is no
longer open. R274: a record of a cancelled brood is dropped. That a record which arrives after the launch's own knots have ended is
launched at once is the model's choice (log 36). -/
def Obligations.ClutchEvents : Prop :=
  ∀ (s : Sys2Proof.Machine.State) (la : Sys2Proof.Machine.Launch) (nd : Sys2Proof.Machine.Node),
    (∀ r, (s.flow.emits.find? fun x => x.id == r.id) = some r → Sys2Proof.Machine.spFind r.launch s.launches = some la →
      Sys2Proof.Machine.spFind r.node la.nodes = some nd → (s.stk (16 * la.module + nd.ent.home)).halted = false →
      (∀ x ∈ s.flow.emits, x.path = r.path → x.launch = r.launch → x.node = r.node → r.id ≤ x.id) →
      ∃ t, Sys2Proof.Machine.exec (.clutchRecordArrival r.id) s = .next t ∧ t.mem = s.mem ∧ t.paths = s.paths ∧
        t.flow.emits = s.flow.emits.filter (fun x => x.id != r.id) ∧
        (s.cancelledBrood r.stamp = true → t.launches = s.launches ∧ t.stks = s.stks) ∧
        (s.cancelledBrood r.stamp = false → ∃ l2 n2, Sys2Proof.Machine.spFind r.launch t.launches = some l2 ∧
          Sys2Proof.Machine.spFind r.node l2.nodes = some n2 ∧
          (let old := ((nd.batches.find? fun b => b.brood == r.stamp).map (·.records)).getD []
           (la.ownEnded = false → old.length + 1 < nd.ent.coalesce → t.stks = s.stks ∧
             ((∀ b ∈ nd.batches, b.brood ≠ r.stamp) → n2.batches = nd.batches ++
               [{ brood := r.stamp, opened := (s.stk (16 * la.module + nd.ent.home)).cycles, records := [r.words] }]) ∧
             ((∃ b ∈ nd.batches, b.brood = r.stamp) → n2.batches = nd.batches.map fun b =>
               if b.brood = r.stamp then { b with records := b.records ++ [r.words] } else b)) ∧
           (la.ownEnded = true ∨ nd.ent.coalesce ≤ old.length + 1 →
             n2.batches = nd.batches.filter (fun b => b.brood != r.stamp) ∧
             ∃ w ∈ (t.stk (16 * la.module + nd.ent.home)).work,
               w.launch = r.launch ∧ w.kind = .task r.node r.stamp (old ++ [r.words]))))) ∧
    (∀ l, Sys2Proof.Machine.spFind l s.launches = some la → s.ownDone l la = true → la.ownEnded = false →
      Sys2Proof.Machine.spRising none la.nodes = true →
      ∃ l2, Sys2Proof.Machine.spFind l (s.flushLaunch l).launches = some l2 ∧ l2.ownEnded = true ∧
        ∀ n x, Sys2Proof.Machine.spFind n la.nodes = some x →
          (∃ x2, Sys2Proof.Machine.spFind n l2.nodes = some x2 ∧ x2.batches = []) ∧
          ∀ b ∈ x.batches, ∃ w ∈ ((s.flushLaunch l).stk (16 * la.module + x.ent.home)).work,
            w.launch = l ∧ w.kind = .task n b.brood b.records) ∧
    (∀ l n b, Sys2Proof.Machine.spFind l s.launches = some la → Sys2Proof.Machine.spFind n la.nodes = some nd →
      (nd.batches.find? fun x => x.brood == b.brood) = some b → nd.ent.timer ≠ 0 →
      (s.stk (16 * la.module + nd.ent.home)).halted = false →
      b.opened + nd.ent.timer ≤ (s.stk (16 * la.module + nd.ent.home)).cycles →
      ∃ t, Sys2Proof.Machine.exec (.clutchTimer l n b.brood.toNat) s = .next t ∧ t.mem = s.mem ∧ t.paths = s.paths ∧
        (∃ l2 n2, Sys2Proof.Machine.spFind l t.launches = some l2 ∧ Sys2Proof.Machine.spFind n l2.nodes = some n2 ∧
          n2.batches = nd.batches.filter (fun x => x.brood != b.brood)) ∧
        ∃ w ∈ (t.stk (16 * la.module + nd.ent.home)).work, w.launch = l ∧ w.kind = .task n b.brood b.records)

/-- R248, R251, R254, R256 to R259: the launch unit takes the record at HEAD of the queue of highest priority, moves HEAD and gives it the
next sequence number; a record that fails its checks completes with REFUSED. Work at the head of a stack's order is placed where there
is room; a stack without work takes the newest batch of the stack that has most; a launch whose work has all ended completes. How work
is handed out and placed is the model's choice within the rules (log 36). -/
def Obligations.LaunchEvents : Prop :=
  ∀ (s : Sys2Proof.Machine.State),
    (∀ m prio q, s.strap.hasModule m = true → (s.mod m).preempt = .running → (s.mod m).current = none →
      (s.pullQueues m).nextQueue m = some (prio, q) →
      let s0 := s.pullQueues m
      let head := s0.readRawNat (q.header + 24) 8
      let slot := q.base + head % q.slots * 512
      let s1 := s0.pull slot 512
      let bs := s1.readRaw slot 512
      let compl := (Sys2Proof.Machine.recordOf bs).compl
      let parent := Sys2Proof.Machine.broodField bs
      let seq := (s.mod m).seq + 1
      let s2 := (s1.writeRaw (q.header + 24) (Sys2Proof.Machine.bytesOfNat (head + 1) 8)).setMod m fun x => { x with seq := seq }
      let s3 := s2.tablePull q.regs m bs
      let legal : Prop := Sys2Proof.Machine.recordOk s.heap prio bs = true ∧ (parent = 0 ∨ ∃ b, s.brood? parent = some b ∧ b.depth < 255)
      (s1.completeStalled q.regs m compl = true → Sys2Proof.Machine.exec (.launchRecordTake m) s = .next s) ∧
      (s1.completeStalled q.regs m compl = false →
        (¬legal → Sys2Proof.Machine.exec (.launchRecordTake m) s = .next (s2.complete q.regs m q.header seq compl 3).bump) ∧
        (legal → s1.tableStalled q.regs m bs = true → Sys2Proof.Machine.exec (.launchRecordTake m) s = .next s) ∧
        (legal → s1.tableStalled q.regs m bs = false →
          (s3.nodesFor q.regs m bs = none →
            Sys2Proof.Machine.exec (.launchRecordTake m) s = .next (s3.complete q.regs m q.header seq compl 3).bump) ∧
          ∀ nodes, s3.nodesFor q.regs m bs = some nodes →
            (parent ≠ 0 ∧ s.cancelledBrood parent = true →
              Sys2Proof.Machine.exec (.launchRecordTake m) s = .next (s3.complete q.regs m q.header seq compl 2).bump) ∧
            (parent = 0 ∨ s.cancelledBrood parent = false →
              Sys2Proof.Machine.exec (.launchRecordTake m) s = .next (s3.launch m seq q bs nodes).bump)))) ∧
    (∀ home w ws la, Sys2Proof.Claims.PlacesOn s home w ws → Sys2Proof.Machine.spFind w.launch s.launches = some la →
      (∀ n g seat, s.nextKnot la w = some n → s.placeFor home la n = some (g, seat) →
        ∃ t, Sys2Proof.Machine.exec (.knotPlacement home) s = .next t ∧ t.mem = s.mem ∧
          ∃ u kn p k, t.here u = some { u := u, p := p, k := k } ∧ p.knot = kn ∧ p.home = home ∧ p.place = .resident seat ∧
            p.ctx.pc = BitVec.ofNat 48 n.entry ∧ k.grant = g ∧ k.alloc = n.alloc ∧ k.knotId = n.knotId ∧ k.brood = n.brood ∧
            k.regs = la.regs ∧ p.ctx.stamp = n.brood) ∧
      (∀ idx, w.kind = .crew idx → s.crewCore home la = none → Sys2Proof.Machine.exec (.crewPlacement home) s = .next s) ∧
      (∀ idx core g, w.kind = .crew idx → s.crewCore home la = some (core, g) →
        ∃ t c x, Sys2Proof.Machine.exec (.crewPlacement home) s = .next t ∧ t.mem = s.mem ∧ (t.stk home).work = ws ∧
          Sys2Proof.Machine.spFind c t.crews = some x ∧ x.place = .core core ∧ x.index = idx ∧ x.home = home ∧
          x.padSize = la.what.pad ∧ x.pad = [])) ∧
    (∀ thief victim w, s.open? thief = true → (s.stk thief).work = [] → s.stackSlots thief ≠ 0 → victim ≠ thief →
      Sys2Proof.Machine.leastBy (fun h => 18446744073709551616 - s.anyCount h)
        ((s.strap.homesOf (thief / 16)).filter fun h => h != thief && decide (0 < s.anyCount h) && s.open? h) = some victim →
      Sys2Proof.Machine.newest ((s.stk victim).work.filter fun w => w.any && w.own) = some w →
      let ws := s.stolen victim
      (∀ x ∈ ws, x ∈ (s.stk victim).work ∧ x.any = true ∧ x.own = true ∧ x.batch = w.batch) ∧
      (ws.map fun x => x.size (s.crewSize w.launch)).sum ≤ 64 ∧
      (w.size (s.crewSize w.launch) ≤ 64 → w ∈ ws) ∧
      (ws ≠ [] → ∃ t, Sys2Proof.Machine.exec (.stealMessage thief) s = .next t ∧
        (t.stk thief).work.Perm (ws.map fun x => { x with cycle := (s.stk thief).cycles, batch := s.uid }) ∧
        (t.stk victim).work = ws.foldl List.erase (s.stk victim).work ∧
        (∀ j, j ≠ thief → j ≠ victim → t.stk j = s.stk j) ∧ t.mem = s.mem ∧ t.paths = s.paths)) ∧
    (∀ l la, Sys2Proof.Machine.spFind l s.launches = some la → la.ownEnded = true → s.launchDone l la = true →
      Sys2Proof.Machine.spRising none s.launches = true →
      (s.completeStalled la.regs la.module la.what.compl = true → Sys2Proof.Machine.exec (.launchCompletion l) s = .next s) ∧
      (s.completeStalled la.regs la.module la.what.compl = false →
        ∃ t, Sys2Proof.Machine.exec (.launchCompletion l) s = .next t ∧ Sys2Proof.Machine.spFind l t.launches = none ∧
          t.mem = (s.complete la.regs la.module la.queue la.seq la.what.compl la.status).mem)) ∧
    (∀ l la, s.launchDone l la = true → (∀ p ∈ s.flow.posts, p.launch ≠ l) ∧ (∀ x ∈ s.flow.emits, x.launch ≠ l) ∧
      ∀ k ∈ s.knots, k.2.launch ≠ l)

/-- R71, R327: a host access outside the memory present is answered with an error; a read returns the bytes of memory, of the host's own
copy where it holds a line modified, and a write stores them; a line taken shared or modified is noted, and one written back is stored
at its home and no longer held. R325: a configuration write gives the command ring. R332: an uncorrectable error of memory poisons the
sector of 32 bytes and sets UNCORR; a corrected one changes nothing. A core is withdrawn by its 64th corrected error within 2^30 cycles
and by an uncorrectable one of a register, the pad or an accumulator, which its reader then meets. R333: the governor moves the clock by
25 MHz between 700 and 1,400. That a corrected error changes nothing but its core's count is the model's reading (log 35). -/
def Obligations.HostAndServiceEvents : Prop :=
  ∀ (s : Sys2Proof.Machine.State),
    (∀ op pa n, Sys2Proof.Machine.hostRange op = (pa, n) →
      (s.hostReach pa n = false → Sys2Proof.Machine.exec (.hostAccess op) s =
        .next { s with host := { data := [], error := true }, serial := s.serial + 1 }) ∧
      (s.hostReach pa n = true → (s.stk (Sys2Proof.Machine.homeOf pa)).halted = true →
        Sys2Proof.Machine.exec (.hostAccess op) s = .next s)) ∧
    (∀ pa n, s.hostReach pa n = true → (s.stk (Sys2Proof.Machine.homeOf pa)).halted = false →
      Sys2Proof.Machine.exec (.hostAccess (.read pa n)) s = .next { s with
        host := { data := (List.range n).map fun i => Sys2Proof.Claims.hostByte s (pa + i), error := false }, serial := s.serial + 1 } ∧
      (s.mem.lines = [] → (List.range n).map (fun i => Sys2Proof.Claims.hostByte s (pa + i)) = s.readRaw pa n)) ∧
    (∀ pa bs, s.hostReach pa bs.length = true → (s.stk (Sys2Proof.Machine.homeOf pa)).halted = false → s.mem.wf = true →
      ∃ t, Sys2Proof.Machine.exec (.hostAccess (.write pa bs)) s = .next t ∧ t.readRaw pa bs.length = bs ∧
        (s.mem.SameBut t.mem fun b => (pa ≤ b ∧ b < pa + bs.length) ∨
          ∃ j ∈ Sys2Proof.Machine.linesOf pa bs.length, ∃ line, Sys2Proof.Machine.spFind j s.mem.lines = some line ∧
            64 * j ≤ b ∧ b < 64 * j + line.length) ∧
        (∀ b line, b < pa ∨ pa + bs.length ≤ b → Sys2Proof.Machine.spFind (b / 64) s.mem.lines = some line → line.length = 64 →
          Sys2Proof.Claims.hostByte t b = Sys2Proof.Claims.hostByte s b) ∧
        t.host = { data := [], error := false } ∧ t.paths = s.paths ∧ t.knots = s.knots) ∧
    (∀ pa, s.hostReach (pa / 64 * 64) 64 = true → (s.stk (Sys2Proof.Machine.homeOf (pa / 64 * 64))).halted = false →
      (∃ t, Sys2Proof.Machine.exec (.hostAccess (.takeShared pa)) s = .next t ∧ pa / 64 ∈ t.mem.shared ∧
        t.host = { data := (List.range 64).map fun i => Sys2Proof.Claims.hostByte s (pa / 64 * 64 + i), error := false } ∧
        t.mem = { s.mem with shared := t.mem.shared } ∧ t.paths = s.paths ∧ t.knots = s.knots) ∧
      (∀ bs, bs.length = 64 → ∃ t, Sys2Proof.Machine.exec (.hostAccess (.takeModified pa bs)) s = .next t ∧
        Sys2Proof.Machine.spFind (pa / 64) t.mem.lines = some bs ∧ pa / 64 ∈ t.mem.shared ∧
        (∀ j, j ≠ pa / 64 → Sys2Proof.Machine.spFind j t.mem.lines = Sys2Proof.Machine.spFind j s.mem.lines) ∧
        t.mem = { s.mem with shared := t.mem.shared, lines := t.mem.lines } ∧ t.paths = s.paths ∧ t.knots = s.knots) ∧
      (∀ bs, Sys2Proof.Machine.spFind (pa / 64) s.mem.lines = some bs → bs.length = 64 → s.mem.wf = true →
        ∃ t, Sys2Proof.Machine.exec (.hostAccess (.writeBack pa)) s = .next t ∧ t.readRaw (pa / 64 * 64) 64 = bs ∧
          Sys2Proof.Machine.spFind (pa / 64) t.mem.lines = none ∧ pa / 64 ∉ t.mem.shared ∧
          (s.mem.SameBut t.mem fun a => pa / 64 * 64 ≤ a ∧ a < pa / 64 * 64 + 64) ∧ t.paths = s.paths ∧ t.knots = s.knots)) ∧
    (∀ m header, (s.strap.hasModule m = true → ∃ t, Sys2Proof.Machine.exec (.larzonConfigurationSpaceWrite m header) s = .next t ∧
        t.mod m = { s.mod m with ring := some header } ∧ (∀ j, j ≠ m → t.mod j = s.mod j) ∧ t.mem = s.mem ∧ t.paths = s.paths) ∧
      (s.strap.hasModule m = false → Sys2Proof.Machine.exec (.larzonConfigurationSpaceWrite m header) s = .next s)) ∧
    (∀ pa, s.strap.hasHome (Sys2Proof.Machine.homeOf pa) = true → Sys2Proof.Machine.homeOf pa ≠ Sys2Proof.Config.hostHome →
      Sys2Proof.Machine.zoneBase ≤ pa ∨ Sys2Proof.Machine.validPa s.strap pa = true →
      ∃ t, Sys2Proof.Machine.exec (.eccError (.dramUncorrected pa)) s = .next t ∧ t.mem.poisoned pa 1 = true ∧
        (t.mod (Sys2Proof.Machine.homeOf pa / 16)).uncorr = true ∧ t.mem.bytes = s.mem.bytes ∧ t.mem.zone = s.mem.zone ∧
        t.paths = s.paths) ∧
    (∀ pa, Sys2Proof.Machine.exec (.eccError (.dramCorrected pa)) s = .next s) ∧
    (∀ home core, s.strap.hasHome home = true → core < 32 →
      let recent := ((s.stk home).corrected.filter fun e => e.1 == core && decide ((s.stk home).cycles < e.2 + 2 ^ 30)).length
      let noted := s.setStk home fun x => { x with corrected := (core, x.cycles) :: x.corrected }
      (recent < 63 → Sys2Proof.Machine.exec (.eccError (.coreCorrected home core)) s = .next noted.bump) ∧
      (63 ≤ recent → core ∉ (s.stk home).withdrawn → ∃ t, Sys2Proof.Machine.exec (.eccError (.coreCorrected home core)) s = .next t ∧
        Sys2Proof.Claims.Withdrawn t home core)) ∧
    (∀ (h : Sys2Proof.Machine.Here) reg st, s.here h.u = some h → h.p.place = .resident st ∨ h.p.place = .held st →
      (st.core ∉ (s.stk h.p.home).withdrawn → ∃ t, Sys2Proof.Machine.exec (.eccError (.registerUncorrected h.u reg)) s = .next t ∧
        Sys2Proof.Claims.Withdrawn t h.p.home st.core ∧ (t.mod (h.p.home / 16)).uncorr = true) ∧
      ((s.stk h.p.home).halted = true ∨ st.core ∈ (s.stk h.p.home).withdrawn →
        let r := Sys2Proof.Machine.regNamed reg
        ∃ t q, Sys2Proof.Machine.exec (.eccError (.registerUncorrected h.u reg)) s = .next t ∧
          t.here h.u = some { u := h.u, p := q, k := h.k } ∧ (t.mod (h.p.home / 16)).uncorr = true ∧ t.mem = s.mem ∧
          (h.p.ctx.stateOf r = .full → r ≠ { file := .scal, num := 0 } → r ≠ { file := .pred, num := 7 } →
            q.ctx.stateOf r = .pending ∧ (r.file ≠ .pred → ∃ f ∈ q.faults, r ∈ f.dest.names ∧ f.cause = .poison)) ∧
          ∀ x, x ≠ r → q.ctx.stateOf x = h.p.ctx.stateOf x)) ∧
    (∀ c w core, Sys2Proof.Machine.spFind c s.crews = some w → w.place = .core core → core ∉ (s.stk w.home).withdrawn →
      (∀ off, ∃ t, Sys2Proof.Machine.exec (.eccError (.padUncorrected c off)) s = .next t ∧
        Sys2Proof.Claims.Withdrawn t w.home core ∧ (t.mod (w.home / 16)).uncorr = true ∧
        ((s.stk w.home).halted = true → ∃ v, Sys2Proof.Machine.spFind c t.crews = some v ∧ v = { w with poison := v.poison } ∧
          ∀ sec, sec ∈ v.poison ↔ sec ∈ w.poison ∨ (off < w.padSize ∧ sec = off / 32))) ∧
      (∀ a r col g, w.engine = some g → ∃ t, Sys2Proof.Machine.exec (.eccError (.accUncorrected c a r col)) s = .next t ∧
        Sys2Proof.Claims.Withdrawn t w.home core ∧ (t.mod (w.home / 16)).uncorr = true ∧
        ((s.stk w.home).halted = true → ∀ x, Sys2Proof.Machine.spFind a g.accs = some x → ∃ v g2 x2,
          Sys2Proof.Machine.spFind c t.crews = some v ∧ v.engine = some g2 ∧ Sys2Proof.Machine.spFind a g2.accs = some x2 ∧
          x2.cells = x.cells ∧ ∀ i, i ∈ x2.poison ↔ i ∈ x.poison ∨ i = 128 * r + col))) ∧
    (∀ m, s.strap.hasModule m = true →
      ((s.mod m).clock + 25 ≤ 1400 → ∃ t, Sys2Proof.Machine.exec (.governorStep m true) s = .next t ∧
        t.mod m = { s.mod m with clock := (s.mod m).clock + 25 } ∧ t.mem = s.mem ∧ t.paths = s.paths) ∧
      (725 ≤ (s.mod m).clock → ∃ t, Sys2Proof.Machine.exec (.governorStep m false) s = .next t ∧
        t.mod m = { s.mod m with clock := (s.mod m).clock - 25 } ∧ t.mem = s.mem ∧ t.paths = s.paths))

/-- R326, R337: QREG registers a queue with legal operands under its priority, and completes with BADARG otherwise. R324: KEYLOAD loads a
slot from 1 to 63 from a record that opens. R326: SIGNKEY registers a trusted key while fewer than 64 others are. R326: an OP that is
not listed is BADARG. R326, R335: ATTEST writes a report that begins with the nonce and the measurement; DEVHASH writes the 32 bytes of
the device hash; WLIST writes the map of withdrawn cores, whose bit 32 s + c is set when core c of stack s is withdrawn. An address that
does not exist is BADARG. The layout of operands, the report and the key record is the model's (log 31, log 32, log 33), and so are the
statuses of operands out of range (log 38). -/
def Obligations.RegistrationAndReports : Prop :=
  (∀ (s s0 : Sys2Proof.Machine.State) (m : Nat) (c : Sys2Proof.Machine.Command),
     (Sys2Proof.Claims.Commanded s m 1 c s0 →
       (let s1 := s0.pull (Sys2Proof.Machine.fieldAt c.bytes 16 8) 64
        (s1.qregOk c = true → ∃ (s2 : Sys2Proof.Machine.State) (q : Sys2Proof.Machine.QueueReg),
          Sys2Proof.Machine.exec (.qreg m) s = .next (s2.finish c 1) ∧
          (s2.mod m).queues = Sys2Proof.Machine.spPut (Sys2Proof.Machine.fieldAt c.bytes 8 1) q (s.mod m).queues ∧
          q.header = Sys2Proof.Machine.fieldAt c.bytes 16 8 ∧ q.base = s1.readRawNat q.header 8 ∧
          q.slots = s1.readRawNat (q.header + 8) 4 ∧ q.regs = c.regs ∧ s2.mem = s1.mem ∧ s2.paths = s.paths ∧
          ∀ j, j ≠ m → s2.mod j = s.mod j) ∧
        (s1.qregOk c = false → Sys2Proof.Machine.exec (.qreg m) s = .next (s1.finish c 2)))) ∧
     (Sys2Proof.Claims.Commanded s m 4 c s0 →
       (let s1 := s0.pull (c.arg 1) Sys2Proof.Config.keyRecordBytes
        (0 < c.arg 0 → c.arg 0 < 64 →
          ∃ (s2 : Sys2Proof.Machine.State) (st : Nat), Sys2Proof.Machine.exec (.keyload m) s = .next (s2.finish c st) ∧ s2.mem = s1.mem ∧
            (∀ j, j ≠ m → s2.mod j = s.mod j) ∧
            match (if Sys2Proof.Machine.physOk s.strap (c.arg 1) Sys2Proof.Config.keyRecordBytes = true
              then Sys2Proof.Config.openKeyRecord m (s1.readRaw (c.arg 1) Sys2Proof.Config.keyRecordBytes) else none) with
            | some key => st = 1 ∧ (s2.mod m).keys = Sys2Proof.Machine.spPut (c.arg 0) key (s.mod m).keys
            | none => st = 2 ∧ s2 = s1) ∧
        (c.arg 0 = 0 ∨ 64 ≤ c.arg 0 → Sys2Proof.Machine.exec (.keyload m) s = .next (s1.finish c 2)))) ∧
     (Sys2Proof.Claims.Commanded s m 14 c s0 →
       (let s1 := s0.pull (c.arg 1) Sys2Proof.Config.signKeyBytes
        let record := s1.readRaw (c.arg 1) Sys2Proof.Config.signKeyBytes
        let id := BitVec.ofNat 64 (c.arg 0)
        let others := (s.mod m).signKeys.filter fun k => k.1 != id
        let trusted := Sys2Proof.Machine.physOk s.strap (c.arg 1) Sys2Proof.Config.signKeyBytes && (s.mod m).keyTrusted record
        ∃ (s2 : Sys2Proof.Machine.State) (st : Nat), Sys2Proof.Machine.exec (.signkey m) s = .next (s2.finish c st) ∧ s2.mem = s1.mem ∧
          (∀ j, j ≠ m → s2.mod j = s.mod j) ∧
          (trusted = false → st = 2 ∧ s2 = s1) ∧ (trusted = true → 64 ≤ others.length → st = 3 ∧ s2 = s1) ∧
          (trusted = true → others.length < 64 → st = 1 ∧
            (s2.mod m).signKeys = others ++ [(id, record.take (record.length - 512))]))) ∧
     (∀ n, Sys2Proof.Claims.Commanded s m n c s0 → n = 0 ∨ 14 < n →
       Sys2Proof.Machine.exec (.unlistedCommand m) s = .next (s0.finish c 2))) ∧
  (∀ (s s0 : Sys2Proof.Machine.State) (m : Nat) (c : Sys2Proof.Machine.Command),
     (Sys2Proof.Claims.Commanded s m 11 c s0 →
       let s1 := s0.pull (c.arg 0) 64
       let bs := s1.attestation m (s1.readRaw (c.arg 0) 64)
       (Sys2Proof.Machine.physOk s.strap (c.arg 0) 64 = true → Sys2Proof.Machine.physOk s.strap (c.arg 1) bs.length = true →
         Sys2Proof.Machine.exec (.attest m) s = .next ((s1.writeRaw (c.arg 1) bs).finish c 1) ∧ bs.take 64 = s1.readRaw (c.arg 0) 64 ∧
           Sys2Proof.Machine.sub bs 64 64 = Sys2Proof.Machine.digestBytes (s.mod m).measure) ∧
       (Sys2Proof.Machine.physOk s.strap (c.arg 0) 64 = false ∨ Sys2Proof.Machine.physOk s.strap (c.arg 1) bs.length = false →
         Sys2Proof.Machine.exec (.attest m) s = .next (s1.finish c 2))) ∧
     (Sys2Proof.Claims.Commanded s m 12 c s0 →
       (Sys2Proof.Machine.physOk s.strap (c.arg 0) 32 = true →
         Sys2Proof.Machine.exec (.devhashReport m) s = .next ((s0.writeRaw (c.arg 0) s.deviceHash).finish c 1) ∧
           s.deviceHash.length = 32) ∧
       (Sys2Proof.Machine.physOk s.strap (c.arg 0) 32 = false →
         Sys2Proof.Machine.exec (.devhashReport m) s = .next (s0.finish c 2))) ∧
     (Sys2Proof.Claims.Commanded s m 13 c s0 →
       (Sys2Proof.Machine.physOk s.strap (c.arg 0) 64 = true →
         Sys2Proof.Machine.exec (.wlist m) s = .next ((s0.writeRaw (c.arg 0)
           (Sys2Proof.Machine.bytesOfNat (s.withdrawnMap m) 64)).finish c 1) ∧
         ∀ st < 16, ∀ x < 32, (∀ j < 16, ∀ y ∈ (s.stk (16 * m + j)).withdrawn, y < 32) →
           (s.withdrawnMap m).testBit (32 * st + x) = (s.stk (16 * m + st)).withdrawn.contains x) ∧
       (Sys2Proof.Machine.physOk s.strap (c.arg 0) 64 = false →
         Sys2Proof.Machine.exec (.wlist m) s = .next (s0.finish c 2))))

/-- R247, R325: a command that completes moves HEAD past its slot and writes its STATUS there, and touches no other byte of memory. R323,
R326: SHOOT leaves no TLB of the pod with an entry of its range, and completes when no access already translated there is still to be
performed. R275: POOL adds its pages to the pool of a stack. R328, R336: CIRCUIT tears down the entry that its INDEX holds, then sets
one between two stacks with fewer than 8 circuits each, or with VALID 0 leaves it clear; where either end has 8 it is FULL, and where
the ends are no two present stacks in ascending order BADARG. The layout of operands is the model's (log 31), and so are the statuses of
operands out of range (log 38), and that a refused CIRCUIT leaves its INDEX without a circuit (log 38). -/
def Obligations.ResourceCommands : Prop :=
  (∀ (s : Sys2Proof.Machine.State) (c : Sys2Proof.Machine.Command) (status : Nat), s.mem.wf = true → status < 2 ^ 32 →
     c.head + 1 < 2 ^ 64 → c.ring + 64 ≤ Sys2Proof.Machine.zoneBase → c.slot + 64 ≤ Sys2Proof.Machine.zoneBase → s.mem.lines = [] →
     c.ring + 64 ≤ c.slot ∨ c.slot + 64 ≤ c.ring →
     (s.finish c status).readRawNat (c.ring + 24) 8 = c.head + 1 ∧ (s.finish c status).readRawNat (c.slot + 4) 4 = status ∧
     (∀ key a, (a < c.ring + 24 ∨ c.ring + 32 ≤ a) → (a < c.slot + 4 ∨ c.slot + 8 ≤ a) →
       (s.finish c status).mem.readByte key a = s.mem.readByte key a) ∧
     (s.finish c status).paths = s.paths ∧ (s.finish c status).modules = s.modules) ∧
  (∀ (s s0 : Sys2Proof.Machine.State) (m : Nat) (c : Sys2Proof.Machine.Command),
     (Sys2Proof.Claims.Commanded s m 3 c s0 →
       (let busy : Prop := (∃ p ∈ s.flow.posts, Sys2Proof.Machine.inPages (c.arg 0) (c.arg 1) (c.arg 2) p.asid p.va = true) ∨
          ∃ e ∈ s.paths, s.pathTranslated (c.arg 0) (c.arg 1) (c.arg 2) e.2 = true
        ∃ s1 : Sys2Proof.Machine.State,
          (¬busy → Sys2Proof.Machine.exec (.shoot m) s = .next (s1.finish c 1)) ∧
          (busy → ∃ t, Sys2Proof.Machine.exec (.shoot m) s = .next t ∧ t.mem = s1.mem ∧ t.paths = s1.paths) ∧
          (∀ e, e ∈ s1.mem.tlb ↔ e ∈ s.mem.tlb ∧ ¬ Sys2Proof.Claims.TlbIn (c.arg 0) (c.arg 1) (c.arg 2) e) ∧
          s1.mem.bytes = s0.mem.bytes ∧ s1.paths = s.paths)) ∧
     (Sys2Proof.Claims.Commanded s m 6 c s0 → c.arg 0 < s.strap.stackCount → c.arg 1 % 65536 = 0 →
       (c.arg 2 ≠ 0 → Sys2Proof.Machine.physOk s.strap (c.arg 1) (65536 * c.arg 2) = true ∧
         Sys2Proof.Machine.homeOf (c.arg 1) = 16 * m + c.arg 0) →
       ∃ s1 : Sys2Proof.Machine.State, Sys2Proof.Machine.exec (.pool m) s = .next (s1.finish c 1) ∧ s1.mem = s0.mem ∧
         (s1.stk (16 * m + c.arg 0)).pool =
           (s.stk (16 * m + c.arg 0)).pool ++ (List.range (c.arg 2)).map fun i => c.arg 1 + 65536 * i) ∧
     (Sys2Proof.Claims.Commanded s m 5 c s0 →
       (let idx := Sys2Proof.Machine.fieldAt c.bytes 8 2
        let a := Sys2Proof.Machine.fieldAt c.bytes 10 1 % 16
        let b := Sys2Proof.Machine.fieldAt c.bytes 10 1 / 16
        let x := Sys2Proof.Claims.tornDown (s.mod m) idx
        let s1 := s0.setMod m fun _ => x
        (64 ≤ idx ∨ Sys2Proof.Machine.zeroAt c.bytes 12 52 = false →
          Sys2Proof.Machine.exec (.circuit m) s = .next (s0.finish c 2)) ∧
        (idx < 64 → Sys2Proof.Machine.zeroAt c.bytes 12 52 = true →
          (128 ≤ Sys2Proof.Machine.fieldAt c.bytes 11 1 →
            (b ≤ a ∨ s.strap.stackCount ≤ b → Sys2Proof.Machine.exec (.circuit m) s = .next (s1.finish c 2)) ∧
            (a < b → b < s.strap.stackCount →
              (x.circuitsAt a < 8 → x.circuitsAt b < 8 →
                ∃ (s2 : Sys2Proof.Machine.State) (e : BitVec 16), Sys2Proof.Machine.exec (.circuit m) s = .next (s2.finish c 1) ∧
                  s2.mem = s0.mem ∧ s2.mod m = { x with circuits := Sys2Proof.Machine.spPut idx e x.circuits } ∧
                  (∀ j, j ≠ m → s2.mod j = s.mod j) ∧ Sys2Proof.Machine.circuitEnds e = (a, b) ∧ e.getLsbD 15 = true) ∧
              (8 ≤ x.circuitsAt a ∨ 8 ≤ x.circuitsAt b → Sys2Proof.Machine.exec (.circuit m) s = .next (s1.finish c 3)))) ∧
          (Sys2Proof.Machine.fieldAt c.bytes 11 1 < 128 → Sys2Proof.Machine.exec (.circuit m) s = .next (s1.finish c 1))))))

/-- R300 to R304: PREEMPT of a running module begins to stop it, and completes once it has stopped; PREEMPTION_COMPLETE stops it when every
engine has acknowledged, and completes a PREEMPT at the head of the ring; RESUME lets it run again. HALTSTK halts a stack and completes
when its copies and begun batches have; RUNSTK lets it run again. R334: the reset of a module clears its registrations, keys and TLBs,
makes a fresh device key, and measures its firmware: the stages up to the first that does not verify, which is reported, each extending
the measurement of those before it, from zero. Nothing runs on its stacks any more, its stacks are as after reset; memory keeps its
contents, and the other modules are untouched. A module that is not there is not reset. What a reset stops is the model's reading (log
34), and that it clears the connection table is its choice (log 2). That operands are read where log 31 lays them out, that one out of
range is BADARG (log 38), and the order in which a module stops (log 37) are the model's. -/
def Obligations.StoppingAndReset : Prop :=
  (∀ (s s0 : Sys2Proof.Machine.State) (m : Nat) (c : Sys2Proof.Machine.Command),
     (Sys2Proof.Claims.Commanded s m 7 c s0 →
       ((s.mod m).preempt = .running → ∃ t, Sys2Proof.Machine.exec (.preempt m) s = .next t ∧
         t.mod m = { s.mod m with preempt := .stopping } ∧ t.mem = s0.mem ∧ t.paths = s.paths) ∧
       ((s.mod m).preempt = .stopping → Sys2Proof.Machine.exec (.preempt m) s = .next s0) ∧
       ((s.mod m).preempt = .stopped → Sys2Proof.Machine.exec (.preempt m) s = .next (s0.finish c 1))) ∧
     (s.strap.hasModule m = true → (s.mod m).preempt = .stopping →
       (s.allStopped m = true →
         ∃ s3 t, Sys2Proof.Machine.exec (.preemptionComplete m) s = .next t ∧ (s3.mod m).preempt = .stopped ∧
           (t.mod m).preempt = .stopped ∧
           (∀ x s4, s3.nextCommand m = some (x, s4) → t = if x.op = 7 then s4.finish x 1 else s3) ∧
           (s3.nextCommand m = none → t = s3)) ∧
       (s.allStopped m = false → Sys2Proof.Machine.exec (.preemptionComplete m) s = .next s)) ∧
     (Sys2Proof.Claims.Commanded s m 8 c s0 → ∃ s1 : Sys2Proof.Machine.State, Sys2Proof.Machine.exec (.resume m) s = .next (s1.finish c 1) ∧
       s1.mod m = { s.mod m with preempt := .running } ∧ s1.mem = s0.mem ∧ s1.paths = s.paths) ∧
     (Sys2Proof.Claims.Commanded s m 9 c s0 → c.arg 0 < s.strap.stackCount →
       ∃ s1 : Sys2Proof.Machine.State,
         (s.stackQuiet (16 * m + c.arg 0) = true → Sys2Proof.Machine.exec (.haltstk m) s = .next (s1.finish c 1)) ∧
         (s.stackQuiet (16 * m + c.arg 0) = false → ∃ t, Sys2Proof.Machine.exec (.haltstk m) s = .next t ∧
           t.stk (16 * m + c.arg 0) = s1.stk (16 * m + c.arg 0) ∧ t.mem = s0.mem ∧ t.paths = s.paths) ∧
         s1.stk (16 * m + c.arg 0) = { s.stk (16 * m + c.arg 0) with halted := true } ∧
         (∀ j, j ≠ 16 * m + c.arg 0 → s1.stk j = s.stk j) ∧ s1.mem = s0.mem ∧ s1.paths = s.paths) ∧
     (Sys2Proof.Claims.Commanded s m 10 c s0 → c.arg 0 < s.strap.stackCount →
       ∃ s1 : Sys2Proof.Machine.State, Sys2Proof.Machine.exec (.runstk m) s = .next (s1.finish c 1) ∧
         s1.stk (16 * m + c.arg 0) = { s.stk (16 * m + c.arg 0) with halted := false } ∧
         (∀ j, j ≠ 16 * m + c.arg 0 → s1.stk j = s.stk j) ∧ s1.mem = s0.mem ∧ s1.paths = s.paths) ∧
     (Sys2Proof.Claims.Commanded s m 9 c s0 ∨ Sys2Proof.Claims.Commanded s m 10 c s0 → s.strap.stackCount ≤ c.arg 0 →
       Sys2Proof.Machine.exec (if c.op = 9 then .haltstk m else .runstk m) s = .next (s0.finish c 2))) ∧
  ((∀ (s : Sys2Proof.Machine.State) (m : Nat) (stages : List (List Sys2Proof.Byte × List Sys2Proof.Byte)),
     (s.strap.hasModule m = true → ∃ t, Sys2Proof.Machine.exec (.resetModule m stages) s = .next t ∧
       (t.mod m).queues = [] ∧ (t.mod m).keys = [] ∧ (t.mod m).ring = none ∧ (t.mod m).circuits = [] ∧ (t.mod m).signKeys = [] ∧
       (t.mod m).epoch = (s.mod m).epoch + 1 ∧ (t.mod m).clock = 1400 ∧ (t.mod m).current = none ∧ (t.mod m).preempt = .running ∧
       ((∀ st ∈ stages, Sys2Proof.Claims.StageOk st) →
         (t.mod m).failedStage = none ∧ (t.mod m).measure = Sys2Proof.Machine.measureOf (stages.map (·.1))) ∧
       (∀ good bad rest, stages = good ++ bad :: rest → (∀ st ∈ good, Sys2Proof.Claims.StageOk st) → ¬Sys2Proof.Claims.StageOk bad →
         (t.mod m).failedStage = some good.length ∧ (t.mod m).measure = Sys2Proof.Machine.measureOf (good.map (·.1))) ∧
       (∀ j, j ≠ m → t.mod j = s.mod j) ∧ t.mem.bytes = s.mem.bytes ∧ t.mem.zone = s.mem.zone ∧ t.mem.keys = s.mem.keys ∧
       (s.strap.moduleCount = 1 → t.heap = .reset) ∧
       (∀ e ∈ t.mem.tlb, e.unit / 64 / 16 ≠ m) ∧ (∀ v q, t.path? v = some q → q.home / 16 ≠ m) ∧
       (∀ e ∈ t.launches, e.2.module ≠ m) ∧ ∀ j, j / 16 = m → t.stk j = .reset) ∧
     (s.strap.hasModule m = false → Sys2Proof.Machine.exec (.resetModule m stages) s = .next s)) ∧
   Sys2Proof.Machine.measureOf [] = 0 ∧ ∀ (stages : List (List Sys2Proof.Byte)) (last : List Sys2Proof.Byte),
     Sys2Proof.Machine.measureOf (stages ++ [last]) = Sys2Proof.Machine.sha512
       (Sys2Proof.Machine.digestBytes (Sys2Proof.Machine.measureOf stages) ++ Sys2Proof.Machine.digestBytes (Sys2Proof.Machine.sha512 last)))

/-- R314 to R317: BIND of a whole object answers its request with the base of a bind that succeeds, and with STATUS and DETAIL of one that
fails, in which nothing has been written to the code heap; a request for a lazily bound function places it and rewrites its callers, and
one for an unknown stub is answered with BADFORM. An answer leaves STATUS, DETAIL and, with BOUND, BASEOUT in the request. The address
of the bind request in the command is log 31's layout. Log 40 and log 41 say how the model reads the binder; that a stub of no bound
object answers BADFORM is log 41. -/
def Obligations.BindCommands : Prop :=
  (∀ (s s0 : Sys2Proof.Machine.State) (m : Nat) (c : Sys2Proof.Machine.Command), Sys2Proof.Claims.Commanded s m 2 c s0 →
    Sys2Proof.Machine.physOk s.strap (c.arg 0) 64 = true →
    (let s1 := s0.pull (c.arg 0) 64
     let r := s1.bindReq (c.arg 0)
     let s2 := s1.bindPull r
     (r.stub = 0 →
      (Sys2Proof.Machine.exec (.bindObject m) s = .next (match s2.bindDo m r with
        | .ok (s3, b) => (s3.answerBind r 1 b 0).finish c 1
        | .error e => (s2.failBind r e).finish c 1)) ∧
      (∀ e, s2.bindDo m r = .error e → ∃ t, Sys2Proof.Machine.exec (.bindObject m) s = .next t ∧
        t = (s2.failBind r e).finish c 1 ∧ t.heap = s.heap ∧ t.paths = s.paths)) ∧
     (r.stub ≠ 0 →
      ((∀ z ∈ s.heap.lazies, z.stub ≠ r.stub) → ∃ t, Sys2Proof.Machine.exec (.lazyBind m) s = .next t ∧
        t = (s1.answerBind r 2 0 4294967295).finish c 1 ∧ t.heap = s.heap ∧ t.paths = s.paths) ∧
      (∀ z, (s.heap.lazies.find? fun z => z.stub == r.stub) = some z →
        (∀ e, s1.placeLazy z = .error e →
          Sys2Proof.Machine.exec (.lazyBind m) s = .next ((s1.answerBind r e.status 0 e.detail).finish c 1)) ∧
        (∀ s3 z1, s1.placeLazy z = .ok s3 → (s3.heap.lazies.find? fun z => z.stub == r.stub) = some z1 →
          Sys2Proof.Machine.exec (.lazyBind m) s =
            .next (((s3.rewrite r z1 (z1.bound.getD 0)).answerBind r 1 (z1.bound.getD 0) 0).finish c 1)))))) ∧
  ∀ (s : Sys2Proof.Machine.State) (r : Sys2Proof.Machine.BindReq) (st b d : Nat), s.mem.wf = true → r.addr + 64 ≤ Sys2Proof.Machine.zoneBase →
    st < 2 ^ 32 → b < 2 ^ 32 → d < 2 ^ 32 →
    (s.answerBind r st b d).readRawNat (r.addr + 24) 4 = st ∧ (s.answerBind r st b d).readRawNat (r.addr + 32) 4 = d ∧
      (st = 1 → (s.answerBind r st b d).readRawNat (r.addr + 28) 4 = b)

/-- R52, R114, R121: a step that issues from a path or a movement processor whose next word decodes runs that instruction for it; a word
that does not decode raises E_ILLEGAL, and a PC outside the function the trap of fetch. A step that is an event runs the event. R93,
R317: at a call site that was rewritten, a path whose knot may not have seen that yet fetches the old word or the new word, and the step
runs the instruction that it decodes to. R313: the word of a module's copy is that of the code heap, where its slot 0 holds the key that
the copy was written under. Every step of every state leads to a next state: none ends in a fault or a refusal. Whose turn a step is
comes from the model's schedule (log 4). -/
def Obligations.StepRunsTheDecodedInstruction : Prop :=
  (∀ (s : Sys2Proof.Machine.State) (ts : List Sys2Proof.Machine.Turn) (i : Sys2Proof.Instr) (w : Sys2Proof.Word),
     (∀ (home core part : Nat) (late : Bool) (h : Sys2Proof.Machine.Here), s.agenda = .issue home core part late :: ts →
       { s with agenda := ts }.chosen home core part = some h.u → s.here h.u = some h → Sys2Proof.Claims.Fetches h →
       (Sys2Proof.Claims.WordAt s h.p.home h.p.ctx.fn h.p.ctx.wrapped h.p.ctx.pc h.k.unseen w →
         (Sys2Proof.decode w = .ok i →
           Sys2Proof.Machine.step s = Sys2Proof.Machine.exec i { s with agenda := ts, late := late, cur := .path h.u }) ∧
         (∀ e, Sys2Proof.decode w = .error e → Sys2Proof.Machine.step s =
           Sys2Proof.Machine.exec .illegalEncoding { s with agenda := ts, late := late, cur := .path h.u })) ∧
       (h.p.ctx.wrapped = true ∨ s.heap.inExtent h.p.ctx.fn h.p.ctx.pc = false → Sys2Proof.Machine.step s =
         Sys2Proof.Machine.exec .fetchBeyondExtent { s with agenda := ts, late := late, cur := .path h.u })) ∧
     (∀ (m : Sys2Proof.Machine.MHere), s.agenda = .move m.c :: ts → { s with agenda := ts }.moverReady m.c = true →
       s.mover? m.c = some m → m.e.mover.pending = none ∨ m.e.mover.hints.words ≠ 0 ∨ m.e.mover.list ≠ [] →
       (Sys2Proof.Claims.WordAt s m.crew.home m.e.mover.fn m.e.mover.wrapped m.e.mover.pc m.e.mover.unseen w →
         (Sys2Proof.decode w = .ok i →
           Sys2Proof.Machine.step s = Sys2Proof.Machine.exec i { s with agenda := ts, cur := .mover m.c }) ∧
         (∀ e, Sys2Proof.decode w = .error e → Sys2Proof.Machine.step s =
           Sys2Proof.Machine.exec .illegalEncoding { s with agenda := ts, cur := .mover m.c })) ∧
       (m.e.mover.wrapped = true ∨ s.heap.inExtent m.e.mover.fn m.e.mover.pc = false → Sys2Proof.Machine.step s =
         Sys2Proof.Machine.exec .fetchBeyondExtent { s with agenda := ts, cur := .mover m.c })) ∧
     (s.agenda = .event i :: ts → Sys2Proof.encode i = none → i ≠ .illegalEncoding → i ≠ .fetchBeyondExtent →
       Sys2Proof.Machine.step s = Sys2Proof.Machine.exec i { s with agenda := ts })) ∧
  ((∀ (s : Sys2Proof.Machine.State) (ts : List Sys2Proof.Machine.Turn) (home core part : Nat) (late : Bool)
     (h : Sys2Proof.Machine.Here),
     s.agenda = .issue home core part late :: ts → { s with agenda := ts }.chosen home core part = some h.u → s.here h.u = some h →
     Sys2Proof.Claims.Fetches h → h.p.ctx.wrapped = false → s.heap.inExtent h.p.ctx.fn h.p.ctx.pc = true →
     ∃ w x, (w = s.codeWord (h.p.home / 16) h.p.ctx.pc ∨ (h.p.ctx.pc.toNat / 4, w) ∈ h.k.unseen) ∧
       (∀ i, Sys2Proof.decode w = .ok i →
         Sys2Proof.Machine.step s = Sys2Proof.Machine.exec i { s with agenda := ts, late := late, cur := .path h.u, picks := x }) ∧
       (∀ e, Sys2Proof.decode w = .error e →
         Sys2Proof.Machine.step s =
           Sys2Proof.Machine.exec .illegalEncoding { s with agenda := ts, late := late, cur := .path h.u, picks := x })) ∧
   ∀ (s : Sys2Proof.Machine.State) (module : Nat) (pc : Sys2Proof.Pc), Sys2Proof.Claims.CopyHeld s module pc →
     s.codeWord module pc = s.heap.wordAt pc) ∧
  (∀ s : Sys2Proof.Machine.State, ∃ t, Sys2Proof.Machine.step s = .next t)

/-- R115, R131 to R139: the words that the spec writes out with their encodings decode to the instructions they stand for; a reserved major,
a non-zero unused field, a reserved func and a lane guard on FENCE are refused by name. -/
def Obligations.WordsDecode : Prop :=
  (∀ x ∈ Sys2Proof.Claims.computeWords ++ Sys2Proof.Claims.memoryWords ++ Sys2Proof.Claims.engineWords ++ Sys2Proof.Claims.systemWords,
    Sys2Proof.decode x.1 = .ok x.2) ∧
  Sys2Proof.decode 0x00000000 = .error .reservedMajor ∧ Sys2Proof.decode 0x44000000 = .error .reservedMajor ∧
  Sys2Proof.decode 0xA8200000 = .error .nonzeroField ∧ Sys2Proof.decode 0xA8000006 = .error .reservedFunc ∧
  Sys2Proof.decode 0xB8004000 = .error .badGuard

/-- R115 to R120, R131 to R139: decoding the word of a well-formed instruction gives the instruction back, with every operand. -/
def Obligations.EncodeThenDecode : Prop :=
  ∀ (i : Sys2Proof.Instr) (w : Sys2Proof.Word), i.wf → Sys2Proof.encode i = some w → Sys2Proof.decode w = .ok i

/-- R115 to R120: an instruction that a word decodes to is well formed, and its word is that word: each word has one meaning, and no bit of
it is ignored. -/
def Obligations.DecodeThenEncode : Prop :=
  ∀ (w : Sys2Proof.Word) (i : Sys2Proof.Instr), Sys2Proof.decode w = .ok i → i.wf ∧ Sys2Proof.encode i = some w

/-- The memory of the pod keeps its canonical form in every step: addresses rise strictly, no byte that an unlisted address reads as is
listed, and every map has rising keys. The form is the model's own (log 1). -/
def Obligations.StepsKeepMemoryCanonical : Prop :=
  ∀ s t : Sys2Proof.Machine.State, s.mem.wf = true → Sys2Proof.Machine.step s = .next t → t.mem.wf = true

/-- R331 to R334: right after reset the memory has its canonical form with nothing listed, nothing is registered, bound, placed or in
flight, no TLB holds an entry, PARKMAX of every stack is 50, and every module's clock is 1,400 MHz with its first device key. That no
byte of memory is listed, so that each reads 0, is the model's choice (log 1). -/
def Obligations.AfterReset : Prop :=
  let s := Sys2Proof.Machine.State.reset
  s.mem.wf = true ∧ s.mem.bytes = [] ∧ s.mem.tlb = [] ∧ s.heap.fns = [] ∧ s.paths = [] ∧ s.knots = [] ∧ s.launches = [] ∧
    s.flow.posts = [] ∧ (∀ home, (s.stk home).parkmax = 50 ∧ (s.stk home).halted = false ∧ (s.stk home).work = []) ∧
    ∀ m, (s.mod m).clock = 1400 ∧ (s.mod m).queues = [] ∧ (s.mod m).keys = [] ∧ (s.mod m).signKeys = [] ∧
      (s.mod m).uncorr = false ∧ (s.mod m).replace = false ∧ s.slotKey m 0 = some (.device m 0) ∧
      ∀ slot, slot ≠ 0 → s.slotKey m slot = none

/-- R9, R67, R324: where the host holds no modified line over them, bytes written through a key slot read back through it, in order, and no
other byte changes; blocks of 16 bytes read through another slot are what decrypting them under that slot gives. The key of a byte never
written, and that a wrong key gives an unknown value, is the model's choice (log 9). -/
def Obligations.MemoryReadsWhatWasWritten : Prop :=
  ∀ (m : Sys2Proof.Machine.MemSt) (key : Option Sys2Proof.Config.KeyId) (pa : Nat) (bs : List Sys2Proof.Byte), m.wf = true →
    (∀ l ∈ Sys2Proof.Machine.linesOf pa bs.length, Sys2Proof.Machine.spFind l m.lines = none) →
    (m.writeBytes key pa bs).read key pa bs.length = bs ∧
    m.SameBut (m.writeBytes key pa bs) (fun a => pa ≤ a ∧ a < pa + bs.length) ∧
    (∀ j k i, key = some j → k ≠ j → pa % 16 = 0 → bs.length % 16 = 0 → i < bs.length →
      (m.writeBytes key pa bs).readByte (some k) (pa + i) =
        (Sys2Proof.Machine.rekeyed k j ((pa + i) / 16 * 16) ((bs.drop (i / 16 * 16)).take 16)).getD (i % 16) 0) ∧
    (m.writeBytes key pa bs).wf = true

/-- R96, R98: a NaN operand makes the result of an addition, subtraction, multiplication or fused multiply-add the canonical NaN of the
format, and so do infinity minus infinity and zero times infinity, which set NV; the canonical NaN of F32 is 0x7FC00000. -/
def Obligations.NanResultsAreCanonical : Prop :=
  Sys2Proof.Machine.fmtF32.nan = 0x7FC00000 ∧ Sys2Proof.Machine.fmtF16.nan = 0x7E00 ∧ Sys2Proof.Machine.fmtBF16.nan = 0x7FC0 ∧
  ∀ (c : Sys2Proof.Machine.FpEnv) (x y z : Nat),
    (((c.read x).isNan = true ∨ (c.read y).isNan = true) →
      (c.add x y).1 = c.fmt.nan ∧ (c.sub x y).1 = c.fmt.nan ∧ (c.mul x y).1 = c.fmt.nan ∧ (c.fma x y z).1 = c.fmt.nan) ∧
    ((c.read z).isNan = true → (c.fma x y z).1 = c.fmt.nan) ∧
    (∀ n, c.read x = .inf n → c.read y = .inf (!n) → c.add x y = (c.fmt.nan, Sys2Proof.Machine.flagNV)) ∧
    (∀ n k e, c.read x = .inf n → c.read y = .num k 0 e → c.mul x y = (c.fmt.nan, Sys2Proof.Machine.flagNV)) ∧
    (((c.read x).signals = true ∨ (c.read y).signals = true) →
      (c.add x y).2 &&& Sys2Proof.Machine.flagNV = Sys2Proof.Machine.flagNV ∧
      (c.mul x y).2 &&& Sys2Proof.Machine.flagNV = Sys2Proof.Machine.flagNV)

/-- R96, R99, R102, R103: in F32, F16 and BF16 the sum, difference, product, fused product and sum, and reciprocal of finite operands are
the exact result rounded once in the direction, with its flags, under MODE[2] and MODE[3]; an exact zero has the sign of IEEE 754-2019.
A finite pattern of every format decodes to the value of its fields. R99, R102 to R104, R159, R160: in F32, F16 and BF16 FSQRT gives the
root rounded once, with its special cases; FRINT the operand rounded to an integer in the direction, with the operand's sign and no NX;
FMIN and FMAX the operand that is less or greater as it was read, the other one beside a NaN, -0 below +0; FCMP its condition on the
values; FCLASS the one bit of the operand's class, with no flag. A signalling NaN sets NV elsewhere. R95, R102, R105: a conversion of
F32 to a narrower format, or of an integer to a format, is the value rounded once, with the overflow rows of R105; one to F32 from a
narrower format is exact; one to an integer type is rounded to an integer and clamped to the type's range, with NV where it is clamped
and NX where it differs. R106, R108: BXQ's block of finite inputs has the least A from 4 to 254 at which no magnitude rounds past the
greatest, B = A - 4, and the rule's elements; NX where a value differs, UF where a non-zero input gives 0, OF where A stopped at 254 and
a magnitude was clamped. A NaN or infinite input gives the header 0xFFFF, elements of 0, and NV. R110: a pass sums exact products and
rounds once to nearest, -0 only when every product is -0; a NaN product, or infinities of both signs, give NaN, infinities of one sign
that infinity; MMAS rounds the product with the activation scale, then with the weight scale; and the accumulator takes the rounded sum.
That an inexact conversion to an integer sets NX, and that MODE[3] acts in a conversion only where it narrows, are the model's readings
(log 42); a value that neither rule nor entry gives is not stated. -/
def Obligations.FiniteArithmetic : Prop :=
  ((∀ f, f = Sys2Proof.Machine.fmtF32 ∨ f = Sys2Proof.Machine.fmtF16 ∨ f = Sys2Proof.Machine.fmtBF16 ∨ f = Sys2Proof.Machine.fmtE4M3 ∨
       f = Sys2Proof.Machine.fmtE5M2 → ∀ flush bits, Sys2Proof.Claims.FiniteBits f bits →
     ∃ m e, f.value flush bits = .num (Sys2Proof.Claims.negBit f bits) m e ∧
       Sys2Proof.Claims.fvalQ (f.value flush bits) = Sys2Proof.Claims.readQ f flush bits) ∧
   ∀ (c : Sys2Proof.Machine.FpEnv) (x y z : Nat),
     c.fmt = Sys2Proof.Machine.fmtF32 ∨ c.fmt = Sys2Proof.Machine.fmtF16 ∨ c.fmt = Sys2Proof.Machine.fmtBF16 →
     Sys2Proof.Claims.FiniteBits c.fmt x → Sys2Proof.Claims.FiniteBits c.fmt y → Sys2Proof.Claims.FiniteBits c.fmt z →
     let a := Sys2Proof.Claims.readQ c.fmt c.flushIn x
     let b := Sys2Proof.Claims.readQ c.fmt c.flushIn y
     let d := Sys2Proof.Claims.readQ c.fmt c.flushIn z
     let nx := Sys2Proof.Claims.negBit c.fmt x
     let ny := Sys2Proof.Claims.negBit c.fmt y
     let nz := Sys2Proof.Claims.negBit c.fmt z
     let once (v : ℚ) (o : Sys2Proof.Machine.FpOut) : Prop :=
       Sys2Proof.Claims.RoundsTo c.fmt c.dir c.flushOut (Sys2Proof.Claims.ieeeOver c.fmt c.dir false v) v o
     (a + b ≠ 0 → once (a + b) (c.add x y)) ∧ (a + b = 0 → c.add x y = Sys2Proof.Claims.zeroSum c a b nx ny) ∧
     (a - b ≠ 0 → once (a - b) (c.sub x y)) ∧ (a - b = 0 → c.sub x y = Sys2Proof.Claims.zeroSum c a b nx (!ny)) ∧
     (a * b ≠ 0 → once (a * b) (c.mul x y)) ∧ (a * b = 0 → c.mul x y = (c.fmt.sign (nx != ny), 0)) ∧
     (a * b + d ≠ 0 → once (a * b + d) (c.fma x y z)) ∧
     (a * b + d = 0 → c.fma x y z = Sys2Proof.Claims.zeroSum c (a * b) d (nx != ny) nz) ∧
     (a ≠ 0 → once (1 / a) (c.rcp x)) ∧ (a = 0 → c.rcp x = (c.fmt.inf nx, Sys2Proof.Machine.flagDZ))) ∧
  (∀ (c : Sys2Proof.Machine.FpEnv) (x y : Nat),
     c.fmt = Sys2Proof.Machine.fmtF32 ∨ c.fmt = Sys2Proof.Machine.fmtF16 ∨ c.fmt = Sys2Proof.Machine.fmtBF16 →
     x < 2 ^ (1 + c.fmt.eb + c.fmt.mb) → y < 2 ^ (1 + c.fmt.eb + c.fmt.mb) →
     let a := Sys2Proof.Claims.readQ c.fmt c.flushIn x
     let nx := Sys2Proof.Claims.negBit c.fmt x
     let xr := Sys2Proof.Claims.readBits c.fmt c.flushIn x
     let yr := Sys2Proof.Claims.readBits c.fmt c.flushIn y
     let nanX := Sys2Proof.Claims.NanBits c.fmt x
     let nanY := Sys2Proof.Claims.NanBits c.fmt y
     let invalid (fl : Sys2Proof.Machine.FpFlags) : Prop :=
       (Sys2Proof.Claims.SignallingBits c.fmt x ∨ Sys2Proof.Claims.SignallingBits c.fmt y → fl = Sys2Proof.Machine.flagNV) ∧
         (¬Sys2Proof.Claims.SignallingBits c.fmt x → ¬Sys2Proof.Claims.SignallingBits c.fmt y → fl = 0)
     (nanX → ∀ o, o = c.sqrt x ∨ o = c.rint x → o.1 = c.fmt.nan ∧
       (Sys2Proof.Claims.SignallingBits c.fmt x → o.2 = Sys2Proof.Machine.flagNV) ∧
       (¬Sys2Proof.Claims.SignallingBits c.fmt x → o.2 = 0)) ∧
     (Sys2Proof.Claims.InfBits c.fmt x → c.rint x = (c.fmt.inf nx, 0) ∧
       c.sqrt x = if nx = true then (c.fmt.nan, Sys2Proof.Machine.flagNV) else (c.fmt.inf false, 0)) ∧
     (Sys2Proof.Claims.FiniteBits c.fmt x →
       (a = 0 → c.sqrt x = (c.fmt.sign nx, 0)) ∧ (a < 0 → c.sqrt x = (c.fmt.nan, Sys2Proof.Machine.flagNV)) ∧
       (0 < a → Sys2Proof.Claims.RootOf c.fmt c.dir a (c.sqrt x)) ∧
       ∀ v, Sys2Proof.Claims.RoundsInt c.dir a v → (c.rint x).2 = 0 ∧ Sys2Proof.Claims.FiniteBits c.fmt (c.rint x).1 ∧
         Sys2Proof.Claims.valueQ c.fmt (c.rint x).1 = v ∧ Sys2Proof.Claims.negBit c.fmt (c.rint x).1 = nx) ∧
     (∀ g, invalid (c.minMax g x y).2 ∧ (nanX → nanY → (c.minMax g x y).1 = c.fmt.nan) ∧
       (nanX → ¬nanY → (c.minMax g x y).1 = yr) ∧ (¬nanX → nanY → (c.minMax g x y).1 = xr) ∧
       (¬nanX → ¬nanY →
         (Sys2Proof.Claims.Below c.fmt c.flushIn x y → (c.minMax g x y).1 = if g = true then yr else xr) ∧
         (Sys2Proof.Claims.Below c.fmt c.flushIn y x → (c.minMax g x y).1 = if g = true then xr else yr) ∧
         (¬Sys2Proof.Claims.Below c.fmt c.flushIn x y → ¬Sys2Proof.Claims.Below c.fmt c.flushIn y x →
           (c.minMax g x y).1 = if nx = g then yr else xr))) ∧
     (∀ k, invalid (c.cmp k x y).2 ∧ ((c.cmp k x y).1 = true ↔ Sys2Proof.Claims.Holds c.fmt c.flushIn k x y)) ∧
     ∀ i, Sys2Proof.Claims.ClassIs c.fmt c.flushIn x i → c.classify x = 2 ^ i) ∧
  (∀ (mode : BitVec 5) (dir : Sys2Proof.Dir) (x : Nat) (ty : Sys2Proof.TypeCode) (f : Sys2Proof.Machine.FloatFmt),
     (ty, f) ∈ Sys2Proof.Claims.floatTypes →
     (ty ≠ .f32 → Sys2Proof.Claims.FiniteBits Sys2Proof.Machine.fmtF32 x →
       (let v := Sys2Proof.Claims.readQ Sys2Proof.Machine.fmtF32 (mode.getLsbD 2) x
        (v ≠ 0 → Sys2Proof.Claims.RoundsTo f dir (mode.getLsbD 3) (Sys2Proof.Claims.convertOver f dir (mode.getLsbD 4) v) v
          (Sys2Proof.Machine.convert ty .f32 mode dir x)) ∧
        (v = 0 → Sys2Proof.Machine.convert ty .f32 mode dir x =
          (f.sign (Sys2Proof.Claims.negBit Sys2Proof.Machine.fmtF32 x), 0)))) ∧
     (ty ≠ .f32 → Sys2Proof.Claims.FiniteBits f x →
       (let o := Sys2Proof.Machine.convert .f32 ty mode dir x
        o.2 = 0 ∧ Sys2Proof.Claims.FiniteBits Sys2Proof.Machine.fmtF32 o.1 ∧
          Sys2Proof.Claims.valueQ Sys2Proof.Machine.fmtF32 o.1 = Sys2Proof.Claims.readQ f (mode.getLsbD 2) x ∧
          Sys2Proof.Claims.negBit Sys2Proof.Machine.fmtF32 o.1 = Sys2Proof.Claims.negBit f x)) ∧
     (∀ it w signed, Sys2Proof.Machine.intType it = some (w, signed) →
       (Sys2Proof.Claims.FiniteBits f x → ∀ v, Sys2Proof.Claims.RoundsInt dir (Sys2Proof.Claims.readQ f (mode.getLsbD 2) x) v →
         (Sys2Proof.Machine.intLow w signed ≤ v → v ≤ Sys2Proof.Machine.intHigh w signed →
           Sys2Proof.Machine.convert it ty mode dir x = ((v % 2 ^ w).toNat,
             if (v : ℚ) = Sys2Proof.Claims.readQ f (mode.getLsbD 2) x then 0 else Sys2Proof.Machine.flagNX)) ∧
         (v < Sys2Proof.Machine.intLow w signed → Sys2Proof.Machine.convert it ty mode dir x =
           ((Sys2Proof.Machine.intLow w signed % 2 ^ w).toNat, Sys2Proof.Machine.flagNV)) ∧
         (Sys2Proof.Machine.intHigh w signed < v → Sys2Proof.Machine.convert it ty mode dir x =
           ((Sys2Proof.Machine.intHigh w signed % 2 ^ w).toNat, Sys2Proof.Machine.flagNV))) ∧
       (x < 2 ^ w → ∀ n : Int, n = (if signed = true ∧ 2 ^ (w - 1) ≤ x then (x : Int) - 2 ^ w else x) →
         (n ≠ 0 → Sys2Proof.Claims.RoundsTo f dir (mode.getLsbD 3) (Sys2Proof.Claims.convertOver f dir (mode.getLsbD 4) n) n
           (Sys2Proof.Machine.convert ty it mode dir x)) ∧
         (n = 0 → Sys2Proof.Machine.convert ty it mode dir x = (0, 0))))) ∧
  (∀ (bx4 : Bool) (vs : List Sys2Proof.Machine.FVal),
     ((∀ v ∈ vs, Sys2Proof.Claims.IsNum v) → ∃ A els fl, Sys2Proof.Machine.bxQuantise bx4 vs = ((A - 4) * 256 + A, els, fl) ∧
       4 ≤ A ∧ A ≤ 254 ∧ els.length = vs.length ∧
       (∀ a, 4 ≤ a → a < A → ∃ v ∈ vs, ∃ q, Sys2Proof.Claims.Quant bx4 v a q ∧ Sys2Proof.Claims.blockMax bx4 < q) ∧
       (A < 254 → ∀ v ∈ vs, ∀ q, Sys2Proof.Claims.Quant bx4 v A q → q ≤ Sys2Proof.Claims.blockMax bx4) ∧
       (∀ (i : Nat) (v : Sys2Proof.Machine.FVal) (qa qb : Nat), vs[i]? = some v → Sys2Proof.Claims.Quant bx4 v A qa →
         Sys2Proof.Claims.Quant bx4 v (A - 4) qb → els[i]? = some (Sys2Proof.Claims.blockElement bx4 v.isNeg qa qb)) ∧
       (fl.getLsbD 4 = true ↔ ∃ (i : Nat) (v : Sys2Proof.Machine.FVal) (el : Nat), vs[i]? = some v ∧ els[i]? = some el ∧
         Sys2Proof.Claims.blockQ bx4 el ((A - 4) * 256 + A) ≠ Sys2Proof.Claims.fvalQ v) ∧
       (fl.getLsbD 3 = true ↔ ∃ (i : Nat) (v : Sys2Proof.Machine.FVal) (el : Nat), vs[i]? = some v ∧ els[i]? = some el ∧
         Sys2Proof.Claims.fvalQ v ≠ 0 ∧ el % (Sys2Proof.Claims.blockMax bx4 + 1) = 0) ∧
       (fl.getLsbD 2 = true ↔ A = 254 ∧ ∃ v ∈ vs, ∃ q, Sys2Proof.Claims.Quant bx4 v 254 q ∧ Sys2Proof.Claims.blockMax bx4 < q) ∧
       fl.getLsbD 1 = false ∧ fl.getLsbD 0 = false) ∧
     ((∃ v ∈ vs, ¬Sys2Proof.Claims.IsNum v) →
       Sys2Proof.Machine.bxQuantise bx4 vs = (65535, vs.map fun _ => 0, Sys2Proof.Machine.flagNV)) ∧
     ∀ el hdr, hdr < 65536 → el < 4 * (Sys2Proof.Claims.blockMax bx4 + 1) →
       (if el / (Sys2Proof.Claims.blockMax bx4 + 1) % 2 = 1 then hdr / 256 else hdr % 256) ≠ 255 →
       Sys2Proof.Claims.IsNum (Sys2Proof.Machine.bxValue bx4 el hdr) ∧
         Sys2Proof.Claims.fvalQ (Sys2Proof.Machine.bxValue bx4 el hdr) = Sys2Proof.Claims.blockQ bx4 el hdr) ∧
  ((∀ (ps : List Sys2Proof.Machine.FVal),
     (ps ≠ [] → (∀ p ∈ ps, Sys2Proof.Claims.IsNum p) →
       (let t := (ps.map Sys2Proof.Claims.fvalQ).sum
        (t ≠ 0 → ∃ fl, Sys2Proof.Claims.RoundsTo Sys2Proof.Machine.fmtF32 .near false
          (Sys2Proof.Claims.ieeeOver Sys2Proof.Machine.fmtF32 .near false t) t (Sys2Proof.Machine.passSum ps, fl)) ∧
        (t = 0 → (∀ p ∈ ps, ∃ e, p = .num true 0 e) → Sys2Proof.Machine.passSum ps = 0x80000000) ∧
        (t = 0 → (∃ p ∈ ps, ∀ e, p ≠ .num true 0 e) → Sys2Proof.Machine.passSum ps = 0))) ∧
     ((∃ p ∈ ps, p.isNan = true) ∨ (.inf true ∈ ps ∧ .inf false ∈ ps) → Sys2Proof.Machine.passSum ps = 0x7FC00000) ∧
     (∀ n, (∀ p ∈ ps, p.isNan = false) → .inf n ∈ ps → .inf (!n) ∉ ps →
       Sys2Proof.Machine.passSum ps = if n then 0xFF800000 else 0x7F800000)) ∧
   (∀ (x y : Sys2Proof.Machine.FVal),
     (Sys2Proof.Claims.IsNum x → Sys2Proof.Claims.IsNum y → Sys2Proof.Claims.IsNum (Sys2Proof.Machine.mulVals x y) ∧
       Sys2Proof.Claims.fvalQ (Sys2Proof.Machine.mulVals x y) = Sys2Proof.Claims.fvalQ x * Sys2Proof.Claims.fvalQ y) ∧
     (x.isNan = true ∨ y.isNan = true → (Sys2Proof.Machine.mulVals x y).isNan = true) ∧
     (∀ n, x = .inf n → Sys2Proof.Claims.IsNum y → Sys2Proof.Claims.fvalQ y = 0 → (Sys2Proof.Machine.mulVals x y).isNan = true) ∧
     (∀ n k, x = .inf n → y = .inf k → Sys2Proof.Machine.mulVals x y = .inf (n != k))) ∧
   ∀ (a w : List Sys2Proof.Machine.FVal) (sa sw old : Sys2Proof.Word),
     let env := Sys2Proof.Machine.plainEnv Sys2Proof.Machine.fmtF32
     let t := Sys2Proof.Machine.passSum (List.zipWith Sys2Proof.Machine.mulVals a w)
     Sys2Proof.Machine.passElement a w none old = BitVec.ofNat 32 (env.add old.toNat t).1 ∧
     Sys2Proof.Machine.passElement a w (some (sa, sw)) old =
       BitVec.ofNat 32 (env.add old.toNat (env.mul (env.mul t sa.toNat).1 sw.toNat).1).1)
end

