-- ==== Sys2Proof/Laws/Dispatch.lean ====
section
/-! SUPPORT. The meaning of every constructor by name: the dispatch, one arm at a time. -/
namespace Sys2Proof.Machine

@[simp] theorem exec_iadd g d a b e f (s : State) : exec (.iadd g d a b e f) s =
    execIadd g d a b e f s := rfl
@[simp] theorem exec_isub g d a b e f (s : State) : exec (.isub g d a b e f) s =
    execIsub g d a b e f s := rfl
@[simp] theorem exec_imul g d a b e f (s : State) : exec (.imul g d a b e f) s =
    execImul g d a b e f s := rfl
@[simp] theorem exec_imulhI32 g d a b e f (s : State) : exec (.imulhI32 g d a b e f) s =
    execImulhI32 g d a b e f s := rfl
@[simp] theorem exec_imulhN32 g d a b e f (s : State) : exec (.imulhN32 g d a b e f) s =
    execImulhN32 g d a b e f s := rfl
@[simp] theorem exec_imad g d a b e f (s : State) : exec (.imad g d a b e f) s =
    execImad g d a b e f s := rfl
@[simp] theorem exec_iminI32 g d a b e f (s : State) : exec (.iminI32 g d a b e f) s =
    execIminI32 g d a b e f s := rfl
@[simp] theorem exec_iminN32 g d a b e f (s : State) : exec (.iminN32 g d a b e f) s =
    execIminN32 g d a b e f s := rfl
@[simp] theorem exec_imaxI32 g d a b e f (s : State) : exec (.imaxI32 g d a b e f) s =
    execImaxI32 g d a b e f s := rfl
@[simp] theorem exec_imaxN32 g d a b e f (s : State) : exec (.imaxN32 g d a b e f) s =
    execImaxN32 g d a b e f s := rfl
@[simp] theorem exec_iabs g d a e (s : State) : exec (.iabs g d a e) s =
    execIabs g d a e s := rfl
@[simp] theorem exec_andV g d a b e f (s : State) : exec (.andV g d a b e f) s =
    execAndV g d a b e f s := rfl
@[simp] theorem exec_orV g d a b e f (s : State) : exec (.orV g d a b e f) s =
    execOrV g d a b e f s := rfl
@[simp] theorem exec_xorV g d a b e f (s : State) : exec (.xorV g d a b e f) s =
    execXorV g d a b e f s := rfl
@[simp] theorem exec_andn g d a b e f (s : State) : exec (.andn g d a b e f) s =
    execAndn g d a b e f s := rfl
@[simp] theorem exec_shl g d a b e f (s : State) : exec (.shl g d a b e f) s =
    execShl g d a b e f s := rfl
@[simp] theorem exec_shr g d a b e f (s : State) : exec (.shr g d a b e f) s =
    execShr g d a b e f s := rfl
@[simp] theorem exec_sar g d a b e f (s : State) : exec (.sar g d a b e f) s =
    execSar g d a b e f s := rfl
@[simp] theorem exec_popc g d a e (s : State) : exec (.popc g d a e) s =
    execPopc g d a e s := rfl
@[simp] theorem exec_clz g d a e (s : State) : exec (.clz g d a e) s =
    execClz g d a e s := rfl
@[simp] theorem exec_brev g d a e (s : State) : exec (.brev g d a e) s =
    execBrev g d a e s := rfl
@[simp] theorem exec_mov g d a e (s : State) : exec (.mov g d a e) s =
    execMov g d a e s := rfl
@[simp] theorem exec_lea g d a b e f (s : State) : exec (.lea g d a b e f) s =
    execLea g d a b e f s := rfl
@[simp] theorem exec_sel g d a b e f p (s : State) : exec (.sel g d a b e f p) s =
    execSel g d a b e f p s := rfl
@[simp] theorem exec_iaddImm g d a e i0 (s : State) : exec (.iaddImm g d a e i0) s =
    execIaddImm g d a e i0 s := rfl
@[simp] theorem exec_imulImm g d a e i0 (s : State) : exec (.imulImm g d a e i0) s =
    execImulImm g d a e i0 s := rfl
@[simp] theorem exec_shlImm g d a e n (s : State) : exec (.shlImm g d a e n) s =
    execShlImm g d a e n s := rfl
@[simp] theorem exec_shrImm g d a e n (s : State) : exec (.shrImm g d a e n) s =
    execShrImm g d a e n s := rfl
@[simp] theorem exec_sarImm g d a e n (s : State) : exec (.sarImm g d a e n) s =
    execSarImm g d a e n s := rfl
@[simp] theorem exec_bfe g d a e p l (s : State) : exec (.bfe g d a e p l) s =
    execBfe g d a e p l s := rfl
@[simp] theorem exec_bfi g d a e p l (s : State) : exec (.bfi g d a e p l) s =
    execBfi g d a e p l s := rfl
@[simp] theorem exec_movi g d i0 (s : State) : exec (.movi g d i0) s =
    execMovi g d i0 s := rfl
@[simp] theorem exec_iadd64 g d a b e f (s : State) : exec (.iadd64 g d a b e f) s =
    execIadd64 g d a b e f s := rfl
@[simp] theorem exec_isub64 g d a b e f (s : State) : exec (.isub64 g d a b e f) s =
    execIsub64 g d a b e f s := rfl
@[simp] theorem exec_imulwI32 g d a b e f (s : State) : exec (.imulwI32 g d a b e f) s =
    execImulwI32 g d a b e f s := rfl
@[simp] theorem exec_imulwN32 g d a b e f (s : State) : exec (.imulwN32 g d a b e f) s =
    execImulwN32 g d a b e f s := rfl
@[simp] theorem exec_leaShift g d a b e f s0 (s : State) : exec (.leaShift g d a b e f s0) s =
    execLeaShift g d a b e f s0 s := rfl
@[simp] theorem exec_icmp g d a b e f c (s : State) : exec (.icmp g d a b e f c) s =
    execIcmp g d a b e f c s := rfl
@[simp] theorem exec_fadd r g d a b e f (s : State) : exec (.fadd r g d a b e f) s =
    execFadd r g d a b e f s := rfl
@[simp] theorem exec_fsub r g d a b e f (s : State) : exec (.fsub r g d a b e f) s =
    execFsub r g d a b e f s := rfl
@[simp] theorem exec_fmul r g d a b e f (s : State) : exec (.fmul r g d a b e f) s =
    execFmul r g d a b e f s := rfl
@[simp] theorem exec_ffma r g d a b e f (s : State) : exec (.ffma r g d a b e f) s =
    execFfma r g d a b e f s := rfl
@[simp] theorem exec_frcp r g d a e (s : State) : exec (.frcp r g d a e) s =
    execFrcp r g d a e s := rfl
@[simp] theorem exec_frsq r g d a e (s : State) : exec (.frsq r g d a e) s =
    execFrsq r g d a e s := rfl
@[simp] theorem exec_fsqrt r g d a e (s : State) : exec (.fsqrt r g d a e) s =
    execFsqrt r g d a e s := rfl
@[simp] theorem exec_fexp2 r g d a e (s : State) : exec (.fexp2 r g d a e) s =
    execFexp2 r g d a e s := rfl
@[simp] theorem exec_flog2 r g d a e (s : State) : exec (.flog2 r g d a e) s =
    execFlog2 r g d a e s := rfl
@[simp] theorem exec_fsin r g d a e (s : State) : exec (.fsin r g d a e) s =
    execFsin r g d a e s := rfl
@[simp] theorem exec_fcos r g d a e (s : State) : exec (.fcos r g d a e) s =
    execFcos r g d a e s := rfl
@[simp] theorem exec_frint r g d a e (s : State) : exec (.frint r g d a e) s =
    execFrint r g d a e s := rfl
@[simp] theorem exec_hfma2 r g d a b e f (s : State) : exec (.hfma2 r g d a b e f) s =
    execHfma2 r g d a b e f s := rfl
@[simp] theorem exec_hadd2 r g d a b e f (s : State) : exec (.hadd2 r g d a b e f) s =
    execHadd2 r g d a b e f s := rfl
@[simp] theorem exec_hmul2 r g d a b e f (s : State) : exec (.hmul2 r g d a b e f) s =
    execHmul2 r g d a b e f s := rfl
@[simp] theorem exec_fmin g d a b e f (s : State) : exec (.fmin g d a b e f) s =
    execFmin g d a b e f s := rfl
@[simp] theorem exec_fmax g d a b e f (s : State) : exec (.fmax g d a b e f) s =
    execFmax g d a b e f s := rfl
@[simp] theorem exec_fneg g d a e (s : State) : exec (.fneg g d a e) s =
    execFneg g d a e s := rfl
@[simp] theorem exec_fabs g d a e (s : State) : exec (.fabs g d a e) s =
    execFabs g d a e s := rfl
@[simp] theorem exec_fclass g d a e (s : State) : exec (.fclass g d a e) s =
    execFclass g d a e s := rfl
@[simp] theorem exec_fcmp g d a b e f c (s : State) : exec (.fcmp g d a b e f c) s =
    execFcmp g d a b e f c s := rfl
@[simp] theorem exec_cvt g d a e r t s0 (s : State) : exec (.cvt g d a e r t s0) s =
    execCvt g d a e r t s0 s := rfl
@[simp] theorem exec_cvtn g d a e r p t (s : State) : exec (.cvtn g d a e r p t) s =
    execCvtn g d a e r p t s := rfl
@[simp] theorem exec_cvtPart g d a e p t (s : State) : exec (.cvtPart g d a e p t) s =
    execCvtPart g d a e p t s := rfl
@[simp] theorem exec_bxq g d a e t (s : State) : exec (.bxq g d a e t) s =
    execBxq g d a e t s := rfl
@[simp] theorem exec_bxd g d a e t (s : State) : exec (.bxd g d a e t) s =
    execBxd g d a e t s := rfl
@[simp] theorem exec_pand g d a b e f (s : State) : exec (.pand g d a b e f) s =
    execPand g d a b e f s := rfl
@[simp] theorem exec_por g d a b e f (s : State) : exec (.por g d a b e f) s =
    execPor g d a b e f s := rfl
@[simp] theorem exec_pxor g d a b e f (s : State) : exec (.pxor g d a b e f) s =
    execPxor g d a b e f s := rfl
@[simp] theorem exec_pnot g d a e (s : State) : exec (.pnot g d a e) s =
    execPnot g d a e s := rfl
@[simp] theorem exec_pset g d a e (s : State) : exec (.pset g d a e) s =
    execPset g d a e s := rfl
@[simp] theorem exec_pget g d a e (s : State) : exec (.pget g d a e) s =
    execPget g d a e s := rfl
@[simp] theorem exec_reduceAddI32 g d a b e f (s : State) : exec (.reduceAddI32 g d a b e f) s =
    execReduceAddI32 g d a b e f s := rfl
@[simp] theorem exec_reduceMinI32 g d a b e f (s : State) : exec (.reduceMinI32 g d a b e f) s =
    execReduceMinI32 g d a b e f s := rfl
@[simp] theorem exec_reduceMinN32 g d a b e f (s : State) : exec (.reduceMinN32 g d a b e f) s =
    execReduceMinN32 g d a b e f s := rfl
@[simp] theorem exec_reduceMaxI32 g d a b e f (s : State) : exec (.reduceMaxI32 g d a b e f) s =
    execReduceMaxI32 g d a b e f s := rfl
@[simp] theorem exec_reduceMaxN32 g d a b e f (s : State) : exec (.reduceMaxN32 g d a b e f) s =
    execReduceMaxN32 g d a b e f s := rfl
@[simp] theorem exec_reduceAnd g d a b e f (s : State) : exec (.reduceAnd g d a b e f) s =
    execReduceAnd g d a b e f s := rfl
@[simp] theorem exec_reduceOr g d a b e f (s : State) : exec (.reduceOr g d a b e f) s =
    execReduceOr g d a b e f s := rfl
@[simp] theorem exec_reduceXor g d a b e f (s : State) : exec (.reduceXor g d a b e f) s =
    execReduceXor g d a b e f s := rfl
@[simp] theorem exec_reduceMinF32 g d a b e f (s : State) : exec (.reduceMinF32 g d a b e f) s =
    execReduceMinF32 g d a b e f s := rfl
@[simp] theorem exec_reduceMaxF32 g d a b e f (s : State) : exec (.reduceMaxF32 g d a b e f) s =
    execReduceMaxF32 g d a b e f s := rfl
@[simp] theorem exec_reduceAddF32Rz g d a b e f (s : State) : exec (.reduceAddF32Rz g d a b e f) s =
    execReduceAddF32Rz g d a b e f s := rfl
@[simp] theorem exec_reduceAddF32Hint g d a b e f (s : State) : exec (.reduceAddF32Hint g d a b e f) s =
    execReduceAddF32Hint g d a b e f s := rfl
@[simp] theorem exec_reduceAddF32 g d a b e f (s : State) : exec (.reduceAddF32 g d a b e f) s =
    execReduceAddF32 g d a b e f s := rfl
@[simp] theorem exec_reduceAddF32Rn g d a b e f (s : State) : exec (.reduceAddF32Rn g d a b e f) s =
    execReduceAddF32Rn g d a b e f s := rfl
@[simp] theorem exec_scanAddI32 g d a b e f (s : State) : exec (.scanAddI32 g d a b e f) s =
    execScanAddI32 g d a b e f s := rfl
@[simp] theorem exec_scanMinI32 g d a b e f (s : State) : exec (.scanMinI32 g d a b e f) s =
    execScanMinI32 g d a b e f s := rfl
@[simp] theorem exec_scanMaxI32 g d a b e f (s : State) : exec (.scanMaxI32 g d a b e f) s =
    execScanMaxI32 g d a b e f s := rfl
@[simp] theorem exec_scanAddF32Rn g d a b e f (s : State) : exec (.scanAddF32Rn g d a b e f) s =
    execScanAddF32Rn g d a b e f s := rfl
@[simp] theorem exec_scanAddF32Rz g d a b e f (s : State) : exec (.scanAddF32Rz g d a b e f) s =
    execScanAddF32Rz g d a b e f s := rfl
@[simp] theorem exec_scanAddF32Hint g d a b e f (s : State) : exec (.scanAddF32Hint g d a b e f) s =
    execScanAddF32Hint g d a b e f s := rfl
@[simp] theorem exec_scanAddF32 g d a b e f (s : State) : exec (.scanAddF32 g d a b e f) s =
    execScanAddF32 g d a b e f s := rfl
@[simp] theorem exec_voteAny g d a k e (s : State) : exec (.voteAny g d a k e) s =
    execVoteAny g d a k e s := rfl
@[simp] theorem exec_voteAll g d a k e (s : State) : exec (.voteAll g d a k e) s =
    execVoteAll g d a k e s := rfl
@[simp] theorem exec_voteCnt g d a k e (s : State) : exec (.voteCnt g d a k e) s =
    execVoteCnt g d a k e s := rfl
@[simp] theorem exec_matchV g d a e (s : State) : exec (.matchV g d a e) s =
    execMatchV g d a e s := rfl
@[simp] theorem exec_bcast g d a b e f (s : State) : exec (.bcast g d a b e f) s =
    execBcast g d a b e f s := rfl
@[simp] theorem exec_v2s g d a b e f (s : State) : exec (.v2s g d a b e f) s =
    execV2s g d a b e f s := rfl
@[simp] theorem exec_s2v g d a e (s : State) : exec (.s2v g d a e) s =
    execS2v g d a e s := rfl
@[simp] theorem exec_pack g (s : State) : exec (.pack g) s =
    execPack g s := rfl
@[simp] theorem exec_regroup g d a e (s : State) : exec (.regroup g d a e) s =
    execRegroup g d a e s := rfl
@[simp] theorem exec_shfl g d a b e f m p (s : State) : exec (.shfl g d a b e f m p) s =
    execShfl g d a b e f m p s := rfl
@[simp] theorem exec_sadd d a b e f (s : State) : exec (.sadd d a b e f) s =
    execSadd d a b e f s := rfl
@[simp] theorem exec_ssub d a b e f (s : State) : exec (.ssub d a b e f) s =
    execSsub d a b e f s := rfl
@[simp] theorem exec_smul d a b e f (s : State) : exec (.smul d a b e f) s =
    execSmul d a b e f s := rfl
@[simp] theorem exec_smulhI64 d a b e f (s : State) : exec (.smulhI64 d a b e f) s =
    execSmulhI64 d a b e f s := rfl
@[simp] theorem exec_smulhN64 d a b e f (s : State) : exec (.smulhN64 d a b e f) s =
    execSmulhN64 d a b e f s := rfl
@[simp] theorem exec_sand d a b e f (s : State) : exec (.sand d a b e f) s =
    execSand d a b e f s := rfl
@[simp] theorem exec_sor d a b e f (s : State) : exec (.sor d a b e f) s =
    execSor d a b e f s := rfl
@[simp] theorem exec_sxor d a b e f (s : State) : exec (.sxor d a b e f) s =
    execSxor d a b e f s := rfl
@[simp] theorem exec_sshl d a b e f (s : State) : exec (.sshl d a b e f) s =
    execSshl d a b e f s := rfl
@[simp] theorem exec_sshr d a b e f (s : State) : exec (.sshr d a b e f) s =
    execSshr d a b e f s := rfl
@[simp] theorem exec_ssar d a b e f (s : State) : exec (.ssar d a b e f) s =
    execSsar d a b e f s := rfl
@[simp] theorem exec_sminI64 d a b e f (s : State) : exec (.sminI64 d a b e f) s =
    execSminI64 d a b e f s := rfl
@[simp] theorem exec_sminN64 d a b e f (s : State) : exec (.sminN64 d a b e f) s =
    execSminN64 d a b e f s := rfl
@[simp] theorem exec_smaxI64 d a b e f (s : State) : exec (.smaxI64 d a b e f) s =
    execSmaxI64 d a b e f s := rfl
@[simp] theorem exec_smaxN64 d a b e f (s : State) : exec (.smaxN64 d a b e f) s =
    execSmaxN64 d a b e f s := rfl
@[simp] theorem exec_smov d a e (s : State) : exec (.smov d a e) s =
    execSmov d a e s := rfl
@[simp] theorem exec_scmp d a b e f c (s : State) : exec (.scmp d a b e f c) s =
    execScmp d a b e f c s := rfl
@[simp] theorem exec_ssel d a b e f (s : State) : exec (.ssel d a b e f) s =
    execSsel d a b e f s := rfl
@[simp] theorem exec_saddi d a i0 (s : State) : exec (.saddi d a i0) s =
    execSaddi d a i0 s := rfl
@[simp] theorem exec_slih d i0 (s : State) : exec (.slih d i0) s =
    execSlih d i0 s := rfl
@[simp] theorem exec_sshlImm d a n (s : State) : exec (.sshlImm d a n) s =
    execSshlImm d a n s := rfl
@[simp] theorem exec_sshrImm d a n (s : State) : exec (.sshrImm d a n) s =
    execSshrImm d a n s := rfl
@[simp] theorem exec_ssarImm d a n (s : State) : exec (.ssarImm d a n) s =
    execSsarImm d a n s := rfl
@[simp] theorem exec_bra g o (s : State) : exec (.bra g o) s =
    execBra g o s := rfl
@[simp] theorem exec_bru g o (s : State) : exec (.bru g o) s =
    execBru g o s := rfl
@[simp] theorem exec_brc g w o (s : State) : exec (.brc g w o) s =
    execBrc g w o s := rfl
@[simp] theorem exec_call f o (s : State) : exec (.call f o) s =
    execCall f o s := rfl
@[simp] theorem exec_loop n o (s : State) : exec (.loop n o) s =
    execLoop n o s := rfl
@[simp] theorem exec_nop (s : State) : exec (.nop) s =
    execNop s := rfl
@[simp] theorem exec_join w (s : State) : exec (.join w) s =
    execJoin w s := rfl
@[simp] theorem exec_calli a f e (s : State) : exec (.calli a f e) s =
    execCalli a f e s := rfl
@[simp] theorem exec_ret (s : State) : exec (.ret) s =
    execRet s := rfl
@[simp] theorem exec_yield (s : State) : exec (.yield) s =
    execYield s := rfl
@[simp] theorem exec_endP (s : State) : exec (.endP) s =
    execEndP s := rfl
@[simp] theorem exec_width d a i0 (s : State) : exec (.width d a i0) s =
    execWidth d a i0 s := rfl
@[simp] theorem exec_ld g d a b e z o (s : State) : exec (.ld g d a b e z o) s =
    execLd g d a b e z o s := rfl
@[simp] theorem exec_st g s0 a b e z o (s : State) : exec (.st g s0 a b e z o) s =
    execSt g s0 a b e z o s := rfl
@[simp] theorem exec_lds g d b e z o (s : State) : exec (.lds g d b e z o) s =
    execLds g d b e z o s := rfl
@[simp] theorem exec_sts g s0 b e z o (s : State) : exec (.sts g s0 b e z o) s =
    execSts g s0 b e z o s := rfl
@[simp] theorem exec_home g d b e o (s : State) : exec (.home g d b e o) s =
    execHome g d b e o s := rfl
@[simp] theorem exec_ptab g d i0 (s : State) : exec (.ptab g d i0) s =
    execPtab g d i0 s := rfl
@[simp] theorem exec_ptabFail g d i0 (s : State) : exec (.ptabFail g d i0) s =
    execPtabFail g d i0 s := rfl
@[simp] theorem exec_fence g (s : State) : exec (.fence g) s =
    execFence g s := rfl
@[simp] theorem exec_stp g s0 a b e z o (s : State) : exec (.stp g s0 a b e z o) s =
    execStp g s0 a b e z o s := rfl
@[simp] theorem exec_atm g d a b e o t (s : State) : exec (.atm g d a b e o t) s =
    execAtm g d a b e o t s := rfl
@[simp] theorem exec_atp g s0 a b e o t (s : State) : exec (.atp g s0 a b e o t) s =
    execAtp g s0 a b e o t s := rfl
@[simp] theorem exec_atpVadd g s0 a b e p t (s : State) : exec (.atpVadd g s0 a b e p t) s =
    execAtpVadd g s0 a b e p t s := rfl
@[simp] theorem exec_pld g d a b e z o (s : State) : exec (.pld g d a b e z o) s =
    execPld g d a b e z o s := rfl
@[simp] theorem exec_pst g s0 a b e z o (s : State) : exec (.pst g s0 a b e z o) s =
    execPst g s0 a b e z o s := rfl
@[simp] theorem exec_patm g d a b e o t (s : State) : exec (.patm g d a b e o t) s =
    execPatm g d a b e o t s := rfl
@[simp] theorem exec_pstep g (s : State) : exec (.pstep g) s =
    execPstep g s := rfl
@[simp] theorem exec_bar g i0 s0 (s : State) : exec (.bar g i0 s0) s =
    execBar g i0 s0 s := rfl
@[simp] theorem exec_bara g i0 s0 (s : State) : exec (.bara g i0 s0) s =
    execBara g i0 s0 s := rfl
@[simp] theorem exec_barw g i0 s0 (s : State) : exec (.barw g i0 s0) s =
    execBarw g i0 s0 s := rfl
@[simp] theorem exec_tcfg g t y e (s : State) : exec (.tcfg g t y e) s =
    execTcfg g t y e s := rfl
@[simp] theorem exec_tld g t y z e f (s : State) : exec (.tld g t y z e f) s =
    execTld g t y z e f s := rfl
@[simp] theorem exec_tst g t y z e f (s : State) : exec (.tst g t y z e f) s =
    execTst g t y z e f s := rfl
@[simp] theorem exec_tzero g t (s : State) : exec (.tzero g t) s =
    execTzero g t s := rfl
@[simp] theorem exec_wld g t y e (s : State) : exec (.wld g t y e) s =
    execWld g t y e s := rfl
@[simp] theorem exec_mma g a t k (s : State) : exec (.mma g a t k) s =
    execMma g a t k s := rfl
@[simp] theorem exec_mmas g a t v f k (s : State) : exec (.mmas g a t v f k) s =
    execMmas g a t v f k s := rfl
@[simp] theorem exec_mbatch g d (s : State) : exec (.mbatch g d) s =
    execMbatch g d s := rfl
@[simp] theorem exec_mwait g y e (s : State) : exec (.mwait g y e) s =
    execMwait g y e s := rfl
@[simp] theorem exec_accget g d n (s : State) : exec (.accget g d n) s =
    execAccget g d n s := rfl
@[simp] theorem exec_accput g (s : State) : exec (.accput g) s =
    execAccput g s := rfl
@[simp] theorem exec_acq g a (s : State) : exec (.acq g a) s =
    execAcq g a s := rfl
@[simp] theorem exec_rel g a (s : State) : exec (.rel g a) s =
    execRel g a s := rfl
@[simp] theorem exec_accrd g d a z f (s : State) : exec (.accrd g d a z f) s =
    execAccrd g d a z f s := rfl
@[simp] theorem exec_accrd4 g d a z f (s : State) : exec (.accrd4 g d a z f) s =
    execAccrd4 g d a z f s := rfl
@[simp] theorem exec_accwr g a v z e f (s : State) : exec (.accwr g a v z e f) s =
    execAccwr g a v z e f s := rfl
@[simp] theorem exec_accwr4 g a v z e f (s : State) : exec (.accwr4 g a v z e f) s =
    execAccwr4 g a v z e f s := rfl
@[simp] theorem exec_hwait h (s : State) : exec (.hwait h) s =
    execHwait h s := rfl
@[simp] theorem exec_hany d a e (s : State) : exec (.hany d a e) s =
    execHany d a e s := rfl
@[simp] theorem exec_hall a e (s : State) : exec (.hall a e) s =
    execHall a e s := rfl
@[simp] theorem exec_hfirst d a e (s : State) : exec (.hfirst d a e) s =
    execHfirst d a e s := rfl
@[simp] theorem exec_hclaim h (s : State) : exec (.hclaim h) s =
    execHclaim h s := rfl
@[simp] theorem exec_hfree h (s : State) : exec (.hfree h) s =
    execHfree h s := rfl
@[simp] theorem exec_hsig a e (s : State) : exec (.hsig a e) s =
    execHsig a e s := rfl
@[simp] theorem exec_copy h g d (s : State) : exec (.copy h g d) s =
    execCopy h g d s := rfl
@[simp] theorem exec_copy2d h g d (s : State) : exec (.copy2d h g d) s =
    execCopy2d h g d s := rfl
@[simp] theorem exec_gather h g d (s : State) : exec (.gather h g d) s =
    execGather h g d s := rfl
@[simp] theorem exec_scatter h g d (s : State) : exec (.scatter h g d) s =
    execScatter h g d s := rfl
@[simp] theorem exec_mpwait d (s : State) : exec (.mpwait d) s =
    execMpwait d s := rfl
@[simp] theorem exec_hset a h (s : State) : exec (.hset a h) s =
    execHset a h s := rfl
@[simp] theorem exec_hexp a h (s : State) : exec (.hexp a h) s =
    execHexp a h s := rfl
@[simp] theorem exec_mpfence (s : State) : exec (.mpfence) s =
    execMpfence s := rfl
@[simp] theorem exec_mpend (s : State) : exec (.mpend) s =
    execMpend s := rfl
@[simp] theorem exec_emit g d a e (s : State) : exec (.emit g d a e) s =
    execEmit g d a e s := rfl
@[simp] theorem exec_depdec g a e (s : State) : exec (.depdec g a e) s =
    execDepdec g a e s := rfl
@[simp] theorem exec_qpush g p a b e f (s : State) : exec (.qpush g p a b e f) s =
    execQpush g p a b e f s := rfl
@[simp] theorem exec_qpop g d b f (s : State) : exec (.qpop g d b f) s =
    execQpop g d b f s := rfl
@[simp] theorem exec_bfork g d (s : State) : exec (.bfork g d) s =
    execBfork g d s := rfl
@[simp] theorem exec_bforkStamp g a e (s : State) : exec (.bforkStamp g a e) s =
    execBforkStamp g a e s := rfl
@[simp] theorem exec_bcancel g a e (s : State) : exec (.bcancel g a e) s =
    execBcancel g a e s := rfl
@[simp] theorem exec_chfork g d a e (s : State) : exec (.chfork g d a e) s =
    execChfork g d a e s := rfl
@[simp] theorem exec_chapp g d a b e f (s : State) : exec (.chapp g d a b e f) s =
    execChapp g d a b e f s := rfl
@[simp] theorem exec_chrel g a e (s : State) : exec (.chrel g a e) s =
    execChrel g a e s := rfl
@[simp] theorem exec_srd r n (s : State) : exec (.srd r n) s =
    execSrd r n s := rfl
@[simp] theorem exec_swr r e n (s : State) : exec (.swr r e n) s =
    execSwr r e n s := rfl
@[simp] theorem exec_srdVector r (s : State) : exec (.srdVector r) s =
    execSrdVector r s := rfl
@[simp] theorem exec_trap a n e (s : State) : exec (.trap a n e) s =
    execTrap a n e s := rfl
@[simp] theorem exec_rft a e (s : State) : exec (.rft a e) s =
    execRft a e s := rfl
@[simp] theorem exec_ifence (s : State) : exec (.ifence) s =
    execIfence s := rfl
@[simp] theorem exec_bkpt n (s : State) : exec (.bkpt n) s =
    execBkpt n s := rfl
@[simp] theorem exec_halt (s : State) : exec (.halt) s =
    execHalt s := rfl
@[simp] theorem exec_pfix d i0 (s : State) : exec (.pfix d i0) s =
    execPfix d i0 s := rfl
@[simp] theorem exec_pfixDrop d i0 (s : State) : exec (.pfixDrop d i0) s =
    execPfixDrop d i0 s := rfl
@[simp] theorem exec_ctxsv a e (s : State) : exec (.ctxsv a e) s =
    execCtxsv a e s := rfl
@[simp] theorem exec_ctxld d a e (s : State) : exec (.ctxld d a e) s =
    execCtxld d a e s := rfl
@[simp] theorem exec_ctxldKill d a e (s : State) : exec (.ctxldKill d a e) s =
    execCtxldKill d a e s := rfl
@[simp] theorem exec_hintImm p (s : State) : exec (.hintImm p) s =
    execHintImm p s := rfl
@[simp] theorem exec_hintRnd r (s : State) : exec (.hintRnd r) s =
    execHintRnd r s := rfl
@[simp] theorem exec_hintSched p (s : State) : exec (.hintSched p) s =
    execHintSched p s := rfl
@[simp] theorem exec_hintFmt t (s : State) : exec (.hintFmt t) s =
    execHintFmt t s := rfl
@[simp] theorem exec_siblingHalt path (s : State) : exec (.siblingHalt path) s =
    execSiblingHalt path s := rfl
@[simp] theorem exec_registerFill path flight (s : State) : exec (.registerFill path flight) s =
    execRegisterFill path flight s := rfl
@[simp] theorem exec_hopLanding path core (s : State) : exec (.hopLanding path core) s =
    execHopLanding path core s := rfl
@[simp] theorem exec_parkedImageResume home core (s : State) : exec (.parkedImageResume home core) s =
    execParkedImageResume home core s := rfl
@[simp] theorem exec_parkSwitchOut home (s : State) : exec (.parkSwitchOut home) s =
    execParkSwitchOut home s := rfl
@[simp] theorem exec_crewSwitchOut home (s : State) : exec (.crewSwitchOut home) s =
    execCrewSwitchOut home s := rfl
@[simp] theorem exec_watchdogExpiry path (s : State) : exec (.watchdogExpiry path) s =
    execWatchdogExpiry path s := rfl
@[simp] theorem exec_regroupWindowExpiry path (s : State) : exec (.regroupWindowExpiry path) s =
    execRegroupWindowExpiry path s := rfl
@[simp] theorem exec_postPerform post (s : State) : exec (.postPerform post) s =
    execPostPerform post s := rfl
@[simp] theorem exec_postAcknowledgement ack (s : State) : exec (.postAcknowledgement ack) s =
    execPostAcknowledgement ack s := rfl
@[simp] theorem exec_hostAccess op (s : State) : exec (.hostAccess op) s =
    execHostAccess op s := rfl
@[simp] theorem exec_copySector crew copy sector (s : State) : exec (.copySector crew copy sector) s =
    execCopySector crew copy sector s := rfl
@[simp] theorem exec_matrixOperation crew (s : State) : exec (.matrixOperation crew) s =
    execMatrixOperation crew s := rfl
@[simp] theorem exec_accgetGrant crew (s : State) : exec (.accgetGrant crew) s =
    execAccgetGrant crew s := rfl
@[simp] theorem exec_movementFault crew (s : State) : exec (.movementFault crew) s =
    execMovementFault crew s := rfl
@[simp] theorem exec_engineRelease crew (s : State) : exec (.engineRelease crew) s =
    execEngineRelease crew s := rfl
@[simp] theorem exec_clutchRecordArrival record (s : State) : exec (.clutchRecordArrival record) s =
    execClutchRecordArrival record s := rfl
@[simp] theorem exec_clutchTimer launch node brood (s : State) : exec (.clutchTimer launch node brood) s =
    execClutchTimer launch node brood s := rfl
@[simp] theorem exec_launchRecordTake module (s : State) : exec (.launchRecordTake module) s =
    execLaunchRecordTake module s := rfl
@[simp] theorem exec_knotPlacement home (s : State) : exec (.knotPlacement home) s =
    execKnotPlacement home s := rfl
@[simp] theorem exec_crewPlacement home (s : State) : exec (.crewPlacement home) s =
    execCrewPlacement home s := rfl
@[simp] theorem exec_stealMessage thief (s : State) : exec (.stealMessage thief) s =
    execStealMessage thief s := rfl
@[simp] theorem exec_launchCompletion launch (s : State) : exec (.launchCompletion launch) s =
    execLaunchCompletion launch s := rfl
@[simp] theorem exec_preemptionComplete module (s : State) : exec (.preemptionComplete module) s =
    execPreemptionComplete module s := rfl
@[simp] theorem exec_eccError error (s : State) : exec (.eccError error) s =
    execEccError error s := rfl
@[simp] theorem exec_governorStep module up (s : State) : exec (.governorStep module up) s =
    execGovernorStep module up s := rfl
@[simp] theorem exec_resetModule module stages (s : State) : exec (.resetModule module stages) s =
    execResetModule module stages s := rfl
@[simp] theorem exec_qreg module (s : State) : exec (.qreg module) s =
    execQreg module s := rfl
@[simp] theorem exec_bindObject module (s : State) : exec (.bindObject module) s =
    execBindObject module s := rfl
@[simp] theorem exec_lazyBind module (s : State) : exec (.lazyBind module) s =
    execLazyBind module s := rfl
@[simp] theorem exec_shoot module (s : State) : exec (.shoot module) s =
    execShoot module s := rfl
@[simp] theorem exec_keyload module (s : State) : exec (.keyload module) s =
    execKeyload module s := rfl
@[simp] theorem exec_circuit module (s : State) : exec (.circuit module) s =
    execCircuit module s := rfl
@[simp] theorem exec_pool module (s : State) : exec (.pool module) s =
    execPool module s := rfl
@[simp] theorem exec_preempt module (s : State) : exec (.preempt module) s =
    execPreempt module s := rfl
@[simp] theorem exec_resume module (s : State) : exec (.resume module) s =
    execResume module s := rfl
@[simp] theorem exec_haltstk module (s : State) : exec (.haltstk module) s =
    execHaltstk module s := rfl
@[simp] theorem exec_runstk module (s : State) : exec (.runstk module) s =
    execRunstk module s := rfl
@[simp] theorem exec_attest module (s : State) : exec (.attest module) s =
    execAttest module s := rfl
@[simp] theorem exec_devhashReport module (s : State) : exec (.devhashReport module) s =
    execDevhashReport module s := rfl
@[simp] theorem exec_wlist module (s : State) : exec (.wlist module) s =
    execWlist module s := rfl
@[simp] theorem exec_signkey module (s : State) : exec (.signkey module) s =
    execSignkey module s := rfl
@[simp] theorem exec_unlistedCommand module (s : State) : exec (.unlistedCommand module) s =
    execUnlistedCommand module s := rfl
@[simp] theorem exec_illegalEncoding (s : State) : exec (.illegalEncoding) s =
    execIllegalEncoding s := rfl
@[simp] theorem exec_fetchBeyondExtent (s : State) : exec (.fetchBeyondExtent) s =
    execFetchBeyondExtent s := rfl
@[simp] theorem exec_larzonConfigurationSpaceWrite module header (s : State) : exec (.larzonConfigurationSpaceWrite module header) s =
    execLarzonConfigurationSpaceWrite module header s := rfl
@[simp] theorem exec_fabricPacketResend post (s : State) : exec (.fabricPacketResend post) s =
    execFabricPacketResend post s := rfl

end Sys2Proof.Machine
end

