-- ==== Sys2Proof/Laws/Sparse.lean ====
section
/-! SUPPORT. Laws of finite maps and byte memories: reads after writes, and the canonical form. -/
namespace Sys2Proof.Machine

variable {α : Type}

@[simp] theorem spFind_spPut_same (k : Nat) (v : α) (m : Sparse α) : spFind k (spPut k v m) = some v := by
  induction m with
  | nil => simp [spPut, spFind]
  | cons e m ih =>
    obtain ⟨j, w⟩ := e
    simp only [spPut]
    split
    · simp [spFind]
    · split
      · simp [spFind]
      · rename_i h1 h2
        simp [spFind, h1, h2, ih]

theorem spFind_spPut_ne {i k : Nat} (h : i ≠ k) (v : α) (m : Sparse α) : spFind i (spPut k v m) = spFind i m := by
  induction m with
  | nil => simp [spPut, spFind, Ne.symm h]
  | cons e m ih =>
    obtain ⟨j, w⟩ := e
    simp only [spPut]
    split
    · subst j; simp [spFind, Ne.symm h]
    · split
      · rename_i h1 h2
        simp only [spFind, Ne.symm h, if_false]
        split
        · have hij : j ≠ i := by omega
          have hij' : i < j := by omega
          simp [hij, hij']
        · rfl
      · simp only [spFind, ih]

theorem spGet_spPut (d : α) (k i : Nat) (v : α) (m : Sparse α) :
    spGet d (spPut k v m) i = if i = k then v else spGet d m i := by
  unfold spGet
  split
  · subst i; simp
  · rw [spFind_spPut_ne ‹_›]

@[simp] theorem spFind_spModify_same (k : Nat) (f : α → α) (m : Sparse α) : spFind k (spModify k f m) = (spFind k m).map f := by
  induction m with
  | nil => simp [spModify, spFind]
  | cons e m ih =>
    obtain ⟨j, w⟩ := e
    simp only [spModify]
    split
    · subst j; simp [spFind]
    · rename_i h
      simp only [spFind, h, if_false, ih]
      split <;> simp

theorem spFind_spModify_ne {i k : Nat} (h : i ≠ k) (f : α → α) (m : Sparse α) : spFind i (spModify k f m) = spFind i m := by
  induction m with
  | nil => simp [spModify]
  | cons e m ih =>
    obtain ⟨j, w⟩ := e
    simp only [spModify]
    split
    · subst j; simp [spFind, Ne.symm h]
    · simp only [spFind, ih]

/-- The rising order of the keys after a lower bound is weakened. -/
theorem spRising_weaken {lo : Option Nat} {m : Sparse α} (h : spRising lo m = true) : spRising none m = true := by
  cases m with
  | nil => rfl
  | cons e m =>
    obtain ⟨j, w⟩ := e
    simp only [spRising, Bool.and_eq_true] at h ⊢
    exact ⟨trivial, h.2⟩

theorem spRising_lower {a b : Nat} (hab : a ≤ b) {m : Sparse α} (h : spRising (some b) m = true) : spRising (some a) m = true := by
  cases m with
  | nil => rfl
  | cons e m =>
    obtain ⟨j, w⟩ := e
    simp only [spRising, Bool.and_eq_true, decide_eq_true_eq] at h ⊢
    exact ⟨by omega, h.2⟩

theorem spFind_below {i a : Nat} {m : Sparse α} (h : spRising (some a) m = true) (hi : i ≤ a) : spFind i m = none := by
  cases m with
  | nil => rfl
  | cons e m =>
    obtain ⟨j, w⟩ := e
    simp only [spRising, Bool.and_eq_true, decide_eq_true_eq] at h
    have h1 : j ≠ i := by omega
    have h2 : i < j := by omega
    simp [spFind, h1, h2]

theorem spRising_spPut {lo : Option Nat} (k : Nat) (v : α) {m : Sparse α} (h : spRising lo m = true)
    (hk : ∀ l, lo = some l → l < k) : spRising lo (spPut k v m) = true := by
  induction m generalizing lo with
  | nil => cases lo <;> simp_all [spPut, spRising]
  | cons e m ih =>
    obtain ⟨j, w⟩ := e
    simp only [spRising, Bool.and_eq_true] at h
    simp only [spPut]
    split
    · subst j; simp only [spRising, Bool.and_eq_true]; exact h
    · split
      · rename_i h1 h2
        simp only [spRising, Bool.and_eq_true, decide_eq_true_eq]
        refine ⟨?_, h2, h.2⟩
        cases lo <;> simp_all
      · rename_i h1 h2
        simp only [spRising, Bool.and_eq_true]
        refine ⟨h.1, ih h.2 ?_⟩
        intro l hl; cases hl; omega

theorem spRising_spDrop {lo : Option Nat} (k : Nat) {m : Sparse α} (h : spRising lo m = true) :
    spRising lo (spDrop k m) = true := by
  induction m generalizing lo with
  | nil => cases lo <;> simp_all [spDrop, spRising]
  | cons e m ih =>
    obtain ⟨j, w⟩ := e
    simp only [spRising, Bool.and_eq_true] at h
    simp only [spDrop]
    split
    · cases lo with
      | none => exact spRising_weaken h.2
      | some l =>
        have := h.1
        simp only [decide_eq_true_eq] at this
        exact spRising_lower (Nat.le_of_lt this) h.2
    · split
      · simp only [spRising, Bool.and_eq_true]; exact h
      · simp only [spRising, Bool.and_eq_true]
        exact ⟨h.1, ih h.2⟩

theorem spRising_spModify {lo : Option Nat} (k : Nat) (f : α → α) {m : Sparse α} (h : spRising lo m = true) :
    spRising lo (spModify k f m) = true := by
  induction m generalizing lo with
  | nil => cases lo <;> simp_all [spModify, spRising]
  | cons e m ih =>
    obtain ⟨j, w⟩ := e
    simp only [spRising, Bool.and_eq_true] at h
    simp only [spModify]
    split
    · subst j; simp only [spRising, Bool.and_eq_true]; exact h
    · simp only [spRising, Bool.and_eq_true]
      exact ⟨h.1, ih h.2⟩

theorem spFind_spDrop_same {lo : Option Nat} (k : Nat) {m : Sparse α} (h : spRising lo m = true) : spFind k (spDrop k m) = none := by
  induction m generalizing lo with
  | nil => rfl
  | cons e m ih =>
    obtain ⟨j, w⟩ := e
    simp only [spRising, Bool.and_eq_true] at h
    simp only [spDrop]
    split
    · subst j; exact spFind_below h.2 (Nat.le_refl _)
    · split
      · simp [spFind, *]
      · simp only [spFind, *, if_false]; exact ih h.2

theorem spFind_spDrop_ne {lo : Option Nat} {i k : Nat} (hi : i ≠ k) {m : Sparse α} (h : spRising lo m = true) :
    spFind i (spDrop k m) = spFind i m := by
  induction m generalizing lo with
  | nil => rfl
  | cons e m ih =>
    obtain ⟨j, w⟩ := e
    simp only [spRising, Bool.and_eq_true] at h
    simp only [spDrop]
    split
    · subst j
      simp only [spFind, Ne.symm hi, if_false]
      split
      · exact spFind_below h.2 (Nat.le_of_lt ‹_›)
      · rfl
    · split
      · rfl
      · simp only [spFind, ih h.2]

theorem spRising_spSet [DecidableEq α] (d : α) (k : Nat) (v : α) {m : Sparse α} (h : spRising none m = true) :
    spRising none (spSet d m k v) = true := by
  unfold spSet
  split
  · exact spRising_spDrop k h
  · exact spRising_spPut k v h (by simp)

theorem spGet_spSet [DecidableEq α] (d : α) (k i : Nat) (v : α) {m : Sparse α} (h : spRising none m = true) :
    spGet d (spSet d m k v) i = if i = k then v else spGet d m i := by
  unfold spSet
  split
  · subst v
    unfold spGet
    by_cases hi : i = k
    · subst i; simp [spFind_spDrop_same k h]
    · simp [spFind_spDrop_ne hi h, hi]
  · exact spGet_spPut d k i v m

/-- A value other than the default is read back whatever the list. -/
theorem spGet_spSet_of_ne [DecidableEq α] {d v : α} (hv : v ≠ d) (k i : Nat) (m : Sparse α) :
    spGet d (spSet d m k v) i = if i = k then v else spGet d m i := by
  unfold spSet
  rw [if_neg hv, spGet_spPut]

/-- Reading a byte after a byte is written. -/
theorem cellGet_cellSet (m : List Host.Cell) (a b : Nat) (v : Byte) (h : spRising none m = true) :
    cellGet (cellSet m a v) b = if b = a then v else cellGet m b := spGet_spSet 0 a b v h

theorem all_spDrop (p : Nat × α → Bool) (k : Nat) {m : Sparse α} (h : m.all p = true) : (spDrop k m).all p = true := by
  induction m with
  | nil => rfl
  | cons e m ih =>
    obtain ⟨j, w⟩ := e
    simp only [List.all_cons, Bool.and_eq_true] at h
    simp only [spDrop]
    split
    · exact h.2
    · split
      · simp only [List.all_cons, Bool.and_eq_true]; exact h
      · simp only [List.all_cons, Bool.and_eq_true]; exact ⟨h.1, ih h.2⟩

theorem all_spPut (p : Nat × α → Bool) (k : Nat) (v : α) (hv : p (k, v) = true) {m : Sparse α} (h : m.all p = true) :
    (spPut k v m).all p = true := by
  induction m with
  | nil => simp [spPut, hv]
  | cons e m ih =>
    obtain ⟨j, w⟩ := e
    simp only [List.all_cons, Bool.and_eq_true] at h
    simp only [spPut]
    split
    · simp only [List.all_cons, Bool.and_eq_true]; exact ⟨hv, h.2⟩
    · split
      · simp only [List.all_cons, Bool.and_eq_true]; exact ⟨hv, h⟩
      · simp only [List.all_cons, Bool.and_eq_true]; exact ⟨h.1, ih h.2⟩

/-- Writing a byte keeps the canonical form. -/
theorem cellsWf_cellSet (m : List Host.Cell) (a : Nat) (v : Byte) (h : cellsWf m = true) : cellsWf (cellSet m a v) = true := by
  unfold cellsWf at h ⊢
  rw [Bool.and_eq_true] at h ⊢
  refine ⟨spRising_spSet 0 a v h.1, ?_⟩
  unfold cellSet spSet
  split
  · exact all_spDrop _ a h.2
  · exact all_spPut _ a v (by simpa using ‹¬v = 0›) h.2

/-- Writing bytes keeps the canonical form. -/
theorem cellsWf_cellWrite (bs : List Byte) : ∀ (m : List Host.Cell) (a : Nat), cellsWf m = true → cellsWf (cellWrite m a bs) = true := by
  induction bs with
  | nil => intro m a h; exact h
  | cons b bs ih => intro m a h; exact ih _ _ (cellsWf_cellSet m a b h)

end Sys2Proof.Machine
end

