-- ==== Sys2Proof/Laws/State.lean ====
section
/-! SUPPORT. What each update of State leaves in each field, so that no later proof unfolds a record update. -/
namespace Sys2Proof.Machine

variable (s : State)

@[simp] theorem State.bump_strap : s.bump.strap = s.strap := rfl
@[simp] theorem State.bump_cur : s.bump.cur = s.cur := rfl
@[simp] theorem State.bump_agenda : s.bump.agenda = s.agenda := rfl
@[simp] theorem State.bump_late : s.bump.late = s.late := rfl
@[simp] theorem State.bump_picks : s.bump.picks = s.picks := rfl
@[simp] theorem State.bump_serial : s.bump.serial = s.serial + 1 := rfl
@[simp] theorem State.bump_round : s.bump.round = s.round := rfl
@[simp] theorem State.bump_uid : s.bump.uid = s.uid := rfl
@[simp] theorem State.bump_fresh : s.bump.fresh = s.fresh := rfl
@[simp] theorem State.bump_mem : s.bump.mem = s.mem := rfl
@[simp] theorem State.bump_heap : s.bump.heap = s.heap := rfl
@[simp] theorem State.bump_flow : s.bump.flow = s.flow := rfl
@[simp] theorem State.bump_paths : s.bump.paths = s.paths := rfl
@[simp] theorem State.bump_knots : s.bump.knots = s.knots := rfl
@[simp] theorem State.bump_crews : s.bump.crews = s.crews := rfl
@[simp] theorem State.bump_launches : s.bump.launches = s.launches := rfl
@[simp] theorem State.bump_stks : s.bump.stks = s.stks := rfl
@[simp] theorem State.bump_modules : s.bump.modules = s.modules := rfl
@[simp] theorem State.bump_host : s.bump.host = s.host := rfl

@[simp] theorem State.modPath_strap (u : Nat) (f : Path → Path) : (s.modPath u f).strap = s.strap := rfl
@[simp] theorem State.modPath_cur (u : Nat) (f : Path → Path) : (s.modPath u f).cur = s.cur := rfl
@[simp] theorem State.modPath_agenda (u : Nat) (f : Path → Path) : (s.modPath u f).agenda = s.agenda := rfl
@[simp] theorem State.modPath_late (u : Nat) (f : Path → Path) : (s.modPath u f).late = s.late := rfl
@[simp] theorem State.modPath_picks (u : Nat) (f : Path → Path) : (s.modPath u f).picks = s.picks := rfl
@[simp] theorem State.modPath_serial (u : Nat) (f : Path → Path) : (s.modPath u f).serial = s.serial := rfl
@[simp] theorem State.modPath_round (u : Nat) (f : Path → Path) : (s.modPath u f).round = s.round := rfl
@[simp] theorem State.modPath_uid (u : Nat) (f : Path → Path) : (s.modPath u f).uid = s.uid := rfl
@[simp] theorem State.modPath_fresh (u : Nat) (f : Path → Path) : (s.modPath u f).fresh = s.fresh := rfl
@[simp] theorem State.modPath_mem (u : Nat) (f : Path → Path) : (s.modPath u f).mem = s.mem := rfl
@[simp] theorem State.modPath_heap (u : Nat) (f : Path → Path) : (s.modPath u f).heap = s.heap := rfl
@[simp] theorem State.modPath_flow (u : Nat) (f : Path → Path) : (s.modPath u f).flow = s.flow := rfl
@[simp] theorem State.modPath_paths (u : Nat) (f : Path → Path) : (s.modPath u f).paths = spModify u f s.paths := rfl
@[simp] theorem State.modPath_knots (u : Nat) (f : Path → Path) : (s.modPath u f).knots = s.knots := rfl
@[simp] theorem State.modPath_crews (u : Nat) (f : Path → Path) : (s.modPath u f).crews = s.crews := rfl
@[simp] theorem State.modPath_launches (u : Nat) (f : Path → Path) : (s.modPath u f).launches = s.launches := rfl
@[simp] theorem State.modPath_stks (u : Nat) (f : Path → Path) : (s.modPath u f).stks = s.stks := rfl
@[simp] theorem State.modPath_modules (u : Nat) (f : Path → Path) : (s.modPath u f).modules = s.modules := rfl
@[simp] theorem State.modPath_host (u : Nat) (f : Path → Path) : (s.modPath u f).host = s.host := rfl

@[simp] theorem State.setPath_strap (u : Nat) (p : Path) : (s.setPath u p).strap = s.strap := rfl
@[simp] theorem State.setPath_cur (u : Nat) (p : Path) : (s.setPath u p).cur = s.cur := rfl
@[simp] theorem State.setPath_agenda (u : Nat) (p : Path) : (s.setPath u p).agenda = s.agenda := rfl
@[simp] theorem State.setPath_late (u : Nat) (p : Path) : (s.setPath u p).late = s.late := rfl
@[simp] theorem State.setPath_picks (u : Nat) (p : Path) : (s.setPath u p).picks = s.picks := rfl
@[simp] theorem State.setPath_serial (u : Nat) (p : Path) : (s.setPath u p).serial = s.serial := rfl
@[simp] theorem State.setPath_round (u : Nat) (p : Path) : (s.setPath u p).round = s.round := rfl
@[simp] theorem State.setPath_uid (u : Nat) (p : Path) : (s.setPath u p).uid = s.uid := rfl
@[simp] theorem State.setPath_fresh (u : Nat) (p : Path) : (s.setPath u p).fresh = s.fresh := rfl
@[simp] theorem State.setPath_mem (u : Nat) (p : Path) : (s.setPath u p).mem = s.mem := rfl
@[simp] theorem State.setPath_heap (u : Nat) (p : Path) : (s.setPath u p).heap = s.heap := rfl
@[simp] theorem State.setPath_flow (u : Nat) (p : Path) : (s.setPath u p).flow = s.flow := rfl
@[simp] theorem State.setPath_paths (u : Nat) (p : Path) : (s.setPath u p).paths = spPut u p s.paths := rfl
@[simp] theorem State.setPath_knots (u : Nat) (p : Path) : (s.setPath u p).knots = s.knots := rfl
@[simp] theorem State.setPath_crews (u : Nat) (p : Path) : (s.setPath u p).crews = s.crews := rfl
@[simp] theorem State.setPath_launches (u : Nat) (p : Path) : (s.setPath u p).launches = s.launches := rfl
@[simp] theorem State.setPath_stks (u : Nat) (p : Path) : (s.setPath u p).stks = s.stks := rfl
@[simp] theorem State.setPath_modules (u : Nat) (p : Path) : (s.setPath u p).modules = s.modules := rfl
@[simp] theorem State.setPath_host (u : Nat) (p : Path) : (s.setPath u p).host = s.host := rfl

@[simp] theorem State.modCtx_strap (u : Nat) (f : Ctx → Ctx) : (s.modCtx u f).strap = s.strap := rfl
@[simp] theorem State.modCtx_cur (u : Nat) (f : Ctx → Ctx) : (s.modCtx u f).cur = s.cur := rfl
@[simp] theorem State.modCtx_agenda (u : Nat) (f : Ctx → Ctx) : (s.modCtx u f).agenda = s.agenda := rfl
@[simp] theorem State.modCtx_late (u : Nat) (f : Ctx → Ctx) : (s.modCtx u f).late = s.late := rfl
@[simp] theorem State.modCtx_picks (u : Nat) (f : Ctx → Ctx) : (s.modCtx u f).picks = s.picks := rfl
@[simp] theorem State.modCtx_serial (u : Nat) (f : Ctx → Ctx) : (s.modCtx u f).serial = s.serial := rfl
@[simp] theorem State.modCtx_round (u : Nat) (f : Ctx → Ctx) : (s.modCtx u f).round = s.round := rfl
@[simp] theorem State.modCtx_uid (u : Nat) (f : Ctx → Ctx) : (s.modCtx u f).uid = s.uid := rfl
@[simp] theorem State.modCtx_fresh (u : Nat) (f : Ctx → Ctx) : (s.modCtx u f).fresh = s.fresh := rfl
@[simp] theorem State.modCtx_mem (u : Nat) (f : Ctx → Ctx) : (s.modCtx u f).mem = s.mem := rfl
@[simp] theorem State.modCtx_heap (u : Nat) (f : Ctx → Ctx) : (s.modCtx u f).heap = s.heap := rfl
@[simp] theorem State.modCtx_flow (u : Nat) (f : Ctx → Ctx) : (s.modCtx u f).flow = s.flow := rfl
@[simp] theorem State.modCtx_knots (u : Nat) (f : Ctx → Ctx) : (s.modCtx u f).knots = s.knots := rfl
@[simp] theorem State.modCtx_crews (u : Nat) (f : Ctx → Ctx) : (s.modCtx u f).crews = s.crews := rfl
@[simp] theorem State.modCtx_launches (u : Nat) (f : Ctx → Ctx) : (s.modCtx u f).launches = s.launches := rfl
@[simp] theorem State.modCtx_stks (u : Nat) (f : Ctx → Ctx) : (s.modCtx u f).stks = s.stks := rfl
@[simp] theorem State.modCtx_modules (u : Nat) (f : Ctx → Ctx) : (s.modCtx u f).modules = s.modules := rfl
@[simp] theorem State.modCtx_host (u : Nat) (f : Ctx → Ctx) : (s.modCtx u f).host = s.host := rfl

@[simp] theorem State.modKnot_strap (k : Nat) (f : Knot → Knot) : (s.modKnot k f).strap = s.strap := rfl
@[simp] theorem State.modKnot_cur (k : Nat) (f : Knot → Knot) : (s.modKnot k f).cur = s.cur := rfl
@[simp] theorem State.modKnot_agenda (k : Nat) (f : Knot → Knot) : (s.modKnot k f).agenda = s.agenda := rfl
@[simp] theorem State.modKnot_late (k : Nat) (f : Knot → Knot) : (s.modKnot k f).late = s.late := rfl
@[simp] theorem State.modKnot_picks (k : Nat) (f : Knot → Knot) : (s.modKnot k f).picks = s.picks := rfl
@[simp] theorem State.modKnot_serial (k : Nat) (f : Knot → Knot) : (s.modKnot k f).serial = s.serial := rfl
@[simp] theorem State.modKnot_round (k : Nat) (f : Knot → Knot) : (s.modKnot k f).round = s.round := rfl
@[simp] theorem State.modKnot_uid (k : Nat) (f : Knot → Knot) : (s.modKnot k f).uid = s.uid := rfl
@[simp] theorem State.modKnot_fresh (k : Nat) (f : Knot → Knot) : (s.modKnot k f).fresh = s.fresh := rfl
@[simp] theorem State.modKnot_mem (k : Nat) (f : Knot → Knot) : (s.modKnot k f).mem = s.mem := rfl
@[simp] theorem State.modKnot_heap (k : Nat) (f : Knot → Knot) : (s.modKnot k f).heap = s.heap := rfl
@[simp] theorem State.modKnot_flow (k : Nat) (f : Knot → Knot) : (s.modKnot k f).flow = s.flow := rfl
@[simp] theorem State.modKnot_paths (k : Nat) (f : Knot → Knot) : (s.modKnot k f).paths = s.paths := rfl
@[simp] theorem State.modKnot_knots (k : Nat) (f : Knot → Knot) : (s.modKnot k f).knots = spModify k f s.knots := rfl
@[simp] theorem State.modKnot_crews (k : Nat) (f : Knot → Knot) : (s.modKnot k f).crews = s.crews := rfl
@[simp] theorem State.modKnot_launches (k : Nat) (f : Knot → Knot) : (s.modKnot k f).launches = s.launches := rfl
@[simp] theorem State.modKnot_stks (k : Nat) (f : Knot → Knot) : (s.modKnot k f).stks = s.stks := rfl
@[simp] theorem State.modKnot_modules (k : Nat) (f : Knot → Knot) : (s.modKnot k f).modules = s.modules := rfl
@[simp] theorem State.modKnot_host (k : Nat) (f : Knot → Knot) : (s.modKnot k f).host = s.host := rfl

@[simp] theorem State.modCrew_strap (c : Nat) (f : Crew → Crew) : (s.modCrew c f).strap = s.strap := rfl
@[simp] theorem State.modCrew_cur (c : Nat) (f : Crew → Crew) : (s.modCrew c f).cur = s.cur := rfl
@[simp] theorem State.modCrew_agenda (c : Nat) (f : Crew → Crew) : (s.modCrew c f).agenda = s.agenda := rfl
@[simp] theorem State.modCrew_late (c : Nat) (f : Crew → Crew) : (s.modCrew c f).late = s.late := rfl
@[simp] theorem State.modCrew_picks (c : Nat) (f : Crew → Crew) : (s.modCrew c f).picks = s.picks := rfl
@[simp] theorem State.modCrew_serial (c : Nat) (f : Crew → Crew) : (s.modCrew c f).serial = s.serial := rfl
@[simp] theorem State.modCrew_round (c : Nat) (f : Crew → Crew) : (s.modCrew c f).round = s.round := rfl
@[simp] theorem State.modCrew_uid (c : Nat) (f : Crew → Crew) : (s.modCrew c f).uid = s.uid := rfl
@[simp] theorem State.modCrew_fresh (c : Nat) (f : Crew → Crew) : (s.modCrew c f).fresh = s.fresh := rfl
@[simp] theorem State.modCrew_mem (c : Nat) (f : Crew → Crew) : (s.modCrew c f).mem = s.mem := rfl
@[simp] theorem State.modCrew_heap (c : Nat) (f : Crew → Crew) : (s.modCrew c f).heap = s.heap := rfl
@[simp] theorem State.modCrew_flow (c : Nat) (f : Crew → Crew) : (s.modCrew c f).flow = s.flow := rfl
@[simp] theorem State.modCrew_paths (c : Nat) (f : Crew → Crew) : (s.modCrew c f).paths = s.paths := rfl
@[simp] theorem State.modCrew_knots (c : Nat) (f : Crew → Crew) : (s.modCrew c f).knots = s.knots := rfl
@[simp] theorem State.modCrew_crews (c : Nat) (f : Crew → Crew) : (s.modCrew c f).crews = spModify c f s.crews := rfl
@[simp] theorem State.modCrew_launches (c : Nat) (f : Crew → Crew) : (s.modCrew c f).launches = s.launches := rfl
@[simp] theorem State.modCrew_stks (c : Nat) (f : Crew → Crew) : (s.modCrew c f).stks = s.stks := rfl
@[simp] theorem State.modCrew_modules (c : Nat) (f : Crew → Crew) : (s.modCrew c f).modules = s.modules := rfl
@[simp] theorem State.modCrew_host (c : Nat) (f : Crew → Crew) : (s.modCrew c f).host = s.host := rfl

@[simp] theorem State.modEngine_strap (c : Nat) (f : Engine → Engine) : (s.modEngine c f).strap = s.strap := rfl
@[simp] theorem State.modEngine_cur (c : Nat) (f : Engine → Engine) : (s.modEngine c f).cur = s.cur := rfl
@[simp] theorem State.modEngine_agenda (c : Nat) (f : Engine → Engine) : (s.modEngine c f).agenda = s.agenda := rfl
@[simp] theorem State.modEngine_late (c : Nat) (f : Engine → Engine) : (s.modEngine c f).late = s.late := rfl
@[simp] theorem State.modEngine_picks (c : Nat) (f : Engine → Engine) : (s.modEngine c f).picks = s.picks := rfl
@[simp] theorem State.modEngine_serial (c : Nat) (f : Engine → Engine) : (s.modEngine c f).serial = s.serial := rfl
@[simp] theorem State.modEngine_round (c : Nat) (f : Engine → Engine) : (s.modEngine c f).round = s.round := rfl
@[simp] theorem State.modEngine_uid (c : Nat) (f : Engine → Engine) : (s.modEngine c f).uid = s.uid := rfl
@[simp] theorem State.modEngine_fresh (c : Nat) (f : Engine → Engine) : (s.modEngine c f).fresh = s.fresh := rfl
@[simp] theorem State.modEngine_mem (c : Nat) (f : Engine → Engine) : (s.modEngine c f).mem = s.mem := rfl
@[simp] theorem State.modEngine_heap (c : Nat) (f : Engine → Engine) : (s.modEngine c f).heap = s.heap := rfl
@[simp] theorem State.modEngine_flow (c : Nat) (f : Engine → Engine) : (s.modEngine c f).flow = s.flow := rfl
@[simp] theorem State.modEngine_paths (c : Nat) (f : Engine → Engine) : (s.modEngine c f).paths = s.paths := rfl
@[simp] theorem State.modEngine_knots (c : Nat) (f : Engine → Engine) : (s.modEngine c f).knots = s.knots := rfl
@[simp] theorem State.modEngine_launches (c : Nat) (f : Engine → Engine) : (s.modEngine c f).launches = s.launches := rfl
@[simp] theorem State.modEngine_stks (c : Nat) (f : Engine → Engine) : (s.modEngine c f).stks = s.stks := rfl
@[simp] theorem State.modEngine_modules (c : Nat) (f : Engine → Engine) : (s.modEngine c f).modules = s.modules := rfl
@[simp] theorem State.modEngine_host (c : Nat) (f : Engine → Engine) : (s.modEngine c f).host = s.host := rfl

@[simp] theorem State.modMover_strap (c : Nat) (f : Mover → Mover) : (s.modMover c f).strap = s.strap := rfl
@[simp] theorem State.modMover_cur (c : Nat) (f : Mover → Mover) : (s.modMover c f).cur = s.cur := rfl
@[simp] theorem State.modMover_agenda (c : Nat) (f : Mover → Mover) : (s.modMover c f).agenda = s.agenda := rfl
@[simp] theorem State.modMover_late (c : Nat) (f : Mover → Mover) : (s.modMover c f).late = s.late := rfl
@[simp] theorem State.modMover_picks (c : Nat) (f : Mover → Mover) : (s.modMover c f).picks = s.picks := rfl
@[simp] theorem State.modMover_serial (c : Nat) (f : Mover → Mover) : (s.modMover c f).serial = s.serial := rfl
@[simp] theorem State.modMover_round (c : Nat) (f : Mover → Mover) : (s.modMover c f).round = s.round := rfl
@[simp] theorem State.modMover_uid (c : Nat) (f : Mover → Mover) : (s.modMover c f).uid = s.uid := rfl
@[simp] theorem State.modMover_fresh (c : Nat) (f : Mover → Mover) : (s.modMover c f).fresh = s.fresh := rfl
@[simp] theorem State.modMover_mem (c : Nat) (f : Mover → Mover) : (s.modMover c f).mem = s.mem := rfl
@[simp] theorem State.modMover_heap (c : Nat) (f : Mover → Mover) : (s.modMover c f).heap = s.heap := rfl
@[simp] theorem State.modMover_flow (c : Nat) (f : Mover → Mover) : (s.modMover c f).flow = s.flow := rfl
@[simp] theorem State.modMover_paths (c : Nat) (f : Mover → Mover) : (s.modMover c f).paths = s.paths := rfl
@[simp] theorem State.modMover_knots (c : Nat) (f : Mover → Mover) : (s.modMover c f).knots = s.knots := rfl
@[simp] theorem State.modMover_launches (c : Nat) (f : Mover → Mover) : (s.modMover c f).launches = s.launches := rfl
@[simp] theorem State.modMover_stks (c : Nat) (f : Mover → Mover) : (s.modMover c f).stks = s.stks := rfl
@[simp] theorem State.modMover_modules (c : Nat) (f : Mover → Mover) : (s.modMover c f).modules = s.modules := rfl
@[simp] theorem State.modMover_host (c : Nat) (f : Mover → Mover) : (s.modMover c f).host = s.host := rfl

@[simp] theorem State.modLaunch_strap (l : Nat) (f : Launch → Launch) : (s.modLaunch l f).strap = s.strap := rfl
@[simp] theorem State.modLaunch_cur (l : Nat) (f : Launch → Launch) : (s.modLaunch l f).cur = s.cur := rfl
@[simp] theorem State.modLaunch_agenda (l : Nat) (f : Launch → Launch) : (s.modLaunch l f).agenda = s.agenda := rfl
@[simp] theorem State.modLaunch_late (l : Nat) (f : Launch → Launch) : (s.modLaunch l f).late = s.late := rfl
@[simp] theorem State.modLaunch_picks (l : Nat) (f : Launch → Launch) : (s.modLaunch l f).picks = s.picks := rfl
@[simp] theorem State.modLaunch_serial (l : Nat) (f : Launch → Launch) : (s.modLaunch l f).serial = s.serial := rfl
@[simp] theorem State.modLaunch_round (l : Nat) (f : Launch → Launch) : (s.modLaunch l f).round = s.round := rfl
@[simp] theorem State.modLaunch_uid (l : Nat) (f : Launch → Launch) : (s.modLaunch l f).uid = s.uid := rfl
@[simp] theorem State.modLaunch_fresh (l : Nat) (f : Launch → Launch) : (s.modLaunch l f).fresh = s.fresh := rfl
@[simp] theorem State.modLaunch_mem (l : Nat) (f : Launch → Launch) : (s.modLaunch l f).mem = s.mem := rfl
@[simp] theorem State.modLaunch_heap (l : Nat) (f : Launch → Launch) : (s.modLaunch l f).heap = s.heap := rfl
@[simp] theorem State.modLaunch_flow (l : Nat) (f : Launch → Launch) : (s.modLaunch l f).flow = s.flow := rfl
@[simp] theorem State.modLaunch_paths (l : Nat) (f : Launch → Launch) : (s.modLaunch l f).paths = s.paths := rfl
@[simp] theorem State.modLaunch_knots (l : Nat) (f : Launch → Launch) : (s.modLaunch l f).knots = s.knots := rfl
@[simp] theorem State.modLaunch_crews (l : Nat) (f : Launch → Launch) : (s.modLaunch l f).crews = s.crews := rfl
@[simp] theorem State.modLaunch_launches (l : Nat) (f : Launch → Launch) : (s.modLaunch l f).launches = spModify l f s.launches := rfl
@[simp] theorem State.modLaunch_stks (l : Nat) (f : Launch → Launch) : (s.modLaunch l f).stks = s.stks := rfl
@[simp] theorem State.modLaunch_modules (l : Nat) (f : Launch → Launch) : (s.modLaunch l f).modules = s.modules := rfl
@[simp] theorem State.modLaunch_host (l : Nat) (f : Launch → Launch) : (s.modLaunch l f).host = s.host := rfl

@[simp] theorem State.modMem_strap (f : MemSt → MemSt) : (s.modMem f).strap = s.strap := rfl
@[simp] theorem State.modMem_cur (f : MemSt → MemSt) : (s.modMem f).cur = s.cur := rfl
@[simp] theorem State.modMem_agenda (f : MemSt → MemSt) : (s.modMem f).agenda = s.agenda := rfl
@[simp] theorem State.modMem_late (f : MemSt → MemSt) : (s.modMem f).late = s.late := rfl
@[simp] theorem State.modMem_picks (f : MemSt → MemSt) : (s.modMem f).picks = s.picks := rfl
@[simp] theorem State.modMem_serial (f : MemSt → MemSt) : (s.modMem f).serial = s.serial := rfl
@[simp] theorem State.modMem_round (f : MemSt → MemSt) : (s.modMem f).round = s.round := rfl
@[simp] theorem State.modMem_uid (f : MemSt → MemSt) : (s.modMem f).uid = s.uid := rfl
@[simp] theorem State.modMem_fresh (f : MemSt → MemSt) : (s.modMem f).fresh = s.fresh := rfl
@[simp] theorem State.modMem_mem (f : MemSt → MemSt) : (s.modMem f).mem = f s.mem := rfl
@[simp] theorem State.modMem_heap (f : MemSt → MemSt) : (s.modMem f).heap = s.heap := rfl
@[simp] theorem State.modMem_flow (f : MemSt → MemSt) : (s.modMem f).flow = s.flow := rfl
@[simp] theorem State.modMem_paths (f : MemSt → MemSt) : (s.modMem f).paths = s.paths := rfl
@[simp] theorem State.modMem_knots (f : MemSt → MemSt) : (s.modMem f).knots = s.knots := rfl
@[simp] theorem State.modMem_crews (f : MemSt → MemSt) : (s.modMem f).crews = s.crews := rfl
@[simp] theorem State.modMem_launches (f : MemSt → MemSt) : (s.modMem f).launches = s.launches := rfl
@[simp] theorem State.modMem_stks (f : MemSt → MemSt) : (s.modMem f).stks = s.stks := rfl
@[simp] theorem State.modMem_modules (f : MemSt → MemSt) : (s.modMem f).modules = s.modules := rfl
@[simp] theorem State.modMem_host (f : MemSt → MemSt) : (s.modMem f).host = s.host := rfl

@[simp] theorem State.modFlow_strap (f : FlowSt → FlowSt) : (s.modFlow f).strap = s.strap := rfl
@[simp] theorem State.modFlow_cur (f : FlowSt → FlowSt) : (s.modFlow f).cur = s.cur := rfl
@[simp] theorem State.modFlow_agenda (f : FlowSt → FlowSt) : (s.modFlow f).agenda = s.agenda := rfl
@[simp] theorem State.modFlow_late (f : FlowSt → FlowSt) : (s.modFlow f).late = s.late := rfl
@[simp] theorem State.modFlow_picks (f : FlowSt → FlowSt) : (s.modFlow f).picks = s.picks := rfl
@[simp] theorem State.modFlow_serial (f : FlowSt → FlowSt) : (s.modFlow f).serial = s.serial := rfl
@[simp] theorem State.modFlow_round (f : FlowSt → FlowSt) : (s.modFlow f).round = s.round := rfl
@[simp] theorem State.modFlow_uid (f : FlowSt → FlowSt) : (s.modFlow f).uid = s.uid := rfl
@[simp] theorem State.modFlow_fresh (f : FlowSt → FlowSt) : (s.modFlow f).fresh = s.fresh := rfl
@[simp] theorem State.modFlow_mem (f : FlowSt → FlowSt) : (s.modFlow f).mem = s.mem := rfl
@[simp] theorem State.modFlow_heap (f : FlowSt → FlowSt) : (s.modFlow f).heap = s.heap := rfl
@[simp] theorem State.modFlow_flow (f : FlowSt → FlowSt) : (s.modFlow f).flow = f s.flow := rfl
@[simp] theorem State.modFlow_paths (f : FlowSt → FlowSt) : (s.modFlow f).paths = s.paths := rfl
@[simp] theorem State.modFlow_knots (f : FlowSt → FlowSt) : (s.modFlow f).knots = s.knots := rfl
@[simp] theorem State.modFlow_crews (f : FlowSt → FlowSt) : (s.modFlow f).crews = s.crews := rfl
@[simp] theorem State.modFlow_launches (f : FlowSt → FlowSt) : (s.modFlow f).launches = s.launches := rfl
@[simp] theorem State.modFlow_stks (f : FlowSt → FlowSt) : (s.modFlow f).stks = s.stks := rfl
@[simp] theorem State.modFlow_modules (f : FlowSt → FlowSt) : (s.modFlow f).modules = s.modules := rfl
@[simp] theorem State.modFlow_host (f : FlowSt → FlowSt) : (s.modFlow f).host = s.host := rfl

@[simp] theorem State.setStk_strap (h : Nat) (f : StackSt → StackSt) : (s.setStk h f).strap = s.strap := rfl
@[simp] theorem State.setStk_cur (h : Nat) (f : StackSt → StackSt) : (s.setStk h f).cur = s.cur := rfl
@[simp] theorem State.setStk_agenda (h : Nat) (f : StackSt → StackSt) : (s.setStk h f).agenda = s.agenda := rfl
@[simp] theorem State.setStk_late (h : Nat) (f : StackSt → StackSt) : (s.setStk h f).late = s.late := rfl
@[simp] theorem State.setStk_picks (h : Nat) (f : StackSt → StackSt) : (s.setStk h f).picks = s.picks := rfl
@[simp] theorem State.setStk_serial (h : Nat) (f : StackSt → StackSt) : (s.setStk h f).serial = s.serial := rfl
@[simp] theorem State.setStk_round (h : Nat) (f : StackSt → StackSt) : (s.setStk h f).round = s.round := rfl
@[simp] theorem State.setStk_uid (h : Nat) (f : StackSt → StackSt) : (s.setStk h f).uid = s.uid := rfl
@[simp] theorem State.setStk_fresh (h : Nat) (f : StackSt → StackSt) : (s.setStk h f).fresh = s.fresh := rfl
@[simp] theorem State.setStk_mem (h : Nat) (f : StackSt → StackSt) : (s.setStk h f).mem = s.mem := rfl
@[simp] theorem State.setStk_heap (h : Nat) (f : StackSt → StackSt) : (s.setStk h f).heap = s.heap := rfl
@[simp] theorem State.setStk_flow (h : Nat) (f : StackSt → StackSt) : (s.setStk h f).flow = s.flow := rfl
@[simp] theorem State.setStk_paths (h : Nat) (f : StackSt → StackSt) : (s.setStk h f).paths = s.paths := rfl
@[simp] theorem State.setStk_knots (h : Nat) (f : StackSt → StackSt) : (s.setStk h f).knots = s.knots := rfl
@[simp] theorem State.setStk_crews (h : Nat) (f : StackSt → StackSt) : (s.setStk h f).crews = s.crews := rfl
@[simp] theorem State.setStk_launches (h : Nat) (f : StackSt → StackSt) : (s.setStk h f).launches = s.launches := rfl
@[simp] theorem State.setStk_modules (h : Nat) (f : StackSt → StackSt) : (s.setStk h f).modules = s.modules := rfl
@[simp] theorem State.setStk_host (h : Nat) (f : StackSt → StackSt) : (s.setStk h f).host = s.host := rfl

@[simp] theorem State.setMod_strap (m : Nat) (f : ModuleSt → ModuleSt) : (s.setMod m f).strap = s.strap := rfl
@[simp] theorem State.setMod_cur (m : Nat) (f : ModuleSt → ModuleSt) : (s.setMod m f).cur = s.cur := rfl
@[simp] theorem State.setMod_agenda (m : Nat) (f : ModuleSt → ModuleSt) : (s.setMod m f).agenda = s.agenda := rfl
@[simp] theorem State.setMod_late (m : Nat) (f : ModuleSt → ModuleSt) : (s.setMod m f).late = s.late := rfl
@[simp] theorem State.setMod_picks (m : Nat) (f : ModuleSt → ModuleSt) : (s.setMod m f).picks = s.picks := rfl
@[simp] theorem State.setMod_serial (m : Nat) (f : ModuleSt → ModuleSt) : (s.setMod m f).serial = s.serial := rfl
@[simp] theorem State.setMod_round (m : Nat) (f : ModuleSt → ModuleSt) : (s.setMod m f).round = s.round := rfl
@[simp] theorem State.setMod_uid (m : Nat) (f : ModuleSt → ModuleSt) : (s.setMod m f).uid = s.uid := rfl
@[simp] theorem State.setMod_fresh (m : Nat) (f : ModuleSt → ModuleSt) : (s.setMod m f).fresh = s.fresh := rfl
@[simp] theorem State.setMod_mem (m : Nat) (f : ModuleSt → ModuleSt) : (s.setMod m f).mem = s.mem := rfl
@[simp] theorem State.setMod_heap (m : Nat) (f : ModuleSt → ModuleSt) : (s.setMod m f).heap = s.heap := rfl
@[simp] theorem State.setMod_flow (m : Nat) (f : ModuleSt → ModuleSt) : (s.setMod m f).flow = s.flow := rfl
@[simp] theorem State.setMod_paths (m : Nat) (f : ModuleSt → ModuleSt) : (s.setMod m f).paths = s.paths := rfl
@[simp] theorem State.setMod_knots (m : Nat) (f : ModuleSt → ModuleSt) : (s.setMod m f).knots = s.knots := rfl
@[simp] theorem State.setMod_crews (m : Nat) (f : ModuleSt → ModuleSt) : (s.setMod m f).crews = s.crews := rfl
@[simp] theorem State.setMod_launches (m : Nat) (f : ModuleSt → ModuleSt) : (s.setMod m f).launches = s.launches := rfl
@[simp] theorem State.setMod_stks (m : Nat) (f : ModuleSt → ModuleSt) : (s.setMod m f).stks = s.stks := rfl
@[simp] theorem State.setMod_host (m : Nat) (f : ModuleSt → ModuleSt) : (s.setMod m f).host = s.host := rfl

@[simp] theorem State.retire_strap (u : Nat) : (s.retire u).strap = s.strap := rfl
@[simp] theorem State.retire_cur (u : Nat) : (s.retire u).cur = s.cur := rfl
@[simp] theorem State.retire_agenda (u : Nat) : (s.retire u).agenda = s.agenda := rfl
@[simp] theorem State.retire_late (u : Nat) : (s.retire u).late = s.late := rfl
@[simp] theorem State.retire_picks (u : Nat) : (s.retire u).picks = s.picks := rfl
@[simp] theorem State.retire_serial (u : Nat) : (s.retire u).serial = s.serial + 1 := rfl
@[simp] theorem State.retire_round (u : Nat) : (s.retire u).round = s.round := rfl
@[simp] theorem State.retire_uid (u : Nat) : (s.retire u).uid = s.uid := rfl
@[simp] theorem State.retire_fresh (u : Nat) : (s.retire u).fresh = s.fresh := rfl
@[simp] theorem State.retire_mem (u : Nat) : (s.retire u).mem = s.mem := rfl
@[simp] theorem State.retire_heap (u : Nat) : (s.retire u).heap = s.heap := rfl
@[simp] theorem State.retire_flow (u : Nat) : (s.retire u).flow = s.flow := rfl
@[simp] theorem State.retire_knots (u : Nat) : (s.retire u).knots = s.knots := rfl
@[simp] theorem State.retire_crews (u : Nat) : (s.retire u).crews = s.crews := rfl
@[simp] theorem State.retire_launches (u : Nat) : (s.retire u).launches = s.launches := rfl
@[simp] theorem State.retire_stks (u : Nat) : (s.retire u).stks = s.stks := rfl
@[simp] theorem State.retire_modules (u : Nat) : (s.retire u).modules = s.modules := rfl
@[simp] theorem State.retire_host (u : Nat) : (s.retire u).host = s.host := rfl

@[simp] theorem State.jump_strap (u : Nat) (pc : Pc) (fn : Nat) : (s.jump u pc fn).strap = s.strap := rfl
@[simp] theorem State.jump_cur (u : Nat) (pc : Pc) (fn : Nat) : (s.jump u pc fn).cur = s.cur := rfl
@[simp] theorem State.jump_agenda (u : Nat) (pc : Pc) (fn : Nat) : (s.jump u pc fn).agenda = s.agenda := rfl
@[simp] theorem State.jump_late (u : Nat) (pc : Pc) (fn : Nat) : (s.jump u pc fn).late = s.late := rfl
@[simp] theorem State.jump_picks (u : Nat) (pc : Pc) (fn : Nat) : (s.jump u pc fn).picks = s.picks := rfl
@[simp] theorem State.jump_serial (u : Nat) (pc : Pc) (fn : Nat) : (s.jump u pc fn).serial = s.serial + 1 := rfl
@[simp] theorem State.jump_round (u : Nat) (pc : Pc) (fn : Nat) : (s.jump u pc fn).round = s.round := rfl
@[simp] theorem State.jump_uid (u : Nat) (pc : Pc) (fn : Nat) : (s.jump u pc fn).uid = s.uid := rfl
@[simp] theorem State.jump_fresh (u : Nat) (pc : Pc) (fn : Nat) : (s.jump u pc fn).fresh = s.fresh := rfl
@[simp] theorem State.jump_mem (u : Nat) (pc : Pc) (fn : Nat) : (s.jump u pc fn).mem = s.mem := rfl
@[simp] theorem State.jump_heap (u : Nat) (pc : Pc) (fn : Nat) : (s.jump u pc fn).heap = s.heap := rfl
@[simp] theorem State.jump_flow (u : Nat) (pc : Pc) (fn : Nat) : (s.jump u pc fn).flow = s.flow := rfl
@[simp] theorem State.jump_knots (u : Nat) (pc : Pc) (fn : Nat) : (s.jump u pc fn).knots = s.knots := rfl
@[simp] theorem State.jump_crews (u : Nat) (pc : Pc) (fn : Nat) : (s.jump u pc fn).crews = s.crews := rfl
@[simp] theorem State.jump_launches (u : Nat) (pc : Pc) (fn : Nat) : (s.jump u pc fn).launches = s.launches := rfl
@[simp] theorem State.jump_stks (u : Nat) (pc : Pc) (fn : Nat) : (s.jump u pc fn).stks = s.stks := rfl
@[simp] theorem State.jump_modules (u : Nat) (pc : Pc) (fn : Nat) : (s.jump u pc fn).modules = s.modules := rfl
@[simp] theorem State.jump_host (u : Nat) (pc : Pc) (fn : Nat) : (s.jump u pc fn).host = s.host := rfl

@[simp] theorem State.release_strap (u : Nat) : (s.release u).strap = s.strap := rfl
@[simp] theorem State.release_cur (u : Nat) : (s.release u).cur = s.cur := rfl
@[simp] theorem State.release_agenda (u : Nat) : (s.release u).agenda = s.agenda := rfl
@[simp] theorem State.release_late (u : Nat) : (s.release u).late = s.late := rfl
@[simp] theorem State.release_picks (u : Nat) : (s.release u).picks = s.picks := rfl
@[simp] theorem State.release_serial (u : Nat) : (s.release u).serial = s.serial + 1 := rfl
@[simp] theorem State.release_round (u : Nat) : (s.release u).round = s.round := rfl
@[simp] theorem State.release_uid (u : Nat) : (s.release u).uid = s.uid := rfl
@[simp] theorem State.release_fresh (u : Nat) : (s.release u).fresh = s.fresh := rfl
@[simp] theorem State.release_mem (u : Nat) : (s.release u).mem = s.mem := rfl
@[simp] theorem State.release_heap (u : Nat) : (s.release u).heap = s.heap := rfl
@[simp] theorem State.release_flow (u : Nat) : (s.release u).flow = s.flow := rfl
@[simp] theorem State.release_knots (u : Nat) : (s.release u).knots = s.knots := rfl
@[simp] theorem State.release_crews (u : Nat) : (s.release u).crews = s.crews := rfl
@[simp] theorem State.release_launches (u : Nat) : (s.release u).launches = s.launches := rfl
@[simp] theorem State.release_stks (u : Nat) : (s.release u).stks = s.stks := rfl
@[simp] theorem State.release_modules (u : Nat) : (s.release u).modules = s.modules := rfl
@[simp] theorem State.release_host (u : Nat) : (s.release u).host = s.host := rfl

@[simp] theorem State.block_strap (u : Nat) (w : Wait) : (s.block u w).strap = s.strap := rfl
@[simp] theorem State.block_cur (u : Nat) (w : Wait) : (s.block u w).cur = s.cur := rfl
@[simp] theorem State.block_agenda (u : Nat) (w : Wait) : (s.block u w).agenda = s.agenda := rfl
@[simp] theorem State.block_late (u : Nat) (w : Wait) : (s.block u w).late = s.late := rfl
@[simp] theorem State.block_picks (u : Nat) (w : Wait) : (s.block u w).picks = s.picks := rfl
@[simp] theorem State.block_serial (u : Nat) (w : Wait) : (s.block u w).serial = s.serial := rfl
@[simp] theorem State.block_round (u : Nat) (w : Wait) : (s.block u w).round = s.round := rfl
@[simp] theorem State.block_uid (u : Nat) (w : Wait) : (s.block u w).uid = s.uid := rfl
@[simp] theorem State.block_fresh (u : Nat) (w : Wait) : (s.block u w).fresh = s.fresh := rfl
@[simp] theorem State.block_mem (u : Nat) (w : Wait) : (s.block u w).mem = s.mem := rfl
@[simp] theorem State.block_heap (u : Nat) (w : Wait) : (s.block u w).heap = s.heap := rfl
@[simp] theorem State.block_flow (u : Nat) (w : Wait) : (s.block u w).flow = s.flow := rfl
@[simp] theorem State.block_knots (u : Nat) (w : Wait) : (s.block u w).knots = s.knots := rfl
@[simp] theorem State.block_crews (u : Nat) (w : Wait) : (s.block u w).crews = s.crews := rfl
@[simp] theorem State.block_launches (u : Nat) (w : Wait) : (s.block u w).launches = s.launches := rfl
@[simp] theorem State.block_stks (u : Nat) (w : Wait) : (s.block u w).stks = s.stks := rfl
@[simp] theorem State.block_modules (u : Nat) (w : Wait) : (s.block u w).modules = s.modules := rfl
@[simp] theorem State.block_host (u : Nat) (w : Wait) : (s.block u w).host = s.host := rfl

@[simp] theorem State.writeScal_strap (u n : Nat) (v : DWord) : (s.writeScal u n v).strap = s.strap := rfl
@[simp] theorem State.writeScal_cur (u n : Nat) (v : DWord) : (s.writeScal u n v).cur = s.cur := rfl
@[simp] theorem State.writeScal_agenda (u n : Nat) (v : DWord) : (s.writeScal u n v).agenda = s.agenda := rfl
@[simp] theorem State.writeScal_late (u n : Nat) (v : DWord) : (s.writeScal u n v).late = s.late := rfl
@[simp] theorem State.writeScal_picks (u n : Nat) (v : DWord) : (s.writeScal u n v).picks = s.picks := rfl
@[simp] theorem State.writeScal_serial (u n : Nat) (v : DWord) : (s.writeScal u n v).serial = s.serial := rfl
@[simp] theorem State.writeScal_round (u n : Nat) (v : DWord) : (s.writeScal u n v).round = s.round := rfl
@[simp] theorem State.writeScal_uid (u n : Nat) (v : DWord) : (s.writeScal u n v).uid = s.uid := rfl
@[simp] theorem State.writeScal_fresh (u n : Nat) (v : DWord) : (s.writeScal u n v).fresh = s.fresh := rfl
@[simp] theorem State.writeScal_mem (u n : Nat) (v : DWord) : (s.writeScal u n v).mem = s.mem := rfl
@[simp] theorem State.writeScal_heap (u n : Nat) (v : DWord) : (s.writeScal u n v).heap = s.heap := rfl
@[simp] theorem State.writeScal_flow (u n : Nat) (v : DWord) : (s.writeScal u n v).flow = s.flow := rfl
@[simp] theorem State.writeScal_knots (u n : Nat) (v : DWord) : (s.writeScal u n v).knots = s.knots := rfl
@[simp] theorem State.writeScal_crews (u n : Nat) (v : DWord) : (s.writeScal u n v).crews = s.crews := rfl
@[simp] theorem State.writeScal_launches (u n : Nat) (v : DWord) : (s.writeScal u n v).launches = s.launches := rfl
@[simp] theorem State.writeScal_stks (u n : Nat) (v : DWord) : (s.writeScal u n v).stks = s.stks := rfl
@[simp] theorem State.writeScal_modules (u n : Nat) (v : DWord) : (s.writeScal u n v).modules = s.modules := rfl
@[simp] theorem State.writeScal_host (u n : Nat) (v : DWord) : (s.writeScal u n v).host = s.host := rfl

@[simp] theorem State.addFlags_strap (u : Nat) (f : FpFlags) : (s.addFlags u f).strap = s.strap := rfl
@[simp] theorem State.addFlags_cur (u : Nat) (f : FpFlags) : (s.addFlags u f).cur = s.cur := rfl
@[simp] theorem State.addFlags_agenda (u : Nat) (f : FpFlags) : (s.addFlags u f).agenda = s.agenda := rfl
@[simp] theorem State.addFlags_late (u : Nat) (f : FpFlags) : (s.addFlags u f).late = s.late := rfl
@[simp] theorem State.addFlags_picks (u : Nat) (f : FpFlags) : (s.addFlags u f).picks = s.picks := rfl
@[simp] theorem State.addFlags_serial (u : Nat) (f : FpFlags) : (s.addFlags u f).serial = s.serial := rfl
@[simp] theorem State.addFlags_round (u : Nat) (f : FpFlags) : (s.addFlags u f).round = s.round := rfl
@[simp] theorem State.addFlags_uid (u : Nat) (f : FpFlags) : (s.addFlags u f).uid = s.uid := rfl
@[simp] theorem State.addFlags_fresh (u : Nat) (f : FpFlags) : (s.addFlags u f).fresh = s.fresh := rfl
@[simp] theorem State.addFlags_mem (u : Nat) (f : FpFlags) : (s.addFlags u f).mem = s.mem := rfl
@[simp] theorem State.addFlags_heap (u : Nat) (f : FpFlags) : (s.addFlags u f).heap = s.heap := rfl
@[simp] theorem State.addFlags_flow (u : Nat) (f : FpFlags) : (s.addFlags u f).flow = s.flow := rfl
@[simp] theorem State.addFlags_knots (u : Nat) (f : FpFlags) : (s.addFlags u f).knots = s.knots := rfl
@[simp] theorem State.addFlags_crews (u : Nat) (f : FpFlags) : (s.addFlags u f).crews = s.crews := rfl
@[simp] theorem State.addFlags_launches (u : Nat) (f : FpFlags) : (s.addFlags u f).launches = s.launches := rfl
@[simp] theorem State.addFlags_stks (u : Nat) (f : FpFlags) : (s.addFlags u f).stks = s.stks := rfl
@[simp] theorem State.addFlags_modules (u : Nat) (f : FpFlags) : (s.addFlags u f).modules = s.modules := rfl
@[simp] theorem State.addFlags_host (u : Nat) (f : FpFlags) : (s.addFlags u f).host = s.host := rfl

@[simp] theorem State.moveOn_strap (c : Nat) : (s.moveOn c).strap = s.strap := rfl
@[simp] theorem State.moveOn_cur (c : Nat) : (s.moveOn c).cur = s.cur := rfl
@[simp] theorem State.moveOn_agenda (c : Nat) : (s.moveOn c).agenda = s.agenda := rfl
@[simp] theorem State.moveOn_late (c : Nat) : (s.moveOn c).late = s.late := rfl
@[simp] theorem State.moveOn_picks (c : Nat) : (s.moveOn c).picks = s.picks := rfl
@[simp] theorem State.moveOn_round (c : Nat) : (s.moveOn c).round = s.round := rfl
@[simp] theorem State.moveOn_uid (c : Nat) : (s.moveOn c).uid = s.uid := rfl
@[simp] theorem State.moveOn_fresh (c : Nat) : (s.moveOn c).fresh = s.fresh := rfl
@[simp] theorem State.moveOn_mem (c : Nat) : (s.moveOn c).mem = s.mem := rfl
@[simp] theorem State.moveOn_heap (c : Nat) : (s.moveOn c).heap = s.heap := rfl
@[simp] theorem State.moveOn_flow (c : Nat) : (s.moveOn c).flow = s.flow := rfl
@[simp] theorem State.moveOn_paths (c : Nat) : (s.moveOn c).paths = s.paths := rfl
@[simp] theorem State.moveOn_knots (c : Nat) : (s.moveOn c).knots = s.knots := rfl
@[simp] theorem State.moveOn_launches (c : Nat) : (s.moveOn c).launches = s.launches := rfl
@[simp] theorem State.moveOn_stks (c : Nat) : (s.moveOn c).stks = s.stks := rfl
@[simp] theorem State.moveOn_modules (c : Nat) : (s.moveOn c).modules = s.modules := rfl
@[simp] theorem State.moveOn_host (c : Nat) : (s.moveOn c).host = s.host := rfl

@[simp] theorem State.moveTo_strap (c : Nat) (pc : Pc) (fn : Nat) : (s.moveTo c pc fn).strap = s.strap := rfl
@[simp] theorem State.moveTo_cur (c : Nat) (pc : Pc) (fn : Nat) : (s.moveTo c pc fn).cur = s.cur := rfl
@[simp] theorem State.moveTo_agenda (c : Nat) (pc : Pc) (fn : Nat) : (s.moveTo c pc fn).agenda = s.agenda := rfl
@[simp] theorem State.moveTo_late (c : Nat) (pc : Pc) (fn : Nat) : (s.moveTo c pc fn).late = s.late := rfl
@[simp] theorem State.moveTo_picks (c : Nat) (pc : Pc) (fn : Nat) : (s.moveTo c pc fn).picks = s.picks := rfl
@[simp] theorem State.moveTo_round (c : Nat) (pc : Pc) (fn : Nat) : (s.moveTo c pc fn).round = s.round := rfl
@[simp] theorem State.moveTo_uid (c : Nat) (pc : Pc) (fn : Nat) : (s.moveTo c pc fn).uid = s.uid := rfl
@[simp] theorem State.moveTo_fresh (c : Nat) (pc : Pc) (fn : Nat) : (s.moveTo c pc fn).fresh = s.fresh := rfl
@[simp] theorem State.moveTo_mem (c : Nat) (pc : Pc) (fn : Nat) : (s.moveTo c pc fn).mem = s.mem := rfl
@[simp] theorem State.moveTo_heap (c : Nat) (pc : Pc) (fn : Nat) : (s.moveTo c pc fn).heap = s.heap := rfl
@[simp] theorem State.moveTo_flow (c : Nat) (pc : Pc) (fn : Nat) : (s.moveTo c pc fn).flow = s.flow := rfl
@[simp] theorem State.moveTo_paths (c : Nat) (pc : Pc) (fn : Nat) : (s.moveTo c pc fn).paths = s.paths := rfl
@[simp] theorem State.moveTo_knots (c : Nat) (pc : Pc) (fn : Nat) : (s.moveTo c pc fn).knots = s.knots := rfl
@[simp] theorem State.moveTo_launches (c : Nat) (pc : Pc) (fn : Nat) : (s.moveTo c pc fn).launches = s.launches := rfl
@[simp] theorem State.moveTo_stks (c : Nat) (pc : Pc) (fn : Nat) : (s.moveTo c pc fn).stks = s.stks := rfl
@[simp] theorem State.moveTo_modules (c : Nat) (pc : Pc) (fn : Nat) : (s.moveTo c pc fn).modules = s.modules := rfl
@[simp] theorem State.moveTo_host (c : Nat) (pc : Pc) (fn : Nat) : (s.moveTo c pc fn).host = s.host := rfl

@[simp] theorem State.newId_snd_strap : s.newId.2.strap = s.strap := rfl
@[simp] theorem State.newId_snd_cur : s.newId.2.cur = s.cur := rfl
@[simp] theorem State.newId_snd_agenda : s.newId.2.agenda = s.agenda := rfl
@[simp] theorem State.newId_snd_late : s.newId.2.late = s.late := rfl
@[simp] theorem State.newId_snd_picks : s.newId.2.picks = s.picks := rfl
@[simp] theorem State.newId_snd_serial : s.newId.2.serial = s.serial := rfl
@[simp] theorem State.newId_snd_round : s.newId.2.round = s.round := rfl
@[simp] theorem State.newId_snd_uid : s.newId.2.uid = s.uid + 1 := rfl
@[simp] theorem State.newId_snd_fresh : s.newId.2.fresh = s.fresh := rfl
@[simp] theorem State.newId_snd_mem : s.newId.2.mem = s.mem := rfl
@[simp] theorem State.newId_snd_heap : s.newId.2.heap = s.heap := rfl
@[simp] theorem State.newId_snd_flow : s.newId.2.flow = s.flow := rfl
@[simp] theorem State.newId_snd_paths : s.newId.2.paths = s.paths := rfl
@[simp] theorem State.newId_snd_knots : s.newId.2.knots = s.knots := rfl
@[simp] theorem State.newId_snd_crews : s.newId.2.crews = s.crews := rfl
@[simp] theorem State.newId_snd_launches : s.newId.2.launches = s.launches := rfl
@[simp] theorem State.newId_snd_stks : s.newId.2.stks = s.stks := rfl
@[simp] theorem State.newId_snd_modules : s.newId.2.modules = s.modules := rfl
@[simp] theorem State.newId_snd_host : s.newId.2.host = s.host := rfl

end Sys2Proof.Machine
end

