-- ==== Sys2Proof/Laws/Regs.lean ====
section
/-! SUPPORT. What every operation over paths, knots and registers does: the path it changes, what that path then holds, and that
every other path and knot is as before. -/
namespace Sys2Proof.Machine

/-- `here` finds a path with its knot. -/
theorem State.here_eq_some {s : State} {u : Nat} {h : Here} :
    s.here u = some h ↔ h.u = u ∧ s.path? u = some h.p ∧ spFind h.p.knot s.knots = some h.k := by
  constructor
  · intro hs
    unfold State.here at hs
    split at hs
    · cases hs
    · split at hs
      · cases hs
      · cases hs; exact ⟨rfl, ‹_›, ‹_›⟩
  · obtain ⟨hu, hp, hk⟩ := h
    rintro ⟨rfl, h2, h3⟩
    simp only at h2 h3
    unfold State.here
    simp [h2, h3]

theorem State.here_u {s : State} {u : Nat} {h : Here} (hh : s.here u = some h) : h.u = u := (State.here_eq_some.mp hh).1

theorem State.path?_of_here {s : State} {u : Nat} {h : Here} (hh : s.here u = some h) : s.path? u = some h.p :=
  (State.here_eq_some.mp hh).2.1

theorem State.knot_of_here {s : State} {u : Nat} {h : Here} (hh : s.here u = some h) : spFind h.p.knot s.knots = some h.k :=
  (State.here_eq_some.mp hh).2.2

@[simp] theorem State.path?_bump (s : State) (u : Nat) : s.bump.path? u = s.path? u := rfl
@[simp] theorem State.here_bump (s : State) (u : Nat) : s.bump.here u = s.here u := rfl

@[simp] theorem State.path?_modPath_same (s : State) (u : Nat) (f : Path → Path) : (s.modPath u f).path? u = (s.path? u).map f := by
  simp [State.path?]

theorem State.path?_modPath_ne (s : State) {u v : Nat} (h : v ≠ u) (f : Path → Path) : (s.modPath u f).path? v = s.path? v := by
  simp [State.path?, spFind_spModify_ne h]

@[simp] theorem State.path?_modKnot (s : State) (u k : Nat) (f : Knot → Knot) : (s.modKnot k f).path? u = s.path? u := rfl

/-- A path changed in place, with its knot. -/
theorem State.here_modPath {s : State} {u : Nat} {h : Here} (hh : s.here u = some h) {f : Path → Path}
    (hk : (f h.p).knot = h.p.knot) : (s.modPath u f).here u = some { h with p := f h.p } := by
  have h3 := State.here_eq_some.mp hh
  refine State.here_eq_some.mpr ⟨h3.1, ?_, ?_⟩
  · simp [h3.2.1]
  · simpa [hk] using h3.2.2

/-- A knot changed in place, seen from its path. -/
theorem State.here_modKnot {s : State} {u : Nat} {h : Here} (hh : s.here u = some h) (f : Knot → Knot) :
    (s.modKnot h.p.knot f).here u = some { h with k := f h.k } := by
  have h3 := State.here_eq_some.mp hh
  refine State.here_eq_some.mpr ⟨h3.1, h3.2.1, ?_⟩
  simp [h3.2.2]

/-- The other lanes of a knot do not depend on the path itself. -/
theorem State.otherLanes_modPath (s : State) (k u : Nat) (f : Path → Path) : (s.modPath u f).otherLanes k u = s.otherLanes k u := by
  have key : ∀ m : Sparse Path, (spModify u f m).filter (fun e => e.2.knot == k && e.1 != u) =
      m.filter (fun e => e.2.knot == k && e.1 != u) := by
    intro m
    induction m with
    | nil => rfl
    | cons e m ih =>
      obtain ⟨j, w⟩ := e
      simp only [spModify]
      split
      · subst j; simp
      · simp [List.filter_cons, ih]
  simp [State.otherLanes, State.siblings, key]

@[simp] theorem State.otherLanes_modKnot (s : State) (k u j : Nat) (f : Knot → Knot) :
    (s.modKnot j f).otherLanes k u = s.otherLanes k u := rfl

/-- What a write of effective lanes leaves on the path: nothing without an effective lane; otherwise the register full with its new
lanes (R25). -/
theorem State.here_writeVec {s : State} {u : Nat} {h : Here} (hh : s.here u = some h) (r : Nat) (eff : Mask) (f : Nat → Word) :
    (s.writeVec u r eff f).here u = some (if eff = 0 then h else
      { h with
        p := h.p.mark { file := .vec, num := r } .full
        k := { h.k with vregs := spPut r (newLanes h.k.grant (h.k.vec r) (h.p.ctx.stale { file := .vec, num := r })
                (s.otherLanes h.p.knot u) eff f) h.k.vregs } }) := by
  unfold State.writeVec
  simp only [hh]
  split
  · simpa using hh
  · exact State.here_modPath (State.here_modKnot hh _) (by simp [Path.mark])

theorem State.otherLanes_writeVec (s : State) (u r : Nat) (eff : Mask) (f : Nat → Word) (k : Nat) :
    (s.writeVec u r eff f).otherLanes k u = s.otherLanes k u := by
  unfold State.writeVec
  split
  · rfl
  · split
    · rfl
    · rw [State.otherLanes_modPath, State.otherLanes_modKnot]

/-- What a write of a predicate leaves on the path (R25); p7 is never written. -/
theorem State.here_writePred {s : State} {u : Nat} {h : Here} (hh : s.here u = some h) (n : Nat) (eff val : Mask) :
    (s.writePred u n eff val).here u = some (if eff = 0 ∨ n = 7 then h else
      { h with
        p := h.p.mark { file := .pred, num := n } .full
        k := { h.k with
          preds :=
            spPut n ((val &&& eff) ||| (h.k.pred n &&&
              (if h.p.ctx.stale { file := .pred, num := n } then s.otherLanes h.p.knot u else BitVec.allOnes 1024) &&&
                ~~~eff)) h.k.preds } }) := by
  unfold State.writePred
  simp only [hh]
  by_cases hc : eff = 0 ∨ n = 7
  · have : (eff = 0 || n = 7 : Bool) = true := by simpa using hc
    rw [if_pos (by simpa using hc), if_pos hc, hh]
  · rw [if_neg (by simpa using hc), if_neg hc]
    exact State.here_modPath (State.here_modKnot hh _) (by simp [Path.mark])

/-- What a write of a scalar leaves on the path (R25, R167). -/
theorem State.here_writeScal {s : State} {u : Nat} {h : Here} (hh : s.here u = some h) (n : Nat) (v : DWord) :
    (s.writeScal u n v).here u =
      some { h with p := ({ h.p with ctx := h.p.ctx.setScal n v } : Path).mark { file := .scal, num := n } .full } :=
  State.here_modPath hh rfl

/-- What more FPSTAT flags leave on the path (R101). -/
theorem State.here_addFlags {s : State} {u : Nat} {h : Here} (hh : s.here u = some h) (f : FpFlags) :
    (s.addFlags u f).here u = some { h with p := { h.p with ctx := { h.p.ctx with fpstat := h.p.ctx.fpstat ||| f } } } :=
  State.here_modPath hh rfl

/-- The watchdog limit that a path counts against is that of its knot (R53). -/
theorem State.limitOf_here {s : State} {u : Nat} {h : Here} (hh : s.here u = some h) : s.limitOf h.p.knot = h.k.regs.watchdog := by
  unfold State.here at hh
  split at hh
  · exact absurd hh (by simp)
  · split at hh
    · exact absurd hh (by simp)
    · next k hk =>
      cases hh
      simp [State.limitOf, hk]

/-- A path after an instruction of it has issued, its PC aside. -/
abbrev Here.issued (h : Here) (serial : Nat) : Path := h.p.issued serial h.k.regs.watchdog

/-- What completing an instruction leaves on the path: the next PC (R114), and nothing pending. -/
theorem State.here_retire {s : State} {u : Nat} {h : Here} (hh : s.here u = some h) :
    (s.retire u).here u =
      some { h with p := { h.issued s.serial with ctx := (h.issued s.serial).ctx.advance } } := by
  unfold State.retire Here.issued
  rw [State.here_bump, ← State.limitOf_here hh]
  exact State.here_modPath hh rfl

theorem State.here_jump {s : State} {u : Nat} {h : Here} (hh : s.here u = some h) (pc : Pc) (fn : Nat) :
    (s.jump u pc fn).here u =
      some { h with p := { h.issued s.serial with
        ctx := { (h.issued s.serial).ctx with pc := pc, wrapped := false, fn := fn } } } := by
  unfold State.jump Here.issued
  rw [State.here_bump, ← State.limitOf_here hh]
  exact State.here_modPath hh rfl

/-- What waiting leaves on the path: its PC and registers as they were (R52). -/
theorem State.here_block {s : State} {u : Nat} {h : Here} (hh : s.here u = some h) (w : Wait) :
    (s.block u w).here u = some { h with p := { h.p with
      wait := some w, blockedAt := some s.serial
      blockedCycle := h.p.since w (s.stk h.p.home).cycles } } :=
  State.here_modPath hh rfl

theorem State.SameRest.refl (s : State) (u k : Nat) : s.SameRest s u k :=
  ⟨rfl, rfl, rfl, rfl, rfl, rfl, rfl, rfl, rfl, rfl, rfl, rfl, rfl, fun _ _ => rfl, fun _ _ => rfl⟩

theorem State.SameRest.trans {s t r : State} {u k : Nat} (h : s.SameRest t u k) (h' : t.SameRest r u k) : s.SameRest r u k :=
  ⟨h'.1.trans h.1, h'.2.trans h.2, h'.3.trans h.3, h'.4.trans h.4, h'.5.trans h.5, h'.6.trans h.6, h'.7.trans h.7, h'.8.trans h.8,
   h'.9.trans h.9, h'.10.trans h.10, h'.11.trans h.11, h'.12.trans h.12, h'.13.trans h.13, fun v hv => (h'.14 v hv).trans (h.14 v hv),
   fun j hj => (h'.15 j hj).trans (h.15 j hj)⟩

theorem State.sameRest_modPath (s : State) (u k : Nat) (f : Path → Path) : s.SameRest (s.modPath u f) u k :=
  ⟨rfl, rfl, rfl, rfl, rfl, rfl, rfl, rfl, rfl, rfl, rfl, rfl, rfl, fun _ hv => State.path?_modPath_ne s hv f, fun _ _ => rfl⟩

theorem State.sameRest_modKnot (s : State) (u k : Nat) (f : Knot → Knot) : s.SameRest (s.modKnot k f) u k :=
  ⟨rfl, rfl, rfl, rfl, rfl, rfl, rfl, rfl, rfl, rfl, rfl, rfl, rfl, fun _ _ => rfl, fun _ hj => by simp [spFind_spModify_ne hj]⟩

theorem State.sameRest_bump (s : State) (u k : Nat) : s.SameRest s.bump u k :=
  ⟨rfl, rfl, rfl, rfl, rfl, rfl, rfl, rfl, rfl, rfl, rfl, rfl, rfl, fun _ _ => rfl, fun _ _ => rfl⟩

theorem State.sameRest_writeVec {s : State} {u : Nat} {h : Here} (hh : s.here u = some h) (r : Nat) (eff : Mask) (f : Nat → Word) :
    s.SameRest (s.writeVec u r eff f) u h.p.knot := by
  unfold State.writeVec
  simp only [hh]
  split
  · exact .refl s u _
  · exact (s.sameRest_modKnot u h.p.knot _).trans (State.sameRest_modPath _ u h.p.knot _)

theorem State.sameRest_writePred {s : State} {u : Nat} {h : Here} (hh : s.here u = some h) (n : Nat) (eff val : Mask) :
    s.SameRest (s.writePred u n eff val) u h.p.knot := by
  unfold State.writePred
  simp only [hh]
  split
  · exact .refl s u _
  · exact (s.sameRest_modKnot u h.p.knot _).trans (State.sameRest_modPath _ u h.p.knot _)

theorem State.sameRest_writeScal (s : State) (u k n : Nat) (v : DWord) : s.SameRest (s.writeScal u n v) u k :=
  s.sameRest_modPath u k _

theorem State.sameRest_addFlags (s : State) (u k : Nat) (f : FpFlags) : s.SameRest (s.addFlags u f) u k :=
  s.sameRest_modPath u k _

theorem State.sameRest_retire (s : State) (u k : Nat) : s.SameRest (s.retire u) u k :=
  (s.sameRest_modPath u k _).trans (State.sameRest_bump _ u k)

theorem State.sameRest_jump (s : State) (u k : Nat) (pc : Pc) (fn : Nat) : s.SameRest (s.jump u pc fn) u k :=
  (s.sameRest_modPath u k _).trans (State.sameRest_bump _ u k)

theorem State.sameRest_block (s : State) (u k : Nat) (w : Wait) : s.SameRest (s.block u w) u k :=
  s.sameRest_modPath u k _

theorem Ctx.Keeps.refl (c : Ctx) : c.Keeps c := ⟨rfl, rfl, rfl, rfl, rfl, rfl, rfl, rfl, rfl⟩

theorem Ctx.Keeps.trans {c d e : Ctx} (h : c.Keeps d) (h' : d.Keeps e) : c.Keeps e :=
  ⟨h'.1.trans h.1, h'.2.trans h.2, h'.3.trans h.3, h'.4.trans h.4, h'.5.trans h.5, h'.6.trans h.6,
   h'.7.trans h.7, h'.8.trans h.8, h'.9.trans h.9⟩

theorem Path.Keeps.refl (c : Path) : c.Keeps c := ⟨rfl, rfl, rfl, rfl, rfl, rfl, rfl⟩

theorem Path.Keeps.trans {c d e : Path} (h : c.Keeps d) (h' : d.Keeps e) : c.Keeps e :=
  ⟨h'.1.trans h.1, h'.2.trans h.2, h'.3.trans h.3, h'.4.trans h.4, h'.5.trans h.5, h'.6.trans h.6,
   h'.7.trans h.7⟩

theorem Knot.Keeps.refl (c : Knot) : c.Keeps c := ⟨rfl, rfl, rfl, rfl, rfl, rfl, rfl, rfl, rfl, rfl, rfl, rfl, rfl, rfl, rfl, rfl, rfl, rfl⟩

theorem Knot.Keeps.trans {c d e : Knot} (h : c.Keeps d) (h' : d.Keeps e) : c.Keeps e :=
  ⟨h'.1.trans h.1, h'.2.trans h.2, h'.3.trans h.3, h'.4.trans h.4, h'.5.trans h.5, h'.6.trans h.6,
   h'.7.trans h.7, h'.8.trans h.8, h'.9.trans h.9, h'.10.trans h.10, h'.11.trans h.11, h'.12.trans h.12,
   h'.13.trans h.13, h'.14.trans h.14, h'.15.trans h.15, h'.16.trans h.16, h'.17.trans h.17, h'.18.trans h.18⟩

theorem Ctx.keeps_setState (c : Ctx) (r : RegName) (st : RegState) : c.Keeps (c.setState r st) := by
  unfold Ctx.setState
  split
  · exact ⟨rfl, rfl, rfl, rfl, rfl, rfl, rfl, rfl, rfl⟩
  · split <;> exact ⟨rfl, rfl, rfl, rfl, rfl, rfl, rfl, rfl, rfl⟩
  · split <;> exact ⟨rfl, rfl, rfl, rfl, rfl, rfl, rfl, rfl, rfl⟩

theorem Ctx.keeps_setScal (c : Ctx) (n : Nat) (v : DWord) : c.Keeps (c.setScal n v) := by
  unfold Ctx.setScal
  split <;> exact ⟨rfl, rfl, rfl, rfl, rfl, rfl, rfl, rfl, rfl⟩

theorem Ctx.pc_setState (c : Ctx) (r : RegName) (st : RegState) : (c.setState r st).pc = c.pc := by
  unfold Ctx.setState
  split
  · rfl
  · split <;> rfl
  · split <;> rfl

theorem Ctx.pc_setScal (c : Ctx) (n : Nat) (v : DWord) : (c.setScal n v).pc = c.pc := by
  unfold Ctx.setScal
  split <;> rfl

theorem Ctx.fpstat_setState (c : Ctx) (r : RegName) (st : RegState) : (c.setState r st).fpstat = c.fpstat := by
  unfold Ctx.setState
  split
  · rfl
  · split <;> rfl
  · split <;> rfl

theorem Ctx.fpstat_setScal (c : Ctx) (n : Nat) (v : DWord) : (c.setScal n v).fpstat = c.fpstat := by
  unfold Ctx.setScal
  split <;> rfl

theorem Ctx.scalVal_setState (c : Ctx) (r : RegName) (st : RegState) (n : Nat) : (c.setState r st).scalVal n = c.scalVal n := by
  unfold Ctx.setState
  split
  · rfl
  · split <;> rfl
  · split <;> rfl

theorem Ctx.stateOf_setScal (c : Ctx) (n : Nat) (v : DWord) (r : RegName) : (c.setScal n v).stateOf r = c.stateOf r := by
  unfold Ctx.setScal
  split <;> rfl

theorem Path.keeps_mark (p : Path) (r : RegName) (st : RegState) : p.Keeps (p.mark r st) := ⟨rfl, rfl, rfl, rfl, rfl, rfl, rfl⟩

theorem Path.keeps_issued (p : Path) (n : Nat) (l : Word) : p.Keeps (p.issued n l) := ⟨rfl, rfl, rfl, rfl, rfl, rfl, rfl⟩

/-- A lane of a register after another register's lanes are replaced. -/
theorem Knot.vec_spPut (k : Knot) (r q : Nat) (v : List Word) :
    ({ k with vregs := spPut r v k.vregs } : Knot).vec q = if q = r then v else k.vec q := by
  simp [Knot.vec, spGet_spPut]

/-- A lane below GRANT of the new lanes of a register (R25, R147). -/
theorem newLanes_lane (grant : Nat) (old : List Word) (stale : Bool) (other eff : Mask) (f : Nat → Word) {l : Nat} (hl : l < grant) :
    (newLanes grant old stale other eff f).getD l 0 =
      if eff.getLsbD l then f l else if stale && !other.getLsbD l then 0 else old.getD l 0 := by
  simp [newLanes, List.getD, hl]

/-- The state of a register after it is marked full. -/
theorem Ctx.stateOf_setState_full (c : Ctx) (r q : RegName) :
    (c.setState r .full).stateOf q = if q = r then .full else c.stateOf q := by
  have hd : RegState.full ≠ RegState.dead := by decide
  obtain ⟨rf, rn⟩ := r
  obtain ⟨qf, qn⟩ := q
  cases rf <;> cases qf <;>
    simp only [Ctx.setState, Ctx.stateOf, Ctx.vecState, Ctx.scalState, Ctx.predState, RegName.mk.injEq, reduceCtorEq, false_and,
      true_and, if_false]
  · rw [spGet_spSet_of_ne hd]
  all_goals
    by_cases h0 : rn = 0 <;> by_cases h7 : rn = 7 <;> by_cases hq : qn = 0 <;> by_cases hq7 : qn = 7 <;>
      simp_all [spGet_spSet_of_ne hd]

@[simp] theorem Ctx.scalVal_zero (c : Ctx) : c.scalVal 0 = 0 := rfl

/-- A scalar after a scalar is written; s0 reads zero whatever is written (R125, R167). -/
theorem Ctx.scalVal_setScal (c : Ctx) (n m : Nat) (v : DWord) :
    (c.setScal n v).scalVal m = if m = n ∧ m ≠ 0 then v else c.scalVal m := by
  unfold Ctx.setScal Ctx.scalVal
  by_cases h0 : n = 0
  · subst h0; by_cases hm : m = 0 <;> simp [hm]
  · by_cases hm : m = 0
    · simp [hm]
    · simp [h0, hm, spGet_spPut]

end Sys2Proof.Machine
end

