-- ==== Sys2Proof/Laws/Run.lean ====
section
/-! SUPPORT. Running one instruction: how the checks of sources and destinations end, and what each shared operation answers. -/
namespace Sys2Proof.Machine

@[simp] theorem res_ok_bind {ε α β : Type} (a : α) (f : α → Except ε β) : (Except.ok a >>= f) = f a := rfl

@[simp] theorem res_error_bind {ε α β : Type} (e : ε) (f : α → Except ε β) : ((Except.error e : Except ε α) >>= f) = .error e := rfl

@[simp] theorem res_pure {ε α : Type} (a : α) : (pure a : Except ε α) = .ok a := rfl

/-- Sources that are all full pass the check (R26). -/
theorem checkSources_full (s : State) (p : Path) {rs : List (RegName × Bool)} (h : ∀ r ∈ rs, p.ctx.stateOf r.1 = .full) :
    checkSources s p rs = .ok () := by
  induction rs with
  | nil => rfl
  | cons r rs ih =>
    obtain ⟨r, fe⟩ := r
    have h1 : p.ctx.stateOf r = .full := h (r, fe) (by simp)
    simp only [checkSources, checkSource, h1]
    exact ih fun q hq => h q (by simp [hq])

/-- The first source that is not full decides (R26). -/
theorem checkSources_stop (s : State) (p : Path) (r : RegName) (fe : Bool) {pre post : List (RegName × Bool)}
    (h : ∀ q ∈ pre, p.ctx.stateOf q.1 = .full) {e : Stop} (he : checkSource s p r fe = .error e) :
    checkSources s p (pre ++ (r, fe) :: post) = .error e := by
  induction pre with
  | nil => simp [checkSources, he]
  | cons q qs ih =>
    obtain ⟨q, fq⟩ := q
    have h1 : p.ctx.stateOf q = .full := h (q, fq) (by simp)
    simp only [List.cons_append, checkSources, checkSource, h1]
    exact ih fun x hx => h x (by simp [hx])

/-- Destinations that are not empty pass the check (R25). -/
theorem checkDests_ready (s : State) (p : Path) {rs : List RegName} (h : ∀ r ∈ rs, p.ctx.stateOf r ≠ .empty) :
    checkDests s p rs = .ok () := by
  induction rs with
  | nil => rfl
  | cons r rs ih =>
    have h1 : p.ctx.stateOf r ≠ .empty := h r (by simp)
    simp only [checkDests, checkDest, h1, if_false]
    exact ih fun q hq => h q (by simp [hq])

theorem awaitDests_ready (s : State) (p : Path) (eff : Mask) {rs : List RegName} (h : ∀ r ∈ rs, p.ctx.stateOf r ≠ .empty) :
    awaitDests s p eff rs = .ok () := by
  unfold awaitDests
  split
  · rfl
  · exact checkDests_ready s p h

/-- An instruction for a path. -/
theorem agentRun_path {s : State} {u : Nat} {h : Here} (hc : s.cur = .path u) (hh : s.here u = some h) (f : InstrForm) (never : Bool)
    (body : State → Here → Res State) (mbody : State → MHere → MRes State) :
    agentRun f never body mbody s = .next (pathRun f never body s h) := by simp [agentRun, hc, hh]

theorem knotOp_path {s : State} {u : Nat} {h : Here} (hc : s.cur = .path u) (hh : s.here u = some h) (f : InstrForm) (never : Bool)
    (body : State → Here → Res State) : knotOp f never body s = .next (pathRun f never body s h) :=
  agentRun_path hc hh f never body outsideSubset

/-- An instruction for a movement processor. -/
theorem agentRun_mover {s : State} {c : Nat} {m : MHere} (hc : s.cur = .mover c) (hm : s.mover? c = some m) (f : InstrForm)
    (never : Bool) (body : State → Here → Res State) (mbody : State → MHere → MRes State) :
    agentRun f never body mbody s = .next (moverRun f mbody s m) := by simp [agentRun, hc, hm]

/-- The never-guard: the instruction has no effect (R118). -/
theorem pathRun_never {s : State} {h : Here} {f : InstrForm} (hd : decodeTrap s h f = none) (body : State → Here → Res State) :
    pathRun f true body s h = s.retire h.u := by simp [pathRun, hd]

/-- With no access left to perform, catching up changes nothing (R67). -/
theorem State.catchUp_none {s : State} {u : Nat} {h : Here} (hh : s.here u = some h) (hp : h.p.unperformed = []) : s.catchUp u = s := by
  simp [State.catchUp, hh, hp]

theorem State.caughtUp_none {s : State} {u : Nat} {h : Here} (hh : s.here u = some h) (hp : h.p.unperformed = []) : s.caughtUp h = (s, h) := by
  unfold State.caughtUp
  rw [State.here_u hh, State.catchUp_none hh hp, hh]
  rfl

/-- With no access left to perform, none must wait. -/
theorem State.settles_none {s : State} {u : Nat} {h : Here} (hh : s.here u = some h) (hp : h.p.unperformed = []) : s.settles u = true := by
  simp [State.settles, hh, hp]

/-- Decode checks that find nothing do so too where the instruction may come before earlier accesses. -/
theorem decodeTrap_defer (s : State) (h : Here) (f : InstrForm) : decodeTrap s h { f with defer := true } = decodeTrap s h f := rfl

/-- An instruction that reaches its body runs it. -/
theorem pathRun_body {s : State} {u : Nat} {h : Here} {f : InstrForm} (ha : Admits s u h f) (body : State → Here → Res State) :
    pathRun f false body s h = (match body s h with
      | .ok s' => s'
      | .error (.wait w s') => s'.block u w
      | .error (.trap t s') => s'.takeTrap u t) := by
  have hu := State.here_u ha.here
  unfold pathRun
  rw [ha.decode, hu]
  rcases ha.settled with hd | hp
  · rw [hd]; rfl
  · rw [State.caughtUp_none ha.here hp, State.settles_none ha.here hp]; cases f.defer <;> rfl

theorem pathRun_ok {s t : State} {u : Nat} {h : Here} {f : InstrForm} {never : Bool} {body : State → Here → Res State}
    (ha : Admits s u h f) (hn : never = false) (hb : body s h = .ok t) : pathRun f never body s h = t := by
  rw [hn, pathRun_body ha, hb]

theorem pathRun_wait {s t : State} {u : Nat} {h : Here} {f : InstrForm} {never : Bool} {body : State → Here → Res State} {w : Wait}
    (ha : Admits s u h f) (hn : never = false) (hb : body s h = .error (.wait w t)) :
    pathRun f never body s h = t.block u w := by rw [hn, pathRun_body ha, hb]

theorem pathRun_trap {s t : State} {u : Nat} {h : Here} {f : InstrForm} {never : Bool} {body : State → Here → Res State} {x : Trap}
    (ha : Admits s u h f) (hn : never = false) (hb : body s h = .error (.trap x t)) :
    pathRun f never body s h = t.takeTrap u x := by rw [hn, pathRun_body ha, hb]

/-- A trap of the decode checks (R121). -/
theorem pathRun_decodeTrap {s : State} {h : Here} {f : InstrForm} {never : Bool} {code : TrapCode}
    (hd : decodeTrap s h f = some code) (body : State → Here → Res State) :
    pathRun f never body s h = s.takeTrap h.u { code := code } := by simp [pathRun, hd]

theorem moverRun_ok {s t : State} {m : MHere} {f : InstrForm} {body : State → MHere → MRes State}
    (hm : hintsMisused f m.e.mover.hints = false) (hb : body s m = .ok t) : moverRun f body s m = t := by
  simp [moverRun, hm, hb]

/-- A guard other than 0b1111 is not the never-guard (R117). -/
theorem isNever_false {g : Guard} (h : g ≠ 15) : isNever g = false := by
  unfold isNever
  exact beq_eq_false_iff_ne.mpr h

theorem lanewise_next {s : State} {u : Nat} {h : Here} {f : InstrForm} (ha : Admits s u h { f with defer := true }) {g : Guard} (hg : g ≠ 15)
    {srcs : Ctx → List (RegName × Bool)} {d : VReg} (val : Here → Nat → Word)
    (hs : ∀ r ∈ guardSource g :: srcs h.p.ctx, h.p.ctx.stateOf r.1 = .full)
    (hd : h.p.ctx.stateOf { file := .vec, num := h.p.ctx.reg d.toNat } ≠ .empty) :
    lanewise f g srcs d val s =
      .next ((s.writeVec u (h.p.ctx.reg d.toNat) (effective h g) (val h)).retire u) := by
  have hu := State.here_u ha.here
  unfold lanewise
  rw [knotOp_path ha.cur ha.here, pathRun_ok ha (isNever_false hg)]
  simp only [checkSources_full s h.p hs, awaitDests_ready s h.p (effective h g) (rs := [_]) (by simpa using hd), hu, res_ok_bind]

theorem pairwise_next {s : State} {u : Nat} {h : Here} {f : InstrForm} (ha : Admits s u h { f with defer := true }) {g : Guard} (hg : g ≠ 15)
    {srcs : Ctx → List (RegName × Bool)} {d : VReg} (val : Here → Nat → DWord)
    (hs : ∀ r ∈ guardSource g :: srcs h.p.ctx, h.p.ctx.stateOf r.1 = .full)
    (hd : ∀ i < 2, h.p.ctx.stateOf { file := .vec, num := h.p.ctx.reg d.toNat + i } ≠ .empty) :
    pairwise f g srcs d val s =
      .next ((s.writeGroup u (effective h g) [(h.p.ctx.reg d.toNat, fun l => (val h l).lo),
        (h.p.ctx.reg d.toNat + 1, fun l => (val h l).hi)]).retire u) := by
  have hu := State.here_u ha.here
  have hw : awaitDests s h.p (effective h g)
      [{ file := .vec, num := h.p.ctx.reg d.toNat }, { file := .vec, num := h.p.ctx.reg d.toNat + 1 }] = .ok () :=
    awaitDests_ready _ _ _ (by
      intro r hr
      simp only [List.mem_cons, List.not_mem_nil, or_false] at hr
      rcases hr with rfl | rfl
      · exact hd 0 (by omega)
      · exact hd 1 (by omega))
  unfold pairwise
  rw [knotOp_path ha.cur ha.here, pathRun_ok ha (isNever_false hg)]
  simp only [checkSources_full s h.p hs, hw, hu, res_ok_bind]

theorem predwise_next {s : State} {u : Nat} {h : Here} {f : InstrForm} (ha : Admits s u h { f with defer := true }) {g : Guard} (hg : g ≠ 15)
    {srcs : Ctx → List (RegName × Bool)} {d : PReg} (val : Here → Nat → Bool)
    (hs : ∀ r ∈ guardSource g :: srcs h.p.ctx, h.p.ctx.stateOf r.1 = .full)
    (hd : h.p.ctx.stateOf { file := .pred, num := d.toNat } ≠ .empty) :
    predwise f g srcs d val s =
      .next ((s.writePred u d.toNat (effective h g) (maskWhere (effective h g) h.k.grant (val h))).retire u) := by
  have hu := State.here_u ha.here
  unfold predwise
  rw [knotOp_path ha.cur ha.here, pathRun_ok ha (isNever_false hg)]
  simp only [checkSources_full s h.p hs, awaitDests_ready s h.p (effective h g) (rs := [_]) (by simpa using hd), hu, res_ok_bind]

theorem fpLanes_next {s : State} {u : Nat} {h : Here} {f : InstrForm} (ha : Admits s u h { f with defer := true }) {g : Guard} (hg : g ≠ 15)
    {srcs : Ctx → List (RegName × Bool)} {d : VReg} (res : Here → Nat → Word × FpFlags)
    (hs : ∀ r ∈ guardSource g :: srcs h.p.ctx, h.p.ctx.stateOf r.1 = .full)
    (hd : h.p.ctx.stateOf { file := .vec, num := h.p.ctx.reg d.toNat } ≠ .empty) :
    fpLanes f g srcs d res s =
      .next (((s.writeVec u (h.p.ctx.reg d.toNat) (effective h g) fun l => (res h l).1).addFlags u
        (orFlags (effective h g) h.k.grant fun l => (res h l).2)).retire u) := by
  have hu := State.here_u ha.here
  unfold fpLanes
  rw [knotOp_path ha.cur ha.here, pathRun_ok ha (isNever_false hg)]
  simp only [checkSources_full s h.p hs, awaitDests_ready s h.p (effective h g) (rs := [_]) (by simpa using hd), hu, res_ok_bind]

theorem scalarOp_next {s : State} {u : Nat} {h : Here} {f : InstrForm} (ha : Admits s u h { f with defer := true }) (d : SReg)
    {srcs : List (RegName × Bool)} (fe : Bool) (val : Hints → (Nat → DWord) → DWord)
    (hs : ∀ r ∈ srcs, h.p.ctx.stateOf r.1 = .full)
    (hd : h.p.ctx.stateOf { file := .scal, num := d.toNat } ≠ .empty) :
    scalarOp f d srcs fe val s = .next ((s.writeScal u d.toNat (val h.p.hints h.p.ctx.scalVal)).retire u) := by
  have hu := State.here_u ha.here
  unfold scalarOp
  rw [agentRun_path ha.cur ha.here, pathRun_ok ha rfl]
  simp only [checkSources_full s h.p hs, checkDest, hd, if_false, hu]
  by_cases h0 : d = 0 <;> simp [h0]

/-- The same on a movement processor, which has no fe bits set (R130). -/
theorem scalarOp_mover {s : State} {c : Nat} {m : MHere} {f : InstrForm} (hc : s.cur = .mover c) (hm : s.mover? c = some m)
    (hf : hintsMisused f m.e.mover.hints = false) (d : SReg) (srcs : List (RegName × Bool))
    (val : Hints → (Nat → DWord) → DWord) :
    scalarOp f d srcs false val s =
      .next ((s.modMover m.c fun x => x.setReg d.toNat (val x.hints x.reg)).moveOn m.c) := by
  unfold scalarOp
  rw [agentRun_mover hc hm, moverRun_ok (f := { f with defer := true }) hf rfl]

theorem onceScal_next {s : State} {u : Nat} {h : Here} {f : InstrForm} (ha : Admits s u h { f with defer := true }) {never : Bool} (hn : never = false)
    (d : SReg) {srcs : List (RegName × Bool)} {val : State → Here → Res DWord} {v : DWord}
    (hs : ∀ r ∈ srcs, h.p.ctx.stateOf r.1 = .full)
    (hd : h.p.ctx.stateOf { file := .scal, num := d.toNat } ≠ .empty) (hv : val s h = .ok v) :
    onceScal f never d srcs val s = .next ((s.writeScal u d.toNat v).retire u) := by
  have hu := State.here_u ha.here
  unfold onceScal
  rw [knotOp_path ha.cur ha.here, pathRun_ok ha hn]
  simp only [checkSources_full s h.p hs, checkDest, hd, if_false, hu, hv]
  by_cases h0 : d = 0 <;> simp [h0]

end Sys2Proof.Machine
end

