-- ==== Sys2Proof/Laws/Results.lean ====
section
/-! SUPPORT. The states that the register writes of one instruction lead to, in the terms of Sys2Proof.Claims.RegisterResult: cite these
when an instruction's next state is known to be a chain of writes ending in `retire`. -/
namespace Sys2Proof.Claims
open Sys2Proof.Machine

/-- What RegisterResult says of the next state. -/
def Gives (s : State) (h : Here) (c : RegClaim) (t : State) : Prop :=
  ∃ q k, t.here h.u = some { u := h.u, p := q, k := k } ∧ OneOn h q k ∧ VecsAre s h c q k ∧ PredsAre s h c q k ∧ ScalsAre h c q ∧
    q.ctx.fpstat = h.p.ctx.fpstat ||| c.flags ∧ s.SameRest t h.u h.p.knot ∧
    ∀ key a, t.mem.readByte key a = s.mem.readByte key a

theorem registerResult_of_gives {s : State} {h : Here} {i : Instr} {c : RegClaim}
    (hx : Admits s h.u h { c.form with defer := c.defer } → c.guard ≠ 15 → (∀ r ∈ c.reads, h.p.ctx.stateOf r = .full) →
      (∀ r ∈ c.dests, h.p.ctx.stateOf r ≠ .empty) → ∃ t, exec i s = .next t ∧ Gives s h c t) : RegisterResult s h i c := by
  intro h1 h2 h3 h4
  obtain ⟨t, ht, q, k, hg⟩ := hx h1 h2 h3 h4
  exact ⟨t, q, k, ht, hg⟩

theorem laneAfter_newLanes (s : State) (h : Here) (eff : Mask) (r : Nat) (f : Nat → Word) {l : Nat} (hl : l < h.k.grant)
    (he : eff ≠ 0) :
    (newLanes h.k.grant (h.k.vec r) (h.p.ctx.stale { file := .vec, num := r }) (s.otherLanes h.p.knot h.u) eff f).getD l 0 =
      laneAfter s h eff r f l := by
  rw [newLanes_lane _ _ _ _ _ _ hl]
  unfold laneAfter Ctx.stale Ctx.stateOf Knot.lane
  simp only [he, if_false]
  split
  · rfl
  · congr 1
    simp

/-- The state of a register of a path after a register is marked full. -/
theorem stateOf_mark (p : Path) (r q : RegName) : (p.mark r .full).ctx.stateOf q = if q = r then .full else p.ctx.stateOf q :=
  p.ctx.stateOf_setState_full r q

/-- A path and knot on the way to a result: what has been written so far, and what has not changed. -/
structure Going (s : State) (h : Here) (t : State) (x : Here) : Prop where
  here : t.here h.u = some x
  u : x.u = h.u
  rest : s.SameRest t h.u h.p.knot
  other : t.otherLanes h.p.knot h.u = s.otherLanes h.p.knot h.u
  path : h.p.Keeps x.p
  ctx : h.p.ctx.Keeps x.p.ctx
  pc : x.p.ctx.pc = h.p.ctx.pc
  knot : h.k.Keeps x.k

theorem Going.start {s : State} {h : Here} (hh : s.here h.u = some h) : Going s h s h :=
  ⟨hh, rfl, .refl s _ _, rfl, .refl _, .refl _, rfl, .refl _⟩

theorem Going.knotNum {s t : State} {h x : Here} (g : Going s h t x) : x.p.knot = h.p.knot := g.path.knot

theorem Going.grant {s t : State} {h x : Here} (g : Going s h t x) : x.k.grant = h.k.grant := g.knot.grant

/-- The registers of `x` are those of `h` but for one. -/
structure VecWritten (s : State) (h x y : Here) (eff : Mask) (r : Nat) (val : Nat → Word) : Prop where
  lanes : ∀ l < h.k.grant, y.k.lane r l = if eff = 0 then x.k.lane r l else laneAfter s x eff r val l
  full : eff ≠ 0 → y.p.ctx.vecState r = .full
  others : ∀ q, (eff = 0 ∨ q ≠ r) → y.k.vec q = x.k.vec q ∧ y.p.ctx.vecState q = x.p.ctx.vecState q
  preds : ∀ n, y.k.pred n = x.k.pred n ∧ y.p.ctx.predState n = x.p.ctx.predState n
  scals : ∀ n, y.p.ctx.scalVal n = x.p.ctx.scalVal n ∧ y.p.ctx.scalState n = x.p.ctx.scalState n
  flags : y.p.ctx.fpstat = x.p.ctx.fpstat

theorem laneAfter_congr {s t : State} {x : Here} (h : t.otherLanes x.p.knot x.u = s.otherLanes x.p.knot x.u) (eff : Mask) (r : Nat)
    (val : Nat → Word) (l : Nat) : laneAfter t x eff r val l = laneAfter s x eff r val l := by
  unfold laneAfter
  rw [h]

/-- One vector write on the way. -/
theorem Going.writeVec {s t : State} {h x : Here} (g : Going s h t x) (r : Nat) (eff : Mask) (val : Nat → Word) :
    ∃ y, Going s h (t.writeVec h.u r eff val) y ∧ VecWritten s h x y eff r val := by
  have hk : x.p.knot = h.p.knot := g.knotNum
  have h1 := State.here_writeVec g.here r eff val
  have hr : s.SameRest (t.writeVec h.u r eff val) h.u h.p.knot := by
    have h2 := State.sameRest_writeVec g.here r eff val
    rw [hk] at h2
    exact g.rest.trans h2
  have ho : (t.writeVec h.u r eff val).otherLanes h.p.knot h.u = s.otherLanes h.p.knot h.u :=
    (State.otherLanes_writeVec _ _ _ _ _ _).trans g.other
  by_cases he : eff = 0
  · rw [if_pos he] at h1
    refine ⟨x, ⟨h1, g.u, hr, ho, g.path, g.ctx, g.pc, g.knot⟩, ⟨fun l _ => by simp [he], fun hne => absurd he hne, fun q _ => ⟨rfl, rfl⟩,
      fun n => ⟨rfl, rfl⟩, fun n => ⟨rfl, rfl⟩, rfl⟩⟩
  · rw [if_neg he] at h1
    refine ⟨_, ⟨h1, g.u, hr, ho, g.path.trans (Path.keeps_mark _ _ _), g.ctx.trans (Ctx.keeps_setState x.p.ctx { file := .vec, num := r } .full), g.pc,
      g.knot.trans ⟨rfl, rfl, rfl, rfl, rfl, rfl, rfl, rfl, rfl, rfl, rfl, rfl, rfl, rfl, rfl, rfl, rfl, rfl⟩⟩,
      ⟨fun l hl => ?_, fun _ => ?_, fun q hq => ?_, fun n => ⟨rfl, rfl⟩, fun n => ⟨rfl, rfl⟩, rfl⟩⟩
    · rw [if_neg he]
      have hl' : l < x.k.grant := by rw [g.grant]; exact hl
      have hot : t.otherLanes x.p.knot h.u = s.otherLanes x.p.knot x.u := by rw [hk, g.u]; exact g.other
      have := laneAfter_newLanes s x eff r val hl' he
      rw [← this, ← hot]
      show (Knot.vec _ r).getD l 0 = _
      rw [Knot.vec_spPut]; simp
    · have := stateOf_mark x.p { file := .vec, num := r } { file := .vec, num := r }
      simpa [Ctx.stateOf] using this
    · have hq' : q ≠ r := hq.resolve_left he
      refine ⟨by rw [Knot.vec_spPut]; simp [hq'], ?_⟩
      have := stateOf_mark x.p { file := .vec, num := r } { file := .vec, num := q }
      simpa [Ctx.stateOf, hq'] using this

/-- The end of an instruction: the next word. -/
theorem Going.retire {s t : State} {h x : Here} (g : Going s h t x) (c : RegClaim) (hv : VecsAre s h c x.p x.k)
    (hp : PredsAre s h c x.p x.k) (hs : ScalsAre h c x.p) (hf : x.p.ctx.fpstat = h.p.ctx.fpstat ||| c.flags) :
    Gives s h c (t.retire h.u) := by
  have h1 := State.here_retire g.here
  have hr : s.SameRest (t.retire h.u) h.u h.p.knot := g.rest.trans (State.sameRest_retire _ _ _)
  refine ⟨{ x.issued t.serial with ctx := (x.issued t.serial).ctx.advance }, x.k, ?_,
    ⟨?_, g.path.trans ⟨rfl, rfl, rfl, rfl, rfl, rfl, rfl⟩, g.ctx.trans ⟨rfl, rfl, rfl, rfl, rfl, rfl, rfl, rfl, rfl⟩, g.knot, rfl, rfl, rfl⟩,
    hv, hp, hs, hf, hr, fun key a => by rw [hr.mem]⟩
  · rw [h1]; cases x; cases g.u; rfl
  · show x.p.ctx.pc + 4 = _
    rw [g.pc]

/-- What a predicate write leaves. -/
structure PredWritten (s : State) (h x y : Here) (eff : Mask) (n : Nat) (val : Mask) : Prop where
  lanes : n ≠ 7 → ∀ l, (y.k.pred n).getLsbD l = predAfter s x eff n (fun l => val.getLsbD l) l
  full : eff ≠ 0 → y.p.ctx.predState n = .full
  others : ∀ q, (eff = 0 ∨ q = 7 ∨ q ≠ n) → y.k.pred q = x.k.pred q ∧ y.p.ctx.predState q = x.p.ctx.predState q
  vecs : ∀ q, y.k.vec q = x.k.vec q ∧ y.p.ctx.vecState q = x.p.ctx.vecState q
  scals : ∀ n, y.p.ctx.scalVal n = x.p.ctx.scalVal n ∧ y.p.ctx.scalState n = x.p.ctx.scalState n
  flags : y.p.ctx.fpstat = x.p.ctx.fpstat

/-- One predicate write on the way. -/
theorem Going.writePred {s t : State} {h x : Here} (g : Going s h t x) (n : Nat) (eff val : Mask) :
    ∃ y, Going s h (t.writePred h.u n eff val) y ∧ PredWritten s h x y eff n val := by
  have hk : x.p.knot = h.p.knot := g.knotNum
  have h1 := State.here_writePred g.here n eff val
  have hr : s.SameRest (t.writePred h.u n eff val) h.u h.p.knot := by
    have h2 := State.sameRest_writePred g.here n eff val
    rw [hk] at h2
    exact g.rest.trans h2
  have ho : (t.writePred h.u n eff val).otherLanes h.p.knot h.u = s.otherLanes h.p.knot h.u := by
    refine Eq.trans ?_ g.other
    unfold State.writePred
    simp only [g.here]
    split
    · rfl
    · rw [State.otherLanes_modPath, State.otherLanes_modKnot]
  by_cases he : eff = 0 ∨ n = 7
  · rw [if_pos he] at h1
    refine ⟨x, ⟨h1, g.u, hr, ho, g.path, g.ctx, g.pc, g.knot⟩, ⟨fun hn l => ?_, fun hne => ?_, fun q _ => ⟨rfl, rfl⟩, fun q => ⟨rfl, rfl⟩,
      fun m => ⟨rfl, rfl⟩, rfl⟩⟩
    · simp [predAfter, he.resolve_right hn]
    · have : n = 7 := he.resolve_left hne
      subst this; rfl
  · rw [if_neg he] at h1
    have he0 : eff ≠ 0 := fun e => he (.inl e)
    have hn7 : n ≠ 7 := fun e => he (.inr e)
    have hm : ∀ q : RegName, (x.p.mark { file := .pred, num := n } .full).ctx.stateOf q =
        if q = { file := .pred, num := n } then .full else x.p.ctx.stateOf q := fun q => stateOf_mark _ _ _
    refine ⟨_, ⟨h1, g.u, hr, ho, g.path.trans (Path.keeps_mark _ _ _), g.ctx.trans (Ctx.keeps_setState x.p.ctx { file := .pred, num := n } .full),
      (Ctx.pc_setState x.p.ctx { file := .pred, num := n } .full).trans g.pc,
      g.knot.trans ⟨rfl, rfl, rfl, rfl, rfl, rfl, rfl, rfl, rfl, rfl, rfl, rfl, rfl, rfl, rfl, rfl, rfl, rfl⟩⟩,
      ⟨fun _ l => ?_, fun _ => ?_, fun q hq => ?_, fun q => ⟨rfl, ?_⟩,
      fun m => ⟨Ctx.scalVal_setState x.p.ctx { file := .pred, num := n } .full m, ?_⟩,
      Ctx.fpstat_setState x.p.ctx { file := .pred, num := n } .full⟩⟩
    · have hot : t.otherLanes x.p.knot h.u = s.otherLanes x.p.knot x.u := by rw [hk, g.u]; exact g.other
      unfold predAfter
      simp only [Knot.pred, hn7, if_false, spGet_spPut, if_true, he0, hot]
      unfold Ctx.stale
      simp only [Ctx.stateOf]
      by_cases hl : eff.getLsbD l
      · simp [hl]
      · simp only [hl, BitVec.getLsbD_or, BitVec.getLsbD_and, Bool.and_false, Bool.false_or, BitVec.getLsbD_not]
        have hz : ¬l < 1024 → (spGet 0 x.k.preds n : Mask).getLsbD l = false := fun hb => BitVec.getLsbD_of_ge _ l (by omega)
        by_cases hb : l < 1024
        · by_cases hst : x.p.ctx.predState n = .dead ∨ x.p.ctx.predState n = .pending
          · have h2 : (x.p.ctx.predState n == .dead || x.p.ctx.predState n == .pending) = true := by simpa using hst
            simp only [h2, if_true, hst, true_and, hb, decide_true, Bool.not_false, Bool.and_true]
            cases hz : (s.otherLanes x.p.knot x.u).getLsbD l <;> simp
          · have h2 : (x.p.ctx.predState n == .dead || x.p.ctx.predState n == .pending) = false := by simpa using hst
            have ha : (BitVec.allOnes 1024).getLsbD l = true := by rw [BitVec.getLsbD_allOnes]; simpa using hb
            simp only [h2, hst, false_and, if_false, Bool.false_eq_true, ha, hb, decide_true, Bool.not_false, Bool.and_true]
        · simp only [hz hb, Bool.false_and, ite_self, Bool.false_eq_true, if_false]
    · have := stateOf_mark x.p { file := .pred, num := n } { file := .pred, num := n }
      simpa [Ctx.stateOf] using this
    · have hq' : q = 7 ∨ q ≠ n := hq.resolve_left he0
      have hqn : q ≠ n := by
        rcases hq' with rfl | h3
        · exact fun e => hn7 e.symm
        · exact h3
      constructor
      · simp [Knot.pred, spGet_spPut, hqn]
      · have := stateOf_mark x.p { file := .pred, num := n } { file := .pred, num := q }
        simpa [Ctx.stateOf, hqn] using this
    · simpa [Ctx.stateOf] using hm { file := .vec, num := q }
    · simpa [Ctx.stateOf] using hm { file := .scal, num := m }

/-- What a scalar write leaves. -/
structure ScalWritten (h x y : Here) (n : Nat) (v : DWord) : Prop where
  val : y.p.ctx.scalVal n = if n = 0 then 0 else v
  full : y.p.ctx.scalState n = .full
  others : ∀ m, m ≠ n → y.p.ctx.scalVal m = x.p.ctx.scalVal m ∧ y.p.ctx.scalState m = x.p.ctx.scalState m
  vecs : ∀ q, y.k.vec q = x.k.vec q ∧ y.p.ctx.vecState q = x.p.ctx.vecState q
  preds : ∀ q, y.k.pred q = x.k.pred q ∧ y.p.ctx.predState q = x.p.ctx.predState q
  flags : y.p.ctx.fpstat = x.p.ctx.fpstat

/-- One scalar write on the way. -/
theorem Going.writeScal {s t : State} {h x : Here} (g : Going s h t x) (n : Nat) (v : DWord) :
    ∃ y, Going s h (t.writeScal h.u n v) y ∧ ScalWritten h x y n v := by
  have h1 := State.here_writeScal g.here n v
  have hr : s.SameRest (t.writeScal h.u n v) h.u h.p.knot := g.rest.trans (State.sameRest_writeScal _ _ _ _ _)
  have ho : (t.writeScal h.u n v).otherLanes h.p.knot h.u = s.otherLanes h.p.knot h.u :=
    (State.otherLanes_modPath _ _ _ _).trans g.other
  have hst : ∀ q : RegName, (({ x.p with ctx := x.p.ctx.setScal n v } : Path).mark { file := .scal, num := n } .full).ctx.stateOf q =
      if q = { file := .scal, num := n } then .full else x.p.ctx.stateOf q := by
    intro q
    rw [stateOf_mark, Ctx.stateOf_setScal]
  have hsv : ∀ m, (({ x.p with ctx := x.p.ctx.setScal n v } : Path).mark { file := .scal, num := n } .full).ctx.scalVal m =
      (x.p.ctx.setScal n v).scalVal m :=
    fun m => Ctx.scalVal_setState (x.p.ctx.setScal n v) { file := .scal, num := n } .full m
  refine ⟨_, ⟨h1, g.u, hr, ho, g.path.trans ⟨rfl, rfl, rfl, rfl, rfl, rfl, rfl⟩,
    g.ctx.trans ((Ctx.keeps_setScal x.p.ctx n v).trans (Ctx.keeps_setState (x.p.ctx.setScal n v) { file := .scal, num := n } .full)),
    ((Ctx.pc_setState (x.p.ctx.setScal n v) { file := .scal, num := n } .full).trans (Ctx.pc_setScal x.p.ctx n v)).trans g.pc, g.knot⟩,
    ⟨?_, ?_, fun m hm => ⟨?_, ?_⟩, fun q => ⟨rfl, ?_⟩, fun q => ⟨rfl, ?_⟩,
     (Ctx.fpstat_setState (x.p.ctx.setScal n v) { file := .scal, num := n } .full).trans (Ctx.fpstat_setScal x.p.ctx n v)⟩⟩
  · rw [hsv, Ctx.scalVal_setScal]
    by_cases h0 : n = 0
    · simp [h0]
    · simp [h0]
  · have := hst { file := .scal, num := n }
    simpa [Ctx.stateOf] using this
  · rw [hsv, Ctx.scalVal_setScal]
    simp [hm]
  · have := hst { file := .scal, num := m }
    simpa [Ctx.stateOf, hm] using this
  · have := hst { file := .vec, num := q }
    simpa [Ctx.stateOf] using this
  · have := hst { file := .pred, num := q }
    simpa [Ctx.stateOf] using this

/-- More flags on the way. -/
theorem Going.addFlags {s t : State} {h x : Here} (g : Going s h t x) (f : FpFlags) :
    Going s h (t.addFlags h.u f) { x with p := { x.p with ctx := { x.p.ctx with fpstat := x.p.ctx.fpstat ||| f } } } := by
  exact ⟨State.here_addFlags g.here f, g.u, g.rest.trans (State.sameRest_addFlags _ _ _ _),
    (State.otherLanes_modPath _ _ _ _).trans g.other, g.path.trans ⟨rfl, rfl, rfl, rfl, rfl, rfl, rfl⟩,
    g.ctx.trans ⟨rfl, rfl, rfl, rfl, rfl, rfl, rfl, rfl, rfl⟩, g.pc, g.knot⟩

/-- One vector register, and flags. -/
theorem gives_vec {s : State} {h : Here} {c : RegClaim} {r : Nat} {val : Nat → Word} (hh : s.here h.u = some h)
    (hv : c.vecs = [(r, val)]) (hp : c.pred = none) (hs : c.scal = none) :
    Gives s h c (((s.writeVec h.u r (effective h c.guard) val).addFlags h.u c.flags).retire h.u) := by
  obtain ⟨y, g, w⟩ := (Going.start hh).writeVec r (effective h c.guard) val
  refine (g.addFlags c.flags).retire c ?_ ?_ ?_ (by rw [← w.flags])
  · refine ⟨?_, ?_, fun q hq => ?_⟩
    · simp only [hv, List.mem_singleton, forall_eq]
      intro l hl
      refine (w.lanes l hl).trans ?_
      unfold laneAfter
      split <;> simp_all
    · simp only [hv, List.mem_singleton, forall_eq]
      exact w.full
    · simp only [hv, List.mem_singleton, forall_eq] at hq
      exact w.others q hq
  · exact ⟨by simp [hp], by simp [hp], fun n _ => w.preds n⟩
  · exact ⟨by simp [hs], fun n _ => w.scals n⟩

theorem addFlags_zero (s : State) (u : Nat) : s.addFlags u 0 = s := by
  have : ∀ m : Sparse Path, spModify u (fun p => { p with ctx := { p.ctx with fpstat := p.ctx.fpstat ||| 0 } }) m = m := by
    intro m
    induction m with
    | nil => rfl
    | cons e m ih =>
      obtain ⟨j, w⟩ := e
      simp only [spModify]
      split
      · subst j; simp
      · rw [ih]
  unfold State.addFlags State.modCtx State.modPath
  rw [this]

/-- One vector register. -/
theorem gives_vec_plain {s : State} {h : Here} {c : RegClaim} {r : Nat} {val : Nat → Word} (hh : s.here h.u = some h)
    (hv : c.vecs = [(r, val)]) (hp : c.pred = none) (hs : c.scal = none) (hf : c.flags = 0) :
    Gives s h c ((s.writeVec h.u r (effective h c.guard) val).retire h.u) := by
  have := gives_vec hh hv hp hs
  rwa [hf, addFlags_zero] at this

/-- A register pair, and flags. -/
theorem gives_pair {s : State} {h : Here} {c : RegClaim} {r : Nat} {lo hi : Nat → Word} (hh : s.here h.u = some h)
    (hv : c.vecs = [(r, lo), (r + 1, hi)]) (hp : c.pred = none) (hs : c.scal = none) :
    Gives s h c (((s.writeGroup h.u (effective h c.guard) [(r, lo), (r + 1, hi)]).addFlags h.u c.flags).retire h.u) := by
  obtain ⟨y, g, w⟩ := (Going.start hh).writeVec r (effective h c.guard) lo
  obtain ⟨z, g', w'⟩ := g.writeVec (r + 1) (effective h c.guard) hi
  have hl : ∀ l, laneAfter s y (effective h c.guard) (r + 1) hi l = laneAfter s h (effective h c.guard) (r + 1) hi l := by
    intro l
    unfold laneAfter Knot.lane
    have h1 := w.others (r + 1) (.inr (by omega))
    rw [h1.1, h1.2, g.u, g.knotNum]
  have hst : ∀ q, (effective h c.guard = 0 ∨ (q ≠ r ∧ q ≠ r + 1)) →
      z.k.vec q = h.k.vec q ∧ z.p.ctx.vecState q = h.p.ctx.vecState q := by
    intro q hq
    have h1 := w.others q (hq.imp id (·.1))
    have h2 := w'.others q (hq.imp id (·.2))
    exact ⟨h2.1.trans h1.1, h2.2.trans h1.2⟩
  refine (g'.addFlags c.flags).retire c ?_ ?_ ?_ (by rw [← w.flags, ← w'.flags])
  · refine ⟨?_, ?_, fun q hq => ?_⟩
    · simp only [hv, List.mem_cons, List.not_mem_nil, or_false]
      rintro x (rfl | rfl) l hl'
      · show z.k.lane r l = _
        have h1 := w'.others r (.inr (by omega))
        unfold Knot.lane
        rw [h1.1]
        refine (w.lanes l hl').trans ?_
        unfold laneAfter
        split <;> simp_all
      · show z.k.lane (r + 1) l = _
        refine (w'.lanes l hl').trans ?_
        by_cases he : effective h c.guard = 0
        · rw [if_pos he]
          have h1 := w.others (r + 1) (.inr (by omega))
          unfold laneAfter Knot.lane
          rw [if_pos he, h1.1]
        · rw [if_neg he, hl]
    · simp only [hv, List.mem_cons, List.not_mem_nil, or_false]
      rintro x (rfl | rfl) he
      · exact ((w'.others r (.inr (by omega))).2).trans (w.full he)
      · exact w'.full he
    · simp only [hv, List.mem_cons, List.not_mem_nil, or_false] at hq
      exact hst q (hq.imp id fun hx => ⟨hx _ (.inl rfl), hx _ (.inr rfl)⟩)
  · refine ⟨by simp [hp], by simp [hp], fun n _ => ⟨(w'.preds n).1.trans (w.preds n).1, (w'.preds n).2.trans (w.preds n).2⟩⟩
  · refine ⟨by simp [hs], fun n _ => ⟨(w'.scals n).1.trans (w.scals n).1, (w'.scals n).2.trans (w.scals n).2⟩⟩

theorem gives_pair_plain {s : State} {h : Here} {c : RegClaim} {r : Nat} {lo hi : Nat → Word} (hh : s.here h.u = some h)
    (hv : c.vecs = [(r, lo), (r + 1, hi)]) (hp : c.pred = none) (hs : c.scal = none) (hf : c.flags = 0) :
    Gives s h c ((s.writeGroup h.u (effective h c.guard) [(r, lo), (r + 1, hi)]).retire h.u) := by
  have := gives_pair hh hv hp hs
  rwa [hf, addFlags_zero] at this

theorem predAfter_congr (s : State) (h : Here) (eff : Mask) (n : Nat) {f f' : Nat → Bool} (l : Nat)
    (hf : eff.getLsbD l = true → f l = f' l) : predAfter s h eff n f l = predAfter s h eff n f' l := by
  unfold predAfter
  by_cases he : eff = 0
  · simp [he]
  · simp only [he, if_false]
    by_cases hl : eff.getLsbD l = true
    · simp only [hl, if_true, hf hl]
    · simp only [hl, Bool.false_eq_true, if_false]

/-- One predicate, and flags. -/
theorem gives_pred {s : State} {h : Here} {c : RegClaim} {d : PReg} {val : Nat → Bool} {m : Mask} (hh : s.here h.u = some h)
    (hv : c.vecs = []) (hp : c.pred = some (d, val)) (hs : c.scal = none)
    (hm : ∀ l < h.k.grant, (effective h c.guard).getLsbD l = true → m.getLsbD l = val l) :
    Gives s h c (((s.writePred h.u d.toNat (effective h c.guard) m).addFlags h.u c.flags).retire h.u) := by
  obtain ⟨y, g, w⟩ := (Going.start hh).writePred d.toNat (effective h c.guard) m
  refine (g.addFlags c.flags).retire c ?_ ?_ ?_ (by rw [← w.flags])
  · exact ⟨by simp [hv], by simp [hv], fun q _ => w.vecs q⟩
  · refine ⟨?_, ?_, fun n hn => ?_⟩
    · simp only [hp, Option.mem_def, Option.some.injEq, forall_eq']
      intro hd l hl
      have hd' : d.toNat ≠ 7 := fun e => hd (BitVec.eq_of_toNat_eq e)
      rw [← predAfter_congr s h _ _ l fun he => hm l hl he]
      exact w.lanes hd' l
    · simp only [hp, Option.mem_def, Option.some.injEq, forall_eq']
      exact w.full
    · simp only [hp, Option.mem_def, Option.some.injEq, forall_eq'] at hn
      exact w.others n hn
  · exact ⟨by simp [hs], fun n _ => w.scals n⟩

theorem gives_pred_plain {s : State} {h : Here} {c : RegClaim} {d : PReg} {val : Nat → Bool} {m : Mask} (hh : s.here h.u = some h)
    (hv : c.vecs = []) (hp : c.pred = some (d, val)) (hs : c.scal = none)
    (hm : ∀ l < h.k.grant, (effective h c.guard).getLsbD l = true → m.getLsbD l = val l) (hf : c.flags = 0) :
    Gives s h c ((s.writePred h.u d.toNat (effective h c.guard) m).retire h.u) := by
  have := gives_pred hh hv hp hs hm
  rwa [hf, addFlags_zero] at this

/-- One scalar, and flags. -/
theorem gives_scal {s : State} {h : Here} {c : RegClaim} {d : SReg} {v : DWord} (hh : s.here h.u = some h)
    (hv : c.vecs = []) (hp : c.pred = none) (hs : c.scal = some (d, v)) :
    Gives s h c (((s.writeScal h.u d.toNat v).addFlags h.u c.flags).retire h.u) := by
  obtain ⟨y, g, w⟩ := (Going.start hh).writeScal d.toNat v
  refine (g.addFlags c.flags).retire c ?_ ?_ ?_ (by rw [← w.flags])
  · exact ⟨by simp [hv], by simp [hv], fun q _ => w.vecs q⟩
  · exact ⟨by simp [hp], by simp [hp], fun n _ => w.preds n⟩
  · refine ⟨?_, fun n hn => ?_⟩
    · simp only [hs, Option.mem_def, Option.some.injEq, forall_eq']
      refine ⟨w.val.trans ?_, w.full⟩
      have : d.toNat = 0 ↔ d = 0 := ⟨fun e => BitVec.eq_of_toNat_eq e, fun e => by rw [e]; rfl⟩
      simp only [this]
    · simp only [hs, Option.mem_def, Option.some.injEq, forall_eq'] at hn
      exact w.others n hn

theorem gives_scal_plain {s : State} {h : Here} {c : RegClaim} {d : SReg} {v : DWord} (hh : s.here h.u = some h)
    (hv : c.vecs = []) (hp : c.pred = none) (hs : c.scal = some (d, v)) (hf : c.flags = 0) :
    Gives s h c ((s.writeScal h.u d.toNat v).retire h.u) := by
  have := gives_scal hh hv hp hs
  rwa [hf, addFlags_zero] at this

/-- A vector register and a predicate (SHFL). -/
theorem gives_vec_pred {s : State} {h : Here} {c : RegClaim} {r : Nat} {val : Nat → Word} {d : PReg} {b : Nat → Bool} {m : Mask}
    (hh : s.here h.u = some h) (hv : c.vecs = [(r, val)]) (hp : c.pred = some (d, b)) (hs : c.scal = none) (hf : c.flags = 0)
    (hm : ∀ l < h.k.grant, (effective h c.guard).getLsbD l = true → m.getLsbD l = b l) :
    Gives s h c (((s.writeVec h.u r (effective h c.guard) val).writePred h.u d.toNat (effective h c.guard) m).retire h.u) := by
  obtain ⟨y, g, w⟩ := (Going.start hh).writeVec r (effective h c.guard) val
  obtain ⟨z, g', w'⟩ := g.writePred d.toNat (effective h c.guard) m
  have hpa : ∀ l f, predAfter s y (effective h c.guard) d.toNat f l = predAfter s h (effective h c.guard) d.toNat f l := by
    intro l f
    unfold predAfter
    rw [(w.preds d.toNat).1, (w.preds d.toNat).2, g.u, g.knotNum]
  refine g'.retire c ?_ ?_ ?_ (by rw [w'.flags, w.flags, hf]; simp)
  · refine ⟨?_, ?_, fun q hq => ?_⟩
    · simp only [hv, List.mem_singleton, forall_eq]
      intro l hl
      unfold Knot.lane
      rw [(w'.vecs r).1]
      refine (w.lanes l hl).trans ?_
      unfold laneAfter
      split <;> simp_all
    · simp only [hv, List.mem_singleton, forall_eq]
      exact fun he => (w'.vecs r).2.trans (w.full he)
    · simp only [hv, List.mem_singleton, forall_eq] at hq
      exact ⟨(w'.vecs q).1.trans (w.others q hq).1, (w'.vecs q).2.trans (w.others q hq).2⟩
  · refine ⟨?_, ?_, fun n hn => ?_⟩
    · simp only [hp, Option.mem_def, Option.some.injEq, forall_eq']
      intro hd l hl
      have hd' : d.toNat ≠ 7 := fun e => hd (BitVec.eq_of_toNat_eq e)
      rw [← predAfter_congr s h _ _ l fun he => hm l hl he, ← hpa]
      exact w'.lanes hd' l
    · simp only [hp, Option.mem_def, Option.some.injEq, forall_eq']
      exact w'.full
    · simp only [hp, Option.mem_def, Option.some.injEq, forall_eq'] at hn
      exact ⟨(w'.others n hn).1.trans (w.preds n).1, (w'.others n hn).2.trans (w.preds n).2⟩
  · exact ⟨by simp [hs], fun n _ => ⟨(w'.scals n).1.trans (w.scals n).1, (w'.scals n).2.trans (w.scals n).2⟩⟩

/-- A lane of the mask of the effective lanes at which a condition holds. -/
theorem maskWhere_lane (eff : Mask) (grant : Nat) (f : Nat → Bool) {l : Nat} (hl : l < grant) (he : eff.getLsbD l = true) :
    (maskWhere eff grant f).getLsbD l = f l := by
  have hl2 : l < 1024 := by
    apply Decidable.byContradiction
    intro hn
    rw [BitVec.getLsbD_of_ge _ l (by omega)] at he
    cases he
  have key : ∀ (ls : List Nat) (m : Mask), (ls.foldl (fun m l => m ||| (1#1024 <<< l)) m).getLsbD l =
      (m.getLsbD l || decide (l ∈ ls)) := by
    intro ls
    induction ls with
    | nil => simp
    | cons a ls ih =>
      intro m
      rw [List.foldl_cons, ih, BitVec.getLsbD_or, BitVec.getLsbD_shiftLeft]
      by_cases hal : l = a
      · subst hal; simp [hl2]
      · have : (1#1024).getLsbD (l - a) = decide (l = a) ∨ l < a := by
          by_cases hlt : l < a
          · exact .inr hlt
          · left
            simp only [BitVec.getLsbD_one, hal, decide_false]
            have : l - a ≠ 0 := by omega
            simp [this]
        rcases this with h1 | h1
        · simp [h1, hal]
        · simp [h1, hal]
  unfold maskWhere maskOf lanesOf
  rw [key]
  simp [hl, he]

end Sys2Proof.Claims
end

