-- ==== Sys2Proof/Laws/Control.lean ====
section
/-! SUPPORT. How one instruction of a path ends, in the terms of Sys2Proof.Claims: a next state of its own, a trap, a wait, a jump. -/
namespace Sys2Proof.Claims
open Sys2Proof.Machine

/-- An instruction whose body answers a next state. -/
theorem exec_of_ok {s : State} {h : Here} {f : InstrForm} (ha : Admits s h.u h f) {i : Instr} {body : State → Here → Res State}
    {mb : State → MHere → MRes State} {never : Bool} {t : State} (hi : exec i s = agentRun f never body mb s) (hn : never = false)
    (hb : body s h = .ok t) : exec i s = .next t := by
  rw [hi, agentRun_path ha.cur ha.here, pathRun_ok ha hn hb]

/-- An instruction whose body traps. -/
theorem exec_of_trap {s t : State} {h : Here} {f : InstrForm} (ha : Admits s h.u h f) {i : Instr} {body : State → Here → Res State}
    {mb : State → MHere → MRes State} {never : Bool} {x : Trap} (hi : exec i s = agentRun f never body mb s) (hn : never = false)
    (hb : body s h = .error (.trap x t)) : exec i s = .next (t.takeTrap h.u x) := by
  rw [hi, agentRun_path ha.cur ha.here, pathRun_trap ha hn hb]

/-- An instruction whose body waits. -/
theorem exec_of_wait {s t : State} {h : Here} {f : InstrForm} (ha : Admits s h.u h f) {i : Instr} {body : State → Here → Res State}
    {mb : State → MHere → MRes State} {never : Bool} {w : Wait} (hi : exec i s = agentRun f never body mb s) (hn : never = false)
    (hb : body s h = .error (.wait w t)) : exec i s = .next (t.block h.u w) := by
  rw [hi, agentRun_path ha.cur ha.here, pathRun_wait ha hn hb]

/-- An instruction under the never-guard, whatever is left to perform. -/
theorem exec_of_never {s : State} {h : Here} {f : InstrForm} (hc : s.cur = .path h.u) (hh : s.here h.u = some h) (hd : decodeTrap s h f = none) {i : Instr} {body : State → Here → Res State}
    {mb : State → MHere → MRes State} {never : Bool} (hi : exec i s = agentRun f never body mb s) (hn : never = true) :
    exec i s = .next (s.retire h.u) := by
  rw [hi, agentRun_path hc hh, hn, pathRun_never hd]

/-- A jump completes an instruction (R178). -/
theorem jump_completes {s : State} {h : Here} (hh : s.here h.u = some h) (pc fn) : Completes s (s.jump h.u pc fn) h h.p (goesTo h.p.ctx pc fn) h.k := by
  refine ⟨_, State.here_jump hh pc fn, ?_, ?_, ?_, ?_, ?_, State.sameRest_jump .., ?_⟩
  · rfl
  · exact ⟨rfl,rfl,rfl,rfl,rfl,rfl,rfl⟩
  · rfl
  · rfl
  · rfl
  · intro key a; rfl

/-- The next word completes an instruction (R114). -/
theorem retire_completes {s : State} {h : Here} (hh : s.here h.u = some h) : Completes s (s.retire h.u) h h.p (nextWord h.p.ctx) h.k := by
  refine ⟨_, State.here_retire hh, ?_, ?_, ?_, ?_, ?_, State.sameRest_retire .., ?_⟩
  · rfl
  · exact ⟨rfl,rfl,rfl,rfl,rfl,rfl,rfl⟩
  · rfl
  · rfl
  · rfl
  · intro key a; rfl

/-- R30 at a migration point. -/
theorem here_applyDeath {s : State} {h : Here} (hh : s.here h.u = some h) (c : Carried) :
   (s.applyDeath h.u c).here h.u = some { h with p := h.p.die c } := State.here_modPath hh rfl

theorem applyEntry_eq {s : State} {h : Here} (hh : s.here h.u = some h) :
   applyEntry s h = (s.applyDeath h.u (carriedSet s.heap h.p.ctx), { h with p := carriedOnly s h }) := by
  unfold applyEntry
  simp only [here_applyDeath hh]
  rfl

/-- The target of a branch (R122). -/
theorem target_eq (pc o) : branchTarget pc o = targetOf pc o := by
  unfold branchTarget targetOf
  rw [BitVec.mul_comm]

/-- A call completes (R183). -/
theorem call_completes {s : State} {h : Here} (hh : s.here h.u = some h) (f : BitVec 5) (target : Pc) (fn) :
  Completes s ((((applyEntry s h).1.modCtx h.u fun c => c.push f.toNat)).jump h.u target fn) h (carriedOnly s h) (goesTo (called (carriedOnly s h).ctx f) target fn) h.k := by
  rw [applyEntry_eq hh]
  have h1 := here_applyDeath hh (carriedSet s.heap h.p.ctx)
  have h2 : (((s.applyDeath h.u (carriedSet s.heap h.p.ctx)).modCtx h.u fun c => c.push f.toNat)).here h.u = some { u := h.u, p := { carriedOnly s h with ctx := (carriedOnly s h).ctx.push f.toNat }, k := h.k } := State.here_modPath h1 rfl
  refine ⟨_, State.here_jump h2 target fn, ?_, ?_, rfl, rfl, rfl, ?_, ?_⟩
  · rfl
  · exact ⟨rfl,rfl,rfl,rfl,rfl,rfl,rfl⟩
  · exact ((State.sameRest_modPath ..).trans (State.sameRest_modPath ..)).trans (State.sameRest_jump ..)
  · intro key a; rfl

theorem callKnot_ok {s : State} {h : Here} (f : BitVec 5) (target entry : Pc) (hw : h.p.ctx.base + f.toNat + 32 ≤ h.k.alloc) :
  callKnot s h f target entry =
    .ok ((((applyEntry s h).1.modCtx h.u fun c => c.push f.toNat)).jump h.u target (s.heap.callee entry)) := by
  unfold callKnot
  rw [if_neg (by omega)]

theorem high_word (v : DWord) : v.extractLsb' 32 32 ≠ 0 ↔ 2^32 ≤ v.toNat := by
  have : (v.extractLsb' 32 32).toNat = v.toNat / 2^32 := by
    simp only [BitVec.extractLsb'_toNat, Nat.shiftRight_eq_div_pow]
    exact Nat.mod_eq_of_lt (by have := v.isLt; omega)
  rw [ne_eq, ← BitVec.toNat_inj, this]
  simp

/-- The FENCE of a path whose post table is drained and not faulted lets it go on. -/
theorem fence_ok {h : Here} (hf : Fenced h) (s : State) (p : Path) (hp : p.ctx.posts = h.p.ctx.posts) (hs : p.super = h.p.super) :
    fence s { h with p := p } = .ok () := by
  have h1 : (p.ctx.posts.any fun e => e.valid && decide (0 < e.outst)) = false := by
    rw [hp, List.any_eq_false]
    intro e he
    by_cases hv : e.valid = true <;> simp [hv]
    exact (hf e he hv).1
  have h2 : (!p.super && p.ctx.posts.any fun e => e.valid && e.faulted) = false := by
    rw [hp, hs]
    cases hu : h.p.super
    · have : (h.p.ctx.posts.any fun e => e.valid && e.faulted) = false := by
        rw [List.any_eq_false]
        intro e he
        by_cases hv : e.valid = true
        · have := (hf e he hv).2
          simp_all
        · simp [hv]
      simp [this]
    · simp
  unfold fence
  simp only [h1, h2]
  rfl

/-- A path may leave once no register that it carries is empty or fault-pending. -/
theorem carriedReady_ok (s : State) (p : Path) (rs : List RegName) (h : ∀ r ∈ rs, p.ctx.stateOf r ≠ .empty ∧ p.ctx.stateOf r ≠ .pending) :
    carriedReady s p rs = .ok () := by
  induction rs with
  | nil => rfl
  | cons r rs ih =>
    have := h r (by simp)
    unfold carriedReady
    cases hs : p.ctx.stateOf r <;> simp_all

end Sys2Proof.Claims
end

