-- ==== Sys2Proof/Laws/Memory.lean ====
section
/-! SUPPORT. Memory, one byte at a time: what reads after writes give, and that each operation keeps the canonical form. -/
namespace Sys2Proof.Machine

@[simp] theorem MemSt.setStored_keys (m : MemSt) (a : Nat) (b : Byte) : (m.setStored a b).keys = m.keys := by
  unfold MemSt.setStored; split <;> rfl
@[simp] theorem MemSt.setStored_lines (m : MemSt) (a : Nat) (b : Byte) : (m.setStored a b).lines = m.lines := by
  unfold MemSt.setStored; split <;> rfl
@[simp] theorem MemSt.setStored_areas (m : MemSt) (a : Nat) (b : Byte) : (m.setStored a b).areas = m.areas := by
  unfold MemSt.setStored; split <;> rfl
@[simp] theorem MemSt.setStored_refs (m : MemSt) (a : Nat) (b : Byte) : (m.setStored a b).refs = m.refs := by
  unfold MemSt.setStored; split <;> rfl
@[simp] theorem MemSt.setStored_poison (m : MemSt) (a : Nat) (b : Byte) : (m.setStored a b).poison = m.poison := by
  unfold MemSt.setStored; split <;> rfl
@[simp] theorem MemSt.setStored_shared (m : MemSt) (a : Nat) (b : Byte) : (m.setStored a b).shared = m.shared := by
  unfold MemSt.setStored; split <;> rfl
@[simp] theorem MemSt.setStored_tlb (m : MemSt) (a : Nat) (b : Byte) : (m.setStored a b).tlb = m.tlb := by
  unfold MemSt.setStored; split <;> rfl

/-- The parts of the canonical form. -/
theorem MemSt.wf_iff {m : MemSt} : m.wf = true ↔
    cellsWf m.bytes = true ∧ cellsWf m.zone = true ∧ spRising none m.keys = true ∧ spRising none m.areas = true ∧
      spRising none m.lines = true ∧ spRising none m.refs = true := by
  unfold MemSt.wf
  simp only [Bool.and_eq_true, and_assoc]

theorem cellsWf_rising {m : List Host.Cell} (h : cellsWf m = true) : spRising none m = true := by
  unfold cellsWf at h
  exact (Bool.and_eq_true _ _ ▸ h).1

/-- Whether the host holds a modified line over a byte: it answers reads of the byte (R327). -/
abbrev MemSt.lineFree (m : MemSt) (a : Nat) : Prop := zoneBase ≤ a ∨ spFind (a / 64) m.lines = none

/-- The stored contents after a byte is stored. -/
theorem MemSt.stored_setStored {m : MemSt} (hw : m.wf = true) (a x : Nat) (b : Byte) :
    (m.setStored a b).stored x = if x = a ∧ m.lineFree a then b else m.stored x := by
  obtain ⟨h1, h2, -⟩ := MemSt.wf_iff.mp hw
  have h1 := cellsWf_rising h1
  have h2 := cellsWf_rising h2
  unfold MemSt.stored MemSt.setStored MemSt.lineFree
  by_cases ha : zoneBase ≤ a
  · simp only [ha, if_true, true_or, and_true]
    by_cases hx : zoneBase ≤ x
    · simp only [hx, if_true, cellGet_cellSet _ _ _ _ h2]
      by_cases he : x = a
      · simp [he]
      · have : x - zoneBase ≠ a - zoneBase := by omega
        simp [he, this]
    · have : x ≠ a := by omega
      simp [hx, this]
  · simp only [ha, if_false, false_or]
    by_cases hx : zoneBase ≤ x
    · have : x ≠ a := by omega
      simp [hx, this]
    · simp only [hx, if_false]
      by_cases he : x = a
      · subst he
        cases h : spFind (x / 64) m.lines with
        | none => simp [cellGet_cellSet _ _ _ _ h1]
        | some l => simp
      · cases h : spFind (x / 64) m.lines with
        | none => simp [cellGet_cellSet _ _ _ _ h1, he]
        | some l => simp [he]

/-- The key that a byte is stored under after a byte is stored under a key. -/
theorem MemSt.keyOf_tagged {m : MemSt} (hw : m.wf = true) (a x : Nat) (k : Config.KeyId) :
    ({ m with keys := m.tagged a k } : MemSt).keyOf x = if x = a then k else m.keyOf x := by
  obtain ⟨-, -, h, -⟩ := MemSt.wf_iff.mp hw
  unfold MemSt.keyOf MemSt.tagged
  split
  · next hk =>
    by_cases hx : x = a
    · subst hx; simp [spFind_spDrop_same _ h, hk]
    · simp [hx, spFind_spDrop_ne hx h]
  · by_cases hx : x = a
    · subst hx; simp
    · simp [hx, spFind_spPut_ne hx]

@[simp] theorem MemSt.stored_keys (m : MemSt) (ks : Sparse Config.KeyId) (x : Nat) :
    ({ m with keys := ks } : MemSt).stored x = m.stored x := rfl

theorem MemSt.keyOf_keys (m n : MemSt) (ks : Sparse Config.KeyId) (x : Nat) :
    ({ m with keys := ks } : MemSt).keyOf x = ({ n with keys := ks } : MemSt).keyOf x := rfl

@[simp] theorem MemSt.keyOf_setStored (m : MemSt) (a x : Nat) (b : Byte) : (m.setStored a b).keyOf x = m.keyOf x := by
  unfold MemSt.keyOf; rw [MemSt.setStored_keys]

/-- Storing a byte keeps the canonical form. -/
theorem MemSt.wf_setStored {m : MemSt} (h : m.wf = true) (a : Nat) (b : Byte) : (m.setStored a b).wf = true := by
  obtain ⟨h1, h2, h3, h4, h5, h6⟩ := MemSt.wf_iff.mp h
  refine MemSt.wf_iff.mpr ⟨?_, ?_, by simpa, by simpa, by simpa, by simpa⟩
  · unfold MemSt.setStored; split
    · exact h1
    · exact cellsWf_cellSet _ _ _ h1
  · unfold MemSt.setStored; split
    · exact cellsWf_cellSet _ _ _ h2
    · exact h2

theorem spRising_tagged {m : MemSt} (h : spRising none m.keys = true) (a : Nat) (k : Config.KeyId) :
    spRising none (m.tagged a k) = true := by
  unfold MemSt.tagged; split
  · exact spRising_spDrop _ h
  · exact spRising_spPut _ _ h (by intro l hl; cases hl)

/-- Writing a byte keeps the canonical form. -/
theorem MemSt.wf_writeByte {m : MemSt} (h : m.wf = true) (key : Option Config.KeyId) (a : Nat) (b : Byte) :
    (m.writeByte key a b).wf = true := by
  have hs := m.wf_setStored h a b
  cases key with
  | none => exact hs
  | some k =>
    obtain ⟨h1, h2, -, h4, h5, h6⟩ := MemSt.wf_iff.mp hs
    exact MemSt.wf_iff.mpr ⟨h1, h2, spRising_tagged (MemSt.wf_iff.mp h).2.2.1 a k, h4, h5, h6⟩

/-- Writing bytes keeps the canonical form. -/
theorem MemSt.wf_writeBytes (key : Option Config.KeyId) (bs : List Byte) : ∀ {m : MemSt}, m.wf = true → ∀ a, (m.writeBytes key a bs).wf = true := by
  induction bs with
  | nil => intro m h a; exact h
  | cons b bs ih => intro m h a; exact ih (MemSt.wf_writeByte h key a b) (a + 1)

@[simp] theorem MemSt.writeByte_lines (m : MemSt) (key : Option Config.KeyId) (a : Nat) (b : Byte) :
    (m.writeByte key a b).lines = m.lines := by cases key <;> simp [MemSt.writeByte]
@[simp] theorem MemSt.writeByte_areas (m : MemSt) (key : Option Config.KeyId) (a : Nat) (b : Byte) :
    (m.writeByte key a b).areas = m.areas := by cases key <;> simp [MemSt.writeByte]
@[simp] theorem MemSt.writeByte_refs (m : MemSt) (key : Option Config.KeyId) (a : Nat) (b : Byte) :
    (m.writeByte key a b).refs = m.refs := by cases key <;> simp [MemSt.writeByte]
@[simp] theorem MemSt.writeByte_poison (m : MemSt) (key : Option Config.KeyId) (a : Nat) (b : Byte) :
    (m.writeByte key a b).poison = m.poison := by cases key <;> simp [MemSt.writeByte]
@[simp] theorem MemSt.writeByte_shared (m : MemSt) (key : Option Config.KeyId) (a : Nat) (b : Byte) :
    (m.writeByte key a b).shared = m.shared := by cases key <;> simp [MemSt.writeByte]
@[simp] theorem MemSt.writeByte_tlb (m : MemSt) (key : Option Config.KeyId) (a : Nat) (b : Byte) :
    (m.writeByte key a b).tlb = m.tlb := by cases key <;> simp [MemSt.writeByte]

@[simp] theorem MemSt.writeBytes_lines (key : Option Config.KeyId) (bs : List Byte) : ∀ (m : MemSt) (a : Nat),
    (m.writeBytes key a bs).lines = m.lines := by
  induction bs with
  | nil => intro m a; rfl
  | cons b bs ih => intro m a; simp [MemSt.writeBytes, ih]
@[simp] theorem MemSt.writeBytes_areas (key : Option Config.KeyId) (bs : List Byte) : ∀ (m : MemSt) (a : Nat),
    (m.writeBytes key a bs).areas = m.areas := by
  induction bs with
  | nil => intro m a; rfl
  | cons b bs ih => intro m a; simp [MemSt.writeBytes, ih]
@[simp] theorem MemSt.writeBytes_refs (key : Option Config.KeyId) (bs : List Byte) : ∀ (m : MemSt) (a : Nat),
    (m.writeBytes key a bs).refs = m.refs := by
  induction bs with
  | nil => intro m a; rfl
  | cons b bs ih => intro m a; simp [MemSt.writeBytes, ih]
@[simp] theorem MemSt.writeBytes_poison (key : Option Config.KeyId) (bs : List Byte) : ∀ (m : MemSt) (a : Nat),
    (m.writeBytes key a bs).poison = m.poison := by
  induction bs with
  | nil => intro m a; rfl
  | cons b bs ih => intro m a; simp [MemSt.writeBytes, ih]
@[simp] theorem MemSt.writeBytes_tlb (key : Option Config.KeyId) (bs : List Byte) : ∀ (m : MemSt) (a : Nat),
    (m.writeBytes key a bs).tlb = m.tlb := by
  induction bs with
  | nil => intro m a; rfl
  | cons b bs ih => intro m a; simp [MemSt.writeBytes, ih]

/-- A write under a slot's key and a read of the byte it wrote. -/
theorem MemSt.readByte_writeByte_same {m : MemSt} (hw : m.wf = true) (key : Option Config.KeyId) (a : Nat) (b : Byte)
    (hl : m.lineFree a) : (m.writeByte key a b).readByte key a = b := by
  have hs := MemSt.stored_setStored hw a a b
  rw [if_pos ⟨rfl, hl⟩] at hs
  cases key with
  | none => exact hs
  | some k =>
    have h1 := (MemSt.keyOf_keys (m.setStored a b) m (m.tagged a k) a).trans (MemSt.keyOf_tagged hw a a k)
    rw [if_pos rfl] at h1
    unfold MemSt.writeByte MemSt.readByte
    simp only [h1, if_true, MemSt.stored_keys, hs]

/-- A byte that two memories hold alike: the same contents under the same key. -/
structure MemSt.SameAt (m n : MemSt) (x : Nat) : Prop where
  stored : n.stored x = m.stored x
  key : n.keyOf x = m.keyOf x

theorem MemSt.SameAt.refl (m : MemSt) (x : Nat) : m.SameAt m x := ⟨rfl, rfl⟩

theorem MemSt.SameAt.trans {m n o : MemSt} {x : Nat} (h : m.SameAt n x) (g : n.SameAt o x) : m.SameAt o x :=
  ⟨g.stored.trans h.stored, g.key.trans h.key⟩

theorem mem_blockOf_self (x : Nat) : x ∈ blockOf x := List.mem_map.mpr ⟨x % 16, List.mem_range.mpr (by omega), by omega⟩

/-- What a byte reads as under the key that it is stored under is what it holds. -/
theorem MemSt.readByte_own (m : MemSt) (x : Nat) : m.readByte (some (m.keyOf x)) x = m.stored x := by
  simp [MemSt.readByte]

/-- Memories that hold a block alike read its bytes alike, under any key. -/
theorem MemSt.readByte_block {m n : MemSt} {x : Nat} (h : ∀ b ∈ blockOf x, m.SameAt n b) (j : Option Config.KeyId) :
    n.readByte j x = m.readByte j x := by
  have hx := h x (mem_blockOf_self x)
  cases j with
  | none => exact hx.stored
  | some j =>
    have e1 : ((blockOf x).all fun a => n.keyOf a == m.keyOf x) = (blockOf x).all fun a => m.keyOf a == m.keyOf x :=
      Bool.eq_iff_iff.mpr (by simp only [List.all_eq_true]; exact ⟨fun g b hb => (h b hb).key ▸ g b hb, fun g b hb => (h b hb).key.symm ▸ g b hb⟩)
    have e2 : (blockOf x).map n.stored = (blockOf x).map m.stored := List.map_congr_left fun b hb => (h b hb).stored
    unfold MemSt.readByte
    simp only [hx.key, hx.stored, e1, e2]

/-- Memories that hold all but some bytes alike. -/
theorem MemSt.sameBut_of {m n : MemSt} {P : Nat → Prop} (h : ∀ a, ¬P a → m.SameAt n a) : m.SameBut n P where
  key a ha := (h a ha).key
  stored a ha := (h a ha).stored
  own a ha := by
    have e := MemSt.readByte_own n a
    rw [(h a ha).key] at e
    rw [e, (h a ha).stored, MemSt.readByte_own]
  block j _ hb := MemSt.readByte_block (fun b hm => h b (hb b hm)) j

/-- A write of one byte leaves every other as it was. -/
theorem MemSt.sameAt_writeByte {m : MemSt} (hw : m.wf = true) (key : Option Config.KeyId) {a x : Nat} (b : Byte) (h : x ≠ a) :
    m.SameAt (m.writeByte key a b) x := by
  have hs := MemSt.stored_setStored hw a x b
  rw [if_neg (fun e => h e.1)] at hs
  cases key with
  | none => exact ⟨hs, MemSt.keyOf_setStored m a x b⟩
  | some k =>
    refine ⟨hs, ?_⟩
    have h1 := (MemSt.keyOf_keys (m.setStored a b) m (m.tagged a k) x).trans (MemSt.keyOf_tagged hw a x k)
    rwa [if_neg h] at h1

/-- A write leaves the bytes outside it as they were. -/
theorem MemSt.sameAt_writeBytes (key : Option Config.KeyId) (bs : List Byte) : ∀ {m : MemSt}, m.wf = true →
    ∀ (a x : Nat), x < a ∨ a + bs.length ≤ x → m.SameAt (m.writeBytes key a bs) x := by
  induction bs with
  | nil => intro m _ a x _; exact .refl m x
  | cons b bs ih =>
    intro m h a x hx
    simp only [List.length_cons] at hx
    exact (MemSt.sameAt_writeByte h key b (by omega)).trans (ih (MemSt.wf_writeByte h key a b) (a + 1) x (by omega))

theorem MemSt.sameBut_writeBytes {m : MemSt} (h : m.wf = true) (key : Option Config.KeyId) (a : Nat) (bs : List Byte) :
    m.SameBut (m.writeBytes key a bs) fun x => a ≤ x ∧ x < a + bs.length :=
  MemSt.sameBut_of fun x hx => MemSt.sameAt_writeBytes key bs h a x (by omega)

/-- The key of a byte after a write that covers it. -/
theorem MemSt.keyOf_writeBytes (k : Config.KeyId) : ∀ (bs : List Byte) {m : MemSt}, m.wf = true →
    ∀ (a i : Nat), i < bs.length → (m.writeBytes (some k) a bs).keyOf (a + i) = k := by
  intro bs
  induction bs with
  | nil => intro m _ a i hi; simp at hi
  | cons b bs ih =>
    intro m h a i hi
    have hw := MemSt.wf_writeByte h (some k) a b
    cases i with
    | zero =>
      refine (MemSt.sameAt_writeBytes (some k) bs hw (a + 1) (a + 0) (by omega)).key.trans ?_
      have h1 := (MemSt.keyOf_keys (m.setStored a b) m (m.tagged a k) a).trans (MemSt.keyOf_tagged h a a k)
      rwa [if_pos rfl] at h1
    | succ i =>
      have := ih hw (a + 1) i (by simpa using hi)
      rwa [Nat.add_assoc, Nat.add_comm 1] at this

theorem MemSt.lineFree_writeByte {m : MemSt} (key : Option Config.KeyId) (a : Nat) (b : Byte) {x : Nat} (h : m.lineFree x) :
    (m.writeByte key a b).lineFree x := by
  unfold MemSt.lineFree at *
  simpa using h

/-- A byte of a write reads as written, under the key of the write. -/
theorem MemSt.readByte_writeBytes (key : Option Config.KeyId) (bs : List Byte) : ∀ {m : MemSt}, m.wf = true → ∀ (a i : Nat)
    (b : Byte), bs[i]? = some b → m.lineFree (a + i) → (m.writeBytes key a bs).readByte key (a + i) = b := by
  induction bs with
  | nil => intro m _ a i b hb; simp at hb
  | cons c bs ih =>
    intro m h a i b hb hl
    have hw := MemSt.wf_writeByte h key a c
    cases i with
    | zero =>
      simp only [List.getElem?_cons_zero, Option.some.injEq] at hb
      subst hb
      have same := MemSt.sameAt_writeBytes key bs hw (a + 1) (a + 0) (by omega)
      have first := MemSt.readByte_writeByte_same h key a c hl
      have read : ((m.writeByte key a c).writeBytes key (a + 1) bs).readByte key a = (m.writeByte key a c).readByte key a := by
        cases key with
        | none => exact same.stored
        | some k =>
          have h1 := (MemSt.keyOf_keys (m.setStored a c) m (m.tagged a k) a).trans (MemSt.keyOf_tagged h a a k)
          rw [if_pos rfl] at h1
          have e := (MemSt.sameBut_of (P := fun x => x ≠ a) fun x hx => by
            have : x = a := by simpa using hx
            subst this
            exact same).own a (by simp)
          rwa [show (m.writeByte (some k) a c).keyOf a = k from h1] at e
      exact read.trans first
    | succ i =>
      have := ih hw (a + 1) i b (by simpa using hb) (MemSt.lineFree_writeByte key a c (by rwa [Nat.add_assoc, Nat.add_comm 1]))
      rwa [Nat.add_assoc, Nat.add_comm 1] at this

/-- The bytes of a write read back. -/
theorem MemSt.read_writeBytes {m : MemSt} (h : m.wf = true) (key : Option Config.KeyId) (a : Nat) (bs : List Byte)
    (hl : ∀ i < bs.length, m.lineFree (a + i)) : (m.writeBytes key a bs).read key a bs.length = bs := by
  unfold MemSt.read
  apply List.ext_getElem (by simp)
  intro i h1 h2
  simp only [List.getElem_map, List.getElem_range]
  exact MemSt.readByte_writeBytes key bs h a i bs[i] (List.getElem?_eq_getElem h2) (hl i h2)

/-- The lines of a range are those of its bytes. -/
theorem mem_linesOf {a n i : Nat} (h : i < n) : (a + i) / 64 ∈ linesOf a n := by
  unfold linesOf
  rw [if_neg (by omega)]
  refine List.mem_map.mpr ⟨(a + i) / 64 - a / 64, List.mem_range.mpr ?_, ?_⟩ <;> omega

theorem MemSt.wf_heal {m : MemSt} (h : m.wf = true) (a n : Nat) : (m.heal a n).wf = true := h

@[simp] theorem MemSt.heal_readByte (m : MemSt) (a n : Nat) (key : Option Config.KeyId) (x : Nat) :
    (m.heal a n).readByte key x = m.readByte key x := rfl

/-- Recalling a line keeps the canonical form. -/
theorem MemSt.wf_recallLine {m : MemSt} (h : m.wf = true) (key : Option Config.KeyId) (wr : Bool) (line : Nat) :
    (m.recallLine key wr line).wf = true := by
  have h1 : (match spFind line m.lines with
      | some data => { (m.writeBytes key (64 * line) data).heal (64 * line) 64 with lines := spDrop line m.lines }
      | none => m : MemSt).wf = true := by
    split
    · next data _ =>
      obtain ⟨a, b, c, d, -, f⟩ := MemSt.wf_iff.mp (MemSt.wf_writeBytes key data h (64 * line))
      exact MemSt.wf_iff.mpr ⟨a, b, c, d, spRising_spDrop _ (MemSt.wf_iff.mp h).2.2.2.2.1, f⟩
    · exact h
  unfold MemSt.recallLine
  dsimp only
  cases wr
  · exact h1
  · exact h1

theorem foldl_wf {α : Type} (f : MemSt → α → MemSt) (hf : ∀ m x, m.wf = true → (f m x).wf = true) (xs : List α) :
    ∀ {m : MemSt}, m.wf = true → (xs.foldl f m).wf = true := by
  induction xs with
  | nil => intro m h; exact h
  | cons x xs ih => intro m h; exact ih (hf m x h)

/-- A read recalls nothing where the host holds none of its lines modified (R327). -/
theorem State.recall_clean {s : State} {a n : Nat} (h : ∀ l ∈ linesOf a n, spFind l s.mem.lines = none) : s.recall false a n = s := by
  have hf : ∀ (ls : List Nat) (m : MemSt) key, (∀ l ∈ ls, spFind l m.lines = none) →
      ls.foldl (fun m l => m.recallLine key false l) m = m := by
    intro ls
    induction ls with
    | nil => intros; rfl
    | cons l ls ih =>
      intro m key hm
      have h1 : m.recallLine key false l = m := by simp [MemSt.recallLine, hm l (by simp)]
      rw [List.foldl_cons, h1]
      exact ih m key fun x hx => hm x (by simp [hx])
  unfold State.recall
  split
  · rfl
  · rw [hf _ _ _ h]

/-- A walk recalls nothing where the host holds none of the lines of its entries modified (R322, R327). -/
theorem State.walked_clean {s : State} {reads : List Nat} (h : ∀ pa ∈ reads, ∀ l ∈ linesOf pa 8, spFind l s.mem.lines = none) :
    s.walked reads = s := by
  induction reads with
  | nil => rfl
  | cons pa reads ih =>
    unfold State.walked
    rw [List.foldl_cons, State.recall_clean (h pa (by simp))]
    exact ih fun x hx => h x (by simp [hx])

/-- A command is read without a recall where the host holds no line modified (R325, R327). -/
theorem State.pullRing_clean {s : State} (m : Nat) (h : s.mem.lines = []) : s.pullRing m = s := by
  have hp : ∀ a n, s.pull a n = s := fun a n => State.recall_clean (by simp [h, spFind])
  unfold State.pullRing
  split
  · rfl
  · simp only [hp]
theorem State.nextCommand_clean {s : State} (m : Nat) (h : s.mem.lines = []) : s.nextCommand m = (s.command m).map fun c => (c, s) := by
  rw [State.nextCommand, State.pullRing_clean m h]

/-- The recalls of an access keep the canonical form. -/
theorem State.wf_recall {s : State} (h : s.mem.wf = true) (wr : Bool) (a n : Nat) : (s.recall wr a n).mem.wf = true := by
  unfold State.recall
  split
  · exact h
  · exact foldl_wf _ (fun m l hm => MemSt.wf_recallLine hm _ _ _) _ h

/-- A device write keeps the canonical form. -/
theorem State.wf_writeMem {s : State} (h : s.mem.wf = true) (key : Option Nat) (a : Nat) (bs : List Byte) :
    (s.writeMem key a bs).mem.wf = true :=
  MemSt.wf_heal (MemSt.wf_writeBytes (s.keyFor key a) bs (State.wf_recall h true a bs.length) a) a bs.length

theorem State.wf_writeRaw {s : State} (h : s.mem.wf = true) (a : Nat) (bs : List Byte) : (s.writeRaw a bs).mem.wf = true :=
  State.wf_writeMem h _ a bs

/-- Where the host holds no modified line over a range, recalling lines changes no byte and no line. -/
theorem State.recall_clear {s : State} {a n : Nat} (h : ∀ l ∈ linesOf a n, spFind l s.mem.lines = none) (wr : Bool) :
    (∀ x, s.mem.SameAt (s.recall wr a n).mem x) ∧ (s.recall wr a n).mem.lines = s.mem.lines := by
  have hg : ∀ (ls : List Nat) (m : MemSt) (k : Option Config.KeyId), (∀ l ∈ ls, spFind l m.lines = none) →
      (∀ x, m.SameAt (ls.foldl (fun m l => m.recallLine k wr l) m) x) ∧
        (ls.foldl (fun m l => m.recallLine k wr l) m).lines = m.lines := by
    intro ls
    induction ls with
    | nil => intro m k _; exact ⟨fun x => .refl m x, rfl⟩
    | cons l ls ih =>
      intro m k hl
      have h0 := hl l (by simp)
      have e1 : m.recallLine k wr l = (if wr then { m with shared := m.shared.filter (· != l) } else m) := by
        simp [MemSt.recallLine, h0]
      have e2 : ∀ y ∈ ls, spFind y (m.recallLine k wr l).lines = none := by
        intro y hy; rw [e1]; split <;> exact hl y (by simp [hy])
      have e3 : ∀ x, m.SameAt (m.recallLine k wr l) x := by intro x; rw [e1]; split <;> exact ⟨rfl, rfl⟩
      have e4 : (m.recallLine k wr l).lines = m.lines := by rw [e1]; split <;> rfl
      obtain ⟨g1, g2⟩ := ih (m.recallLine k wr l) k e2
      exact ⟨fun x => (e3 x).trans (g1 x), g2.trans e4⟩
  unfold State.recall
  split
  · exact ⟨fun x => .refl s.mem x, rfl⟩
  · exact hg _ _ _ h

@[simp] theorem State.recall_strap (s : State) (wr : Bool) (a n : Nat) : (s.recall wr a n).strap = s.strap := by
  unfold State.recall; split <;> rfl
@[simp] theorem State.recall_modules (s : State) (wr : Bool) (a n : Nat) : (s.recall wr a n).modules = s.modules := by
  unfold State.recall; split <;> rfl
@[simp] theorem State.recall_keyFor (s : State) (wr : Bool) (a n : Nat) (k : Option Nat) (x : Nat) :
    (s.recall wr a n).keyFor k x = s.keyFor k x := by
  have e : (s.recall wr a n).slotKey (homeOf x / 16) = s.slotKey (homeOf x / 16) := by
    funext i; simp [State.slotKey, State.mod]
  rw [State.keyFor, e, ← State.keyFor]

@[simp] theorem State.writeMem_keyFor (s : State) (k : Option Nat) (a : Nat) (bs : List Byte) (j : Option Nat) (x : Nat) :
    (s.writeMem k a bs).keyFor j x = s.keyFor j x := State.recall_keyFor s true a bs.length j x

/-- What a device write leaves, where the host holds no modified line over it. -/
theorem State.readMem_writeMem {s : State} (hw : s.mem.wf = true) (key : Option Nat) (a : Nat) (bs : List Byte)
    (h : ∀ l ∈ linesOf a bs.length, spFind l s.mem.lines = none) : (s.writeMem key a bs).readMem key a bs.length = bs := by
  unfold State.readMem
  rw [State.writeMem_keyFor]
  refine MemSt.read_writeBytes (State.wf_recall hw true a bs.length) _ a bs ?_
  intro i hi
  right
  rw [(State.recall_clear h true).2]
  exact h _ (mem_linesOf hi)

/-- A device write leaves the bytes outside it as they were, where the host holds no modified line over it. -/
theorem State.sameAt_writeMem {s : State} (hw : s.mem.wf = true) (key : Option Nat) (a x : Nat) (bs : List Byte)
    (h : ∀ l ∈ linesOf a bs.length, spFind l s.mem.lines = none) (hx : x < a ∨ a + bs.length ≤ x) :
    s.mem.SameAt (s.writeMem key a bs).mem x := by
  have h1 := MemSt.sameAt_writeBytes (s.keyFor key a) bs (State.wf_recall hw true a bs.length) a x hx
  exact ((State.recall_clear h true).1 x).trans ⟨h1.stored, h1.key⟩

theorem State.sameBut_writeMem {s : State} (hw : s.mem.wf = true) (key : Option Nat) (a : Nat) (bs : List Byte)
    (h : ∀ l ∈ linesOf a bs.length, spFind l s.mem.lines = none) :
    s.mem.SameBut (s.writeMem key a bs).mem fun x => a ≤ x ∧ x < a + bs.length :=
  MemSt.sameBut_of fun x hx => State.sameAt_writeMem hw key a x bs h (by omega)

end Sys2Proof.Machine
end

