-- ==== Sys2Proof/Laws/Access.lean ====
section
/-! SUPPORT. The steps of a memory migration point (R191), each once: what its checks answer and where it ends. -/
namespace Sys2Proof.Claims
open Sys2Proof.Machine

theorem settle_eq {s : State} {h : Here} (hh : s.here h.u = some h) : (settle s h (pondOf s h)).2 = settledAt s h := by
  unfold settle settledAt
  rw [applyEntry_eq hh]
  cases pondOf s h <;> rfl

theorem needCarried_ok (s : State) (p : Path) (c : Carried) (rs : List (RegName × Bool)) (h : ∀ r ∈ rs, c.has r.1 = true) : needCarried s p c rs = .ok () := by
  induction rs with
  | nil => rfl
  | cons a rs ih =>
    obtain ⟨r, e⟩ := a
    have := h (r, e) (by simp)
    simp only at this
    simp only [needCarried, this, if_true]
    exact ih fun r hr => h r (by simp [hr])

theorem needAligned_ok (s : State) (n : Nat) (rs : List (Nat × DWord × List Byte)) (h : ∀ r ∈ rs, r.2.1.toNat % n = 0) : needAligned s n rs = .ok () := by
  induction rs with
  | nil => rfl
  | cons a rs ih =>
    obtain ⟨l, va, d⟩ := a
    have := h (l, va, d) (by simp)
    simp only at this
    simp only [needAligned, this, if_true]
    exact ih fun r hr => h r (by simp [hr])

theorem translateAll_ok (s : State) (h : Here) (n : Nat) (need : Needs) (ls : List LaneAcc)
   (ht : ∀ l ∈ ls, s.translateLane h n need l.va = .ok { pa := l.pa, key := l.key }) :
   s.translateAll h n need (ls.map fun l => (l.lane, l.va, l.data)) = (ls, []) := by
  induction ls with
  | nil => rfl
  | cons a ls ih =>
    have h1 := ht a (by simp)
    simp only [List.map_cons, State.translateAll, ih fun r hr => ht r (by simp [hr]), h1]

/-- Lanes that are all performed at the current stack, those of host memory among them (R62), have one home. -/
theorem homes_ok {h : Here} {ls : List LaneAcc} (hl : ∀ l ∈ ls, partHome h l = h.p.home) (hn : ls ≠ []) :
    homesOf h.p.home ls = [h.p.home] := by
  have : ls.map (fun l => groupHome h.p.home l.pa) = List.replicate ls.length h.p.home := by
    rw [List.eq_replicate_iff]
    refine ⟨by simp, fun b hb => ?_⟩
    obtain ⟨l, hm, rfl⟩ := List.mem_map.mp hb
    exact hl l hm
  unfold homesOf
  rw [this]
  cases ls with
  | nil => exact absurd rfl hn
  | cons a t =>
    simp only [List.length_cons]
    clear this hl hn
    induction t.length with
    | zero => rfl
    | succ n ih => rw [List.replicate_succ, List.dedup_cons_of_mem (by simp [List.replicate_succ]), ih]

/-- An access that nothing at its homes holds up comes after no post outstanding (R75). -/
theorem marksFor_clear {s : State} {h : Here} {op : MemOp} {ls : List LaneAcc} (hc : s.accessClear h op ls = true)
    (ho : op.onCore = false) : s.marksFor h ls = [] := by
  simp only [State.accessClear, ho, Bool.false_or, List.all_eq_true, Bool.and_eq_true] at hc
  unfold State.marksFor
  rw [List.map_eq_nil_iff, List.filter_eq_nil_iff]
  intro e _ he
  simp only [Bool.and_eq_true, List.any_eq_true, beq_iff_eq, Bool.not_eq_true'] at he
  obtain ⟨⟨-, l, hl, e1⟩, e2⟩ := he
  exact absurd (hc l hl).2 (by simp [e1, e2])

theorem checkDests_ok (s : State) (p : Path) (rs : List RegName) (h : ∀ r ∈ rs, p.ctx.stateOf r ≠ .empty) : checkDests s p rs = .ok () := checkDests_ready s p h

/-- The walks of R322 that find their entries change nothing. -/
theorem walkAll_ok {s : State} {h : Here} {vas : List DWord} (hw : Walks s h vas) : walkAll s h vas = .ok s := by
  have h1 : s.walkStalled (s.readsOf h vas) = false := by
    unfold State.walkStalled
    rw [List.any_eq_false]
    intro pa hp
    simp [hw.running pa hp]
  simp [walkAll, h1, State.walked_clean hw.lines]

/-- Steps 2 to 10 of R191 at the current stack: what is left is step 11, which `goHome` answers. -/
theorem pointBody_go {s : State} {h : Here} {g : Guard} {pt : Point} {c : PointClaim} {ls : List LaneAcc} (hg : PointGoes s h c ls)
   (h2 : pt.dest = c.dest) (h3 : pt.size = c.size) (h4 : pt.need = c.need) (h5 : pt.reqs = c.reqs)
   (h6 : pt.pre = none) (h7 : pt.hostTrap = none) (hr : ∀ r ∈ guardSource g :: pt.reads, r.1 ∈ c.reads ∨ r.1 = predName 7) :
   pointBody s h g pt = if ls = [] then .ok ((settledAt s h).retire h.u) else goHome s h pt (pondOf s h) ls := by
  have e1 : needCarried s h.p (carriedSet s.heap h.p.ctx) (guardSource g :: pt.reads) = .ok () := needCarried_ok _ _ _ _ (fun r hm => by
    rcases hr r hm with h | h
    · exact (hg.reads _ h).2
    · rw [h]; simp [Carried.has, predName])
  have e2 : checkSources s h.p (guardSource g :: pt.reads) = .ok () := checkSources_full _ _ (fun r hm => by
    rcases hr r hm with h | h
    · exact (hg.reads _ h).1
    · rw [h]; simp [predName, Ctx.stateOf, Ctx.predState])
  have e3 : needAligned s pt.size pt.reqs = .ok () := by rw [h3, h5]; exact needAligned_ok _ _ _ hg.aligned
  have ew : walkAll s h (pt.reqs.map (·.2.1)) = .ok s := by rw [h5]; exact walkAll_ok hg.walks
  have e4 : s.translateAll h pt.size pt.need pt.reqs = (ls, []) := by rw [h3, h4, h5, ← hg.lanes]; exact translateAll_ok _ _ _ _ _ hg.translated
  have e7 : MapEnt.pond? (s.heap.entryAt h.p.ctx.fn h.p.ctx.pc.toNat) = pondOf s h := rfl
  have e8 : (if h.k.rooted then ls.find? fun l => homeOf l.pa != h.p.home else none) = none := by
    split
    · next hr => rw [List.find?_eq_none]; intro l hl; simp [hg.rooted hr l hl]
    · rfl
  have e9 : awaitCarried s h (carriedSet s.heap h.p.ctx) pt.dest = .ok () := by
    unfold awaitCarried
    apply checkDests_ok
    intro r hm
    rw [h2, List.mem_filter] at hm
    exact hg.dest r hm.1 hm.2
  have hreq : pt.reqs.isEmpty = decide (ls = []) := by rw [h5, ← hg.lanes]; cases ls <;> rfl
  unfold pointBody
  simp only [e1, e2, h6, e3, ew, e4, res_ok_bind, h7, e7, e8, e9, faultTrap, hreq, settle_eq hg.admits.here, decide_eq_true_eq]
  cases hp : pondOf s h with
  | none => rfl
  | some w => simp [hg.pond w hp]

/-- A memory migration point at the current stack whose access is performed at once. -/
theorem pointBody_ok {s : State} {h : Here} {g : Guard} {pt : Point} {c : PointClaim} {ls : List LaneAcc} (hg : PointGoes s h c ls)
   (h1 : pt.op = c.op) (h2 : pt.dest = c.dest) (h3 : pt.size = c.size) (h4 : pt.need = c.need) (h5 : pt.reqs = c.reqs)
   (h6 : pt.pre = none) (h7 : pt.hostTrap = none) (hr : ∀ r ∈ guardSource g :: pt.reads, r.1 ∈ c.reads ∨ r.1 = predName 7)
   (hl : s.late = false ∨ c.op.defers = false) (hu : h.p.unperformed = []) (hls : ls ≠ []) {h1' : Here} {t : State}
   (ht : (settledAt s h).here h.u = some h1')
   (hp : (settledAt s h).perform h1' { op := c.op, dest := c.dest, lanes := ls, group := h.p.groupPc } = some t) :
   pointBody s h g pt = .ok (t.retire h.u) := by
  rw [pointBody_go hg h2 h3 h4 h5 h6 h7 hr, if_neg hls]
  have hd : (s.late && c.op.defers) = false := by rcases hl with e | e <;> simp [e]
  unfold goHome
  simp only [homes_ok hg.home hls, List.length_singleton, Nat.le_refl, if_true, List.headD_cons, h1, h2, hg.clear, Bool.not_true,
    Bool.false_eq_true, if_false, hd, State.settles_none hg.admits.here hu, State.catchUp_none hg.admits.here hu, Bool.or_false, settle_eq hg.admits.here, ht, hp]

/-- One whose access is left to be performed in a later turn (R66). -/
theorem pointBody_late {s : State} {h : Here} {g : Guard} {pt : Point} {c : PointClaim} {ls : List LaneAcc} (hg : PointGoes s h c ls)
   (h1 : pt.op = c.op) (h2 : pt.dest = c.dest) (h3 : pt.size = c.size) (h4 : pt.need = c.need) (h5 : pt.reqs = c.reqs)
   (h6 : pt.pre = none) (h7 : pt.hostTrap = none) (hr : ∀ r ∈ guardSource g :: pt.reads, r.1 ∈ c.reads ∨ r.1 = predName 7)
   (hl : s.late = true) (hd : c.op.defers = true) (ho : c.op.onCore = false) (hls : ls ≠ []) :
   pointBody s h g pt =
     .ok (((settledAt s h).postpone h.u { op := c.op, dest := c.dest, lanes := ls, group := h.p.groupPc }).retire h.u) := by
  rw [pointBody_go hg h2 h3 h4 h5 h6 h7 hr, if_neg hls]
  unfold goHome
  simp only [homes_ok hg.home hls, List.length_singleton, Nat.le_refl, if_true, List.headD_cons, h1, h2, marksFor_clear hg.clear ho, hl, hd, Bool.and_self, settle_eq hg.admits.here]

end Sys2Proof.Claims
end

