-- ==== Sys2Proof/Laws/Canonical.lean ====
section
/-! SUPPORT. The canonical form of memory is kept by the shared operations: landing zones, images, accesses, killing, taking an exception
and returning from one, and one instruction of an agent. -/
namespace Sys2Proof.Machine

/-- Memory is in its canonical form. -/
abbrev State.Canon (s : State) : Prop := s.mem.wf = true

variable {s : State}

theorem State.Canon.of_mem {t : State} (h : s.Canon) (e : t.mem = s.mem) : t.Canon := by
  unfold State.Canon; rw [e]; exact h

theorem foldl_canon {α : Type} (f : State → α → State) (hf : ∀ s x, s.Canon → (f s x).Canon) (xs : List α) :
    ∀ {s : State}, s.Canon → (xs.foldl f s).Canon := by
  induction xs with
  | nil => intro s h; exact h
  | cons x xs ih => intro s h; exact ih (hf s x h)

theorem foldl_mem {α : Type} (f : State → α → State) (hf : ∀ s x, (f s x).mem = s.mem) (xs : List α) :
    ∀ s : State, (xs.foldl f s).mem = s.mem := by
  induction xs with
  | nil => intro s; rfl
  | cons x xs ih => intro s; exact (ih _).trans (hf s x)

@[simp] theorem State.pick_snd_mem (n : Nat) : (s.pick n).2.mem = s.mem := by
  unfold State.pick; split <;> rfl

@[simp] theorem State.fill_mem (s : State) (u : Nat) (f : Flight) : (s.fill u f).mem = s.mem := by
  unfold State.fill
  split
  · rfl
  · dsimp only; split <;> rfl

@[simp] theorem State.send_mem (s : State) (u : Nat) (d : Dest) (f : Fill) : (s.send u d f).mem = s.mem := rfl

@[simp] theorem State.markEmpty_mem (s : State) (u : Nat) (d : Dest) : (s.markEmpty u d).mem = s.mem := by
  unfold State.markEmpty; split
  · rfl
  · split <;> rfl

@[simp] theorem State.haltAll_mem (us : List Nat) : ∀ s : State, (s.haltAll us).mem = s.mem := by
  induction us with
  | nil => intro s; rfl
  | cons u us ih => intro s; exact (ih _).trans rfl

@[simp] theorem State.resumeAll_mem (us : List Nat) : ∀ s : State, (s.resumeAll us).mem = s.mem := by
  induction us with
  | nil => intro s; rfl
  | cons u us ih => intro s; exact (ih _).trans rfl

@[simp] theorem State.addWork_mem (s : State) (home : Nat) (w : Work) : (s.addWork home w).mem = s.mem := rfl
@[simp] theorem State.releaseTask_mem (s : State) (l : Nat) (la : Launch) (n : Nat) (nd : Node) (stamp : DWord)
    (rs : List (List Word)) : (s.releaseTask l la n nd stamp rs).mem = s.mem := rfl
@[simp] theorem State.flushNode_mem (s : State) (l : Nat) (la : Launch) (n : Nat) (nd : Node) : (s.flushNode l la n nd).mem = s.mem :=
  foldl_mem (fun (s : State) (b : Batch) => s.releaseTask l la n nd b.brood b.records) (fun _ _ => rfl) nd.batches s
@[simp] theorem State.flushLaunch_mem (s : State) (l : Nat) : (s.flushLaunch l).mem = s.mem := by
  unfold State.flushLaunch
  split
  · rfl
  · split
    · exact foldl_mem _ (fun s e => State.flushNode_mem s l _ _ _) _ s
    · rfl
@[simp] theorem State.report_mem (s : State) (m q : Nat) (bs : List Byte) : (s.report m q bs).mem = s.mem := rfl
@[simp] theorem State.moveFault_mem (s : State) (c : Nat) (x : TrapCode) (n : Nat) (a : DWord) : (s.moveFault c x n a).mem = s.mem := rfl

@[simp] theorem State.keepSaved_mem (s : State) (u : Nat) : (s.keepSaved u).mem = s.mem := rfl
@[simp] theorem State.rewind_mem (s : State) (u : Nat) : (s.rewind u).mem = s.mem := rfl

theorem State.Canon.recall (h : s.Canon) (wr : Bool) (a n : Nat) : (s.recall wr a n).Canon := State.wf_recall h wr a n

theorem State.Canon.writeMem (h : s.Canon) (key : Option Nat) (a : Nat) (bs : List Byte) : (s.writeMem key a bs).Canon :=
  State.wf_writeMem h key a bs

theorem eachLane_canon {f : State → LaneAcc → State × LaneOut} (hf : ∀ s l, s.Canon → (f s l).1.Canon) (ls : List LaneAcc) :
    ∀ {s : State}, s.Canon → (eachLane f s ls).1.Canon := by
  induction ls with
  | nil => intro s h; exact h
  | cons l ls ih => intro s h; exact ih (hf s l h)

theorem State.Canon.laneLoad (h : s.Canon) (z : MemSize) (l : LaneAcc) : (s.laneLoad z l).1.Canon := h.recall _ _ _

theorem State.Canon.laneAtom (h : s.Canon) (o : AtomOp) (t : AtomType) (l : LaneAcc) : (s.laneAtom o t l).1.Canon := by
  unfold State.laneAtom
  extract_lets s1 bs bad new
  have h1 : s1.Canon := h.recall false l.pa t.bytes
  clear_value s1 bs bad new
  cases bad
  · exact State.Canon.writeMem h1 l.key l.pa new
  · exact h1

/-- The lanes of a load, store or atomic keep memory canonical. -/
theorem State.Canon.memLanes (h : s.Canon) {op : MemOp} {scal : Bool} {ls : List LaneAcc} {r : State × List LaneOut}
    (e : s.memLanes op scal ls = some r) : r.1.Canon := by
  unfold State.memLanes at e
  split at e
  · next z =>
    split at e
    · rw [← Option.some.inj e]
      refine eachLane_canon (fun s l hs => ?_) ls h
      show (s.laneLoad z l).1.Canon
      exact State.Canon.laneLoad hs z l
    · rw [← Option.some.inj e]
      exact eachLane_canon (fun s l hs => State.Canon.laneLoad hs z l) ls h
  · next z =>
    rw [← Option.some.inj e]
    exact foldl_canon _ (fun s l hs => State.Canon.writeMem hs l.key l.pa (l.data.take z.bytes)) ls h
  · next o t =>
    rw [← Option.some.inj e]
    exact eachLane_canon (fun s l hs => State.Canon.laneAtom hs o t l) ls h
  · cases e

theorem State.Canon.placeGood (h : s.Canon) (kn : Nat) (a : Access) (d : Dest) (os : List LaneOut) : (s.placeGood kn a d os).Canon := by
  unfold State.placeGood
  split
  · exact h
  · exact h

theorem State.Canon.walked (h : s.Canon) (reads : List Nat) : (s.walked reads).Canon :=
  foldl_canon _ (fun s pa hs => hs.recall false pa 8) reads h

theorem State.Canon.chainPull (h : s.Canon) (key : Option Nat) (pa : Nat) : (s.chainPull key pa).Canon := (h.recall _ _ _).recall _ _ _

/-- Memory with other reference counts whose pages rise is canonical. -/
theorem State.Canon.setRefs (h : s.Canon) (page n : Nat) : (s.setRefs page n).Canon := by
  obtain ⟨a, b, c, d, e, f⟩ := MemSt.wf_iff.mp h
  refine MemSt.wf_iff.mpr ⟨a, b, c, d, e, ?_⟩
  show spRising none (if n = 0 then _ else _) = true
  split
  · exact spRising_spDrop _ f
  · exact spRising_spPut _ _ f (by intro l hl; cases hl)

theorem State.takePage_mem {home p : Nat} {t : State} (e : s.takePage home = some (p, t)) : t.mem = s.mem := by
  unfold State.takePage at e
  split at e
  · cases e
  · cases e; rfl

theorem State.Canon.chainNew (h : s.Canon) {home : Nat} {keyOf : Nat → Option Nat} {stamp : DWord} {r : Nat × State}
    (e : s.chainNew home keyOf stamp = some r) : r.2.Canon := by
  unfold State.chainNew at e
  split at e
  · cases e
  · next ht =>
    cases e
    exact State.Canon.writeMem (h.of_mem (State.takePage_mem ht)) _ _ _

theorem State.Canon.chainFork (h : s.Canon) {home pa : Nat} {key : Option Nat} {stamp : DWord} {r : Nat × State}
    (e : s.chainFork home key pa stamp = some r) : r.2.Canon := by
  unfold State.chainFork at e
  extract_lets s1 d pages at e
  have h1 : s1.Canon := h.chainPull key pa
  clear_value s1 d pages
  split at e
  · cases e
  · split at e
    · cases e
    · next ht =>
      cases e
      exact State.Canon.writeMem (foldl_canon _ (fun s q hs => hs.setRefs _ _) pages (h1.of_mem (State.takePage_mem ht))) _ _ _

theorem State.Canon.chainRelease (h : s.Canon) (home : Nat) (key : Option Nat) (pa : Nat) : (s.chainRelease home key pa).Canon := by
  refine State.Canon.writeMem (foldl_canon _ (fun s q hs => ?_) _ (h.chainPull key pa)) key pa _
  show State.Canon (if _ then _ else _)
  split
  · exact hs.setRefs q 0
  · exact hs.setRefs _ _

theorem State.Canon.forkAt (h : s.Canon) {x : Here} {chain : Nat} {l : LaneAcc} {r : State × LaneOut}
    (e : s.forkAt x chain l = some r) : r.1.Canon := by
  unfold State.forkAt at e
  extract_lets s1 at e
  have h1 : s1.Canon := by
    show State.Canon (if _ then _ else _)
    split
    · exact h.walked _
    · exact h.chainPull _ _
  clear_value s1
  split at e
  · cases e; exact h1
  · obtain ⟨y, hy, rfl⟩ := Option.map_eq_some_iff.mp e
    split at hy
    · exact h1.chainNew hy
    · exact h1.chainFork hy

theorem State.Canon.releaseAt (h : s.Canon) (l : LaneAcc) : (s.releaseAt l).Canon := by
  unfold State.releaseAt
  dsimp only
  split
  · exact (h.chainPull _ _).chainRelease _ _ _
  · exact h.chainPull _ _

/-- An access performed at its home keeps memory canonical. -/
theorem State.Canon.homeOp (h : s.Canon) {x : Here} {op : MemOp} {scal : Bool} {ls : List LaneAcc} {r : State × List LaneOut}
    (e : s.homeOp x op scal ls = some r) : r.1.Canon := by
  unfold State.homeOp at e
  split at e
  · cases e; exact h
  · obtain ⟨y, hy, rfl⟩ := Option.map_eq_some_iff.mp e
    exact h.forkAt hy
  · cases e; exact foldl_canon _ (fun s l hs => hs.releaseAt l) _ h
  · exact h.memLanes e

theorem State.Canon.performFlight (h : s.Canon) (u : Nat) (f : Flight) (a : Access) : (s.performFlight u f a).Canon := by
  unfold State.performFlight
  split
  · exact h
  · split
    · next hr => exact State.Canon.placeGood (State.Canon.homeOp h hr) _ _ _ _
    · exact h

theorem State.Canon.catchUp (h : s.Canon) (u : Nat) : (s.catchUp u).Canon := by
  unfold State.catchUp
  split
  · exact h
  · exact foldl_canon _ (fun s e hs => hs.performFlight _ _ _) _ h

theorem State.Canon.drain (h : s.Canon) (u : Nat) : (s.drain u).Canon := by
  unfold State.drain
  dsimp only
  split
  · exact h.catchUp u
  · exact (h.catchUp u).of_mem (foldl_mem _ (fun s f => s.fill_mem u f) _ _)

theorem State.Canon.drainAll (h : s.Canon) (u : Nat) : (s.drainAll u).Canon := by
  unfold State.drainAll
  split
  · exact h
  · exact foldl_canon _ (fun s v hs => hs.drain v) _ (h.drain u)

/-- Memory with other areas whose addresses rise is canonical. -/
theorem MemSt.wf_areas {m : MemSt} (h : m.wf = true) {as : Sparse Area} (ha : spRising none as = true) :
    ({ m with areas := as } : MemSt).wf = true := by
  obtain ⟨a, b, c, -, e, f⟩ := MemSt.wf_iff.mp h
  exact MemSt.wf_iff.mpr ⟨a, b, c, ha, e, f⟩

theorem State.Canon.freeArea (h : s.Canon) (home off : Nat) : (s.freeArea home off).Canon :=
  MemSt.wf_areas h (spRising_spDrop _ (MemSt.wf_iff.mp h).2.2.2.1)

theorem State.Canon.takeArea (h : s.Canon) {home : Nat} {a : Area} {off : Nat} {t : State} (e : s.takeArea home a = some (off, t)) :
    t.Canon := by
  unfold State.takeArea at e
  dsimp only at e
  split at e
  · cases e
    exact MemSt.wf_areas h (spRising_spPut _ _ (MemSt.wf_iff.mp h).2.2.2.1 (by intro l hl; cases hl))
  · cases e

theorem State.Canon.zoneWrite (h : s.Canon) (home off : Nat) (bs : List Byte) : (s.zoneWrite home off bs).Canon :=
  State.wf_writeRaw h _ _

theorem State.Canon.freeImage (h : s.Canon) (img : Stored) : (s.freeImage img).Canon := by
  unfold State.freeImage; split
  · exact h
  · exact h.freeArea _ _

theorem State.Canon.takeFirst {a : Area} (hs : List Nat) {r : Nat × Nat × State} (h : s.Canon) (e : s.takeFirst a hs = some r) :
    r.2.2.Canon := by
  induction hs with
  | nil => cases e
  | cons x xs ih =>
    unfold State.takeFirst at e
    split at e
    · next off t ht => cases e; exact h.takeArea ht
    · exact ih e

theorem State.Canon.placeImage (h : s.Canon) {kn m home len : Nat} {k : AreaKind} {r : Nat × Nat × State}
    (e : s.placeImage kn m home len k = some r) : r.2.2.Canon := by
  unfold State.placeImage at e
  dsimp only at e
  split at e
  · next r' hr =>
    cases e
    split at hr
    · exact h.takeFirst _ hr
    · cases hr
  · exact h.takeFirst _ e

theorem State.Canon.storeBytes (h : s.Canon) {kn m home : Nat} {k : AreaKind} {bs : List Byte} {r : Nat × Nat × State}
    (e : s.storeBytes kn m home k bs = some r) : r.2.2.Canon := by
  obtain ⟨x, hx, rfl⟩ := Option.map_eq_some_iff.mp e
  exact (h.placeImage hx).zoneWrite _ _ _

theorem State.Canon.storeImage (h : s.Canon) {x : Here} {w v : Bool} {k : AreaKind} {img : Stored} {t : State}
    (e : s.storeImage x w v k = some (img, t)) : t.Canon := by
  unfold State.storeImage at e
  extract_lets y at e
  rw [Option.map_eq_some_iff] at e
  obtain ⟨r, hr, e⟩ := e
  clear_value y
  have ht : r.2.2 = t := congrArg Prod.snd e
  rw [← ht]
  exact State.Canon.storeBytes (s := (s.pick 129).2.newId.2) (h.of_mem (by simp)) hr

theorem State.takeImage_mem (s : State) (h : Here) (img : Stored) (bs : List Byte) : (s.takeImage h img bs).mem = s.mem := by
  simp only [State.takeImage, apply_ite State.mem, State.modPath_mem, State.modKnot_mem, ite_self]

theorem State.Canon.poisonImage (h : s.Canon) (u : Nat) (img : Stored) : (s.poisonImage u img).Canon := by
  unfold State.poisonImage; split <;> exact h

theorem State.Canon.loadImage (h : s.Canon) (u : Nat) (img : Stored) : (s.loadImage u img).Canon := by
  unfold State.loadImage; split
  · exact h
  · split
    · exact h
    · exact State.Canon.freeImage (State.Canon.poisonImage (h.of_mem (State.takeImage_mem s _ _ _)) u img) img

theorem State.Canon.freePath (h : s.Canon) (p : Path) : (s.freePath p).Canon := by
  unfold State.freePath
  dsimp only
  refine foldl_canon _ (fun s r hs => hs.freeArea _ _) _ ?_
  have h1 : (match p.place with
    | .parked img | .joined _ img | .heldOut img | .handled img => s.freeImage img
    | _ => s : State).Canon := by split <;> first | exact h.freeImage _ | exact h
  split
  · exact h1.freeArea _ _
  · exact h1

theorem State.Canon.removeCrew (h : s.Canon) (c : Nat) : (s.removeCrew c).Canon := by
  unfold State.removeCrew; split
  · exact h
  · dsimp only
    split
    · exact h.freeImage _
    · exact h

theorem spRising_filter {α : Type} (p : Nat × α → Bool) {m : Sparse α} : ∀ {lo : Option Nat}, spRising lo m = true →
    spRising lo (m.filter p) = true := by
  induction m with
  | nil => intro lo h; exact h
  | cons e m ih =>
    intro lo h
    obtain ⟨j, v⟩ := e
    simp only [spRising, Bool.and_eq_true] at h
    by_cases hp : p (j, v)
    · rw [List.filter_cons_of_pos hp]
      simp only [spRising, Bool.and_eq_true]
      exact ⟨h.1, ih h.2⟩
    · rw [List.filter_cons_of_neg hp]
      cases lo with
      | none => exact spRising_weaken (ih h.2)
      | some l => exact spRising_lower (Nat.le_of_lt (of_decide_eq_true h.1)) (ih h.2)

theorem State.Canon.dropKnot (h : s.Canon) (kn : Nat) : (s.dropKnot kn).Canon := by
  unfold State.dropKnot; split
  · exact h
  · next k _ =>
    dsimp only
    have h0 : ((s.pathsOf kn).foldl (fun s e => s.catchUp e.1) s).Canon := foldl_canon _ (fun s e hs => hs.catchUp _) _ h
    have h1 := foldl_canon (fun s (e : Nat × Path) => s.freePath e.2) (fun s e hs => hs.freePath _) (s.pathsOf kn) h0
    have h2 := MemSt.wf_areas h1 (spRising_filter (fun e => e.2.own != some kn) (MemSt.wf_iff.mp h1).2.2.2.1)
    split
    · exact h2
    · split
      · split
        · exact State.Canon.removeCrew h2 _
        · exact h2
      · exact h2

theorem State.Canon.killKnot (h : s.Canon) (kn : Nat) : (s.killKnot kn).Canon := by
  unfold State.killKnot; split
  · exact h
  · next k _ =>
    dsimp only
    refine State.Canon.of_mem ?_ (State.flushLaunch_mem _ _)
    refine State.Canon.of_mem (s := (match k.crew with
      | none => s.dropKnot kn
      | some (c, _) =>
        (match spFind c s.crews with
        | none => s.dropKnot kn
        | some w => w.live.foldl (fun (s : State) (m : Nat × Nat) => s.dropKnot m.2)
            (s.modEngine c fun e => { e.endMover with queue := [], begun := [], words := [], accQueue := [] })))) ?_ rfl
    split
    · exact h.dropKnot _
    · split
      · exact h.dropKnot _
      · exact foldl_canon _ (fun s m hs => hs.dropKnot _) _ (State.Canon.of_mem h rfl)

theorem State.Canon.doubleTrap (h : s.Canon) (x : Here) (t : Trap) (pc : Pc) : (s.doubleTrap x t pc).Canon :=
  State.Canon.killKnot (s := s.report _ _ _) h _

theorem State.Canon.enterSupervisor (h : s.Canon) (u : Nat) (t : Trap) : (s.enterSupervisor u t).Canon := by
  unfold State.enterSupervisor; split
  · exact h
  · dsimp only
    split
    · exact h
    · split
      · next ha =>
        have h2 := State.Canon.takeArea (State.Canon.of_mem (State.Canon.drain (h.of_mem (State.haltAll_mem _ s)) u)
          (State.keepSaved_mem _ u)) ha
        rw [State.Canon, State.bump_mem, State.modPath_mem, State.writeScal_mem, State.writeScal_mem]
        exact h2.zoneWrite _ _ _
      · exact h

theorem State.Canon.toHandler (h : s.Canon) (u n : Nat) (t : Trap) : (s.toHandler u n t).Canon := by
  unfold State.toHandler; split
  · exact h
  · extract_lets s1
    have h1 : s1.Canon := State.Canon.drainAll (h.of_mem (State.haltAll_mem _ s)) u
    split
    · exact h
    · split
      · split
        · next hs =>
          have h2 := State.Canon.storeImage h1 hs
          split
          · next ha =>
            rw [State.Canon, State.bump_mem, State.addWork_mem, State.modPath_mem]
            exact (h2.takeArea ha).zoneWrite _ _ _
          · exact h.of_mem (State.block_mem _ _ _)
        · exact h.of_mem (State.block_mem _ _ _)
      · exact h

theorem State.Canon.deliver (h : s.Canon) (u : Nat) (t : Trap) : (s.deliver u t).Canon := by
  unfold State.deliver; split
  · exact h
  · split
    · exact h.doubleTrap _ _ _
    · split
      · exact h
      · exact h
      · split
        · exact h.toHandler _ _ _
        · exact h.enterSupervisor _ _

/-- Taking an exception keeps memory canonical. -/
theorem State.Canon.takeTrap (h : s.Canon) (u : Nat) (t : Trap) : (s.takeTrap u t).Canon := by
  unfold State.takeTrap; split
  · exact h
  · extract_lets s0 s1
    have h0 : s0.Canon := by
      show State.Canon (if _ then _ else _)
      split <;> exact h
    have h1 : s1.Canon := State.Canon.deliver h0 u t
    clear_value s0 s1
    split
    · split
      · exact h
      · exact h1
    · exact h1

theorem State.Canon.returnFrom (h : s.Canon) (u : Nat) (fr : List Byte) : (s.returnFrom u fr).Canon := by
  unfold State.returnFrom; split
  · exact h
  · dsimp only
    rw [State.Canon, State.bump_mem, State.resumeAll_mem, State.modPath_mem]
    split
    · exact h.freeArea _ _
    · exact h

/-- What the body of an instruction leaves: canonical memory, however it ends. -/
def Res.Keeps (r : Res State) : Prop :=
  match r with
  | .ok t => t.Canon
  | .error (.wait _ t) => t.Canon
  | .error (.trap _ t) => t.Canon

/-- One instruction of a path keeps memory canonical when its body does. -/
theorem State.Canon.pathRun (h : s.Canon) (f : InstrForm) (never : Bool) {body : State → Here → Res State} {x : Here}
    (hb : ∀ s y, s.Canon → Res.Keeps (body s y)) : (pathRun f never body s x).Canon := by
  have hk : Res.Keeps (if f.defer then body s x else body (s.caughtUp x).1 (s.caughtUp x).2) := by
    split
    · exact hb s x h
    · exact hb _ _ (h.catchUp x.u)
  unfold Machine.pathRun
  split
  · exact h.takeTrap _ _
  · split
    · exact h
    split
    · exact h
    · split
      · next e => rw [e] at hk; exact hk
      · next e => rw [e] at hk; exact hk
      · next e => rw [e] at hk; exact State.Canon.takeTrap hk _ _

/-- The same for a movement processor. -/
def MRes.Keeps (r : MRes State) : Prop :=
  match r with
  | .ok t => t.Canon
  | .error (.wait t) => t.Canon
  | .error (.fault ..) => True

theorem State.Canon.moverRun (h : s.Canon) (f : InstrForm) {body : State → MHere → MRes State} {m : MHere}
    (hb : MRes.Keeps (body s m)) : (moverRun f body s m).Canon := by
  unfold Machine.moverRun
  split
  · exact h
  · split
    · next e => rw [e] at hb; exact hb
    · next e => rw [e] at hb; exact hb
    · exact h

/-- One instruction of the current agent keeps memory canonical when its bodies do. -/
theorem State.Canon.agentRun (h : s.Canon) {f : InstrForm} {never : Bool} {body : State → Here → Res State}
    {mbody : State → MHere → MRes State} {t : State} (hb : ∀ s x, s.Canon → Res.Keeps (body s x)) (hm : ∀ m, MRes.Keeps (mbody s m))
    (e : agentRun f never body mbody s = .next t) : t.Canon := by
  unfold Machine.agentRun at e
  split at e
  · cases e
  · split at e
    · cases e
    · cases e; exact h.pathRun f never hb
  · split at e
    · cases e
    · cases e; exact h.moverRun f (hm _)
end Sys2Proof.Machine
end

