-- ==== Sys2Proof/Laws/Encoding.lean ====
section
/-! SUPPORT. Laws of the encodings: the fields of a packed word read back as they were packed, its major is the one it was packed
with, and every code names what it was made from (R115 to R119). -/
namespace Sys2Proof

@[simp] theorem VecForm.unpack_pack (maj : BitVec 6) (x : VecForm) : VecForm.unpack (VecForm.pack maj x) = x := by
  cases x
  simp only [VecForm.unpack, VecForm.pack, VecForm.mk.injEq]
  refine ⟨?_, ?_, ?_, ?_, ?_, ?_, ?_⟩
  · apply BitVec.eq_of_getLsbD_eq; intro i hi
    simp only [BitVec.getLsbD_extractLsb', BitVec.getLsbD_append, hi]; interval_cases i <;> simp
  · apply BitVec.eq_of_getLsbD_eq; intro i hi
    simp only [BitVec.getLsbD_extractLsb', BitVec.getLsbD_append, hi]; interval_cases i <;> simp
  · apply BitVec.eq_of_getLsbD_eq; intro i hi
    simp only [BitVec.getLsbD_extractLsb', BitVec.getLsbD_append, hi]; interval_cases i <;> simp
  · apply BitVec.eq_of_getLsbD_eq; intro i hi
    simp only [BitVec.getLsbD_extractLsb', BitVec.getLsbD_append, hi]; interval_cases i <;> simp
  · simp only [BitVec.getLsbD_append]; simp
  · simp only [BitVec.getLsbD_append]; simp
  · apply BitVec.eq_of_getLsbD_eq; intro i hi
    simp only [BitVec.getLsbD_extractLsb', BitVec.getLsbD_append, hi]; interval_cases i <;> simp

@[simp] theorem VecForm.major_pack (maj : BitVec 6) (x : VecForm) : (VecForm.pack maj x).extractLsb' 26 6 = maj := by
  apply BitVec.eq_of_getLsbD_eq; intro i hi
  simp only [VecForm.pack, BitVec.getLsbD_extractLsb', BitVec.getLsbD_append, hi]; interval_cases i <;> simp

@[simp] theorem VecImmForm.unpack_pack (maj : BitVec 6) (x : VecImmForm) : VecImmForm.unpack (VecImmForm.pack maj x) = x := by
  cases x
  simp only [VecImmForm.unpack, VecImmForm.pack, VecImmForm.mk.injEq]
  refine ⟨?_, ?_, ?_, ?_, ?_⟩
  · apply BitVec.eq_of_getLsbD_eq; intro i hi
    simp only [BitVec.getLsbD_extractLsb', BitVec.getLsbD_append, hi]; interval_cases i <;> simp
  · apply BitVec.eq_of_getLsbD_eq; intro i hi
    simp only [BitVec.getLsbD_extractLsb', BitVec.getLsbD_append, hi]; interval_cases i <;> simp
  · apply BitVec.eq_of_getLsbD_eq; intro i hi
    simp only [BitVec.getLsbD_extractLsb', BitVec.getLsbD_append, hi]; interval_cases i <;> simp
  · simp only [BitVec.getLsbD_append]; simp
  · apply BitVec.eq_of_getLsbD_eq; intro i hi
    simp only [BitVec.getLsbD_extractLsb', BitVec.getLsbD_append, hi]; interval_cases i <;> simp

@[simp] theorem VecImmForm.major_pack (maj : BitVec 6) (x : VecImmForm) : (VecImmForm.pack maj x).extractLsb' 26 6 = maj := by
  apply BitVec.eq_of_getLsbD_eq; intro i hi
  simp only [VecImmForm.pack, BitVec.getLsbD_extractLsb', BitVec.getLsbD_append, hi]; interval_cases i <;> simp

@[simp] theorem CvtForm.unpack_pack (maj : BitVec 6) (x : CvtForm) : CvtForm.unpack (CvtForm.pack maj x) = x := by
  cases x
  simp only [CvtForm.unpack, CvtForm.pack, CvtForm.mk.injEq]
  refine ⟨?_, ?_, ?_, ?_, ?_, ?_, ?_, ?_⟩
  · apply BitVec.eq_of_getLsbD_eq; intro i hi
    simp only [BitVec.getLsbD_extractLsb', BitVec.getLsbD_append, hi]; interval_cases i <;> simp
  · apply BitVec.eq_of_getLsbD_eq; intro i hi
    simp only [BitVec.getLsbD_extractLsb', BitVec.getLsbD_append, hi]; interval_cases i <;> simp
  · apply BitVec.eq_of_getLsbD_eq; intro i hi
    simp only [BitVec.getLsbD_extractLsb', BitVec.getLsbD_append, hi]; interval_cases i <;> simp
  · simp only [BitVec.getLsbD_append]; simp
  · apply BitVec.eq_of_getLsbD_eq; intro i hi
    simp only [BitVec.getLsbD_extractLsb', BitVec.getLsbD_append, hi]; interval_cases i <;> simp
  · apply BitVec.eq_of_getLsbD_eq; intro i hi
    simp only [BitVec.getLsbD_extractLsb', BitVec.getLsbD_append, hi]; interval_cases i <;> simp
  · apply BitVec.eq_of_getLsbD_eq; intro i hi
    simp only [BitVec.getLsbD_extractLsb', BitVec.getLsbD_append, hi]; interval_cases i <;> simp
  · simp only [BitVec.getLsbD_append]; simp

@[simp] theorem CvtForm.major_pack (maj : BitVec 6) (x : CvtForm) : (CvtForm.pack maj x).extractLsb' 26 6 = maj := by
  apply BitVec.eq_of_getLsbD_eq; intro i hi
  simp only [CvtForm.pack, BitVec.getLsbD_extractLsb', BitVec.getLsbD_append, hi]; interval_cases i <;> simp

@[simp] theorem PartForm.unpack_pack (maj : BitVec 6) (x : PartForm) : PartForm.unpack (PartForm.pack maj x) = x := by
  cases x
  simp only [PartForm.unpack, PartForm.pack, PartForm.mk.injEq]
  refine ⟨?_, ?_, ?_, ?_, ?_, ?_, ?_, ?_⟩
  · apply BitVec.eq_of_getLsbD_eq; intro i hi
    simp only [BitVec.getLsbD_extractLsb', BitVec.getLsbD_append, hi]; interval_cases i <;> simp
  · apply BitVec.eq_of_getLsbD_eq; intro i hi
    simp only [BitVec.getLsbD_extractLsb', BitVec.getLsbD_append, hi]; interval_cases i <;> simp
  · apply BitVec.eq_of_getLsbD_eq; intro i hi
    simp only [BitVec.getLsbD_extractLsb', BitVec.getLsbD_append, hi]; interval_cases i <;> simp
  · simp only [BitVec.getLsbD_append]; simp
  · apply BitVec.eq_of_getLsbD_eq; intro i hi
    simp only [BitVec.getLsbD_extractLsb', BitVec.getLsbD_append, hi]; interval_cases i <;> simp
  · apply BitVec.eq_of_getLsbD_eq; intro i hi
    simp only [BitVec.getLsbD_extractLsb', BitVec.getLsbD_append, hi]; interval_cases i <;> simp
  · apply BitVec.eq_of_getLsbD_eq; intro i hi
    simp only [BitVec.getLsbD_extractLsb', BitVec.getLsbD_append, hi]; interval_cases i <;> simp
  · apply BitVec.eq_of_getLsbD_eq; intro i hi
    simp only [BitVec.getLsbD_extractLsb', BitVec.getLsbD_append, hi]; interval_cases i <;> simp

@[simp] theorem PartForm.major_pack (maj : BitVec 6) (x : PartForm) : (PartForm.pack maj x).extractLsb' 26 6 = maj := by
  apply BitVec.eq_of_getLsbD_eq; intro i hi
  simp only [PartForm.pack, BitVec.getLsbD_extractLsb', BitVec.getLsbD_append, hi]; interval_cases i <;> simp

@[simp] theorem ScalForm.unpack_pack (maj : BitVec 6) (x : ScalForm) : ScalForm.unpack (ScalForm.pack maj x) = x := by
  cases x
  simp only [ScalForm.unpack, ScalForm.pack, ScalForm.mk.injEq]
  refine ⟨?_, ?_, ?_, ?_, ?_, ?_⟩
  · apply BitVec.eq_of_getLsbD_eq; intro i hi
    simp only [BitVec.getLsbD_extractLsb', BitVec.getLsbD_append, hi]; interval_cases i <;> simp
  · apply BitVec.eq_of_getLsbD_eq; intro i hi
    simp only [BitVec.getLsbD_extractLsb', BitVec.getLsbD_append, hi]; interval_cases i <;> simp
  · apply BitVec.eq_of_getLsbD_eq; intro i hi
    simp only [BitVec.getLsbD_extractLsb', BitVec.getLsbD_append, hi]; interval_cases i <;> simp
  · simp only [BitVec.getLsbD_append]; simp
  · simp only [BitVec.getLsbD_append]; simp
  · apply BitVec.eq_of_getLsbD_eq; intro i hi
    simp only [BitVec.getLsbD_extractLsb', BitVec.getLsbD_append, hi]; interval_cases i <;> simp

@[simp] theorem ScalForm.major_pack (maj : BitVec 6) (x : ScalForm) : (ScalForm.pack maj x).extractLsb' 26 6 = maj := by
  apply BitVec.eq_of_getLsbD_eq; intro i hi
  simp only [ScalForm.pack, BitVec.getLsbD_extractLsb', BitVec.getLsbD_append, hi]; interval_cases i <;> simp

@[simp] theorem ScalImmForm.unpack_pack (maj : BitVec 6) (x : ScalImmForm) : ScalImmForm.unpack (ScalImmForm.pack maj x) = x := by
  cases x
  simp only [ScalImmForm.unpack, ScalImmForm.pack, ScalImmForm.mk.injEq]
  refine ⟨?_, ?_, ?_⟩
  · apply BitVec.eq_of_getLsbD_eq; intro i hi
    simp only [BitVec.getLsbD_extractLsb', BitVec.getLsbD_append, hi]; interval_cases i <;> simp
  · apply BitVec.eq_of_getLsbD_eq; intro i hi
    simp only [BitVec.getLsbD_extractLsb', BitVec.getLsbD_append, hi]; interval_cases i <;> simp
  · apply BitVec.eq_of_getLsbD_eq; intro i hi
    simp only [BitVec.getLsbD_extractLsb', BitVec.getLsbD_append, hi]; interval_cases i <;> simp

@[simp] theorem ScalImmForm.major_pack (maj : BitVec 6) (x : ScalImmForm) : (ScalImmForm.pack maj x).extractLsb' 26 6 = maj := by
  apply BitVec.eq_of_getLsbD_eq; intro i hi
  simp only [ScalImmForm.pack, BitVec.getLsbD_extractLsb', BitVec.getLsbD_append, hi]; interval_cases i <;> simp

@[simp] theorem UpperForm.unpack_pack (maj : BitVec 6) (x : UpperForm) : UpperForm.unpack (UpperForm.pack maj x) = x := by
  cases x
  simp only [UpperForm.unpack, UpperForm.pack, UpperForm.mk.injEq]
  refine ⟨?_, ?_, ?_⟩
  · apply BitVec.eq_of_getLsbD_eq; intro i hi
    simp only [BitVec.getLsbD_extractLsb', BitVec.getLsbD_append, hi]; interval_cases i <;> simp
  · simp only [BitVec.getLsbD_append]; simp
  · apply BitVec.eq_of_getLsbD_eq; intro i hi
    simp only [BitVec.getLsbD_extractLsb', BitVec.getLsbD_append, hi]; interval_cases i <;> simp

@[simp] theorem UpperForm.major_pack (maj : BitVec 6) (x : UpperForm) : (UpperForm.pack maj x).extractLsb' 26 6 = maj := by
  apply BitVec.eq_of_getLsbD_eq; intro i hi
  simp only [UpperForm.pack, BitVec.getLsbD_extractLsb', BitVec.getLsbD_append, hi]; interval_cases i <;> simp

@[simp] theorem BranchForm.unpack_pack (maj : BitVec 6) (x : BranchForm) : BranchForm.unpack (BranchForm.pack maj x) = x := by
  cases x
  simp only [BranchForm.unpack, BranchForm.pack, BranchForm.mk.injEq]
  refine ⟨?_, ?_, ?_⟩
  · apply BitVec.eq_of_getLsbD_eq; intro i hi
    simp only [BitVec.getLsbD_extractLsb', BitVec.getLsbD_append, hi]; interval_cases i <;> simp
  · apply BitVec.eq_of_getLsbD_eq; intro i hi
    simp only [BitVec.getLsbD_extractLsb', BitVec.getLsbD_append, hi]; interval_cases i <;> simp
  · apply BitVec.eq_of_getLsbD_eq; intro i hi
    simp only [BitVec.getLsbD_extractLsb', BitVec.getLsbD_append, hi]; interval_cases i <;> simp

@[simp] theorem BranchForm.major_pack (maj : BitVec 6) (x : BranchForm) : (BranchForm.pack maj x).extractLsb' 26 6 = maj := by
  apply BitVec.eq_of_getLsbD_eq; intro i hi
  simp only [BranchForm.pack, BitVec.getLsbD_extractLsb', BitVec.getLsbD_append, hi]; interval_cases i <;> simp

@[simp] theorem CallForm.unpack_pack (maj : BitVec 6) (x : CallForm) : CallForm.unpack (CallForm.pack maj x) = x := by
  cases x
  simp only [CallForm.unpack, CallForm.pack, CallForm.mk.injEq]
  refine ⟨?_, ?_, ?_⟩
  · apply BitVec.eq_of_getLsbD_eq; intro i hi
    simp only [BitVec.getLsbD_extractLsb', BitVec.getLsbD_append, hi]; interval_cases i <;> simp
  · apply BitVec.eq_of_getLsbD_eq; intro i hi
    simp only [BitVec.getLsbD_extractLsb', BitVec.getLsbD_append, hi]; interval_cases i <;> simp
  · apply BitVec.eq_of_getLsbD_eq; intro i hi
    simp only [BitVec.getLsbD_extractLsb', BitVec.getLsbD_append, hi]; interval_cases i <;> simp

@[simp] theorem CallForm.major_pack (maj : BitVec 6) (x : CallForm) : (CallForm.pack maj x).extractLsb' 26 6 = maj := by
  apply BitVec.eq_of_getLsbD_eq; intro i hi
  simp only [CallForm.pack, BitVec.getLsbD_extractLsb', BitVec.getLsbD_append, hi]; interval_cases i <;> simp

@[simp] theorem MemForm.unpack_pack (maj : BitVec 6) (x : MemForm) : MemForm.unpack (MemForm.pack maj x) = x := by
  cases x
  simp only [MemForm.unpack, MemForm.pack, MemForm.mk.injEq]
  refine ⟨?_, ?_, ?_, ?_, ?_, ?_, ?_⟩
  · apply BitVec.eq_of_getLsbD_eq; intro i hi
    simp only [BitVec.getLsbD_extractLsb', BitVec.getLsbD_append, hi]; interval_cases i <;> simp
  · apply BitVec.eq_of_getLsbD_eq; intro i hi
    simp only [BitVec.getLsbD_extractLsb', BitVec.getLsbD_append, hi]; interval_cases i <;> simp
  · apply BitVec.eq_of_getLsbD_eq; intro i hi
    simp only [BitVec.getLsbD_extractLsb', BitVec.getLsbD_append, hi]; interval_cases i <;> simp
  · apply BitVec.eq_of_getLsbD_eq; intro i hi
    simp only [BitVec.getLsbD_extractLsb', BitVec.getLsbD_append, hi]; interval_cases i <;> simp
  · simp only [BitVec.getLsbD_append]; simp
  · apply BitVec.eq_of_getLsbD_eq; intro i hi
    simp only [BitVec.getLsbD_extractLsb', BitVec.getLsbD_append, hi]; interval_cases i <;> simp
  · apply BitVec.eq_of_getLsbD_eq; intro i hi
    simp only [BitVec.getLsbD_extractLsb', BitVec.getLsbD_append, hi]; interval_cases i <;> simp

@[simp] theorem MemForm.major_pack (maj : BitVec 6) (x : MemForm) : (MemForm.pack maj x).extractLsb' 26 6 = maj := by
  apply BitVec.eq_of_getLsbD_eq; intro i hi
  simp only [MemForm.pack, BitVec.getLsbD_extractLsb', BitVec.getLsbD_append, hi]; interval_cases i <;> simp

@[simp] theorem HandForm.unpack_pack (maj : BitVec 6) (x : HandForm) : HandForm.unpack (HandForm.pack maj x) = x := by
  cases x
  simp only [HandForm.unpack, HandForm.pack, HandForm.mk.injEq]
  refine ⟨?_, ?_, ?_, ?_, ?_⟩
  · apply BitVec.eq_of_getLsbD_eq; intro i hi
    simp only [BitVec.getLsbD_extractLsb', BitVec.getLsbD_append, hi]; interval_cases i <;> simp
  · apply BitVec.eq_of_getLsbD_eq; intro i hi
    simp only [BitVec.getLsbD_extractLsb', BitVec.getLsbD_append, hi]; interval_cases i <;> simp
  · apply BitVec.eq_of_getLsbD_eq; intro i hi
    simp only [BitVec.getLsbD_extractLsb', BitVec.getLsbD_append, hi]; interval_cases i <;> simp
  · simp only [BitVec.getLsbD_append]; simp
  · apply BitVec.eq_of_getLsbD_eq; intro i hi
    simp only [BitVec.getLsbD_extractLsb', BitVec.getLsbD_append, hi]; interval_cases i <;> simp

@[simp] theorem HandForm.major_pack (maj : BitVec 6) (x : HandForm) : (HandForm.pack maj x).extractLsb' 26 6 = maj := by
  apply BitVec.eq_of_getLsbD_eq; intro i hi
  simp only [HandForm.pack, BitVec.getLsbD_extractLsb', BitVec.getLsbD_append, hi]; interval_cases i <;> simp

@[simp] theorem MoveForm.unpack_pack (maj : BitVec 6) (x : MoveForm) : MoveForm.unpack (MoveForm.pack maj x) = x := by
  cases x
  simp only [MoveForm.unpack, MoveForm.pack, MoveForm.mk.injEq]
  refine ⟨?_, ?_, ?_, ?_⟩
  · apply BitVec.eq_of_getLsbD_eq; intro i hi
    simp only [BitVec.getLsbD_extractLsb', BitVec.getLsbD_append, hi]; interval_cases i <;> simp
  · apply BitVec.eq_of_getLsbD_eq; intro i hi
    simp only [BitVec.getLsbD_extractLsb', BitVec.getLsbD_append, hi]; interval_cases i <;> simp
  · apply BitVec.eq_of_getLsbD_eq; intro i hi
    simp only [BitVec.getLsbD_extractLsb', BitVec.getLsbD_append, hi]; interval_cases i <;> simp
  · apply BitVec.eq_of_getLsbD_eq; intro i hi
    simp only [BitVec.getLsbD_extractLsb', BitVec.getLsbD_append, hi]; interval_cases i <;> simp

@[simp] theorem MoveForm.major_pack (maj : BitVec 6) (x : MoveForm) : (MoveForm.pack maj x).extractLsb' 26 6 = maj := by
  apply BitVec.eq_of_getLsbD_eq; intro i hi
  simp only [MoveForm.pack, BitVec.getLsbD_extractLsb', BitVec.getLsbD_append, hi]; interval_cases i <;> simp

@[simp] theorem SpecForm.unpack_pack (maj : BitVec 6) (x : SpecForm) : SpecForm.unpack (SpecForm.pack maj x) = x := by
  cases x
  simp only [SpecForm.unpack, SpecForm.pack, SpecForm.mk.injEq]
  refine ⟨?_, ?_, ?_, ?_, ?_⟩
  · apply BitVec.eq_of_getLsbD_eq; intro i hi
    simp only [BitVec.getLsbD_extractLsb', BitVec.getLsbD_append, hi]; interval_cases i <;> simp
  · apply BitVec.eq_of_getLsbD_eq; intro i hi
    simp only [BitVec.getLsbD_extractLsb', BitVec.getLsbD_append, hi]; interval_cases i <;> simp
  · simp only [BitVec.getLsbD_append]; simp
  · apply BitVec.eq_of_getLsbD_eq; intro i hi
    simp only [BitVec.getLsbD_extractLsb', BitVec.getLsbD_append, hi]; interval_cases i <;> simp
  · apply BitVec.eq_of_getLsbD_eq; intro i hi
    simp only [BitVec.getLsbD_extractLsb', BitVec.getLsbD_append, hi]; interval_cases i <;> simp

@[simp] theorem SpecForm.major_pack (maj : BitVec 6) (x : SpecForm) : (SpecForm.pack maj x).extractLsb' 26 6 = maj := by
  apply BitVec.eq_of_getLsbD_eq; intro i hi
  simp only [SpecForm.pack, BitVec.getLsbD_extractLsb', BitVec.getLsbD_append, hi]; interval_cases i <;> simp

@[simp] theorem HintForm.unpack_pack (maj : BitVec 6) (x : HintForm) : HintForm.unpack (HintForm.pack maj x) = x := by
  cases x
  simp only [HintForm.unpack, HintForm.pack, HintForm.mk.injEq]
  refine ⟨?_, ?_⟩
  · apply BitVec.eq_of_getLsbD_eq; intro i hi
    simp only [BitVec.getLsbD_extractLsb', BitVec.getLsbD_append, hi]; interval_cases i <;> simp
  · apply BitVec.eq_of_getLsbD_eq; intro i hi
    simp only [BitVec.getLsbD_extractLsb', BitVec.getLsbD_append, hi]; interval_cases i <;> simp

@[simp] theorem HintForm.major_pack (maj : BitVec 6) (x : HintForm) : (HintForm.pack maj x).extractLsb' 26 6 = maj := by
  apply BitVec.eq_of_getLsbD_eq; intro i hi
  simp only [HintForm.pack, BitVec.getLsbD_extractLsb', BitVec.getLsbD_append, hi]; interval_cases i <;> simp

@[simp] theorem Dir.ofBits_bits (x : Dir) : Dir.ofBits x.bits = x := by cases x <;> rfl
@[simp] theorem RndField.ofBits_bits (x : RndField) : RndField.ofBits x.bits = x := by cases x <;> rfl
@[simp] theorem Cond.ofBits_bits (x : Cond) : Cond.ofBits x.bits = some x := by cases x <;> rfl
@[simp] theorem FCond.ofBits_bits (x : FCond) : FCond.ofBits x.bits = x := by cases x <;> rfl
@[simp] theorem MemSize.ofBits_bits (x : MemSize) : MemSize.ofBits x.bits = some x := by cases x <;> rfl
@[simp] theorem AtomOp.ofBits_bits (x : AtomOp) : AtomOp.ofBits x.bits = x := by cases x <;> rfl
@[simp] theorem AtomType.ofBits_bits (x : AtomType) : AtomType.ofBits x.bits = some x := by cases x <;> rfl
@[simp] theorem PatmType.ofBits_bits (x : PatmType) : PatmType.ofBits x.bits = x := by cases x <;> rfl
@[simp] theorem TypeCode.ofBits_bits (x : TypeCode) : TypeCode.ofBits x.bits = some x := by cases x <;> rfl
@[simp] theorem ActType.ofBits_bits (x : ActType) : ActType.ofBits x.bits = some x := by cases x <;> rfl
@[simp] theorem Scope.ofBits_bits (x : Scope) : Scope.ofBits x.bits = some x := by cases x <;> rfl
@[simp] theorem ShflMode.ofBits_bits (x : ShflMode) : ShflMode.ofBits x.bits = x := by cases x <;> rfl
@[simp] theorem Special.ofBits_bits (x : Special) : Special.ofBits x.bits = some x := by cases x <;> rfl

@[simp] theorem predOf_field3 (p : BitVec 3) : predOf (field3 p) = .ok p := by
  revert p; decide

@[simp] theorem tileOf_field4 (t : BitVec 4) : tileOf (field4 t) = .ok t := by
  revert t; decide

@[simp] theorem onceOf_onceGuard (n : Bool) : onceOf (onceGuard n) = .ok n := by
  revert n; decide

@[simp] theorem codeOf_some {α : Type} (x : α) : codeOf (some x) = .ok x := rfl

@[simp] theorem zeros_true (i : Instr) : zeros true i = .ok i := rfl

/-! What the decoder makes of a word, by its major (R131). -/

theorem decodeRaw_major1 {w : Word} (h : w.extractLsb' 26 6 = 1#6) : decodeRaw w = (decodeInt (.unpack w)) := by
  unfold decodeRaw; rw [h]; rfl

theorem decodeRaw_major2 {w : Word} (h : w.extractLsb' 26 6 = 2#6) : decodeRaw w = (let x := VecImmForm.unpack w; .ok (.iaddImm x.g x.d x.a x.e x.imm)) := by
  unfold decodeRaw; rw [h]; rfl

theorem decodeRaw_major3 {w : Word} (h : w.extractLsb' 26 6 = 3#6) : decodeRaw w = (let x := VecImmForm.unpack w; .ok (.imulImm x.g x.d x.a x.e x.imm)) := by
  unfold decodeRaw; rw [h]; rfl

theorem decodeRaw_major4 {w : Word} (h : w.extractLsb' 26 6 = 4#6) : decodeRaw w = (decodeShiftImm (.unpack w)) := by
  unfold decodeRaw; rw [h]; rfl

theorem decodeRaw_major5 {w : Word} (h : w.extractLsb' 26 6 = 5#6) : decodeRaw w = (let x := VecImmForm.unpack w; if x.imm.getLsbD 10 then .ok (.bfi x.g x.d x.a x.e (x.imm.extractLsb' 5 5) (x.imm.extractLsb' 0 5)) else .ok (.bfe x.g x.d x.a x.e (x.imm.extractLsb' 5 5) (x.imm.extractLsb' 0 5))) := by
  unfold decodeRaw; rw [h]; rfl

theorem decodeRaw_major6 {w : Word} (h : w.extractLsb' 26 6 = 6#6) : decodeRaw w = (let x := VecImmForm.unpack w; zeros (x.a == 0 && (!x.e)) (.movi x.g x.d x.imm)) := by
  unfold decodeRaw; rw [h]; rfl

theorem decodeRaw_major7 {w : Word} (h : w.extractLsb' 26 6 = 7#6) : decodeRaw w = (decodeInt64 (.unpack w)) := by
  unfold decodeRaw; rw [h]; rfl

theorem decodeRaw_major8 {w : Word} (h : w.extractLsb' 26 6 = 8#6) : decodeRaw w = (if (w.extractLsb' 0 5).toNat < 16 then decodeFloat .mode (.unpack w) else decodeFloatExact (.unpack w)) := by
  unfold decodeRaw; rw [h]; rfl

theorem decodeRaw_major9 {w : Word} (h : w.extractLsb' 26 6 = 9#6) : decodeRaw w = (decodeFloat .near (.unpack w)) := by
  unfold decodeRaw; rw [h]; rfl

theorem decodeRaw_major10 {w : Word} (h : w.extractLsb' 26 6 = 10#6) : decodeRaw w = (decodeFloat .zero (.unpack w)) := by
  unfold decodeRaw; rw [h]; rfl

theorem decodeRaw_major11 {w : Word} (h : w.extractLsb' 26 6 = 11#6) : decodeRaw w = (decodeFloat .hint (.unpack w)) := by
  unfold decodeRaw; rw [h]; rfl

theorem decodeRaw_major12 {w : Word} (h : w.extractLsb' 26 6 = 12#6) : decodeRaw w = (let x := CvtForm.unpack w; codeOf (TypeCode.ofBits x.t) >>= fun t => codeOf (TypeCode.ofBits x.s) >>= fun s => zeros ((!x.z)) (.cvt x.g x.d x.a x.e (RndField.ofBits x.rnd) t s)) := by
  unfold decodeRaw; rw [h]; rfl

theorem decodeRaw_major13 {w : Word} (h : w.extractLsb' 26 6 = 13#6) : decodeRaw w = (decodePart (.unpack w)) := by
  unfold decodeRaw; rw [h]; rfl

theorem decodeRaw_major14 {w : Word} (h : w.extractLsb' 26 6 = 14#6) : decodeRaw w = (decodePred (.unpack w)) := by
  unfold decodeRaw; rw [h]; rfl

theorem decodeRaw_major15 {w : Word} (h : w.extractLsb' 26 6 = 15#6) : decodeRaw w = (decodeCross (.unpack w)) := by
  unfold decodeRaw; rw [h]; rfl

theorem decodeRaw_major16 {w : Word} (h : w.extractLsb' 26 6 = 16#6) : decodeRaw w = (let x := VecForm.unpack w; .ok (.shfl x.g x.d x.a x.b x.e x.f (ShflMode.ofBits (x.func.extractLsb' 3 2)) (x.func.extractLsb' 0 3))) := by
  unfold decodeRaw; rw [h]; rfl

theorem decodeRaw_major32 {w : Word} (h : w.extractLsb' 26 6 = 32#6) : decodeRaw w = (decodeScalar (.unpack w)) := by
  unfold decodeRaw; rw [h]; rfl

theorem decodeRaw_major33 {w : Word} (h : w.extractLsb' 26 6 = 33#6) : decodeRaw w = (let x := ScalImmForm.unpack w; .ok (.saddi x.d x.a x.imm)) := by
  unfold decodeRaw; rw [h]; rfl

theorem decodeRaw_major34 {w : Word} (h : w.extractLsb' 26 6 = 34#6) : decodeRaw w = (let x := UpperForm.unpack w; zeros ((!x.z)) (.slih x.d x.imm)) := by
  unfold decodeRaw; rw [h]; rfl

theorem decodeRaw_major35 {w : Word} (h : w.extractLsb' 26 6 = 35#6) : decodeRaw w = (decodeScalarShift (.unpack w)) := by
  unfold decodeRaw; rw [h]; rfl

theorem decodeRaw_major38 {w : Word} (h : w.extractLsb' 26 6 = 38#6) : decodeRaw w = (let x := BranchForm.unpack w; if x.w = 0 then onceOf x.g >>= fun g => zeros (x.w == 0) (.bra g x.o) else if x.w = 1 then zeros (x.w == 1) (.bru x.g x.o) else .error .reservedFunc) := by
  unfold decodeRaw; rw [h]; rfl

theorem decodeRaw_major39 {w : Word} (h : w.extractLsb' 26 6 = 39#6) : decodeRaw w = (let x := BranchForm.unpack w; .ok (.brc x.g x.w x.o)) := by
  unfold decodeRaw; rw [h]; rfl

theorem decodeRaw_major40 {w : Word} (h : w.extractLsb' 26 6 = 40#6) : decodeRaw w = (let x := CallForm.unpack w; zeros (x.z == 0) (.call x.d x.o)) := by
  unfold decodeRaw; rw [h]; rfl

theorem decodeRaw_major41 {w : Word} (h : w.extractLsb' 26 6 = 41#6) : decodeRaw w = (let x := CallForm.unpack w; zeros (x.z == 0) (.loop x.d x.o)) := by
  unfold decodeRaw; rw [h]; rfl

theorem decodeRaw_major42 {w : Word} (h : w.extractLsb' 26 6 = 42#6) : decodeRaw w = (decodeControl (.unpack w)) := by
  unfold decodeRaw; rw [h]; rfl

theorem decodeRaw_major43 {w : Word} (h : w.extractLsb' 26 6 = 43#6) : decodeRaw w = (let x := ScalImmForm.unpack w; .ok (.width x.d x.a x.imm)) := by
  unfold decodeRaw; rw [h]; rfl

theorem decodeRaw_major44 {w : Word} (h : w.extractLsb' 26 6 = 44#6) : decodeRaw w = (let x := MemForm.unpack w; codeOf (MemSize.ofBits x.z) >>= fun z => .ok (.ld x.g x.d x.a x.b x.e z x.o)) := by
  unfold decodeRaw; rw [h]; rfl

theorem decodeRaw_major45 {w : Word} (h : w.extractLsb' 26 6 = 45#6) : decodeRaw w = (let x := MemForm.unpack w; codeOf (MemSize.ofBits x.z) >>= fun z => .ok (.st x.g x.d x.a x.b x.e z x.o)) := by
  unfold decodeRaw; rw [h]; rfl

theorem decodeRaw_major46 {w : Word} (h : w.extractLsb' 26 6 = 46#6) : decodeRaw w = (decodeScalarMem (.unpack w)) := by
  unfold decodeRaw; rw [h]; rfl

theorem decodeRaw_major47 {w : Word} (h : w.extractLsb' 26 6 = 47#6) : decodeRaw w = (let x := MemForm.unpack w; codeOf (MemSize.ofBits x.z) >>= fun z => .ok (.stp x.g x.d x.a x.b x.e z x.o)) := by
  unfold decodeRaw; rw [h]; rfl

theorem decodeRaw_major48 {w : Word} (h : w.extractLsb' 26 6 = 48#6) : decodeRaw w = (let x := MemForm.unpack w; codeOf (AtomType.ofBits x.o) >>= fun t => .ok (.atm x.g x.d x.a x.b x.e (AtomOp.ofBits x.z) t)) := by
  unfold decodeRaw; rw [h]; rfl

theorem decodeRaw_major49 {w : Word} (h : w.extractLsb' 26 6 = 49#6) : decodeRaw w = (let x := MemForm.unpack w; if x.z.extractLsb' 1 2 = 3 then .ok (.atpVadd x.g x.d x.a x.b x.e (x.z.getLsbD 0) x.o) else codeOf (AtomType.ofBits x.o) >>= fun t => .ok (.atp x.g x.d x.a x.b x.e (AtomOp.ofBits x.z) t)) := by
  unfold decodeRaw; rw [h]; rfl

theorem decodeRaw_major51 {w : Word} (h : w.extractLsb' 26 6 = 51#6) : decodeRaw w = (let x := MemForm.unpack w; codeOf (MemSize.ofBits x.z) >>= fun z => .ok (.pld x.g x.d x.a x.b x.e z x.o)) := by
  unfold decodeRaw; rw [h]; rfl

theorem decodeRaw_major52 {w : Word} (h : w.extractLsb' 26 6 = 52#6) : decodeRaw w = (let x := MemForm.unpack w; codeOf (MemSize.ofBits x.z) >>= fun z => .ok (.pst x.g x.d x.a x.b x.e z x.o)) := by
  unfold decodeRaw; rw [h]; rfl

theorem decodeRaw_major53 {w : Word} (h : w.extractLsb' 26 6 = 53#6) : decodeRaw w = (let x := MemForm.unpack w; if x.o = 7 then decodeBarrier x else if x.o.getLsbD 2 then .error .badType else .ok (.patm x.g x.d x.a x.b x.e (AtomOp.ofBits x.z) (PatmType.ofBits (x.o.extractLsb' 0 2)))) := by
  unfold decodeRaw; rw [h]; rfl

theorem decodeRaw_major54 {w : Word} (h : w.extractLsb' 26 6 = 54#6) : decodeRaw w = (decodeTile (.unpack w)) := by
  unfold decodeRaw; rw [h]; rfl

theorem decodeRaw_major55 {w : Word} (h : w.extractLsb' 26 6 = 55#6) : decodeRaw w = (let x := VecForm.unpack w; if x.func.getLsbD 0 then predOf x.d >>= fun a => tileOf x.a >>= fun t => codeOf (ActType.ofBits (x.func.extractLsb' 1 4)) >>= fun k => zeros ((!x.e)) (.mmas x.g a t x.b x.f k) else predOf x.d >>= fun a => tileOf x.a >>= fun t => codeOf (ActType.ofBits (x.func.extractLsb' 1 4)) >>= fun k => zeros (x.b == 0 && (!x.e) && (!x.f)) (.mma x.g a t k)) := by
  unfold decodeRaw; rw [h]; rfl

theorem decodeRaw_major56 {w : Word} (h : w.extractLsb' 26 6 = 56#6) : decodeRaw w = (decodeAccum (.unpack w)) := by
  unfold decodeRaw; rw [h]; rfl

theorem decodeRaw_major57 {w : Word} (h : w.extractLsb' 26 6 = 57#6) : decodeRaw w = (decodeHandle (.unpack w)) := by
  unfold decodeRaw; rw [h]; rfl

theorem decodeRaw_major58 {w : Word} (h : w.extractLsb' 26 6 = 58#6) : decodeRaw w = (decodeMove (.unpack w)) := by
  unfold decodeRaw; rw [h]; rfl

theorem decodeRaw_major59 {w : Word} (h : w.extractLsb' 26 6 = 59#6) : decodeRaw w = (decodeMoveCtl (.unpack w)) := by
  unfold decodeRaw; rw [h]; rfl

theorem decodeRaw_major60 {w : Word} (h : w.extractLsb' 26 6 = 60#6) : decodeRaw w = (decodeTask (.unpack w)) := by
  unfold decodeRaw; rw [h]; rfl

theorem decodeRaw_major61 {w : Word} (h : w.extractLsb' 26 6 = 61#6) : decodeRaw w = (decodeSpecial (.unpack w)) := by
  unfold decodeRaw; rw [h]; rfl

theorem decodeRaw_major62 {w : Word} (h : w.extractLsb' 26 6 = 62#6) : decodeRaw w = (decodeTrapOp (.unpack w)) := by
  unfold decodeRaw; rw [h]; rfl

theorem decodeRaw_major63 {w : Word} (h : w.extractLsb' 26 6 = 63#6) : decodeRaw w = (decodeHint (.unpack w)) := by
  unfold decodeRaw; rw [h]; rfl

end Sys2Proof
end

