-- ==== Sys2Proof/Laws/Fetch.lean ====
section
/-! SUPPORT. What a fetch and a choice can give (spec/03 R93, spec/19 R313, R317). -/
namespace Sys2Proof.Machine
/-- Where no earlier word may be fetched, a fetch gives the module's word and takes no choice. -/
theorem State.fetchWord_of_seen (s : State) (m : Nat) {l : List (Nat × Word)} {pc : Pc} (h : ∀ e ∈ l, e.1 ≠ pc.toNat / 4) :
    s.fetchWord m l pc = (s.codeWord m pc, s) := by
  have hf : l.filter (fun e => e.1 == pc.toNat / 4) = [] := by
    simpa [List.filter_eq_nil_iff] using h
  unfold State.fetchWord; rw [hf]

/-- A choice changes the tape only. -/
theorem State.pick_snd (s : State) (n : Nat) : (s.pick n).2 = { s with picks := s.picks.tail } := by
  unfold State.pick; cases s with | mk => split <;> simp_all

/-- Before its page is placed a module's word is the heap's (R313). -/
theorem State.codeWord_unplaced (s : State) {m : Nat} {pc : Pc} (h : spGet [] s.heap.pages (pc.toNat / 65536) = []) :
    s.codeWord m pc = s.heap.wordAt pc := by
  simp [State.codeWord, h]

/-- A fetch gives the module's word or an earlier word that the agent may still see, and changes the tape of choices only. -/
theorem State.fetchWord_cases (s : State) (m : Nat) (l : List (Nat × Word)) (pc : Pc) :
    ((s.fetchWord m l pc).1 = s.codeWord m pc ∨ (pc.toNat / 4, (s.fetchWord m l pc).1) ∈ l) ∧
      ∃ x, (s.fetchWord m l pc).2 = { s with picks := x } := by
  unfold State.fetchWord
  split
  · exact ⟨.inl rfl, s.picks, rfl⟩
  · next o os ho =>
    refine ⟨?_, s.picks.tail, s.pick_snd _⟩
    generalize s.pick (os.length + 2) = r
    obtain ⟨n, s1⟩ := r
    cases n with
    | zero => exact .inl rfl
    | succ i =>
      simp only
      cases hi : (o :: os)[i]? with
      | none => exact .inl rfl
      | some e =>
        right
        have hm := List.mem_of_getElem? hi
        rw [← ho] at hm
        simp only [List.mem_filter, beq_iff_eq] at hm
        obtain ⟨hm, he⟩ := hm
        simpa [← he] using hm
end Sys2Proof.Machine
end

