-- ==== Sys2Proof/Laws/PerInstr.lean ====
section
/-! SUPPORT. Per-instruction laws: family Major, the major of the word of each instruction (R131). -/
namespace Sys2Proof.Laws.Major
open Sys2Proof

/-- The major of an instruction that has an encoding (R131): of the floating-point majors 0x08 to 0x0B, the one of its rounding field
(R102). -/
def majorOf : Instr → BitVec 6
  | .iadd _ _ _ _ _ _ => 1
  | .isub _ _ _ _ _ _ => 1
  | .imul _ _ _ _ _ _ => 1
  | .imulhI32 _ _ _ _ _ _ => 1
  | .imulhN32 _ _ _ _ _ _ => 1
  | .imad _ _ _ _ _ _ => 1
  | .iminI32 _ _ _ _ _ _ => 1
  | .iminN32 _ _ _ _ _ _ => 1
  | .imaxI32 _ _ _ _ _ _ => 1
  | .imaxN32 _ _ _ _ _ _ => 1
  | .iabs _ _ _ _ => 1
  | .andV _ _ _ _ _ _ => 1
  | .orV _ _ _ _ _ _ => 1
  | .xorV _ _ _ _ _ _ => 1
  | .andn _ _ _ _ _ _ => 1
  | .shl _ _ _ _ _ _ => 1
  | .shr _ _ _ _ _ _ => 1
  | .sar _ _ _ _ _ _ => 1
  | .popc _ _ _ _ => 1
  | .clz _ _ _ _ => 1
  | .brev _ _ _ _ => 1
  | .mov _ _ _ _ => 1
  | .lea _ _ _ _ _ _ => 1
  | .sel _ _ _ _ _ _ _ => 1
  | .iaddImm _ _ _ _ _ => 2
  | .imulImm _ _ _ _ _ => 3
  | .shlImm _ _ _ _ _ => 4
  | .shrImm _ _ _ _ _ => 4
  | .sarImm _ _ _ _ _ => 4
  | .bfe _ _ _ _ _ _ => 5
  | .bfi _ _ _ _ _ _ => 5
  | .movi _ _ _ => 6
  | .iadd64 _ _ _ _ _ _ => 7
  | .isub64 _ _ _ _ _ _ => 7
  | .imulwI32 _ _ _ _ _ _ => 7
  | .imulwN32 _ _ _ _ _ _ => 7
  | .leaShift _ _ _ _ _ _ _ => 7
  | .icmp _ _ _ _ _ _ _ => 7
  | .fadd r _ _ _ _ _ _ => 2#4 ++ r.bits
  | .fsub r _ _ _ _ _ _ => 2#4 ++ r.bits
  | .fmul r _ _ _ _ _ _ => 2#4 ++ r.bits
  | .ffma r _ _ _ _ _ _ => 2#4 ++ r.bits
  | .frcp r _ _ _ _ => 2#4 ++ r.bits
  | .frsq r _ _ _ _ => 2#4 ++ r.bits
  | .fsqrt r _ _ _ _ => 2#4 ++ r.bits
  | .fexp2 r _ _ _ _ => 2#4 ++ r.bits
  | .flog2 r _ _ _ _ => 2#4 ++ r.bits
  | .fsin r _ _ _ _ => 2#4 ++ r.bits
  | .fcos r _ _ _ _ => 2#4 ++ r.bits
  | .frint r _ _ _ _ => 2#4 ++ r.bits
  | .hfma2 r _ _ _ _ _ _ => 2#4 ++ r.bits
  | .hadd2 r _ _ _ _ _ _ => 2#4 ++ r.bits
  | .hmul2 r _ _ _ _ _ _ => 2#4 ++ r.bits
  | .fmin _ _ _ _ _ _ => 8
  | .fmax _ _ _ _ _ _ => 8
  | .fneg _ _ _ _ => 8
  | .fabs _ _ _ _ => 8
  | .fclass _ _ _ _ => 8
  | .fcmp _ _ _ _ _ _ _ => 8
  | .cvt _ _ _ _ _ _ _ => 12
  | .cvtn _ _ _ _ _ _ _ => 13
  | .cvtPart _ _ _ _ _ _ => 13
  | .bxq _ _ _ _ _ => 13
  | .bxd _ _ _ _ _ => 13
  | .pand _ _ _ _ _ _ => 14
  | .por _ _ _ _ _ _ => 14
  | .pxor _ _ _ _ _ _ => 14
  | .pnot _ _ _ _ => 14
  | .pset _ _ _ _ => 14
  | .pget _ _ _ _ => 14
  | .reduceAddI32 _ _ _ _ _ _ => 15
  | .reduceMinI32 _ _ _ _ _ _ => 15
  | .reduceMinN32 _ _ _ _ _ _ => 15
  | .reduceMaxI32 _ _ _ _ _ _ => 15
  | .reduceMaxN32 _ _ _ _ _ _ => 15
  | .reduceAnd _ _ _ _ _ _ => 15
  | .reduceOr _ _ _ _ _ _ => 15
  | .reduceXor _ _ _ _ _ _ => 15
  | .reduceMinF32 _ _ _ _ _ _ => 15
  | .reduceMaxF32 _ _ _ _ _ _ => 15
  | .reduceAddF32Rz _ _ _ _ _ _ => 15
  | .reduceAddF32Hint _ _ _ _ _ _ => 15
  | .reduceAddF32 _ _ _ _ _ _ => 15
  | .reduceAddF32Rn _ _ _ _ _ _ => 15
  | .scanAddI32 _ _ _ _ _ _ => 15
  | .scanMinI32 _ _ _ _ _ _ => 15
  | .scanMaxI32 _ _ _ _ _ _ => 15
  | .scanAddF32Rn _ _ _ _ _ _ => 15
  | .scanAddF32Rz _ _ _ _ _ _ => 15
  | .scanAddF32Hint _ _ _ _ _ _ => 15
  | .scanAddF32 _ _ _ _ _ _ => 15
  | .voteAny _ _ _ _ _ => 15
  | .voteAll _ _ _ _ _ => 15
  | .voteCnt _ _ _ _ _ => 15
  | .matchV _ _ _ _ => 15
  | .bcast _ _ _ _ _ _ => 15
  | .v2s _ _ _ _ _ _ => 15
  | .s2v _ _ _ _ => 15
  | .pack _ => 15
  | .regroup _ _ _ _ => 15
  | .shfl _ _ _ _ _ _ _ _ => 16
  | .sadd _ _ _ _ _ => 32
  | .ssub _ _ _ _ _ => 32
  | .smul _ _ _ _ _ => 32
  | .smulhI64 _ _ _ _ _ => 32
  | .smulhN64 _ _ _ _ _ => 32
  | .sand _ _ _ _ _ => 32
  | .sor _ _ _ _ _ => 32
  | .sxor _ _ _ _ _ => 32
  | .sshl _ _ _ _ _ => 32
  | .sshr _ _ _ _ _ => 32
  | .ssar _ _ _ _ _ => 32
  | .sminI64 _ _ _ _ _ => 32
  | .sminN64 _ _ _ _ _ => 32
  | .smaxI64 _ _ _ _ _ => 32
  | .smaxN64 _ _ _ _ _ => 32
  | .smov _ _ _ => 32
  | .scmp _ _ _ _ _ _ => 32
  | .ssel _ _ _ _ _ => 32
  | .saddi _ _ _ => 33
  | .slih _ _ => 34
  | .sshlImm _ _ _ => 35
  | .sshrImm _ _ _ => 35
  | .ssarImm _ _ _ => 35
  | .bra _ _ => 38
  | .bru _ _ => 38
  | .brc _ _ _ => 39
  | .call _ _ => 40
  | .loop _ _ => 41
  | .nop => 42
  | .join _ => 42
  | .calli _ _ _ => 42
  | .ret => 42
  | .yield => 42
  | .endP => 42
  | .width _ _ _ => 43
  | .ld _ _ _ _ _ _ _ => 44
  | .st _ _ _ _ _ _ _ => 45
  | .lds _ _ _ _ _ _ => 46
  | .sts _ _ _ _ _ _ => 46
  | .home _ _ _ _ _ => 46
  | .ptab _ _ _ => 46
  | .ptabFail _ _ _ => 46
  | .fence _ => 46
  | .stp _ _ _ _ _ _ _ => 47
  | .atm _ _ _ _ _ _ _ => 48
  | .atp _ _ _ _ _ _ _ => 49
  | .atpVadd _ _ _ _ _ _ _ => 49
  | .pld _ _ _ _ _ _ _ => 51
  | .pst _ _ _ _ _ _ _ => 52
  | .patm _ _ _ _ _ _ _ => 53
  | .pstep _ => 53
  | .bar _ _ _ => 53
  | .bara _ _ _ => 53
  | .barw _ _ _ => 53
  | .tcfg _ _ _ _ => 54
  | .tld _ _ _ _ _ _ => 54
  | .tst _ _ _ _ _ _ => 54
  | .tzero _ _ => 54
  | .wld _ _ _ _ => 54
  | .mma _ _ _ _ => 55
  | .mmas _ _ _ _ _ _ => 55
  | .mbatch _ _ => 56
  | .mwait _ _ _ => 56
  | .accget _ _ _ => 56
  | .accput _ => 56
  | .acq _ _ => 56
  | .rel _ _ => 56
  | .accrd _ _ _ _ _ => 56
  | .accrd4 _ _ _ _ _ => 56
  | .accwr _ _ _ _ _ _ => 56
  | .accwr4 _ _ _ _ _ _ => 56
  | .hwait _ => 57
  | .hany _ _ _ => 57
  | .hall _ _ => 57
  | .hfirst _ _ _ => 57
  | .hclaim _ => 57
  | .hfree _ => 57
  | .hsig _ _ => 57
  | .copy _ _ _ => 58
  | .copy2d _ _ _ => 58
  | .gather _ _ _ => 58
  | .scatter _ _ _ => 58
  | .mpwait _ => 59
  | .hset _ _ => 59
  | .hexp _ _ => 59
  | .mpfence => 59
  | .mpend => 59
  | .emit _ _ _ _ => 60
  | .depdec _ _ _ => 60
  | .qpush _ _ _ _ _ _ => 60
  | .qpop _ _ _ _ => 60
  | .bfork _ _ => 60
  | .bforkStamp _ _ _ => 60
  | .bcancel _ _ _ => 60
  | .chfork _ _ _ _ => 60
  | .chapp _ _ _ _ _ _ => 60
  | .chrel _ _ _ => 60
  | .srd _ _ => 61
  | .swr _ _ _ => 61
  | .srdVector _ => 61
  | .trap _ _ _ => 62
  | .rft _ _ => 62
  | .ifence => 62
  | .bkpt _ => 62
  | .halt => 62
  | .pfix _ _ => 62
  | .pfixDrop _ _ => 62
  | .ctxsv _ _ => 62
  | .ctxld _ _ _ => 62
  | .ctxldKill _ _ _ => 62
  | .hintImm _ => 63
  | .hintRnd _ => 63
  | .hintSched _ => 63
  | .hintFmt _ => 63
  | .siblingHalt _ => 0
  | .registerFill _ _ => 0
  | .hopLanding _ _ => 0
  | .parkedImageResume _ _ => 0
  | .parkSwitchOut _ => 0
  | .crewSwitchOut _ => 0
  | .watchdogExpiry _ => 0
  | .regroupWindowExpiry _ => 0
  | .postPerform _ => 0
  | .postAcknowledgement _ => 0
  | .hostAccess _ => 0
  | .copySector _ _ _ => 0
  | .matrixOperation _ => 0
  | .accgetGrant _ => 0
  | .movementFault _ => 0
  | .engineRelease _ => 0
  | .clutchRecordArrival _ => 0
  | .clutchTimer _ _ _ => 0
  | .launchRecordTake _ => 0
  | .knotPlacement _ => 0
  | .crewPlacement _ => 0
  | .stealMessage _ => 0
  | .launchCompletion _ => 0
  | .preemptionComplete _ => 0
  | .eccError _ => 0
  | .governorStep _ _ => 0
  | .resetModule _ _ => 0
  | .qreg _ => 0
  | .bindObject _ => 0
  | .lazyBind _ => 0
  | .shoot _ => 0
  | .keyload _ => 0
  | .circuit _ => 0
  | .pool _ => 0
  | .preempt _ => 0
  | .resume _ => 0
  | .haltstk _ => 0
  | .runstk _ => 0
  | .attest _ => 0
  | .devhashReport _ => 0
  | .wlist _ => 0
  | .signkey _ => 0
  | .unlistedCommand _ => 0
  | .illegalEncoding => 0
  | .fetchBeyondExtent => 0
  | .larzonConfigurationSpaceWrite _ _ => 0
  | .fabricPacketResend _ => 0

/-- The word of an instruction has the major of its family; an event or command has no word. -/
def Statement (i : Instr) : Prop := ∀ w : Word, encode i = some w → w.extractLsb' 26 6 = majorOf i

/-- A packed word has the major it was packed with. -/
theorem of_pack {i : Instr} {v : Word} (h : encode i = some v) (hv : v.extractLsb' 26 6 = majorOf i) : Statement i := by
  intro w hw; rw [h] at hw; cases hw; exact hv

/-- An instruction without a word has nothing to show. -/
theorem of_none {i : Instr} (h : encode i = none) : Statement i := by
  intro w hw; rw [h] at hw; cases hw

theorem iadd (g : Guard) (d a b : VReg) (e f : Bool) : Statement (.iadd g d a b e f) := of_pack rfl (VecForm.major_pack _ _)
theorem isub (g : Guard) (d a b : VReg) (e f : Bool) : Statement (.isub g d a b e f) := of_pack rfl (VecForm.major_pack _ _)
theorem imul (g : Guard) (d a b : VReg) (e f : Bool) : Statement (.imul g d a b e f) := of_pack rfl (VecForm.major_pack _ _)
theorem imulhI32 (g : Guard) (d a b : VReg) (e f : Bool) : Statement (.imulhI32 g d a b e f) := of_pack rfl (VecForm.major_pack _ _)
theorem imulhN32 (g : Guard) (d a b : VReg) (e f : Bool) : Statement (.imulhN32 g d a b e f) := of_pack rfl (VecForm.major_pack _ _)
theorem imad (g : Guard) (d a b : VReg) (e f : Bool) : Statement (.imad g d a b e f) := of_pack rfl (VecForm.major_pack _ _)
theorem iminI32 (g : Guard) (d a b : VReg) (e f : Bool) : Statement (.iminI32 g d a b e f) := of_pack rfl (VecForm.major_pack _ _)
theorem iminN32 (g : Guard) (d a b : VReg) (e f : Bool) : Statement (.iminN32 g d a b e f) := of_pack rfl (VecForm.major_pack _ _)
theorem imaxI32 (g : Guard) (d a b : VReg) (e f : Bool) : Statement (.imaxI32 g d a b e f) := of_pack rfl (VecForm.major_pack _ _)
theorem imaxN32 (g : Guard) (d a b : VReg) (e f : Bool) : Statement (.imaxN32 g d a b e f) := of_pack rfl (VecForm.major_pack _ _)
theorem iabs (g : Guard) (d a : VReg) (e : Bool) : Statement (.iabs g d a e) := of_pack rfl (VecForm.major_pack _ _)
theorem andV (g : Guard) (d a b : VReg) (e f : Bool) : Statement (.andV g d a b e f) := of_pack rfl (VecForm.major_pack _ _)
theorem orV (g : Guard) (d a b : VReg) (e f : Bool) : Statement (.orV g d a b e f) := of_pack rfl (VecForm.major_pack _ _)
theorem xorV (g : Guard) (d a b : VReg) (e f : Bool) : Statement (.xorV g d a b e f) := of_pack rfl (VecForm.major_pack _ _)
theorem andn (g : Guard) (d a b : VReg) (e f : Bool) : Statement (.andn g d a b e f) := of_pack rfl (VecForm.major_pack _ _)
theorem shl (g : Guard) (d a b : VReg) (e f : Bool) : Statement (.shl g d a b e f) := of_pack rfl (VecForm.major_pack _ _)
theorem shr (g : Guard) (d a b : VReg) (e f : Bool) : Statement (.shr g d a b e f) := of_pack rfl (VecForm.major_pack _ _)
theorem sar (g : Guard) (d a b : VReg) (e f : Bool) : Statement (.sar g d a b e f) := of_pack rfl (VecForm.major_pack _ _)
theorem popc (g : Guard) (d a : VReg) (e : Bool) : Statement (.popc g d a e) := of_pack rfl (VecForm.major_pack _ _)
theorem clz (g : Guard) (d a : VReg) (e : Bool) : Statement (.clz g d a e) := of_pack rfl (VecForm.major_pack _ _)
theorem brev (g : Guard) (d a : VReg) (e : Bool) : Statement (.brev g d a e) := of_pack rfl (VecForm.major_pack _ _)
theorem mov (g : Guard) (d a : VReg) (e : Bool) : Statement (.mov g d a e) := of_pack rfl (VecForm.major_pack _ _)
theorem lea (g : Guard) (d a b : VReg) (e f : Bool) : Statement (.lea g d a b e f) := of_pack rfl (VecForm.major_pack _ _)
theorem sel (g : Guard) (d a b : VReg) (e f : Bool) (p : PReg) : Statement (.sel g d a b e f p) := of_pack rfl (VecForm.major_pack _ _)
theorem iaddImm (g : Guard) (d a : VReg) (e : Bool) (i : BitVec 11) : Statement (.iaddImm g d a e i) :=
  of_pack rfl (VecImmForm.major_pack _ _)
theorem imulImm (g : Guard) (d a : VReg) (e : Bool) (i : BitVec 11) : Statement (.imulImm g d a e i) :=
  of_pack rfl (VecImmForm.major_pack _ _)
theorem shlImm (g : Guard) (d a : VReg) (e : Bool) (n : BitVec 5) : Statement (.shlImm g d a e n) := of_pack rfl (VecImmForm.major_pack _ _)
theorem shrImm (g : Guard) (d a : VReg) (e : Bool) (n : BitVec 5) : Statement (.shrImm g d a e n) := of_pack rfl (VecImmForm.major_pack _ _)
theorem sarImm (g : Guard) (d a : VReg) (e : Bool) (n : BitVec 5) : Statement (.sarImm g d a e n) := of_pack rfl (VecImmForm.major_pack _ _)
theorem bfe (g : Guard) (d a : VReg) (e : Bool) (p l : BitVec 5) : Statement (.bfe g d a e p l) := of_pack rfl (VecImmForm.major_pack _ _)
theorem bfi (g : Guard) (d a : VReg) (e : Bool) (p l : BitVec 5) : Statement (.bfi g d a e p l) := of_pack rfl (VecImmForm.major_pack _ _)
theorem movi (g : Guard) (d : VReg) (i : BitVec 11) : Statement (.movi g d i) := of_pack rfl (VecImmForm.major_pack _ _)
theorem iadd64 (g : Guard) (d a b : VReg) (e f : Bool) : Statement (.iadd64 g d a b e f) := of_pack rfl (VecForm.major_pack _ _)
theorem isub64 (g : Guard) (d a b : VReg) (e f : Bool) : Statement (.isub64 g d a b e f) := of_pack rfl (VecForm.major_pack _ _)
theorem imulwI32 (g : Guard) (d a b : VReg) (e f : Bool) : Statement (.imulwI32 g d a b e f) := of_pack rfl (VecForm.major_pack _ _)
theorem imulwN32 (g : Guard) (d a b : VReg) (e f : Bool) : Statement (.imulwN32 g d a b e f) := of_pack rfl (VecForm.major_pack _ _)
theorem leaShift (g : Guard) (d a b : VReg) (e f : Bool) (s : BitVec 2) : Statement (.leaShift g d a b e f s) :=
  of_pack rfl (VecForm.major_pack _ _)
theorem icmp (g : Guard) (d : PReg) (a b : VReg) (e f : Bool) (c : Cond) : Statement (.icmp g d a b e f c) :=
  of_pack rfl (VecForm.major_pack _ _)
theorem fadd (r : RndField) (g : Guard) (d a b : VReg) (e f : Bool) : Statement (.fadd r g d a b e f) :=
  of_pack rfl (VecForm.major_pack _ _)
theorem fsub (r : RndField) (g : Guard) (d a b : VReg) (e f : Bool) : Statement (.fsub r g d a b e f) :=
  of_pack rfl (VecForm.major_pack _ _)
theorem fmul (r : RndField) (g : Guard) (d a b : VReg) (e f : Bool) : Statement (.fmul r g d a b e f) :=
  of_pack rfl (VecForm.major_pack _ _)
theorem ffma (r : RndField) (g : Guard) (d a b : VReg) (e f : Bool) : Statement (.ffma r g d a b e f) :=
  of_pack rfl (VecForm.major_pack _ _)
theorem frcp (r : RndField) (g : Guard) (d a : VReg) (e : Bool) : Statement (.frcp r g d a e) := of_pack rfl (VecForm.major_pack _ _)
theorem frsq (r : RndField) (g : Guard) (d a : VReg) (e : Bool) : Statement (.frsq r g d a e) := of_pack rfl (VecForm.major_pack _ _)
theorem fsqrt (r : RndField) (g : Guard) (d a : VReg) (e : Bool) : Statement (.fsqrt r g d a e) := of_pack rfl (VecForm.major_pack _ _)
theorem fexp2 (r : RndField) (g : Guard) (d a : VReg) (e : Bool) : Statement (.fexp2 r g d a e) := of_pack rfl (VecForm.major_pack _ _)
theorem flog2 (r : RndField) (g : Guard) (d a : VReg) (e : Bool) : Statement (.flog2 r g d a e) := of_pack rfl (VecForm.major_pack _ _)
theorem fsin (r : RndField) (g : Guard) (d a : VReg) (e : Bool) : Statement (.fsin r g d a e) := of_pack rfl (VecForm.major_pack _ _)
theorem fcos (r : RndField) (g : Guard) (d a : VReg) (e : Bool) : Statement (.fcos r g d a e) := of_pack rfl (VecForm.major_pack _ _)
theorem frint (r : RndField) (g : Guard) (d a : VReg) (e : Bool) : Statement (.frint r g d a e) := of_pack rfl (VecForm.major_pack _ _)
theorem hfma2 (r : RndField) (g : Guard) (d a b : VReg) (e f : Bool) : Statement (.hfma2 r g d a b e f) :=
  of_pack rfl (VecForm.major_pack _ _)
theorem hadd2 (r : RndField) (g : Guard) (d a b : VReg) (e f : Bool) : Statement (.hadd2 r g d a b e f) :=
  of_pack rfl (VecForm.major_pack _ _)
theorem hmul2 (r : RndField) (g : Guard) (d a b : VReg) (e f : Bool) : Statement (.hmul2 r g d a b e f) :=
  of_pack rfl (VecForm.major_pack _ _)
theorem fmin (g : Guard) (d a b : VReg) (e f : Bool) : Statement (.fmin g d a b e f) := of_pack rfl (VecForm.major_pack _ _)
theorem fmax (g : Guard) (d a b : VReg) (e f : Bool) : Statement (.fmax g d a b e f) := of_pack rfl (VecForm.major_pack _ _)
theorem fneg (g : Guard) (d a : VReg) (e : Bool) : Statement (.fneg g d a e) := of_pack rfl (VecForm.major_pack _ _)
theorem fabs (g : Guard) (d a : VReg) (e : Bool) : Statement (.fabs g d a e) := of_pack rfl (VecForm.major_pack _ _)
theorem fclass (g : Guard) (d a : VReg) (e : Bool) : Statement (.fclass g d a e) := of_pack rfl (VecForm.major_pack _ _)
theorem fcmp (g : Guard) (d : PReg) (a b : VReg) (e f : Bool) (c : FCond) : Statement (.fcmp g d a b e f c) :=
  of_pack rfl (VecForm.major_pack _ _)
theorem cvt (g : Guard) (d a : VReg) (e : Bool) (r : RndField) (t s : TypeCode) : Statement (.cvt g d a e r t s) :=
  of_pack rfl (CvtForm.major_pack _ _)
theorem cvtn (g : Guard) (d a : VReg) (e : Bool) (r : RndField) (p : BitVec 2) (t : TypeCode) : Statement (.cvtn g d a e r p t) :=
  of_pack rfl (PartForm.major_pack _ _)
theorem cvtPart (g : Guard) (d a : VReg) (e : Bool) (p : BitVec 2) (t : TypeCode) : Statement (.cvtPart g d a e p t) :=
  of_pack rfl (PartForm.major_pack _ _)
theorem bxq (g : Guard) (d a : VReg) (e : Bool) (t : TypeCode) : Statement (.bxq g d a e t) := of_pack rfl (PartForm.major_pack _ _)
theorem bxd (g : Guard) (d a : VReg) (e : Bool) (t : TypeCode) : Statement (.bxd g d a e t) := of_pack rfl (PartForm.major_pack _ _)
theorem pand (g : Guard) (d a b : PReg) (e f : Bool) : Statement (.pand g d a b e f) := of_pack rfl (VecForm.major_pack _ _)
theorem por (g : Guard) (d a b : PReg) (e f : Bool) : Statement (.por g d a b e f) := of_pack rfl (VecForm.major_pack _ _)
theorem pxor (g : Guard) (d a b : PReg) (e f : Bool) : Statement (.pxor g d a b e f) := of_pack rfl (VecForm.major_pack _ _)
theorem pnot (g : Guard) (d a : PReg) (e : Bool) : Statement (.pnot g d a e) := of_pack rfl (VecForm.major_pack _ _)
theorem pset (g : Guard) (d : PReg) (a : VReg) (e : Bool) : Statement (.pset g d a e) := of_pack rfl (VecForm.major_pack _ _)
theorem pget (g : Guard) (d : VReg) (a : PReg) (e : Bool) : Statement (.pget g d a e) := of_pack rfl (VecForm.major_pack _ _)
theorem reduceAddI32 (g : Guard) (d : SReg) (a : VReg) (b : SReg) (e f : Bool) : Statement (.reduceAddI32 g d a b e f) :=
  of_pack rfl (VecForm.major_pack _ _)
theorem reduceMinI32 (g : Guard) (d : SReg) (a : VReg) (b : SReg) (e f : Bool) : Statement (.reduceMinI32 g d a b e f) :=
  of_pack rfl (VecForm.major_pack _ _)
theorem reduceMinN32 (g : Guard) (d : SReg) (a : VReg) (b : SReg) (e f : Bool) : Statement (.reduceMinN32 g d a b e f) :=
  of_pack rfl (VecForm.major_pack _ _)
theorem reduceMaxI32 (g : Guard) (d : SReg) (a : VReg) (b : SReg) (e f : Bool) : Statement (.reduceMaxI32 g d a b e f) :=
  of_pack rfl (VecForm.major_pack _ _)
theorem reduceMaxN32 (g : Guard) (d : SReg) (a : VReg) (b : SReg) (e f : Bool) : Statement (.reduceMaxN32 g d a b e f) :=
  of_pack rfl (VecForm.major_pack _ _)
theorem reduceAnd (g : Guard) (d : SReg) (a : VReg) (b : SReg) (e f : Bool) : Statement (.reduceAnd g d a b e f) :=
  of_pack rfl (VecForm.major_pack _ _)
theorem reduceOr (g : Guard) (d : SReg) (a : VReg) (b : SReg) (e f : Bool) : Statement (.reduceOr g d a b e f) :=
  of_pack rfl (VecForm.major_pack _ _)
theorem reduceXor (g : Guard) (d : SReg) (a : VReg) (b : SReg) (e f : Bool) : Statement (.reduceXor g d a b e f) :=
  of_pack rfl (VecForm.major_pack _ _)
theorem reduceMinF32 (g : Guard) (d : SReg) (a : VReg) (b : SReg) (e f : Bool) : Statement (.reduceMinF32 g d a b e f) :=
  of_pack rfl (VecForm.major_pack _ _)
theorem reduceMaxF32 (g : Guard) (d : SReg) (a : VReg) (b : SReg) (e f : Bool) : Statement (.reduceMaxF32 g d a b e f) :=
  of_pack rfl (VecForm.major_pack _ _)
theorem reduceAddF32Rz (g : Guard) (d : SReg) (a : VReg) (b : SReg) (e f : Bool) : Statement (.reduceAddF32Rz g d a b e f) :=
  of_pack rfl (VecForm.major_pack _ _)
theorem reduceAddF32Hint (g : Guard) (d : SReg) (a : VReg) (b : SReg) (e f : Bool) : Statement (.reduceAddF32Hint g d a b e f) :=
  of_pack rfl (VecForm.major_pack _ _)
theorem reduceAddF32 (g : Guard) (d : SReg) (a : VReg) (b : SReg) (e f : Bool) : Statement (.reduceAddF32 g d a b e f) :=
  of_pack rfl (VecForm.major_pack _ _)
theorem reduceAddF32Rn (g : Guard) (d : SReg) (a : VReg) (b : SReg) (e f : Bool) : Statement (.reduceAddF32Rn g d a b e f) :=
  of_pack rfl (VecForm.major_pack _ _)
theorem scanAddI32 (g : Guard) (d a : VReg) (b : SReg) (e f : Bool) : Statement (.scanAddI32 g d a b e f) :=
  of_pack rfl (VecForm.major_pack _ _)
theorem scanMinI32 (g : Guard) (d a : VReg) (b : SReg) (e f : Bool) : Statement (.scanMinI32 g d a b e f) :=
  of_pack rfl (VecForm.major_pack _ _)
theorem scanMaxI32 (g : Guard) (d a : VReg) (b : SReg) (e f : Bool) : Statement (.scanMaxI32 g d a b e f) :=
  of_pack rfl (VecForm.major_pack _ _)
theorem scanAddF32Rn (g : Guard) (d a : VReg) (b : SReg) (e f : Bool) : Statement (.scanAddF32Rn g d a b e f) :=
  of_pack rfl (VecForm.major_pack _ _)
theorem scanAddF32Rz (g : Guard) (d a : VReg) (b : SReg) (e f : Bool) : Statement (.scanAddF32Rz g d a b e f) :=
  of_pack rfl (VecForm.major_pack _ _)
theorem scanAddF32Hint (g : Guard) (d a : VReg) (b : SReg) (e f : Bool) : Statement (.scanAddF32Hint g d a b e f) :=
  of_pack rfl (VecForm.major_pack _ _)
theorem scanAddF32 (g : Guard) (d a : VReg) (b : SReg) (e f : Bool) : Statement (.scanAddF32 g d a b e f) :=
  of_pack rfl (VecForm.major_pack _ _)
theorem voteAny (g : Guard) (d : SReg) (a : PReg) (k : BitVec 5) (e : Bool) : Statement (.voteAny g d a k e) :=
  of_pack rfl (VecForm.major_pack _ _)
theorem voteAll (g : Guard) (d : SReg) (a : PReg) (k : BitVec 5) (e : Bool) : Statement (.voteAll g d a k e) :=
  of_pack rfl (VecForm.major_pack _ _)
theorem voteCnt (g : Guard) (d : SReg) (a : PReg) (k : BitVec 5) (e : Bool) : Statement (.voteCnt g d a k e) :=
  of_pack rfl (VecForm.major_pack _ _)
theorem matchV (g : Guard) (d a : VReg) (e : Bool) : Statement (.matchV g d a e) := of_pack rfl (VecForm.major_pack _ _)
theorem bcast (g : Guard) (d a : VReg) (b : SReg) (e f : Bool) : Statement (.bcast g d a b e f) := of_pack rfl (VecForm.major_pack _ _)
theorem v2s (g : Guard) (d : SReg) (a : VReg) (b : SReg) (e f : Bool) : Statement (.v2s g d a b e f) := of_pack rfl (VecForm.major_pack _ _)
theorem s2v (g : Guard) (d : VReg) (a : SReg) (e : Bool) : Statement (.s2v g d a e) := of_pack rfl (VecForm.major_pack _ _)
theorem pack (g : Bool) : Statement (.pack g) := of_pack rfl (VecForm.major_pack _ _)
theorem regroup (g : Bool) (d a : SReg) (e : Bool) : Statement (.regroup g d a e) := of_pack rfl (VecForm.major_pack _ _)
theorem shfl (g : Guard) (d a b : VReg) (e f : Bool) (m : ShflMode) (p : PReg) : Statement (.shfl g d a b e f m p) :=
  of_pack rfl (VecForm.major_pack _ _)
theorem sadd (d a b : SReg) (e f : Bool) : Statement (.sadd d a b e f) := of_pack rfl (ScalForm.major_pack _ _)
theorem ssub (d a b : SReg) (e f : Bool) : Statement (.ssub d a b e f) := of_pack rfl (ScalForm.major_pack _ _)
theorem smul (d a b : SReg) (e f : Bool) : Statement (.smul d a b e f) := of_pack rfl (ScalForm.major_pack _ _)
theorem smulhI64 (d a b : SReg) (e f : Bool) : Statement (.smulhI64 d a b e f) := of_pack rfl (ScalForm.major_pack _ _)
theorem smulhN64 (d a b : SReg) (e f : Bool) : Statement (.smulhN64 d a b e f) := of_pack rfl (ScalForm.major_pack _ _)
theorem sand (d a b : SReg) (e f : Bool) : Statement (.sand d a b e f) := of_pack rfl (ScalForm.major_pack _ _)
theorem sor (d a b : SReg) (e f : Bool) : Statement (.sor d a b e f) := of_pack rfl (ScalForm.major_pack _ _)
theorem sxor (d a b : SReg) (e f : Bool) : Statement (.sxor d a b e f) := of_pack rfl (ScalForm.major_pack _ _)
theorem sshl (d a b : SReg) (e f : Bool) : Statement (.sshl d a b e f) := of_pack rfl (ScalForm.major_pack _ _)
theorem sshr (d a b : SReg) (e f : Bool) : Statement (.sshr d a b e f) := of_pack rfl (ScalForm.major_pack _ _)
theorem ssar (d a b : SReg) (e f : Bool) : Statement (.ssar d a b e f) := of_pack rfl (ScalForm.major_pack _ _)
theorem sminI64 (d a b : SReg) (e f : Bool) : Statement (.sminI64 d a b e f) := of_pack rfl (ScalForm.major_pack _ _)
theorem sminN64 (d a b : SReg) (e f : Bool) : Statement (.sminN64 d a b e f) := of_pack rfl (ScalForm.major_pack _ _)
theorem smaxI64 (d a b : SReg) (e f : Bool) : Statement (.smaxI64 d a b e f) := of_pack rfl (ScalForm.major_pack _ _)
theorem smaxN64 (d a b : SReg) (e f : Bool) : Statement (.smaxN64 d a b e f) := of_pack rfl (ScalForm.major_pack _ _)
theorem smov (d a : SReg) (e : Bool) : Statement (.smov d a e) := of_pack rfl (ScalForm.major_pack _ _)
theorem scmp (d a b : SReg) (e f : Bool) (c : Cond) : Statement (.scmp d a b e f c) := of_pack rfl (ScalForm.major_pack _ _)
theorem ssel (d a b : SReg) (e f : Bool) : Statement (.ssel d a b e f) := of_pack rfl (ScalForm.major_pack _ _)
theorem saddi (d a : SReg) (i : BitVec 16) : Statement (.saddi d a i) := of_pack rfl (ScalImmForm.major_pack _ _)
theorem slih (d : SReg) (i : BitVec 20) : Statement (.slih d i) := of_pack rfl (UpperForm.major_pack _ _)
theorem sshlImm (d a : SReg) (n : BitVec 6) : Statement (.sshlImm d a n) := of_pack rfl (ScalImmForm.major_pack _ _)
theorem sshrImm (d a : SReg) (n : BitVec 6) : Statement (.sshrImm d a n) := of_pack rfl (ScalImmForm.major_pack _ _)
theorem ssarImm (d a : SReg) (n : BitVec 6) : Statement (.ssarImm d a n) := of_pack rfl (ScalImmForm.major_pack _ _)
theorem bra (g : Bool) (o : BitVec 18) : Statement (.bra g o) := of_pack rfl (BranchForm.major_pack _ _)
theorem bru (g : Guard) (o : BitVec 18) : Statement (.bru g o) := of_pack rfl (BranchForm.major_pack _ _)
theorem brc (g : Guard) (w : Pond) (o : BitVec 18) : Statement (.brc g w o) := of_pack rfl (BranchForm.major_pack _ _)
theorem call (f : BitVec 5) (o : BitVec 18) : Statement (.call f o) := of_pack rfl (CallForm.major_pack _ _)
theorem loop (n : SReg) (o : BitVec 18) : Statement (.loop n o) := of_pack rfl (CallForm.major_pack _ _)
theorem nop : Statement (.nop) := of_pack rfl (ScalForm.major_pack _ _)
theorem join (w : Pond) : Statement (.join w) := of_pack rfl (ScalForm.major_pack _ _)
theorem calli (a : SReg) (f : BitVec 5) (e : Bool) : Statement (.calli a f e) := of_pack rfl (ScalForm.major_pack _ _)
theorem ret : Statement (.ret) := of_pack rfl (ScalForm.major_pack _ _)
theorem yield : Statement (.yield) := of_pack rfl (ScalForm.major_pack _ _)
theorem endP : Statement (.endP) := of_pack rfl (ScalForm.major_pack _ _)
theorem width (d a : SReg) (i : BitVec 16) : Statement (.width d a i) := of_pack rfl (ScalImmForm.major_pack _ _)
theorem ld (g : Guard) (d a : VReg) (b : SReg) (e : Bool) (z : MemSize) (o : BitVec 3) : Statement (.ld g d a b e z o) :=
  of_pack rfl (MemForm.major_pack _ _)
theorem st (g : Guard) (s a : VReg) (b : SReg) (e : Bool) (z : MemSize) (o : BitVec 3) : Statement (.st g s a b e z o) :=
  of_pack rfl (MemForm.major_pack _ _)
theorem lds (g : Bool) (d b : SReg) (e : Bool) (z : MemSize) (o : BitVec 3) : Statement (.lds g d b e z o) :=
  of_pack rfl (MemForm.major_pack _ _)
theorem sts (g : Bool) (s b : SReg) (e : Bool) (z : MemSize) (o : BitVec 3) : Statement (.sts g s b e z o) :=
  of_pack rfl (MemForm.major_pack _ _)
theorem home (g : Bool) (d b : SReg) (e : Bool) (o : BitVec 3) : Statement (.home g d b e o) := of_pack rfl (MemForm.major_pack _ _)
theorem ptab (g : Bool) (d : SReg) (i : BitVec 3) : Statement (.ptab g d i) := of_pack rfl (MemForm.major_pack _ _)
theorem ptabFail (g : Bool) (d : SReg) (i : BitVec 3) : Statement (.ptabFail g d i) := of_pack rfl (MemForm.major_pack _ _)
theorem fence (g : Bool) : Statement (.fence g) := of_pack rfl (MemForm.major_pack _ _)
theorem stp (g : Guard) (s a : VReg) (b : SReg) (e : Bool) (z : MemSize) (o : BitVec 3) : Statement (.stp g s a b e z o) :=
  of_pack rfl (MemForm.major_pack _ _)
theorem atm (g : Guard) (d a : VReg) (b : SReg) (e : Bool) (o : AtomOp) (t : AtomType) : Statement (.atm g d a b e o t) :=
  of_pack rfl (MemForm.major_pack _ _)
theorem atp (g : Guard) (s a : VReg) (b : SReg) (e : Bool) (o : AtomOp) (t : AtomType) : Statement (.atp g s a b e o t) :=
  of_pack rfl (MemForm.major_pack _ _)
theorem atpVadd (g : Guard) (s a : VReg) (b : SReg) (e p : Bool) (t : BitVec 3) : Statement (.atpVadd g s a b e p t) :=
  of_pack rfl (MemForm.major_pack _ _)
theorem pld (g : Guard) (d a : VReg) (b : SReg) (e : Bool) (z : MemSize) (o : BitVec 3) : Statement (.pld g d a b e z o) :=
  of_pack rfl (MemForm.major_pack _ _)
theorem pst (g : Guard) (s a : VReg) (b : SReg) (e : Bool) (z : MemSize) (o : BitVec 3) : Statement (.pst g s a b e z o) :=
  of_pack rfl (MemForm.major_pack _ _)
theorem patm (g : Guard) (d a : VReg) (b : SReg) (e : Bool) (o : AtomOp) (t : PatmType) : Statement (.patm g d a b e o t) :=
  of_pack rfl (MemForm.major_pack _ _)
theorem pstep (g : Bool) : Statement (.pstep g) := of_pack rfl (MemForm.major_pack _ _)
theorem bar (g : Bool) (i : BitVec 4) (s : Scope) : Statement (.bar g i s) := of_pack rfl (MemForm.major_pack _ _)
theorem bara (g : Bool) (i : BitVec 4) (s : Scope) : Statement (.bara g i s) := of_pack rfl (MemForm.major_pack _ _)
theorem barw (g : Bool) (i : BitVec 4) (s : Scope) : Statement (.barw g i s) := of_pack rfl (MemForm.major_pack _ _)
theorem tcfg (g : Bool) (t : Tile) (y : SReg) (e : Bool) : Statement (.tcfg g t y e) := of_pack rfl (VecForm.major_pack _ _)
theorem tld (g : Bool) (t : Tile) (y z : SReg) (e f : Bool) : Statement (.tld g t y z e f) := of_pack rfl (VecForm.major_pack _ _)
theorem tst (g : Bool) (t : Tile) (y z : SReg) (e f : Bool) : Statement (.tst g t y z e f) := of_pack rfl (VecForm.major_pack _ _)
theorem tzero (g : Bool) (t : Tile) : Statement (.tzero g t) := of_pack rfl (VecForm.major_pack _ _)
theorem wld (g : Bool) (t : Tile) (y : SReg) (e : Bool) : Statement (.wld g t y e) := of_pack rfl (VecForm.major_pack _ _)
theorem mma (g : Guard) (a : Acc) (t : Tile) (k : ActType) : Statement (.mma g a t k) := of_pack rfl (VecForm.major_pack _ _)
theorem mmas (g : Guard) (a : Acc) (t : Tile) (v : VReg) (f : Bool) (k : ActType) : Statement (.mmas g a t v f k) :=
  of_pack rfl (VecForm.major_pack _ _)
theorem mbatch (g : Bool) (d : SReg) : Statement (.mbatch g d) := of_pack rfl (VecForm.major_pack _ _)
theorem mwait (g : Bool) (y : SReg) (e : Bool) : Statement (.mwait g y e) := of_pack rfl (VecForm.major_pack _ _)
theorem accget (g : Bool) (d : SReg) (n : BitVec 5) : Statement (.accget g d n) := of_pack rfl (VecForm.major_pack _ _)
theorem accput (g : Bool) : Statement (.accput g) := of_pack rfl (VecForm.major_pack _ _)
theorem acq (g : Bool) (a : Acc) : Statement (.acq g a) := of_pack rfl (VecForm.major_pack _ _)
theorem rel (g : Bool) (a : Acc) : Statement (.rel g a) := of_pack rfl (VecForm.major_pack _ _)
theorem accrd (g : Guard) (d : VReg) (a : Acc) (z : SReg) (f : Bool) : Statement (.accrd g d a z f) := of_pack rfl (VecForm.major_pack _ _)
theorem accrd4 (g : Guard) (d : VReg) (a : Acc) (z : SReg) (f : Bool) : Statement (.accrd4 g d a z f) :=
  of_pack rfl (VecForm.major_pack _ _)
theorem accwr (g : Guard) (a : Acc) (v : VReg) (z : SReg) (e f : Bool) : Statement (.accwr g a v z e f) :=
  of_pack rfl (VecForm.major_pack _ _)
theorem accwr4 (g : Guard) (a : Acc) (v : VReg) (z : SReg) (e f : Bool) : Statement (.accwr4 g a v z e f) :=
  of_pack rfl (VecForm.major_pack _ _)
theorem hwait (h : Handle) : Statement (.hwait h) := of_pack rfl (HandForm.major_pack _ _)
theorem hany (d a : SReg) (e : Bool) : Statement (.hany d a e) := of_pack rfl (HandForm.major_pack _ _)
theorem hall (a : SReg) (e : Bool) : Statement (.hall a e) := of_pack rfl (HandForm.major_pack _ _)
theorem hfirst (d a : SReg) (e : Bool) : Statement (.hfirst d a e) := of_pack rfl (HandForm.major_pack _ _)
theorem hclaim (h : Handle) : Statement (.hclaim h) := of_pack rfl (HandForm.major_pack _ _)
theorem hfree (h : Handle) : Statement (.hfree h) := of_pack rfl (HandForm.major_pack _ _)
theorem hsig (a : SReg) (e : Bool) : Statement (.hsig a e) := of_pack rfl (HandForm.major_pack _ _)
theorem copy (h : Handle) (g d : GReg) : Statement (.copy h g d) := of_pack rfl (MoveForm.major_pack _ _)
theorem copy2d (h : Handle) (g d : GReg) : Statement (.copy2d h g d) := of_pack rfl (MoveForm.major_pack _ _)
theorem gather (h : Handle) (g d : GReg) : Statement (.gather h g d) := of_pack rfl (MoveForm.major_pack _ _)
theorem scatter (h : Handle) (g d : GReg) : Statement (.scatter h g d) := of_pack rfl (MoveForm.major_pack _ _)
theorem mpwait (d : GReg) : Statement (.mpwait d) := of_pack rfl (HandForm.major_pack _ _)
theorem hset (a : GReg) (h : Handle) : Statement (.hset a h) := of_pack rfl (HandForm.major_pack _ _)
theorem hexp (a : GReg) (h : Handle) : Statement (.hexp a h) := of_pack rfl (HandForm.major_pack _ _)
theorem mpfence : Statement (.mpfence) := of_pack rfl (HandForm.major_pack _ _)
theorem mpend : Statement (.mpend) := of_pack rfl (HandForm.major_pack _ _)
theorem emit (g : Guard) (d : VReg) (a : SReg) (e : Bool) : Statement (.emit g d a e) := of_pack rfl (VecForm.major_pack _ _)
theorem depdec (g : Bool) (a : SReg) (e : Bool) : Statement (.depdec g a e) := of_pack rfl (VecForm.major_pack _ _)
theorem qpush (g : Guard) (p : PReg) (a : VReg) (b : SReg) (e f : Bool) : Statement (.qpush g p a b e f) :=
  of_pack rfl (VecForm.major_pack _ _)
theorem qpop (g : Guard) (d : VReg) (b : SReg) (f : Bool) : Statement (.qpop g d b f) := of_pack rfl (VecForm.major_pack _ _)
theorem bfork (g : Bool) (d : SReg) : Statement (.bfork g d) := of_pack rfl (VecForm.major_pack _ _)
theorem bforkStamp (g : Bool) (a : SReg) (e : Bool) : Statement (.bforkStamp g a e) := of_pack rfl (VecForm.major_pack _ _)
theorem bcancel (g : Bool) (a : SReg) (e : Bool) : Statement (.bcancel g a e) := of_pack rfl (VecForm.major_pack _ _)
theorem chfork (g : Bool) (d a : SReg) (e : Bool) : Statement (.chfork g d a e) := of_pack rfl (VecForm.major_pack _ _)
theorem chapp (g : Guard) (d a : VReg) (b : SReg) (e f : Bool) : Statement (.chapp g d a b e f) := of_pack rfl (VecForm.major_pack _ _)
theorem chrel (g : Bool) (a : SReg) (e : Bool) : Statement (.chrel g a e) := of_pack rfl (VecForm.major_pack _ _)
theorem srd (r : SReg) (n : Special) : Statement (.srd r n) := of_pack rfl (SpecForm.major_pack _ _)
theorem swr (r : SReg) (e : Bool) (n : Special) : Statement (.swr r e n) := of_pack rfl (SpecForm.major_pack _ _)
theorem srdVector (r : VReg) : Statement (.srdVector r) := of_pack rfl (SpecForm.major_pack _ _)
theorem trap (a : SReg) (n : BitVec 5) (e : Bool) : Statement (.trap a n e) := of_pack rfl (ScalForm.major_pack _ _)
theorem rft (a : SReg) (e : Bool) : Statement (.rft a e) := of_pack rfl (ScalForm.major_pack _ _)
theorem ifence : Statement (.ifence) := of_pack rfl (ScalForm.major_pack _ _)
theorem bkpt (n : BitVec 5) : Statement (.bkpt n) := of_pack rfl (ScalForm.major_pack _ _)
theorem halt : Statement (.halt) := of_pack rfl (ScalForm.major_pack _ _)
theorem pfix (d : SReg) (i : BitVec 3) : Statement (.pfix d i) := of_pack rfl (ScalForm.major_pack _ _)
theorem pfixDrop (d : SReg) (i : BitVec 3) : Statement (.pfixDrop d i) := of_pack rfl (ScalForm.major_pack _ _)
theorem ctxsv (a : SReg) (e : Bool) : Statement (.ctxsv a e) := of_pack rfl (ScalForm.major_pack _ _)
theorem ctxld (d a : SReg) (e : Bool) : Statement (.ctxld d a e) := of_pack rfl (ScalForm.major_pack _ _)
theorem ctxldKill (d a : SReg) (e : Bool) : Statement (.ctxldKill d a e) := of_pack rfl (ScalForm.major_pack _ _)
theorem hintImm (p : BitVec 23) : Statement (.hintImm p) := of_pack rfl (HintForm.major_pack _ _)
theorem hintRnd (r : Dir) : Statement (.hintRnd r) := of_pack rfl (HintForm.major_pack _ _)
theorem hintSched (p : BitVec 23) : Statement (.hintSched p) := of_pack rfl (HintForm.major_pack _ _)
theorem hintFmt (t : TypeCode) : Statement (.hintFmt t) := of_pack rfl (HintForm.major_pack _ _)
theorem siblingHalt (path : Nat) : Statement (.siblingHalt path) := of_none rfl
theorem registerFill (path flight : Nat) : Statement (.registerFill path flight) := of_none rfl
theorem hopLanding (path core : Nat) : Statement (.hopLanding path core) := of_none rfl
theorem parkedImageResume (home core : Nat) : Statement (.parkedImageResume home core) := of_none rfl
theorem parkSwitchOut (home : Nat) : Statement (.parkSwitchOut home) := of_none rfl
theorem crewSwitchOut (home : Nat) : Statement (.crewSwitchOut home) := of_none rfl
theorem watchdogExpiry (path : Nat) : Statement (.watchdogExpiry path) := of_none rfl
theorem regroupWindowExpiry (path : Nat) : Statement (.regroupWindowExpiry path) := of_none rfl
theorem postPerform (post : Nat) : Statement (.postPerform post) := of_none rfl
theorem postAcknowledgement (ack : Nat) : Statement (.postAcknowledgement ack) := of_none rfl
theorem hostAccess (op : HostOp) : Statement (.hostAccess op) := of_none rfl
theorem copySector (crew copy sector : Nat) : Statement (.copySector crew copy sector) := of_none rfl
theorem matrixOperation (crew : Nat) : Statement (.matrixOperation crew) := of_none rfl
theorem accgetGrant (crew : Nat) : Statement (.accgetGrant crew) := of_none rfl
theorem movementFault (crew : Nat) : Statement (.movementFault crew) := of_none rfl
theorem engineRelease (crew : Nat) : Statement (.engineRelease crew) := of_none rfl
theorem clutchRecordArrival (record : Nat) : Statement (.clutchRecordArrival record) := of_none rfl
theorem clutchTimer (launch node brood : Nat) : Statement (.clutchTimer launch node brood) := of_none rfl
theorem launchRecordTake (module : Nat) : Statement (.launchRecordTake module) := of_none rfl
theorem knotPlacement (home : Nat) : Statement (.knotPlacement home) := of_none rfl
theorem crewPlacement (home : Nat) : Statement (.crewPlacement home) := of_none rfl
theorem stealMessage (thief : Nat) : Statement (.stealMessage thief) := of_none rfl
theorem launchCompletion (launch : Nat) : Statement (.launchCompletion launch) := of_none rfl
theorem preemptionComplete (module : Nat) : Statement (.preemptionComplete module) := of_none rfl
theorem eccError (error : EccError) : Statement (.eccError error) := of_none rfl
theorem governorStep (module : Nat) (up : Bool) : Statement (.governorStep module up) := of_none rfl
theorem resetModule (module : Nat) (stages : List (List Byte × List Byte)) : Statement (.resetModule module stages) := of_none rfl
theorem qreg (module : Nat) : Statement (.qreg module) := of_none rfl
theorem bindObject (module : Nat) : Statement (.bindObject module) := of_none rfl
theorem lazyBind (module : Nat) : Statement (.lazyBind module) := of_none rfl
theorem shoot (module : Nat) : Statement (.shoot module) := of_none rfl
theorem keyload (module : Nat) : Statement (.keyload module) := of_none rfl
theorem circuit (module : Nat) : Statement (.circuit module) := of_none rfl
theorem pool (module : Nat) : Statement (.pool module) := of_none rfl
theorem preempt (module : Nat) : Statement (.preempt module) := of_none rfl
theorem resume (module : Nat) : Statement (.resume module) := of_none rfl
theorem haltstk (module : Nat) : Statement (.haltstk module) := of_none rfl
theorem runstk (module : Nat) : Statement (.runstk module) := of_none rfl
theorem attest (module : Nat) : Statement (.attest module) := of_none rfl
theorem devhashReport (module : Nat) : Statement (.devhashReport module) := of_none rfl
theorem wlist (module : Nat) : Statement (.wlist module) := of_none rfl
theorem signkey (module : Nat) : Statement (.signkey module) := of_none rfl
theorem unlistedCommand (module : Nat) : Statement (.unlistedCommand module) := of_none rfl
theorem illegalEncoding : Statement (.illegalEncoding) := of_none rfl
theorem fetchBeyondExtent : Statement (.fetchBeyondExtent) := of_none rfl
theorem larzonConfigurationSpaceWrite (module header : Nat) : Statement (.larzonConfigurationSpaceWrite module header) := of_none rfl
theorem fabricPacketResend (post : Nat) : Statement (.fabricPacketResend post) := of_none rfl

end Sys2Proof.Laws.Major
end

