-- ==== Sys2Proof/Tests/Slice0.lean ====
section
/-! SUPPORT. Tests: ill-formed terms that the checks refuse, words written out from the spec's encodings, small steps with results
calculated from the spec, and for every statement with hypotheses a concrete state and operands that meet them. -/
namespace Sys2Proof.Tests
set_option Elab.async false
open Sys2Proof Sys2Proof.Machine Sys2Proof.Claims

/-! Well-formedness: one ill-formed term or word for each reason. -/

theorem test_wf_reservedMajor : decode 0x44000000 = .error .reservedMajor := by decide
theorem test_wf_zeroWord : decode 0 = .error .reservedMajor := by decide
theorem test_wf_reservedFunc : decode 0xA8000006 = .error .reservedFunc := by decide
theorem test_wf_reservedCode : decode 0xB0461138 = .error .reservedCode := by decide
theorem test_wf_nonzeroField : wfReason (.reduceAddI32 7 1 2 0 false true) = some .nonzeroField := by decide
theorem test_wf_nonzeroWord : decode 0xA8200000 = .error .nonzeroField := by decide
theorem test_wf_badGuard : decode 0xB8004000 = .error .badGuard := by decide
theorem test_wf_predicateP7 : wfReason (.pand 7 7 0 1 false false) = some .predicateP7 := by decide
theorem test_wf_groupPastEnd : wfReason (.ld 7 30 0 1 false .b128 0) = some .groupPastEnd := by decide
theorem test_wf_groupOverlap : wfReason (.ld 7 4 5 1 false .b64 0) = some .groupOverlap := by decide
theorem test_wf_badSize : wfReason (.stp 7 4 5 1 false .n8 0) = some .badSize := by decide
theorem test_wf_badType : wfReason (.atm 7 4 9 1 false .add .n32) = some .badType := by decide
theorem test_wf_badOperand : wfReason (.call 0 4) = some .badOperand := by decide
theorem test_wf_badSpecial : wfReason (.swr 3 false .grant) = some .badSpecial := by decide
theorem test_wf_badHint : wfReason (.hintFmt .i8) = some .badHint := by decide
theorem test_wf_shortWord : decodeBytes [0, 1, 2] = .error .shortWord := by decide

/-! Words written out field by field from the formats of R115 and the tables of R131 to R139, most significant field first. -/

/-- Vector register format, major 0x01: guard 7, vd 1, va 2, vb 3, func 0. -/
theorem test_word_iadd :
    decode (0b000001#6 ++ 0b0111#4 ++ 0b00001#5 ++ 0b00010#5 ++ 0b00011#5 ++ 0#1 ++ 0#1 ++ 0b00000#5) = .ok (.iadd 7 1 2 3 false false) := by
  decide
/-- Vector immediate format, major 0x06: MOVI of 0x7FD. -/
theorem test_word_movi :
    decode (0b000110#6 ++ 0b0111#4 ++ 0b00001#5 ++ 0b00000#5 ++ 0#1 ++ 0b11111111101#11) = .ok (.movi 7 1 0x7FD) := by decide
/-- Major 0x0A is rounding toward zero: FADD with func 0. -/
theorem test_word_faddRz :
    decode (0b001010#6 ++ 0b0111#4 ++ 0b00100#5 ++ 0b00100#5 ++ 0b00011#5 ++ 0#1 ++ 0#1 ++ 0b00000#5) =
      .ok (.fadd .zero 7 4 4 3 false false) := by decide
/-- Convert format, major 0x0C: rounding 0, target F16 (9), source F32 (8). -/
theorem test_word_cvt :
    decode (0b001100#6 ++ 0b0111#4 ++ 0b00011#5 ++ 0b00010#5 ++ 0#1 ++ 0b00#2 ++ 0b1001#4 ++ 0b1000#4 ++ 0#1) =
      .ok (.cvt 7 3 2 false .mode .f16 .f32) := by decide
/-- Convert part format, major 0x0D, op 2: BXQ to BX8 (13). -/
theorem test_word_bxq :
    decode (0b001101#6 ++ 0b0111#4 ++ 0b00110#5 ++ 0b00101#5 ++ 0#1 ++ 0b00#2 ++ 0b00#2 ++ 0b1101#4 ++ 0b010#3) =
      .ok (.bxq 7 6 5 false .bx8) := by decide
/-- Major 0x0E, func 0: PAND p1, p2, p3. -/
theorem test_word_pand :
    decode (0b001110#6 ++ 0b0111#4 ++ 0b00001#5 ++ 0b00010#5 ++ 0b00011#5 ++ 0#1 ++ 0#1 ++ 0b00000#5) = .ok (.pand 7 1 2 3 false false) := by
  decide
/-- Major 0x0F, func 23: VOTE CNT of p2. -/
theorem test_word_vote :
    decode (0b001111#6 ++ 0b0111#4 ++ 0b00111#5 ++ 0b00010#5 ++ 0b00000#5 ++ 0#1 ++ 0#1 ++ 0b10111#5) = .ok (.voteCnt 7 7 2 0 false) := by
  decide
/-- Major 0x10: SHFL, mode XOR (3) above predicate 1. -/
theorem test_word_shfl :
    decode (0b010000#6 ++ 0b0111#4 ++ 0b00010#5 ++ 0b00001#5 ++ 0b00011#5 ++ 0#1 ++ 0#1 ++ 0b11#2 ++ 0b001#3) =
      .ok (.shfl 7 2 1 3 false false .xor 1) := by decide
/-- Scalar register format, major 0x20, func 0. -/
theorem test_word_sadd :
    decode (0b100000#6 ++ 0b00001#5 ++ 0b00010#5 ++ 0b00011#5 ++ 0#1 ++ 0#1 ++ 0b000000000#9) = .ok (.sadd 1 2 3 false false) := by decide
/-- Branch format, major 0x27: BRC under guard 3 with pond 2, five words on. -/
theorem test_word_brc : decode (0b100111#6 ++ 0b0011#4 ++ 0b0010#4 ++ 5#18) = .ok (.brc 3 2 5) := by decide
/-- Call format, major 0x28: frame 4, 20 words back. -/
theorem test_word_call : decode (0b101000#6 ++ 0b00100#5 ++ 0b000#3 ++ 0x3FFEC#18) = .ok (.call 4 0x3FFEC) := by decide
/-- Memory format, major 0x2C: LD b32 (4) with offset 0. -/
theorem test_word_ld :
    decode (0b101100#6 ++ 0b0001#4 ++ 0b00011#5 ++ 0b00001#5 ++ 0b00010#5 ++ 0#1 ++ 0b100#3 ++ 0b000#3) = .ok (.ld 1 3 1 2 false .b32 0) := by
  decide
/-- Major 0x2E, sub-op 4: FENCE. -/
theorem test_word_fence :
    decode (0b101110#6 ++ 0b0111#4 ++ 0b00000#5 ++ 0b00100#5 ++ 0b00000#5 ++ 0#1 ++ 0b000#3 ++ 0b000#3) = .ok (.fence false) := by decide
/-- Major 0x31: ATP VADD, op 0b110, type 0b101. -/
theorem test_word_atpVadd :
    decode (0b110001#6 ++ 0b0111#4 ++ 0b01000#5 ++ 0b00001#5 ++ 0b00010#5 ++ 0#1 ++ 0b110#3 ++ 0b101#3) =
      .ok (.atpVadd 7 8 1 2 false false 5) := by decide
/-- Major 0x35, type 7, op 1: BAR of barrier 3 at stack scope (2). -/
theorem test_word_bar :
    decode (0b110101#6 ++ 0b0111#4 ++ (0b0011#4 ++ 0#1) ++ (0b010#3 ++ 0#2) ++ 0b00000#5 ++ 0#1 ++ 0b001#3 ++ 0b111#3) =
      .ok (.bar false 3 .stack) := by decide
/-- Major 0x37: MMA acc 0, tile 4, type BX8 (4). -/
theorem test_word_mma :
    decode (0b110111#6 ++ 0b0111#4 ++ 0b00000#5 ++ 0b00100#5 ++ 0b00000#5 ++ 0#1 ++ 0#1 ++ 0b0100#4 ++ 0#1) = .ok (.mma 7 0 4 .bx8) := by
  decide
/-- Handle format, major 0x39: HWAIT 5. -/
theorem test_word_hwait : decode (0b111001#6 ++ 0#5 ++ 0#5 ++ 0b000101#6 ++ 0#1 ++ 0#9) = .ok (.hwait 5) := by decide
/-- Movement copy format, major 0x3A: COPY of handle 1 with its descriptor at g8 and its count to g20. -/
theorem test_word_copy : decode (0b111010#6 ++ 0#10 ++ 0b000001#6 ++ 0b01000#5 ++ 0b10100#5) = .ok (.copy 1 8 20) := by decide
/-- Major 0x3C, func 2: QPUSH p2, v4, s5. -/
theorem test_word_qpush :
    decode (0b111100#6 ++ 0b0111#4 ++ 0b00010#5 ++ 0b00100#5 ++ 0b00101#5 ++ 0#1 ++ 0#1 ++ 0b00010#5) = .ok (.qpush 7 2 4 5 false false) := by
  decide
/-- Special format, major 0x3D: SRD s6 from POSTS (0x0C). -/
theorem test_word_srd : decode (0b111101#6 ++ 0b00110#5 ++ 0b00#2 ++ 0#1 ++ 0#10 ++ 0x0C#8) = .ok (.srd 6 .posts) := by decide
/-- Major 0x3E, func 0: TRAP 5 with s4. -/
theorem test_word_trap :
    decode (0b111110#6 ++ 0b00000#5 ++ 0b00100#5 ++ 0b00101#5 ++ 0#1 ++ 0#1 ++ 0#9) = .ok (.trap 4 5 false) := by decide
/-- Hint format, major 0x3F, kind 1: HINT.RND up. -/
theorem test_word_hint : decode (0b111111#6 ++ 0b001#3 ++ 3#23) = .ok (.hintRnd .up) := by decide
/-- The bytes of a word come least significant first (R9, R114). -/
theorem test_word_bytes : decodeTableWord 32 0x05C22180 = some (.iadd 7 1 2 3 false false) := by decide

/-! Small states. -/

def regs0 : KnotRegs := { ptbase := 0, asid := 0, keysel := 1, vecbase := 0x10000, window := 1, watchdog := 0 }

/-- A knot of a grant of 32 lanes that is no crew knot. -/
def knot0 : Knot :=
  { launch := 1, module := 0, knotId := 0, nknots := 1, grant := 32, alloc := 64, brood := 1, crew := none, node := none
    handling := none, regs := regs0, vregs := [(1, [5, 6, 7]), (2, [3, 4, 5]), (3, [0x40, 0x44, 0x48])], preds := [(1, 1)], insts := []
    batch := 0, accs := [], baras := [], tag := 0, serving := false, reserved := 0, unseen := [] }

/-- A context with lanes 0 to 2 at the word 0x100 of the function there; v1 to v4, s1 to s6, p1 and p2 are full. -/
def ctx0 : Ctx :=
  { mask := 7, pc := 0x100, wrapped := false, fn := 0x100, base := 0, frames := []
    scal := [(1, 9), (2, 0x1000), (4, 1), (6, 2)]
    vst := [(1, .full), (2, .full), (3, .full), (4, .full)]
    sst := [(1, .full), (2, .full), (3, .full), (4, .full), (5, .full), (6, .full)]
    pst := [(1, .full), (2, .full), (3, .full)]
    mode := 0, fpstat := 0, posts := List.replicate 8 .free, ponds := [], pushed := [], wd := 0, sent := 0, stamp := 1 }

def seat0 : Seat := { core := 0, part := 0, slot := 0, since := 0 }
def path0 : Path := newPath 1 0 (.resident seat0) false ctx0

/-- Path 1 of knot 1 alone in the pod, and the same as it executes. -/
def alone (k : Knot) (p : Path) : State := { State.reset with cur := .path 1, uid := 10, knots := [(1, k)], paths := [(1, p)] }
def hereOf (k : Knot) (p : Path) : Here := { u := 1, p := p, k := k }
def s0 : State := alone knot0 path0
def h0 : Here := hereOf knot0 path0

/-- The path with another context, and the context with other hints. -/
def withCtx (c : Ctx) : Path := { path0 with ctx := c }
def hinted (i : Option (BitVec 23)) : Path := { path0 with hints := { Hints.none with imm := i, words := 1 } }

/-- A sibling path of the same knot with lanes 3 and 4. -/
def sibling : Path := { path0 with place := .resident { seat0 with slot := 1 }, ctx := { ctx0 with mask := 0x18 } }

/-- What the premises of `RegisterResult` ask. -/
def Meets (s : State) (h : Here) (c : RegClaim) : Prop :=
  Admits s h.u h { c.form with defer := c.defer } ∧ c.guard ≠ 15 ∧ (∀ r ∈ c.reads, h.p.ctx.stateOf r = .full) ∧ ∀ r ∈ c.dests, h.p.ctx.stateOf r ≠ .empty

/-! Witnesses: register instructions. -/

theorem witness_integer : ∃ c, intClaim h0 (.iadd 1 3 1 2 false false) = some c ∧ Meets s0 h0 c :=
  ⟨_, rfl, ⟨rfl, rfl, rfl, .inr rfl⟩, by decide +kernel, by decide +kernel, by decide +kernel⟩
theorem witness_float : ∃ c, floatClaim h0 (.fadd .near 7 3 1 2 false false) = some c ∧ Meets s0 h0 c :=
  ⟨_, rfl, ⟨rfl, rfl, rfl, .inr rfl⟩, by decide +kernel, by decide +kernel, by decide +kernel⟩
theorem witness_convert : ∃ c, convertClaim h0 (.cvt 7 3 1 false .mode .f16 .f32) = some c ∧ Meets s0 h0 c :=
  ⟨_, rfl, ⟨rfl, rfl, rfl, .inr rfl⟩, by decide +kernel, by decide +kernel, by decide +kernel⟩
theorem witness_predicate : ∃ c, predFamilyClaim h0 (.pand 7 3 1 2 false false) = some c ∧ Meets s0 h0 c :=
  ⟨_, rfl, ⟨rfl, rfl, rfl, .inr rfl⟩, by decide +kernel, by decide +kernel, by decide +kernel⟩
theorem witness_crossLane : ∃ c, crossClaim h0 (.shfl 7 3 1 2 false false .xor 1) = some c ∧ Meets s0 h0 c :=
  ⟨_, rfl, ⟨rfl, rfl, rfl, .inr rfl⟩, by decide +kernel, by decide +kernel, by decide +kernel⟩
theorem witness_reduceNone : ∃ c, crossClaim h0 (.reduceAddI32 2 5 1 0 false false) = some c ∧ Meets s0 h0 c :=
  ⟨_, rfl, ⟨rfl, rfl, rfl, .inr rfl⟩, by decide +kernel, by decide +kernel, by decide +kernel⟩
theorem witness_scalar : ∃ c, scalarClaim h0 (.sadd 0 1 2 false false) = some c ∧ Meets s0 h0 c :=
  ⟨_, rfl, ⟨rfl, rfl, rfl, .inr rfl⟩, by decide +kernel, by decide +kernel, by decide +kernel⟩
/-- SADDI takes every bit of HINT.IMM. -/
theorem witness_scalarHint :
    let h := hereOf knot0 (hinted (some 0x7FFFFF))
    ∃ c, scalarClaim h (.saddi 5 1 1) = some c ∧ Meets (alone knot0 h.p) h c :=
  ⟨_, rfl, ⟨rfl, rfl, rfl, .inr rfl⟩, by decide +kernel, by decide +kernel, by decide +kernel⟩
theorem witness_special : Meets s0 h0 { form := { priv := Special.privileged .knotid }, reads := [], scal := some (5, s0.special h0 .knotid) } :=
  ⟨⟨rfl, rfl, rfl, .inr rfl⟩, by decide +kernel, by decide +kernel, by decide +kernel⟩

/-- Operand checks: the never-guard; a dead second source after a full first; a hint not taken. -/
theorem witness_never : ∃ c, registerClaim h0 (.iadd 15 9 10 11 false false) = some c ∧ Admits s0 1 h0 { c.form with defer := c.defer } ∧
    c.guard = 15 :=
  ⟨_, rfl, ⟨rfl, rfl, rfl, .inr rfl⟩, rfl⟩
theorem witness_dead : ∃ c before after r, registerClaim h0 (.iadd 7 3 1 9 false false) = some c ∧
    Admits s0 1 h0 { c.form with defer := c.defer } ∧ c.guard ≠ 15 ∧
    c.reads = before ++ r :: after ∧ (∀ x ∈ before, h0.p.ctx.stateOf x = .full) ∧ h0.p.ctx.stateOf r = .dead :=
  ⟨_, [guardName 7, vecName h0 1], [], vecName h0 9, rfl, ⟨rfl, rfl, rfl, .inr rfl⟩, by decide +kernel, rfl, by decide +kernel, rfl⟩
theorem witness_misused :
    let h := hereOf knot0 (hinted (some 5))
    ∃ c, registerClaim h (.iadd 7 3 1 2 false false) = some c ∧ (alone knot0 h.p).cur = .path 1 ∧ (alone knot0 h.p).here 1 = some h ∧
      hintsMisused c.form h.p.hints = true :=
  ⟨_, rfl, rfl, rfl, rfl⟩

/-- Instructions of other families under the never-guard: with no hint, and after one that they do not take. -/
theorem witness_neverElsewhere : ∀ i ∈ [Instr.ld 15 1 2 3 false .b32 0, .fence true, .mma 15 0 4 .bx8, .qpush 15 2 4 5 false false, .bcancel true 3 false],
    ∃ f, neverForm i = some f ∧ s0.cur = .path 1 ∧ s0.here 1 = some h0 ∧ (f.matrix = false → decodeTrap s0 h0 f = none) := by
  intro i hi
  simp only [List.mem_cons, List.not_mem_nil, or_false] at hi
  rcases hi with rfl | rfl | rfl | rfl | rfl
  all_goals exact ⟨_, rfl, rfl, rfl, by decide +kernel⟩
theorem witness_neverTraps : neverForm (.fence true) = some .plain ∧
    decodeTrap (alone knot0 (hinted (some 5))) (hereOf knot0 (hinted (some 5))) .plain = some .illegal := ⟨rfl, by decide +kernel⟩
/-- Sources that are empty, and fault-pending with a record. -/
def fault1 : FaultRec := { dest := .vec [2], cause := .page, lane := 1, addr := 0x99, replay := { op := .load .b32, dest := .vec [2], lanes := [], group := 0x100 } }
def unready (st : RegState) : Path := { withCtx { ctx0 with vst := [(1, .full), (2, st)] } with faults := [fault1] }
theorem witness_unready : ∀ st ∈ [RegState.empty, .pending], ∀ e, let h := hereOf knot0 (unready st)
    ∃ c, registerClaim h (.iadd 7 3 1 2 false e) = some c ∧ Admits (alone knot0 h.p) 1 h { c.form with defer := c.defer } ∧ c.guard ≠ 15 ∧
      h.p.ctx.stateOf (guardName c.guard) = .full ∧ feSources h (.iadd 7 3 1 2 false e) = [(vecName h 1, false)] ++ (vecName h 2, e) :: [] ∧
      (∀ x ∈ [(vecName h 1, false)], h.p.ctx.stateOf x.1 = .full) ∧ h.p.ctx.stateOf (vecName h 2) = st ∧
      h.p.faultOf (vecName h 2) = some fault1 := by
  intro st hst e
  simp only [List.mem_cons, List.not_mem_nil, or_false] at hst
  rcases hst with rfl | rfl
  all_goals exact ⟨_, rfl, ⟨rfl, rfl, rfl, .inr rfl⟩, by decide +kernel, rfl, rfl, by decide +kernel, rfl, by decide +kernel⟩

/-! Witnesses: control. -/

theorem witness_plain : Admits s0 1 h0 .plain := ⟨rfl, rfl, rfl, .inr rfl⟩
theorem witness_deferred : Admits s0 1 h0 { defer := true } ∧ h0.p.unperformed = [] := ⟨⟨rfl, rfl, rfl, .inl rfl⟩, rfl⟩
theorem witness_call : Admits s0 1 h0 .plain ∧ h0.p.ctx.base + (32#5 : BitVec 5).toNat + 32 ≤ h0.k.alloc ∧
    h0.p.ctx.base + (31#5 : BitVec 5).toNat + 32 ≤ h0.k.alloc := ⟨witness_plain, by decide +kernel, by decide +kernel⟩
theorem witness_calli : Admits s0 1 h0 .plain ∧ h0.p.ctx.scalState 2 = .full ∧ (h0.p.ctx.scalVal 2).toNat < 2 ^ 32 ∧
    h0.p.ctx.base + (4#5 : BitVec 5).toNat + 32 ≤ h0.k.alloc := ⟨witness_plain, rfl, by decide +kernel, by decide +kernel⟩
def called0 : Path := withCtx { ctx0 with frames := [{ ret := 0x200, size := 4, base := 0 }], base := 4 }
theorem witness_ret : Admits (alone knot0 called0) 1 (hereOf knot0 called0) .plain ∧
    called0.ctx.frames.getLast? = some { ret := 0x200, size := 4, base := 0 } := ⟨⟨rfl, rfl, rfl, .inr rfl⟩, rfl⟩
theorem witness_loop : Admits s0 1 h0 .plain ∧ h0.p.ctx.scalState 4 = .full ∧ h0.p.ctx.scalVal 4 - 1 = 0 := ⟨witness_plain, rfl, rfl⟩
/-- A window that would end one register past the allocation; a target with bit 32 set; no frame record. -/
def narrow : Knot := { knot0 with alloc := 35 }
def farCall : Path := withCtx { ctx0 with scal := [(2, 0x100000000)] }
theorem witness_callStops : Admits (alone narrow path0) 1 (hereOf narrow path0) .plain ∧
    narrow.alloc < ctx0.base + (4#5 : BitVec 5).toNat + 32 ∧ path0.ctx.scalState 2 = .full ∧ (path0.ctx.scalVal 2).toNat < 2 ^ 32 ∧
    path0.ctx.frames = [] := ⟨⟨rfl, rfl, rfl, .inr rfl⟩, by decide +kernel, rfl, by decide +kernel, rfl⟩
theorem witness_calliFar : Admits (alone knot0 farCall) 1 (hereOf knot0 farCall) .plain ∧ farCall.ctx.scalState 2 = .full ∧
    2 ^ 32 ≤ (farCall.ctx.scalVal 2).toNat := ⟨⟨rfl, rfl, rfl, .inr rfl⟩, rfl, by decide +kernel⟩

/-- Branches: p1 holds in lane 0 alone, p2 in none, p3 in every active lane. -/
def knotB : Knot := { knot0 with preds := [(1, 1), (3, 7)] }
def sB : State := alone knotB path0
def hB : Here := hereOf knotB path0
theorem witness_branchAll : Admits sB 1 hB { defer := true } ∧ (3 : Guard) ≠ 15 ∧ hB.p.ctx.stateOf (guardName 3) = .full ∧
    trueLanes hB 3 = activeLanes hB ∧ activeLanes hB ≠ 0 ∧ pondShut hB 2 = false :=
  ⟨⟨rfl, rfl, rfl, .inr rfl⟩, by decide +kernel, rfl, by decide +kernel, by decide +kernel, rfl⟩
theorem witness_branchNone : Admits sB 1 hB { defer := true } ∧ (2 : Guard) ≠ 15 ∧ hB.p.ctx.stateOf (guardName 2) = .full ∧ trueLanes hB 2 = 0 ∧
    activeLanes hB ≠ 0 ∧ pondShut hB 2 = false := ⟨⟨rfl, rfl, rfl, .inr rfl⟩, by decide +kernel, rfl, by decide +kernel, by decide +kernel, rfl⟩
theorem witness_branchBoth : Admits sB 1 hB .plain ∧ (1 : Guard) ≠ 15 ∧ hB.p.ctx.stateOf (guardName 1) = .full ∧
    trueLanes hB 1 ≠ 0 ∧ trueLanes hB 1 ≠ activeLanes hB ∧ pondShut hB 2 = false ∧ Fenced hB :=
  ⟨⟨rfl, rfl, rfl, .inr rfl⟩, by decide +kernel, rfl, by decide +kernel, by decide +kernel, rfl, by unfold Fenced; decide +kernel⟩

/-- A path with no lane: BRC takes its target. -/
def knotN : Knot := { knot0 with preds := [] }
def laneless : Path := withCtx { ctx0 with mask := 0 }
theorem witness_branchEmpty : Admits (alone knotN laneless) 1 (hereOf knotN laneless) { defer := true } ∧
    (hereOf knotN laneless).p.ctx.stateOf (guardName 3) = .full ∧ activeLanes (hereOf knotN laneless) = 0 ∧
    trueLanes (hereOf knotN laneless) 3 = activeLanes (hereOf knotN laneless) ∧ laneless.unperformed = [] ∧
    pondShut (hereOf knotN laneless) 2 = false :=
  ⟨⟨rfl, rfl, rfl, .inr rfl⟩, by decide +kernel, by decide +kernel, by decide +kernel, rfl, by decide +kernel⟩

/-- An open pond 2 whose anchor is the current stack and which expects lanes 0 to 2. -/
def inst0 : Inst := { id := 5, pond := 2, anchor := 0, expected := 7, arrived := 0, first := none }
def ponded : Path := withCtx { ctx0 with ponds := [5] }
def knotJ (i : Inst) : Knot := { knotB with insts := [i] }
theorem witness_pondShut : Admits (alone (knotJ inst0) ponded) 1 (hereOf (knotJ inst0) ponded) { defer := true } ∧
    pondShut (hereOf (knotJ inst0) ponded) 2 = true := ⟨⟨rfl, rfl, rfl, .inr rfl⟩, by decide +kernel⟩
theorem witness_tables : TablesRise ctx0 := ⟨by decide +kernel, by decide +kernel, by decide +kernel⟩

/-- JOIN: the last arrival at the anchor; an earlier arrival of a crew knot; a path whose anchor is another stack. -/
theorem witness_joinLast :
    let s := alone (knotJ inst0) ponded
    let h := hereOf (knotJ inst0) ponded
    Admits s 1 h .plain ∧ Fenced h ∧ Innermost h 2 inst0 ∧ inst0.anchor = h.p.home ∧ (carriedOnly s h).hasEmpty = false ∧
      inst0.first = none ∧ inst0.arrived ||| h.p.ctx.mask = inst0.expected ∧ s.waitingAt inst0.id = [] ∧
      (∀ i ∈ h.k.insts, i.id = inst0.id → i = inst0) ∧ h.p.place = .resident seat0 :=
  ⟨⟨rfl, rfl, rfl, .inr rfl⟩, by unfold Fenced; decide +kernel, ⟨5, rfl, rfl⟩, rfl, by decide +kernel, rfl, by decide +kernel, by decide +kernel, by decide +kernel, rfl⟩
def inst1 : Inst := { inst0 with expected := 0x1F }
def knotC (i : Inst) : Knot := { knotJ i with crew := some (1, 0) }
theorem witness_joinEarly :
    let s := alone (knotC inst1) ponded
    let h := hereOf (knotC inst1) ponded
    Admits s 1 h .plain ∧ Fenced h ∧ Innermost h 2 inst1 ∧ inst1.anchor = h.p.home ∧ (carriedOnly s h).hasEmpty = false ∧
      inst1.first = none ∧ inst1.arrived ||| h.p.ctx.mask ≠ inst1.expected ∧ h.k.crew.isSome = true :=
  ⟨⟨rfl, rfl, rfl, .inr rfl⟩, by unfold Fenced; decide +kernel, ⟨5, rfl, rfl⟩, rfl, by decide +kernel, rfl, by decide +kernel, rfl⟩
/-- The same of a knot that is not rooted, whose image the landing zone holds. -/
theorem witness_joinStored :
    let s := alone (knotJ inst1) ponded
    let h := hereOf (knotJ inst1) ponded
    Admits s 1 h .plain ∧ Fenced h ∧ Innermost h 2 inst1 ∧ inst1.anchor = h.p.home ∧ (carriedOnly s h).hasEmpty = false ∧
      inst1.first = none ∧ inst1.arrived ||| h.p.ctx.mask ≠ inst1.expected ∧ h.k.crew = none ∧
      (((arrivalNoted s h inst1).setPath h.u (waitingPath s h)).storeImage { h with p := waitingPath s h } true false .image).isSome = true :=
  ⟨⟨rfl, rfl, rfl, .inr rfl⟩, by unfold Fenced; decide +kernel, ⟨5, rfl, rfl⟩, rfl, by decide +kernel, rfl, by decide +kernel, rfl, by decide +kernel⟩
/-- The last arrival of a crew knot at the anchor, where path 2 waits in place with lanes 3 and 4. -/
def noImage : Stored := { home := 0, off := 0, len := 0, age := 0, order := 0, seed := 0, block := 0, flags := 0 }
def instM : Inst := { inst1 with arrived := 0x18, first := some (0x100, 0, 0) }
def waiterJ : Path := { sibling with place := .joined 5 noImage, ctx := { sibling.ctx with ponds := [5], vst := [(1, .full), (3, .full)], fpstat := 1 } }
def merging : State := { alone (knotC instM) ponded with paths := [(1, ponded), (2, waiterJ)] }
def hM : Here := hereOf (knotC instM) ponded
def hW : Here := { u := 2, p := waiterJ, k := knotC instM }
theorem witness_waits : WaitsThere merging hM 5 2 hW := ⟨rfl, rfl, noImage, rfl, .inl rfl⟩
theorem witness_joinMerges : Admits merging 1 hM .plain ∧ Fenced hM ∧ Innermost hM 2 instM ∧ instM.anchor = hM.p.home ∧
    (carriedOnly merging hM).hasEmpty = false ∧ instM.first = some (arrivalOf hM) ∧ instM.arrived ||| hM.p.ctx.mask = instM.expected ∧
    (∀ i img, hM.p.place ≠ .joined i img) ∧ (∀ i ∈ hM.k.insts, i.id = instM.id → i = instM) ∧ spRising none merging.paths = true ∧
    merging.waitingAt instM.id = [2] ∧ ∀ a ∈ arrivals merging hM instM.id, TablesRise a :=
  ⟨⟨rfl, rfl, rfl, .inr rfl⟩, by unfold Fenced; decide +kernel, ⟨5, rfl, rfl⟩, rfl, by decide +kernel, rfl, by decide +kernel,
    (by intro i img hp; cases hp), by decide +kernel, by decide +kernel, by decide +kernel, by unfold TablesRise; decide +kernel⟩
def inst2 : Inst := { inst0 with anchor := 3 }
theorem witness_joinTravels :
    let s := alone (knotJ inst2) ponded
    let h := hereOf (knotJ inst2) ponded
    Admits s 1 h .plain ∧ Fenced h ∧ Innermost h 2 inst2 ∧ inst2.anchor ≠ h.p.home ∧ h.k.crew = none ∧ CarriedReady s h :=
  ⟨⟨rfl, rfl, rfl, .inr rfl⟩, by unfold Fenced; decide +kernel, ⟨5, rfl, rfl⟩, by decide +kernel, rfl, by unfold CarriedReady; decide +kernel⟩

/-- PACK, WIDTH and REGROUP of a whole knot; REGROUP of a crew knot. -/
theorem witness_regroup : WholeKnot s0 h0 ∧ Admits s0 1 h0 .plain ∧ Admits s0 1 h0 { imm := .any } ∧ CarriedReady s0 h0 ∧
    h0.p.ctx.scalState 1 = .full ∧ h0.p.hasEmpty = false := ⟨⟨rfl, rfl⟩, ⟨rfl, rfl, rfl, .inr rfl⟩, ⟨rfl, rfl, rfl, .inr rfl⟩, by unfold CarriedReady; decide +kernel, rfl, rfl⟩
def knotR : Knot := { knot0 with crew := some (1, 0) }
theorem witness_regroupRooted : WholeKnot (alone knotR path0) (hereOf knotR path0) ∧ Admits (alone knotR path0) 1 (hereOf knotR path0) .plain ∧
    knotR.crew.isSome = true ∧ CarriedReady (alone knotR path0) (hereOf knotR path0) ∧ Fenced (hereOf knotR path0) ∧
    path0.ctx.scalState 1 = .full ∧ path0.pend = .none := ⟨⟨rfl, rfl⟩, ⟨rfl, rfl, rfl, .inr rfl⟩, rfl, by unfold CarriedReady; decide +kernel, by unfold Fenced; decide +kernel, rfl, rfl⟩

theorem witness_regroupArrives : (∀ k c o n, path0.pend ≠ .regroup k c o n) ∧ path0.place = .resident seat0 ∧ knot0.crew = none ∧ Fenced h0 :=
  ⟨(by intro k c o n hp; cases hp), rfl, rfl, by unfold Fenced; decide +kernel⟩
/-- Two knots that wait at a REGROUP, whose lanes fit the grant of 32, and a grant of 4 that they do not fit. -/
def waiterA : Path := { path0 with pend := .regroup 5 10 0 4 }
def waiterB : Path := { path0 with knot := 2, pend := .regroup 5 12 1 6, place := .resident { seat0 with slot := 1 } }
def pairing (g : Nat) : State :=
  { alone { knot0 with grant := g } waiterA with
    paths := [(1, waiterA), (2, waiterB)], knots := [(1, { knot0 with grant := g }), (2, { knot0 with knotId := 1 })]
    stks := [(0, { StackSt.reset with cycles := 20 })] }
theorem witness_pair : ∀ g ∈ [32, 4], let s := pairing g; let a := hereOf { knot0 with grant := g } waiterA
    let b : Here := { u := 2, p := waiterB, k := { knot0 with knotId := 1 } }
    s.here 1 = some a ∧ s.here 2 = some b ∧ a.p.place = .resident seat0 ∧ MayPair a b 5 10 12 0 1 4 6 ∧
      s.regroupers a.p.home seat0.core seat0.part = [(1, a.p), (2, b.p)] ∧ a.k.knotId ≤ b.k.knotId ∧ a.p.knot ≠ b.p.knot ∧ b.k.crew = none ∧
      (if g = 32 then (activeList a).length + (activeList b).length ≤ a.k.grant else a.k.grant < (activeList a).length + (activeList b).length) := by
  intro g hg
  simp only [List.mem_cons, List.not_mem_nil, or_false] at hg
  rcases hg with rfl | rfl
  all_goals exact ⟨by decide +kernel, by decide +kernel, rfl, ⟨rfl, rfl, by decide +kernel, rfl, rfl, rfl, rfl, rfl, rfl⟩, by decide +kernel, by decide +kernel,
    by decide +kernel, rfl, by decide +kernel⟩

/-- END of the last path, and of a path with a sibling. -/
theorem witness_endLast : Admits s0 1 h0 .plain ∧ Fenced h0 ∧ s0.siblings 1 1 = [] ∧ s0.accsBusy h0 = false :=
  ⟨⟨rfl, rfl, rfl, .inr rfl⟩, by unfold Fenced; decide +kernel, rfl, rfl⟩
def s2 : State := { s0 with paths := [(1, path0), (2, sibling)] }
theorem witness_endOne : Admits s2 1 h0 .plain ∧ Fenced h0 ∧ s2.siblings 1 1 ≠ [] := ⟨⟨rfl, rfl, rfl, .inr rfl⟩, by unfold Fenced; decide +kernel, by decide +kernel⟩

/-- The tables that END reads rise; a crew knot of two; an END among other paths whose instance closes, stays open and merges. -/
theorem witness_endGone : spRising none s0.paths = true ∧ spRising none s0.knots = true ∧ knot0.crew = none := ⟨rfl, rfl, rfl⟩
def staying (i : Inst) : State :=
  { alone (knotC i) ponded with paths := [(1, ponded), (2, { sibling with ctx := { sibling.ctx with ponds := [5] } })] }
theorem witness_endsAmong : ∀ i ∈ [inst0, inst1], let s := staying i; let h := hereOf (knotC i) ponded
    EndsAmong s h ∧ s.siblings 1 1 ≠ [] ∧ i ∈ h.k.insts ∧ i.id ∈ h.p.ctx.ponds ∧
      (if i = inst0 then i.expected &&& ~~~h.p.ctx.mask = 0
        else i.expected &&& ~~~h.p.ctx.mask ≠ 0 ∧ i.arrived ≠ i.expected &&& ~~~h.p.ctx.mask) := by
  intro i hi
  simp only [List.mem_cons, List.not_mem_nil, or_false] at hi
  rcases hi with rfl | rfl
  all_goals exact ⟨⟨rfl, by decide +kernel, by decide +kernel, ⟨(by intro j img hp; cases hp), (by intro x hp; cases hp)⟩, (by intro v hv; cases hv),
    (by
      intro id hid v hv
      have hid : id ∈ [5] := hid
      have hid : id = 5 := by simpa using hid
      subst hid
      have hv : v ∈ ([] : List Nat) := hv
      cases hv)⟩, by decide +kernel, by decide +kernel, by decide +kernel, by decide +kernel⟩
theorem witness_endMerges : EndsAmong merging hM ∧ merging.siblings 1 1 ≠ [] ∧ merging.waitingAt instM.id = 2 :: [] ∧ instM.first = some (0x100, 0, 0) ∧
    instM ∈ hM.k.insts ∧ instM.id ∈ hM.p.ctx.ponds ∧ instM.expected &&& ~~~hM.p.ctx.mask ≠ 0 ∧
    instM.arrived = instM.expected &&& ~~~hM.p.ctx.mask :=
  ⟨⟨rfl, by decide +kernel, by decide +kernel, ⟨(by intro j img hp; cases hp), (by intro x hp; cases hp)⟩, (by intro v hv; cases hv), (by
      intro id hid v hv
      have hid : id ∈ [5] := hid
      have hid : id = 5 := by simpa using hid
      subst hid
      have hv : v = 2 := by simpa [show merging.waitingAt 5 = [2] from by decide +kernel] using hv
      subst hv
      exact ⟨hW, witness_waits, ⟨by decide +kernel, by decide +kernel, by decide +kernel⟩, by decide +kernel, rfl⟩)⟩,
    by decide +kernel, by decide +kernel, rfl, by decide +kernel, by decide +kernel, by decide +kernel, by decide +kernel⟩
/-- A path with two pushed under it ends: the first starts in its seat. -/
def pusher : Path := withCtx { ctx0 with pushed := [2, 3] }
def pushing : State := { alone knot0 pusher with paths := [(1, pusher), (2, { sibling with place := .pushed }), (3, { sibling with place := .pushed })] }
theorem witness_endPushed : EndsAmong pushing (hereOf knot0 pusher) ∧ pushing.siblings 1 1 ≠ [] :=
  ⟨⟨rfl, by decide +kernel, by decide +kernel, ⟨(by intro j img hp; cases hp), (by intro x hp; cases hp)⟩, (by
      intro v hv
      have hv : v ∈ [2, 3] := hv
      have hv : v = 2 ∨ v = 3 := by simpa using hv
      rcases hv with rfl | rfl
      all_goals exact ⟨_, rfl, rfl, by decide +kernel⟩), (by intro id hid; cases hid)⟩, by decide +kernel⟩

/-! Witnesses: memory. Page 0 of the address space is page 0 of stack 0, readable and writable, and page 1 lies at stack 3; the
migration-map entry of 0x100 carries v1 to v8, s1 to s8 and p1 to p3. -/

def tlb0 : List TlbEnt :=
  [{ unit := 0, asid := 0, page := 0, pa := 0, key := 0, heap := false, w := true, rd := true },
   { unit := 0, asid := 0, page := 1, pa := 3 * 274877906944, key := 0, heap := false, w := true, rd := true },
   { unit := 0, asid := 0, page := 2, pa := 0x20000, key := 0, heap := false, w := false, rd := false }]
def entry0 : MapEnt := { offset := 0, vlive := 0x1FE, slive := 0x1FE, plive := 0xE, pond := none, callsite := false }
def heapOf (e : MapEnt) : HeapSt := { HeapSt.reset with fns := [(0x100, { size := 64, kind := .kernel, map := [e] })] }
def heap0 : HeapSt := heapOf entry0
def mapped (s : State) : State := { s with mem := { MemSt.reset with tlb := tlb0 }, heap := heap0 }
def sM : State := mapped s0
def key0 : Option Nat := some 0
def laneAt (l a : Nat) (data : List Byte) : LaneAcc := { lane := l, va := BitVec.ofNat 64 a, pa := a, key := key0, data := data }

/-- LD of lanes 0 to 2 at 0x1000 + v3: three words of page 0. -/
def loads : List LaneAcc := [laneAt 0 0x1040 [], laneAt 1 0x1044 [], laneAt 2 0x1048 []]
theorem goes_load : ∃ c, memoryClaim h0 (.ld 7 5 3 2 false .b32 0) = some c ∧ c.op = .load .b32 ∧ c.dest = .vec [5] ∧
    PointGoes sM h0 c loads ∧ loads ≠ [] :=
  ⟨_, rfl, rfl, rfl, ⟨⟨⟨rfl, rfl, rfl, .inr rfl⟩, by decide +kernel, by decide +kernel⟩, by decide +kernel, ⟨by decide +kernel, by decide +kernel⟩, by decide +kernel, by decide +kernel,
    by decide +kernel, (by intro hc; cases hc), (by intro w hw; cases hw), by decide +kernel, by decide +kernel⟩, by decide +kernel⟩
theorem witness_load : Untouched sM (MemSize.b32).bytes loads := by unfold Untouched; decide +kernel

/-- The same where page 0 lies in host memory, and the store of v2 there. -/
def hostPage : Nat := 1023 * 4398046511104
def hostTlb : List TlbEnt := [{ unit := 0, asid := 0, page := 0, pa := hostPage, key := 0, heap := false, w := true, rd := true }]
def sHost : State := { sM with mem := { MemSt.reset with tlb := hostTlb } }
def hostLane (l a : Nat) (d : List Byte) : LaneAcc := { laneAt l a d with pa := hostPage + a, key := none }
theorem witness_hostLoad : ∃ c, memoryClaim h0 (.ld 7 5 3 2 false .b32 0) = some c ∧
    PointGoes sHost h0 c [hostLane 0 0x1040 [], hostLane 1 0x1044 [], hostLane 2 0x1048 []] ∧
    Untouched sHost 4 [hostLane 0 0x1040 [], hostLane 1 0x1044 [], hostLane 2 0x1048 []] ∧ homeOf (hostPage + 0x1040) = Config.hostHome :=
  ⟨_, rfl, ⟨⟨⟨rfl, rfl, rfl, .inr rfl⟩, by decide +kernel, by decide +kernel⟩, by decide +kernel, ⟨by decide +kernel, by decide +kernel⟩, by decide +kernel, by decide +kernel,
    by decide +kernel, (by intro hc; cases hc), (by intro w hw; cases hw), by decide +kernel, by decide +kernel⟩, by unfold Untouched; decide +kernel, by decide +kernel⟩

/-- The same where the turn leaves it to a later step. -/
theorem witness_late : ∃ c, memoryClaim h0 (.ld 7 5 3 2 false .b32 0) = some c ∧ PointGoes { sM with late := true } h0 c loads ∧ sM.late = false :=
  ⟨_, rfl, ⟨⟨⟨rfl, rfl, rfl, .inr rfl⟩, by decide +kernel, by decide +kernel⟩, by decide +kernel, ⟨by decide +kernel, by decide +kernel⟩, by decide +kernel, by decide +kernel,
    by decide +kernel, (by intro hc; cases hc), (by intro w hw; cases hw), by decide +kernel, by decide +kernel⟩, rfl⟩

/-- LD in no lane. -/
theorem witness_pointNone : ∃ c, memoryClaim h0 (.ld 2 5 3 2 false .b32 0) = some c ∧ PointGoes sM h0 c [] :=
  ⟨_, rfl, ⟨⟨rfl, rfl, rfl, .inr rfl⟩, by decide +kernel, by decide +kernel⟩, by decide +kernel, ⟨by decide +kernel, by decide +kernel⟩, by decide +kernel, by decide +kernel,
    by decide +kernel, (by intro hc; cases hc), (by intro w hw; cases hw), by decide +kernel, by decide +kernel⟩

/-- LDS of 8 bytes at s2. -/
theorem witness_loadScalar : ∃ c, memoryClaim h0 (.lds false 3 2 false .b64 0) = some c ∧ c.op = .load .b64 ∧ c.dest = .scal 3 ∧
    PointGoes sM h0 c [laneAt 0 0x1000 []] ∧ Untouched sM (MemSize.b64).bytes [laneAt 0 0x1000 []] :=
  ⟨_, rfl, rfl, rfl, ⟨⟨⟨rfl, rfl, rfl, .inr rfl⟩, by decide +kernel, by decide +kernel⟩, by decide +kernel, ⟨by decide +kernel, by decide +kernel⟩, by decide +kernel, by decide +kernel,
    by decide +kernel, (by intro hc; cases hc), (by intro w hw; cases hw), by decide +kernel, by decide +kernel⟩, by unfold Untouched; decide +kernel⟩

/-- ST of v2 in lanes 0 to 2. -/
def stores : List LaneAcc := [laneAt 0 0x1040 [3, 0, 0, 0], laneAt 1 0x1044 [4, 0, 0, 0], laneAt 2 0x1048 [5, 0, 0, 0]]
theorem witness_store : ∃ c, memoryClaim h0 (.st 7 2 3 2 false .b32 0) = some c ∧ c.op = .store .b32 ∧ PointGoes sM h0 c stores ∧
    Untouched sM (MemSize.b32).bytes stores ∧ sM.mem.wf = true :=
  ⟨_, rfl, rfl, ⟨⟨⟨rfl, rfl, rfl, .inr rfl⟩, by decide +kernel, by decide +kernel⟩, by decide +kernel, ⟨by decide +kernel, by decide +kernel⟩, by decide +kernel, by decide +kernel,
    by decide +kernel, (by intro hc; cases hc), (by intro w hw; cases hw), by decide +kernel, by decide +kernel⟩, by unfold Untouched; decide +kernel, by decide +kernel⟩

/-- ATM ADD in lane 0 alone. -/
theorem witness_atom : ∃ c, memoryClaim h0 (.atm 1 1 3 2 false .add .i32) = some c ∧ c.op = .atom .add .i32 ∧
    PointGoes sM h0 c [laneAt 0 0x1040 [3, 0, 0, 0]] ∧ Untouched sM (AtomType.i32).bytes [laneAt 0 0x1040 [3, 0, 0, 0]] :=
  ⟨_, rfl, rfl, ⟨⟨⟨rfl, rfl, rfl, .inr rfl⟩, by decide +kernel, by decide +kernel⟩, by decide +kernel, ⟨by decide +kernel, by decide +kernel⟩, by decide +kernel, by decide +kernel,
    by decide +kernel, (by intro hc; cases hc), (by intro w hw; cases hw), by decide +kernel, by decide +kernel⟩, by unfold Untouched; decide +kernel⟩

/-- The first lane of LD b64 at 0x1044 is misaligned; a store to page 2 has no permission, and one to page 9 no translation; page 1
is at another home than that of a crew knot. -/
def offBy (a : DWord) : Path := withCtx { ctx0 with scal := [(1, 9), (2, a), (4, 1), (6, 2)] }
theorem witness_align :
    let h := hereOf knot0 (offBy 0x1004)
    ∃ c r after, memoryClaim h (.ld 7 5 3 2 false .b64 0) = some c ∧ PointReads (mapped (alone knot0 h.p)) h c ∧ c.reqs = [] ++ r :: after ∧
      r.2.1.toNat % c.size ≠ 0 :=
  ⟨_, (0, 0x1044, []), [(1, 0x1048, []), (2, 0x104C, [])], rfl, ⟨⟨rfl, rfl, rfl, .inr rfl⟩, by decide +kernel, by decide +kernel⟩,
    by decide +kernel, by decide +kernel⟩
theorem witness_prot :
    let h := hereOf knot0 (offBy 0x20000)
    ∃ c r after, memoryClaim h (.st 7 2 3 2 false .b32 0) = some c ∧ PointReads (mapped (alone knot0 h.p)) h c ∧ c.reqs = [] ++ r :: after ∧
      (∀ x ∈ c.reqs, x.2.1.toNat % c.size = 0) ∧ Walks (mapped (alone knot0 h.p)) h (c.reqs.map (·.2.1)) ∧
      (mapped (alone knot0 h.p)).translateLane h c.size c.need r.2.1 = .error .prot :=
  ⟨_, (0, 0x20040, [3, 0, 0, 0]), [(1, 0x20044, [4, 0, 0, 0]), (2, 0x20048, [5, 0, 0, 0])], rfl,
    ⟨⟨rfl, rfl, rfl, .inr rfl⟩, by decide +kernel, by decide +kernel⟩, by decide +kernel, by decide +kernel, ⟨by decide +kernel, by decide +kernel⟩, by decide +kernel⟩
theorem witness_page :
    let h := hereOf knot0 (offBy 0x90000)
    ∃ c r after, memoryClaim h (.st 7 2 3 2 false .b32 0) = some c ∧ PointReads (mapped (alone knot0 h.p)) h c ∧ c.reqs = [] ++ r :: after ∧
      (∀ x ∈ c.reqs, x.2.1.toNat % c.size = 0) ∧ Walks (mapped (alone knot0 h.p)) h (c.reqs.map (·.2.1)) ∧
      (mapped (alone knot0 h.p)).translateLane h c.size c.need r.2.1 = .error .page :=
  ⟨_, (0, 0x90040, [3, 0, 0, 0]), [(1, 0x90044, [4, 0, 0, 0]), (2, 0x90048, [5, 0, 0, 0])], rfl,
    ⟨⟨rfl, rfl, rfl, .inr rfl⟩, by decide +kernel, by decide +kernel⟩, by decide +kernel, by decide +kernel, ⟨by decide +kernel, by decide +kernel⟩, by decide +kernel⟩
/-- An LD of page 9, none of whose lanes translates. -/
theorem witness_pends :
    let h := hereOf knot0 (offBy 0x90000)
    let s := mapped (alone knot0 h.p)
    ∃ c r after, memoryClaim h (.ld 7 5 3 2 false .b32 0) = some c ∧ PointReads s h c ∧ h.k.crew = none ∧
      (∀ x ∈ c.reqs, x.2.1.toNat % c.size = 0) ∧ Walks s h (c.reqs.map (·.2.1)) ∧ c.reqs = [] ++ r :: after ∧
      s.translateLane h c.size c.need r.2.1 = .error .page ∧ (∀ x ∈ after, s.translateLane h c.size c.need x.2.1 ≠ .error .prot) ∧
      pondOf s h = none ∧ ∀ x ∈ c.dest.names, (carriedSet s.heap h.p.ctx).has x = true → h.p.ctx.stateOf x ≠ .empty :=
  ⟨_, (0, 0x90040, []), [(1, 0x90044, []), (2, 0x90048, [])], rfl, ⟨⟨rfl, rfl, rfl, .inr rfl⟩, by decide +kernel, by decide +kernel⟩, rfl,
    by decide +kernel, ⟨by decide +kernel, by decide +kernel⟩, by decide +kernel, by decide +kernel, by decide +kernel, rfl, by decide +kernel⟩
def pa1 : Nat := 3 * 274877906944
def away (l a : Nat) : LaneAcc := { lane := l, va := BitVec.ofNat 64 (0x10000 + a), pa := pa1 + a, key := key0, data := [] }
theorem witness_rooted :
    let h := hereOf knotR (offBy 0x10000)
    let s := mapped (alone knotR h.p)
    ∃ c r after, memoryClaim h (.ld 7 5 3 2 false .b32 0) = some c ∧ PointReads s h c ∧ c.reqs = [] ++ r :: after ∧
      (∀ x ∈ c.reqs, x.2.1.toNat % c.size = 0) ∧ Walks s h (c.reqs.map (·.2.1)) ∧ h.k.crew.isSome = true ∧
      (∀ x ∈ c.reqs, s.translateLane h c.size c.need x.2.1 = .ok { pa := pa1 + x.2.1.toNat % 65536, key := key0 }) ∧
      homeOf (pa1 + 0x40) ≠ h.p.home :=
  ⟨_, (0, 0x10040, []), [(1, 0x10044, []), (2, 0x10048, [])], rfl, ⟨⟨rfl, rfl, rfl, .inr rfl⟩, by decide +kernel, by decide +kernel⟩,
    by decide +kernel, by decide +kernel, ⟨by decide +kernel, by decide +kernel⟩, rfl, by decide +kernel, by decide +kernel⟩
theorem witness_hop :
    let h := hereOf knot0 (offBy 0x10000)
    let s := mapped (alone knot0 h.p)
    let ls := [away 0 0x40, away 1 0x44, away 2 0x48]
    ∃ c, memoryClaim h (.ld 7 5 3 2 false .b32 0) = some c ∧ PointReads s h c ∧ (∀ r ∈ c.reqs, r.2.1.toNat % c.size = 0) ∧
      Walks s h (c.reqs.map (·.2.1)) ∧ h.u ∉ h.p.ctx.pushed ∧ ls.map (fun l => (l.lane, l.va, l.data)) = c.reqs ∧
      (∀ l ∈ ls, s.translateLane h c.size c.need l.va = .ok { pa := l.pa, key := l.key }) ∧ (∀ l ∈ ls, homeOf l.pa = 3) ∧
      3 ≠ h.p.home ∧ 3 ≠ Config.hostHome ∧ h.k.crew = none ∧ pondOf s h = none ∧
      (∀ r ∈ c.dest.names, (carriedSet s.heap h.p.ctx).has r = true → h.p.ctx.stateOf r ≠ .empty) ∧
      ∀ r ∈ (carriedSet s.heap h.p.ctx).names, h.p.ctx.stateOf r ≠ .empty ∧ h.p.ctx.stateOf r ≠ .pending :=
  ⟨_, rfl, ⟨⟨rfl, rfl, rfl, .inr rfl⟩, by decide +kernel, by decide +kernel⟩, by decide +kernel, ⟨by decide +kernel, by decide +kernel⟩, by decide +kernel, by decide +kernel,
    by decide +kernel, by decide +kernel, by decide +kernel, by decide +kernel, rfl, rfl, by decide +kernel, by decide +kernel⟩

/-- Lane 0 lies at the current stack and lanes 1 and 2 at stack 3: an entry that opens pond 2, and one that opens none; a post that is
outstanding. -/
def knotX : Knot := { knot0 with vregs := [(3, [0x40, 0x10044, 0x10048])] }
def splitting (e : MapEnt) (p : Path) : State := { mapped (alone knotX p) with heap := heapOf e }
def apart (ps : List PostEntry) : Path := withCtx { ctx0 with scal := [(2, 0)], posts := ps }
theorem witness_split : ∀ e ∈ [entry0, { entry0 with pond := some 2 }], let h := hereOf knotX (apart (List.replicate 8 .free)); let s := splitting e h.p
    let ls := [laneAt 0 0x40 [], away 1 0x44, away 2 0x48]
    ∃ c, memoryClaim h (.ld 7 5 3 2 false .b32 0) = some c ∧ PointReads s h c ∧ h.p.unperformed = [] ∧
      (∀ r ∈ c.reqs, r.2.1.toNat % c.size = 0) ∧ Walks s h (c.reqs.map (·.2.1)) ∧ ls.map (fun l => (l.lane, l.va, l.data)) = c.reqs ∧
      (∀ l ∈ ls, s.translateLane h c.size c.need l.va = .ok { pa := l.pa, key := l.key }) ∧
      (∃ l ∈ ls, ∃ m ∈ ls, partHome h l ≠ partHome h m) ∧ h.k.crew = none ∧ pondOf s h = e.pond.map (BitVec.ofNat 4) ∧ pondShut h 2 = false ∧
      (∀ r ∈ c.dest.names, (carriedSet s.heap h.p.ctx).has r = true → h.p.ctx.stateOf r ≠ .empty) ∧ Fenced h ∧
      ∀ r ∈ (carriedSet s.heap h.p.ctx).names, h.p.ctx.stateOf r ≠ .empty ∧ h.p.ctx.stateOf r ≠ .pending := by
  intro e he
  simp only [List.mem_cons, List.not_mem_nil, or_false] at he
  rcases he with rfl | rfl
  all_goals exact ⟨_, rfl, ⟨⟨rfl, rfl, rfl, .inr rfl⟩, by decide +kernel, by decide +kernel⟩, rfl, by decide +kernel, ⟨by decide +kernel, by decide +kernel⟩,
    by decide +kernel, by decide +kernel, by decide +kernel, rfl, rfl, by decide +kernel, by decide +kernel, by unfold Fenced; decide +kernel, by decide +kernel⟩
theorem witness_splitFresh (v : Nat) (hv : (splitting entry0 path0).uid ≤ v) : (splitting entry0 path0).path? v = none := by
  have h1 : (splitting entry0 path0).uid = 10 := rfl
  have : ¬(1 = v) := by omega
  simp [splitting, mapped, alone, State.path?, spFind, this]

/-- FENCE: nothing outstanding; one operation outstanding; a failure that has drained. -/
def openEntry : PostEntry := { valid := true, faulted := false, home := 0, outst := 1, stream := 0, seq := 3, held := [] }
def failedEntry : PostEntry := { openEntry with outst := 0, faulted := true }
def posting (e : PostEntry) : Path := withCtx { ctx0 with posts := e :: List.replicate 7 .free }
theorem witness_fence : Admits s0 1 h0 { defer := true } ∧ Fenced h0 := ⟨⟨rfl, rfl, rfl, .inr rfl⟩, by unfold Fenced; decide +kernel⟩
theorem witness_fenceWaits : Admits (alone knot0 (posting openEntry)) 1 (hereOf knot0 (posting openEntry)) { defer := true } ∧
    ∃ e ∈ (posting openEntry).ctx.posts, e.valid = true ∧ 0 < e.outst := ⟨⟨rfl, rfl, rfl, .inr rfl⟩, by decide +kernel⟩
theorem witness_fenceFails : Admits (alone knot0 (posting failedEntry)) 1 (hereOf knot0 (posting failedEntry)) { defer := true } ∧
    (∀ e ∈ (posting failedEntry).ctx.posts, e.valid = true → e.outst = 0) ∧ (posting failedEntry).super = false ∧
    ∃ e ∈ (posting failedEntry).ctx.posts, e.valid = true ∧ e.faulted = true := ⟨⟨rfl, rfl, rfl, .inr rfl⟩, by decide +kernel, rfl, by decide +kernel⟩

/-- HOME, PTAB and PTAB.FAIL. -/
theorem witness_home : Walks s0 h0 [h0.p.ctx.scalVal 2 + offsetOf h0 0 1] ∧ Meets s0 h0 { form := { imm := .any }, guard := pathGuard false, reads := [scalName 2], scal := some (5, 0) } ∧
    Meets s0 h0 { guard := pathGuard false, reads := [], scal := some (5, 0) } :=
  ⟨⟨by decide +kernel, by decide +kernel⟩, ⟨⟨rfl, rfl, rfl, .inr rfl⟩, by decide +kernel, by decide +kernel, by decide +kernel⟩,
   ⟨⟨rfl, rfl, rfl, .inr rfl⟩, by decide +kernel, by decide +kernel, by decide +kernel⟩⟩

/-- STP of lane 0 through a new entry of the post table. -/
def newEntry : PostEntry := { valid := true, faulted := false, home := 0, outst := 0, stream := 0, seq := 0, held := [] }
def req0 : Nat × DWord × List Byte := (0, 0x1040, [3, 0, 0, 0])
def stpOf (h : Here) : PostClaim := (postClaim h (.stp 1 2 3 2 false .b32 0)).get rfl
theorem stpOf_is (h : Here) : postClaim h (.stp 1 2 3 2 false .b32 0) = some (stpOf h) := rfl
theorem witness_post : Admits sM 1 h0 { imm := .any, defer := true } ∧ (stpOf h0).guard ≠ 15 ∧ (∀ r ∈ (stpOf h0).reads, h0.p.ctx.stateOf r = .full) ∧
    (∀ r ∈ (stpOf h0).reqs, r.2.1.toNat % (stpOf h0).size = 0) ∧ (stpOf h0).reqs = [req0] ∧
    PostsGo 1 (stpOf h0) sM (stpOf h0).reqs (postedLane sM h0 (stpOf h0) 0 0 newEntry 0x1040 key0 req0) := by
  have e : (stpOf h0).reqs = [req0] := by decide +kernel
  refine ⟨⟨rfl, rfl, rfl, .inl rfl⟩, by decide +kernel, by decide +kernel, by decide +kernel, e, ?_⟩
  rw [e]
  exact ⟨h0, { pa := 0x1040, key := key0 }, 0, newEntry, by decide +kernel, rfl, by decide +kernel, ⟨by decide +kernel, by decide +kernel⟩,
    by decide +kernel, Or.inl (by decide +kernel), Or.inr ⟨by decide +kernel, ⟨.free, by decide +kernel⟩, by decide +kernel⟩, rfl⟩

/-- Its lane finds its home's entry FAULTED, or with no room; all eight entries of another home, FAULTED or not. -/
def tableOf (e : PostEntry) (n : Nat) : Path := withCtx { ctx0 with posts := List.replicate n e ++ List.replicate (8 - n) .free }
theorem witness_postStops : ∀ x ∈ [({ failedEntry with outst := 1 }, 1), ({ openEntry with outst := 4095 }, 1), ({ failedEntry with home := 3 }, 8),
    ({ openEntry with home := 3 }, 8)], let h := hereOf knot0 (tableOf x.1 x.2); let s := mapped (alone knot0 h.p)
    Admits s 1 h { imm := .any, defer := true } ∧ (stpOf h).reqs = [] ++ req0 :: [] ∧ s.here 1 = some h ∧ h.p.ctx.sent.getLsbD 0 = false ∧
      Walks s h [req0.2.1] ∧ s.translateLane h req0.2.2.length (stpOf h).need req0.2.1 = .ok { pa := 0x1040, key := key0 } ∧
      (if x.2 = 1 then findIdx (fun e => e.valid && e.home == 0) h.p.ctx.posts = some (0, x.1)
        else ∀ e ∈ h.p.ctx.posts, e.valid = true ∧ e.home ≠ 0) := by
  intro x hx
  simp only [List.mem_cons, List.not_mem_nil, or_false] at hx
  rcases hx with rfl | rfl | rfl | rfl
  all_goals exact ⟨⟨rfl, rfl, rfl, .inl rfl⟩, by decide +kernel, by decide +kernel, by decide +kernel, ⟨by decide +kernel, by decide +kernel⟩,
    by decide +kernel, by decide +kernel⟩
/-- Its page is not mapped: the lane is held at once. -/
theorem witness_postHeld : let h := hereOf knot0 (offBy 0x90000); let s := mapped (alone knot0 h.p); let r := (0, (0x90040 : DWord), ([3, 0, 0, 0] : List Byte))
    (stpOf h).reqs = [] ++ r :: [] ∧ FailsAtIssue s h (stpOf h) r 0 1 ∧ EntryTakes h.p.ctx 0 0 newEntry ∧
      (s.writeHeld h.p.knot { home := h.p.home, area := 0, op := (stpOf h).code, type := (stpOf h).type, cause := 1, addr := r.2.1, lane := r.1
                              seq := newEntry.seq + 1, data := r.2.2 }).isSome = true :=
  ⟨by decide +kernel, .page (by decide +kernel), Or.inr ⟨by decide +kernel, ⟨.free, by decide +kernel⟩, by decide +kernel⟩, by decide +kernel⟩

/-- A post in flight to stack 0, a store, an atomic and a vector add; an acknowledgement on its way. -/
def post0 (op : PostOp) : Post :=
  { id := 20, launch := 1, knot := 1, path := 1, home := 0, stream := 0, seq := 3, op := op, code := 0, type := 0, va := 0x40, pa := 0x40, key := key0
    asid := 0, lane := 0, data := [1, 2, 3, 4], stamp := 1, window := 1 }
def sP (op : PostOp) : State := { alone knot0 (posting openEntry) with flow := { FlowSt.reset with posts := [post0 op] } }
theorem due (s : State) (op : PostOp) (h : s.flow.posts = [post0 op]) (hs : s.stks = []) : PostDue s (post0 op) :=
  ⟨by simp [h], by simp [hs, State.stk, post0, spGet, spFind, StackSt.reset], by simp [h]⟩
theorem witness_postPerformed : ∀ op ∈ [PostOp.store, .atom .add .i32, .vadd false 5], let s := sP op; let p := post0 op
    PostDue s p ∧ s.streamHeld p = false ∧
      (s.path? p.path).isSome = true ∧ s.mem.wf = true ∧ p.pa + p.data.length ≤ zoneBase ∧
      (∀ line ∈ linesOf p.pa p.data.length, spFind line s.mem.lines = none) ∧ s.mem.poisoned p.pa p.data.length = false ∧
      (∀ l n, p.op ≠ .dec l n) ∧ p.data.length % 4 = 0 := by
  intro op ho
  simp only [List.mem_cons, List.not_mem_nil, or_false] at ho
  rcases ho with rfl | rfl | rfl
  all_goals exact ⟨due _ _ rfl rfl, by decide +kernel, by decide +kernel, by decide +kernel, by decide +kernel, by decide +kernel, by decide +kernel,
    (by intro l n hl; cases hl), by decide +kernel⟩
/-- Posts that are held: the stream is held, the bytes are poisoned. -/
def heldStream : State := { sP .store with flow := { FlowSt.reset with posts := [post0 .store], held := [{ knot := 1, home := 0, stream := 0, last := 2 }] } }
def poisonedPost : State := { sP .store with mem := { MemSt.reset with poison := [2] } }
theorem witness_postFails :
    (PostDue heldStream (post0 .store) ∧ heldStream.streamHeld (post0 .store) = true ∧
      (heldStream.takeArea (heldStream.holdHome (post0 .store)) { kind := .record, len := 64, own := some 1 }).isSome = true) ∧
    (PostDue poisonedPost (post0 .store) ∧ poisonedPost.streamHeld (post0 .store) = false ∧ poisonedPost.mem.poisoned 0x40 4 = true ∧
      (poisonedPost.takeArea (poisonedPost.holdHome (post0 .store)) { kind := .record, len := 64, own := some 1 }).isSome = true) :=
  ⟨⟨due _ _ rfl rfl, by decide +kernel, by decide +kernel⟩, ⟨due _ _ rfl rfl, by decide +kernel, by decide +kernel, by decide +kernel⟩⟩
/-- A decrement of a counter node, whose counter is 2, 1 or 0. -/
def counting (n : Nat) : State :=
  let nd : Node :=
    { ent := { entry := 0x100, kind := 2, home := 0, prio := 0, recsz := 0, width := 32, alloc := 64, coalesce := 8, handler := none, timer := 5
               count := 2, arg := 0 }
      counter := n, spent := false, abandoned := false, batches := [] }
  let la : Launch :=
    { module := 0, queue := 0x4000, seq := 1
      what := { kernel := 0x100, movement := none, nknots := 1, width := 32, alloc := 64, pad := 0, crew := 1, prio := 0, place := 0, mode := 0
                args := [], base := 0, stride := 0, compl := 0, regions := [], barcnt := [] }
      regs := regs0, brood := 1, nodes := [(2, nd)], handed := [], ownEnded := false, killed := false, moveFault := false, cancelled := false }
  { sP (.dec 1 2) with launches := [(1, la)] }
theorem witness_decrement : ∀ n ∈ [1, 2], let s := counting n; let p := post0 (.dec 1 2)
    PostDue s p ∧ s.streamHeld p = false ∧ (s.path? p.path).isSome = true ∧ p.op = .dec 1 2 ∧
      ∃ la nd, spFind 1 s.launches = some la ∧ spFind 2 la.nodes = some nd ∧ nd.counter = n ∧ nd.counter ≠ 0 ∧ nd.spent = false ∧
        nd.abandoned = false ∧ s.cancelledBrood p.stamp = false := by
  intro n hn
  simp only [List.mem_cons, List.not_mem_nil, or_false] at hn
  rcases hn with rfl | rfl
  all_goals exact ⟨due _ _ rfl rfl, by decide +kernel, by decide +kernel, rfl, _, _, rfl, rfl, rfl, by decide +kernel, rfl, rfl, by decide +kernel⟩
theorem witness_decrementFails : let s := counting 0; let p := post0 (.dec 1 2)
    PostDue s p ∧ s.streamHeld p = false ∧ (s.path? p.path).isSome = true ∧ (spFind 1 s.launches).bind (fun la => (spFind 2 la.nodes).map (·.counter)) = some 0 ∧
      (s.takeArea (s.holdHome p) { kind := .record, len := 64, own := some p.knot }).isSome = true :=
  ⟨due _ _ rfl rfl, by decide +kernel, by decide +kernel, by decide +kernel, by decide +kernel⟩
def ack0 : Ack := { id := 21, path := 1, home := 0, held := none }
def sA : State := { alone knot0 (posting openEntry) with flow := { FlowSt.reset with acks := [ack0] } }
theorem witness_acknowledged : (sA.flow.acks.find? fun x => x.id == ack0.id) = some ack0 ∧
    sA.here 1 = some (hereOf knot0 (posting openEntry)) ∧ ack0.held = none ∧
    findIdx (fun x => x.valid && x.home == ack0.home) (posting openEntry).ctx.posts = some (0, openEntry) ∧ openEntry.held = [] ∧
    (posting openEntry).place = .resident seat0 := by decide +kernel

/-- Bytes written where the host holds no line. -/
theorem witness_memory : MemSt.reset.wf = true ∧ ∀ l ∈ linesOf 0x3E 4, spFind l MemSt.reset.lines = none := by decide +kernel
theorem witness_step : State.reset.mem.wf = true ∧ ∃ t, Machine.step State.reset = .next t := ⟨by decide +kernel, _, rfl⟩

/-! Witnesses: crews, pads, barriers and the matrix engine. Crew 1 of one knot on core 0 of stack 0, with a pad of 256 bytes whose last 64
are a plane region. -/

def mover0 : Mover :=
  { pc := 0x200, wrapped := false, fn := 0x200, g := [(1, 0x1000), (2, 5)], stack := [], hints := .none, run := .running, fault := none
    pending := none, reported := false, ptbase := 0, asid := 0, keysel := 1, window := 1, list := [], wait := false, blockedAt := none, unseen := [] }
/-- Tile 4: BX8, 128 rows and 32 bytes a row; accumulators 2 and 3 belong to knot 1, the unit holds the token of 2. -/
def engine0 : Engine :=
  { tiles := [], cfgs := [], fmt := none, latch := none
    accs := [(2, { owner := some 1, unit := true, cells := [], poison := [] }), (3, { owner := some 1, unit := false, cells := [], poison := [] })]
    accQueue := [], queue := [], begun := [], words := [], handles := [(5, { state := .full, exp := 2, cred := 2, faulted := false }),
      (6, { state := .draining, exp := 2, cred := 2, faulted := false })]
    mailbox := [7], mover := mover0, copies := [] }
def crew0 (e : Option Engine) : Crew :=
  { launch := 1, index := 0, home := 0, place := .core 0, size := 1, members := [1], ended := [], padSize := 256, pad := [], next := []
    regions := [(0, { start := 192, length := 64, plane := true, rule := 0, clear := false })], parity := [], writers := []
    arrived := [], collided := none, decision := 0, poison := [], leaving := false, engine := e }
def crewKnot : Knot := { knot0 with crew := some (1, 0), accs := [2, 3] }
def padPath : Path := withCtx { ctx0 with scal := [(2, 0)] }
def onCrew (p : Path) (e : Option Engine) : State := { alone crewKnot p with crews := [(1, crew0 e)] }

/-- PLD, PST and PATM of lane 0 at offset 0x40. -/
theorem witness_pad : ∀ i ∈ [Instr.pld 1 5 3 2 false .b32 0, .pst 1 2 3 2 false .b32 0, .patm 1 1 3 2 false .add .i32],
    ∃ c, padClaim (hereOf crewKnot padPath) i = some c ∧
      PadGoes (onCrew padPath none) (hereOf crewKnot padPath) c 1 0 (crew0 none) ∧ c.reqs ≠ [] := by
  intro i hi
  simp only [List.mem_cons, List.not_mem_nil, or_false] at hi
  rcases hi with rfl | rfl | rfl
  all_goals exact ⟨_, rfl, ⟨⟨rfl, rfl, rfl, .inr rfl⟩, by decide +kernel, by decide +kernel, by decide +kernel, by decide +kernel, by decide +kernel,
    by decide +kernel, by decide +kernel⟩, by decide +kernel⟩
/-- A misaligned lane; one past the end; one in the plane region. -/
def padAt (a : DWord) : Here := hereOf crewKnot (withCtx { ctx0 with scal := [(2, a)] })
theorem witness_padAlign : ∃ c r, padClaim (padAt 2) (.pld 1 5 3 2 false .b32 0) = some c ∧ c.reqs = [] ++ r :: [] ∧ r.2.1.toNat % c.size ≠ 0 :=
  ⟨_, (0, 0x42, []), rfl, by decide +kernel, by decide +kernel⟩
theorem witness_padBound : ∃ c r, padClaim (padAt 0xC0) (.pld 1 5 3 2 false .b32 0) = some c ∧ c.reqs = [] ++ r :: [] ∧
    (∀ x ∈ c.reqs, x.2.1.toNat % c.size = 0) ∧ (crew0 none).padSize < r.2.1.toNat + c.size :=
  ⟨_, (0, 0x100, []), rfl, by decide +kernel, by decide +kernel, by decide +kernel⟩
theorem witness_padPlane : ∃ c r, padClaim (padAt 0x80) (.patm 1 1 3 2 false .add .i32) = some c ∧ c.reqs = [] ++ r :: [] ∧
    (∀ x ∈ c.reqs, x.2.1.toNat % c.size = 0) ∧ (∀ x ∈ c.reqs, x.2.1.toNat + c.size ≤ (crew0 none).padSize) ∧ c.flat = true ∧
    (crew0 none).inPlane r.2.1.toNat = true :=
  ⟨_, (0, 0xC0, [3, 0, 0, 0]), rfl, by decide +kernel, by decide +kernel, by decide +kernel, by decide +kernel, by decide +kernel⟩

/-- PST of a word of the plane region. -/
theorem witness_padRecorded : ∃ c, padClaim (padAt 0x80) (.pst 1 2 3 2 false .b32 0) = some c ∧
    PadGoes (onCrew (padAt 0x80).p none) (padAt 0x80) c 1 0 (crew0 none) ∧ c.reqs = [(0, 0xC0, [3, 0, 0, 0])] ∧
    (crew0 none).inPlane 0xC0 = true ∧ cellsWf (crew0 none).pad = true :=
  ⟨_, rfl, ⟨⟨rfl, rfl, rfl, .inr rfl⟩, by decide +kernel, by decide +kernel, by decide +kernel, by decide +kernel, by decide +kernel,
    by decide +kernel, by decide +kernel⟩, by decide +kernel, by decide +kernel, by decide +kernel⟩
/-- PSTEP of a crew knot of two paths; the last arrival where two writers have word 48 of a FAULT region. -/
theorem witness_pstepDiverged : let s := { onCrew path0 none with paths := [(1, path0), (2, sibling)] }
    Admits s 1 (hereOf crewKnot path0) .plain ∧ s.siblings 1 1 ≠ [] := ⟨⟨rfl, rfl, rfl, .inr rfl⟩, by decide +kernel⟩
def colliding : Crew :=
  { crew0 none with regions := [(0, { start := 192, length := 64, plane := true, rule := 3, clear := false })], writers := [(48, [(7, 4), (1027, 5)])] }
theorem witness_collides : Collides colliding 192 7 := by
  refine ⟨by decide +kernel, 48, 7, 4, [(1027, 5)], rfl, ⟨0, _, rfl, rfl, rfl⟩, rfl, by decide, by decide, ?_⟩
  intro i hi _
  have h : ¬(48 = i) := by omega
  simp [colliding, spGet, spFind, h]
theorem witness_pstepCollides : let s := { onCrew path0 none with crews := [(1, colliding)] }
    Admits s 1 (hereOf crewKnot path0) .plain ∧ s.siblings 1 1 = [] ∧ spFind 1 s.crews = some colliding ∧
      { colliding with arrived := 0 :: colliding.arrived }.allArrived = true ∧ spRising none colliding.writers = true ∧
      s.lowestLive 1 = some (0, 1) ∧ s.path? 1 = some path0 :=
  ⟨⟨rfl, rfl, rfl, .inr rfl⟩, by decide +kernel, rfl, by decide +kernel, by decide +kernel, by decide +kernel, rfl⟩

/-- PSTEP: the arrival that completes the step; an arrival that must wait; a step that is over. -/
def stepped : Path := { path0 with pend := .step }
theorem witness_pstep : Admits (onCrew path0 none) 1 (hereOf crewKnot path0) .plain ∧
    (onCrew path0 none).siblings 1 1 = [] ∧ path0.pend ≠ .step ∧ { crew0 none with arrived := [0] }.allArrived = true ∧
    { crew0 none with arrived := [0] }.collision = none := ⟨⟨rfl, rfl, rfl, .inr rfl⟩, by decide +kernel, by decide +kernel, by decide +kernel, by decide +kernel⟩
theorem witness_pstepWaits : { crew0 none with size := 2, members := [1, 2], arrived := [0] }.allArrived = false := by decide +kernel
theorem witness_pstepOver : Admits (onCrew stepped none) 1 (hereOf crewKnot stepped) .plain ∧ stepped.pend = .step ∧
    (crew0 none).arrived.contains 0 = false := ⟨⟨rfl, rfl, rfl, .inr rfl⟩, rfl, by decide +kernel⟩

/-- Barriers: the STACK barrier 3 of a launch that counts its knots there; a complete phase and one that is not. -/
def launch0 : Launch :=
  { module := 0, queue := 0x4000, seq := 1
    what := { kernel := 0x100, movement := none, nknots := 1, width := 32, alloc := 64, pad := 0, crew := 1, prio := 0, place := 0, mode := 0
              args := [], base := 0, stride := 0, compl := 0, regions := [], barcnt := List.replicate 80 2 }
    regs := regs0, brood := 1, nodes := [], handed := [], ownEnded := false, killed := false, moveFault := false, cancelled := false }
def sBar : State := { alone knot0 path0 with launches := [(1, launch0)] }
def phase0 (c : Bool) : Phase :=
  { id := 7, launch := 1, scope := .stack, inst := 0, crew := none, bid := 3, count := 1, slots := [], expected := 2, complete := c }
def inBar : Path := { path0 with pend := .barrier 7 }
def waitKnot : Knot := { knot0 with baras := [(.stack, 3, 7)] }
theorem witness_barrier : Admits sBar 1 h0 .plain ∧ sBar.siblings 1 1 = [] ∧ knot0.bara .stack 3 = none ∧
    (sBar.phaseFor h0 .stack 3).isSome = true ∧ Fenced h0 ∧ ∀ ph, path0.pend ≠ .barrier ph :=
  ⟨⟨rfl, rfl, rfl, .inr rfl⟩, by decide +kernel, by decide +kernel, by decide +kernel, by unfold Fenced; decide +kernel, by intro ph hp; cases hp⟩
theorem witness_barrierPhase : ∀ b, let s := { alone knot0 inBar with flow := { FlowSt.reset with bars := [phase0 b] } }
    Admits s 1 (hereOf knot0 inBar) .plain ∧ inBar.pend = .barrier 7 ∧ s.phase? 7 = some (phase0 b) := by
  intro b; cases b <;> exact ⟨⟨rfl, rfl, rfl, .inr rfl⟩, rfl, by decide +kernel⟩
theorem witness_barw : ∀ b, let s := { alone waitKnot path0 with flow := { FlowSt.reset with bars := [phase0 b] } }
    Admits s 1 (hereOf waitKnot path0) .plain ∧ waitKnot.bara .stack 3 = some (.stack, 3, 7) ∧ s.phase? 7 = some (phase0 b) := by
  intro b; cases b <;> exact ⟨⟨rfl, rfl, rfl, .inr rfl⟩, by decide +kernel, by decide +kernel⟩

/-- The configuration word of tile 4, and an engine that has it. -/
def sE (e : Engine) : State := onCrew path0 (some e)
def hE : Here := hereOf crewKnot path0
theorem witness_engine : Admits (sE engine0) 1 hE { matrix := true } ∧ HasEngine (sE engine0) hE 1 0 (crew0 (some engine0)) engine0 :=
  ⟨⟨rfl, rfl, rfl, .inr rfl⟩, ⟨rfl, rfl, rfl⟩⟩
/-- TCFG of a legal word; TLD and TST of a configured tile in the pad; WLD; MMA and MMAS. Tile 4 is one row of 32 bytes of BX8. -/
def cfg0 : DWord := 0x1D2000
def configured : Engine := { engine0 with cfgs := [(4, cfg0)], fmt := some .bx8 }
def tilePath : Path := withCtx { ctx0 with scal := [(1, cfg0), (2, 32), (4, 64)] }
theorem witness_tiles : tilePath.ctx.scalState 1 = .full ∧ cfgOk (tilePath.ctx.scalVal 1) = true ∧ configured.cfg 4 = some cfg0 ∧
    cfgBx cfg0 = true ∧ (∀ r ∈ tileRanges cfg0 (tilePath.ctx.scalVal 2).toNat (tilePath.ctx.scalVal 4).toNat,
      r.1 % 32 = 0 ∧ r.1 + r.2 ≤ (crew0 (some configured)).padSize ∧ (crew0 (some configured)).touchesPlane r.1 r.2 = false) ∧
    cfgWide cfg0 = false := by decide +kernel
/-- A pair of 16-bit tiles. -/
theorem witness_wide : let e := { engine0 with cfgs := [(4, 0x92000), (5, 0x92000)] }
    cfgWide 0x92000 = true ∧ cfgOk 0x92000 = true ∧ (4 : Tile) ≠ 15 ∧ e.pairOk 4 0x92000 = true := by decide +kernel
theorem witness_multiply : hE.p.ctx.stateOf (guardName 7) = .full ∧ (7 : Guard) ≠ 15 ∧ Token hE configured 0 2 true ∧
    MultiplyOk configured 4 .bx8 cfg0 ∧ hE.p.ctx.stateOf (vecName hE 3) = .full :=
  ⟨rfl, by decide +kernel, ⟨rfl, rfl⟩, ⟨by decide +kernel, by decide +kernel, by decide +kernel, .bx8, rfl, rfl⟩, rfl⟩
/-- MWAIT of batch 0 with nothing queued, and with an operation of it queued. -/
def busyEngine : Engine := { engine0 with queue := [{ knot := 1, batch := 0, kind := .zero 3 }] }
theorem witness_batches : hE.p.ctx.scalState 5 = .full ∧ (hE.p.ctx.scalVal 5).toNat ≤ hE.k.batch ∧
    (∀ op ∈ engine0.queue, op.knot = hE.p.knot → (hE.p.ctx.scalVal 5).toNat < op.batch) ∧
    ∃ op ∈ busyEngine.queue, op.knot = hE.p.knot ∧ op.batch ≤ (hE.p.ctx.scalVal 5).toNat := by decide +kernel

/-- ACCGET granted; asked; asked with accumulators. The tokens of acc0 (the unit's) and acc1 (the knot's). -/
def granted : Path := { path0 with pend := .accget }
theorem witness_accget : Admits (onCrew granted (some engine0)) 1 (hereOf crewKnot granted) { matrix := true } ∧
    HasEngine (onCrew granted (some engine0)) (hereOf crewKnot granted) 1 0 (crew0 (some engine0)) engine0 ∧ granted.pend = .accget ∧
    granted.ctx.scalState 5 ≠ .empty ∧ ∀ r ∈ engine0.accQueue, r.1 ≠ granted.knot :=
  ⟨⟨rfl, rfl, rfl, .inr rfl⟩, ⟨rfl, rfl, rfl⟩, rfl, by decide +kernel, by decide +kernel⟩
theorem witness_accAsk : path0.pend ≠ .accget ∧ knotR.accs = [] ∧ crewKnot.accs ≠ [] := by decide +kernel
theorem witness_accput : ∀ op ∈ busyEngine.queue, op.knot = hE.p.knot → ∀ a x k r z, op.kind ≠ .multiply a x k r z := by
  intro op hop _ a x k r z hk
  simp only [busyEngine, List.mem_cons, List.not_mem_nil, or_false] at hop
  subst hop
  cases hk
theorem witness_tokens : Token hE engine0 0 2 true ∧ Token hE engine0 1 3 false ∧ (∀ op ∈ engine0.queue, ∀ x k r z, op.kind ≠ .multiply 2 x k r z) ∧
    hE.p.ctx.scalState 5 = .full ∧ (hE.p.ctx.scalVal 5).toNat < 128 ∧ (hE.p.ctx.scalVal 5).toNat % 4 = 0 ∧
    hE.p.ctx.stateOf (vecName hE 1) ≠ .empty ∧ accRows hE 7 ≠ [] ∧ (∀ r ∈ groupNames hE 1 4, hE.p.ctx.stateOf r = .full) :=
  ⟨⟨rfl, rfl⟩, ⟨rfl, rfl⟩, (by intro op hop; cases hop), rfl, by decide +kernel, by decide +kernel, by decide +kernel, by decide +kernel, by decide +kernel⟩
/-- The part without matrix units, and a knot outside a crew. -/
theorem witness_noMatrix : (sE engine0).cur = .path hE.u ∧ (sE engine0).here hE.u = some hE ∧
    hintsMisused { matrix := true } hE.p.hints = false ∧ (sE engine0).strap.hasMatrix = true ∧
    { (sE engine0).strap with part := .aj8v }.hasMatrix = false ∧ neverForm (.tzero false 4) = none ∧ isMatrix (.tzero false 4) = true ∧
    isHandle (.hwait 5) = true := ⟨rfl, rfl, rfl, rfl, rfl, rfl, rfl, rfl⟩
/-- A knot of no crew, and one of a crew without an engine. -/
theorem witness_noEngine : NoEngine s0 h0 ∧ NoEngine (onCrew path0 none) hE ∧ Admits (onCrew path0 none) 1 hE .plain ∧ hE.p.unperformed = [] :=
  ⟨.inl rfl, .inr ⟨1, 0, crew0 none, rfl, rfl, rfl⟩, ⟨rfl, rfl, rfl, .inr rfl⟩, rfl⟩
theorem witness_outside : isMovement (.mpwait 3) = true ∧ (encode (.iadd 7 1 2 3 false false)).isSome = true ∧
    Claims.inSubset (.iadd 7 1 2 3 false false) = false ∧ Claims.inSubset (.sadd 1 2 3 true false) = false ∧
    Claims.inSubset (.srd 1 .mode) = false := by decide +kernel
/-- What the matrix queue does: a tile of BX8 and one that is not; latched weights. -/
def tile0 : TileReg := { cfg := some cfg0, bytes := [⟨3, 5⟩], hdr := [], poison := [] }
def latched : Engine := { engine0 with latch := some { low := tile0, high := tile0, scale := 0 }, tiles := [(4, tile0)] }
theorem witness_performs : (crew0 (some latched)).engine = some latched ∧ (latched.tile 4).cfg = some cfg0 ∧ cfgOk cfg0 = true ∧
    cellsWf (latched.tile 4).bytes = true ∧ cellsWf (latched.tile 4).hdr = true ∧ cellsWf (crew0 (some latched)).pad = true ∧
    32 + cfgRows cfg0 * cfgBpr cfg0 ≤ 64 ∧ latched.latch = some { low := tile0, high := tile0, scale := 0 } ∧ ([0, 2] : List Nat).Nodup ∧
    spRising none (latched.acc 2).cells = true := by decide +kernel

/-- A tile whose TLD or TST has moved pad word 8. -/
def moved : Engine := { latched with words := [(8, [1, 2, 3, 4], false)] }
theorem witness_tileWords : (crew0 (some moved)).engine = some moved ∧ (moved.tile 4).cfg = some cfg0 ∧ cellsWf (crew0 (some moved)).pad = true ∧
    spRising none moved.words = true ∧ (∀ x ∈ moved.words, x.2.1.length = 4) ∧ latched.words = [] := by decide +kernel
theorem witness_tileWordsPad : cellsWf [⟨32, 1⟩, ⟨33, 2⟩, ⟨34, 3⟩, ⟨35, 4⟩] = true ∧ ∀ a, cellGet [⟨32, 1⟩, ⟨33, 2⟩, ⟨34, 3⟩, ⟨35, 4⟩] a =
    (match spFind (a / 4) moved.words with | some x => x.1.getD (a % 4) 0 | none => cellGet (crew0 (some moved)).pad a) := by
  refine ⟨by decide +kernel, fun a => ?_⟩
  by_cases h : a / 4 = 8
  · obtain rfl | rfl | rfl | rfl : a = 32 ∨ a = 33 ∨ a = 34 ∨ a = 35 := by omega
    all_goals decide +kernel
  · have h1 : ¬(32 = a) := by omega
    have h2 : ¬(33 = a) := by omega
    have h3 : ¬(34 = a) := by omega
    have h4 : ¬(35 = a) := by omega
    have h5 : ¬(8 = a / 4) := by omega
    simp [moved, crew0, cellGet, spGet, spFind, h1, h2, h3, h4, h5]

/-- Handles 5 (full) and 6 (draining), by a mask of either, a mailbox with room. -/
def handlePath : Path := withCtx { ctx0 with scal := [(1, 0x20)] }
def hH : Here := hereOf crewKnot handlePath
theorem witness_handles : HasEngine (onCrew handlePath (some engine0)) hH 1 0 (crew0 (some engine0)) engine0 ∧
    Admits (onCrew handlePath (some engine0)) 1 hH .plain ∧
    (List.range 64).find? (fun i => (hH.p.ctx.scalVal 1).getLsbD i && engine0.full i) = some 5 ∧ (engine0.handle 5).state = .full ∧
    (engine0.handle 6).state = .draining ∧ (engine0.handle 7).state ≠ .draining ∧ hH.p.ctx.scalState 1 = .full ∧
    (∀ i < 64, (hH.p.ctx.scalVal 1).getLsbD i = true → (engine0.handle i).state = .full ∨ (engine0.handle i).state = .draining) ∧
    engine0.mailbox.length < 16 :=
  ⟨⟨rfl, rfl, rfl⟩, ⟨rfl, rfl, rfl, .inr rfl⟩, by decide +kernel, rfl, rfl, by decide +kernel, rfl, by decide +kernel, by decide +kernel⟩
theorem witness_hanyReads : Meets (onCrew handlePath (some engine0)) hH { reads := [scalName 1], scal := some (2, 5) } :=
  ⟨⟨rfl, rfl, rfl, .inr rfl⟩, by decide +kernel, by decide +kernel, by decide +kernel⟩

/-- A plane region with writers, under each rule. -/
theorem witness_plane : ∀ rule ∈ [0, 1, 2, 3], let r : Region := { start := 192, length := 64, plane := true, rule := rule, clear := false }
    let w := { crew0 none with next := [⟨192, 10⟩], writers := [(48, [(7, 4), (1027, 5)])] }
    r.plane = true ∧ r.start % 4 = 0 ∧ r.length % 4 = 0 ∧ cellsWf w.pad = true ∧ cellsWf w.next = true ∧ spRising none w.writers = true ∧
      r.start ≤ 4 * 48 ∧ 4 * 48 < r.start + r.length ∧ spFind 48 w.writers = some [(7, 4), (1027, 5)] ∧ spFind 49 w.writers = none := by
  decide +kernel

/-! Witnesses: the movement processor of crew 1. -/

def moving (m : Mover) : State := { sE { engine0 with mover := m } with cur := .mover 1 }
def mHere (m : Mover) : MHere := { c := 1, crew := crew0 (some { engine0 with mover := m }), e := { engine0 with mover := m } }
theorem witness_mover : MovesOn (moving mover0) (mHere mover0) ∧ mover0.stack.length < 16 ∧ (mover0.reg 1).toNat < 2 ^ 32 :=
  ⟨⟨rfl, rfl, rfl⟩, by decide +kernel, by decide +kernel⟩
def calledMover : Mover := { mover0 with stack := [0x210] }
theorem witness_moverRet : MovesOn (moving calledMover) (mHere calledMover) ∧ calledMover.stack = 0x210 :: [] := ⟨⟨rfl, rfl, rfl⟩, rfl⟩
theorem witness_moverScalar : (moving mover0).cur = .mover 1 ∧ (moving mover0).mover? 1 = some (mHere mover0) ∧
    (scalarValue (fun a => mover0.reg a.toNat) mover0.hints.imm (.sadd 3 1 2 false false)) = some (3, [1, 2], 0x1005) ∧
    hasFe (.sadd 3 1 2 false false) = false ∧ hintsMisused (scalarForm (.sadd 3 1 2 false false)) mover0.hints = false :=
  ⟨rfl, rfl, by decide +kernel, rfl, rfl⟩
/-- A COPY of 64 bytes, a COPY2D of 2 rows of 32, and a GATHER of no index, into handle 7 (free). -/
def copier (ctl : DWord) : Mover :=
  { mover0 with g := [(8, 0x1000), (9, 0x2000), (10, ctl), (11, 0x10000), (12, 0x100), (13, 0x200)] }
theorem witness_copy : let m := mHere (copier 64); let ds := m.e.mover.desc 8
    MovesOn (moving (copier 64)) m ∧ HandleOpen m.e 7 ∧ Sectored ds.src.toNat ∧ Sectored ds.dst.toNat ∧ Sectored ds.bytes ∧
      ds.ctl.extractLsb' 48 14 = 0 ∧ ds.bytes ≤ 2 ^ 32 - 32 :=
  ⟨⟨rfl, rfl, rfl⟩, ⟨Or.inl rfl, rfl⟩, by unfold Sectored; decide +kernel, by unfold Sectored; decide +kernel,
   by unfold Sectored; decide +kernel, by decide +kernel, by decide +kernel⟩
theorem witness_copy2d : let ds := (copier 0x200000020).desc 8
    Sectored ds.src.toNat ∧ Sectored ds.dst.toNat ∧ Sectored ds.x4.toNat ∧ Sectored ds.x5.toNat ∧ Sectored ds.rowBytes ∧ ds.rowBytes ≠ 0 ∧
      ds.ctl.extractLsb' 48 14 = 0 ∧ ds.ctl.extractLsb' 16 16 = 0 := by unfold Sectored; decide +kernel
/-- A GATHER of one row whose index word, in the pad at 0x40, is 0. -/
def indexed : Mover := { copier 0x2000000100000020 with g := [(8, 0x1000), (9, 0x2000), (10, 0x2000000100000020), (11, 4), (12, 0x40), (13, 0x200)] }
theorem witness_gather : let m := mHere indexed; let ds := indexed.desc 8
    MovesOn (moving indexed) m ∧ HandleOpen m.e 7 ∧ Sectored ds.src.toNat ∧ Sectored ds.dst.toNat ∧ Sectored ds.x5.toNat ∧ Sectored ds.rowBytes ∧
      ds.rowBytes ≠ 0 ∧ ds.x4.toNat % 4 = 0 ∧ ds.ctl.extractLsb' 48 13 = 0 ∧ ds.ctl.extractLsb' 16 16 = 0 ∧ ([0] : List Nat).length = ds.rows ∧
      m.e.mover.list = [] ∧ (moving indexed).picks = [] ∧
      (∀ i < ds.rows, (moving indexed).indexWord m ds.ipad (ds.x4 + BitVec.ofNat 64 (4 * i)) = .ok (BitVec.ofNat 32 (([0] : List Nat).getD i 0), moving indexed)) :=
  ⟨⟨rfl, rfl, rfl⟩, ⟨Or.inl rfl, rfl⟩, by unfold Sectored; decide +kernel, by unfold Sectored; decide +kernel, by unfold Sectored; decide +kernel,
   by unfold Sectored; decide +kernel, by decide +kernel, by decide +kernel, by decide +kernel, by decide +kernel, by decide +kernel, rfl, rfl, by decide +kernel⟩
/-- One of three rows, whose first choice is to read one index more. -/
def indexed3 : Mover := { indexed with g := [(8, 0x1000), (9, 0x2000), (10, 0x2000000300000020), (11, 4), (12, 0x40), (13, 0x200)] }
theorem witness_gatherPart : let m := mHere indexed3; let s := { moving indexed3 with picks := [1, 5] }
    MovesOn s m ∧ m.e.mover.list = [] ∧ s.picks = (0 + 1) :: [5] ∧ 0 + 1 < (indexed3.desc 8).rows ∧
      { s with picks := [5] }.indexWord m (indexed3.desc 8).ipad ((indexed3.desc 8).x4 + BitVec.ofNat 64 (4 * 0)) = .ok (0, { s with picks := [5] }) :=
  ⟨⟨rfl, rfl, rfl⟩, rfl, rfl, by decide +kernel, by decide +kernel⟩
theorem witness_mailbox : (mHere mover0).e.mailbox = 7 :: [] ∧ (mHere mover0).e.copies = [] := ⟨rfl, rfl⟩
theorem witness_hset : (mover0.reg 2).toNat < 2 ^ 32 ∧ ((mHere mover0).e.handle 7).state = .free ∧
    ((mHere mover0).e.handle 7).faulted = false ∧ ((mHere mover0).e.handle 7).cred ≤ (mover0.reg 2).toNat := by decide +kernel
theorem witness_hexp : let e := { engine0 with handles := [(7, { state := .filling, exp := 2, cred := 0, faulted := false })] }
    (e.handle 7).state = .filling ∧ (e.handle 7).exp + (mover0.reg 2).toNat < 2 ^ 32 := by decide +kernel
def copy0 : Copy :=
  { id := 30, handle := 7, pc := 0x200, ahead := false, ordered := false
    sectors := [{ idx := 0, src := 0x1000, dst := 0x1040, spad := false, dpad := false, data := none }] }
def copying : Engine := { engine0 with copies := [copy0], mailbox := [] }
theorem witness_moverWaits : copying.copies ≠ [] ∧ copying.mailbox = [] ∧
    MovesOn { sE copying with cur := .mover 1 } { c := 1, crew := crew0 (some copying), e := copying } := ⟨by decide +kernel, rfl, ⟨rfl, rfl, rfl⟩⟩
/-! Witnesses: nodes, queues, broods and chains. -/

def node0 (kind : Nat) : Node :=
  { ent := { entry := 0x100, kind := kind, home := 0, prio := 0, recsz := 0, width := 32, alloc := 64, coalesce := 8, handler := none, timer := 5
             count := 2, arg := 0 }
    counter := 2, spent := false, abandoned := false, batches := [] }
def launchN : Launch := { launch0 with nodes := [(1, node0 1), (2, node0 2)] }
def sN : State := { sM with launches := [(1, launchN)] }
def nodePath (ref : DWord) : Path := withCtx { ctx0 with scal := [(1, ref), (2, 0x1000)] }
def atRef (ref : DWord) : State := { sN with paths := [(1, nodePath ref)] }
def hRef (ref : DWord) : Here := hereOf knot0 (nodePath ref)
theorem witness_emit : Admits (atRef 1) 1 (hRef 1) .plain ∧ (hRef 1).p.ctx.scalState 1 = .full ∧ (7 : Guard) ≠ 15 ∧
    (hRef 1).p.ctx.stateOf (guardName 7) = .full ∧ (atRef 1).nodeRef (hRef 1) 1 1 = some (1, node0 1) ∧
    (1 : Nat) + 4 * 2 ^ (node0 1).ent.recsz ≤ 32 ∧ 32 < 29 + 4 * 2 ^ (node0 1).ent.recsz ∧
    (∀ r ∈ groupNames (hRef 1) 1 4, (hRef 1).p.ctx.stateOf r = .full) :=
  ⟨⟨rfl, rfl, rfl, .inr rfl⟩, rfl, by decide +kernel, rfl, by decide +kernel, by decide +kernel, by decide +kernel, by decide +kernel⟩
theorem witness_depdec : (atRef 2).nodeRef (hRef 2) 2 2 = some (2, node0 2) ∧ spFind (hRef 2).k.launch (atRef 2).launches = some launchN ∧
    EntryTakes (hRef 2).p.ctx 0 0 newEntry ∧ (atRef 3).nodeRef (hRef 3) 3 1 = none ∧ (atRef 3).nodeRef (hRef 3) 3 2 = none :=
  ⟨by decide +kernel, by decide +kernel, Or.inr ⟨by decide +kernel, ⟨.free, by decide +kernel⟩, by decide +kernel⟩, by decide +kernel, by decide +kernel⟩

/-- A queue of 16-byte entries with a ring of 4 at 0x1000. -/
def tgt0 : Target := { pa := 0x1000, key := key0 }
def sFresh : State := sM.writeMem key0 0x1000 (bytesOfNat 0x8000 8 ++ bytesOfNat 16 4 ++ [4, 0, 0, 0])
theorem witness_opens : sFresh.queueFresh key0 0x1000 = true ∧ sFresh.mem.wf = true ∧ (0x1000 : Nat) + 64 ≤ zoneBase := by decide +kernel
/-- In use: device state that is not zero; a ring of 4 slots. -/
def inUse (q : QueueSt) : State :=
  { sFresh.writeMem key0 0x1010 [1] with flow := { FlowSt.reset with queues := [(0x1000, q)] } }
def ringQ (n b : Nat) : QueueSt :=
  { ring := (List.range n).map fun i => { stamp := 1, slot := i, pa := zoneAddr 0 (0x1000 + 16 * i), key := some 0 }
    back := (List.range b).map fun i => { stamp := 1, slot := i, pa := 0x8000 + 16 * i, key := some 0 }
    ringNext := n, backNext := b, area := some 0x1000 }
def sQ : State := inUse (ringQ 0 0)
theorem queueIs (n b : Nat) (h : (∀ e ∈ (ringQ n b).ring ++ (ringQ n b).back, (inUse (ringQ n b)).cancelledBrood e.stamp = false) ∧
    (inUse (ringQ n b)).queue key0 0x1000 = ringQ n b) : QueueIs (inUse (ringQ n b)) key0 0x1000 (ringQ n b) :=
  ⟨rfl, h.2, h.1, (by intro l _; rfl), ⟨rfl, by decide +kernel⟩, rfl⟩
theorem witness_qpush : Admits sQ 1 h0 .plain ∧ h0.p.ctx.stateOf (guardName 7) = .full ∧ h0.p.ctx.scalState 2 = .full ∧
    queueSize (h0.p.ctx.scalVal 2) = some 16 ∧ (∀ r ∈ groupNames h0 1 4, h0.p.ctx.stateOf r = .full) ∧
    Reaches sQ h0 (h0.p.ctx.scalVal 2 &&& ~~~(3#64)) tgt0 ∧ Fenced h0 ∧ h0.p.ctx.predState 1 ≠ .empty ∧ pushedEntries h0 7 1 16 ≠ [] :=
  ⟨⟨rfl, rfl, rfl, .inr rfl⟩, rfl, rfl, by decide +kernel, by decide +kernel,
   ⟨⟨⟨by decide +kernel, by decide +kernel⟩, by decide +kernel, by decide +kernel, by decide +kernel, by decide +kernel⟩, by decide +kernel⟩, by unfold Fenced; decide +kernel, by decide +kernel, by decide +kernel⟩
/-- Room in the ring for three entries; a full ring and a free slot behind it, for one; both full. -/
theorem witness_qpushRoom : 16 * 2 ^ (sQ.queueDesc key0 0x1000).size = 16 ∧ sQ.mem.wf = true ∧ sQ.cancelledBrood h0.p.ctx.stamp = false ∧
    QueueIs sQ key0 0x1000 (ringQ 0 0) ∧ (∀ x ∈ pushedEntries h0 7 1 16, natOfBytes (x.bytes.take 4) ≠ 0) ∧ (ringQ 0 0).back = [] ∧
    (ringQ 0 0).ring.length + (pushedEntries h0 7 1 16).length ≤ (ringQ 0 0).ringCap (sQ.queueDesc key0 0x1000) :=
  ⟨by decide +kernel, by decide +kernel, by decide +kernel, queueIs 0 0 (by decide +kernel), by decide +kernel, rfl, by decide +kernel⟩
theorem witness_qpushBehind : let s := inUse (ringQ 4 1); let d := s.queueDesc key0 0x1000
    QueueIs s key0 0x1000 (ringQ 4 1) ∧ (ringQ 4 1).ringCap d ≤ (ringQ 4 1).ring.length ∧ (ringQ 4 1).back.length < d.cap ∧
      (pushedEntries h0 1 1 16).length = 1 ∧
      (∀ i < d.cap, Walks s h0 [d.back + BitVec.ofNat 64 (i * 16)]) ∧
      (∀ i < d.cap, s.translateLane h0 16 readWrite (d.back + BitVec.ofNat 64 (i * 16)) = .ok { pa := 0x8000 + 16 * i, key := key0 }) ∧
      ∀ i < d.cap, homeOf (0x8000 + 16 * i) = 0 ∧ (0x8000 + 16 * i) % 16 = 0 ∧ 0x1000 + 64 ≤ 0x8000 + 16 * i ∧ s.mem.lines = [] :=
  ⟨queueIs 4 1 (by decide +kernel), by decide +kernel, by decide +kernel, by decide +kernel,
   (by intro i hi; exact ⟨by revert i; decide +kernel, by revert i; decide +kernel⟩), by decide +kernel,
   by decide +kernel⟩
theorem witness_qpushFull : let s := inUse (ringQ 4 16)
    QueueIs s key0 0x1000 (ringQ 4 16) ∧ (ringQ 4 16).ringCap (s.queueDesc key0 0x1000) ≤ (ringQ 4 16).ring.length ∧
      (s.queueDesc key0 0x1000).cap ≤ (ringQ 4 16).back.length := ⟨queueIs 4 16 (by decide +kernel), by decide +kernel, by decide +kernel⟩
theorem witness_qpushErr : let h := hereOf { knot0 with vregs := [] } path0
    (∃ x ∈ pushedEntries h 7 1 16, natOfBytes (x.bytes.take 4) = 0) ∧ (∀ r ∈ groupNames h 1 4, h.p.ctx.stateOf r = .full) := by decide +kernel
/-- A pop of the head, from the backing region's first into a full ring, from an empty queue, past an entry of a cancelled brood. -/
theorem entryIs (s : State) (e : QSlot) (hl : s.mem.lines = []) (hp : s.mem.poison = []) (h : e.pa % 16 = 0 ∧ 0x1000 + 64 ≤ e.pa) : EntryIs s 0x1000 16 e :=
  ⟨by intro l _; simp [hl, spFind], ⟨h.1, .inr h.2⟩, by simp [MemSt.poisoned, hp]⟩
theorem witness_pop : ∀ x ∈ [(2, 0), (4, 2), (0, 0)], let s := inUse (ringQ x.1 x.2)
    s.mem.wf = true ∧ 16 * 2 ^ (s.queueDesc key0 0x1000).size = 16 ∧ QueueIs s key0 0x1000 (ringQ x.1 x.2) ∧
      (∀ e ∈ (ringQ x.1 x.2).ring ++ (ringQ x.1 x.2).back, EntryIs s 0x1000 16 e) ∧
      (x.2 ≠ 0 → (ringQ x.1 x.2).ring.length = (ringQ x.1 x.2).ringCap (s.queueDesc key0 0x1000)) := by
  intro x hx
  simp only [List.mem_cons, List.not_mem_nil, or_false] at hx
  rcases hx with rfl | rfl | rfl
  all_goals exact ⟨by decide +kernel, by decide +kernel, queueIs _ _ (by decide +kernel), fun e he => entryIs _ e rfl rfl (by revert e he; decide +kernel), by decide +kernel⟩
theorem witness_popCancelled : let s := { inUse (ringQ 2 0) with flow := { FlowSt.reset with
      queues := [(0x1000, { ringQ 2 0 with ring := { stamp := 3, slot := 3, pa := zoneAddr 0 0x1030, key := some 0 } :: (ringQ 2 0).ring })]
      broods := [(3, { parent := some 1, depth := 1, root := 1, cancelled := true })] } }
    s.queueFresh key0 0x1000 = false ∧ (s.queue key0 0x1000).back = [] ∧
      (s.queue key0 0x1000).ring.filter (fun e => !s.cancelledBrood e.stamp) = (ringQ 2 0).ring ∧ (ringQ 2 0).ring ≠ [] := by decide +kernel

/-- QPOP and CHAPP at their home; CHAPP reads the chain of page 0. -/
theorem witness_qpop : ∃ c, descriptorClaim h0 (.qpop 7 5 2 false) = some c ∧
    PointGoes sM h0 c [laneAt 0 0x1000 [], laneAt 1 0x1000 [], laneAt 2 0x1000 []] ∧ h0.p.home ≠ Config.hostHome :=
  ⟨_, rfl, ⟨⟨⟨rfl, rfl, rfl, .inr rfl⟩, by decide +kernel, by decide +kernel⟩, by decide +kernel, ⟨by decide +kernel, by decide +kernel⟩, by decide +kernel, by decide +kernel,
    by decide +kernel, (by intro hc; cases hc), (by intro w hw; cases hw), by decide +kernel, by decide +kernel⟩, by decide +kernel⟩
theorem witness_chapp : let h := hereOf knot0 (withCtx { ctx0 with scal := [] })
    ∃ c, descriptorClaim h (.chapp 1 5 2 3 false false) = some c ∧ PointGoes (mapped (alone knot0 h.p)) h c [laneAt 0 0 [3, 0, 0, 0]] :=
  ⟨_, rfl, ⟨⟨⟨rfl, rfl, rfl, .inr rfl⟩, by decide +kernel, by decide +kernel⟩, by decide +kernel, ⟨by decide +kernel, by decide +kernel⟩, by decide +kernel, by decide +kernel,
    by decide +kernel, (by intro hc; cases hc), (by intro w hw; cases hw), by decide +kernel, by decide +kernel⟩⟩

/-- Broods: 1 is the root, 2 its child, 3 a cancelled child; a cancellation of no hop, and one of a hop in flight. -/
def brood0 (p : Option Nat) (d : Nat) (c : Bool) : Brood := { parent := p, depth := d, root := 1, cancelled := c }
def sBr : State :=
  { s0 with flow := { FlowSt.reset with broods := [(1, brood0 none 0 false), (2, brood0 (some 1) 1 false), (3, brood0 (some 1) 1 true)] } }
theorem witness_bfork : sBr.brood? h0.p.ctx.stamp = some (brood0 none 0 false) ∧ h0.p.ctx.scalState 5 ≠ .empty ∧
    sBr.inSubtree h0.k.brood 2 = true ∧ sBr.cancelledBrood 2 = false ∧ sBr.inSubtree h0.k.brood 9 = false ∧
    sBr.inSubtree h0.k.brood 3 = true ∧ sBr.cancelledBrood 3 = true := by decide +kernel
def cancelling (hops : List Nat) : State :=
  { alone knot0 { path0 with pend := .cancel 8 } with flow := { FlowSt.reset with cancels := [{ id := 8, root := 2, hops := hops }] } }
theorem witness_bcancel : (cancelling []).flow.cancels.find? (fun c => c.id == 8) = some { id := 8, root := 2, hops := [] } ∧
    (∀ u ∈ ([] : List Nat), ∀ q, (cancelling []).path? u = some q → ∀ x, q.place ≠ .flying x) ∧
    (∀ x ∈ (cancelling []).paths, (cancelling []).path? x.1 = some x.2) ∧ sBr.flow.cancels.length < 64 :=
  ⟨by decide +kernel, (by intro u hu; cases hu), by decide +kernel, by decide +kernel⟩
theorem witness_bcancelWaits : let s := { cancelling [4] with paths := [(1, { path0 with pend := .cancel 8 }), (4, { sibling with place := .flying 3 })] }
    s.path? 4 = some { sibling with place := .flying 3 } := by decide +kernel

theorem witness_bcancelBegins : (∀ id, path0.pend ≠ .cancel id) ∧ sBr.inSubtree knot0.brood 2 = true ∧ sBr.flow.cancels.length < 64 ∧
    64 ≤ { sBr with flow := { sBr.flow with cancels := List.replicate 64 { id := 8, root := 2, hops := [] } } }.flow.cancels.length :=
  ⟨(by intro id h; cases h), by decide +kernel, by decide +kernel, by decide +kernel⟩
/-- Brood 2 and what is in it: a knot of its own, a batch, an entry of a queue, a chain. -/
def peopled : State :=
  { sBr with knots := [(1, knot0), (2, { knot0 with knotId := 1, brood := 2 })]
             flow := { sBr.flow with queues := [(0x1000, { ringQ 0 0 with ring := [{ stamp := 2, slot := 0, pa := 0, key := none }] })]
                                     chains := [{ page := 0, key := none, brood := 2 }] } }
theorem witness_cancelTree : spRising none peopled.flow.broods = true ∧ spRising none peopled.knots = true ∧
    peopled.inSubtree 2 2 = true ∧ peopled.flyingOf 2 = [] ∧ peopled.inSubtree 2 knot0.brood = false ∧ (∀ c ∈ peopled.crews, 1 ∉ c.2.members) ∧
    ∀ b x, spFind b peopled.flow.broods = some x → b < 2 ^ 64 := by
  refine ⟨by decide +kernel, by decide +kernel, by decide +kernel, by decide +kernel, by decide +kernel, by decide +kernel, ?_⟩
  intro b x hb
  by_contra hc
  have h1 : ¬(1 = b) := by omega
  have h2 : ¬(2 = b) := by omega
  have h3 : ¬(3 = b) := by omega
  simp [peopled, sBr, spFind, h1, h2, h3] at hb

/-- Chains: CHFORK of nothing with a page in the pool, at once, and put off by the turn or by a post that is outstanding; at a halted stack; a
valid chain at page 0; a reference that is not aligned. -/
def sCh : State := { sM.writeMem key0 0 (ChainDesc.bytes { len := 0, pages := 0, valid := true, brood := 1 }) with
  stks := [(0, { StackSt.reset with pool := [0x30000] })], flow := { FlowSt.reset with chains := [{ page := 0, key := key0, brood := 1 }] } }
def sChLate : State := { sCh with late := true }
theorem witness_chain : Admits sCh 1 h0 { defer := true } ∧ h0.p.ctx.scalState 3 = .full ∧ h0.p.ctx.scalVal 3 = 0 ∧ h0.p.ctx.scalState 5 ≠ .empty ∧
    (sCh.stk 0).pool = 0x30000 :: [] ∧ (sM.stk 0).pool = [] ∧ (h0.p.ctx.scalVal 2).toNat % 65536 ≠ 0 ∧ sCh.walkStalled (sCh.forkReads h0) = false ∧
    sCh.mem.lines = [] ∧ homeOf (stackBase h0.p.home) = h0.p.home ∧ AtOnce sCh h0 0 ∧ ¬AtOnce sChLate h0 0 ∧
    Placed sCh h0 (h0.p.ctx.scalVal 3) { pa := 0, key := key0 } ∧ (sCh.chain key0 0).valid = true :=
  ⟨⟨rfl, rfl, rfl, .inl rfl⟩, rfl, rfl, by decide +kernel, by decide +kernel, by decide +kernel, by decide +kernel, by decide +kernel, by decide +kernel,
   by decide +kernel, ⟨rfl, by decide +kernel, by decide +kernel⟩, (fun h => absurd h.1 (by decide)),
   ⟨⟨by decide +kernel, by decide +kernel⟩, by decide +kernel, by decide +kernel, by decide +kernel, by decide +kernel⟩, by decide +kernel⟩
/-- A valid chain at the first page of stack 3, which a path names through page 1 of its address space: a copy of it can be made, or not. -/
def chainPath : Path := withCtx { ctx0 with scal := [(3, 0x10000)] }
def sFar (pool : List Nat) : State :=
  { mapped (alone knot0 chainPath) with
    mem := ((mapped (alone knot0 chainPath)).writeMem key0 pa1 (ChainDesc.bytes { len := 0, pages := 0, valid := true, brood := 1 })).mem
    stks := [(3, { StackSt.reset with pool := pool })] }
theorem witness_chainFar : ∀ pool ∈ [[], [pa1 + 0x30000]], let s := sFar pool; let h := hereOf knot0 chainPath; let y : Target := { pa := pa1, key := key0 }
    Placed s h (h.p.ctx.scalVal 3) y ∧ (s.chain y.key y.pa).valid = true ∧ AtOnce s h 3 ∧ s.mem.lines = [] ∧ h.p.ctx.scalVal 3 ≠ 0 ∧
      (s.perform h { op := .fork 0x10000, dest := .scal 5, group := h.p.groupPc, lanes := [chainLane h 0x10000 y] }).isSome = !pool.isEmpty := by
  intro pool hp
  simp only [List.mem_cons, List.not_mem_nil, or_false] at hp
  rcases hp with rfl | rfl
  all_goals exact ⟨⟨⟨by decide +kernel, by decide +kernel⟩, by decide +kernel, by decide +kernel, by decide +kernel, by decide +kernel⟩, by decide +kernel,
    ⟨rfl, by decide +kernel, by decide +kernel⟩, by decide +kernel, by decide +kernel, by decide +kernel⟩
/-- CHFORK of nothing where the table entry of the pool's page lies at a halted stack. -/
theorem witness_chainStalled : let s := { mapped s0 with mem := MemSt.reset, stks := [(0, { StackSt.reset with halted := true, pool := [0x30000] })] }
    s.walkStalled (s.forkReads h0) = true := by decide +kernel

/-- Chains at page 0: of `n` pages, the last at 0x50000, and `len` bytes, with counts `rc`, and a pool. -/
def pageC : Nat := 0
def descOf (len n : Nat) : ChainDesc := { len := len, pages := n, valid := true, brood := 1 }
def chained (len n rc : Nat) (pool : List Nat) : State :=
  let s := (sM.writeMem key0 pageC (descOf len n).bytes).writeMem key0 (pageC + 64) ((List.replicate n 0x50000).flatMap fun p => bytesOfNat p 8)
  { s with mem := { s.mem with refs := [(0x50000, rc)] }, stks := [(0, { StackSt.reset with pool := pool })] }
def lenLane (n : Nat) : LaneAcc := laneAt 0 pageC (bytesOfNat n 4)
theorem chainIs (len n rc : Nat) (pool : List Nat) (h : (chained len n rc pool).chain key0 pageC = descOf len n ∧ n ≤ 8184 ∧ len < 2 ^ 64 ∧
    (chained len n rc pool).mem.wf = true ∧ (chained len n rc pool).mem.poisoned pageC (64 + 8 * (descOf len n).pages) = false ∧
    (chained len n rc pool).mem.lines = []) :
    ChainIs (chained len n rc pool) key0 pageC (descOf len n) :=
  ⟨h.1, rfl, ⟨h.2.1, h.2.2.1⟩, ⟨rfl, by decide +kernel⟩, h.2.2.2.2.2, h.2.2.2.2.1, h.2.2.2.1⟩
/-- An append within the last page; one that takes a page of the pool; one within a shared last page; ones that fail. -/
theorem witness_append : let s := chained 20 1 1 [0x60000]; let d := descOf 20 1
    ChainIs s key0 pageC d ∧ AppendFits s key0 pageC d [lenLane 5, lenLane 16] :=
  ⟨chainIs 20 1 1 _ (by decide +kernel), by unfold AppendFits; decide +kernel⟩
theorem witness_appendPage : let s := chained 0 0 0 [0x60000]; let d := descOf 0 0; let n := natOfBytes (lenLane 5).data; let st := appendStart d.len n
    ChainIs s key0 pageC d ∧ 0 < n ∧ n ≤ 65536 ∧ st + n < 2 ^ 64 ∧ (s.stk 0).pool = 0x60000 :: [] ∧ 0x60000 < 2 ^ 48 ∧ st = 65536 * d.pages ∧
      d.pages < 8184 := ⟨chainIs 0 0 0 _ (by decide +kernel), by decide +kernel⟩
theorem witness_appendShared : let s := chained 20 1 2 [0x60000]; let d := descOf 20 1; let n := natOfBytes (lenLane 5).data; let st := appendStart d.len n
    ChainIs s key0 pageC d ∧ 0 < n ∧ n ≤ 65536 ∧ st + n < 2 ^ 64 ∧ (s.stk 0).pool = 0x60000 :: [] ∧ 0x60000 < 2 ^ 48 ∧
      (s.chainPages key0 pageC d).getLast? = some 0x50000 ∧ st / 65536 + 1 = d.pages ∧ st % 65536 ≠ 0 ∧ 1 < s.refs 0x50000 ∧
      0x50000 + 65536 ≤ zoneBase ∧ 0x60000 % 65536 = 0 ∧ 0x60000 + 65536 ≤ zoneBase ∧ 0x60000 ≠ pageC :=
  ⟨chainIs 20 1 2 _ (by decide +kernel), by decide +kernel⟩
theorem witness_appendFails : let s := chained 0 0 0 []; let d := descOf 0 0
    ChainIs s key0 pageC d ∧ 0 < natOfBytes (lenLane 5).data ∧ appendStart d.len 5 = 65536 * d.pages ∧ (s.stk 0).pool = [] ∧
      65536 < natOfBytes (lenLane 65537).data := ⟨chainIs 0 0 0 _ (by decide +kernel), by decide +kernel⟩
/-- CHFORK and CHREL of a chain whose page has a count of one. -/
theorem witness_forked : let s := chained 20 1 1 [0x60000]; let d := descOf 20 1
    ChainIs s key0 pageC d ∧ (s.chainPages key0 pageC d).Nodup ∧ (s.stk 0).pool = 0x60000 :: [] ∧ 0x60000 % 65536 = 0 ∧ 0x60000 + 65536 ≤ zoneBase ∧
      0x60000 ≠ pageC ∧ ∀ q ∈ s.chainPages key0 pageC d, s.refs q < 65535 := ⟨chainIs 20 1 1 _ (by decide +kernel), by decide +kernel⟩
/-- CHAPP of a chain at the current stack that fits, and of one that has no page and no pool. -/
theorem witness_chappFits : ∀ x ∈ [(20, 1), (0, 0)], let h := hereOf knot0 (withCtx { ctx0 with scal := [] })
    let s := { chained x.1 x.2 x.2 [] with paths := [(1, h.p)] }
    ∃ c l, descriptorClaim h (.chapp 1 5 2 2 false false) = some c ∧ c.op = .append none ∧ PointGoes s h c [l] ∧ h.p.unperformed = [] ∧
      l.pa = pageC ∧ ((chained x.1 x.2 x.2 []).chainAppend 0 [l]).isSome = decide (x.2 = 1) := by
  intro x hx
  simp only [List.mem_cons, List.not_mem_nil, or_false] at hx
  rcases hx with rfl | rfl
  all_goals exact ⟨_, laneAt 0 0 [3, 0, 0, 0], rfl, rfl, ⟨⟨⟨rfl, rfl, rfl, .inr rfl⟩, by decide +kernel, by decide +kernel⟩, by decide +kernel,
    ⟨by decide +kernel, by decide +kernel⟩, by decide +kernel, by decide +kernel, by decide +kernel, (by intro hc; cases hc), (by intro w hw; cases hw), by decide +kernel,
    by decide +kernel⟩, rfl, rfl, by decide +kernel⟩

/-! Witnesses: special registers and traps. -/

def super0 : Path := { path0 with super := true }
def hS : Here := hereOf knot0 super0
def sS : State := mapped (alone knot0 super0)
theorem witness_swr : Admits sS 1 hS { priv := Special.privileged .ptbase } ∧ hS.p.ctx.scalState 2 = .full ∧
    (regsWritten hS.k.regs .ptbase (hS.p.ctx.scalVal 2)).isSome = true ∧ sS.siblings 1 1 = [] ∧
    Admits s0 1 h0 { priv := Special.privileged .mode } ∧ Special.writable .mode = true ∧ Special.writable .grant = false :=
  ⟨⟨rfl, rfl, rfl, .inr rfl⟩, rfl, by decide +kernel, by decide +kernel, ⟨rfl, rfl, rfl, .inr rfl⟩, rfl, rfl⟩
/-- SRD of HREADY by a knot of a crew without engines, and of one with them; eight entries of a post table. -/
theorem witness_specialReads : hE.k.crew = some (1, 0) ∧ spFind 1 (onCrew path0 none).crews = some (crew0 none) ∧ (crew0 none).engine = none ∧
    spFind 1 (sE engine0).crews = some (crew0 (some engine0)) ∧ (engine0.handle 5).state = .full ∧ (posting openEntry).ctx.posts.length = 8 := by
  decide +kernel
theorem witness_service : Admits sS 1 hS { priv := true } ∧ Special.writable .service = true ∧ Special.writable .parkmax = true ∧
    Special.privileged .service = true ∧ Special.privileged .parkmax = true ∧ (hS.p.ctx.scalState 2 = .full) := ⟨⟨rfl, rfl, rfl, .inr rfl⟩, rfl, rfl, rfl, rfl, rfl⟩
def twoPaths : State := { sS with paths := [(1, super0), (2, sibling)] }
theorem witness_swrDiverged : Admits twoPaths 1 hS { priv := true } ∧ twoPaths.siblings hS.p.knot hS.u ≠ [] := ⟨⟨rfl, rfl, rfl, .inr rfl⟩, by decide +kernel⟩
theorem witness_laneid : Meets s0 h0 { reads := [], vecs := [(1, fun l => BitVec.ofNat 32 l)] } :=
  ⟨⟨rfl, rfl, rfl, .inr rfl⟩, by decide +kernel, by decide +kernel, by decide +kernel⟩
theorem witness_halt : Admits sS 1 hS { priv := true } ∧ hS.k.crew = none := ⟨⟨rfl, rfl, rfl, .inr rfl⟩, rfl⟩
theorem witness_priv : s0.cur = .path h0.u ∧ s0.here h0.u = some h0 ∧ h0.p.super = false ∧ hintsMisused .plain h0.p.hints = false ∧
    Special.privileged .ptbase = true := ⟨rfl, rfl, rfl, rfl, rfl⟩

/-- Supervisor entry of a lone path; the halting and the supervisor path. -/
theorem witness_entry : EntersAlone s0 h0 { code := .trap, num := 3, addr := 9 } 0 :=
  ⟨by decide +kernel, .inl rfl, rfl, by decide +kernel, by decide +kernel, rfl, ⟨_, rfl⟩, by decide +kernel⟩
/-- TRAP 3 of s1 = 9 is the trap above; BKPT 3; the trap of a handler task's own code, which runs at supervisor level. -/
theorem witness_bkpt : EntersAlone s0 h0 { code := .bkpt, num := (3#5 : BitVec 5).toNat } 0 ∧ h0.p.ctx.scalState 1 = .full ∧ h0.p.ctx.scalVal 1 = 9 ∧
    (3#5 : BitVec 5).toNat = 3 :=
  ⟨⟨by decide +kernel, .inl rfl, rfl, by decide +kernel, by decide +kernel, rfl, ⟨_, rfl⟩, by decide +kernel⟩, rfl, rfl, rfl⟩
def handlerK : Knot := { knot0 with handling := some 4 }
theorem witness_handlerEntry : EntersAlone (alone handlerK super0) (hereOf handlerK super0) { code := .bkpt, num := 3 } 0 :=
  ⟨by decide +kernel, .inr ⟨by decide +kernel, rfl⟩, rfl, by decide +kernel, by decide +kernel, rfl, ⟨_, rfl⟩, by decide +kernel⟩
theorem witness_halting : let p := { path0 with halt := .halting 2 }
    (alone knot0 p).here 1 = some (hereOf knot0 p) ∧ p.super = false ∧ p.halt = .halting 2 := by decide +kernel
/-- A halted path raises a trap while it waits for nothing at its home. -/
theorem witness_haltedHolds : let p := { path0 with halt := .halted 2 }
    (alone knot0 p).here 1 = some (hereOf knot0 p) ∧ p.super = false ∧ p.halt = .halted 2 ∧ p.wait ≠ some .memory := by decide +kernel
theorem witness_double : sS.here 1 = some hS ∧ hS.p.super = true ∧ hS.k.crew = none ∧ spRising none sS.paths = true := by decide +kernel
/-- RFT from a frame at 0x1000 whose ACTION is zero. -/
def sRft : State := sS.writeMem key0 0x1000 (List.replicate 128 0)
theorem witness_rft : Admits sRft 1 hS { priv := true } ∧ hS.p.ctx.scalState 2 = .full ∧ hS.p.ctx.scalState 30 ≠ .empty ∧
    hS.p.ctx.scalState 31 ≠ .empty ∧ hS.p.pend = .none ∧ hS.p.toReplay = [] ∧
    InPlace sRft hS { rd := true, w := false } (hS.p.ctx.scalVal 2).toNat 128 tgt0 ∧
    natOfBytes (sub (sRft.readMem key0 0x1000 128) 81 1) = 0 ∧ ∀ x, hS.p.entry = some x → x.code ≠ .movefault :=
  ⟨⟨rfl, rfl, rfl, .inr rfl⟩, rfl, by decide +kernel, by decide +kernel, rfl, by decide +kernel,
   ⟨⟨by decide +kernel, by decide +kernel⟩, by decide +kernel, by decide +kernel, by decide +kernel, by decide +kernel, by decide +kernel, by decide +kernel,
    by decide +kernel⟩,
   by decide +kernel, by intro x hx; cases hx⟩

/-- The same from a frame in which s30 and s31 are fault-pending, with nothing left to replay. -/
theorem witness_rftPending : let s := sRft.writeMem key0 (0x1000 + 80) [0x0F]
    natOfBytes (sub (s.readMem key0 0x1000 128) 81 1) = 0 ∧ natOfBytes (sub (s.readMem key0 0x1000 128) 80 1) / 4 ^ (30 - 30) % 4 = 3 ∧
      natOfBytes (sub (s.readMem key0 0x1000 128) 80 1) / 4 ^ (31 - 30) % 4 = 3 ∧ hS.p.ctx.scalState 62 = .dead ∧ hS.p.ctx.scalState 63 = .dead := by
  decide +kernel

/-- RFT from a frame at 0x1000 with an ACTION, a count and an area. -/
def frameWith (act m area : Nat) : List Byte :=
  bytesOfNat 0x200 64 ++ bytesOfNat 77 8 ++ bytesOfNat 88 8 ++ [10, BitVec.ofNat 8 act] ++ bytesOfNat m 2 ++ bytesOfNat 0 4 ++ bytesOfNat area 8 ++
    bytesOfNat 0 32
def sAct (k : Knot) (p : Path) (act m area : Nat) : State := (mapped (alone k p)).writeMem key0 0x1000 (frameWith act m area)
/-- A path with v2 fault-pending, whose lanes 0 and 2 are at addresses of their own. -/
def faultAt (b : DWord) : FaultRec :=
  { dest := .vec [2], cause := .page, lane := 1, addr := 0x99
    replay := { op := .load .b32, dest := .vec [2], lanes := [{ lane := 0, va := 0x1100, pa := 0, key := none, data := [] },
      { lane := 2, va := b, pa := 0, key := none, data := [] }], group := 0x100 } }
def pended (b : DWord) : Path := { super0 with ctx := { ctx0 with vst := [(1, .full), (2, .pending), (3, .full)] }, faults := [faultAt b] }
/-- A path of three frames; one whose handler was entered for E_COLLIDE at 0x200. -/
def deep : Path :=
  { super0 with ctx := { ctx0 with frames := [{ ret := 0x200, size := 4, base := 0 }, { ret := 0x240, size := 3, base := 4 }, { ret := 0x250, size := 2, base := 7 }]
                                   base := 9 } }
def judging : Path :=
  { super0 with entry := some { home := 0, off := 0, pc := 0x200, code := .collide, fn := 0x100, pend := .none, sent := 0, held := [] } }
theorem witness_returning : ∀ x ∈ ([(knot0, super0, 128, 0, 0), (knot0, pended 0x1200, 1, 0, 0), (knot0, pended 0x1200, 0, 0, 0), (knot0, pended 0x91200, 0, 0, 0),
    (crewKnot, super0, 2, 0, 0), (crewKnot, super0, 4, 0, 0), (crewKnot, judging, 32, 0, 0), (crewKnot, judging, 64, 0, 0), (knot0, deep, 8, 2, 0x2000),
    (knot0, super0, 16, 0, 0x2000)] : List (Knot × Path × Nat × Nat × Nat)),
    let s := sAct x.1 x.2.1 x.2.2.1 x.2.2.2.1 x.2.2.2.2; let fr := s.readMem key0 0x1000 128
    Returning s (hereOf x.1 x.2.1) 2 tgt0 fr ∧ actionByte fr = x.2.2.1 := by
  intro x hx
  simp only [List.mem_cons, List.not_mem_nil, or_false] at hx
  rcases hx with rfl | rfl | rfl | rfl | rfl | rfl | rfl | rfl | rfl | rfl
  all_goals exact ⟨⟨⟨rfl, rfl, rfl, .inr rfl⟩, rfl, ⟨by decide +kernel, by decide +kernel⟩, rfl,
    ⟨⟨by decide +kernel, by decide +kernel⟩, by decide +kernel, by decide +kernel, by decide +kernel, by decide +kernel, by decide +kernel, by decide +kernel,
      by decide +kernel⟩, rfl⟩, by decide +kernel⟩
theorem witness_rftMisused : RftMisused hS ((sAct knot0 super0 128 0 0).readMem key0 0x1000 128) := .inl (by decide +kernel)
theorem witness_dropPend : let c := (pended 0x1200).ctx
    spRising none c.vst = true ∧ spRising none c.sst = true ∧ spRising none c.pst = true ∧ c.vecState 2 = .pending := by decide +kernel
/-- A movement processor that a fault stopped, and one that no fault stopped. -/
def stoppedMover : Mover :=
  { mover0 with run := .stopped, fault := some { pc := 0x200, cause := .page, handle := 7, sector := 0, addr := 0x1000, stop := 0x20C, atIssue := false } }
theorem witness_moverRestarts : crewKnot.crew = some (1, 0) ∧ super0.toReplay = [] ∧ (crew0 (some { engine0 with mover := stoppedMover })).engine.isSome = true ∧
    stoppedMover.run = .stopped ∧ stoppedMover.fault.isSome = true ∧ mover0.fault = none := by decide +kernel
theorem witness_judged : (judging.entry.map fun x => (x.code, x.pc)) =
      some (.collide, BitVec.ofNat 48 (natOfBytes (sub ((sAct crewKnot judging 32 0 0).readMem key0 0x1000 128) 0 6))) ∧ judging.toReplay = [] ∧
    spRising none colliding.writers = true ∧ spFind 48 colliding.writers ≠ none := by decide +kernel
theorem witness_spill : let s := sAct knot0 deep 8 2 0x2000; let h := hereOf knot0 deep
    s.mem.wf = true ∧ h.p.faults = [] ∧ h.p.hasEmpty = false ∧ natOfBytes (sub (s.readMem key0 0x1000 128) 82 2) = 2 ∧
      natOfBytes (sub (s.readMem key0 0x1000 128) 88 8) = 0x2000 ∧ h.p.ctx.frames[2 - 1]? = some { ret := 0x240, size := 3, base := 4 } ∧
      InPlace s h { rd := false, w := true } 0x2000 (spillLength h 7 2) { pa := 0x2000, key := key0 } ∧ spRising none h.p.ctx.vst = true :=
  ⟨by decide +kernel, rfl, rfl, by decide +kernel, by decide +kernel, rfl, ⟨⟨by decide +kernel, by decide +kernel⟩, by decide +kernel, by decide +kernel,
    by decide +kernel, by decide +kernel, by decide +kernel, by decide +kernel, by decide +kernel⟩, by decide +kernel⟩
/-- A spill area of one frame and `k` registers, which fits for 4 and does not for 40. -/
def filling (k : Nat) : State :=
  (sAct knot0 super0 16 0 0x2000).writeMem key0 0x2000 (bytesOfNat k 4 ++ bytesOfNat 1 4 ++ bytesOfNat 32 8 ++ bytesOfNat 0x240 6 ++ [4, 0] ++ bytesOfNat 0 8)
theorem witness_fillArea : ∀ k ∈ [4, 40], let s := filling k
    Returning s hS 2 tgt0 (s.readMem key0 0x1000 128) ∧ actionByte (s.readMem key0 0x1000 128) = 16 ∧ s.mem.wf = true ∧ hS.p.faults = [] ∧
      hS.p.hasEmpty = false ∧ hS.p.ctx.base = 0 ∧ hS.p.ctx.frames = [] ∧ natOfBytes (sub (s.readMem key0 0x1000 128) 88 8) = 0x2000 ∧
      InPlace s hS { rd := true, w := false } 0x2000 16 { pa := 0x2000, key := key0 } ∧
      natOfBytes (sub (s.readMem key0 0x2000 16) 0 4) = k ∧ natOfBytes (sub (s.readMem key0 0x2000 16) 4 4) = 1 ∧
      natOfBytes (sub (s.readMem key0 0x2000 16) 8 8) = knot0.grant ∧ (k + 32 ≤ knot0.alloc ↔ k = 4) ∧
      InPlace s hS { rd := true, w := false } (0x2000 + 16) (spillLength hS k 1 - 16) { pa := 0x2010, key := key0 } := by
  intro k hk
  simp only [List.mem_cons, List.not_mem_nil, or_false] at hk
  rcases hk with rfl | rfl
  all_goals exact ⟨⟨⟨rfl, rfl, rfl, .inr rfl⟩, rfl, ⟨by decide +kernel, by decide +kernel⟩, rfl,
    ⟨⟨by decide +kernel, by decide +kernel⟩, by decide +kernel, by decide +kernel, by decide +kernel, by decide +kernel, by decide +kernel, by decide +kernel,
      by decide +kernel⟩, rfl⟩, by decide +kernel, by decide +kernel, rfl, rfl, rfl, rfl, by decide +kernel,
    ⟨⟨by decide +kernel, by decide +kernel⟩, by decide +kernel, by decide +kernel, by decide +kernel, by decide +kernel, by decide +kernel, by decide +kernel,
      by decide +kernel⟩, by decide +kernel, by decide +kernel, by decide +kernel, by decide +kernel,
    ⟨⟨by decide +kernel, by decide +kernel⟩, by decide +kernel, by decide +kernel, by decide +kernel, by decide +kernel, by decide +kernel, by decide +kernel,
      by decide +kernel⟩⟩
/-- The replay of v2, whose lanes translate; whose lane 2 does not. -/
theorem witness_replay : ∀ b ∈ [0x1200, 0x91200], let p := pended b; let s := sAct knot0 p 0 0 0; let h := hereOf knot0 p
    let user : Here := { h with p := { h.p with super := false } }
    h.p.faults = [faultAt b] ∧ Walks s h ((faultAt b).replay.lanes.map (·.va)) ∧ ((faultAt b).replay.lanes.map (·.lane)).Nodup ∧
      s.translateLane user 4 { rd := true, w := false } 0x1100 = .ok { pa := 0x1100, key := key0 } ∧
      (b = 0x1200 → s.translateLane user 4 { rd := true, w := false } b = .ok { pa := 0x1200, key := key0 } ∧ 2 < h.k.grant ∧
          homeOf 0x1200 = h.p.home ∧ s.accessClear h (.load .b32) [laneAt 0 0x1100 [], laneAt 2 0x1200 []] = true ∧
          Untouched s 4 [laneAt 0 0x1100 [], laneAt 2 0x1200 []]) ∧
      (b = 0x91200 → s.translateLane user 4 { rd := true, w := false } b = .error .page) := by
  intro b hb
  simp only [List.mem_cons, List.not_mem_nil, or_false] at hb
  rcases hb with rfl | rfl
  · exact ⟨rfl, ⟨by decide +kernel, by decide +kernel⟩, by decide +kernel, by decide +kernel, (fun _ => ⟨by decide +kernel, by decide +kernel,
      by decide +kernel, by decide +kernel, by unfold Untouched; decide +kernel⟩), (fun h => absurd h (by decide))⟩
  · exact ⟨rfl, ⟨by decide +kernel, by decide +kernel⟩, by decide +kernel, by decide +kernel, (fun h => absurd h (by decide)), (fun _ => by decide +kernel)⟩

/-- PFIX.DROP of a FAULTED entry; CTXSV of a knot with a tag and without; CTXLD of a tag that holds a knot, and of one that holds none. -/
def fixer : Path := { posting failedEntry with super := true }
theorem witness_pfix : Admits (alone knot0 fixer) 1 (hereOf knot0 fixer) { priv := true } ∧
    (hereOf knot0 fixer).p.ctx.posts.getD 0 .free = failedEntry ∧ failedEntry.valid = true ∧ failedEntry.faulted = true ∧
    (PostEntry.free.valid && PostEntry.free.faulted) = false ∧ fixer.ctx.scalState 5 ≠ .empty ∧ ∀ n x, fixer.pend ≠ .pfix n x :=
  ⟨⟨rfl, rfl, rfl, .inr rfl⟩, rfl, rfl, rfl, rfl, by decide +kernel, by intro n x hx; cases hx⟩
/-- PFIX of the entry, with one held store that is sent again. -/
def heldRec : Held := { home := 0, area := 0, op := 0, type := 132, cause := 1, addr := 0x1040, lane := 0, seq := 3, data := [1, 2, 3, 4] }
def retrier : Path := { posting { failedEntry with held := [heldRec] } with super := true }
theorem witness_pfixRetry : let s := mapped (alone knot0 retrier); let e := retrier.ctx.posts.getD 0 .free
    e.valid = true ∧ e.faulted = true ∧ e.held = [heldRec] ∧
      (match (((s.modCtx 1 fun c => { c with posts := c.posts.modify 0 fun x => { x with faulted := false, held := [] } }).modFlow
        fun f => { f with held := f.held.filter fun x => !(x.knot == 1 && x.home == e.home && x.stream == e.stream) }).retryAll 1 0 e 0 e.held) with
      | .ok (n, _) => decide (n = 1) | _ => false) = true := by decide +kernel
def tagged : Knot := { knot0 with tag := 9 }
theorem witness_ctxsv : Admits sS 1 hS { priv := true } ∧ hS.p.ctx.scalState 2 = .full ∧ (hS.p.ctx.scalVal 2).toNat % 8 = 0 ∧
    hS.k.tag = 0 ∧ tagged.tag ≠ 0 ∧ InPlace sS hS { rd := false, w := true } (hS.p.ctx.scalVal 2).toNat 8 tgt0 :=
  ⟨⟨rfl, rfl, rfl, .inr rfl⟩, rfl, by decide +kernel, rfl, by decide +kernel,
   ⟨⟨by decide +kernel, by decide +kernel⟩, by decide +kernel, by decide +kernel, by decide +kernel, by decide +kernel, by decide +kernel, by decide +kernel,
    by decide +kernel⟩⟩
theorem witness_ctxld : { sS with knots := [(1, knot0), (2, { tagged with serving := true })] }.heldBy (hS.p.ctx.scalVal 1) = some 2 ∧
    sS.heldBy (hS.p.ctx.scalVal 1) = none ∧ sS.imageAt (hS.p.ctx.scalVal 1) = none ∧ hS.p.ctx.scalState 1 = .full := by decide +kernel

/-- A fresh tag; the image that a handler task has, at the start of the landing zone's window. -/
theorem witness_freeTag : (sS.freeTag).1 ≠ 0 ∧ sS.knots.length < 2 ^ 63 := by decide +kernel
theorem witness_imageAt : let img : Stored := { home := 0, off := 0, len := 4096, age := 0, order := 2, seed := 2, block := 0, flags := 0 }
    let s := { sS with knots := [(1, knot0), (2, knot0)], launches := [(1, launch0)], paths := [(1, super0), (2, { path0 with knot := 2, place := .handled img })] }
    s.heldBy (windowAddr 1 0 0) = none ∧ (s.imageAt (windowAddr 1 0 0)).map (fun x => (x.1, x.2.2)) = some (2, img) := by decide +kernel

/-- Hints: none read; two read; a second of one kind; on a movement processor. -/
theorem witness_hint : s0.cur = .path h0.u ∧ s0.here h0.u = some h0 ∧ h0.p.hints.words < 2 ∧ h0.p.hints.imm.isSome = false ∧
    (hinted (some 5)).hints.imm.isSome = true ∧ mover0.hints.words < 2 ∧ mover0.hints.imm = none := by decide +kernel
/-! Witnesses: events of paths and stacks. -/

/-- A path with a value for v1 and one for s2 on the way; one that halts; one at its watchdog's limit; one at a REGROUP whose window has
run out. -/
def flightV : Flight := { id := 11, dest := .vec [1], fill := .lanes [(1, [(0, 8)])] }
def flightS : Flight := { id := 12, dest := .scal 2, fill := .scal 77 }
def awaiting : Path := { path0 with flights := [flightV, flightS] }
theorem witness_fill : (alone knot0 awaiting).here 1 = some (hereOf knot0 awaiting) ∧
    (awaiting.flights.find? fun x => x.id == 11) = some flightV ∧ (awaiting.flights.find? fun x => x.id == 12) = some flightS := by decide +kernel
def barking : Knot := { knot0 with regs := { regs0 with watchdog := 10 } }
def tired : Path := withCtx { ctx0 with wd := 10 }
theorem witness_watchdog : (alone barking tired).here 1 = some (hereOf barking tired) ∧ tired.place = .resident seat0 ∧
    barking.regs.watchdog ≠ 0 ∧ barking.regs.watchdog.toNat ≤ tired.ctx.wd ∧ tired.super = false ∧ tired.hints.words = 0 ∧ tired.trapHeld = [] ∧
    tired.pend = .none ∧ tired.halt = .running ∧ (alone barking tired).open? 0 = true ∧ (alone barking tired).knotIssues tired = true := by
  decide +kernel
/-- It holds a trap; it is halted; its stack is halted; a hint stands before it. -/
theorem witness_watchdogWaits : ({ tired with trapHeld := [{ code := .trap }] }).trapHeld ≠ [] ∧ ({ tired with halt := .halted 2 }).halt = .halted 2 ∧
    ({ alone barking tired with stks := [(0, { StackSt.reset with halted := true })] }).open? 0 = false ∧ (hinted none).hints.words ≠ 0 ∧
    (alone barking (hinted none)).here 1 = some (hereOf barking (hinted none)) := by decide +kernel
def regrouping : Path := { path0 with pend := .regroup 5 10 3 5 }
theorem witness_window : let s := { alone knot0 regrouping with stks := [(0, { StackSt.reset with cycles := 267 })] }
    s.here 1 = some (hereOf knot0 regrouping) ∧ regrouping.place = .resident seat0 ∧ 10 + 256 < (s.stk 0).cycles := by decide +kernel

/-- A hop to stack 3: it lands; it is discarded; its destination is halted; it parks because an image waits there. -/
def flying : Path := { path0 with place := .flying 3, wait := none }
def sF : State := alone knot0 flying
theorem witness_landing : sF.here 1 = some (hereOf knot0 flying) ∧ flying.place = .flying 3 ∧ sF.cancelledBrood 1 = false ∧
    (sF.stk 3).halted = false ∧ sF.anyParked 3 = false ∧ (sF.mod (3 / 16)).preempt ≠ .stopped ∧ sF.coreFor 3 5 knot0.regBytes = some 5 ∧
    ((sF.modPath 1 fun p => { p with home := 3 }).seatOn 3 5).isSome = true := by decide +kernel
theorem witness_landingDropped : { sF with flow := { FlowSt.reset with broods := [(1, brood0 none 0 true)] } }.cancelledBrood knot0.brood = true := by
  decide +kernel
theorem witness_landingHalted : ({ sF with stks := [(3, { StackSt.reset with halted := true })] }.stk 3).halted = true := by decide +kernel
def stored0 (home age : Nat) : Stored := { home := home, off := 0, len := 4096, age := age, order := 2, seed := 2, block := 0, flags := 0 }
def otherKnot : Knot := { knot0 with knotId := 1, alloc := 96 }
def parkedAt (home age : Nat) : Path := { path0 with knot := 2, home := home, place := .parked (stored0 home age) }
theorem witness_parks : let s := { sF with paths := [(1, flying), (2, parkedAt 3 0)], knots := [(1, knot0), (2, otherKnot)] }
    s.anyParked 3 = true ∧ ((s.modPath 1 fun p => { p with home := 3 }).imageOut 1 false .parked).isSome = true := by decide +kernel

/-- The image of path 2 is the oldest of stack 3, and core 4 takes it; a crew image the same. -/
theorem witness_resume : let s := { sF with paths := [(2, parkedAt 3 0)], knots := [(2, otherKnot)] }
    s.open? 3 = true ∧ s.oldest 3 = some (.path 2 (parkedAt 3 0) (stored0 3 0)) ∧ s.coreTaking 3 4 (.path 2 (parkedAt 3 0) (stored0 3 0)) = some 4 :=
  ⟨by decide +kernel, rfl, by decide +kernel⟩
def storedCrew : Crew := { crew0 none with place := .stored (stored0 0 0) }
def launchS : State := { State.reset with launches := [(1, launch0)], crews := [(1, storedCrew)] }
theorem witness_resumeCrew : launchS.open? 0 = true ∧ launchS.oldest 0 = some (.crew 1 storedCrew (stored0 0 0)) ∧
    launchS.coreTaking 0 4 (.crew 1 storedCrew (stored0 0 0)) = some 4 := ⟨by decide +kernel, rfl, by decide +kernel⟩
/-- An image that has waited for more registers than a core has, a knot blocked at an empty register, a knot on a withdrawn core, and
a crew. -/
def blockedPath : Path :=
  { withCtx { ctx0 with vst := [(1, .empty)] } with wait := some (.register (vecName h0 1)), blockedAt := some 0 }
def largeKnot : Knot := { knot0 with alloc := 1000000 }
def starving : State :=
  { alone knot0 blockedPath with paths := [(1, blockedPath), (2, parkedAt 0 0)], knots := [(1, knot0), (2, largeKnot)]
                                 stks := [(0, { StackSt.reset with cycles := 300000 })] }
theorem witness_resumeNone : starving.open? 0 = true ∧ starving.oldest 0 = some (.path 2 (parkedAt 0 0) (stored0 0 0)) ∧
    starving.coreTaking 0 4 (.path 2 (parkedAt 0 0) (stored0 0 0)) = none := ⟨by decide +kernel, rfl, by decide +kernel⟩
theorem witness_switchOut : starving.open? 0 = true ∧ starving.strandedOn 0 = [] ∧
    ((List.range 32).findSome? (starving.serviceNext 0)).isSome = false ∧ starving.starved 0 65536 = true ∧
    (starving.nextIdle 0).map (fun x => (x.1, x.2.1)) = some (0, 1) ∧ (starving.switchOut 0 0 1).isSome = true := by decide +kernel
/-- The one knot of a core is held for service, and PARKMAX is 50. -/
theorem witness_serviceOut : let s := alone { knot0 with serving := true, tag := 9 } { path0 with place := .held seat0 }
    s.open? 0 = true ∧ s.strandedOn 0 = [] ∧ ((List.range 32).findSome? (s.serviceNext 0)).isSome = true := by decide +kernel
theorem witness_stranded : let s := { s0 with stks := [(0, { StackSt.reset with withdrawn := [0] })] }
    s.open? 0 = true ∧ s.strandedOn 0 = (0, 1) :: [] ∧ (s.switchOut 0 0 1).isSome = true := by decide +kernel
def crewStarving : State :=
  { starving with paths := [(2, parkedAt 0 0)], knots := [(2, largeKnot)], launches := [(1, launch0)]
                  crews := [(1, { crew0 none with members := [], ended := [1] })] }
theorem witness_crewOut : let w := { crew0 none with members := [], ended := [1] }
    crewStarving.open? 0 = true ∧ (∀ x ∈ (crewStarving.stk 0).withdrawn, crewStarving.crewsOn 0 x = []) ∧
      crewStarving.starved 0 262144 = true ∧ crewStarving.nextIdle 0 = none ∧ crewStarving.leavers 0 = (1, w) :: [] ∧
      (∀ e ∈ crewStarving.crewOrder 0, e.2.leaving = false) ∧ w.quiet = true ∧ (crewStarving.storeCrew 1 w).isSome = true := by decide +kernel
/-- The crew's engine has a copy in flight: it is not leaving yet, it is, and its copy is done. -/
def slowCrew (cs : List Copy) (b : Bool) : Crew := { crew0 (some { engine0 with copies := cs }) with members := [], ended := [1], leaving := b }
theorem witness_crewLeaves : ∀ x ∈ [(copying.copies, false), (copying.copies, true), ([], true)], let w := slowCrew x.1 x.2
    let s := { crewStarving with crews := [(1, w)] }
    s.open? 0 = true ∧ s.leavers 0 = [] ++ (1, w) :: [] ∧ w.leaving = x.2 ∧ w.quiet = x.1.isEmpty ∧ (s.storeCrew 1 w).isSome = true := by decide +kernel

/-! Witnesses: engines. -/

def zeroing : Engine := { engine0 with queue := [{ knot := 1, batch := 1, kind := .zero 4 }], accQueue := [(1, 2)], accs := [] }
theorem witness_unit : spFind 1 (sE zeroing).crews = some (crew0 (some zeroing)) ∧ (crew0 (some zeroing)).engine = some zeroing ∧
    zeroing.queue = { knot := 1, batch := 1, kind := .zero 4 } :: [] ∧ (sE zeroing).unitRuns (crew0 (some zeroing)) zeroing = true ∧
    zeroing.accQueue = (1, 2) :: [] ∧ spFind 1 (sE zeroing).knots = some crewKnot ∧
    2 ≤ ((List.range 8).filter fun i => (zeroing.acc i).owner.isNone).length := by decide +kernel

/-- A sector of a copy from 0x1000 to 0x1040, or in the pad from 0x20 to 0x60, to be read or written, for a handle. -/
def sectorOf (pad : Bool) (d : Option (List Byte)) : Sector :=
  { idx := 0, src := if pad then 0x20 else 0x1000, dst := if pad then 0x60 else 0x1040, spad := pad, dpad := pad, data := d }
def copyOf (h : Nat) (ahead : Bool) (x : Sector) : Copy := { copy0 with handle := h, ahead := ahead, sectors := [x] }
def mC (c : Copy) : MHere :=
  let e := { engine0 with copies := [c], handles := engine0.handles ++ [(8, { state := .filling, exp := 1, cred := 0, faulted := false })] }
  { c := 1, crew := crew0 (some e), e := e }
def sC (c : Copy) : State :=
  let s := (sE (mC c).e).writeMem key0 0x1000 (List.replicate 32 5)
  { s with cur := .idle
           mem := { s.mem with tlb := [{ unit := copyUnit 0 0, asid := 0, page := 0, pa := 0, key := 0, heap := false, w := true, rd := true }] } }
/-- Sectors to read, of memory and of the pad. -/
theorem witness_sectorRead : ∀ pad, let x := sectorOf pad none; let c := copyOf 7 false x
    SectorGoes (sC c) (mC c) c x (sC c) ∧ x.data = none ∧
      SourceIs (sC c) (mC c) x (if pad = true then List.replicate 32 0 else List.replicate 32 5) (sC c) := by
  intro pad; cases pad
  · exact ⟨⟨by decide +kernel, by decide +kernel, by decide +kernel, by decide +kernel, by decide +kernel, by decide +kernel, by decide +kernel⟩, rfl,
      .inr ⟨rfl, { pa := 0x1000, key := key0 }, by decide +kernel, by decide +kernel, by decide +kernel, by decide +kernel⟩⟩
  · exact ⟨⟨by decide +kernel, by decide +kernel, by decide +kernel, by decide +kernel, by decide +kernel, by decide +kernel, by decide +kernel⟩, rfl,
      .inl ⟨rfl, by decide +kernel, by decide +kernel, by decide +kernel, by decide +kernel, by decide +kernel⟩⟩
/-- A sector whose source is not mapped. -/
theorem witness_sectorFails : let x := { sectorOf false none with src := 0x90000 }; let c := copyOf 7 false x
    SectorGoes (sC c) (mC c) c x (sC c) ∧ x.data = none ∧ (sC c).sectorRead (mC c) x = .error .page ∧ mover0.run = .running ∧ mover0.pending = none :=
  ⟨⟨by decide +kernel, by decide +kernel, by decide +kernel, by decide +kernel, by decide +kernel, by decide +kernel, by decide +kernel⟩, rfl,
    by decide +kernel, rfl, rfl⟩
/-- Sectors to write: to memory and to the pad, for a free handle, a filling one and a full one; of a copy that reads ahead. -/
theorem witness_sectorWrite : ∀ pad, ∀ h ∈ [5, 7, 8], let x := sectorOf pad (some (List.replicate 32 9)); let c := copyOf h false x
    SectorGoes (sC c) (mC c) c x (sC c) ∧ (sC c).mem.wf = true ∧
      (if h = 5 then ((mC c).e.handle 5).state = .full else (((mC c).e.handle h).state = .free ∨ ((mC c).e.handle h).state = .filling)) ∧
      (pad = false → (sC c).moverTarget (mC c) 32 { rd := false, w := true } x.dst = .ok { pa := 0x1040, key := key0 } ∧
        (∀ line ∈ linesOf 0x1040 32, spFind line (sC c).mem.lines = none)) ∧
      (pad = true → x.dst.toNat + 32 ≤ (mC c).crew.padSize ∧ (mC c).crew.touchesPlane x.dst.toNat 32 = false ∧ cellsWf (mC c).crew.pad = true) := by
  intro pad h hh
  simp only [List.mem_cons, List.not_mem_nil, or_false] at hh
  rcases hh with rfl | rfl | rfl <;> cases pad <;>
    exact ⟨⟨by decide +kernel, by decide +kernel, by decide +kernel, by decide +kernel, by decide +kernel, by decide +kernel, by decide +kernel⟩,
      by decide +kernel, by decide +kernel, by decide +kernel, by decide +kernel⟩
theorem witness_sectorAhead : let x := sectorOf false (some (List.replicate 32 9)); let c := { copyOf 7 true x with sectors := [x, { x with idx := 1, data := none }] }
    SectorGoes (sC c) (mC c) c x (sC c) ∧ c.ahead = true ∧ ∃ y ∈ c.sectors, y.data = none :=
  ⟨⟨by decide +kernel, by decide +kernel, by decide +kernel, by decide +kernel, by decide +kernel, by decide +kernel, by decide +kernel⟩, rfl,
    by decide +kernel⟩

/-- A movement fault that has reached a running movement processor, whose lowest live knot is 1; engines to release. -/
def fault0 : MoveFault := { pc := 0x200, cause := .page, handle := 7, sector := 0, addr := 0x1000, stop := 0, atIssue := false }
theorem witness_moveFault : let m := { mover0 with pending := some fault0 }; let s := moving m
    s.mover? 1 = some (mHere m) ∧ s.moverRuns 1 = true ∧ m.run = .running ∧ m.pending = some fault0 ∧ m.hints.words = 0 ∧ m.list = [] ∧ s.lowestLive 1 = some (0, 1) ∧
      s.path? 1 = some path0 ∧ path0.trapHeld = [] ∧ (s.takeArea 0 { kind := .movement, len := 64, own := some 1 }).isSome = true := by
  decide +kernel
/-- The same where every knot of the crew has ended. -/
theorem witness_moveFaultAlone : let m := { mover0 with pending := some fault0 }
    let w := { crew0 (some { engine0 with mover := m }) with ended := [0] }
    let s := { moving m with launches := [(1, launch0)], crews := [(1, w)] }
    s.mover? 1 = some { c := 1, crew := w, e := { engine0 with mover := m } } ∧ s.moverRuns 1 = true ∧ m.run = .running ∧ m.pending = some fault0 ∧
      w.live = [] ∧ spFind w.launch s.launches = some launch0 := by decide +kernel
theorem witness_release : let e := { engine0 with mover := { mover0 with run := .ended } }; let w := { crew0 (some e) with ended := [1] }
    let s := { State.reset with crews := [(1, w)] }
    spFind 1 s.crews = some w ∧ w.size ≤ w.ended.length ∧ e.copies = [] ∧ spRising none s.crews = true := by decide +kernel

/-! Witnesses: clutches, launches, host and service. -/

def emit0 : Emit := { id := 40, path := 1, launch := 1, node := 1, stamp := 1, words := [1, 2, 3, 4] }
def batch0 : Batch := { brood := 1, opened := 0, records := [[1, 2, 3, 4]] }
def clutch0 : Node := { node0 1 with batches := [batch0] }
theorem witness_record : let s := { sN with flow := { FlowSt.reset with emits := [emit0] } }
    (s.flow.emits.find? fun x => x.id == 40) = some emit0 ∧ spFind 1 s.launches = some launchN ∧ spFind 1 launchN.nodes = some (node0 1) ∧
      (s.stk 0).halted = false ∧ (∀ x ∈ s.flow.emits, x.path = emit0.path → x.launch = emit0.launch → x.node = emit0.node → emit0.id ≤ x.id) ∧
      s.cancelledBrood emit0.stamp = false ∧ launchN.ownEnded = false ∧ (∀ b ∈ (node0 1).batches, b.brood ≠ emit0.stamp) ∧
      1 < (node0 1).ent.coalesce := by decide +kernel
/-- A record that joins the batch of its stamp; that closes it; that comes when the launch's own knots have ended. -/
def clutchN (n : Nat) (b : Bool) : Launch :=
  { launchN with nodes := [(1, { clutch0 with ent := { clutch0.ent with coalesce := n } }), (2, node0 2)], ownEnded := b, cancelled := true }
theorem witness_recordJoins : ∀ x ∈ [(8, false), (2, false), (8, true)], let l := clutchN x.1 x.2
    let s := { sN with launches := [(1, l)], flow := { FlowSt.reset with emits := [emit0] } }
    (s.flow.emits.find? fun x => x.id == 40) = some emit0 ∧ spFind 1 s.launches = some l ∧ (spFind 1 l.nodes).isSome = true ∧
      (s.stk 0).halted = false ∧ s.cancelledBrood emit0.stamp = false ∧ (clutch0.batches.find? fun b => b.brood == emit0.stamp) = some batch0 ∧
      (l.ownEnded = true ∨ x.1 ≤ batch0.records.length + 1 ∨ batch0.records.length + 1 < x.1) := by decide +kernel
theorem witness_flush : let l := clutchN 8 false; let s := { sN with paths := [], knots := [], launches := [(1, l)] }
    spFind 1 s.launches = some l ∧ s.ownDone 1 l = true ∧ l.ownEnded = false ∧ spRising none l.nodes = true := by decide +kernel
theorem witness_timer : let l := { launchN with nodes := [(1, clutch0)] }
    let s := { sN with launches := [(1, l)], stks := [(0, { StackSt.reset with cycles := 5 })] }
    spFind 1 s.launches = some l ∧ spFind 1 l.nodes = some clutch0 ∧ (clutch0.batches.find? fun x => x.brood == batch0.brood) = some batch0 ∧
      clutch0.ent.timer ≠ 0 ∧ batch0.opened + clutch0.ent.timer ≤ (s.stk 0).cycles := by decide +kernel

/-- A queue of priority 2 with a record of zeros at its head, and one with a record that passes: 1 knot of 32 lanes from the kernel at
0x100. -/
def queue0 : QueueReg := { header := 0x4000, base := 0x5000, slots := 1, regs := regs0 }
def recordBytes : List Byte :=
  bytesOfNat 0x100 4 ++ bytesOfNat 0xFFFFFFFF 4 ++ bytesOfNat 1 4 ++ bytesOfNat 32 2 ++ bytesOfNat 64 2 ++ bytesOfNat 0 4 ++ [0, 2, 0, 0] ++ bytesOfNat 0 488
def sL (r : List Byte) : State :=
  let s := { State.reset with modules := [(0, { ModuleSt.reset 0 with queues := [(2, queue0)] })], heap := heap0 }
  (s.writeRaw 0x4000 (bytesOfNat 0x5000 8 ++ bytesOfNat 1 4 ++ bytesOfNat 0 4 ++ bytesOfNat 1 8 ++ bytesOfNat 0 8)).writeRaw 0x5000 r
/-- The record with other fields: a completion word, a node table of `n` entries, a parent brood. -/
def recordWith (compl tab n brood : Nat) : List Byte :=
  recordBytes.take 32 ++ bytesOfNat brood 8 ++ bytesOfNat 0 16 ++ bytesOfNat tab 8 ++ bytesOfNat n 4 ++ bytesOfNat 0 4 ++ bytesOfNat compl 8 ++
    recordBytes.drop 80
theorem witness_take : ∀ r ∈ [List.replicate 512 0, recordBytes], let s := sL r
    s.strap.hasModule 0 = true ∧ (s.mod 0).preempt = .running ∧ (s.mod 0).current = none ∧ (s.pullQueues 0).nextQueue 0 = some (2, queue0) ∧
      r.length = 512 := by decide +kernel
theorem witness_recordRefused : recordOk heap0 2 (List.replicate 512 0) = false := by decide +kernel
/-- The state that `LaunchEvents` reads a record's node table in. -/
def taken (s : State) : State :=
  (((s.pullQueues 0).pull 0x5000 512).writeRaw 0x4018 (bytesOfNat 1 8)).setMod 0 fun x => { x with seq := 1 }
theorem witness_recordTaken : recordOk heap0 2 recordBytes = true ∧ broodField recordBytes = 0 ∧
    ((sL recordBytes).pull 0x5000 512).completeStalled regs0 0 0 = false ∧ ((sL recordBytes).pull 0x5000 512).tableStalled regs0 0 recordBytes = false ∧
    (((taken (sL recordBytes)).tablePull regs0 0 recordBytes).nodesFor regs0 0 recordBytes).isSome = true := by decide +kernel
/-- A cancelled parent; a node table that does not translate; a completion word and a node table at a halted stack. -/
def haltedBy (s : State) : State :=
  { s with stks := [(0, { StackSt.reset with halted := true })] }
theorem witness_recordParent : let r := recordWith 0 0 0 3; let s := { sL r with flow := { FlowSt.reset with broods := [(3, brood0 none 0 true)] } }
    recordOk heap0 2 r = true ∧ broodField r = 3 ∧ (s.brood? 3).any (fun b => decide (b.depth < 255)) = true ∧ s.cancelledBrood 3 = true := by decide +kernel
theorem witness_recordTable : let r := recordWith 0 0x2000 1 0; let s := { sL r with modules := [(0, { ModuleSt.reset 0 with queues := [(2, queue0)] })] }
    recordOk heap0 2 r = true ∧ (s.pull 0x5000 512).tableStalled regs0 0 r = false ∧ ((taken s).tablePull regs0 0 r).nodesFor regs0 0 r = none ∧
      ((haltedBy s).pull 0x5000 512).tableStalled regs0 0 r = true := by decide +kernel
theorem witness_recordStalled : let r := recordWith 0x2000 0 0 0
    ((haltedBy (sL r)).pull 0x5000 512).completeStalled regs0 0 (recordOf r).compl = true := by decide +kernel

/-- Work at the head of stack 0: a batch of one knot, and a crew. -/
def work0 (k : WorkKind) : Work := { launch := 1, prio := 0, any := true, cycle := 0, order := 0, batch := 0, kind := k }
def sW (k : WorkKind) (l : Launch) : State :=
  { State.reset with launches := [(1, l)], stks := [(0, { StackSt.reset with work := [work0 k] })], heap := heap0 }
theorem witness_places : ∀ k ∈ [WorkKind.knots [0], .crew 0], PlacesOn (sW k launch0) 0 (work0 k) [] ∧
    spFind 1 (sW k launch0).launches = some launch0 := by
  intro k hk
  simp only [List.mem_cons, List.not_mem_nil, or_false] at hk
  rcases hk with rfl | rfl
  all_goals exact ⟨⟨by decide +kernel, by decide +kernel, by decide +kernel, by decide +kernel⟩, by decide +kernel⟩
theorem witness_placeKnot : ((sW (.knots [0]) launch0).nextKnot launch0 (work0 (.knots [0]))).isSome = true ∧
    ((sW (.knots [0]) launch0).placeFor 0 launch0 (launchKnot launch0 0)).isSome = true := by decide +kernel
theorem witness_placeCrew : ((sW (.crew 0) launch0).crewCore 0 launch0).isSome = true ∧
    (sW (.crew 0) { launch0 with what := { launch0.what with pad := 10000000 } }).crewCore 0
      { launch0 with what := { launch0.what with pad := 10000000 } } = none := by decide +kernel
theorem witness_steal : let s := sW (.knots [0]) launch0
    s.open? 1 = true ∧ (s.stk 1).work = [] ∧ s.stackSlots 1 ≠ 0 ∧ (0 : Nat) ≠ 1 ∧
      leastBy (fun h => 18446744073709551616 - s.anyCount h)
        ((s.strap.homesOf (1 / 16)).filter fun h => h != 1 && decide (0 < s.anyCount h) && s.open? h) = some 0 ∧
      newest ((s.stk 0).work.filter fun w => w.any && w.own) = some (work0 (.knots [0])) ∧
      (work0 (.knots [0])).size (s.crewSize 1) ≤ 64 ∧ s.stolen 0 = [work0 (.knots [0])] := by decide +kernel
theorem witness_completion : let l := { launch0 with ownEnded := true, cancelled := true }; let s := { State.reset with launches := [(1, l)] }
    spFind 1 s.launches = some l ∧ l.ownEnded = true ∧ s.launchDone 1 l = true ∧ spRising none s.launches = true ∧
      s.completeStalled l.regs l.module l.what.compl = false := by decide +kernel
theorem witness_completionStalled : let l := { launch0 with what := { launch0.what with compl := 0x2000 } }
    (haltedBy State.reset).completeStalled l.regs l.module l.what.compl = true := by decide +kernel

theorem witness_host : hostRange (.read 0x100 4) = (0x100, 4) ∧ State.reset.hostReach 0x100 4 = true ∧
    State.reset.hostReach (2 ^ 60) 4 = false ∧ (State.reset.stk (homeOf 0x100)).halted = false ∧ State.reset.mem.lines = [] ∧
    State.reset.mem.wf = true ∧ validPa State.reset.strap 0x100 = true ∧ homeOf 0x100 ≠ Config.hostHome ∧
    State.reset.hostReach (0x100 / 64 * 64) 64 = true ∧ 725 ≤ (State.reset.mod 0).clock ∧ State.reset.strap.hasModule 0 = true ∧
    State.reset.strap.hasModule 1 = false ∧ State.reset.strap.hasHome (homeOf 0x100) = true ∧ ({ ModuleSt.reset 0 with clock := 700 }).clock + 25 ≤ 1400 := by decide +kernel

/-- Core 0 of stack 0 has had 62 or 63 corrected errors; it is withdrawn; its stack is halted; a crew on it. -/
def corrected (n : Nat) (w : List Nat) : State :=
  { s0 with stks := [(0, { StackSt.reset with corrected := List.replicate n (0, 0), withdrawn := w, cycles := 5 })] }
theorem witness_corrected : ∀ n ∈ [62, 63], let s := corrected n []
    s.strap.hasHome 0 = true ∧ ((s.stk 0).corrected.filter fun e => e.1 == 0 && decide ((s.stk 0).cycles < e.2 + 2 ^ 30)).length = n ∧
      0 ∉ (s.stk 0).withdrawn := by decide +kernel
theorem witness_registerError : s0.here 1 = some h0 ∧ h0.p.place = .resident seat0 ∧ seat0.core ∉ (s0.stk 0).withdrawn ∧
    seat0.core ∈ ((corrected 0 [0]).stk 0).withdrawn ∧ (corrected 0 [0]).here 1 = some h0 ∧ h0.p.ctx.stateOf (regNamed 1) = .full ∧
    (haltedBy s0).here 1 = some h0 ∧ ((haltedBy s0).stk 0).halted = true ∧ regNamed 1 ≠ { file := .scal, num := 0 } := by decide +kernel
theorem witness_padError : ∀ b, let s := { onCrew path0 (some engine0) with launches := [(1, launch0)], stks := [(0, { StackSt.reset with halted := b })] }
    spFind 1 s.crews = some (crew0 (some engine0)) ∧ (crew0 (some engine0)).place = .core 0 ∧ 0 ∉ (s.stk 0).withdrawn ∧ (s.stk 0).halted = b ∧
      (spFind 2 engine0.accs).isSome = true := by decide +kernel

/-- The host holds the line of 0x100 modified. -/
theorem witness_hostLine : let s := { State.reset with mem := { MemSt.reset with lines := [(4, List.replicate 64 7)], shared := [4] } }
    spFind (0x100 / 64) s.mem.lines = some (List.replicate 64 7) ∧ (List.replicate 64 (7 : Byte)).length = 64 ∧ s.mem.wf = true ∧
      s.hostReach (0x100 / 64 * 64) 64 = true ∧ (s.stk (homeOf (0x100 / 64 * 64))).halted = false := by decide +kernel
theorem witness_hostHalted : (haltedBy State.reset).hostReach 0x100 4 = true ∧ ((haltedBy State.reset).stk (homeOf 0x100)).halted = true := by decide +kernel

/-! Witnesses: commands. A ring of one slot at 0x10000, with the command in the slot at 0x20000. -/

def sCmd (bs : List Byte) : State :=
  let s := { State.reset with modules := [(0, { ModuleSt.reset 0 with ring := some 0x10000 })] }
  (s.writeRaw 0x10000 (bytesOfNat 0x20000 8 ++ bytesOfNat 1 4 ++ bytesOfNat 0 4 ++ bytesOfNat 1 8 ++ bytesOfNat 0 8)).writeRaw 0x20000 bs
def cmd (bs : List Byte) : Command := { ring := 0x10000, head := 0, slot := 0x20000, bytes := bs }
/-- A command of 64 bytes: OP, no STATUS, and operands of 8 bytes. -/
def cmdBytes (op : Nat) (args : List Nat) : List Byte :=
  let bs := bytesOfNat op 2 ++ bytesOfNat 0 6 ++ args.flatMap fun a => bytesOfNat a 8
  bs ++ List.replicate (64 - bs.length) 0
theorem commanded {s : State} {m op : Nat} {c : Command} (hl : s.mem.lines = []) (hc : s.command m = some c) (ho : c.op = op) : Commanded s m op c s :=
  ⟨by rw [State.nextCommand_clean m hl, hc]; rfl, ho⟩
theorem witness_commands : ∀ x ∈ ([(3, [0, 0, 5]), (4, [1, 0x3000]), (4, [64, 0]), (6, [0, 0x30000, 2]), (7, []), (8, []), (9, [0]), (10, [0]), (9, [16]),
    (11, [0x3000, 0x40000]), (12, [0x3000]), (13, [0x3000]), (14, [1, 0x3000]), (15, []), (2, [0x3000])] : List (Nat × List Nat)),
    Commanded (sCmd (cmdBytes x.1 x.2)) 0 x.1 (cmd (cmdBytes x.1 x.2)) (sCmd (cmdBytes x.1 x.2)) := by
  intro x hx
  simp only [List.mem_cons, List.not_mem_nil, or_false] at hx
  rcases hx with rfl | rfl | rfl | rfl | rfl | rfl | rfl | rfl | rfl | rfl | rfl | rfl | rfl | rfl | rfl
  all_goals exact commanded (by decide +kernel) (by decide +kernel) (by decide +kernel)
def withHeader (s : State) : State :=
  s.writeRaw 0x3000 (bytesOfNat 0x8000 8 ++ bytesOfNat 4 4 ++ bytesOfNat 0 52)
def qregBytes : List Byte := cmdBytes 1 [2, 0x3000, 0x10000, 1, 0, 0x10000]
theorem witness_qreg : Commanded (withHeader (sCmd qregBytes)) 0 1 (cmd qregBytes) (withHeader (sCmd qregBytes)) ∧
    ((withHeader (sCmd qregBytes)).pull (fieldAt qregBytes 16 8) 64).qregOk (cmd qregBytes) = true :=
  ⟨commanded (by decide +kernel) (by decide +kernel) (by decide +kernel), by decide +kernel⟩
theorem witness_qregBad : let b := cmdBytes 1 [8, 0x3000]
    Commanded (withHeader (sCmd b)) 0 1 (cmd b) (withHeader (sCmd b)) ∧ ((withHeader (sCmd b)).pull (fieldAt b 16 8) 64).qregOk (cmd b) = false :=
  ⟨commanded (by decide +kernel) (by decide +kernel) (by decide +kernel), by decide +kernel⟩
theorem witness_operands : 0 < (cmd (cmdBytes 4 [1, 0x3000])).arg 0 ∧ (cmd (cmdBytes 4 [1, 0x3000])).arg 0 < 64 ∧
    64 ≤ (cmd (cmdBytes 4 [64, 0])).arg 0 ∧ (cmd (cmdBytes 6 [0, 0x30000, 2])).arg 0 < State.reset.strap.stackCount ∧
    (cmd (cmdBytes 6 [0, 0x30000, 2])).arg 1 % 65536 = 0 ∧ physOk State.reset.strap 0x30000 (65536 * 2) = true ∧ homeOf 0x30000 = 0 ∧
    State.reset.strap.stackCount ≤ (cmd (cmdBytes 9 [16])).arg 0 ∧ (sCmd (cmdBytes 9 [0])).stackQuiet 0 = true ∧
    physOk State.reset.strap 0x3000 64 = true ∧ physOk State.reset.strap 0x40000 680 = true ∧ (sCmd (cmdBytes 3 [0, 0, 5])).flow.posts = [] ∧
    ((sCmd (cmdBytes 7 [])).mod 0).preempt = .running := by decide +kernel
/-- CIRCUIT of entry 0 between stacks 1 and 2; with 8 circuits at stack 1, or at stack 2; one torn down; ends that are no two stacks. -/
def circuitBytes (v e : Nat) : List Byte := cmdBytes 5 [v * 2 ^ 24 + e * 65536]
def crowded (f : Nat → BitVec 16) : ModuleSt := { ModuleSt.reset 0 with ring := some 0x10000, circuits := (List.range 8).map fun i => (i + 1, f i) }
theorem witness_circuit : ∀ x ∈ [(0, 0x21), (128, 0x21), (128, 0x12)], Commanded (sCmd (circuitBytes x.1 x.2)) 0 5 (cmd (circuitBytes x.1 x.2)) (sCmd (circuitBytes x.1 x.2)) := by
  intro x hx
  simp only [List.mem_cons, List.not_mem_nil, or_false] at hx
  rcases hx with rfl | rfl | rfl
  all_goals exact commanded (by decide +kernel) (by decide +kernel) (by decide +kernel)
theorem witness_circuitFields : let b := circuitBytes 128 0x21
    fieldAt b 8 2 = 0 ∧ zeroAt b 12 52 = true ∧ 128 ≤ fieldAt b 11 1 ∧ fieldAt b 10 1 % 16 = 1 ∧ fieldAt b 10 1 / 16 = 2 ∧
      fieldAt (circuitBytes 0 0x21) 11 1 < 128 ∧ 2 < State.reset.strap.stackCount ∧ (tornDown ((sCmd b).mod 0) 0).circuitsAt 1 < 8 ∧
      (tornDown ((sCmd b).mod 0) 0).circuitsAt 2 < 8 ∧ 8 ≤ (tornDown (crowded fun _ => 0x8031) 0).circuitsAt 1 ∧
      8 ≤ (tornDown (crowded fun _ => 0x8032) 0).circuitsAt 2 ∧ fieldAt (circuitBytes 128 0x12) 10 1 / 16 ≤ fieldAt (circuitBytes 128 0x12) 10 1 % 16 := by
  decide +kernel
theorem witness_crowded : ∀ e ∈ [0x8031#16, 0x8032#16], let b := circuitBytes 128 0x21
    let s := { sCmd b with modules := [(0, crowded fun _ => e)] }
    Commanded s 0 5 (cmd b) s := by
  intro e he
  simp only [List.mem_cons, List.not_mem_nil, or_false] at he
  rcases he with rfl | rfl
  all_goals exact commanded (by decide +kernel) (by decide +kernel) (by decide +kernel)
theorem witness_finish : let s := sCmd (cmdBytes 7 []); let c := cmd (cmdBytes 7 [])
    s.mem.wf = true ∧ c.head + 1 < 2 ^ 64 ∧ c.ring + 64 ≤ zoneBase ∧ c.slot + 64 ≤ zoneBase ∧ s.mem.lines = [] ∧ c.ring + 64 ≤ c.slot := by
  decide +kernel
theorem witness_stopping : let s := { State.reset with modules := [(0, { ModuleSt.reset 0 with preempt := .stopping })] }
    s.strap.hasModule 0 = true ∧ (s.mod 0).preempt = .stopping ∧ s.allStopped 0 = true ∧
      { s with paths := [(1, flying)] }.allStopped 0 = false := by decide +kernel
theorem witness_stopped : let b := cmdBytes 7 []
    let s := { sCmd b with modules := [(0, { ModuleSt.reset 0 with ring := some 0x10000, preempt := .stopped })] }
    Commanded s 0 7 (cmd b) s ∧ (s.mod 0).preempt = .stopped :=
  ⟨commanded (by decide +kernel) (by decide +kernel) (by decide +kernel), by decide +kernel⟩
/-- KEYLOAD and SIGNKEY of a record outside the memory present; SHOOT of a range in which a post is to be performed; a halted stack with a copy
in flight. -/
theorem witness_signRecord : physOk State.reset.strap ((cmd (cmdBytes 14 [1, 2 ^ 60])).arg 1) Config.signKeyBytes = false := by
  have h : (cmd (cmdBytes 14 [1, 2 ^ 60])).arg 1 = 2 ^ 60 := by decide +kernel
  rw [h]
  cases hp : physOk State.reset.strap (2 ^ 60) Config.signKeyBytes
  · rfl
  · have hv : validPa State.reset.strap (2 ^ 60) = false := by decide +kernel
    simp only [physOk, Bool.and_eq_true, hv] at hp
    exact absurd hp.1.1 (by decide)
theorem witness_busy : let c := cmd (cmdBytes 3 [0, 0, 5]); let s := { sCmd c.bytes with flow := { FlowSt.reset with posts := [post0 .store] } }
    Commanded s 0 3 c s ∧ ∃ p ∈ s.flow.posts, inPages (c.arg 0) (c.arg 1) (c.arg 2) p.asid p.va = true :=
  ⟨commanded (by decide +kernel) (by decide +kernel) (by decide +kernel), by decide +kernel⟩
theorem witness_loud : { State.reset with crews := [(1, crew0 (some copying))] }.stackQuiet (16 * 0 + 0) = false ∧
    State.reset.stackQuiet (16 * 0 + 0) = true := by decide +kernel
theorem witness_reports : physOk State.reset.strap (2 ^ 60) 64 = false ∧ physOk State.reset.strap (2 ^ 60) 32 = false ∧
    ∀ j < 16, ∀ y ∈ (State.reset.stk (16 * 0 + j)).withdrawn, y < 32 := by decide +kernel
/-- A firmware stage with no signature does not verify. -/
theorem witness_stages : ¬StageOk (([], []) : List Byte × List Byte) ∧ (∀ st ∈ ([] : List (List Byte × List Byte)), StageOk st) ∧
    State.reset.strap.moduleCount = 1 := by
  refine ⟨?_, (by intro st h; cases h), rfl⟩
  simp [StageOk, rsaVerify]
/-- BIND of a request at 0x3000 whose object is not there, and of a stub that nothing is lazily bound under. -/
def bindBytes : List Byte := cmdBytes 2 [0x3000]
theorem witness_bind : Commanded (sCmd bindBytes) 0 2 (cmd bindBytes) (sCmd bindBytes) ∧ physOk State.reset.strap ((cmd bindBytes).arg 0) 64 = true ∧
    (((sCmd bindBytes).writeRaw 0x3000 (List.replicate 64 0)).bindReq 0x3000).stub = 0 ∧
    (((sCmd bindBytes).writeRaw 0x3000 (List.replicate 64 1)).bindReq 0x3000).stub ≠ 0 ∧ (sCmd bindBytes).heap.lazies = [] :=
  ⟨commanded (by decide +kernel) (by decide +kernel) (by decide +kernel), by decide +kernel, by decide +kernel, by decide +kernel, by decide +kernel⟩

/-- BIND of the stub 0x8000: nothing can be placed for it; its function is placed already. -/
def lazyOf (b : Option Nat) : Lazy := { stub := 0x01010101, bytes := [], sect := 0, addrs := [], asid := 0, bound := b, calls := [], gots := [] }
theorem witness_lazy : ∀ b ∈ [none, some 0x9000], let s := (sCmd bindBytes).writeRaw 0x3000 (List.replicate 64 1)
    let s := { s with heap := { s.heap with lazies := [lazyOf b] } }
    let c := cmd bindBytes
    let s1 := s.pull (c.arg 0) 64
    Commanded s 0 2 c s ∧ (s1.bindReq (c.arg 0)).stub ≠ 0 ∧ (s.heap.lazies.find? fun z => z.stub == (s1.bindReq (c.arg 0)).stub) = some (lazyOf b) ∧
      (match s1.placeLazy (lazyOf b) with | .ok t => t.heap.lazies == [lazyOf b] && b.isSome | .error _ => b.isNone) = true := by
  intro b hb
  simp only [List.mem_cons, List.not_mem_nil, or_false] at hb
  rcases hb with rfl | rfl
  all_goals exact ⟨commanded (by decide +kernel) (by decide +kernel) (by decide +kernel), by decide +kernel, by decide +kernel, by decide +kernel⟩
theorem witness_answer : ((cmd bindBytes).arg 0) + 64 ≤ zoneBase ∧ (sCmd bindBytes).mem.wf = true := by decide +kernel

/-! Witnesses: steps, words and numbers. -/

/-- Path 1 fetches a NOP at 0x100; a reserved word; a word outside its function. -/
def fetching (w : Word) (pc : Pc) : State :=
  { alone knot0 (withCtx { ctx0 with pc := pc }) with
    cur := .idle, agenda := [.issue 0 0 0 false], heap := { heap0 with words := [(0x40, w)] } }
theorem witness_issue : (fetching 0xA8000000 0x100).agenda = .issue 0 0 0 false :: [] ∧
    { fetching 0xA8000000 0x100 with agenda := [] }.chosen 0 0 0 = some h0.u ∧ (fetching 0xA8000000 0x100).here h0.u = some h0 :=
  ⟨rfl, by decide +kernel, by decide +kernel⟩
theorem witness_fetch : Fetches h0 ∧ WordAt (fetching 0xA8000000 0x100) 0 0x100 false 0x100 h0.k.unseen 0xA8000000 ∧ decode 0xA8000000 = .ok .nop ∧
    decode 0x44000000 = .error .reservedMajor ∧ (fetching 0xA8000000 0x80).heap.inExtent 0x100 0x80 = false :=
  ⟨Or.inr ⟨rfl, (by intro a ha; cases ha), (by intro _ r hr; cases hr), Or.inr (Or.inl rfl)⟩, ⟨rfl, by decide +kernel, by decide +kernel, (by intro e he; cases he)⟩,
   by decide, by decide, by decide +kernel⟩
/-- The movement processor of crew 1 at a NOP. -/
def moverFetch : State :=
  { moving mover0 with cur := .idle, agenda := [.move 1],
                       heap := { HeapSt.reset with fns := [(0x200, { size := 64, kind := .movement, map := [] })], words := [(0x80, 0xA8000000)] } }
theorem witness_moverIssue : { moverFetch with agenda := [] }.moverReady 1 = true ∧ moverFetch.mover? 1 = some (mHere mover0) ∧
    mover0.pending = none ∧ WordAt moverFetch 0 mover0.fn mover0.wrapped mover0.pc mover0.unseen 0xA8000000 :=
  ⟨by decide +kernel, rfl, rfl, rfl, by decide +kernel, by decide +kernel, (by intro e he; cases he)⟩
/-- The same path where the knot may still fetch an earlier word. -/
theorem witness_unseen : (0x100 / 4, 0xA8000005) ∈ ({ knot0 with unseen := [(0x40, 0xA8000005)] } : Knot).unseen ∧ h0.p.ctx.wrapped = false ∧
    (fetching 0xA8000000 0x100).heap.inExtent h0.p.ctx.fn h0.p.ctx.pc = true := by decide +kernel
/-- The choice 1 fetches the earlier word of a call site, the choice 0 the new one (R317). -/
theorem test_fetch_old_or_new :
    ({ fetching 0xA8000000 0x100 with picks := [1] }.fetchWord 0 [(0x40, 0xA8000005)] 0x100).1 = 0xA8000005 ∧
    ({ fetching 0xA8000000 0x100 with picks := [0] }.fetchWord 0 [(0x40, 0xA8000005)] 0x100).1 = 0xA8000000 ∧
    ({ fetching 0xA8000000 0x100 with picks := [1] }.fetchWord 0 [(0x41, 0xA8000005)] 0x100).1 = 0xA8000000 := by decide +kernel
/-- The word's backing page is under the device key of its module, which slot 0 holds. -/
theorem witness_copyHeld : CopyHeld { fetching 0xA8000000 0x100 with heap := { heap0 with pages := [(0, [0x70000])] } } 0 0x100 := by
  intro page hp i hi
  have : page = 0x70000 := by
    have h : (spGet [] ({ fetching 0xA8000000 0x100 with heap := { heap0 with pages := [(0, [0x70000])] } }).heap.pages ((0x100 : Pc).toNat / 65536))[0]? =
      some 0x70000 := by decide +kernel
    exact Option.some.inj (hp.symm.trans h)
  subst this
  revert i
  decide +kernel
theorem witness_event : encode (.stealMessage 3) = none ∧ ({ State.reset with agenda := [.event (.stealMessage 3)] }).agenda = .event (.stealMessage 3) :: [] :=
  ⟨rfl, rfl⟩
/-- What step does with it: the NOP leaves the path at the next word. -/
theorem test_step_nop : (match Machine.step (fetching 0xA8000000 0x100) with | .next t => (t.path? 1).map (·.ctx.pc) | _ => none) = some 0x104 := by
  decide +kernel
theorem test_step_reserved : (match Machine.step (fetching 0x44000000 0x100) with
    | .next t => (t.path? 1).map fun p => (p.super, p.ctx.pc, p.ctx.scalVal 31) | _ => none) = some (true, 0x10040, 1) := by decide +kernel

theorem witness_encode : Instr.wf (.iadd 7 1 2 3 false false) ∧ encode (.iadd 7 1 2 3 false false) = some 0x05C22180 ∧
    decode 0x05C22180 = .ok (.iadd 7 1 2 3 false false) := ⟨rfl, rfl, rfl⟩
theorem witness_memoryWrite : MemSt.reset.wf = true ∧ (∀ l ∈ linesOf 0x3E ([1, 2, 3, 4] : List Byte).length, spFind l MemSt.reset.lines = none) ∧
    ([1, 2, 3, 4] : List Byte)[2]? = some 3 := by decide +kernel
/-- A quiet and a signalling NaN, infinities and zero of F32. -/
def env32 : FpEnv := plainEnv fmtF32
theorem witness_nan : (env32.read 0x7FC00001).isNan = true ∧ (env32.read 0x7F800001).signals = true ∧ env32.read 0x7F800000 = .inf false ∧
    env32.read 0xFF800000 = .inf true := by decide +kernel
theorem witness_infZero : env32.read 0 = .num false 0 (-149) := by decide +kernel
/-- Finite patterns of F32 and F16; a block of two values, one of them not a number. -/
theorem witness_finite : FiniteBits fmtF32 0x3F800000 ∧ FiniteBits fmtF32 0x80000001 ∧ FiniteBits fmtF16 0x3C00 ∧ FiniteBits fmtE4M3 0x7E ∧
    (TypeCode.f16, fmtF16) ∈ floatTypes ∧ intType .i8 = some (8, true) ∧ IsNum (.num false 1 0) ∧ ¬IsNum (.inf true) := by
  unfold FiniteBits
  refine ⟨by decide +kernel, by decide +kernel, by decide +kernel, by decide +kernel, by decide +kernel, rfl, ⟨_, _, _, rfl⟩, ?_⟩
  rintro ⟨_, _, _, h⟩
  cases h
theorem witness_values : valueQ fmtF32 0x3F800000 = 1 ∧ valueQ fmtF32 0xBF800000 = -1 ∧ readQ fmtF32 true 0x80000001 = 0 := by
  refine ⟨?_, ?_, ?_⟩ <;> norm_num [valueQ, readQ, negBit, fmtF32, FloatFmt.bias]
/-- Patterns of each kind; 1 below 2, -inf below 1; the classes of a subnormal, read as it is and flushed, and of a signalling NaN. -/
theorem witness_kinds : NanBits fmtF32 0x7FC00000 ∧ SignallingBits fmtF32 0x7F800001 ∧ ¬SignallingBits fmtF32 0x7FC00000 ∧ InfBits fmtF32 0xFF800000 := by
  unfold SignallingBits NanBits InfBits
  decide +kernel
theorem witness_below : Below fmtF32 false 0x3F800000 0x40000000 ∧ Below fmtF32 false 0xFF800000 0x3F800000 ∧ ¬Below fmtF32 true 0x00000001 0x80000000 := by
  refine ⟨.inr (.inr ⟨by unfold InfBits; decide +kernel, by unfold InfBits; decide +kernel, ?_⟩),
    .inl ⟨by unfold InfBits; decide +kernel, by decide +kernel, by unfold InfBits; decide +kernel⟩, ?_⟩
  · norm_num [valueQ, readQ, negBit, fmtF32, FloatFmt.bias]
  · rintro (⟨⟨h, _⟩, _⟩ | ⟨⟨h, _⟩, _⟩ | ⟨_, _, h⟩)
    · exact absurd h (by decide +kernel)
    · exact absurd h (by decide +kernel)
    · revert h
      norm_num [valueQ, readQ, negBit, fmtF32, FloatFmt.bias]
theorem witness_classes : ClassIs fmtF32 false 1 5 ∧ ClassIs fmtF32 true 1 4 ∧ ClassIs fmtF32 false 0x7F800001 8 := by
  refine ⟨?_, ?_, ?_⟩
  · simp only [ClassIs]; decide +kernel
  · simp only [ClassIs]; decide +kernel
  · simp only [ClassIs, SignallingBits, NanBits]; decide +kernel
/-- Positive and negative finite operands of FSQRT and FRINT. -/
theorem witness_roots : FiniteBits fmtF32 0x40400000 ∧ 0 < readQ fmtF32 false 0x40400000 ∧ readQ fmtF32 false 0xBF800000 < 0 ∧
    readQ fmtF32 false 0x80000000 = 0 := by
  refine ⟨by unfold FiniteBits; decide +kernel, ?_, ?_, ?_⟩ <;> norm_num [valueQ, readQ, negBit, fmtF32, FloatFmt.bias]

/-- 1.5 rounds to the integer 2, and quantises to 24 under the exponent 128. -/
theorem witness_rounds : RoundsInt .near (3 / 2) 2 ∧ Quant false (.num false 3 (-1)) 128 24 := by
  refine ⟨⟨?_, ?_⟩, ?_, ?_⟩ <;> norm_num [fvalQ, blockOffset, abs_of_pos]

/-! Small steps with results calculated from the rules. -/

/-- v3 of lane 0 after an instruction, with v1 = a, v2 = b and v3 = d there. -/
def inputs (a b d : Word) : Knot := { knot0 with vregs := [(1, [a]), (2, [b]), (3, [d])] }
def lane0 (i : Instr) (a b : Word) (d : Word := 0) : Option Word :=
  match exec i (alone (inputs a b d) path0) with
  | .next t => (spFind 1 t.knots).map fun k => k.lane 3 0
  | _ => none
/-- FPSTAT, a scalar and the PC after an instruction on `s0`. -/
def statOf (i : Instr) (a b : Word) : Option (BitVec 5) :=
  match exec i (alone (inputs a b 0) path0) with
  | .next t => (t.path? 1).map fun p => p.ctx.fpstat
  | _ => none
def scalAfter (i : Instr) (p : Path) (n : Nat) : Option (DWord × Pc) :=
  match exec i (alone knot0 p) with
  | .next t => (t.path? 1).map fun p => (p.ctx.scalVal n, p.ctx.pc)
  | _ => none
/-- The code of the trap that an instruction takes, its lane and address as its frame says. -/
def trapOf (i : Instr) (s : State) : Option (Nat × DWord) :=
  match exec i s with
  | .next t => (t.path? 1).bind fun p => if p.super then some ((p.ctx.scalVal 31).toNat, BitVec.ofNat 64 (natOfBytes (sub (t.zoneRead p.home 0 128) 16 8))) else none
  | _ => none

/-- R150: modulo 2^32. -/
theorem test_iadd_wraps : lane0 (.iadd 7 3 1 2 false false) 0xFFFFFFFF 2 = some 1 := by decide +kernel
/-- R150: -1 times -1 has high word 0 signed, and 0xFFFFFFFE unsigned. -/
theorem test_imulhI32 : lane0 (.imulhI32 7 3 1 2 false false) 0xFFFFFFFF 0xFFFFFFFF = some 0 := by decide +kernel
theorem test_imulhN32 : lane0 (.imulhN32 7 3 1 2 false false) 0xFFFFFFFF 0xFFFFFFFF = some 0xFFFFFFFE := by decide +kernel
theorem test_iabs_least : lane0 (.iabs 7 3 1 false) 0x80000000 0 = some 0x80000000 := by decide +kernel
/-- R151: an amount of 32 or more. -/
theorem test_shl_far : lane0 (.shl 7 3 1 2 false false) 1 32 = some 0 := by decide +kernel
theorem test_sar_far : lane0 (.sar 7 3 1 2 false false) 0x80000000 0xFFFFFFFF = some 0xFFFFFFFF := by decide +kernel
theorem test_clz_zero : lane0 (.clz 7 3 1 false) 0 0 = some 32 := by decide +kernel
/-- R153: four bits from bit 30 read zeros above bit 31; four bits put there drop the upper two. -/
theorem test_bfe_top : lane0 (.bfe 7 3 1 false 30 3) 0xFFFFFFFF 0 = some 3 := by decide +kernel
theorem test_bfi_top : lane0 (.bfi 7 3 1 false 30 3) 0xF 0 0x12345678 = some 0xD2345678 := by decide +kernel
theorem test_leaShift : lane0 (.leaShift 7 3 1 2 false false 3) 0x10 0x20000001 = some 0x18 := by decide +kernel
/-- R31, R116: a lane whose guard is false keeps its value. -/
theorem test_guard_false : lane0 (.iadd 2 3 1 2 false false) 5 6 9 = some 9 := by decide +kernel

/-- R96 to R98, R156: 1 + 2^-24 is a tie that rounds to even, inexact; infinity minus infinity is invalid. -/
theorem test_fadd_tie : lane0 (.fadd .near 7 3 1 2 false false) 0x3F800000 0x33800000 = some 0x3F800000 ∧
    statOf (.fadd .near 7 3 1 2 false false) 0x3F800000 0x33800000 = some 0x10 := by decide +kernel
theorem test_fadd_up : lane0 (.fadd .mode 7 3 1 2 false false) 0x7F800000 0xFF800000 = some 0x7FC00000 ∧
    statOf (.fadd .mode 7 3 1 2 false false) 0x7F800000 0xFF800000 = some 1 := by decide +kernel
/-- R156: 3 times 5 plus 7, with one rounding. -/
theorem test_ffma : lane0 (.ffma .near 7 3 1 2 false false) 0x40400000 0x40A00000 0x40E00000 = some 0x41B00000 := by decide +kernel
/-- R164: 1.5 as F16; R106, R165: the BX8 elements 0x45 and 0xBF under the header 0x7B7F. -/
theorem test_cvt_f16 : lane0 (.cvt 7 3 1 false .mode .f16 .f32) 0x3FC00000 0 = some 0x3E00 := by decide +kernel
theorem test_bxd_small : lane0 (.bxd 7 3 1 false .bx8) 0x7B7F0045 0 = some 0x3C200000 := by decide +kernel
theorem test_bxd_negative : lane0 (.bxd 7 3 1 false .bx8) 0x7B7FFFBF 0 = some 0xBFFC0000 := by decide +kernel

/-- R169: the sum of v1 over lanes 0 to 2, 5 + 6 + 7; R175: v1 of lane 2. -/
theorem test_reduce_add : scalAfter (.reduceAddI32 7 5 1 0 false false) path0 5 = some (18, 0x104) := by decide +kernel
theorem test_v2s : scalAfter (.v2s 7 5 1 6 false false) path0 5 = some (7, 0x104) := by decide +kernel

/-- The worked values of presence: grant 64, lanes 0 to 5 and 40, lane 3 absent under the guard p1. -/
def worked : Knot :=
  { knot0 with grant := 64, preds := [(1, 2 ^ 40 + 0x37)]
               vregs := [(1, [5, 7, 1, 9, 2, 4] ++ List.replicate 34 0 ++ [6]), (3, List.replicate 64 1)] }
def workedPath : Path := withCtx { ctx0 with mask := 2 ^ 40 + 0x3F }
def workedLanes (i : Instr) : Option (List Word) :=
  match exec i (alone worked workedPath) with
  | .next t => (spFind 1 t.knots).map fun k => [0, 1, 2, 4, 5, 40].map (k.lane 4)
  | _ => none
theorem test_worked_shfl : workedLanes (.shfl 1 4 1 3 false false .up 2) = some [5, 5, 7, 2, 2, 6] := by decide +kernel
theorem test_worked_scan : workedLanes (.scanAddI32 1 4 1 0 false false) = some [5, 12, 13, 15, 19, 25] := by decide +kernel
theorem test_worked_reduce : (match exec (.reduceAddI32 1 5 1 0 false false) (alone worked workedPath) with
    | .next t => (t.path? 1).map fun p => p.ctx.scalVal 5 | _ => none) = some 25 := by decide +kernel
theorem test_worked_vote : (match exec (.voteCnt 1 7 1 1 false) (alone worked workedPath) with
    | .next t => (t.path? 1).map fun p => p.ctx.scalVal 7 | _ => none) = some 0x0000010000000006 := by decide +kernel

/-- R168: s1 = 9; the upper half; a write of s0. -/
theorem test_saddi_negative : scalAfter (.saddi 5 1 0xFFFF) path0 5 = some (8, 0x104) := by decide +kernel
theorem test_sadd_zero : scalAfter (.sadd 0 1 2 false false) path0 0 = some (0, 0x104) := by decide +kernel
/-- R186: the counter 2 becomes 1 and the loop goes 16 bytes back; the counter 1 becomes 0 and it falls through. -/
theorem test_loop_back : scalAfter (.loop 6 0x3FFFC) path0 6 = some (1, 0xF0) := by decide +kernel
theorem test_loop_ends : scalAfter (.loop 4 0x3FFFC) path0 4 = some (0, 0x104) := by decide +kernel
/-- R183: CALL goes to its target. -/
theorem test_call : scalAfter (.call 4 4) path0 1 = some (9, 0x110) := by decide +kernel

/-- R190, R193: LD of a signed byte extends its sign. -/
theorem test_ld_signed : (match exec (.lds false 5 2 false .i8 0) (sM.writeMem key0 0x1000 [0x80]) with
    | .next t => (t.path? 1).bind fun p => p.flights.getLast?.map (·.fill) | _ => none) = some (.scal 0xFFFFFFFFFFFFFF80) := by decide +kernel
/-- R196: a store of one byte leaves its neighbours. -/
theorem test_sts_byte : (match exec (.sts false 1 2 false .n8 0) (sM.writeMem key0 0x1000 [0x11, 0x22]) with
    | .next t => some (t.readMem key0 0x1000 2) | _ => none) = some [9, 0x22] := by decide +kernel
/-- R197: lanes 0, 1 and 2 each add to one word that holds 5, their operands 3, 4 and 5: it ends at 17. -/
def sameWord : Knot := { knot0 with vregs := [(2, [3, 4, 5]), (3, [0x40, 0x40, 0x40])] }
theorem test_atm_add : (match exec (.atm 7 1 3 2 false .add .i32) ((mapped (alone sameWord path0)).writeMem key0 0x1040 [5, 0, 0, 0]) with
    | .next t => some (t.readMem key0 0x1040 4) | _ => none) = some [17, 0, 0, 0] := by decide +kernel

/-- R280, R296: TRAP 3 of s1 = 9 is code 32 with address 9; a privileged instruction at user level is code 3; a misaligned load is 10. -/
theorem test_trap : trapOf (.trap 1 3 false) s0 = some (32, 9) := by decide +kernel
theorem test_halt_user : trapOf .halt s0 = some (3, 0) := by decide +kernel
theorem test_ld_misaligned : trapOf (.lds false 5 2 false .b64 0) (mapped (alone knot0 (offBy 0x1004))) = some (10, 0x1004) := by decide +kernel

/-- R86: the word of the worked values under each rule; initial 10, writers (0, 7) with 4 and (1, 3) with 5. -/
theorem test_plane : [0, 1].map (fun r => resolveWord r 10 [(7, 4), (1027, 5)]) = [4, 19] ∧ resolveWord 1 0 [(7, 4), (1027, 5)] = 9 := by decide +kernel
end Sys2Proof.Tests
end

section
/-! PROOF. Bytes written through a key slot, and what they read as through another (R324). -/
namespace Sys2Proof.Machine

/-- The stored contents of a byte of a write. -/
theorem MemSt.stored_writeBytes {m : MemSt} (hw : m.wf = true) (k : Config.KeyId) (pa : Nat) (bs : List Byte) {i : Nat}
    (hi : i < bs.length) (hl : m.lineFree (pa + i)) : (m.writeBytes (some k) pa bs).stored (pa + i) = bs.getD i 0 := by
  have hr := MemSt.readByte_writeBytes (some k) bs hw pa i bs[i] (List.getElem?_eq_getElem hi) hl
  have ho := MemSt.readByte_own (m.writeBytes (some k) pa bs) (pa + i)
  rw [MemSt.keyOf_writeBytes k bs hw pa i hi, hr] at ho
  rw [← ho, List.getD_eq_getElem _ _ hi]

/-- The block of byte `i` of an aligned write is 16 bytes of the write. -/
theorem blockOf_add {pa i : Nat} (ha : pa % 16 = 0) : blockOf (pa + i) = (List.range 16).map fun j => pa + (i / 16 * 16 + j) := by
  unfold blockOf
  refine List.map_congr_left fun j _ => ?_
  omega

/-- A block of an aligned write of whole blocks reads through another slot as its decryption under that slot (R324). -/
theorem MemSt.readByte_writeBytes_other {m : MemSt} (hw : m.wf = true) {j k : Config.KeyId} (hk : k ≠ j) {pa i : Nat} {bs : List Byte}
    (ha : pa % 16 = 0) (hn : bs.length % 16 = 0) (hi : i < bs.length) (hl : ∀ x < bs.length, m.lineFree (pa + x)) :
    (m.writeBytes (some j) pa bs).readByte (some k) (pa + i) =
      (rekeyed k j ((pa + i) / 16 * 16) ((bs.drop (i / 16 * 16)).take 16)).getD (i % 16) 0 := by
  have hin : ∀ x < 16, i / 16 * 16 + x < bs.length := by omega
  have hkey : (m.writeBytes (some j) pa bs).keyOf (pa + i) = j := MemSt.keyOf_writeBytes j bs hw pa i hi
  have hall : ((blockOf (pa + i)).all fun a => (m.writeBytes (some j) pa bs).keyOf a == j) = true := by
    rw [blockOf_add ha, List.all_eq_true]
    intro a hm
    obtain ⟨x, hx, rfl⟩ := List.mem_map.mp hm
    simpa using MemSt.keyOf_writeBytes j bs hw pa _ (hin x (List.mem_range.mp hx))
  have hblock : (blockOf (pa + i)).map (m.writeBytes (some j) pa bs).stored = (bs.drop (i / 16 * 16)).take 16 := by
    rw [blockOf_add ha, List.map_map]
    refine List.ext_getElem (by have := hin 15 (by omega); simp; omega) fun x h1 h2 => ?_
    have hx := hin x (by simpa using h1)
    simp only [List.getElem_map, List.getElem_range, Function.comp_apply, List.getElem_take, List.getElem_drop,
      MemSt.stored_writeBytes hw j pa bs hx (hl _ hx), List.getD_eq_getElem _ _ hx]
  have hmod : (pa + i) % 16 = i % 16 := by omega
  simp only [MemSt.readByte, hkey, if_neg hk.symm, hall, if_true, hblock, hmod]

/-- Settles O58: the laws of writes give the frame and the bytes under the key of the write; under another key, the block of a byte lies in
the write, stored under one key. -/
theorem memoryReadsWhatWasWritten : Obligations.MemoryReadsWhatWasWritten := by
  unfold Obligations.MemoryReadsWhatWasWritten
  intro m key pa bs hw hlines
  have hl : ∀ i < bs.length, m.lineFree (pa + i) := fun i hi => .inr (hlines _ (mem_linesOf hi))
  refine ⟨MemSt.read_writeBytes hw key pa bs hl, MemSt.sameBut_writeBytes hw key pa bs, ?_, MemSt.wf_writeBytes key bs hw pa⟩
  rintro j k i rfl hk ha hn hi
  exact MemSt.readByte_writeBytes_other hw hk ha hn hi hl

end Sys2Proof.Machine
end

section
/-! PROOF. What an agent may not execute: matrix, handle and movement instructions of knots without the unit, and instructions outside the
movement subset on a movement processor (R121, R130, R217). -/
namespace Sys2Proof.Claims
open Sys2Proof.Machine

/-- A knot without an engine does not reach one (R217). -/
theorem needEngine_noEngine {s : State} {h : Here} (hn : NoEngine s h) (code : TrapCode) :
    needEngine s h code = .error (.trap { code := code } s) := by
  unfold needEngine State.crewOf
  rcases hn with hc | ⟨n, slot, w, hc, hw, he⟩
  · rw [hc]
  · simp only [hc, hw, Option.map_some, he]

/-- A once-per-path or lane guard that is the never-guard makes the form one of `neverForm`. -/
theorem isNever_of_none {g : Guard} {i : Guard → Instr} (h : neverForm (i g) = none) (h15 : neverForm (i 15) ≠ none) :
    isNever g = false := isNever_false fun e => h15 (e ▸ h)

theorem guard_of_none {g : Bool} {i : Bool → Instr} (h : neverForm (i g) = none) (ht : neverForm (i true) ≠ none) : g = false := by
  cases g
  · rfl
  · exact absurd h ht

/-- An instruction of the matrix majors is a matrix operation; one that is not under the never-guard has its body (R118, R217). -/
theorem exec_matrix {i : Instr} (hi : isMatrix i = true) :
    ∃ never body, (∀ s, exec i s = matrixOp never body s) ∧ (neverForm i = none → never = false) := by
  cases i
  case tcfg g t y e => exact ⟨g, _, fun _ => rfl, fun hn => guard_of_none (i := (.tcfg · t y e)) hn nofun⟩
  case tld g t y z e f => exact ⟨g, _, fun _ => rfl, fun hn => guard_of_none (i := (.tld · t y z e f)) hn nofun⟩
  case tst g t y z e f => exact ⟨g, _, fun _ => rfl, fun hn => guard_of_none (i := (.tst · t y z e f)) hn nofun⟩
  case tzero g t => exact ⟨g, _, fun _ => rfl, fun hn => guard_of_none (i := (.tzero · t)) hn nofun⟩
  case wld g t y e => exact ⟨g, _, fun _ => rfl, fun hn => guard_of_none (i := (.wld · t y e)) hn nofun⟩
  case mma g a t k => exact ⟨isNever g, _, fun _ => rfl, fun hn => isNever_of_none (i := (.mma · a t k)) hn nofun⟩
  case mmas g a t v f k => exact ⟨isNever g, _, fun _ => rfl, fun hn => isNever_of_none (i := (.mmas · a t v f k)) hn nofun⟩
  case mbatch g d => exact ⟨g, _, fun _ => rfl, fun hn => guard_of_none (i := (.mbatch · d)) hn nofun⟩
  case mwait g y e => exact ⟨g, _, fun _ => rfl, fun hn => guard_of_none (i := (.mwait · y e)) hn nofun⟩
  case accget g d n => exact ⟨g, _, fun _ => rfl, fun hn => guard_of_none (i := (.accget · d n)) hn nofun⟩
  case accput g => exact ⟨g, _, fun _ => rfl, fun hn => guard_of_none (i := .accput) hn nofun⟩
  case acq g a => exact ⟨g, _, fun _ => rfl, fun hn => guard_of_none (i := (.acq · a)) hn nofun⟩
  case rel g a => exact ⟨g, _, fun _ => rfl, fun hn => guard_of_none (i := (.rel · a)) hn nofun⟩
  case accrd g d a z f => exact ⟨isNever g, _, fun _ => rfl, fun hn => isNever_of_none (i := (.accrd · d a z f)) hn nofun⟩
  case accrd4 g d a z f => exact ⟨isNever g, _, fun _ => rfl, fun hn => isNever_of_none (i := (.accrd4 · d a z f)) hn nofun⟩
  case accwr g a v z e f => exact ⟨isNever g, _, fun _ => rfl, fun hn => isNever_of_none (i := (.accwr · a v z e f)) hn nofun⟩
  case accwr4 g a v z e f => exact ⟨isNever g, _, fun _ => rfl, fun hn => isNever_of_none (i := (.accwr4 · a v z e f)) hn nofun⟩
  all_goals exact absurd hi Bool.false_ne_true

/-- An instruction of the handle major is a handle operation (R217, R238). -/
theorem exec_handle {i : Instr} (hi : isHandle i = true) : ∃ body, ∀ s, exec i s = handleOp body s := by
  cases i
  case hwait | hany | hall | hfirst | hclaim | hfree | hsig => exact ⟨_, fun _ => rfl⟩
  all_goals exact absurd hi Bool.false_ne_true

/-- A movement instruction is one of movement processors only (R130). -/
theorem exec_movement {i : Instr} (hi : isMovement i = true) : ∃ mbody, ∀ s, exec i s = moverOp mbody s := by
  cases i
  case copy | copy2d | gather | scatter | mpwait | hset | hexp | mpfence | mpend => exact ⟨_, fun _ => rfl⟩
  all_goals exact absurd hi Bool.false_ne_true

/-- A matrix instruction on a part without matrix units, whatever its guard (R121). -/
theorem exec_matrix_absent {s : State} {h : Here} {i : Instr} (hi : isMatrix i = true) (hc : s.cur = .path h.u)
    (hh : s.here h.u = some h) (hm : hintsMisused { matrix := true } h.p.hints = false) (hs : s.strap.hasMatrix = false) :
    exec i s = .next (s.takeTrap h.u { code := .absent }) := by
  obtain ⟨never, body, hx, -⟩ := exec_matrix hi
  have hd : decodeTrap s h { matrix := true } = some .absent := by simp [decodeTrap, hm, hs]
  rw [hx, matrixOp, knotOp_path hc hh, pathRun_decodeTrap hd]

/-- A matrix instruction of a knot without an engine (R217). -/
theorem exec_matrix_noEngine {s : State} {h : Here} {i : Instr} (hi : isMatrix i = true) (ha : Admits s h.u h { matrix := true })
    (hg : neverForm i = none) (hn : NoEngine s h) : exec i s = .next (s.takeTrap h.u { code := .matrix }) := by
  obtain ⟨never, body, hx, hnever⟩ := exec_matrix hi
  exact exec_of_trap ha (hx s) (hnever hg) (by rw [needEngine_noEngine hn]; rfl)

/-- A handle instruction of a knot without an engine (R238). -/
theorem exec_handle_noEngine {s : State} {h : Here} {i : Instr} (hi : isHandle i = true) (ha : Admits s h.u h .plain)
    (hn : NoEngine s h) : exec i s = .next (s.takeTrap h.u { code := .handle }) := by
  obtain ⟨body, hx⟩ := exec_handle hi
  exact exec_of_trap ha (hx s) rfl (by rw [needEngine_noEngine hn]; rfl)

/-- A movement instruction of a knot (R121). -/
theorem exec_movement_knot {s : State} {h : Here} {i : Instr} (hi : isMovement i = true) (ha : Admits s h.u h .plain) :
    exec i s = .next (s.takeTrap h.u { code := .illegal }) := by
  obtain ⟨mbody, hx⟩ := exec_movement hi
  exact exec_of_trap ha (hx s) rfl rfl

section Mover
variable {s : State} {m : MHere}

/-- An instruction whose body for a movement processor refuses it, whatever hints come before it. -/
theorem agentRun_illegal (hm : MovesOn s m) {f : InstrForm} {never : Bool} {body : State → Here → Res State}
    {mb : State → MHere → MRes State} (hb : mb s m = .error (.fault .illegal 0 0)) :
    agentRun f never body mb s = .next (s.moveFault m.c .illegal 0 0) := by
  rw [agentRun_mover hm.1 hm.2.1]
  unfold moverRun
  split
  · rfl
  · rw [hb]

/-- An instruction that only knots execute. -/
theorem knotOp_illegal (hm : MovesOn s m) {i : Instr} {f : InstrForm} {never : Bool} {body : State → Here → Res State}
    (hi : exec i s = knotOp f never body s) : exec i s = .next (s.moveFault m.c .illegal 0 0) :=
  hi.trans (agentRun_illegal hm rfl)

/-- A scalar operation of two sources with an fe bit set (R130). -/
theorem scal2_illegal (hm : MovesOn s m) {d a b : SReg} {e f : Bool} {op : DWord → DWord → DWord} (hf : (e || f) = true) :
    scal2 d a b e f op s = .next (s.moveFault m.c .illegal 0 0) :=
  agentRun_illegal hm (if_pos hf)

/-- A hint outside the movement subset (R130). -/
theorem hintWord_illegal (hm : MovesOn s m) (same : Hints → Bool) (put : Hints → Hints) :
    hintWord false same put s = .next (s.moveFault m.c .illegal 0 0) := by
  simp [hintWord, hm.1, hm.2.1]

/-- SRD of a special register that is none of the five of the movement subset (R130). -/
theorem moverSpecial_none {n : Special} (hn : ([.cycles, .hready, .stack, .core, .module] : List Special).contains n = false) :
    s.moverSpecial m n = none := by
  cases n
  case cycles | hready | stack | core | module => exact absurd hn (by decide)
  all_goals rfl

/-- A scalar instruction is outside the movement subset by an fe bit (R130). -/
theorem hasFe_of_outside {i : Instr} (hs : inSubset i = false) (hv : (scalarValue (fun _ => 0) none i).isSome = true) :
    hasFe i = true := by
  obtain ⟨hs, -⟩ := Bool.or_eq_false_iff.mp hs
  obtain ⟨-, hs⟩ := Bool.or_eq_false_iff.mp hs
  rw [hv, Bool.true_and, Bool.not_eq_false'] at hs
  exact hs

/-- An instruction outside the movement subset on a movement processor (R130, R241): the scalar majors are outside it by an fe bit, CALLI
too, SRD by its register; most others are instructions of knots only. -/
theorem exec_outside_subset (hm : MovesOn s m) {i : Instr} (he : (encode i).isSome = true) (hs : inSubset i = false) :
    exec i s = .next (s.moveFault m.c .illegal 0 0) := by
  cases i
  case sadd | ssub | smul | smulhI64 | smulhN64 | sand | sor | sxor | sshl | sshr | ssar | sminI64 | sminN64 | smaxI64 | smaxN64 | scmp =>
    have hf := hasFe_of_outside hs rfl
    dsimp only [exec]
    exact scal2_illegal hm hf
  case smov | ssel =>
    have hf := hasFe_of_outside hs rfl
    exact agentRun_illegal hm (if_pos hf)
  case calli a f e =>
    have hf : (!e) = false := (Bool.or_eq_false_iff.mp hs).2
    exact agentRun_illegal hm (if_pos (by simpa using hf))
  case srd r n =>
    have hn : s.moverSpecial m n = none := moverSpecial_none (Bool.or_eq_false_iff.mp hs).2
    exact agentRun_illegal hm (by rw [hn])
  case hintRnd | hintFmt => exact hintWord_illegal hm _ _
  -- of the movement subset
  case copy | copy2d | gather | scatter | mpwait | hset | hexp | mpfence | mpend | saddi | slih | sshlImm | sshrImm | ssarImm | bra | loop
      | nop | call | ret | hintImm | hintSched => exact absurd hs.symm Bool.false_ne_true
  -- events and commands, which no word encodes
  case siblingHalt | registerFill | hopLanding | parkedImageResume | parkSwitchOut | crewSwitchOut | watchdogExpiry | regroupWindowExpiry
      | postPerform | postAcknowledgement | hostAccess | copySector | matrixOperation | accgetGrant | movementFault | engineRelease
      | clutchRecordArrival | clutchTimer | launchRecordTake | knotPlacement | crewPlacement | stealMessage | launchCompletion
      | preemptionComplete | eccError | governorStep | resetModule | qreg | bindObject | lazyBind | shoot | keyload | circuit | pool
      | preempt | resume | haltstk | runstk | attest | devhashReport | wlist | signkey | unlistedCommand | illegalEncoding
      | fetchBeyondExtent | larzonConfigurationSpaceWrite | fabricPacketResend => exact absurd he Bool.false_ne_true
  all_goals exact knotOp_illegal hm rfl

end Mover

/-- Settles O25: E_ABSENT comes at decode, E_MATRIX, E_HANDLE and E_ILLEGAL from the bodies of the operations that the instructions are. -/
theorem engineRefusals : Obligations.EngineRefusals := by
  unfold Obligations.EngineRefusals
  refine ⟨fun s h i => ⟨fun hi hc hh hm => ⟨exec_matrix_absent hi hc hh hm, fun hs hg hp hn => ?_⟩, exec_handle_noEngine⟩,
    fun s h i ha hi => exec_movement_knot hi ha, fun s m i hm he hs => exec_outside_subset hm he hs⟩
  have hd : decodeTrap s h { matrix := true } = none := by simp [decodeTrap, hm, hs]
  exact exec_matrix_noEngine hi ⟨hc, hh, hd, .inr hp⟩ hg hn

end Sys2Proof.Claims
end

section
/-! PROOF. STS with the size B128, which no word encodes (R196): the 8 bytes of the scalar are all that it stores of the 16 that it accesses,
so that the upper 8 keep what they held. The statement about stores takes every size. -/
namespace Sys2Proof.Claims
open Sys2Proof.Machine

/-- A path of one lane with 9 in s1 and the address 0x1000 in s2, and its knot. -/
def wideCtx : Ctx :=
  { mask := 1, pc := 0x100, wrapped := false, fn := 0x100, base := 0, frames := [], scal := [(1, 9), (2, 0x1000)], vst := []
    sst := [(1, .full), (2, .full)], pst := [], mode := 0, fpstat := 0, posts := [], ponds := [], pushed := [], wd := 0, sent := 0, stamp := 1 }
def widePath : Path := newPath 1 0 (.resident { core := 0, part := 0, slot := 0, since := 0 }) false wideCtx
def wideKnot : Knot :=
  { launch := 1, module := 0, knotId := 0, nknots := 1, grant := 32, alloc := 64, brood := 1, crew := none, node := none, handling := none
    regs := { ptbase := 0, asid := 0, keysel := 1, vecbase := 0x10000, window := 1, watchdog := 0 }, vregs := [], preds := [], insts := []
    batch := 0, accs := [], baras := [], tag := 0, serving := false, reserved := 0, unseen := [] }
def wideHere : Here := { u := 1, p := widePath, k := wideKnot }

/-- Page 0 of the address space is page 0 of stack 0, with 7 at 0x1008, and the function of the path carries s1 and s2. -/
def wideMem : MemSt :=
  { MemSt.reset.writeBytes (some (.device 0 0)) 0x1008 [7] with
    tlb := [{ unit := 0, asid := 0, page := 0, pa := 0, key := 0, heap := false, w := true, rd := true }] }
def wideHeap : HeapSt :=
  { HeapSt.reset with
    fns := [(0x100, { size := 64, kind := .kernel
                      map := [{ offset := 0, vlive := 0, slive := 6, plive := 0, pond := none, callsite := false }] })] }
def wideState : State :=
  { State.reset with cur := .path 1, uid := 10, mem := wideMem, heap := wideHeap, knots := [(1, wideKnot)], paths := [(1, widePath)] }

/-- STS of s1 at s2 as 16 bytes, what it accesses, and its lane. -/
def wideStore : Instr := .sts false 1 2 false .b128 0
def wideData : List Byte := [9, 0, 0, 0, 0, 0, 0, 0]
def wideClaim : PointClaim :=
  { guard := 7, op := .store .b128, dest := .vec [], size := 16, need := { rd := false, w := true }, reads := [scalName 2, scalName 1]
    reqs := [(lowestOf wideCtx.mask, wideCtx.scalVal 2 + offsetOf wideHere 0 16, bytesOfNat (wideCtx.scalVal 1).toNat 8)] }
def wideLane : LaneAcc := { lane := 0, va := 0x1000, pa := 0x1000, key := some 0, data := wideData }

theorem memoryClaim_wideStore : memoryClaim wideHere wideStore = some wideClaim := rfl

theorem pointGoes_wideStore : PointGoes wideState wideHere wideClaim [wideLane] where
  admits := ⟨rfl, rfl, rfl, .inr rfl⟩
  guard := by decide
  reads := by decide +kernel
  aligned := by decide +kernel
  walks := ⟨by decide +kernel, by decide +kernel⟩
  lanes := by decide +kernel
  translated := by decide +kernel
  home := by decide +kernel
  rooted := nofun
  pond := nofun
  dest := nofun
  clear := by decide +kernel

theorem untouched_wideStore : Untouched wideState (MemSize.b128).bytes [wideLane] := by
  unfold Untouched
  decide +kernel

/-- The ninth of the 16 bytes keeps what it held. -/
theorem readByte_wideStore {t : State} (h : exec wideStore wideState = .next t) :
    t.mem.readByte (wideState.keyFor (some 0) 0x1000) 0x1008 = 7 := by
  have he : (match exec wideStore wideState with
    | .next t => t.mem.readByte (wideState.keyFor (some 0) 0x1000) 0x1008
    | _ => 0) = 7 := by decide +kernel
  rwa [h] at he

/-- Refutes O14: of STS with the size B128 the statement asks for 16 bytes of data, the last 8 of them 0, but the instruction has 8 to
store. -/
theorem not_memoryAccesses : ¬ Obligations.MemoryAccesses := by
  unfold Obligations.MemoryAccesses
  rintro ⟨-, hstore, -⟩
  obtain ⟨t, ht, -, hbytes⟩ := hstore wideState wideHere wideStore wideClaim .b128 [wideLane] memoryClaim_wideStore rfl pointGoes_wideStore
    untouched_wideStore (by decide +kernel) rfl
  have h0 : t.mem.readByte (wideState.keyFor (some 0) 0x1000) 0x1008 = 0 :=
    hbytes [] wideLane [] 8 rfl (by decide) (fun m hm => absurd hm List.not_mem_nil)
  rw [readByte_wideStore ht] at h0
  exact absurd h0 (by decide)

end Sys2Proof.Claims
end

section
/-! PROOF. What register death leaves of a path (R30). -/
namespace Sys2Proof.Claims
open Sys2Proof.Machine

/-- A path whose trap frame holds s30 as full: the model numbers the frame's copy of a scalar 32 above the scalar. -/
def framedPath : Path :=
  { widePath with ctx := { wideCtx with sst := [(62, .full)] } }

/-- Refutes O9: a path's death keeps the states of the scalars from 32 on, which are the trap frame's and which no carried set can name;
the statement asks that every register outside the set is dead. -/
theorem not_deathOutsideTheCarriedSet : ¬ Obligations.DeathOutsideTheCarriedSet := by
  unfold Obligations.DeathOutsideTheCarriedSet
  rintro ⟨-, hdie⟩
  have h := hdie framedPath { vec := [], scal := 0, pred := 0 } { file := .scal, num := 62 } (by unfold TablesRise; decide)
  exact absurd h (by decide)

end Sys2Proof.Claims
end

section
/-! PROOF. Two knots that pair at a REGROUP, where the table of paths lists one path twice (R51). -/
namespace Sys2Proof.Claims
open Sys2Proof.Machine

/-- A load into v0, not yet performed, of which lane 0 meets poison and lane 1 reads zero. -/
def poisonedLoad : Flight :=
  { id := 2, dest := .vec [0]
    fill := .access { op := .load .b32, dest := .vec [0], lanes := [wideLane, { wideLane with lane := 1, va := 0x1040, pa := 0x1040 }]
                      group := 0xFC } }

/-- The survivor: path 1 of knot 1, lanes 0 and 1, with 5 in both lanes of v0 and that load in flight. -/
def pairFirst : Here :=
  { u := 1
    p := { widePath with ctx := { wideCtx with mask := 3, vst := [(0, .full)] }, pend := .regroup 0 0 0 1, flights := [poisonedLoad] }
    k := { wideKnot with vregs := [(0, List.replicate 32 5)] } }
/-- The partner: path 2 of knot 2, lane 0. -/
def pairSecond : Here :=
  { u := 2
    p := { widePath with knot := 2, ctx := { wideCtx with vst := [(0, .full)] }, pend := .regroup 0 0 1 1
                         place := .resident { core := 0, part := 0, slot := 1, since := 1 } }
    k := { wideKnot with vregs := [(0, List.replicate 32 6)] } }

/-- The cycle of the arrivals has passed; the table of paths lists path 1 again, as a path of knot 2. -/
def pairState : State :=
  { wideState with
    mem := { wideMem with poison := [0x80] }
    stks := [(0, { (wideState.stk 0) with cycles := 1 })]
    knots := [(1, pairFirst.k), (2, pairSecond.k)]
    paths := [(1, pairFirst.p), (2, pairSecond.p), (1, { pairSecond.p with pend := .none })] }

/-- Lane 1 of the survivor's v0 is then what the load read. -/
theorem lane_pairState {t : State} {q : Path} {k : Knot} (ht : exec (.regroupWindowExpiry 1) pairState = .next t)
    (hk : t.here 1 = some { u := 1, p := q, k := k }) : k.lane 0 1 = 0 := by
  have he : (match exec (.regroupWindowExpiry 1) pairState with
    | .next t => (t.here 1).map fun h => h.k.lane 0 1
    | _ => none) = some 0 := by decide +kernel
  simpa only [ht, hk, Option.map_some, Option.some.injEq] using he

theorem mayPair_pairState : MayPair pairFirst pairSecond 0 0 0 0 1 1 1 :=
  ⟨rfl, rfl, by decide, rfl, rfl, rfl, rfl, rfl, rfl⟩

/-- Refutes O11: the clause of a pair does not ask that the table of paths lists each path once. Where it lists the survivor again as a path
of the partner's knot, the end of that knot performs a load that the survivor has in flight, and its v0 does not keep its lanes. -/
theorem not_regroupingCompletes : ¬ Obligations.RegroupingCompletes := by
  unfold Obligations.RegroupingCompletes
  rintro ⟨-, hpair⟩
  obtain ⟨t, q, k, ht, hk, -, -, -, -, -, hregs, -⟩ :=
    (hpair pairState pairFirst pairSecond 0 0 0 0 1 1 1 { core := 0, part := 0, slot := 0, since := 0 } rfl rfl rfl mayPair_pairState
      (by decide +kernel) (by decide) (by decide) rfl).1 (by decide +kernel)
  obtain ⟨-, hlanes, -⟩ := hregs 0 (by decide) (by decide) (by decide)
  have h5 := hlanes 1 (by decide +kernel)
  rw [lane_pairState ht hk] at h5
  exact absurd h5 (by decide +kernel)

end Sys2Proof.Claims
end

section
/-! PROOF. The end of the last path of a crew knot (R188). -/
namespace Sys2Proof.Claims
open Sys2Proof.Machine

/-- A crew of no engine and of `size` slots. -/
def bareCrew (size : Nat) : Crew :=
  { launch := 1, index := 0, home := 0, place := .core 0, size := size, members := [1], ended := [], padSize := 0, pad := [], next := []
    regions := [], parity := [], writers := [], arrived := [], collided := none, decision := 0, poison := [], leaving := false
    engine := none }

/-- The knot of the state above as slot 0 of crew 1, in a state whose table of crews lists crew 1 twice. -/
def crewHere : Here := { wideHere with k := { wideKnot with crew := some (1, 0) } }
def twiceCrew : State := { wideState with knots := [(1, crewHere.k)], crews := [(1, bareCrew 1), (1, bareCrew 2)] }

/-- The crew that the table still lists after the end of its knot has no slot ended. -/
theorem crew_dropKnot_twiceCrew : spFind 1 (twiceCrew.dropKnot 1).crews = some (bareCrew 2) := by decide +kernel

/-- Refutes O12: the clause of a crew does not ask that the table of crews lists each crew once. Of a table that lists crew 1 twice, the
first is taken out once all its slots have ended, and the second, none of whose slots has ended, is then what the table has for crew 1. -/
theorem not_endCompletes : ¬ Obligations.EndCompletes := by
  unfold Obligations.EndCompletes
  intro hend
  obtain ⟨hlast, -⟩ := hend twiceCrew crewHere ⟨rfl, rfl, by decide +kernel, .inr rfl⟩ nofun
  obtain ⟨-, -, -, -, hcrew⟩ := hlast (by decide +kernel) (by decide +kernel)
  obtain ⟨-, hslot⟩ := hcrew 1 0 rfl (by decide +kernel) (by decide +kernel)
  exact absurd (hslot _ crew_dropKnot_twiceCrew).1 (by decide)

end Sys2Proof.Claims
end

section
/-! PROOF. A hop of a path that has an access in flight which may not be performed yet (R68, R75). -/
namespace Sys2Proof.Claims
open Sys2Proof.Machine

/-- A post of knot 1 that its home, stack 0, has not performed. -/
def sentPost : Post :=
  { id := 1, launch := 1, knot := 1, path := 1, home := 0, stream := 0, seq := 1, op := .store, code := 0, type := 0, va := 0x2000
    pa := 0x2000, key := none, asid := 0, lane := 0, data := [1, 0, 0, 0], stamp := 1, window := 1 }

/-- A load into v0 that was issued after that post and comes after it. -/
def loadAfterPost : Flight :=
  { id := 2, dest := .vec [0]
    fill := .access { op := .load .b32, dest := .vec [0], lanes := [wideLane], group := 0xFC, after := [{ home := 0, stream := 0, seq := 1 }] } }

/-- The path and the state above with that load and that post, page 0 at stack 3, and an issue that accesses later. -/
def hopHere : Here :=
  { wideHere with p := { widePath with ctx := { wideCtx with vst := [(0, .empty)] }, flights := [loadAfterPost] } }
def hopMem : MemSt :=
  { wideMem with tlb := [{ unit := 0, asid := 0, page := 0, pa := 3 * 2 ^ 38, key := 0, heap := false, w := true, rd := true }] }
def hopState : State :=
  { wideState with late := true, mem := hopMem, paths := [(1, hopHere.p)], flow := { FlowSt.reset with posts := [sentPost] } }
def hopLane : LaneAcc := { wideLane with pa := 3 * 2 ^ 38 + 0x1000 }

/-- The path stays in its seat: the hop waits until the load may be performed. -/
theorem place_hopState {t : State} {q : Path} (ht : exec wideStore hopState = .next t) (hq : t.path? 1 = some q) :
    q.place = widePath.place := by
  have he : (match exec wideStore hopState with
    | .next t => (t.path? 1).map (·.place)
    | _ => none) = some widePath.place := by decide +kernel
  simpa only [ht, hq, Option.map_some, Option.some.injEq] using he

/-- Refutes O15: the clause of a hop does not ask that the accesses the path had issued may be performed. Where one of them still comes
after a post, the path waits where it is; the statement asks that it leaves. -/
theorem not_memoryPointStops : ¬ Obligations.MemoryPointStops := by
  unfold Obligations.MemoryPointStops
  rintro ⟨-, hhop, -⟩
  obtain ⟨t, q, ht, hq, hplace, -⟩ := hhop hopState hopHere wideStore wideClaim [hopLane] 3 rfl
    ⟨⟨rfl, rfl, by decide +kernel, .inl rfl⟩, by decide, by decide +kernel⟩ (by decide) (by decide +kernel)
    ⟨by decide +kernel, by decide +kernel⟩ (by decide) (by decide +kernel) (by decide +kernel) (by decide +kernel) (by decide) (by decide)
    rfl nofun nofun (by decide +kernel)
  rw [place_hopState ht hq] at hplace
  exact absurd hplace (by decide)

end Sys2Proof.Claims
end

section
/-! PROOF. Events of a path: values that arrive, halts, the watchdog, and the end of a REGROUP window (R25, R50, R53, R283). -/
namespace Sys2Proof.Machine

/-- A path's context after vector registers become full. -/
def Ctx.fillVecs (c : Ctx) (rs : List Nat) : Ctx :=
  { c with vst := rs.foldl (fun m r => spSet .dead m r .full) c.vst }

/-- Vector registers after values have arrived for some lanes of each of `rs`. -/
def fillRegs (grant : Nat) (vals : List (Nat × List (Nat × Word))) (rs : List Nat) (m : Sparse (List Word)) : Sparse (List Word) :=
  rs.foldl (fun m r => spPut r (fillLanes grant (spGet [] m r) (((vals.find? fun e => e.1 == r).map (·.2)).getD [])) m) m

theorem Ctx.vecState_fillVecs (rs : List Nat) : ∀ (c : Ctx) (r : Nat),
    (c.fillVecs rs).vecState r = if r ∈ rs then .full else c.vecState r := by
  induction rs with
  | nil => intro c r; simp [Ctx.fillVecs]
  | cons a rs ih =>
    intro c r
    have h1 := ih { c with vst := spSet .dead c.vst a .full } r
    simp only [Ctx.fillVecs, Ctx.vecState, List.foldl_cons, spGet_spSet_of_ne (show RegState.full ≠ .dead by decide),
      List.mem_cons] at h1 ⊢
    rw [h1]
    by_cases hr : r ∈ rs <;> by_cases ha : r = a <;> simp [hr, ha]

/-- The registers of a path that arriving values fill, one after the other. -/
theorem foldl_setState_full (rs : List Nat) : ∀ p : Path,
    rs.foldl (fun p r => { p with ctx := p.ctx.setState { file := .vec, num := r } .full }) p = { p with ctx := p.ctx.fillVecs rs } := by
  induction rs with
  | nil => intro p; rfl
  | cons a rs ih => intro p; exact ih _

theorem spGet_fillRegs_of_notMem {grant : Nat} {vals : List (Nat × List (Nat × Word))} {r : Nat} :
    ∀ {rs : List Nat} (m : Sparse (List Word)), r ∉ rs → spGet [] (fillRegs grant vals rs m) r = spGet [] m r := by
  intro rs
  induction rs with
  | nil => intro m _; rfl
  | cons a rs ih =>
    intro m hr
    rw [List.mem_cons, not_or] at hr
    exact (ih _ hr.2).trans (by rw [spGet_spPut, if_neg hr.1])

/-- The lane of a register that values arrive for: its value where one arrives, and otherwise what it was. -/
theorem getD_fillLanes {grant l : Nat} (hl : l < grant) (old : List Word) (vals : List (Nat × Word)) :
    (fillLanes grant old vals).getD l 0 = Claims.filledLane (old.getD · 0) vals l := by
  unfold fillLanes Claims.filledLane
  rw [List.getD_eq_getElem _ _ (by simpa using hl)]
  simp only [List.getElem_map, List.getElem_range]
  cases vals.find? fun e => e.1 == l <;> rfl

/-- Filling a register again with the same values changes nothing. -/
theorem filledLane_filledLane (old : Nat → Word) (vals : List (Nat × Word)) (l : Nat) :
    Claims.filledLane (Claims.filledLane old vals) vals l = Claims.filledLane old vals l := by
  unfold Claims.filledLane
  cases vals.find? fun e => e.1 == l <;> rfl

theorem filledLane_congr {f g : Nat → Word} (vals : List (Nat × Word)) {l : Nat} (h : f l = g l) :
    Claims.filledLane f vals l = Claims.filledLane g vals l := by
  unfold Claims.filledLane
  rw [h]

theorem getD_fillRegs {grant l r : Nat} (hl : l < grant) {vals : List (Nat × List (Nat × Word))} :
    ∀ {rs : List Nat} (m : Sparse (List Word)), r ∈ rs → (spGet [] (fillRegs grant vals rs m) r).getD l 0 =
      Claims.filledLane ((spGet [] m r).getD · 0) (((vals.find? fun e => e.1 == r).map (·.2)).getD []) l := by
  intro rs
  induction rs with
  | nil => intro m hr; exact absurd hr List.not_mem_nil
  | cons a rs ih =>
    intro m hr
    by_cases har : r = a
    · subst har
      set vs := ((vals.find? fun e => e.1 == r).map (·.2)).getD []
      have hm : ∀ i < grant, (spGet [] (spPut r (fillLanes grant (spGet [] m r) vs) m) r).getD i 0 =
          Claims.filledLane ((spGet [] m r).getD · 0) vs i := fun i hi => by
        rw [spGet_spPut, if_pos rfl, getD_fillLanes hi]
      by_cases hin : r ∈ rs
      · exact (ih _ hin).trans ((filledLane_congr _ (hm l hl)).trans (filledLane_filledLane _ _ l))
      · exact (congrArg (·.getD l 0) (spGet_fillRegs_of_notMem _ hin)).trans (hm l hl)
    · have hin : r ∈ rs := (List.mem_cons.mp hr).resolve_left har
      exact (ih _ hin).trans (by rw [spGet_spPut, if_neg har])

/-- Lane values that arrive at a path (R25). -/
theorem State.fill_lanes {s : State} {u : Nat} {h : Here} (hh : s.here u = some h) {f : Flight} {rs : List Nat}
    {vals : List (Nat × List (Nat × Word))} (hd : f.dest = .vec rs) (hf : f.fill = .lanes vals) :
    (s.fill u f).here u = some
      { u := h.u, k := { h.k with vregs := fillRegs h.k.grant vals rs h.k.vregs }
        p := { h.p with flights := h.p.flights.filter (·.id != f.id), ctx := h.p.ctx.fillVecs rs } } ∧ (s.fill u f).mem = s.mem := by
  have h1 := State.here_modPath hh (f := fun p => { p with flights := p.flights.filter (·.id != f.id) }) rfl
  have h2 := State.here_modKnot h1 fun k => { k with vregs := fillRegs k.grant vals rs k.vregs }
  have h3 := State.here_modPath h2
    (f := fun p => rs.foldl (fun p r => { p with ctx := p.ctx.setState { file := .vec, num := r } .full }) p)
    (by simp only [foldl_setState_full])
  simp only [foldl_setState_full] at h3
  have hfill : s.fill u f = ((s.modPath u fun p => { p with flights := p.flights.filter (·.id != f.id) }).modKnot h.p.knot
      fun k => { k with vregs := fillRegs k.grant vals rs k.vregs }).modPath u fun p =>
        rs.foldl (fun p r => { p with ctx := p.ctx.setState { file := .vec, num := r } .full }) p := by
    unfold State.fill
    simp only [hh, hf, hd]
    rfl
  rw [hfill]
  exact ⟨by simp only [foldl_setState_full]; exact h3, rfl⟩

/-- A scalar value that arrives at a path (R25). -/
theorem State.fill_scal {s : State} {u : Nat} {h : Here} (hh : s.here u = some h) {f : Flight} {n : Nat} {v : DWord}
    (hd : f.dest = .scal n) (hf : f.fill = .scal v) :
    (s.fill u f).here u = some { h with p := { h.p with
      flights := h.p.flights.filter (·.id != f.id)
      ctx := (h.p.ctx.setScal n v).setState { file := .scal, num := n } .full } } := by
  have hfill : s.fill u f = (s.modPath u fun p => { p with flights := p.flights.filter (·.id != f.id) }).modPath u
      fun p => { p with ctx := (p.ctx.setScal n v).setState { file := .scal, num := n } .full } := by
    unfold State.fill
    simp only [hh, hf, hd]
  rw [hfill]
  exact State.here_modPath (State.here_modPath hh rfl) rfl

/-- REGISTER_FILL of a value that has no access left to perform. -/
theorem execRegisterFill_of_value {s : State} {h : Here} (hh : s.here h.u = some h) {f : Flight}
    (hfind : (h.p.flights.find? fun x => x.id == f.id) = some f) (hv : ∀ a, f.fill ≠ .access a) :
    execRegisterFill h.u f.id s = .next (s.fill h.u f).bump := by
  unfold execRegisterFill event
  simp only [State.path?_of_here hh, hfind]
  split
  · exact absurd ‹_› (hv _)
  · exact absurd ‹_› (hv _)
  · rfl

/-- What continuing after an issue group leaves on the path (R124). -/
theorem State.here_release {s : State} {u : Nat} {h : Here} (hh : s.here u = some h) :
    (s.release u).here u = some { h with p := { h.issued s.serial with ctx := { (h.issued s.serial).ctx with
      pc := h.p.ctx.pc + BitVec.ofNat 48 (4 * s.heap.groupWords h.p.ctx.pc), wrapped := false
      wd := if h.p.super then h.p.ctx.wd else 0 } } } := by
  unfold State.release Here.issued
  rw [State.here_bump, ← State.limitOf_here hh]
  exact State.here_modPath hh rfl

/-- A path whose REGROUP is over: the value in its destination, and the next issue group (R51, R177). -/
theorem State.here_regrouped {s : State} {h : Here} (hh : s.here h.u = some h) (d : Nat) (v : DWord) :
    (s.regrouped h.u d v).here h.u = some { h with p := { h.issued s.serial with
      faults := dropFault { file := .scal, num := d } h.p.faults
      ctx := { (h.p.ctx.setScal d v).setState { file := .scal, num := d } .full with
        wd := h.counted, sent := 0, wrapped := false
        pc := h.p.ctx.pc + BitVec.ofNat 48 (4 * s.heap.groupWords h.p.ctx.pc) } } } := by
  have h1 := State.here_release (State.here_writeScal hh d v)
  have h2 := State.here_modPath h1 (f := fun p => { p with ctx := { p.ctx with wd := h.counted } }) rfl
  unfold State.regrouped
  rw [State.path?_of_here hh]
  simp only [State.limitOf_here hh]
  refine h2.trans ?_
  simp only [Path.mark, Here.issued, Path.issued, Ctx.pc_setState, Ctx.pc_setScal]
  rfl

theorem State.mem_regrouped (s : State) (u d : Nat) (v : DWord) : (s.regrouped u d v).mem = s.mem := by
  unfold State.regrouped
  split <;> rfl

/-- A path with no group word or trap pending, that runs and whose count is at its limit, is E_RUNAWAY. -/
theorem execWatchdogExpiry_runs {s : State} {h : Here} (hh : s.here h.u = some h)
    (hr : (s.running h.p && h.p.atWord && h.runaway) = true) :
    execWatchdogExpiry h.u s = .next (s.takeTrap h.u { code := .runaway }) := by
  simp only [execWatchdogExpiry, event, hh, hr, if_true]

theorem execWatchdogExpiry_not {s : State} {h : Here} (hh : s.here h.u = some h)
    (hr : (s.running h.p && h.p.atWord && h.runaway) = false) : execWatchdogExpiry h.u s = .next s := by
  simp only [execWatchdogExpiry, event, hh, hr, Bool.false_eq_true, if_false]

end Sys2Proof.Machine

namespace Sys2Proof.Claims
open Sys2Proof.Machine

/-- Settles O41: each event leaves on the path what its operation does there, which the laws of the path's tables read back. -/
theorem pathEvents : Obligations.PathEvents := by
  unfold Obligations.PathEvents
  intro s h hh
  refine ⟨?lanes, ?scalar, ?halts, ?runaway, ?waits, ?window⟩
  case lanes =>
    intro f rs vals hfind hd hf
    obtain ⟨ht, hmem⟩ := State.fill_lanes hh hd hf
    refine ⟨_, _, _, execRegisterFill_of_value hh hfind (by simp [hf]), ht, ?_, ?_, rfl, rfl, rfl, hmem⟩
    · exact fun r hr => ⟨(Ctx.vecState_fillVecs rs _ r).trans (if_pos hr), fun l hl => getD_fillRegs hl h.k.vregs hr⟩
    · exact fun r hr => ⟨(Ctx.vecState_fillVecs rs _ r).trans (if_neg hr), spGet_fillRegs_of_notMem h.k.vregs hr⟩
  case scalar =>
    intro f n v hfind hd hf hn
    have hst : ∀ j, ((h.p.ctx.setScal n v).setState { file := .scal, num := n } .full).scalState j =
        if j = n then .full else h.p.ctx.scalState j := fun j => by
      have := Ctx.stateOf_setState_full (h.p.ctx.setScal n v) { file := .scal, num := n } { file := .scal, num := j }
      rw [Ctx.stateOf_setScal] at this
      simpa [Ctx.stateOf] using this
    refine ⟨_, _, execRegisterFill_of_value hh hfind (by simp [hf]), State.fill_scal hh hd hf, ?_, (hst n).trans (if_pos rfl), ?_, ?_⟩
    · exact (Ctx.scalVal_setState _ _ _ n).trans ((Ctx.scalVal_setScal _ _ _ _).trans (if_pos ⟨rfl, hn⟩))
    · exact fun j hj => ⟨(Ctx.scalVal_setState _ _ _ j).trans ((Ctx.scalVal_setScal _ _ _ _).trans (if_neg (hj ·.1))),
        (hst j).trans (if_neg hj)⟩
    · simp only [Ctx.setState, Ctx.setScal, if_neg hn]
  case halts =>
    intro n hn
    refine ⟨(s.modPath h.u fun p => p.halted n (s.limitOf p.knot)).bump, _, ?_, State.here_modPath hh rfl, ?_,
      (s.sameRest_modPath _ _ _).trans (State.sameRest_bump _ _ _), rfl⟩
    · show execSiblingHalt h.u s = _
      simp only [execSiblingHalt, event, State.path?_of_here hh, hn]
    · simp only [State.limitOf_here hh, Path.halted, Path.rewind]
  case runaway =>
    intro seat hplace hw hwd hsup hwords hheld hpend hhalt hopen hknot
    refine execWatchdogExpiry_runs hh ?_
    have hruns : s.running h.p = true := by
      unfold State.running
      rw [hplace, hopen, hknot]
      cases hh' : h.p.halt with
      | halted n => exact absurd hh' (hhalt n)
      | running => rfl
      | halting n => rfl
    have hat : h.p.atWord = true := by simp [Path.atWord, hwords, hheld, hpend]
    have haway : h.runaway = true := by simpa [Here.runaway, hwd, hsup] using hw
    rw [hruns, hat, haway]
    rfl
  case waits =>
    intro hor
    refine execWatchdogExpiry_not hh ?_
    rcases hor with hheld | ⟨n, hn⟩ | hopen | hwords
    · simp [Path.atWord, hheld]
    · simp [State.running, hn]
    · simp [State.running, hopen]
    · simp [Path.atWord, hwords]
  case window =>
    intro key c o d seat hpend hplace hover hpair
    have ht := State.here_regrouped hh d 0
    refine ⟨_, _, ?_, ht, rfl, rfl, rfl, ?_, ?_, ?_, State.mem_regrouped s h.u d 0⟩
    · show execRegroupWindowExpiry h.u s = _
      simp only [execRegroupWindowExpiry, event, State.path?_of_here hh, hpend, hplace, hpair, if_pos hover]
    · intro n
      exact (Ctx.scalVal_setState _ _ _ n).trans (Ctx.scalVal_setScal _ _ _ _)
    · simp only [Ctx.setState, Ctx.setScal]; split <;> rfl
    · simp only [Ctx.setState, Ctx.setScal]; split <;> rfl

end Sys2Proof.Claims
end

section
/-! PROOF. Landing, parking, resumption and switch-out (R32 to R37, R294, R332). -/
namespace Sys2Proof.Machine

/-- Two states that differ in memory at most. -/
def State.OnlyMem (s t : State) : Prop := t = { s with mem := t.mem }

theorem State.OnlyMem.trans {s t r : State} (h : s.OnlyMem t) (h' : t.OnlyMem r) : s.OnlyMem r := by
  unfold State.OnlyMem at *
  rw [h', h]

theorem State.onlyMem_recall (s : State) (wr : Bool) (pa n : Nat) : s.OnlyMem (s.recall wr pa n) := by
  unfold State.OnlyMem State.recall
  split <;> rfl

theorem State.onlyMem_zoneWrite (s : State) (home off : Nat) (bs : List Byte) : s.OnlyMem (s.zoneWrite home off bs) :=
  (s.onlyMem_recall true (zoneAddr home off) bs.length).trans rfl

theorem State.onlyMem_takeArea {s t : State} {home off : Nat} {a : Area} (h : s.takeArea home a = some (off, t)) : s.OnlyMem t := by
  unfold State.takeArea at h
  dsimp only at h
  split at h
  · cases h; rfl
  · cases h

theorem State.onlyMem_takeFirst {s : State} {a : Area} {r : Nat × Nat × State} :
    ∀ {hs : List Nat}, s.takeFirst a hs = some r → s.OnlyMem r.2.2
  | [], h => by cases h
  | x :: xs, h => by
    unfold State.takeFirst at h
    split at h
    · next ht => cases h; exact State.onlyMem_takeArea ht
    · exact State.onlyMem_takeFirst h

theorem State.onlyMem_placeImage {s : State} {kn m home len : Nat} {k : AreaKind} {r : Nat × Nat × State}
    (h : s.placeImage kn m home len k = some r) : s.OnlyMem r.2.2 := by
  unfold State.placeImage at h
  dsimp only at h
  split at h
  · next hr =>
    cases h
    split at hr
    · exact State.onlyMem_takeFirst hr
    · cases hr
  · exact State.onlyMem_takeFirst h

theorem State.onlyMem_storeBytes {s : State} {kn m home : Nat} {k : AreaKind} {bs : List Byte} {r : Nat × Nat × State}
    (h : s.storeBytes kn m home k bs = some r) : s.OnlyMem r.2.2 := by
  obtain ⟨y, hy, rfl⟩ := Option.map_eq_some_iff.mp h
  exact (State.onlyMem_placeImage hy).trans (State.onlyMem_zoneWrite _ _ _ _)

/-- Storing an image takes an identity and a choice, and changes memory (R37). -/
theorem State.onlyMem_storeImage {s : State} {h : Here} {w v : Bool} {k : AreaKind} {r : Stored × State}
    (e : s.storeImage h w v k = some r) : (s.pick 129).2.newId.2.OnlyMem r.2 := by
  unfold State.storeImage at e
  extract_lets x at e
  clear_value x
  obtain ⟨z, hz, rfl⟩ := Option.map_eq_some_iff.mp e
  exact State.onlyMem_storeBytes hz

theorem State.pick_snd_paths (s : State) (n : Nat) : (s.pick n).2.paths = s.paths := by
  rw [State.pick_snd]

theorem State.paths_storeImage {s : State} {h : Here} {w v : Bool} {k : AreaKind} {r : Stored × State}
    (e : s.storeImage h w v k = some r) : r.2.paths = s.paths := by
  rw [State.onlyMem_storeImage e]
  exact s.pick_snd_paths 129

/-- A path whose image is stored has the place that the image gives it. -/
theorem State.path?_imageOut {s t : State} {u : Nat} {service : Bool} {place : Stored → Place} (h : s.imageOut u service place = some t) :
    ∃ q img, t.path? u = some q ∧ q.place = place img := by
  unfold State.imageOut at h
  dsimp only at h
  split at h
  · cases h
  · split at h
    · cases h
    · next x hx =>
      obtain ⟨r, hr, rfl⟩ := Option.map_eq_some_iff.mp h
      have hp : r.2.path? u = some x.p := by
        unfold State.path?
        rw [State.paths_storeImage hr]
        exact State.path?_of_here hx
      exact ⟨_, r.1, by rw [State.path?_modPath_same, hp]; rfl, rfl⟩

theorem mem_insertBy {α : Type} (lt : α → α → Bool) (a x : α) : ∀ l : List α, x ∈ insertBy lt a l ↔ x = a ∨ x ∈ l
  | [] => by simp [insertBy]
  | b :: bs => by
    unfold insertBy
    split
    · exact List.mem_cons
    · rw [List.mem_cons, mem_insertBy lt a x bs, List.mem_cons]
      exact or_left_comm

/-- A sorted list has the elements of the list. -/
theorem mem_sortBy {α : Type} (lt : α → α → Bool) (x : α) (l : List α) : x ∈ sortBy lt l ↔ x ∈ l := by
  have hfold : ∀ (l acc : List α), x ∈ l.foldl (fun acc a => insertBy lt a acc) acc ↔ x ∈ acc ∨ x ∈ l := by
    intro l
    induction l with
    | nil => simp
    | cons a l ih =>
      intro acc
      rw [List.foldl_cons, ih, mem_insertBy, List.mem_cons]
      tauto
  exact (hfold l []).trans (by simp)

/-- The crews that have to leave are crews of the stack's cores. -/
theorem State.mem_crewOrder_of_leavers {s : State} {home : Nat} {e : Nat × Crew} (h : e ∈ s.leavers home) : e ∈ s.crewOrder home := by
  unfold State.leavers at h
  dsimp only at h
  split at h
  · exact (List.mem_filter.mp h).1
  · split at h
    · exact h
    · exact absurd h List.not_mem_nil

/-- With no crew on a withdrawn core, every crew has to leave for an image that has waited while no blocked knot is left (R35, R332). -/
theorem State.leavers_of_starved {s : State} {home : Nat} (hw : ∀ x ∈ (s.stk home).withdrawn, s.crewsOn home x = [])
    (hst : s.starved home 262144 = true) (hi : s.nextIdle home = none) : s.leavers home = s.crewOrder home := by
  unfold State.leavers
  dsimp only
  split
  · next hgone =>
    obtain ⟨e, he⟩ := List.isEmpty_eq_false_iff_exists_mem.mp ((Bool.not_eq_true' _).mp hgone)
    obtain ⟨horder, hcore⟩ := List.mem_filter.mp he
    obtain ⟨hmem, hhome⟩ := List.mem_filter.mp ((mem_sortBy _ _ _).mp horder)
    rw [Bool.and_eq_true] at hhome
    cases hp : e.2.place with
    | stored img => simp [hp] at hcore
    | core c =>
      have hin : c ∈ (s.stk home).withdrawn := by simpa [hp] using hcore
      have hon : e ∈ s.crewsOn home c := List.mem_filter.mpr ⟨hmem, by simp [hhome.1, hp]⟩
      rw [hw c hin] at hon
      exact absurd hon List.not_mem_nil
  · rw [hst, hi]
    rfl

/-- A crew that can be stored has no access left that may not be performed. -/
theorem State.crewStill_of_storeCrew {s t : State} {c : Nat} {w : Crew} (h : s.storeCrew c w = some t) (hq : w.quiet = true) :
    s.crewStill w = true := by
  unfold State.storeCrew at h
  dsimp only at h
  split at h
  · cases h
  · next h1 =>
    unfold State.crewStill
    rw [hq, Bool.true_and]
    by_contra hn
    rw [if_neg hn] at h1
    cases h1

theorem State.crewStill_of_not_quiet (s : State) {w : Crew} (h : w.quiet = false) : s.crewStill w = false := by
  unfold State.crewStill
  rw [h, Bool.false_and]

/-- The first of some crews is stored when it can be. -/
theorem State.storeNext_stored {s t : State} {c : Nat} {w : Crew} (rest : List (Nat × Crew)) (hq : w.quiet = true)
    (h : s.storeCrew c w = some t) : s.storeNext ((c, w) :: rest) = t.bump := by
  unfold State.storeNext
  simp only [State.crewStill_of_storeCrew h hq, h, Bool.not_true, Bool.false_eq_true, if_false]

/-- The first of some crews leaves from now on when its engine is not at its units. -/
theorem State.storeNext_leaving {s : State} {c : Nat} {w : Crew} (rest : List (Nat × Crew)) (hq : w.quiet = false)
    (hl : w.leaving = false) : s.storeNext ((c, w) :: rest) = (s.modCrew c fun w => { w with leaving := true }).bump := by
  unfold State.storeNext
  simp only [s.crewStill_of_not_quiet hq, hl, Bool.not_false, if_true, Bool.false_eq_true, if_false]

/-- CREW_SWITCH_OUT where no crew is leaving yet: the first that has to leave. -/
theorem execCrewSwitchOut_first {s : State} {home : Nat} (ho : s.open? home = true) (hl : ∀ e ∈ s.crewOrder home, e.2.leaving = false) :
    execCrewSwitchOut home s = .next (s.storeNext (s.leavers home)) := by
  have hdrop : (s.leavers home).dropWhile (fun e => !e.2.leaving) = [] :=
    List.dropWhile_eq_nil_iff.mpr fun e he => by simp [hl e (State.mem_crewOrder_of_leavers he)]
  have hany : (s.crewOrder home).any (·.2.leaving) = false := List.any_eq_false.mpr fun e he => by simp [hl e he]
  simp only [execCrewSwitchOut, event, ho, hdrop, hany, Bool.not_true, Bool.false_eq_true, if_false]

/-- CREW_SWITCH_OUT where a crew is leaving: it goes on first. -/
theorem execCrewSwitchOut_leaving {s : State} {home c : Nat} {w : Crew} {before rest : List (Nat × Crew)} (ho : s.open? home = true)
    (hs : s.leavers home = before ++ (c, w) :: rest) (hb : ∀ e ∈ before, e.2.leaving = false) (hl : w.leaving = true) :
    execCrewSwitchOut home s = .next (if s.crewStill w then (s.storeNext ((c, w) :: rest)).bump else s) := by
  have hdrop : (s.leavers home).dropWhile (fun e => !e.2.leaving) = (c, w) :: rest := by
    rw [hs, List.dropWhile_append_of_pos fun e he => by simp [hb e he], List.dropWhile_cons_of_neg (by simp [hl])]
  simp only [execCrewSwitchOut, event, ho, hdrop, Bool.not_true, Bool.false_eq_true, if_false]

/-- HOP_LANDING of a hop that is neither discarded nor held up: it takes the seat that it finds, or is stored. -/
theorem execHopLanding_arrives {s : State} {h : Here} {dest core : Nat} (hh : s.here h.u = some h) (hp : h.p.place = .flying dest)
    (hb : s.cancelledBrood h.k.brood = false) (hd : (s.stk dest).halted = false) :
    execHopLanding h.u core s = .next
      (match if s.anyParked dest || (s.mod (dest / 16)).preempt == .stopped then none else s.coreFor dest core h.k.regBytes with
      | some c => ((s.modPath h.u fun p => { p with home := dest }).sitDown h.u dest c).bump
      | none => match (s.modPath h.u fun p => { p with home := dest }).imageOut h.u false .parked with
        | some s2 => s2.bump
        | none => s) := by
  simp only [execHopLanding, event, hh, hp, hb, hd, Bool.false_eq_true, if_false]
  rfl

theorem State.sitDown_of_seat {s : State} {u home core : Nat} {seat : Seat} (h : s.seatOn home core = some seat) :
    s.sitDown u home core = s.modPath u fun p => { p with home := home, place := .resident seat, wait := none, blockedAt := none } := by
  unfold State.sitDown
  rw [h]

end Sys2Proof.Machine

namespace Sys2Proof.Claims
open Sys2Proof.Machine

/-- Settles O42: each event is read off under the conditions that select its case; a landed path and a stored one keep the rest of the
state by the laws of what they change. -/
theorem landingAndParking : Obligations.LandingAndParking := by
  unfold Obligations.LandingAndParking
  intro s
  refine ⟨?hop, ?resume, ?parkOut, ?crewOut⟩
  case hop =>
    intro h dest core hh hp
    refine ⟨fun hb => ?_, fun hb hd => ?_, fun hb hd => ⟨?_, ?_⟩⟩
    · show execHopLanding h.u core s = _
      simp only [execHopLanding, event, hh, hp, hb, if_true]
    · show execHopLanding h.u core s = _
      simp only [execHopLanding, event, hh, hp, hb, hd, Bool.false_eq_true, if_false, if_true]
    · intro c seat hparked hpre hcore hseat
      have hpre' : ((s.mod (dest / 16)).preempt == .stopped) = false := by simpa using hpre
      refine ⟨((s.modPath h.u fun p => { p with home := dest }).modPath h.u fun p =>
        { p with home := dest, place := .resident seat, wait := none, blockedAt := none }).bump,
        (execHopLanding_arrives hh hp hb hd).trans ?_, ?_, ?_, rfl⟩
      · simp only [hparked, hpre', hcore, Bool.or_self, Bool.false_eq_true, if_false, State.sitDown_of_seat hseat]
      · exact State.here_modPath (State.here_modPath hh rfl) rfl
      · exact ((s.sameRest_modPath _ _ _).trans (State.sameRest_modPath _ _ _ _)).trans (State.sameRest_bump _ _ _)
    · intro t hnone himg
      have hseat : (if s.anyParked dest || (s.mod (dest / 16)).preempt == .stopped then none
          else s.coreFor dest core h.k.regBytes) = none := by
        split
        · rfl
        · next hn =>
          rw [Bool.or_eq_true, beq_iff_eq, not_or] at hn
          exact (hnone.resolve_left hn.1).resolve_left hn.2
      refine ⟨(execHopLanding_arrives hh hp hb hd).trans ?_, State.path?_imageOut himg⟩
      simp only [hseat, himg]
  case resume =>
    intro home core x ho hold
    refine ⟨fun c hc => ⟨?_, ?_⟩, fun hc => ?_⟩
    · rintro u p img rfl
      show execParkedImageResume home core s = _
      simp only [execParkedImageResume, event, ho, hold, hc, Bool.not_true, Bool.false_eq_true, if_false]
    · rintro n w img rfl
      show execParkedImageResume home core s = _
      simp only [execParkedImageResume, event, ho, hold, hc, Bool.not_true, Bool.false_eq_true, if_false]
    · show execParkedImageResume home core s = _
      simp only [execParkedImageResume, event, ho, hold, hc, Bool.not_true, Bool.false_eq_true, if_false]
  case parkOut =>
    intro home ho
    have hcores : Config.coresPerStack = 32 := rfl
    refine ⟨?_, ?_, ?_⟩
    · intro core kn rest t hs ht
      show execParkSwitchOut home s = _
      simp only [execParkSwitchOut, event, ho, hs, ht, Bool.not_true, Bool.false_eq_true, if_false]
    · intro t hs ht
      show execParkSwitchOut home s = _
      simp only [execParkSwitchOut, event, ho, hs, hcores, ht, Bool.not_true, Bool.false_eq_true, if_false]
    · intro core kn since t hs hn hst hi ht
      show execParkSwitchOut home s = _
      simp only [execParkSwitchOut, event, ho, hs, hcores, hn, hst, hi, ht, Bool.not_true, Bool.false_eq_true, if_false, if_true]
  case crewOut =>
    intro home ho
    refine ⟨State.leavers_of_starved, ?_, ?_⟩
    · intro c w rest hs hl
      have hw : w.leaving = false := hl _ (State.mem_crewOrder_of_leavers (hs ▸ List.mem_cons_self))
      refine ⟨fun hq t ht => ?_, fun hq => ?_⟩
      · exact (execCrewSwitchOut_first ho hl).trans (by rw [hs, State.storeNext_stored rest hq ht])
      · exact (execCrewSwitchOut_first ho hl).trans (by rw [hs, State.storeNext_leaving rest hq hw])
    · intro before c w rest hs hb hl
      refine ⟨fun hq t ht => ?_, fun hq => ?_⟩
      · refine (execCrewSwitchOut_leaving ho hs hb hl).trans ?_
        rw [if_pos (State.crewStill_of_storeCrew ht hq), State.storeNext_stored rest hq ht]
      · refine (execCrewSwitchOut_leaving ho hs hb hl).trans ?_
        rw [s.crewStill_of_not_quiet hq, if_neg (by decide)]

end Sys2Proof.Claims
end

section
/-! PROOF. A step runs the instruction that the word at the PC decodes to, and every step leads to a next state (R52, R114, R121). -/
namespace Sys2Proof.Machine

/-- There is an agent to act: the current path with its knot, or the current movement processor. -/
def State.Acts (s : State) : Prop :=
  (∃ u h, s.cur = .path u ∧ s.here u = some h) ∨ ∃ c m, s.cur = .mover c ∧ s.mover? c = some m

/-- An outcome is a next state. -/
def Goes (o : Out) : Prop := ∃ t, o = .next t

theorem agentRun_goes {s : State} (hs : s.Acts) (f : InstrForm) (never : Bool) (body : State → Here → Res State)
    (mbody : State → MHere → MRes State) : Goes (agentRun f never body mbody s) := by
  unfold agentRun
  obtain ⟨u, h, hc, hh⟩ | ⟨c, m, hc, hm⟩ := hs
  · simp only [hc, hh]; exact ⟨_, rfl⟩
  · simp only [hc, hm]; exact ⟨_, rfl⟩

theorem hintWord_goes {s : State} (hs : s.Acts) (subset : Bool) (same : Hints → Bool) (put : Hints → Hints) :
    Goes (hintWord subset same put s) := by
  unfold hintWord
  obtain ⟨u, h, hc, hh⟩ | ⟨c, m, hc, hm⟩ := hs
  · simp only [hc, hh]; exact ⟨_, rfl⟩
  · simp only [hc, hm]; exact ⟨_, rfl⟩

theorem fetchTrap_goes {s : State} (hs : s.Acts) (path : Path → TrapCode) (mover : Mover → TrapCode) :
    Goes (fetchTrap path mover s) := by
  unfold fetchTrap
  obtain ⟨u, h, hc, hh⟩ | ⟨c, m, hc, hm⟩ := hs
  · simp only [hc, hh]; exact ⟨_, rfl⟩
  · simp only [hc, hm]; exact ⟨_, rfl⟩

/-- An event or a command leads to a next state whatever the agent, and every other instruction when there is one. -/
theorem exec_goes {i : Instr} {s : State} (h : isEvent i = true ∨ s.Acts) : Goes (exec i s) := by
  cases i
  case siblingHalt | registerFill | hopLanding | parkedImageResume | parkSwitchOut | crewSwitchOut | watchdogExpiry | regroupWindowExpiry
      | postPerform | postAcknowledgement | hostAccess | copySector | matrixOperation | accgetGrant | movementFault | engineRelease
      | clutchRecordArrival | clutchTimer | launchRecordTake | knotPlacement | crewPlacement | stealMessage | launchCompletion
      | preemptionComplete | eccError | governorStep | resetModule | qreg | bindObject | lazyBind | shoot | keyload | circuit | pool
      | preempt | resume | haltstk | runstk | attest | devhashReport | wlist | signkey | unlistedCommand
      | larzonConfigurationSpaceWrite | fabricPacketResend => exact ⟨_, rfl⟩
  all_goals replace h := h.resolve_left Bool.false_ne_true
  case hintImm | hintRnd | hintSched | hintFmt => exact hintWord_goes h _ _ _
  case illegalEncoding => exact fetchTrap_goes h (fun _ => .illegal) fun _ => .illegal
  case fetchBeyondExtent => exact fetchTrap_goes h (fun p => fetchCode p.ctx.wrapped) fun m => fetchCode m.wrapped
  all_goals exact agentRun_goes h _ _ _ _

/-- What a fetched word does in the state after its fetch: its instruction, or the trap of an illegal word (R121). -/
def runFetched (r : Word × State) : Out :=
  match decode r.1 with
  | .ok i => exec i r.2
  | .error _ => exec .illegalEncoding r.2

theorem runFetched_ok {w : Word} {i : Instr} (h : decode w = .ok i) (s : State) : runFetched (w, s) = exec i s := by
  simp only [runFetched, h]

theorem runFetched_error {w : Word} {e : Illegal} (h : decode w = .error e) (s : State) :
    runFetched (w, s) = exec .illegalEncoding s := by
  simp only [runFetched, h]

theorem runFetched_goes {r : Word × State} (hs : r.2.Acts) : Goes (runFetched r) := by
  unfold runFetched
  split
  · exact exec_goes (.inr hs)
  · exact exec_goes (.inr hs)

/-- A path at a word: the trap of the fetch, or the word that the fetch gives. -/
theorem State.fetchRun_eq (s : State) (h : Here) : s.fetchRun h =
    if h.p.ctx.wrapped || !s.heap.inExtent h.p.ctx.fn h.p.ctx.pc then exec .fetchBeyondExtent { s with cur := .path h.u }
    else runFetched (State.fetchWord { s with cur := .path h.u } (moduleOf h.p.home) h.k.unseen h.p.ctx.pc) := rfl

/-- A fetch leaves the agent and its place. -/
theorem State.Acts.fetchWord {s : State} (hs : s.Acts) (m : Nat) (l : List (Nat × Word)) (pc : Pc) : (s.fetchWord m l pc).2.Acts := by
  obtain ⟨-, x, hx⟩ := s.fetchWord_cases m l pc
  rw [hx]
  exact hs

theorem State.fetchRun_goes {s : State} {h : Here} (hh : s.here h.u = some h) : Goes (s.fetchRun h) := by
  have hs : State.Acts { s with cur := .path h.u } := .inl ⟨h.u, h, rfl, hh⟩
  rw [State.fetchRun_eq]
  split
  · exact exec_goes (.inr hs)
  · exact runFetched_goes (hs.fetchWord _ _ _)

theorem State.issue_goes (s : State) (u : Nat) : Goes (s.issue u) := by
  unfold State.issue
  cases hh : s.here u with
  | none => exact ⟨s, rfl⟩
  | some h =>
    obtain rfl := State.here_u hh
    have hf := State.fetchRun_goes hh
    dsimp only
    split
    · exact hf
    · split
      · exact ⟨_, rfl⟩
      · exact ⟨_, rfl⟩
      · split
        · exact hf
        · exact ⟨_, rfl⟩
      · split
        · exact exec_goes (.inl rfl)
        · exact hf
      · exact hf

theorem State.moveIssue_goes (s : State) (c : Nat) : Goes (s.moveIssue c) := by
  unfold State.moveIssue
  cases hm : s.mover? c with
  | none => exact ⟨s, rfl⟩
  | some m =>
    have hs : State.Acts { s with cur := .mover c } := .inr ⟨c, m, rfl, hm⟩
    dsimp only
    split
    · exact exec_goes (.inl rfl)
    · split
      · exact exec_goes (.inr hs)
      · exact runFetched_goes (hs.fetchWord _ _ _)

theorem State.turn_goes (s : State) (t : Turn) : Goes (s.turn t) := by
  unfold State.turn
  cases t with
  | issue home core part late =>
    dsimp only
    split
    · exact State.issue_goes _ _
    · exact ⟨s, rfl⟩
  | move c =>
    dsimp only
    split
    · exact s.moveIssue_goes c
    · exact ⟨s, rfl⟩
  | event i =>
    dsimp only
    split
    · exact exec_goes (.inl ‹_›)
    · exact ⟨s, rfl⟩
  | tileWord c i => exact ⟨_, rfl⟩
  | tick home n => exact ⟨_, rfl⟩
  | tlbFill unit ptbase asid page => exact ⟨_, rfl⟩
  | tlbDrop unit => exact ⟨_, rfl⟩

/-- An event that leads to a next state in every state. -/
def AlwaysGoes (f : State → Out) : Prop := ∀ s, Goes (f s)

theorem pathEvents_go (u : Nat) (p : Path) : ∀ f ∈ pathEvents u p, AlwaysGoes f := by
  simp only [pathEvents, List.forall_mem_append, List.forall_mem_map]
  refine ⟨⟨⟨?_, fun _ _ _ => ⟨_, rfl⟩⟩, ?_⟩, ?_⟩
  · split
    · exact List.forall_mem_singleton.mpr fun _ => ⟨_, rfl⟩
    · exact List.forall_mem_nil _
  · split
    · exact List.forall_mem_singleton.mpr fun _ => ⟨_, rfl⟩
    · exact List.forall_mem_nil _
  · split
    · exact List.forall_mem_singleton.mpr fun _ => ⟨_, rfl⟩
    · exact List.forall_mem_nil _

theorem crewEvents_go (c : Nat) (w : Crew) : ∀ f ∈ crewEvents c w, AlwaysGoes f := by
  unfold crewEvents
  cases w.engine with
  | none => exact List.forall_mem_nil _
  | some e =>
    simp only [List.forall_mem_append, List.forall_mem_flatMap, List.forall_mem_map, List.forall_mem_cons]
    exact ⟨fun _ _ _ _ _ => ⟨_, rfl⟩, fun _ => ⟨_, rfl⟩, fun _ => ⟨_, rfl⟩, fun _ => ⟨_, rfl⟩, fun _ => ⟨_, rfl⟩, List.forall_mem_nil _⟩

theorem launchEvents_go (l : Nat) (la : Launch) : ∀ f ∈ launchEvents l la, AlwaysGoes f := by
  simp only [launchEvents, List.forall_mem_append, List.forall_mem_flatMap, List.forall_mem_map, List.forall_mem_singleton]
  exact ⟨fun _ _ _ _ _ => ⟨_, rfl⟩, fun _ => ⟨_, rfl⟩⟩

theorem stackEvents_go (h : Nat) : ∀ f ∈ stackEvents h, AlwaysGoes f := by
  simp only [stackEvents, List.forall_mem_cons]
  refine ⟨?_, ?_, ?_, ?_, ?_, ?_, List.forall_mem_nil _⟩
  all_goals exact fun _ => ⟨_, rfl⟩

theorem moduleEvents_go (m : Nat) : ∀ f ∈ moduleEvents m, AlwaysGoes f := by
  simp only [moduleEvents, List.forall_mem_cons]
  refine ⟨?_, ?_, ?_, ?_, ?_, ?_, ?_, ?_, ?_, ?_, ?_, ?_, ?_, ?_, ?_, ?_, ?_, ?_, List.forall_mem_nil _⟩
  all_goals exact fun _ => ⟨_, rfl⟩

/-- The events that the machine tries of its own lead to a next state. -/
theorem State.candidates_go (s : State) : ∀ f ∈ s.candidates, AlwaysGoes f := by
  simp only [State.candidates, List.forall_mem_append, List.forall_mem_flatMap, List.forall_mem_map]
  exact ⟨⟨⟨⟨⟨⟨⟨fun _ _ => pathEvents_go _ _, fun _ _ _ => ⟨_, rfl⟩⟩, fun _ _ _ => ⟨_, rfl⟩⟩, fun _ _ _ => ⟨_, rfl⟩⟩,
    fun _ _ => crewEvents_go _ _⟩, fun _ _ => launchEvents_go _ _⟩, fun _ _ => stackEvents_go _⟩, fun _ _ => moduleEvents_go _⟩

theorem State.firstEvent_goes {s : State} {o : Out} : ∀ {fs : List (State → Out)}, (∀ f ∈ fs, AlwaysGoes f) →
    s.firstEvent fs = some o → Goes o
  | [], _, h => by cases h
  | f :: fs, hf, h => by
    obtain ⟨hf1, hfs⟩ := List.forall_mem_cons.mp hf
    obtain ⟨t, ht⟩ := hf1 s
    unfold State.firstEvent at h
    rw [ht] at h
    dsimp only at h
    split at h
    · exact State.firstEvent_goes hfs h
    · exact ⟨t, (Option.some.inj h).symm⟩

theorem State.ownTurn_goes (s : State) : Goes s.ownTurn := by
  unfold State.ownTurn
  dsimp only
  split
  · exact ⟨_, rfl⟩
  · split
    · exact State.firstEvent_goes (State.candidates_go _) ‹_›
    · split
      · exact State.issue_goes _ _
      · exact State.moveIssue_goes _ _
      · split
        · exact State.moveIssue_goes _ _
        · exact State.issue_goes _ _
      · exact ⟨_, rfl⟩

/-- Every step of every state leads to a next state. -/
theorem step_goes (s : State) : Goes (step s) := by
  unfold step
  split
  · exact State.turn_goes _ _
  · exact s.ownTurn_goes

/-- The turn of a partition whose path has its next word to run. -/
theorem step_issue {s : State} {ts : List Turn} {home core part : Nat} {late : Bool} {h : Here}
    (ha : s.agenda = .issue home core part late :: ts) (hc : State.chosen { s with agenda := ts } home core part = some h.u)
    (hh : s.here h.u = some h) (hf : Claims.Fetches h) : step s = State.fetchRun { s with agenda := ts, late := late } h := by
  have hhere : State.here { s with agenda := ts, late := late } h.u = some h := hh
  unfold step
  simp only [ha, State.turn, hc, State.issue, hhere]
  by_cases hw : h.p.hints.words = 0
  · obtain ⟨htrap, hacc, hrep, hrun⟩ := hf.resolve_left (fun hn => hn hw)
    have haway : h.runaway = false := by
      simp only [Here.runaway, Bool.and_eq_false_iff, bne_eq_false_iff_eq, decide_eq_false_iff_not, Bool.not_eq_false']
      rcases hrun with hs | h0 | hlt
      · exact .inr hs
      · exact .inl (.inl h0)
      · exact .inl (.inr (by omega))
    rw [if_neg (not_not.mpr hw), htrap]
    cases hp : h.p.pend with
    | access a => exact absurd hp (hacc a)
    | replay r =>
      have hsup : h.p.super = true := by
        by_contra hn
        exact hrep (by simpa using hn) r hp
      simp only [hsup, if_true]
    | none => simp only [haway, Bool.false_eq_true, if_false]
    | _ => rfl
  · rw [if_pos hw]

/-- The turn of a movement processor that no fault stops. -/
theorem step_move {s : State} {ts : List Turn} {m : MHere} (ha : s.agenda = .move m.c :: ts)
    (hr : State.moverReady { s with agenda := ts } m.c = true) (hm : s.mover? m.c = some m)
    (hf : m.e.mover.pending = none ∨ m.e.mover.hints.words ≠ 0 ∨ m.e.mover.list ≠ []) :
    step s = if m.e.mover.wrapped || !s.heap.inExtent m.e.mover.fn m.e.mover.pc then
        exec .fetchBeyondExtent { s with agenda := ts, cur := .mover m.c }
      else runFetched (State.fetchWord { s with agenda := ts, cur := .mover m.c } (moduleOf m.crew.home) m.e.mover.unseen
        m.e.mover.pc) := by
  have hmover : State.mover? { s with agenda := ts } m.c = some m := hm
  have hgo : (m.e.mover.pending.isSome && m.e.mover.hints.words == 0 && m.e.mover.list.isEmpty) = false := by
    rcases hf with h0 | hw | hl
    · simp [h0]
    · simp [hw]
    · simp [hl]
  unfold step
  simp only [ha, State.turn, hr, if_true, State.moveIssue, hmover, hgo, Bool.false_eq_true, if_false]
  rfl

end Sys2Proof.Machine

namespace Sys2Proof.Claims
open Sys2Proof.Machine

/-- Where a word stands at the PC, the fetch of the agent is that word and takes no choice. -/
theorem WordAt.fetchWord {s t : State} {home fn : Nat} {wrapped : Bool} {pc : Pc} {unseen : List (Nat × Word)} {w : Word}
    (h : WordAt s home fn wrapped pc unseen w) (ht : t.codeWord (home / 16) pc = s.codeWord (home / 16) pc) :
    t.fetchWord (moduleOf home) unseen pc = (w, t) := by
  obtain ⟨-, -, hw, hseen⟩ := h
  rw [t.fetchWord_of_seen _ hseen]
  exact congrArg (·, t) (ht.trans hw)

/-- A copy under the key that slot 0 holds reads as the heap (R313). -/
theorem codeWord_of_copyHeld {s : State} {module : Nat} {pc : Pc} (h : CopyHeld s module pc) :
    s.codeWord module pc = s.heap.wordAt pc := by
  unfold State.codeWord
  split
  · rfl
  · next page hp =>
    refine if_pos (List.all_eq_true.mpr fun i hi => ?_)
    rw [h page hp i (List.mem_range.mp hi)]
    exact beq_self_eq_true _

/-- Settles O52: a turn of an agent that has its next word to run is the fetch and the run of that word, and each outcome of every turn is a
next state, by a case for each kind of turn. -/
theorem stepRunsTheDecodedInstruction : Obligations.StepRunsTheDecodedInstruction := by
  unfold Obligations.StepRunsTheDecodedInstruction
  refine ⟨fun s ts i w => ⟨?path, ?mover, ?event⟩, ⟨?choice, fun s m pc => codeWord_of_copyHeld⟩, step_goes⟩
  case path =>
    intro home core part late h ha hc hh hf
    have hstep := step_issue ha hc hh hf
    refine ⟨fun hw => ?_, fun hend => ?_⟩
    · obtain ⟨hwrap, hin, -, -⟩ := id hw
      have hgo : (h.p.ctx.wrapped || !s.heap.inExtent h.p.ctx.fn h.p.ctx.pc) = false := by simp [hwrap, hin]
      simp only [State.fetchRun_eq, hgo, Bool.false_eq_true, if_false,
        hw.fetchWord (t := { s with agenda := ts, late := late, cur := .path h.u }) rfl] at hstep
      exact ⟨fun hd => hstep.trans (runFetched_ok hd _), fun e hd => hstep.trans (runFetched_error hd _)⟩
    · have hgo : (h.p.ctx.wrapped || !s.heap.inExtent h.p.ctx.fn h.p.ctx.pc) = true := by simpa using hend
      simp only [State.fetchRun_eq, hgo, if_true] at hstep
      exact hstep
  case mover =>
    intro m ha hr hm hf
    have hstep := step_move ha hr hm hf
    refine ⟨fun hw => ?_, fun hend => ?_⟩
    · obtain ⟨hwrap, hin, -, -⟩ := id hw
      have hgo : (m.e.mover.wrapped || !s.heap.inExtent m.e.mover.fn m.e.mover.pc) = false := by simp [hwrap, hin]
      simp only [hgo, Bool.false_eq_true, if_false,
        hw.fetchWord (t := { s with agenda := ts, cur := .mover m.c }) rfl] at hstep
      exact ⟨fun hd => hstep.trans (runFetched_ok hd _), fun e hd => hstep.trans (runFetched_error hd _)⟩
    · have hgo : (m.e.mover.wrapped || !s.heap.inExtent m.e.mover.fn m.e.mover.pc) = true := by simpa using hend
      simp only [hgo, if_true] at hstep
      exact hstep
  case event =>
    intro ha he hi hb
    have hev : isEvent i = true := by simp [isEvent, he, hi, hb]
    simp only [step, ha, State.turn, hev, if_true]
  case choice =>
    intro s ts home core part late h ha hc hh hf hwrap hin
    have hstep := step_issue ha hc hh hf
    have hgo : (h.p.ctx.wrapped || !s.heap.inExtent h.p.ctx.fn h.p.ctx.pc) = false := by simp [hwrap, hin]
    obtain ⟨hword, x, hx⟩ := State.fetchWord_cases { s with agenda := ts, late := late, cur := .path h.u } (moduleOf h.p.home) h.k.unseen
      h.p.ctx.pc
    simp only [State.fetchRun_eq, hgo, Bool.false_eq_true, if_false, runFetched, hx] at hstep
    exact ⟨_, x, hword, fun i hd => hstep.trans (by rw [hd]), fun e hd => hstep.trans (by rw [hd])⟩

end Sys2Proof.Claims
end

section
/-! PROOF. SRD, and the fields of the special registers (R127, R128, R330 to R332). -/
namespace Sys2Proof.Machine

/-- The number with digits `d i` to the base `b`, the lowest first. -/
def digitSum (b : Nat) (d : Nat → Nat) (n : Nat) : Nat := (List.range n).foldl (fun a i => a + d i * b ^ i) 0

theorem digitSum_succ (b : Nat) (d : Nat → Nat) (n : Nat) : digitSum b d (n + 1) = digitSum b d n + d n * b ^ n := by
  simp only [digitSum, List.range_succ, List.foldl_append, List.foldl_cons, List.foldl_nil]

theorem digitSum_congr {b n : Nat} {d e : Nat → Nat} (h : ∀ i < n, d i = e i) : digitSum b d n = digitSum b e n := by
  induction n with
  | zero => rfl
  | succ n ih => rw [digitSum_succ, digitSum_succ, ih fun i hi => h i (by omega), h n (by omega)]

theorem digitSum_lt {b : Nat} {d : Nat → Nat} (hd : ∀ i, d i < b) (n : Nat) : digitSum b d n < b ^ n := by
  induction n with
  | zero => exact Nat.one_pos
  | succ n ih =>
    have hn : (d n + 1) * b ^ n ≤ b * b ^ n := Nat.mul_le_mul_right _ (hd n)
    rw [digitSum_succ, Nat.pow_succ']
    rw [Nat.add_mul] at hn
    omega

/-- A digit is read back. -/
theorem digitSum_digit {b : Nat} {d : Nat → Nat} (hd : ∀ i, d i < b) {i n : Nat} (hi : i < n) : digitSum b d n / b ^ i % b = d i := by
  induction n with
  | zero => omega
  | succ n ih =>
    have hb : 0 < b := Nat.lt_of_le_of_lt (Nat.zero_le _) (hd 0)
    rw [digitSum_succ]
    rcases Nat.lt_succ_iff_lt_or_eq.mp hi with hlt | rfl
    · have hp : d n * b ^ n = b ^ i * (b * (d n * b ^ (n - i - 1))) := by
        have : b ^ n = b ^ i * (b * b ^ (n - i - 1)) := by
          rw [← Nat.pow_succ', ← Nat.pow_add]
          congr 1
          omega
        rw [this]
        ring
      rw [hp, Nat.add_mul_div_left _ _ (Nat.pow_pos hb), Nat.add_mul_mod_self_left, ih hlt]
    · rw [Nat.add_mul_div_right _ _ (Nat.pow_pos hb), Nat.div_eq_of_lt (digitSum_lt hd i), Nat.zero_add, Nat.mod_eq_of_lt (hd i)]

/-- Above its last digit a number has zeros. -/
theorem digitSum_digit_above {b : Nat} {d : Nat → Nat} (hd : ∀ i, d i < b) {i n : Nat} (hi : n ≤ i) : digitSum b d n / b ^ i = 0 :=
  Nat.div_eq_of_lt (Nat.lt_of_lt_of_le (digitSum_lt hd n) (Nat.pow_le_pow_right (Nat.lt_of_le_of_lt (Nat.zero_le _) (hd 0)) hi))

theorem add_flag (c : Bool) (a n : Nat) : (if c then a + n else a) = a + c.toNat * n := by
  cases c <;> simp

theorem toNat_lt_two (c : Bool) : c.toNat < 2 := by
  cases c <;> decide

/-- The flags of a list's elements, one bit each. -/
theorem foldl_flags {α : Type} (f : α → Bool) (x : α) (l : List α) :
    l.zipIdx.foldl (fun a e => if f e.1 then a + 2 ^ e.2 else a) 0 = digitSum 2 (fun i => (f (l.getD i x)).toNat) l.length := by
  induction l using List.reverseRecOn with
  | nil => rfl
  | append_singleton l y ih =>
    have hl : ∀ i < l.length, (f ((l ++ [y]).getD i x)).toNat = (f (l.getD i x)).toNat := fun i hi => by
      rw [List.getD_append _ _ _ _ hi]
    have hy : (l ++ [y]).getD l.length x = y := by simp [List.getD]
    rw [List.zipIdx_append, List.foldl_append, ih, List.length_append, List.length_singleton, digitSum_succ, digitSum_congr hl, hy]
    simp only [List.zipIdx_cons, List.zipIdx_nil, List.foldl_cons, List.foldl_nil, Nat.zero_add]
    exact add_flag _ _ _

theorem foldl_add_of {α : Type} (p : α → Bool) (f : α → Nat) (l : List α) : ∀ a, l.foldl (fun a e => if p e then a + f e else a) a =
    a + ((l.filter p).map f).sum := by
  induction l with
  | nil => intro a; rfl
  | cons x l ih =>
    intro a
    rw [List.foldl_cons, ih]
    cases hx : p x
    · simp [hx]
    · simp [hx, Nat.add_assoc]

/-- A field of a number of 64 bits. -/
theorem extractLsb'_ofNat64 (x : Nat) {a n : Nat} (h : a + n ≤ 64) :
    (BitVec.ofNat 64 x).extractLsb' a n = BitVec.ofNat n (x / 2 ^ a) := by
  apply BitVec.eq_of_getLsbD_eq
  intro i hi
  simp only [BitVec.getLsbD_extractLsb', BitVec.getLsbD_ofNat, Nat.testBit_div_two_pow, hi, decide_true, Bool.true_and]
  rw [decide_eq_true (by omega), Bool.true_and, Nat.add_comm]

theorem getLsbD_ofNat64 (x : Nat) {i : Nat} (h : i < 64) : (BitVec.ofNat 64 x).getLsbD i = decide (x / 2 ^ i % 2 = 1) := by
  rw [BitVec.getLsbD_ofNat, decide_eq_true h, Bool.true_and, Nat.testBit_eq_decide_div_mod_eq]

theorem ofNat_congr {n x y : Nat} (h : x % 2 ^ n = y % 2 ^ n) : BitVec.ofNat n x = BitVec.ofNat n y :=
  BitVec.eq_of_toNat_eq (by simpa using h)

theorem decide_toNat (c : Bool) : decide (c.toNat = 1) = c := by
  cases c <;> rfl

/-- HREADY has the bit of each full handle (R127). -/
theorem Engine.getLsbD_hready (e : Engine) {i : Nat} (h : i < 64) : e.hready.getLsbD i = e.full i := by
  have hsum : (List.range 64).foldl (fun m i => if e.full i then m + 2 ^ i else m) 0 = digitSum 2 (fun i => (e.full i).toNat) 64 := by
    simp only [add_flag]
    rfl
  rw [Engine.hready, hsum, getLsbD_ofNat64 _ h, digitSum_digit (fun i => toNat_lt_two _) h, decide_toNat]

/-- The flags of the entries of a post table. -/
def postFlags (f : PostEntry → Bool) (c : Ctx) : Nat := digitSum 2 (fun i => (f (c.posts.getD i .free)).toNat) c.posts.length

theorem postsOf_eq (c : Ctx) : postsOf c = BitVec.ofNat 64 (((c.posts.filter (·.valid)).map (·.outst)).sum * 2 ^ 32 +
    postFlags (fun e => e.valid && e.faulted) c * 256 + postFlags (·.valid) c) := by
  have hsum := (foldl_add_of (·.valid) (·.outst) c.posts 0).trans (Nat.zero_add _)
  have hfaulted : _ = postFlags (fun e => e.valid && e.faulted) c :=
    foldl_flags (fun e => e.valid && e.faulted) PostEntry.free c.posts
  have hvalid : _ = postFlags (·.valid) c := foldl_flags (·.valid) PostEntry.free c.posts
  rw [← hsum, ← hfaulted, ← hvalid]
  rfl

theorem postFlags_lt {c : Ctx} (f : PostEntry → Bool) (h : c.posts.length = 8) : postFlags f c < 256 := by
  have := digitSum_lt (d := fun i => (f (c.posts.getD i .free)).toNat) (fun i => toNat_lt_two _) c.posts.length
  rw [h] at this
  rw [postFlags, h]
  exact this

theorem postFlags_bit {c : Ctx} (f : PostEntry → Bool) (h : c.posts.length = 8) {i : Nat} (hi : i < 8) :
    decide (postFlags f c / 2 ^ i % 2 = 1) = f (c.posts.getD i .free) := by
  rw [postFlags, digitSum_digit (fun i => toNat_lt_two _) (by omega), decide_toNat]

/-- The fields of POSTS (R128). -/
theorem postsOf_fields {c : Ctx} (h : c.posts.length = 8) :
    (∀ i < 8, (postsOf c).getLsbD i = (c.posts.getD i .free).valid ∧
      (postsOf c).getLsbD (8 + i) = ((c.posts.getD i .free).valid && (c.posts.getD i .free).faulted)) ∧
    (postsOf c).extractLsb' 16 16 = 0 ∧
    (postsOf c).extractLsb' 32 16 = BitVec.ofNat 16 ((c.posts.filter (·.valid)).map (·.outst)).sum := by
  have hv := postFlags_lt (·.valid) h
  have hf := postFlags_lt (fun e => e.valid && e.faulted) h
  have hbit := fun i (hi : i < 8) => postFlags_bit (·.valid) h hi
  have hbit' := fun i (hi : i < 8) => postFlags_bit (fun e => e.valid && e.faulted) h hi
  rw [postsOf_eq]
  generalize ((c.posts.filter (·.valid)).map (·.outst)).sum = n
  generalize postFlags (·.valid) c = v at *
  generalize postFlags (fun e => e.valid && e.faulted) c = f at *
  refine ⟨fun i hi => ⟨?_, ?_⟩, ?_, ?_⟩
  · rw [getLsbD_ofNat64 _ (by omega), ← hbit i hi]
    congr 2
    interval_cases i <;> omega
  · rw [getLsbD_ofNat64 _ (by omega), ← hbit' i hi]
    congr 2
    interval_cases i <;> omega
  · rw [extractLsb'_ofNat64 _ (by decide)]
    exact ofNat_congr (y := 0) (by omega)
  · rw [extractLsb'_ofNat64 _ (by decide)]
    exact ofNat_congr (by omega)

/-- The fields of LANDING (R331). -/
theorem KnotRegs.landing_fields (r : KnotRegs) : r.landing.extractLsb' 0 3 = 4 ∧ r.landing.extractLsb' 3 33 = 0 ∧
    r.landing.extractLsb' 36 19 = BitVec.ofNat 19 r.window ∧ r.landing.extractLsb' 55 9 = 0 := by
  unfold KnotRegs.landing
  refine ⟨?_, ?_, ?_, ?_⟩
  · rw [extractLsb'_ofNat64 _ (by decide)]
    exact ofNat_congr (y := 4) (by omega)
  · rw [extractLsb'_ofNat64 _ (by decide)]
    exact ofNat_congr (y := 0) (by omega)
  · rw [extractLsb'_ofNat64 _ (by decide)]
    exact ofNat_congr (by omega)
  · rw [extractLsb'_ofNat64 _ (by decide)]
    exact ofNat_congr (y := 0) (by omega)

/-- The fields of CAP0 that hold on every part (R330). -/
theorem State.cap0_fields (s : State) : s.cap0.extractLsb' 8 8 = s.strap.rev ∧ s.cap0.extractLsb' 48 2 = 3 := by
  have hrev := s.strap.rev.isLt
  have hmatrix := toNat_lt_two s.strap.hasMatrix
  unfold State.cap0 Strap.stackCount
  generalize s.strap.hasMatrix.toNat = x at hmatrix
  refine ⟨?_, ?_⟩
  · rw [extractLsb'_ofNat64 _ (by decide)]
    refine BitVec.eq_of_toNat_eq ?_
    rw [BitVec.toNat_ofNat]
    cases s.strap.part <;> dsimp only <;> omega
  · rw [extractLsb'_ofNat64 _ (by decide)]
    refine ofNat_congr (y := 3) ?_
    cases s.strap.part <;> dsimp only <;> omega

/-- CAP0 of a part of revision 1 (R330). -/
theorem State.cap0_aj16 {s : State} (hp : s.strap.part = .aj16) (hr : s.strap.rev = 1) : s.cap0 = 0x0003FFF1FFFF0110#64 := by
  unfold State.cap0 Strap.stackCount Strap.hasMatrix
  rw [hp, hr]
  rfl

theorem State.cap0_aj8v {s : State} (hp : s.strap.part = .aj8v) (hr : s.strap.rev = 1) : s.cap0 = 0x0003000000FF0108#64 := by
  unfold State.cap0 Strap.stackCount Strap.hasMatrix
  rw [hp, hr]
  rfl

/-- The fields of CAP1 (R330). -/
theorem State.cap1_fields (s : State) (m : Nat) : (s.strap.part = .aj8v → (s.cap1 m).extractLsb' 10 20 = 0) ∧
    (s.cap1 m).extractLsb' 0 10 = BitVec.ofNat 10 m ∧ (s.cap1 m).extractLsb' 32 16 = BitVec.ofNat 16 (s.mod m).clock := by
  unfold State.cap1
  dsimp only
  refine ⟨fun hp => ?_, ?_, ?_⟩
  · have hdims : s.strap.dims = 0 := if_pos hp
    rw [hdims, if_pos hp, extractLsb'_ofNat64 _ (by decide)]
    exact ofNat_congr (y := 0) (by omega)
  all_goals
    have hcoord : (if s.strap.part = .aj8v then 0 else (s.mod m).coord.toNat) < 1024 := by
      split
      · decide
      · exact (s.mod m).coord.isLt
    generalize (if s.strap.part = .aj8v then 0 else (s.mod m).coord.toNat) = x at hcoord
    rw [extractLsb'_ofNat64 _ (by decide)]
    exact ofNat_congr (by omega)

/-- The four bits of a stack in CAP2 (R330). -/
theorem State.cap2_field (s : State) (m : Nat) {i : Nat} (hi : i < 16) : (s.cap2 m).extractLsb' (4 * i) 4 =
    if i < s.strap.stackCount then BitVec.ofNat 4 (min 15 (s.withdrawnOf (16 * m + i))) else 0 := by
  have hd : ∀ i, min 15 (s.withdrawnOf (16 * m + i)) < 16 := fun i => by omega
  have hpow : 2 ^ (4 * i) = 16 ^ i := by rw [Nat.pow_mul]
  show (BitVec.ofNat 64 (digitSum 16 (fun i => min 15 (s.withdrawnOf (16 * m + i))) s.strap.stackCount)).extractLsb' (4 * i) 4 = _
  rw [extractLsb'_ofNat64 _ (by omega), hpow]
  split
  · next hlt =>
    have := digitSum_digit hd hlt
    exact ofNat_congr (this.trans (Nat.mod_eq_of_lt (hd i)).symm)
  · next hge => rw [digitSum_digit_above hd (Nat.le_of_not_lt hge)]; rfl

/-- The number of withdrawn cores of a module, while its field holds it (R332). -/
theorem State.wcount_of_lt {s : State} {m : Nat}
    (h : ((List.range s.strap.stackCount).map fun i => (s.stk (16 * m + i)).withdrawn.length).sum < 256) :
    s.wcount m = ((List.range s.strap.stackCount).map fun i => (s.stk (16 * m + i)).withdrawn.length).sum := by
  have hsum : (s.strap.homesOf m).foldl (fun a h => a + s.withdrawnOf h) 0 =
      ((List.range s.strap.stackCount).map fun i => (s.stk (16 * m + i)).withdrawn.length).sum := by
    have := foldl_add_of (fun _ => true) s.withdrawnOf (s.strap.homesOf m) 0
    simp only [if_true, List.filter_true, Nat.zero_add] at this
    rw [this, Strap.homesOf, List.map_map]
    rfl
  unfold State.wcount
  rw [hsum, if_pos h]

theorem State.wcount_lt (s : State) (m : Nat) : s.wcount m < 256 := by
  unfold State.wcount
  dsimp only
  split <;> omega

/-- The fields of SERVICE (R332). -/
theorem State.service_fields (s : State) (m : Nat) : (s.service m).getLsbD 0 = (s.mod m).replace ∧
    (s.service m).getLsbD 1 = (s.mod m).uncorr ∧ (s.service m).extractLsb' 2 6 = 0 ∧
    (s.service m).extractLsb' 16 16 = (s.mod m).retired ∧ (s.service m).extractLsb' 32 32 = 0 ∧
    (s.service m).extractLsb' 8 8 = BitVec.ofNat 8 (s.wcount m) := by
  have hw := s.wcount_lt m
  have hr := (s.mod m).retired.isLt
  have hu := toNat_lt_two (s.mod m).uncorr
  have hp := toNat_lt_two (s.mod m).replace
  have hu' := decide_toNat (s.mod m).uncorr
  have hp' := decide_toNat (s.mod m).replace
  unfold State.service
  generalize s.wcount m = w at *
  generalize (s.mod m).uncorr.toNat = u at *
  generalize (s.mod m).replace.toNat = p at *
  refine ⟨?_, ?_, ?_, ?_, ?_, ?_⟩
  · rw [getLsbD_ofNat64 _ (by decide), ← hp']
    congr 2
    omega
  · rw [getLsbD_ofNat64 _ (by decide), ← hu']
    congr 2
    omega
  · rw [extractLsb'_ofNat64 _ (by decide)]
    exact ofNat_congr (y := 0) (by omega)
  · rw [extractLsb'_ofNat64 _ (by decide)]
    refine BitVec.eq_of_toNat_eq ?_
    rw [BitVec.toNat_ofNat]
    omega
  · rw [extractLsb'_ofNat64 _ (by decide)]
    exact ofNat_congr (y := 0) (by omega)
  · rw [extractLsb'_ofNat64 _ (by decide)]
    exact ofNat_congr (by omega)

theorem State.hreadyOf_noCrew {s : State} {k : Knot} (h : k.crew = none) : s.hreadyOf k = 0 := by
  simp only [State.hreadyOf, State.crewOf, h]

theorem State.hreadyOf_crew {s : State} {k : Knot} {c slot : Nat} {w : Crew} (h : k.crew = some (c, slot))
    (hw : spFind c s.crews = some w) : s.hreadyOf k = match w.engine with | some e => e.hready | none => 0 := by
  simp only [State.hreadyOf, State.crewOf, h, hw, Option.map_some] <;> rfl

end Sys2Proof.Machine

namespace Sys2Proof.Claims
open Sys2Proof.Machine

/-- SRD of a scalar register on a path. -/
theorem execSrd_next {s : State} {h : Here} {r : SReg} {n : Special} (ha : Admits s h.u h { priv := n.privileged, defer := true })
    (hn : n ≠ .laneid) (hd : h.p.ctx.stateOf { file := .scal, num := r.toNat } ≠ .empty) :
    exec (.srd r n) s = .next ((s.writeScal h.u r.toNat (s.special h n)).retire h.u) := by
  refine exec_of_ok ha rfl rfl ?_
  simp only [if_neg hn, checkDest, if_neg hd]
  split <;> rfl

/-- Settles O33: SRD is one write of a scalar; the registers made of fields are numbers with digits, which are read back one by one. -/
theorem specialReads : Obligations.SpecialReads := by
  unfold Obligations.SpecialReads
  refine ⟨fun s h r => ⟨?_, rfl, rfl, rfl, rfl, rfl, rfl, rfl, rfl, rfl, rfl, rfl, rfl, rfl, rfl, rfl, rfl, State.hreadyOf_noCrew, ?_,
    postsOf_fields, h.k.regs.landing_fields⟩, fun s h => ?_⟩
  · intro n hn
    refine registerResult_of_gives fun ha _ _ hd => ⟨_, execSrd_next ha hn (hd _ ?_), gives_scal_plain ha.here rfl rfl rfl rfl⟩
    simp [RegClaim.dests]
  · intro c slot w hc hw
    refine ⟨fun he => ?_, fun e he i hi => ?_⟩
    · exact (State.hreadyOf_crew hc hw).trans (by rw [he])
    · have hready : s.special h .hready = e.hready := (State.hreadyOf_crew hc hw).trans (by rw [he])
      rw [hready, e.getLsbD_hready hi]
      rfl
  · obtain ⟨hrev, hseries⟩ := s.cap0_fields
    obtain ⟨hdims, hmodule, hclock⟩ := s.cap1_fields (h.p.home / 16)
    obtain ⟨hreplace, huncorr, hlow, hretired, hhigh, hcount⟩ := s.service_fields (h.p.home / 16)
    have hhome : ∀ i, 16 * (h.p.home / 16) + i = h.p.home / 16 * 16 + i := fun i => by omega
    refine ⟨State.cap0_aj16, fun hp hr => ⟨State.cap0_aj8v hp hr, hdims hp⟩, hrev, hseries, hmodule, hclock, rfl, fun i hi => ?_,
      fun i hi hge => ?_, hreplace, huncorr, hlow, hretired, hhigh, fun hn => ?_⟩
    · have h16 : s.strap.stackCount ≤ 16 := by unfold Strap.stackCount; split <;> decide
      refine (s.cap2_field (h.p.home / 16) (Nat.lt_of_lt_of_le hi h16)).trans ?_
      rw [if_pos hi, hhome]
      rfl
    · exact (s.cap2_field (h.p.home / 16) hi).trans (if_neg (Nat.not_lt.mpr hge))
    · refine hcount.trans ?_
      simp only [← hhome] at hn ⊢
      rw [State.wcount_of_lt hn]

end Sys2Proof.Claims
end

section
/-! PROOF. LD, ST, LDS, STS and ATM that stay at the current stack (R191 to R198). -/
namespace Sys2Proof.Claims
open Sys2Proof.Machine

/-- A path after steps 9 and 10 of R191 is there still. -/
theorem here_settledAt {s : State} {h : Here} (hh : s.here h.u = some h) : ∃ x, (settledAt s h).here h.u = some x := by
  have h1 := here_applyDeath hh (carriedSet s.heap h.p.ctx)
  unfold settledAt
  cases pondOf s h with
  | none => exact ⟨_, h1⟩
  | some w =>
    have h2 : State.here { s.applyDeath h.u (carriedSet s.heap h.p.ctx) with uid := s.uid + 1 } h.u = _ := h1
    exact ⟨_, State.here_modPath (State.here_modKnot h2 _) rfl⟩

/-- A migration point of the model that does what a claim says: its parts agree, and it reads what the claim reads and its guard. -/
structure PointIs (g : Guard) (pt : Point) (c : PointClaim) : Prop where
  form : c.form = { imm := .any }
  guard : c.guard = g
  op : pt.op = c.op
  dest : pt.dest = c.dest
  size : pt.size = c.size
  need : pt.need = c.need
  reqs : pt.reqs = c.reqs
  pre : pt.pre = none
  hostTrap : pt.hostTrap = none
  reads : ∀ r ∈ guardSource g :: pt.reads, r.1 ∈ c.reads ∨ r.1 = predName 7
  defers : c.op.defers = true
  home : c.op.onCore = false

/-- The sources of a lane access: its guard, its lane offset, its base, and its data group. -/
theorem lane_reads (h : Here) (g : Guard) (a : VReg) (b : SReg) (e : Bool) (v n : Nat) :
    ∀ r ∈ guardSource g :: ([vecSource h.p.ctx a e, scalSource b e] ++ groupSources h.p.ctx v n e),
      r.1 ∈ [guardName g, vecName h a, scalName b] ++ groupNames h v n ∨ r.1 = predName 7 := by
  intro r hr
  rw [← List.cons_append, List.mem_append] at hr
  refine .inl (List.mem_append.mpr (hr.imp (fun hr => ?_) fun hr => ?_))
  · exact List.mem_map_of_mem (f := Prod.fst) hr
  · obtain ⟨i, hi, rfl⟩ := List.mem_map.mp hr
    exact List.mem_map_of_mem (List.mem_map_of_mem hi)

/-- The point of each of the five instructions. -/
theorem exec_of_memoryClaim {h : Here} {i : Instr} {c : PointClaim} (hc : memoryClaim h i = some c) :
    ∃ (g : Guard) (pt : State → Here → Point), (∀ s, exec i s = memPoint { imm := .any } g pt s) ∧ ∀ s, PointIs g (pt s h) c := by
  unfold memoryClaim at hc
  split at hc
  case h_1 g d a b e z o =>
    cases hc
    exact ⟨g, _, fun _ => rfl, fun _ => ⟨rfl, rfl, rfl, rfl, rfl, rfl, rfl, rfl, rfl, lane_reads h g a b e 0 0, rfl, rfl⟩⟩
  case h_2 g x a b e z o =>
    cases hc
    exact ⟨g, _, fun _ => rfl, fun _ => ⟨rfl, rfl, rfl, rfl, rfl, rfl, rfl, rfl, rfl, lane_reads h g a b e x.toNat z.regs, rfl, rfl⟩⟩
  case h_3 g d b e z o =>
    cases hc
    refine ⟨Machine.onceGuard g, _, fun _ => rfl, fun _ => ⟨rfl, rfl, rfl, rfl, rfl, rfl, rfl, rfl, rfl, ?_, rfl, rfl⟩⟩
    cases g <;> simp [guardSource, Machine.onceGuard, scalSource, scalName, predName]
  case h_4 g x b e z o =>
    cases hc
    refine ⟨Machine.onceGuard g, _, fun _ => rfl, fun _ => ⟨rfl, rfl, rfl, rfl, rfl, rfl, rfl, rfl, rfl, ?_, rfl, rfl⟩⟩
    cases g <;> simp [guardSource, Machine.onceGuard, scalSource, scalName, predName]
  case h_5 g d a b e o t =>
    cases hc
    exact ⟨g, _, fun _ => rfl, fun _ => ⟨rfl, rfl, rfl, rfl, rfl, rfl, rfl, rfl, rfl,
      lane_reads h g a b e (d.toNat + t.regs) (o.group t - t.regs), rfl, rfl⟩⟩
  case h_6 => cases hc

/-- A migration point of a path whose body completes. -/
theorem memPoint_ok {s t : State} {h : Here} {g : Guard} {pt : State → Here → Point} {c : PointClaim} {ls : List LaneAcc}
    (hg : PointGoes s h c ls) (hp : PointIs g (pt s h) c) (hb : pointBody s h g (pt s h) = .ok t) :
    memPoint { imm := .any } g pt s = .next t := by
  have ha := hg.admits
  rw [hp.form] at ha
  unfold memPoint
  rw [knotOp_path ha.cur ha.here, pathRun_ok ha (isNever_false (hp.guard ▸ hg.guard)) hb]

/-- A load, a store or an atomic is performed wherever its path is. -/
theorem perform_isSome {op : MemOp} (hd : op.defers = true) (s : State) (h : Here) (d : Dest) (ls : List LaneAcc) (pc : Pc) :
    ∃ t, s.perform h { op := op, dest := d, lanes := ls, group := pc } = some t := by
  cases op
  case load z =>
    unfold State.perform State.performOp State.homeOp State.memLanes
    dsimp only
    cases Access.scalar { op := .load z, dest := d, lanes := ls, group := pc }
    · exact ⟨_, rfl⟩
    · exact ⟨_, rfl⟩
  case store | atom => exact ⟨_, rfl⟩
  all_goals exact Bool.noConfusion hd

/-- Settles O13: each of the five instructions is one migration point, whose checks pass and which stays where it is. -/
theorem memoryPointsComplete : Obligations.MemoryPointsComplete := by
  unfold Obligations.MemoryPointsComplete
  intro s h i c ls hc hg
  obtain ⟨g, pt, hexec, hpoint⟩ := exec_of_memoryClaim hc
  have hp := hpoint s
  rw [hexec]
  refine ⟨fun hls => ?_, fun hls hl => ?_, fun hls hl => ?_⟩
  · refine memPoint_ok hg hp ?_
    rw [pointBody_go hg hp.dest hp.size hp.need hp.reqs hp.pre hp.hostTrap hp.reads, if_pos hls]
  · exact memPoint_ok hg hp
      (pointBody_late hg hp.op hp.dest hp.size hp.need hp.reqs hp.pre hp.hostTrap hp.reads hl hp.defers hp.home hls)
  · have hidle : h.p.unperformed = [] := hg.admits.settled.resolve_left (by rw [hl]; exact Bool.false_ne_true)
    obtain ⟨x, hx⟩ := here_settledAt hg.admits.here
    obtain ⟨t, ht⟩ := perform_isSome hp.defers (settledAt s h) x c.dest ls h.p.groupPc
    exact ⟨x, t, hx, ht, memPoint_ok hg hp
      (pointBody_ok hg hp.op hp.dest hp.size hp.need hp.reqs hp.pre hp.hostTrap hp.reads (.inl hl) hidle hls hx ht)⟩

end Sys2Proof.Claims
end

section
/-! PROOF. PSTEP: what a step leaves in the pad, and how a knot arrives, collides and goes on (R84 to R86, R211, R289). -/
namespace Sys2Proof.Machine

variable {α : Type}

/-- An entry that is found stands behind lower keys only. -/
theorem spFind_split {j : Nat} {v : α} : ∀ {m : Sparse α}, spFind j m = some v →
    ∃ as bs, m = as ++ (j, v) :: bs ∧ ∀ e ∈ as, e.1 < j
  | [], h => by cases h
  | (i, w) :: m, h => by
    unfold spFind at h
    split at h
    · next hij => subst hij; cases h; exact ⟨[], m, rfl, List.forall_mem_nil _⟩
    · split at h
      · cases h
      · obtain ⟨as, bs, rfl, has⟩ := spFind_split h
        exact ⟨(i, w) :: as, bs, rfl, List.forall_mem_cons.mpr ⟨by omega, has⟩⟩

/-- An entry of a rising table is found. -/
theorem spFind_of_mem {k : Nat} {v : α} : ∀ {lo : Option Nat} {m : Sparse α}, spRising lo m = true → (k, v) ∈ m → spFind k m = some v
  | _, [], _, h => absurd h List.not_mem_nil
  | _, (j, w) :: m, hr, h => by
    simp only [spRising, Bool.and_eq_true] at hr
    rcases List.mem_cons.mp h with heq | hm
    · cases heq; simp [spFind]
    · have hf := spFind_of_mem hr.2 hm
      have hjk : ¬k ≤ j := fun hle => by rw [spFind_below hr.2 hle] at hf; cases hf
      simp only [spFind, if_neg (show ¬j = k by omega), if_neg (show ¬k < j by omega), hf]

/-- An entry of a rising table after some entries are taken out. -/
theorem spFind_filter_entry (p : Nat × α → Bool) (i : Nat) : ∀ {lo : Option Nat} {m : Sparse α}, spRising lo m = true →
    spFind i (m.filter p) = (spFind i m).filter fun v => p (i, v)
  | _, [], _ => rfl
  | lo, (j, w) :: m, h => by
    simp only [spRising, Bool.and_eq_true] at h
    have ih := spFind_filter_entry p i h.2
    rw [List.filter_cons]
    rcases Nat.lt_trichotomy i j with hlt | rfl | hgt
    · rw [spFind_below h.2 (Nat.le_of_lt hlt)] at ih
      split
      · simp only [spFind, if_neg (show ¬j = i by omega), if_pos hlt, Option.filter_none]
      · simp only [ih, spFind, if_neg (show ¬j = i by omega), if_pos hlt]
    · rw [spFind_below h.2 (Nat.le_refl _)] at ih
      cases hp : p (i, w) with
      | true => simp [spFind, Option.filter, hp]
      | false => simpa [spFind, Option.filter, hp] using ih
    · split
      · simp only [spFind, if_neg (show ¬j = i by omega), if_neg (show ¬i < j by omega), ih]
      · simp only [ih, spFind, if_neg (show ¬j = i by omega), if_neg (show ¬i < j by omega)]

/-- An entry of a rising table after some keys are taken out. -/
theorem spFind_filter (p : Nat → Bool) (i : Nat) {lo : Option Nat} {m : Sparse α} (h : spRising lo m = true) :
    spFind i (m.filter fun e => p e.1) = if p i then spFind i m else none := by
  rw [spFind_filter_entry _ i h]
  cases spFind i m <;> simp [Option.filter]

/-- An entry after those of a rising table are put in. -/
theorem spFind_foldl_spPut (i : Nat) : ∀ {lo : Option Nat} {l : Sparse α} (m : Sparse α), spRising lo l = true →
    spFind i (l.foldl (fun m e => spPut e.1 e.2 m) m) = (spFind i l).or (spFind i m)
  | _, [], m, _ => by simp [spFind]
  | _, (j, w) :: l, m, h => by
    simp only [spRising, Bool.and_eq_true] at h
    rw [List.foldl_cons, spFind_foldl_spPut i _ h.2]
    by_cases hij : i = j
    · subst hij
      rw [spFind_below h.2 (Nat.le_refl _)]
      simp [spFind]
    · rw [spFind_spPut_ne hij]
      simp only [spFind, if_neg (Ne.symm hij)]
      split
      · next hlt => rw [spFind_below h.2 (Nat.le_of_lt hlt)]
      · rfl

/-- A byte of cells whose range is replaced. -/
theorem cellGet_replaceRange {dst src : List Host.Cell} (hd : spRising none dst = true) (hs : spRising none src = true) (lo hi a : Nat) :
    cellGet (replaceRange dst src lo hi) a = if lo ≤ a ∧ a < hi then cellGet src a else cellGet dst a := by
  unfold cellGet spGet replaceRange spSlice
  rw [spFind_foldl_spPut a _ (spRising_filter _ hs), spFind_filter (fun i => decide (lo ≤ i) && decide (i < hi)) a hs,
    spFind_filter (fun i => !(decide (lo ≤ i) && decide (i < hi))) a hd]
  by_cases h : lo ≤ a ∧ a < hi
  · simp [h]
  · have hb : (decide (lo ≤ a) && decide (a < hi)) = false := by simpa using h
    simp [hb, h]

theorem cellGet_cellWrite (bs : List Byte) : ∀ {m : List Host.Cell} (a x : Nat), spRising none m = true →
    cellGet (cellWrite m a bs) x = if a ≤ x ∧ x < a + bs.length then bs.getD (x - a) 0 else cellGet m x := by
  induction bs with
  | nil => intro m a x _; rw [if_neg (by simp)]; rfl
  | cons b bs ih =>
    intro m a x hm
    show cellGet (cellWrite (cellSet m a b) (a + 1) bs) x = _
    rw [ih (m := cellSet m a b) (a + 1) x (spRising_spSet 0 a b hm), cellGet_cellSet m a x b hm, List.length_cons]
    by_cases hax : x = a
    · subst hax
      rw [if_neg (by omega), if_pos rfl, if_pos (by omega), Nat.sub_self]
      rfl
    · rw [if_neg hax]
      by_cases hin : a + 1 ≤ x ∧ x < a + 1 + bs.length
      · rw [if_pos hin, if_pos (by omega), show x - a = (x - (a + 1)) + 1 by omega]
        rfl
      · rw [if_neg hin, if_neg (by omega)]

theorem spRising_cellWrite (bs : List Byte) : ∀ {m : List Host.Cell} (a : Nat), spRising none m = true →
    spRising none (cellWrite m a bs) = true := by
  induction bs with
  | nil => intro m a hm; exact hm
  | cons b bs ih => intro m a hm; exact ih (a + 1) (spRising_spSet 0 a b hm)

/-- A word depends on its four bytes. -/
theorem cellWord_congr {m n : List Host.Cell} {a : Nat} (h : ∀ x, a ≤ x → x < a + 4 → cellGet m x = cellGet n x) :
    cellWord m a = cellWord n a := by
  unfold cellWord cellRead cellRead cellRead cellRead cellRead
  rw [h a (by omega) (by omega), h (a + 1) (by omega) (by omega), h (a + 1 + 1) (by omega) (by omega),
    h (a + 1 + 1 + 1) (by omega) (by omega)]

/-- A word reads as it was written. -/
theorem cellWord_cellWrite_same {m : List Host.Cell} (hm : spRising none m = true) (a : Nat) (v : Word) :
    cellWord (cellWrite m a (bytesOfNat v.toNat 4)) a = v := by
  have hget : ∀ i < 4, cellGet (cellWrite m a (bytesOfNat v.toNat 4)) (a + i) = (bytesOfNat v.toNat 4).getD i 0 := fun i hi => by
    rw [cellGet_cellWrite _ a (a + i) hm, if_pos ⟨by omega, by simp [bytesOfNat]; omega⟩, Nat.add_sub_cancel_left]
  unfold cellWord cellRead cellRead cellRead cellRead cellRead
  rw [Nat.add_assoc, Nat.add_assoc, hget 1 (by omega), hget 2 (by omega), hget 3 (by omega),
    show cellGet _ a = _ from hget 0 (by omega)]
  refine BitVec.eq_of_toNat_eq ?_
  have hv := v.isLt
  simp only [bytesOfNat, natOfBytes, List.getD_cons_zero, List.getD_cons_succ, BitVec.toNat_ofNat]
  omega

theorem cellWord_cellWrite_ne {m : List Host.Cell} (hm : spRising none m = true) {i j : Nat} (h : i ≠ j) (v : Word) :
    cellWord (cellWrite m (4 * j) (bytesOfNat v.toNat 4)) (4 * i) = cellWord m (4 * i) := by
  refine cellWord_congr fun x h1 h2 => ?_
  rw [cellGet_cellWrite _ _ _ hm, if_neg]
  simp [bytesOfNat]
  omega

/-- The cells with every word of a list of writers resolved, from some cells on (R85). -/
def resolveAll (rule : Nat) (ws : Sparse (Sparse Word)) (m : List Host.Cell) : List Host.Cell :=
  ws.foldl (fun m e => cellWrite m (4 * e.1) (bytesOfNat (resolveWord rule (cellWord m (4 * e.1)) e.2).toNat 4)) m

theorem spRising_resolveAll (rule : Nat) (ws : Sparse (Sparse Word)) : ∀ {m : List Host.Cell}, spRising none m = true →
    spRising none (resolveAll rule ws m) = true := by
  induction ws with
  | nil => exact fun h => h
  | cons e ws ih => exact fun h => ih (spRising_cellWrite _ _ h)

/-- A word after the writers of a list are resolved: its own writers make it of what it was (R85). -/
theorem cellWord_resolveAll (rule i : Nat) : ∀ {lo : Option Nat} {ws : Sparse (Sparse Word)} {m : List Host.Cell}, spRising lo ws = true →
    spRising none m = true → cellWord (resolveAll rule ws m) (4 * i) =
      match spFind i ws with
      | some x => resolveWord rule (cellWord m (4 * i)) x
      | none => cellWord m (4 * i)
  | _, [], _, _, _ => rfl
  | _, (j, x) :: ws, m, hw, hm => by
    simp only [spRising, Bool.and_eq_true] at hw
    have hm' := spRising_cellWrite (bytesOfNat (resolveWord rule (cellWord m (4 * j)) x).toNat 4) (4 * j) hm
    refine (cellWord_resolveAll rule i hw.2 hm').trans ?_
    by_cases hij : i = j
    · subst hij
      rw [spFind_below hw.2 (Nat.le_refl _), cellWord_cellWrite_same hm]
      simp [spFind]
    · rw [cellWord_cellWrite_ne hm hij]
      have hfind : spFind i ((j, x) :: ws) = spFind i ws := by
        simp only [spFind, if_neg (Ne.symm hij)]
        split
        · next hlt => rw [spFind_below hw.2 (Nat.le_of_lt hlt)]
        · rfl
      rw [hfind]

theorem Crew.resolved_eq (w : Crew) (r : Region) : w.resolved r = resolveAll r.rule (w.writersIn r) w.next := rfl

/-- The resolved value of a word is what the region's rule gives (R86). -/
theorem resolveWord_eq (rule : Nat) (init : Word) (ws : Sparse Word) :
    resolveWord rule init ws = Claims.resolvedWord rule init (ws.map (·.2)) := by
  unfold resolveWord Claims.resolvedWord
  by_cases h1 : rule = 1
  · subst h1; rw [if_pos rfl, ← List.foldl_map]; rfl
  · by_cases h2 : rule = 2
    · subst h2; rw [if_neg h1, if_pos rfl, ← List.foldl_map]; rfl
    · rw [if_neg h1, if_neg h2]
      split
      · exact absurd rfl h1
      · exact absurd rfl h2
      · next hv => cases ws with
        | nil => cases hv
        | cons e ws => cases hv; rfl
      · next hv => rw [List.map_eq_nil_iff.mp hv]; rfl

/-- The words of a plane region after its step (R85, R86). -/
theorem Crew.cellWord_resolved {w : Crew} {r : Region} (hs : r.start % 4 = 0) (hl : r.length % 4 = 0) (hn : cellsWf w.next = true)
    (hw : spRising none w.writers = true) {j : Nat} (h1 : r.start ≤ 4 * j) (h2 : 4 * j < r.start + r.length) :
    cellWord (w.resolved r) (4 * j) = match spFind j w.writers with
      | some ws => Claims.resolvedWord r.rule (cellWord w.next (4 * j)) (ws.map (·.2))
      | none => cellWord w.next (4 * j) := by
  have hrise : spRising none w.next = true := ((Bool.and_eq_true _ _).mp hn).1
  have hin : (decide (r.start / 4 ≤ j) && decide (j < (r.start + r.length) / 4)) = true := by
    rw [Bool.and_eq_true, decide_eq_true_eq, decide_eq_true_eq]
    omega
  have hfind : spFind j (w.writersIn r) = spFind j w.writers :=
    (spFind_filter (fun i => decide (r.start / 4 ≤ i) && decide (i < (r.start + r.length) / 4)) j hw).trans (if_pos hin)
  have hwr : spRising none (w.writersIn r) = true := spRising_filter _ hw
  rw [w.resolved_eq, cellWord_resolveAll r.rule j hwr hrise, hfind]
  cases spFind j w.writers with
  | none => rfl
  | some ws => exact resolveWord_eq _ _ _

theorem Crew.spRising_resolved {w : Crew} (r : Region) (hn : cellsWf w.next = true) : spRising none (w.resolved r) = true :=
  spRising_resolveAll _ _ ((Bool.and_eq_true _ _).mp hn).1

/-- The present plane after the step of its region. -/
theorem Crew.pad_stepRegion {w : Crew} {r : Region} (n : Nat) (hp : r.plane = true) :
    (w.stepRegion n r).pad = replaceRange w.pad (w.resolved r) r.start (r.start + r.length) := by
  simp only [Crew.stepRegion, hp, Bool.not_true, Bool.false_eq_true, if_false]

/-- The next plane after the step of its region. -/
theorem Crew.next_stepRegion {w : Crew} {r : Region} (n : Nat) (hp : r.plane = true) :
    (w.stepRegion n r).next = replaceRange w.next (if r.clear then [] else w.resolved r) r.start (r.start + r.length) := by
  simp only [Crew.stepRegion, hp, Bool.not_true, Bool.false_eq_true, if_false]
  split <;> rfl

/-- A word of cells whose range is replaced. -/
theorem cellWord_replaceRange {dst src : List Host.Cell} (hd : spRising none dst = true) (hs : spRising none src = true) {lo hi a : Nat}
    (h1 : lo ≤ a) (h2 : a + 4 ≤ hi) : cellWord (replaceRange dst src lo hi) a = cellWord src a :=
  cellWord_congr fun x h3 h4 => by rw [cellGet_replaceRange hd hs, if_pos ⟨by omega, by omega⟩]

/-- PSTEP of a crew knot of one path. -/
theorem execPstep_crew {s : State} {h : Here} {c slot : Nat} {w : Crew} (ha : Admits s h.u h .plain) (hk : h.k.crew = some (c, slot))
    (hs : s.siblings h.p.knot h.u = []) (hw : spFind c s.crews = some w) : exec (.pstep false) s = .next
      (if h.p.pend = .step then (if w.arrived.contains slot then s.block h.u .barrier else s.release h.u)
       else ((s.await h.u .step .barrier).modCrew c fun w => { w with arrived := slot :: w.arrived }).bump.tryStep c) := by
  have hsingle : s.single h = true := by simp [State.single, hs]
  refine (knotOp_path ha.cur ha.here _ _ _).trans ?_
  rw [pathRun_body ha]
  simp only [hk, needSingle, hsingle, if_true, res_ok_bind, hw]
  by_cases hp : h.p.pend = .step
  · simp only [hp, if_true]
    cases w.arrived.contains slot <;> rfl
  · simp only [if_neg hp]

/-- The step of a crew all of whose knots have arrived, without a collision (R85). -/
theorem State.tryStep_steps {s : State} {c : Nat} {w : Crew} (hw : spFind c s.crews = some w) (ha : w.allArrived = true)
    (hn : w.arrived ≠ []) (hc : w.collision = none) : s.tryStep c = (s.modCrew c Crew.stepped).bump := by
  have hne : w.arrived.isEmpty = false := by simpa using hn
  simp only [State.tryStep, hw, ha, hne, hc, Bool.not_true, Bool.or_self, Bool.false_eq_true, if_false]

theorem State.tryStep_waits {s : State} {c : Nat} {w : Crew} (hw : spFind c s.crews = some w) (ha : w.allArrived = false) :
    s.tryStep c = s := by
  simp only [State.tryStep, hw, ha, Bool.not_false, Bool.true_or, if_true]

theorem State.tryStep_collides {s : State} {c off lane slot u : Nat} {w : Crew} (hw : spFind c s.crews = some w)
    (ha : w.allArrived = true) (hn : w.arrived ≠ []) (hc : w.collision = some (off, lane)) (hl : s.lowestLive c = some (slot, u)) :
    s.tryStep c = ((s.modCrew c fun w => { w with arrived := w.arrived.filter (· != slot), collided := some (off, lane) }).modPath u
      fun p => { p with pend := .none }).takeTrap u { code := .collide, lane := lane, addr := BitVec.ofNat 64 off } := by
  have hne : w.arrived.isEmpty = false := by simpa using hn
  simp only [State.tryStep, hw, ha, hne, hc, hl, Bool.not_true, Bool.or_self, Bool.false_eq_true, if_false]

/-- A path that waits, and every other path, keeps its context. -/
theorem State.path?_await_ctx (s : State) (u : Nat) (pend : Pend) (x : Wait) {v : Nat} {p : Path} (h : s.path? v = some p) :
    ∃ q, (s.await u pend x).path? v = some q ∧ q.ctx = p.ctx := by
  by_cases hv : v = u
  · subst hv
    exact ⟨{ p with pend := pend, wait := some x, blockedCycle := (s.stk p.home).cycles },
      (State.path?_modPath_same s v _).trans (congrArg (Option.map _) h), rfl⟩
  · exact ⟨p, (State.path?_modPath_ne s hv _).trans h, rfl⟩

/-- The paths of a knot after a path's waiting changes are the same, in the same order, with the same seats. -/
theorem find_seated_await (s : State) (u kn : Nat) (pend : Pend) (x : Wait) :
    (((s.await u pend x).pathsOf kn).find? fun e => e.2.seated).map (·.1) = ((s.pathsOf kn).find? fun e => e.2.seated).map (·.1) := by
  have key : ∀ m : Sparse Path, (((spModify u (fun p => { p with pend := pend, wait := some x, blockedCycle := (s.stk p.home).cycles })
      m).filter fun e => e.2.knot == kn).find? fun e => e.2.seated).map (·.1) =
      ((m.filter fun e => e.2.knot == kn).find? fun e => e.2.seated).map (·.1) := by
    intro m
    induction m with
    | nil => rfl
    | cons e m ih =>
      obtain ⟨j, p⟩ := e
      have hseat : Path.seated { p with pend := pend, wait := some x, blockedCycle := (s.stk p.home).cycles } = p.seated := rfl
      simp only [spModify]
      split
      · next hj =>
        subst hj
        simp only [List.filter_cons]
        split
        · simp only [List.find?_cons, hseat]
          split <;> rfl
        · rfl
      · simp only [List.filter_cons]
        split
        · simp only [List.find?_cons]
          split
          · rfl
          · exact ih
        · exact ih
  exact key s.paths

/-- An arrival leaves the knot of lowest slot what it was. -/
theorem State.lowestLive_arrived {s : State} {u c slot : Nat} {w : Crew} (hw : spFind c s.crews = some w) :
    (((s.await u .step .barrier).modCrew c fun w => { w with arrived := slot :: w.arrived }).bump).lowestLive c = s.lowestLive c := by
  have hw' : spFind c (((s.await u .step .barrier).modCrew c fun w => { w with arrived := slot :: w.arrived }).bump).crews =
      some { w with arrived := slot :: w.arrived } :=
    (spFind_spModify_same c _ s.crews).trans (by rw [hw]; rfl)
  have hlive : Crew.live { w with arrived := slot :: w.arrived } = w.live := rfl
  unfold State.lowestLive
  rw [hw', hw]
  simp only [hlive]
  split
  · rfl
  · next slot' kn rest _ =>
    have hfind := find_seated_await s u kn .step .barrier
    have hmap : ∀ o : Option (Nat × Path), o.map (fun e => (slot', e.1)) = (o.map (·.1)).map fun v => (slot', v) := fun o => by
      cases o <;> rfl
    rw [hmap, hmap, ← hfind]
    rfl

end Sys2Proof.Machine

namespace Sys2Proof.Claims
open Sys2Proof.Machine

/-- A word lies in a FAULT region exactly when the crew's region there is a plane of rule 3. -/
theorem faultWord_iff (w : Crew) (j : Nat) :
    (match w.regionAt (4 * j) with | some (_, r) => r.plane && r.rule == 3 | none => false) = true ↔ FaultWord w j := by
  unfold FaultWord
  cases w.regionAt (4 * j) with
  | none => simp
  | some e => obtain ⟨n, r⟩ := e; simp

/-- The collision of a crew is the one that the rule names (R86, R289). -/
theorem collision_of_collides {w : Crew} {off lane : Nat} (hw : spRising none w.writers = true) (h : Collides w off lane) :
    w.collision = some (off, lane) := by
  obtain ⟨hd, j, key, v, rest, rfl, hf, hj, hrest, rfl, hlow⟩ := h
  obtain ⟨as, bs, hsplit, has⟩ := spFind_split hj
  unfold Crew.collision
  rw [if_neg hd]
  refine Option.map_eq_some_iff.mpr ⟨(j, (key, v) :: rest), List.find?_eq_some_iff_append.mpr ⟨?_, as, bs, hsplit, fun e he => ?_⟩, rfl⟩
  · have hpos := List.length_pos_iff.mpr hrest
    refine (Bool.and_eq_true _ _).mpr ⟨decide_eq_true ?_, (faultWord_iff w j).mpr hf⟩
    rw [List.length_cons]
    omega
  · have hmem : (e.1, e.2) ∈ w.writers := by rw [hsplit]; exact List.mem_append_left _ he
    refine (Bool.not_eq_true' _).mpr (Bool.and_eq_false_iff.mpr ?_)
    by_cases hfe : FaultWord w e.1
    · have hlen := hlow e.1 (has e he) hfe
      rw [spGet, spFind_of_mem hw hmem, Option.getD_some] at hlen
      exact .inl (decide_eq_false (by omega))
    · exact .inr (Bool.eq_false_iff.mpr fun hm => hfe ((faultWord_iff w e.1).mp hm))

/-- Settles O20: PSTEP is an arrival and a try of the step; a step's words are read through the writes of the resolved words and the
replacement of the region's range. -/
theorem planeStepCompletes : Obligations.PlaneStepCompletes := by
  unfold Obligations.PlaneStepCompletes
  refine ⟨fun s h ha => ⟨?outside, ?several, ?crew⟩, ?words, ?released⟩
  case outside =>
    intro hk
    refine (knotOp_path ha.cur ha.here _ _ _).trans ?_
    rw [pathRun_body ha]
    simp only [hk]
  case several =>
    intro c hk hs
    have hsingle : s.single h = false := by simp [State.single, hs]
    refine (knotOp_path ha.cur ha.here _ _ _).trans ?_
    rw [pathRun_body ha]
    simp only [hk, needSingle, hsingle, Bool.false_eq_true, if_false]
    rfl
  case crew =>
    intro c slot w hk hs hw
    have hexec := execPstep_crew ha hk hs hw
    have hw' : spFind c (((s.await h.u .step .barrier).modCrew c fun w => { w with arrived := slot :: w.arrived }).bump).crews =
        some { w with arrived := slot :: w.arrived } :=
      (spFind_spModify_same c _ s.crews).trans (by rw [hw]; rfl)
    refine ⟨?collides, ?arrives, ?goes⟩
    case collides =>
      intro off lane low u p hp hall hrise hcol hlow hpath
      rw [if_neg hp, State.tryStep_collides hw' hall (List.cons_ne_nil _ _) (collision_of_collides (w := { w with arrived := _ }) hrise hcol)
        ((State.lowestLive_arrived hw).trans hlow)] at hexec
      obtain ⟨q, hq, hctx⟩ := State.path?_await_ctx s h.u .step .barrier hpath
      refine ⟨(((s.await h.u .step .barrier).modCrew c fun w => { w with arrived := slot :: w.arrived }).bump.modCrew c fun w =>
        { w with arrived := w.arrived.filter (· != low), collided := some (off, lane) }).modPath u fun p => { p with pend := .none },
        { q with pend := .none }, hexec, ?_, ?_, hctx, rfl, rfl⟩
      · exact (spFind_spModify_same c _ _).trans (by rw [hw']; rfl)
      · exact (spFind_spModify_same u _ _).trans (congrArg _ hq)
    case arrives =>
      intro hp
      rw [if_neg hp] at hexec
      refine ⟨_, hexec, fun hall hcol => ?_, fun hall => ?_⟩
      · rw [State.tryStep_steps hw' hall (List.cons_ne_nil _ _) hcol]
        exact ⟨(spFind_spModify_same c _ _).trans (by rw [hw']; rfl), rfl⟩
      · rw [State.tryStep_waits hw' hall]
        refine ⟨hw', rfl, { h.p with pend := .step, wait := some .barrier, blockedCycle := (s.stk h.p.home).cycles }, ?_, rfl, rfl, rfl, rfl⟩
        exact (State.path?_modPath_same s h.u _).trans (by rw [State.path?_of_here ha.here]; rfl)
    case goes =>
      intro hp harr
      rw [if_pos hp, harr] at hexec
      exact ⟨_, _, hexec, State.here_release ha.here, rfl, rfl, (s.sameRest_modPath _ _ _).trans (State.sameRest_bump _ _ _),
        fun _ _ => rfl⟩
  case words =>
    intro w n r hp hs hl hpad hnext hw
    have hrise : spRising none w.pad = true := ((Bool.and_eq_true _ _).mp hpad).1
    have hrise' : spRising none w.next = true := ((Bool.and_eq_true _ _).mp hnext).1
    have hres := Crew.spRising_resolved r hnext
    have hsrc : spRising none (if r.clear then [] else w.resolved r) = true := by
      split
      · rfl
      · exact hres
    refine ⟨fun j h1 h2 => ?_, fun a ha => ?_⟩
    · have hword := cellWord_replaceRange hrise hres h1 (hi := r.start + r.length) (by omega)
      refine ⟨?_, ?_⟩
      · rw [Crew.pad_stepRegion n hp, hword]
        exact Crew.cellWord_resolved hs hl hnext hw h1 h2
      · rw [Crew.pad_stepRegion n hp, hword, Crew.next_stepRegion n hp, cellWord_replaceRange hrise' hsrc h1 (by omega)]
        cases r.clear <;> rfl
    · have hout : ¬(r.start ≤ a ∧ a < r.start + r.length) := by omega
      rw [Crew.pad_stepRegion n hp, Crew.next_stepRegion n hp, cellGet_replaceRange hrise hres, cellGet_replaceRange hrise' hsrc,
        if_neg hout, if_neg hout]
      exact ⟨rfl, rfl⟩
  case released =>
    intro s h hh
    exact ⟨_, State.here_release hh, rfl, rfl, rfl, ⟨rfl, rfl, rfl, rfl, rfl, rfl, rfl⟩,
      (s.sameRest_modPath _ _ _).trans (State.sameRest_bump _ _ _)⟩

end Sys2Proof.Claims
end

section
/-! PROOF. How a register instruction looks at its operands, and what no instruction under the never-guard does (R24, R26, R102, R118). -/
namespace Sys2Proof.Claims
open Sys2Proof.Machine

/-- A register instruction is its decode checks, its never-guard and the checks of its claim's sources, in that order, before anything else;
the sources that have an fe bit follow the guard (R26, R118, R121). -/
def ChecksFirst (h : Here) (i : Instr) (c : RegClaim) : Prop :=
  ∃ srcs body mbody, (∀ s, exec i s = agentRun { c.form with defer := c.defer } (isNever c.guard) body mbody s) ∧
    (∀ s e, checkSources s h.p srcs = .error e → body s h = .error e) ∧ srcs.map (·.1) = c.reads ∧
    ∃ pre post, srcs = pre ++ feSources h i ++ post ∧ ∀ x ∈ pre, x.1 = guardName c.guard

/-- An instruction whose body checks its sources and then goes on. -/
theorem checksFirst_of_body {h : Here} {i : Instr} {c : RegClaim} {never : Bool} {f : InstrForm} {srcs : Here → List (RegName × Bool)}
    {rest : State → Here → Res State}
    {mbody : State → MHere → MRes State}
    (hx : exec i = agentRun f never (fun s h => checkSources s h.p (srcs h) >>= fun _ => rest s h) mbody)
    (hf : f = { c.form with defer := c.defer }) (hn : never = isNever c.guard) (hr : (srcs h).map (·.1) = c.reads)
    {pre : List (RegName × Bool)} (hp : pre ++ feSources h i <+: srcs h) (hg : ∀ x ∈ pre, x.1 = guardName c.guard) : ChecksFirst h i c := by
  obtain ⟨post, hpost⟩ := hp
  refine ⟨srcs h, fun s h => checkSources s h.p (srcs h) >>= fun _ => rest s h, mbody, fun s => ?_, fun s e he => ?_, hr, pre, post, hpost.symm, hg⟩
  · rw [hx, hf, hn]
  · exact congrArg (fun x => x >>= fun _ => rest s h) he

/-- An instruction with a guard: the guard is its first source. -/
theorem checksFirst_guarded {h : Here} {i : Instr} {c : RegClaim} {never : Bool} {f : InstrForm} {srcs : Here → List (RegName × Bool)}
    {rest : State → Here → Res State}
    (hx : exec i = knotOp f never fun s h => checkSources s h.p (guardSource c.guard :: srcs h) >>= fun _ => rest s h)
    (hf : f = { c.form with defer := c.defer }) (hn : never = isNever c.guard)
    (hr : guardName c.guard :: (srcs h).map (·.1) = c.reads) (hp : feSources h i <+: srcs h) : ChecksFirst h i c :=
  checksFirst_of_body (srcs := fun h => guardSource c.guard :: srcs h) (pre := [guardSource c.guard]) hx hf hn hr
    ((List.prefix_cons_inj _).mpr hp) (fun x hx => by rw [List.mem_singleton.mp hx]; rfl)

/-- The sources of a fold by name. -/
theorem foldSources_names (h : Here) (g : Guard) (a : VReg) (b : SReg) (e f : Bool) :
    (foldSources h g a b e f).map (·.1) = [guardName g, vecName h a] ++ accName b := by
  unfold foldSources accName
  split <;> rfl

/-- REDUCE and SCAN, whose accumulating form reads a scalar too. -/
theorem checksFirst_fold {h : Here} {i : Instr} {c : RegClaim} {never : Bool} {form : InstrForm} {g : Guard} {a : VReg} {b : SReg}
    {e f : Bool} {rest : State → Here → Res State}
    (hx : exec i = knotOp form never fun s h => checkSources s h.p (foldSources h g a b e f) >>= fun _ => rest s h)
    (hf : form = { c.form with defer := c.defer }) (hn : never = isNever c.guard)
    (hr : c.reads = [guardName g, vecName h a] ++ accName b) (hfe : feSources h i = []) : ChecksFirst h i c :=
  checksFirst_of_body (srcs := fun h => foldSources h g a b e f) (pre := []) hx hf hn ((foldSources_names h g a b e f).trans hr.symm)
    (by rw [hfe]; exact List.nil_prefix) (List.forall_mem_nil _)

theorem checksFirst_int {h : Here} {i : Instr} {c : RegClaim} (hc : intClaim h i = some c) : ChecksFirst h i c := by
  unfold intClaim at hc
  split at hc
  all_goals cases hc
  all_goals exact checksFirst_guarded rfl rfl rfl rfl ⟨_, rfl⟩

theorem checksFirst_float {h : Here} {i : Instr} {c : RegClaim} (hc : floatClaim h i = some c) : ChecksFirst h i c := by
  unfold floatClaim at hc
  split at hc
  all_goals cases hc
  all_goals exact checksFirst_guarded rfl rfl rfl rfl ⟨_, rfl⟩

theorem checksFirst_pred {h : Here} {i : Instr} {c : RegClaim} (hc : predFamilyClaim h i = some c) : ChecksFirst h i c := by
  unfold predFamilyClaim at hc
  split at hc
  all_goals cases hc
  all_goals exact checksFirst_guarded rfl rfl rfl rfl ⟨_, rfl⟩

theorem checksFirst_convert {h : Here} {i : Instr} {c : RegClaim} (hc : convertClaim h i = some c) : ChecksFirst h i c := by
  unfold convertClaim at hc
  split at hc
  all_goals cases hc
  -- CVT, which reads a register or a pair
  case h_1 g d a e r t x =>
    refine checksFirst_guarded rfl rfl rfl ?_ List.nil_prefix
    cases x <;> rfl
  all_goals exact checksFirst_guarded rfl rfl rfl rfl ⟨_, rfl⟩

theorem checksFirst_cross {h : Here} {i : Instr} {c : RegClaim} (hc : crossClaim h i = some c) : ChecksFirst h i c := by
  unfold crossClaim at hc
  split at hc
  all_goals cases hc
  -- REDUCE and SCAN
  case h_1 | h_2 | h_3 | h_4 | h_5 | h_6 | h_7 | h_8 | h_9 | h_10 | h_11 | h_12 | h_13 | h_14 | h_15 | h_16 | h_17 | h_18 | h_19 | h_20
      | h_21 => exact checksFirst_fold rfl rfl rfl rfl rfl
  all_goals exact checksFirst_guarded rfl rfl rfl rfl ⟨_, rfl⟩

theorem checksFirst_scalar {h : Here} {i : Instr} {c : RegClaim} (hc : scalarClaim h i = some c) : ChecksFirst h i c := by
  obtain ⟨x, hx, rfl⟩ := Option.map_eq_some_iff.mp hc
  unfold scalarValue at hx
  split at hx
  all_goals cases hx
  all_goals exact checksFirst_of_body (pre := []) rfl rfl rfl rfl ⟨_, rfl⟩ (List.forall_mem_nil _)

/-- Every claim of a register instruction is one of a family's table. -/
theorem checksFirst {h : Here} {i : Instr} {c : RegClaim} (hc : registerClaim h i = some c) : ChecksFirst h i c := by
  simp only [registerClaim, Option.or_eq_some_iff] at hc
  rcases hc with (((hc | ⟨-, hc⟩) | ⟨-, hc⟩) | ⟨-, hc⟩) | ⟨-, hc | ⟨-, hc⟩⟩
  · exact checksFirst_int hc
  · exact checksFirst_float hc
  · exact checksFirst_convert hc
  · exact checksFirst_pred hc
  · exact checksFirst_cross hc
  · exact checksFirst_scalar hc

/-- An instruction of a path that is its decode checks and no more (R118). -/
def OnlyDecodes (h : Here) (i : Instr) (f : InstrForm) : Prop :=
  ∀ s, ∃ f' body mbody, exec i s = agentRun f' true body mbody s ∧ decodeTrap s h f' = decodeTrap s h f

/-- An instruction with a guard field is under the never-guard when that is 15 (R117). -/
theorem onlyDecodes_guard {h : Here} (I : Guard → Instr) {g : Guard} {f : InstrForm} (hf : neverForm (I g) = some f)
    (hn : decide (∀ g, g ≠ 15 → neverForm (I g) = none) = true) (hx : OnlyDecodes h (I 15) ((neverForm (I 15)).getD .plain)) :
    OnlyDecodes h (I g) f := by
  by_cases hg : g = 15
  · subst hg
    rwa [hf] at hx
  · rw [of_decide_eq_true hn g hg] at hf
    cases hf

/-- An instruction with a never-guard bit is under the never-guard when that is set (R117). -/
theorem onlyDecodes_bit {h : Here} (I : Bool → Instr) {g : Bool} {f : InstrForm} (hf : neverForm (I g) = some f)
    (hn : neverForm (I false) = none) (hx : OnlyDecodes h (I true) ((neverForm (I true)).getD .plain)) : OnlyDecodes h (I g) f := by
  cases g with
  | false => rw [hn] at hf; cases hf
  | true => rwa [hf] at hx

/-- Every instruction under the never-guard is its decode checks and no more. -/
theorem onlyDecodes_of_neverForm {h : Here} {i : Instr} {f : InstrForm} (hf : neverForm i = some f) : OnlyDecodes h i f := by
  cases i with
  | ld g d a b e z o => exact onlyDecodes_guard (.ld · d a b e z o) hf rfl fun _ => ⟨_, _, _, rfl, rfl⟩
  | st g s a b e z o => exact onlyDecodes_guard (.st · s a b e z o) hf rfl fun _ => ⟨_, _, _, rfl, rfl⟩
  | atm g d a b e o t => exact onlyDecodes_guard (.atm · d a b e o t) hf rfl fun _ => ⟨_, _, _, rfl, rfl⟩
  | stp g s a b e z o => exact onlyDecodes_guard (.stp · s a b e z o) hf rfl fun _ => ⟨_, _, _, rfl, rfl⟩
  | atp g s a b e o t => exact onlyDecodes_guard (.atp · s a b e o t) hf rfl fun _ => ⟨_, _, _, rfl, rfl⟩
  | atpVadd g s a b e p t => exact onlyDecodes_guard (.atpVadd · s a b e p t) hf rfl fun _ => ⟨_, _, _, rfl, rfl⟩
  | pld g d a b e z o => exact onlyDecodes_guard (.pld · d a b e z o) hf rfl fun _ => ⟨_, _, _, rfl, rfl⟩
  | pst g s a b e z o => exact onlyDecodes_guard (.pst · s a b e z o) hf rfl fun _ => ⟨_, _, _, rfl, rfl⟩
  | patm g d a b e o t => exact onlyDecodes_guard (.patm · d a b e o t) hf rfl fun _ => ⟨_, _, _, rfl, rfl⟩
  | brc g w o => exact onlyDecodes_guard (.brc · w o) hf rfl fun _ => ⟨_, _, _, rfl, rfl⟩
  | bru g o => exact onlyDecodes_guard (.bru · o) hf rfl fun _ => ⟨_, _, _, rfl, rfl⟩
  | emit g d a e => exact onlyDecodes_guard (.emit · d a e) hf rfl fun _ => ⟨_, _, _, rfl, rfl⟩
  | qpush g p a b e f => exact onlyDecodes_guard (.qpush · p a b e f) hf rfl fun _ => ⟨_, _, _, rfl, rfl⟩
  | qpop g d b f => exact onlyDecodes_guard (.qpop · d b f) hf rfl fun _ => ⟨_, _, _, rfl, rfl⟩
  | chapp g d a b e f => exact onlyDecodes_guard (.chapp · d a b e f) hf rfl fun _ => ⟨_, _, _, rfl, rfl⟩
  | mma g a t k => exact onlyDecodes_guard (.mma · a t k) hf rfl fun _ => ⟨_, _, _, rfl, rfl⟩
  | mmas g a t v f k => exact onlyDecodes_guard (.mmas · a t v f k) hf rfl fun _ => ⟨_, _, _, rfl, rfl⟩
  | accrd g d a z f => exact onlyDecodes_guard (.accrd · d a z f) hf rfl fun _ => ⟨_, _, _, rfl, rfl⟩
  | accrd4 g d a z f => exact onlyDecodes_guard (.accrd4 · d a z f) hf rfl fun _ => ⟨_, _, _, rfl, rfl⟩
  | accwr g a v z e f => exact onlyDecodes_guard (.accwr · a v z e f) hf rfl fun _ => ⟨_, _, _, rfl, rfl⟩
  | accwr4 g a v z e f => exact onlyDecodes_guard (.accwr4 · a v z e f) hf rfl fun _ => ⟨_, _, _, rfl, rfl⟩
  | lds g d b e z o => exact onlyDecodes_bit (.lds · d b e z o) hf rfl fun _ => ⟨_, _, _, rfl, rfl⟩
  | sts g s b e z o => exact onlyDecodes_bit (.sts · s b e z o) hf rfl fun _ => ⟨_, _, _, rfl, rfl⟩
  | home g d b e o => exact onlyDecodes_bit (.home · d b e o) hf rfl fun _ => ⟨_, _, _, rfl, rfl⟩
  | ptab g d i => exact onlyDecodes_bit (.ptab · d i) hf rfl fun _ => ⟨_, _, _, rfl, rfl⟩
  | ptabFail g d i => exact onlyDecodes_bit (.ptabFail · d i) hf rfl fun _ => ⟨_, _, _, rfl, rfl⟩
  | fence g => exact onlyDecodes_bit .fence hf rfl fun _ => ⟨_, _, _, rfl, rfl⟩
  | pstep g => exact onlyDecodes_bit .pstep hf rfl fun _ => ⟨_, _, _, rfl, rfl⟩
  | bar g i s => exact onlyDecodes_bit (.bar · i s) hf rfl fun _ => ⟨_, _, _, rfl, rfl⟩
  | bara g i s => exact onlyDecodes_bit (.bara · i s) hf rfl fun _ => ⟨_, _, _, rfl, rfl⟩
  | barw g i s => exact onlyDecodes_bit (.barw · i s) hf rfl fun _ => ⟨_, _, _, rfl, rfl⟩
  | pack g => exact onlyDecodes_bit .pack hf rfl fun _ => ⟨_, _, _, rfl, rfl⟩
  | regroup g d a e => exact onlyDecodes_bit (.regroup · d a e) hf rfl fun _ => ⟨_, _, _, rfl, rfl⟩
  | bra g o => exact onlyDecodes_bit (.bra · o) hf rfl fun _ => ⟨_, _, _, rfl, rfl⟩
  | depdec g a e => exact onlyDecodes_bit (.depdec · a e) hf rfl fun _ => ⟨_, _, _, rfl, rfl⟩
  | bfork g d => exact onlyDecodes_bit (.bfork · d) hf rfl fun _ => ⟨_, _, _, rfl, rfl⟩
  | bforkStamp g a e => exact onlyDecodes_bit (.bforkStamp · a e) hf rfl fun _ => ⟨_, _, _, rfl, rfl⟩
  | bcancel g a e => exact onlyDecodes_bit (.bcancel · a e) hf rfl fun _ => ⟨_, _, _, rfl, rfl⟩
  | chfork g d a e => exact onlyDecodes_bit (.chfork · d a e) hf rfl fun _ => ⟨_, _, _, rfl, rfl⟩
  | chrel g a e => exact onlyDecodes_bit (.chrel · a e) hf rfl fun _ => ⟨_, _, _, rfl, rfl⟩
  | tcfg g t y e => exact onlyDecodes_bit (.tcfg · t y e) hf rfl fun _ => ⟨_, _, _, rfl, rfl⟩
  | tld g t y z e f => exact onlyDecodes_bit (.tld · t y z e f) hf rfl fun _ => ⟨_, _, _, rfl, rfl⟩
  | tst g t y z e f => exact onlyDecodes_bit (.tst · t y z e f) hf rfl fun _ => ⟨_, _, _, rfl, rfl⟩
  | tzero g t => exact onlyDecodes_bit (.tzero · t) hf rfl fun _ => ⟨_, _, _, rfl, rfl⟩
  | wld g t y e => exact onlyDecodes_bit (.wld · t y e) hf rfl fun _ => ⟨_, _, _, rfl, rfl⟩
  | mbatch g d => exact onlyDecodes_bit (.mbatch · d) hf rfl fun _ => ⟨_, _, _, rfl, rfl⟩
  | mwait g y e => exact onlyDecodes_bit (.mwait · y e) hf rfl fun _ => ⟨_, _, _, rfl, rfl⟩
  | accget g d n => exact onlyDecodes_bit (.accget · d n) hf rfl fun _ => ⟨_, _, _, rfl, rfl⟩
  | accput g => exact onlyDecodes_bit .accput hf rfl fun _ => ⟨_, _, _, rfl, rfl⟩
  | acq g a => exact onlyDecodes_bit (.acq · a) hf rfl fun _ => ⟨_, _, _, rfl, rfl⟩
  | rel g a => exact onlyDecodes_bit (.rel · a) hf rfl fun _ => ⟨_, _, _, rfl, rfl⟩
  | _ => cases hf

/-- What stops an instruction at a source that is not full. -/
theorem ChecksFirst.stops {s : State} {h : Here} {i : Instr} {c : RegClaim} (hc : ChecksFirst h i c)
    (ha : Admits s h.u h { c.form with defer := c.defer }) (hg : c.guard ≠ 15) :
    ∃ srcs : List (RegName × Bool), srcs.map (·.1) = c.reads ∧
      (∃ pre post, srcs = pre ++ feSources h i ++ post ∧ ∀ x ∈ pre, x.1 = guardName c.guard) ∧
      (∀ x, checkSources s h.p srcs = .error (.trap x s) → exec i s = .next (s.takeTrap h.u x)) ∧
      ∀ w, checkSources s h.p srcs = .error (.wait w s) → exec i s = .next (s.block h.u w) := by
  obtain ⟨srcs, body, mbody, hi, hb, hr, hp⟩ := hc
  have hn : isNever c.guard = false := isNever_false hg
  exact ⟨srcs, hr, hp, fun x hx => exec_of_trap ha (hi s) hn (hb s _ hx), fun w hx => exec_of_wait ha (hi s) hn (hb s _ hx)⟩

/-- Settles O5: each register instruction is one whose decode checks, never-guard and source checks come first; what is under the
never-guard is its decode checks alone. -/
theorem operandChecks : Obligations.OperandChecks := by
  unfold Obligations.OperandChecks
  refine ⟨fun s h i c hc ha hg => ?never, fun s h i f hf hcur hh => ?others, fun s h i c before after r hc ha hg hr hb hd => ?dead,
    fun s h i c before after r e hc ha hg hgf hfe hb => ?stops, fun s h i c hc hcur hh hm => ?hints⟩
  case never =>
    obtain ⟨srcs, body, mbody, hi, -⟩ := checksFirst hc
    have hn : isNever c.guard = true := by rw [hg]; rfl
    exact ⟨_, exec_of_never ha.cur ha.here ha.decode (hi s) hn, retire_completes ha.here⟩
  case others =>
    obtain ⟨f', body, mbody, hi, hd⟩ := onlyDecodes_of_neverForm (h := h) hf s
    refine ⟨fun hn => ⟨_, exec_of_never hcur hh (hd.trans hn) hi rfl, retire_completes hh⟩, fun code hx => ?_⟩
    rw [hi, agentRun_path hcur hh, pathRun_decodeTrap (hd.trans hx)]
  case dead =>
    obtain ⟨srcs, hs, -, htrap, -⟩ := (checksFirst hc).stops ha hg
    rw [hr] at hs
    obtain ⟨pre, post, rfl, hpre, hpost⟩ := List.map_eq_append_iff.mp hs
    obtain ⟨⟨r', fe⟩, rest, rfl, rfl, hrest⟩ := List.map_eq_cons_iff.mp hpost
    refine htrap _ (checkSources_stop s h.p _ fe (fun q hq => hb _ (hpre ▸ List.mem_map_of_mem hq)) ?_)
    simp only [checkSource, hd]
  case stops =>
    obtain ⟨srcs, -, ⟨pre, post, rfl, hpre⟩, htrap, hwait⟩ := (checksFirst hc).stops ha hg
    have hstop : ∀ x, checkSource s h.p r e = .error x → checkSources s h.p (pre ++ feSources h i ++ post) = .error x := fun x hx => by
      rw [hfe, List.append_assoc, List.append_assoc, ← List.append_assoc, List.cons_append]
      refine checkSources_stop s h.p r e (fun q hq => ?_) hx
      rcases List.mem_append.mp hq with hq | hq
      · rw [hpre q hq]; exact hgf
      · exact hb q hq
    refine ⟨fun hst he => htrap _ (hstop _ ?_), fun hst he => hwait _ (hstop _ ?_), fun x hst hx => htrap _ (hstop _ ?_)⟩
    · simp only [checkSource, hst, he, if_true]
    · simp only [checkSource, hst, he, Bool.false_eq_true, if_false]
    · simp only [checkSource, hst, pendingTrap, hx]
  case hints =>
    obtain ⟨srcs, body, mbody, hi, -⟩ := checksFirst hc
    have hd : decodeTrap s h { c.form with defer := c.defer } = some .illegal := if_pos hm
    rw [hi, agentRun_path hcur hh, pathRun_decodeTrap hd]

end Sys2Proof.Claims
end

section
/-! PROOF. JOIN: the arrival of a path, the merge of a pond, waiting and travel (R41 to R43, R182). -/
namespace Sys2Proof.Machine

/-- Two states that differ in the areas in use of the landing zones alone. -/
def State.OnlyAreas (s t : State) : Prop := ∃ a, t = { s with mem := { s.mem with areas := a } }

theorem State.OnlyAreas.refl (s : State) : s.OnlyAreas s := ⟨s.mem.areas, rfl⟩

theorem State.OnlyAreas.trans {s t r : State} (h : s.OnlyAreas t) (h' : t.OnlyAreas r) : s.OnlyAreas r := by
  obtain ⟨a, rfl⟩ := h
  obtain ⟨b, rfl⟩ := h'
  exact ⟨b, rfl⟩

theorem State.OnlyAreas.path? {s t : State} (h : s.OnlyAreas t) (v : Nat) : t.path? v = s.path? v := by
  obtain ⟨a, rfl⟩ := h
  rfl

theorem State.OnlyAreas.here {s t : State} (h : s.OnlyAreas t) (v : Nat) : t.here v = s.here v := by
  obtain ⟨a, rfl⟩ := h
  rfl

theorem State.OnlyAreas.zoneRead {s t : State} (h : s.OnlyAreas t) (home off n : Nat) : t.zoneRead home off n = s.zoneRead home off n := by
  obtain ⟨a, rfl⟩ := h
  have hraw : ∀ pa, ({ s with mem := { s.mem with areas := a } } : State).readRaw pa n = s.readRaw pa n := fun _ => rfl
  exact hraw (zoneAddr home off)

theorem State.OnlyAreas.poisoned {s t : State} (h : s.OnlyAreas t) (pa n : Nat) : t.mem.poisoned pa n = s.mem.poisoned pa n := by
  obtain ⟨a, rfl⟩ := h
  rfl

theorem State.onlyAreas_freeImage (s : State) (img : Stored) : s.OnlyAreas (s.freeImage img) := by
  unfold State.freeImage
  split
  · exact .refl s
  · exact ⟨_, rfl⟩

/-- An image of a path as it was stored, in no sector that is uncorrectable (R57), or one that takes no space (R36). -/
def State.ImageKept (s : State) (g : Here) (img : Stored) : Prop :=
  img.len = 0 ∨ (s.zoneRead img.home img.off img.len = imageBytes g img.flags img.seed img.block ∧
    s.mem.poisoned (zoneAddr img.home img.off) img.len = false)

theorem State.OnlyAreas.imageKept {s t : State} (h : s.OnlyAreas t) {g : Here} {img : Stored} (hk : s.ImageKept g img) :
    t.ImageKept g img := by
  unfold State.ImageKept
  rw [h.zoneRead, h.poisoned]
  exact hk

theorem State.onlyAreas_loadImage {s : State} {u : Nat} {g : Here} {img : Stored} (hh : s.here u = some g) (hk : s.ImageKept g img) :
    s.OnlyAreas (s.loadImage u img) := by
  unfold State.loadImage
  simp only [hh]
  split
  · exact .refl s
  · next hlen =>
    obtain ⟨hbytes, hpoison⟩ := hk.resolve_left hlen
    have htake : s.takeImage g img (s.zoneRead img.home img.off img.len) = s := by
      simp only [State.takeImage, hbytes, if_true]
    have hclean : s.poisonImage u img = s := by
      simp only [State.poisonImage, hpoison, Bool.false_eq_true, if_false]
    rw [htake, hclean]
    exact s.onlyAreas_freeImage img

/-- The images of waiting paths, as they were stored, are taken back with nothing but their space changed. -/
theorem State.onlyAreas_reload : ∀ {us : List Nat} {s : State},
    (∀ v ∈ us, ∀ p, s.path? v = some p → ∀ id img, p.place = .joined id img → ∃ g, s.here v = some g ∧ s.ImageKept g img) →
    s.OnlyAreas (s.reload us)
  | [], s, _ => .refl s
  | u :: us, s, h => by
    have hu := h u List.mem_cons_self
    have step : ∀ t : State, s.OnlyAreas t → s.OnlyAreas (t.reload us) := fun t ht =>
      ht.trans (State.onlyAreas_reload fun v hv p hp id img hpl => by
        obtain ⟨g, hg, hk⟩ := h v (List.mem_cons_of_mem u hv) p ((ht.path? v).symm.trans hp) id img hpl
        exact ⟨g, (ht.here v).trans hg, ht.imageKept hk⟩)
    unfold State.reload
    refine step _ ?_
    split
    · next p hp =>
      split
      · next id img hpl =>
        obtain ⟨g, hg, hk⟩ := hu p hp id img hpl
        exact State.onlyAreas_loadImage hg hk
      · exact .refl s
    · exact .refl s

/-- What the arrivals of a pond become (R42): `all` are their paths, `p` that which makes the last arrival. -/
def mergedPath (all : List Path) (p : Path) (inst : Inst) (place : Place) (pushed : List Nat) : Path :=
  { p with
    ctx := mergeCtx ((all.find? fun q => q.ctx.mask.getLsbD (lowestOf inst.expected)).getD p).ctx (all.map (·.ctx))
      ((inst.first.map (·.1)).getD p.ctx.pc) inst.expected pushed (if p.super then p.ctx.wd else 0)
    place := place, home := inst.anchor, hints := .none, pend := .none, wait := none, blockedAt := none, flights := [], faults := [],
    trapHeld := all.flatMap (·.trapHeld) }

theorem spFind_foldl_spDrop {α : Type} (i : Nat) : ∀ {vs : List Nat} {m : Sparse α}, (vs = [] ∨ spRising none m = true) →
    spFind i (vs.foldl (fun m v => spDrop v m) m) = if i ∈ vs then none else spFind i m
  | [], m, _ => by simp
  | v :: vs, m, h => by
    have hm : spRising none m = true := h.resolve_left (List.cons_ne_nil v vs)
    rw [List.foldl_cons, spFind_foldl_spDrop i (.inr (spRising_spDrop v hm))]
    by_cases hiv : i = v
    · subst hiv
      simp [spFind_spDrop_same i hm]
    · simp [hiv, spFind_spDrop_ne hiv hm]

/-- The merge of arrivals whose images are as they were stored (R42, R57). -/
theorem State.merge_of_kept {s : State} {u : Nat} {p : Path} {k : Knot} {inst : Inst} {others : List Nat} {id : Nat}
    (place : Place) (pushed : List Nat)
    (ha : s.OnlyAreas (s.reload (u :: others))) (hp : s.path? u = some p)
    (hk : spFind p.knot s.knots = some k) (hi : (k.insts.find? fun i => i.id == id) = some inst)
    (hr : others = [] ∨ spRising none s.paths = true) (hu : u ∉ others) :
    (s.merge p.knot id u others place pushed).here u =
      some { u := u, p := mergedPath ((u :: others).filterMap s.path?) p inst place pushed, k := k.closeInst id } ∧
    (∀ v, v ≠ u → (s.merge p.knot id u others place pushed).path? v = if v ∈ others then none else s.path? v) ∧
    ∀ key a, (s.merge p.knot id u others place pushed).mem.readByte key a = s.mem.readByte key a := by
  obtain ⟨a, ha⟩ := ha
  have hm : s.merge p.knot id u others place pushed =
      ((({ s with mem := { s.mem with areas := a }, paths := (others.foldl (fun m v => spDrop v m) s.paths) } : State).modKnot p.knot
        fun k => k.closeInst id).modPath u fun q =>
          { mergedPath ((u :: others).filterMap s.path?) p inst place pushed with
            knot := q.knot, super := q.super, entry := q.entry, halt := q.halt, blockedCycle := q.blockedCycle
            lastIssue := q.lastIssue }) := by
    unfold State.merge
    rw [ha]
    simp only [State.path?] at hp
    simp only [State.path?, hp, hk, hi]
    rfl
  have hpath : ∀ v, spFind v (others.foldl (fun m v => spDrop v m) s.paths) = if v ∈ others then none else s.path? v :=
    fun v => spFind_foldl_spDrop v hr
  rw [hm]
  refine ⟨State.here_eq_some.mpr ⟨rfl, ?_, ?_⟩, fun v hv => ?_, fun key a => rfl⟩
  · refine (State.path?_modPath_same _ _ _).trans ?_
    refine (congrArg (Option.map _) ((hpath u).trans (if_neg hu))).trans ?_
    rw [hp]
    rfl
  · exact (spFind_spModify_same p.knot _ _).trans (congrArg (Option.map _) hk)
  · exact (State.path?_modPath_ne _ hv _).trans (hpath v)

/-- The lowest lane of a mask. -/
theorem lowestOf_eq {m : Mask} {low : Nat} (h : m.getLsbD low = true) (hl : ∀ l < low, m.getLsbD l = false) : lowestOf m = low := by
  have hlt : low < 1024 := BitVec.lt_of_getLsbD h
  have hhead : (lanesOf m 1024).head? = some low := by
    unfold lanesOf
    rw [List.head?_filter, List.find?_range_eq_some]
    exact ⟨h, List.mem_range.mpr hlt, fun l hlow => by simp [hl l hlow]⟩
  rw [lowestOf, List.headD_eq_head?_getD, hhead]
  rfl

/-- A register's state after a merge: full where full in every arrival, otherwise dead (R42). -/
theorem spGet_mergeStates {m : Sparse RegState} {rest : List (Sparse RegState)} (hm : spRising none m = true) (r : Nat) :
    spGet .dead (mergeStates (m :: rest)) r = if ∀ n ∈ m :: rest, spGet .dead n r = .full then .full else .dead := by
  have hfind : spFind r (mergeStates (m :: rest)) = (spFind r m).filter fun v => v == .full && rest.all fun n => spGet .dead n r == .full :=
    spFind_filter_entry _ r hm
  unfold spGet at hfind ⊢
  rw [hfind]
  cases hv : spFind r m with
  | none => simp [hv]
  | some v =>
    by_cases hfull : v = .full
    · simp only [hfull, Option.filter, beq_self_eq_true, Bool.true_and, List.all_eq_true, beq_iff_eq, List.forall_mem_cons, hv,
        Option.getD_some, true_and]
      split <;> rfl
    · simp [Option.filter, hv, hfull]

theorem getLsbD_foldl_or {α : Type} {w : Nat} (g : α → BitVec w) (i : Nat) : ∀ (l : List α) (z : BitVec w),
    (l.foldl (fun f c => f ||| g c) z).getLsbD i = (z.getLsbD i || l.any fun c => (g c).getLsbD i)
  | [], z => by simp
  | c :: l, z => by rw [List.foldl_cons, getLsbD_foldl_or g i l, BitVec.getLsbD_or, List.any_cons, Bool.or_assoc]

/-- A register's state in a merged path (R42). -/
theorem stateOf_mergeCtx {lead a : Ctx} {as : List Ctx} {pc : Pc} {mask : Mask} {pushed : List Nat} {wd : Nat} (ha : Claims.TablesRise a)
    (r : RegName) : (mergeCtx lead (a :: as) pc mask pushed wd).stateOf r =
      if ∀ c ∈ a :: as, c.stateOf r = .full then .full else .dead := by
  obtain ⟨hv, hs, hp⟩ := ha
  have merged : ∀ (t : Ctx → Sparse RegState), spRising none (t a) = true →
      spGet .dead (mergeStates ((a :: as).map t)) r.num = if ∀ c ∈ a :: as, spGet .dead (t c) r.num = .full then .full else .dead :=
    fun t ht => by simpa only [List.map_cons, List.forall_mem_cons, List.forall_mem_map] using spGet_mergeStates ht r.num (rest := as.map t)
  obtain ⟨file, num⟩ := r
  cases file with
  | vec => exact merged (·.vst) hv
  | scal =>
    by_cases hn : num = 0
    · simp [Ctx.stateOf, Ctx.scalState, hn]
    · simp only [Ctx.stateOf, Ctx.scalState, if_neg hn]
      exact merged (·.sst) hs
  | pred =>
    by_cases hn : num = 7
    · simp [Ctx.stateOf, Ctx.predState, hn]
    · simp only [Ctx.stateOf, Ctx.predState, if_neg hn]
      exact merged (·.pst) hp

end Sys2Proof.Machine

namespace Sys2Proof.Claims
open Sys2Proof.Machine

/-- The path that a merge takes its scalars from has the lowest expected lane, if an arrival has it (R42). -/
theorem lead_mem {p : Path} {ps : List Path} {low : Nat} (h : ∃ x ∈ p :: ps, x.ctx.mask.getLsbD low = true) :
    ∃ q ∈ p :: ps, q.ctx.mask.getLsbD low = true ∧ ((p :: ps).find? fun q => q.ctx.mask.getLsbD low).getD p = q := by
  obtain ⟨x, hx, hlow⟩ := h
  cases hf : (p :: ps).find? fun q => q.ctx.mask.getLsbD low with
  | none => exact absurd hlow (by simpa using List.find?_eq_none.mp hf x hx)
  | some q => exact ⟨q, List.mem_of_find?_eq_some hf, List.find?_some (p := fun q : Path => q.ctx.mask.getLsbD low) hf, rfl⟩

/-- The merged path is what R42 says, whatever the watchdog count and the lanes sent of the last arrival. -/
theorem merged_mergedPath {p : Path} {ps : List Path} {a0 : Ctx} {w : Nat} {sent : Mask} (hp : p.ctx = { a0 with wd := w, sent := sent })
    (ht : TablesRise a0) (inst : Inst) (place : Place) (pushed : List Nat) :
    Merged (a0 :: ps.map (·.ctx)) inst.expected (mergedPath (p :: ps) p inst place pushed).ctx := by
  have hctx : ∀ r, (mergedPath (p :: ps) p inst place pushed).ctx.stateOf r =
      if ∀ c ∈ a0 :: ps.map Path.ctx, c.stateOf r = .full then RegState.full else .dead := fun r => by
    have hr := stateOf_mergeCtx (lead := (((p :: ps).find? fun q => q.ctx.mask.getLsbD (lowestOf inst.expected)).getD p).ctx) (a := p.ctx)
      (as := ps.map Path.ctx) (pc := (inst.first.map (·.1)).getD p.ctx.pc) (mask := inst.expected) (pushed := pushed)
      (wd := if p.super then p.ctx.wd else 0) (by rw [hp]; exact ht) r
    have ha : p.ctx.stateOf r = a0.stateOf r := by rw [hp]; rfl
    simp only [List.forall_mem_cons, ha] at hr ⊢
    exact hr
  refine ⟨rfl, rfl, fun r hr => ?_, fun r hr => ?_, fun a ha low hlow hleast hmask huniq => ?_, fun i => ?_⟩
  · rw [hctx, if_pos hr]
  · obtain ⟨a, ha, hne⟩ := hr
    rw [hctx, if_neg fun hall => hne (hall a ha)]
  · have hlowest : lowestOf inst.expected = low := lowestOf_eq hlow hleast
    have hin : ∃ x ∈ p :: ps, x.ctx.mask.getLsbD low = true := by
      rcases List.mem_cons.mp ha with rfl | ha
      · exact ⟨p, List.mem_cons_self, by rw [hp]; exact hmask⟩
      · obtain ⟨x, hx, rfl⟩ := List.mem_map.mp ha
        exact ⟨x, List.mem_cons_of_mem p hx, hmask⟩
    obtain ⟨q, hq, hqlow, hlead⟩ := lead_mem hin
    have hsame : ∃ w sent, q.ctx = { a with wd := w, sent := sent } := by
      rcases List.mem_cons.mp hq with rfl | hq
      · rw [hp] at hqlow ⊢
        exact ⟨w, sent, by rw [huniq a0 List.mem_cons_self hqlow]⟩
      · exact ⟨q.ctx.wd, q.ctx.sent, by rw [← huniq q.ctx (List.mem_cons_of_mem a0 (List.mem_map_of_mem hq)) hqlow]⟩
    obtain ⟨w', sent', hq'⟩ := hsame
    unfold mergedPath
    rw [hlowest, hlead, hq']
    exact ⟨fun i => rfl, rfl, rfl, rfl, rfl⟩
  · have hflags := getLsbD_foldl_or (fun c : Ctx => c.fpstat) i ((p :: ps).map (·.ctx)) 0
    refine hflags.trans ?_
    simp [hp]

/-- A path after R30. -/
theorem here_stateCarried {s : State} {h : Here} (hh : s.here h.u = some h) :
    (stateCarried s h).here h.u = some { h with p := carriedOnly s h } := here_applyDeath hh _

/-- What a JOIN does at its pond after R30 and its FENCE (R182). -/
def joinAt (s : State) (h : Here) (inst : Inst) : Res State :=
  if inst.anchor = h.p.home then do
    needFilled (stateCarried s h) { h with p := carriedOnly s h }
    (stateCarried s h).arriveJoin { h with p := carriedOnly s h } inst
  else if h.k.rooted then .error (.trap { code := .rooted } (stateCarried s h))
  else do
    carriedReady (stateCarried s h) (carriedOnly s h) (carriedSet s.heap h.p.ctx).names
    .ok ((((stateCarried s h).modPath h.u fun p => { p with pend := .arrive inst.id }).depart h.u inst.anchor).bump)

/-- JOIN, after its FENCE, at its pond (R182). -/
theorem execJoin_of_ok {s t : State} {h : Here} {w : Pond} {inst : Inst} (ha : Admits s h.u h .plain) (hf : Fenced h)
    (hi : Innermost h w inst) (ht : joinAt s h inst = .ok t) : exec (.join w) s = .next t := by
  obtain ⟨id, hlast, hfind⟩ := hi
  have hinner : innermost { h with p := carriedOnly s h } w = some inst := by
    have hlast' : (carriedOnly s h).ctx.ponds.getLast? = some id := hlast
    simp only [innermost, hlast', hfind]
  have hfence : fence (stateCarried s h) { h with p := carriedOnly s h } = .ok () := fence_ok hf _ _ rfl rfl
  refine exec_of_ok ha rfl rfl ?_
  have happly : applyEntry s h = (stateCarried s h, { h with p := carriedOnly s h }) := applyEntry_eq ha.here
  simp only [happly, hinner, hfence]
  split
  · exact congrArg (orWait s) ht
  · exact congrArg (orWait s) ht

/-- JOIN at its anchor, once no register is empty (R41). -/
theorem joinAt_anchor {s : State} {h : Here} {inst : Inst} (hanchor : inst.anchor = h.p.home) (he : (carriedOnly s h).hasEmpty = false)
    (hfirst : inst.first = none ∨ inst.first = some (arrivalOf h)) : joinAt s h inst =
      if inst.arrived ||| h.p.ctx.mask = inst.expected then
        .ok ((((arrivalNoted s h inst).modPath h.u fun p => p.issued s.serial h.k.regs.watchdog).merge h.p.knot inst.id h.u
          ((arrivalNoted s h inst).waitingAt inst.id) h.p.place h.p.ctx.pushed).bump)
      else (arrivalNoted s h inst).waitAtJoin { h with p := carriedOnly s h } inst.id := by
  have hmeets : ¬(inst.first.isSome && inst.first != some (arrivalOf h)) = true := by
    rcases hfirst with hfirst | hfirst <;> simp [hfirst]
  have hfilled : needFilled (stateCarried s h) { h with p := carriedOnly s h } = .ok () := by
    simp only [needFilled, he, Bool.false_eq_true, if_false]
  unfold joinAt
  rw [if_pos hanchor, hfilled]
  exact if_neg hmeets

/-- The last arrival of a pond (R42). -/
theorem execJoin_last {s : State} {h : Here} {w : Pond} {inst : Inst} (ha : Admits s h.u h .plain) (hf : Fenced h)
    (hi : Innermost h w inst) (hanchor : inst.anchor = h.p.home) (he : (carriedOnly s h).hasEmpty = false)
    (hfirst : inst.first = none ∨ inst.first = some (arrivalOf h)) (hlast : inst.arrived ||| h.p.ctx.mask = inst.expected) :
    exec (.join w) s = .next ((((arrivalNoted s h inst).modPath h.u fun p => p.issued s.serial h.k.regs.watchdog).merge h.p.knot
      inst.id h.u ((arrivalNoted s h inst).waitingAt inst.id) h.p.place h.p.ctx.pushed).bump) :=
  execJoin_of_ok ha hf hi ((joinAt_anchor hanchor he hfirst).trans (if_pos hlast))

/-- An earlier arrival (R43). -/
theorem execJoin_waits {s t : State} {h : Here} {w : Pond} {inst : Inst} (ha : Admits s h.u h .plain) (hf : Fenced h)
    (hi : Innermost h w inst) (hanchor : inst.anchor = h.p.home) (he : (carriedOnly s h).hasEmpty = false)
    (hfirst : inst.first = none ∨ inst.first = some (arrivalOf h)) (hlast : inst.arrived ||| h.p.ctx.mask ≠ inst.expected)
    (ht : (arrivalNoted s h inst).waitAtJoin { h with p := carriedOnly s h } inst.id = .ok t) : exec (.join w) s = .next t :=
  execJoin_of_ok ha hf hi ((joinAt_anchor hanchor he hfirst).trans ((if_neg hlast).trans ht))

/-- Travel to the anchor (R41). -/
theorem execJoin_travels {s : State} {h : Here} {w : Pond} {inst : Inst} (ha : Admits s h.u h .plain) (hf : Fenced h)
    (hi : Innermost h w inst) (hanchor : inst.anchor ≠ h.p.home) (hk : h.k.crew = none) (hr : CarriedReady s h) :
    exec (.join w) s =
      .next ((((stateCarried s h).modPath h.u fun p => { p with pend := .arrive inst.id }).depart h.u inst.anchor).bump) := by
  refine execJoin_of_ok ha hf hi ?_
  unfold joinAt
  rw [if_neg hanchor, if_neg (by rw [Knot.rooted, hk]; exact Bool.false_ne_true), carriedReady_ok _ _ _ hr]
  rfl

/-- The state in which the arrivals of a pond merge (R42): the last arrival noted, its instruction issued. -/
def lastArrived (s : State) (h : Here) (inst : Inst) : State :=
  (arrivalNoted s h inst).modPath h.u fun p => p.issued s.serial h.k.regs.watchdog

/-- The path that makes the last arrival. -/
def lastPath (s : State) (h : Here) : Path := (carriedOnly s h).issued s.serial h.k.regs.watchdog

/-- A pond as the last arrival leaves it. -/
def lastInst (h : Here) (inst i : Inst) : Inst :=
  if i.id = inst.id then { i with arrived := inst.arrived ||| h.p.ctx.mask, first := some (i.first.getD (arrivalOf h)) } else i

theorem lastInst_id (h : Here) (inst i : Inst) : (lastInst h inst i).id = i.id := by
  unfold lastInst
  split <;> rfl

theorem lastInst_pond (h : Here) (inst i : Inst) : (lastInst h inst i).pond = i.pond := by
  unfold lastInst
  split <;> rfl

theorem here_lastArrived {s : State} {h : Here} (inst : Inst) (hh : s.here h.u = some h) :
    (lastArrived s h inst).here h.u = some { u := h.u, p := lastPath s h, k := { h.k with insts := h.k.insts.map (lastInst h inst) } } :=
  State.here_modPath (State.here_modKnot (here_applyDeath hh _) _) rfl

theorem path?_lastArrived {s : State} {h : Here} (inst : Inst) {v : Nat} (hv : v ≠ h.u) : (lastArrived s h inst).path? v = s.path? v :=
  (State.path?_modPath_ne _ hv _).trans (State.path?_modPath_ne s hv _)

/-- The pond that closes, as the last arrival leaves it. -/
theorem find_lastInst {h : Here} {inst : Inst} (hm : inst ∈ h.k.insts) (hu : ∀ i ∈ h.k.insts, i.id = inst.id → i = inst) :
    ((h.k.insts.map (lastInst h inst)).find? fun i => i.id == inst.id) = some (lastInst h inst inst) := by
  have hcomp : ((fun i : Inst => i.id == inst.id) ∘ lastInst h inst) = fun i => i.id == inst.id := funext fun i => by
    rw [Function.comp_apply, lastInst_id]
  rw [List.find?_map, hcomp]
  cases hf : h.k.insts.find? fun i => i.id == inst.id with
  | none => exact absurd (beq_self_eq_true inst.id) (List.find?_eq_none.mp hf inst hm)
  | some i => rw [hu i (List.mem_of_find?_eq_some hf) (beq_iff_eq.mp (List.find?_some (p := fun i : Inst => i.id == inst.id) hf))]; rfl

theorem closeInst_lastInst (k : Knot) (h : Here) (inst : Inst) (is : List Inst) :
    ({ k with insts := is.map (lastInst h inst) } : Knot).closeInst inst.id = { k with insts := is.filter fun i => i.id != inst.id } := by
  have hfilter : (is.map (lastInst h inst)).filter (fun i => i.id != inst.id) = is.filter fun i => i.id != inst.id := by
    induction is with
    | nil => rfl
    | cons i is ih =>
      by_cases hid : i.id = inst.id
      · simp [lastInst, hid, ih]
      · simp [lastInst, hid, ih]
  exact congrArg (fun l => ({ k with insts := l } : Knot)) hfilter

/-- The entries of a table that a predicate takes are the same after a change that it does not see. -/
theorem map_fst_filter_spModify {α : Type} (P : Nat × α → Bool) {u : Nat} {f : α → α} (hf : ∀ v, P (u, f v) = P (u, v)) (m : Sparse α) :
    ((spModify u f m).filter P).map (·.1) = (m.filter P).map (·.1) := by
  induction m with
  | nil => rfl
  | cons e m ih =>
    obtain ⟨j, v⟩ := e
    unfold spModify
    split
    · next hj =>
      subst hj
      rw [List.filter_cons, List.filter_cons, hf]
      split <;> rfl
    · rw [List.filter_cons, List.filter_cons]
      split
      · exact congrArg (j :: ·) ih
      · exact ih

/-- A change that keeps a path's place leaves the paths that wait the same. -/
theorem waitingAt_modPath (s : State) (u : Nat) {f : Path → Path} (hf : ∀ p, (f p).place = p.place) (id : Nat) :
    (s.modPath u f).waitingAt id = s.waitingAt id :=
  map_fst_filter_spModify _ (fun p => by simp only [hf]) s.paths

theorem waitingAt_arrivalNoted (s : State) (h : Here) (inst : Inst) (id : Nat) : (arrivalNoted s h inst).waitingAt id = s.waitingAt id :=
  waitingAt_modPath s h.u (f := fun p => p.die (carriedSet s.heap h.p.ctx)) (fun _ => rfl) id

/-- An image's bytes name open ponds by number alone (R54): they are the same after an arrival. -/
theorem imageBytes_lastInst (g h : Here) (inst : Inst) (flags seed block : Nat) :
    imageBytes { g with k := { g.k with insts := g.k.insts.map (lastInst h inst) } } flags seed block = imageBytes g flags seed block := by
  have hpond : ∀ n, ((g.k.insts.map (lastInst h inst)).find? fun x => x.id == n).map (·.pond) =
      (g.k.insts.find? fun x => x.id == n).map (·.pond) := fun n => by
    have hid : ((fun i : Inst => i.id == n) ∘ lastInst h inst) = fun i => i.id == n := funext fun i =>
      congrArg (· == n) (lastInst_id h inst i)
    have hsame : ((·.pond) ∘ lastInst h inst) = (·.pond) := funext (lastInst_pond h inst)
    rw [List.find?_map, hid, Option.map_map, hsame]
  have hopen : openPonds { g with k := { g.k with insts := g.k.insts.map (lastInst h inst) } } = openPonds g :=
    congrArg (fun f : Nat → Option Nat => g.p.ctx.ponds.map fun n => (f n).getD 0) (funext hpond)
  unfold imageBytes imageHeader
  rw [hopen]
  rfl

/-- The images of the paths that wait at a pond are as they were stored when the last arrival merges them. -/
theorem onlyAreas_lastArrived {s : State} {h : Here} {inst : Inst} {others : List Nat} (hh : s.here h.u = some h)
    (hplace : ∀ i img, h.p.place ≠ .joined i img) (hw : ∀ v ∈ others, ∃ g, WaitsThere s h inst.id v g) :
    (lastArrived s h inst).OnlyAreas ((lastArrived s h inst).reload (h.u :: others)) := by
  refine State.onlyAreas_reload fun v hv p hp id img hpl => ?_
  have hu := here_lastArrived inst hh
  by_cases hvu : v = h.u
  · subst hvu
    rw [State.path?_of_here hu] at hp
    cases hp
    exact absurd hpl (hplace id img)
  · obtain ⟨g, hg, hknot, img', hplace', hkept⟩ := hw v ((List.mem_cons.mp hv).resolve_left hvu)
    have hgp := State.path?_of_here hg
    rw [path?_lastArrived inst hvu, hgp] at hp
    cases hp
    rw [hplace'] at hpl
    cases hpl
    have hgk : g.k = h.k := by
      have hk := State.knot_of_here hg
      rw [hknot, State.knot_of_here hh] at hk
      exact (Option.some.inj hk).symm
    refine ⟨{ g with k := { g.k with insts := g.k.insts.map (lastInst h inst) } }, State.here_eq_some.mpr ⟨(State.here_eq_some.mp hg).1,
      (path?_lastArrived inst hvu).trans hgp, ?_⟩, ?_⟩
    · rw [hknot, hgk]
      exact State.knot_of_here hu
    · have hraw : ∀ pa n, (lastArrived s h inst).readRaw pa n = s.readRaw pa n := fun _ _ => rfl
      refine hkept.imp_right fun hbytes => ⟨?_, hbytes.2⟩
      rw [imageBytes_lastInst]
      exact (hraw _ _).trans hbytes.1

/-- The last arrival of a pond merges with those that wait there (R42, R57). -/
theorem execJoin_merges {s : State} {h : Here} {w : Pond} {inst : Inst} (ha : Admits s h.u h .plain) (hf : Fenced h)
    (hi : Innermost h w inst) (hanchor : inst.anchor = h.p.home) (he : (carriedOnly s h).hasEmpty = false)
    (hfirst : inst.first = none ∨ inst.first = some (arrivalOf h)) (hlast : inst.arrived ||| h.p.ctx.mask = inst.expected)
    (hplace : ∀ i img, h.p.place ≠ .joined i img) (hone : ∀ i ∈ h.k.insts, i.id = inst.id → i = inst)
    (hr : s.waitingAt inst.id = [] ∨ spRising none s.paths = true) (hw : ∀ v ∈ s.waitingAt inst.id, ∃ g, WaitsThere s h inst.id v g) :
    ∃ t, exec (.join w) s = .next t ∧
      t.here h.u = some { u := h.u, k := { h.k with insts := h.k.insts.filter fun i => i.id != inst.id },
                          p := mergedPath (lastPath s h :: (s.waitingAt inst.id).filterMap s.path?) (lastPath s h) (lastInst h inst inst)
                            h.p.place h.p.ctx.pushed } ∧
      (∀ v, v ≠ h.u → t.path? v = if v ∈ s.waitingAt inst.id then none else s.path? v) ∧
      ∀ key a, t.mem.readByte key a = s.mem.readByte key a := by
  have hnot : h.u ∉ s.waitingAt inst.id := fun hmem => by
    obtain ⟨g, hg, -, img, himg, -⟩ := hw h.u hmem
    rw [ha.here] at hg
    cases hg
    exact hplace _ img himg
  have hu := here_lastArrived inst ha.here
  have hmem : inst ∈ h.k.insts := by
    obtain ⟨id, -, hfind⟩ := hi
    exact List.mem_of_find?_eq_some hfind
  have hr' : s.waitingAt inst.id = [] ∨ spRising none (lastArrived s h inst).paths = true :=
    hr.imp_right fun hr => spRising_spModify _ _ (spRising_spModify _ _ hr)
  obtain ⟨h1, h2, h3⟩ := State.merge_of_kept h.p.place h.p.ctx.pushed (onlyAreas_lastArrived ha.here hplace hw)
    (State.path?_of_here hu) (State.knot_of_here hu) (find_lastInst hmem hone) hr' hnot
  have hexec := execJoin_last ha hf hi hanchor he hfirst hlast
  rw [waitingAt_arrivalNoted] at hexec
  refine ⟨_, hexec, ?_, fun v hv => ?_, fun key a => h3 key a⟩
  · have hothers : (s.waitingAt inst.id).filterMap (lastArrived s h inst).path? = (s.waitingAt inst.id).filterMap s.path? :=
      List.filterMap_congr fun v hv => path?_lastArrived inst fun hvu => hnot (hvu ▸ hv)
    have hpu : (lastArrived s h inst).path? h.u = some (lastPath s h) := State.path?_of_here hu
    rw [List.filterMap_cons_some hpu, hothers, closeInst_lastInst] at h1
    exact h1
  · exact (h2 v hv).trans (by rw [path?_lastArrived inst hv])

/-- The merged path continues at the word after the JOIN (R42). -/
theorem pc_mergedPath {s : State} {h : Here} {inst : Inst} (hfirst : inst.first = none ∨ inst.first = some (arrivalOf h)) (all : List Path)
    (place : Place) (pushed : List Nat) :
    (mergedPath all (lastPath s h) (lastInst h inst inst) place pushed).ctx.pc = h.p.ctx.pc + 4 := by
  have hat : (lastInst h inst inst).first = some (arrivalOf h) := by
    rcases hfirst with hfirst | hfirst <;> simp [lastInst, hfirst]
  unfold mergedPath mergeCtx
  rw [hat]
  rfl

theorem lastInst_same (h : Here) (inst : Inst) :
    (lastInst h inst inst).expected = inst.expected ∧ (lastInst h inst inst).anchor = inst.anchor := by
  unfold lastInst
  rw [if_pos rfl]
  exact ⟨rfl, rfl⟩

/-- A path as it waits at a JOIN: its instruction issued, no path pushed under it (R43, R53). -/
def seatless (s : State) (h : Here) : Path :=
  let p := h.p.issued s.serial h.k.regs.watchdog
  { p with ctx := { p.ctx with wd := if h.p.super then h.p.ctx.wd else 0, pushed := [] } }

/-- An arrival that waits as an image (R43). -/
theorem waitAtJoin_image {s s2 : State} {h : Here} {img : Stored} {id : Nat} (hk : h.k.crew = none)
    (hs : (s.setPath h.u (seatless s h)).storeImage { h with p := seatless s h } true false .image = some (img, s2)) :
    s.waitAtJoin h id = .ok ((s2.modPath h.u fun p => { p with place := .joined id img, wait := some .join }).startPushed
      h.p.home h.p.place h.p.ctx.pushed).bump := by
  have hrooted : ¬h.k.rooted = true := by rw [Knot.rooted, hk]; exact Bool.false_ne_true
  unfold State.waitAtJoin
  rw [if_neg hrooted]
  split
  · next img' s2' he =>
    cases he.symm.trans hs
    rfl
  · next he => cases he.symm.trans hs

/-- The path that starts in the seat of one that gives it up (R47). -/
theorem path?_startPushed {s : State} {home v : Nat} {place : Place} {rest : List Nat} {p : Path}
    (hp : (s.startPushed home place (v :: rest)).path? v = some p) : p.home = home ∧ p.place = place ∧ p.ctx.pushed = rest := by
  unfold State.startPushed at hp
  rw [State.path?_modPath_same] at hp
  obtain ⟨p0, -, rfl⟩ := Option.map_eq_some_iff.mp hp
  exact ⟨rfl, rfl, rfl⟩

/-- A merge of the last arrival alone keeps its scalars and closes its innermost pond (R42). -/
theorem mergedPath_alone (p : Path) (inst : Inst) (place : Place) (pushed : List Nat) :
    (mergedPath [p] p inst place pushed).ctx.ponds = p.ctx.ponds.dropLast ∧
      ∀ n, (mergedPath [p] p inst place pushed).ctx.scalVal n = p.ctx.scalVal n := by
  unfold mergedPath
  rw [List.find?_singleton]
  split
  · exact ⟨rfl, fun _ => rfl⟩
  · exact ⟨rfl, fun _ => rfl⟩

/-- A path with none pushed under it leaves for a home (R31). -/
theorem depart_alone {s : State} {u : Nat} {p : Path} (hp : s.path? u = some p) (hn : p.ctx.pushed = []) (home : Nat) :
    (s.depart u home).path? u = some { p.rewind (s.limitOf p.knot) with place := .flying home, wait := none, blockedAt := none } ∧
      (∀ v, v ≠ u → (s.depart u home).path? v = s.path? v) ∧ (s.depart u home).mem = s.mem := by
  have hd : s.depart u home = (s.rewind u).modPath u fun p => { p with place := .flying home, wait := none, blockedAt := none } := by
    unfold State.depart
    simp only [hp, hn, List.foldl_nil]
  rw [hd, State.rewind]
  refine ⟨?_, fun v hv => (State.path?_modPath_ne _ hv _).trans (State.path?_modPath_ne s hv _), rfl⟩
  rw [State.path?_modPath_same, State.path?_modPath_same, hp]
  rfl

/-- Settles O10: the last arrival is a merge of the arrivals' contexts, whose images are as they were stored; an earlier one stores its
image; a path away from the anchor departs for it. -/
theorem joinCompletes : Obligations.JoinCompletes := by
  unfold Obligations.JoinCompletes
  refine ⟨fun s h w inst ha hf hi => ⟨fun hanchor he hfirst => ⟨?last, ?rooted, ?waits⟩, fun hanchor hk hr => ⟨?travels, ?departs⟩⟩,
    ?alone, ?merges⟩
  case last => exact execJoin_last ha hf hi hanchor he hfirst
  case rooted =>
    intro hlast hk
    exact ⟨waitingPath s h, execJoin_waits ha hf hi hanchor he hfirst hlast (if_pos hk), rfl⟩
  case waits =>
    intro hlast hk img s2 hs
    refine ⟨_, execJoin_waits ha hf hi hanchor he hfirst hlast (waitAtJoin_image hk hs), rfl, fun v rest hpushed p hp => ?_⟩
    have hpushed' : (carriedOnly s h).ctx.pushed = v :: rest := hpushed
    rw [State.path?_bump, hpushed'] at hp
    exact path?_startPushed hp
  case travels => exact execJoin_travels ha hf hi hanchor hk hr
  case departs =>
    intro hpushed
    have hexec := execJoin_travels ha hf hi hanchor hk hr
    have hpath : ((stateCarried s h).modPath h.u fun p => { p with pend := .arrive inst.id }).path? h.u =
        some { carriedOnly s h with pend := .arrive inst.id } :=
      State.path?_of_here (State.here_modPath (here_stateCarried ha.here) rfl)
    obtain ⟨hu, hothers, hmem⟩ := depart_alone hpath hpushed inst.anchor
    refine ⟨_, _, hexec, hu, rfl, rfl, rfl, rfl, rfl, hmem, fun v hv => (hothers v hv).trans ?_⟩
    exact (State.path?_modPath_ne _ hv _).trans (State.path?_modPath_ne s hv _)
  case alone =>
    intro s h w inst ha hf hi hanchor he hfirst hlast hwait hplace hone
    obtain ⟨t, hexec, hhere, hpaths, hmem⟩ := execJoin_merges ha hf hi hanchor he hfirst hlast hplace hone (.inl hwait)
      (by rw [hwait]; exact fun v hv => absurd hv List.not_mem_nil)
    rw [hwait] at hhere hpaths
    obtain ⟨hponds, hscal⟩ := mergedPath_alone (lastPath s h) (lastInst h inst inst) h.p.place h.p.ctx.pushed
    refine ⟨t, _, _, hexec, hhere, (lastInst_same h inst).1, pc_mergedPath hfirst _ _ _, hponds, rfl, rfl,
      fun i => hscal i.toNat, rfl, fun v hv => (hpaths v hv).trans (if_neg List.not_mem_nil), hmem⟩
  case merges =>
    intro s h w inst ha hf hi hanchor he hfirst hlast hplace hone hrise hw hrises
    obtain ⟨t, hexec, hhere, hpaths, hmem⟩ := execJoin_merges ha hf hi hanchor he hfirst hlast hplace hone (.inr hrise) hw
    have hnot : ∀ v ∈ s.waitingAt inst.id, v ≠ h.u := by
      rintro v hv rfl
      obtain ⟨g, hg, -, img, himg, -⟩ := hw h.u hv
      rw [ha.here] at hg
      cases hg
      exact hplace _ img himg
    have hmerged := merged_mergedPath (p := lastPath s h) (ps := (s.waitingAt inst.id).filterMap s.path?) (a0 := (carriedOnly s h).ctx) rfl
      (hrises _ List.mem_cons_self) (lastInst h inst inst) h.p.place h.p.ctx.pushed
    rw [List.map_filterMap, (lastInst_same h inst).1] at hmerged
    refine ⟨t, _, hexec, hhere, hmerged, pc_mergedPath hfirst _ _ _, rfl, (lastInst_same h inst).2.trans hanchor, rfl, rfl, fun hsuper => ?_,
      fun v hv => (hpaths v (hnot v hv)).trans (if_pos hv), fun v hv hnv => (hpaths v hv).trans (if_neg hnv), hmem⟩
    exact if_neg (by rw [show (lastPath s h).super = false from hsuper]; exact Bool.false_ne_true)

end Sys2Proof.Claims
end

section
/-! PROOF. The canonical form of memory (log 1): how the parts of an instruction keep it, as a condition on what each part leaves; the
checks before an effect, and what one instruction of an agent makes of its body. -/
namespace Sys2Proof.Machine
variable {s t : State} {α β : Type}

/-- The normal form of the claim that memory is canonical. -/
@[simp] theorem State.canon_iff : s.Canon ↔ s.mem.wf = true := .rfl

theorem State.Canon.bump (h : s.Canon) : s.bump.Canon := h

/-- How a part of an instruction may end: with a value of which `P` holds, or at a stop whose state has canonical memory. -/
def Gives (P : α → Prop) : Res α → Prop
  | .ok x => P x
  | .error (.wait _ t) => t.Canon
  | .error (.trap _ t) => t.Canon

@[simp] theorem gives_ok {P : α → Prop} {x : α} : Gives P (.ok x : Res α) ↔ P x := .rfl
@[simp] theorem gives_wait {P : α → Prop} {w : Wait} {t : State} : Gives P (.error (.wait w t) : Res α) ↔ t.Canon := .rfl
@[simp] theorem gives_trap {P : α → Prop} {x : Trap} {t : State} : Gives P (.error (.trap x t) : Res α) ↔ t.Canon := .rfl

/-- A sequence ends as it should when its first part ends where the rest may begin. -/
@[simp] theorem gives_bind {P : β → Prop} {r : Res α} {f : α → Res β} : Gives P (r >>= f) ↔ Gives (fun x => Gives P (f x)) r := by
  rcases r with (_ | _) | _ <;> rfl

theorem Gives.mono {P Q : α → Prop} {r : Res α} (h : Gives P r) (hpq : ∀ x, P x → Q x) : Gives Q r := by
  rcases r with (_ | _) | x
  · exact h
  · exact h
  · exact hpq x h

theorem keeps_iff_gives {r : Res State} : Res.Keeps r ↔ Gives State.Canon r := by
  rcases r with (_ | _) | _ <;> rfl

/-- What a stop of one part says of its state does not depend on what the part would have given. -/
theorem Gives.of_error {γ : Type} {P : α → Prop} {Q : γ → Prop} {e : Stop} (h : Gives P (.error e)) : Gives Q (.error e) := by
  cases e <;> exact h

theorem checkSource_gives (h : s.Canon) (p : Path) (r : RegName) (fe : Bool) : Gives (fun _ => True) (checkSource s p r fe) := by
  unfold checkSource
  split
  · trivial
  · split <;> exact h
  · exact h
  · exact h

@[simp] theorem checkSources_gives (h : s.Canon) (p : Path) (rs : List (RegName × Bool)) {P : Unit → Prop} (hp : P ()) :
    Gives P (checkSources s p rs) := by
  induction rs with
  | nil => exact hp
  | cons r rs ih =>
    have hr := checkSource_gives h p r.1 r.2
    simp only [checkSources]
    split
    · next e => rw [e] at hr; exact hr.of_error
    · exact ih

@[simp] theorem checkDest_gives (h : s.Canon) (p : Path) (r : RegName) {P : Unit → Prop} (hp : P ()) : Gives P (checkDest s p r) := by
  unfold checkDest
  split
  · exact h
  · exact hp

@[simp] theorem checkDests_gives (h : s.Canon) (p : Path) (rs : List RegName) {P : Unit → Prop} (hp : P ()) : Gives P (checkDests s p rs) := by
  induction rs with
  | nil => exact hp
  | cons r rs ih =>
    have hr := checkDest_gives h p r (P := fun _ => True) trivial
    simp only [checkDests]
    split
    · next e => rw [e] at hr; exact hr.of_error
    · exact ih

@[simp] theorem awaitDests_gives (h : s.Canon) (p : Path) (eff : Mask) (rs : List RegName) {P : Unit → Prop} (hp : P ()) :
    Gives P (awaitDests s p eff rs) := by
  unfold awaitDests
  split
  · exact hp
  · exact checkDests_gives h p rs hp

@[simp] theorem needThat_gives (h : s.Canon) (code : TrapCode) (c : Bool) {P : Unit → Prop} (hp : P ()) : Gives P (needThat s code c) := by
  unfold needThat
  split
  · exact hp
  · exact h

@[simp] theorem fence_gives (h : s.Canon) (x : Here) {P : Unit → Prop} (hp : P ()) : Gives P (fence s x) := by
  unfold fence
  split
  · exact h
  · split
    · exact h
    · exact hp

@[simp] theorem carriedReady_gives (h : s.Canon) (p : Path) (rs : List RegName) {P : Unit → Prop} (hp : P ()) :
    Gives P (carriedReady s p rs) := by
  induction rs with
  | nil => exact hp
  | cons r rs ih =>
    simp only [carriedReady]
    split
    · exact h
    · exact h
    · exact ih

@[simp] theorem needCarried_gives (h : s.Canon) (p : Path) (c : Carried) (rs : List (RegName × Bool)) {P : Unit → Prop} (hp : P ()) :
    Gives P (needCarried s p c rs) := by
  induction rs with
  | nil => exact hp
  | cons r rs ih =>
    simp only [needCarried]
    split
    · exact ih
    · exact h

@[simp] theorem needAligned_gives (h : s.Canon) (n : Nat) (rs : List (Nat × DWord × List Byte)) {P : Unit → Prop} (hp : P ()) :
    Gives P (needAligned s n rs) := by
  induction rs with
  | nil => exact hp
  | cons r rs ih =>
    simp only [needAligned]
    split
    · exact ih
    · exact h

@[simp] theorem needSingle_gives (h : s.Canon) (x : Here) {P : Unit → Prop} (hp : P ()) : Gives P (needSingle s x) := by
  unfold needSingle
  split
  · exact hp
  · exact h

@[simp] theorem needWhole_gives (h : s.Canon) (x : Here) {P : Unit → Prop} (hp : P ()) : Gives P (needWhole s x) := by
  unfold needWhole
  split
  · exact hp
  · exact h

@[simp] theorem needFilled_gives (h : s.Canon) (x : Here) {P : Unit → Prop} (hp : P ()) : Gives P (needFilled s x) := by
  unfold needFilled
  split
  · exact h
  · exact hp

@[simp] theorem needSettled_gives (h : s.Canon) (x : Here) {P : Unit → Prop} (hp : P ()) : Gives P (needSettled s x) := by
  unfold needSettled
  split
  · exact hp
  · exact h

@[simp] theorem awaitCarried_gives (h : s.Canon) (x : Here) (c : Carried) (d : Dest) {P : Unit → Prop} (hp : P ()) :
    Gives P (awaitCarried s x c d) := checkDests_gives h _ _ hp

/-- The walks of some translations leave canonical memory. -/
theorem walkAll_gives (h : s.Canon) (x : Here) (vas : List DWord) {P : State → Prop} (hp : ∀ t : State, t.Canon → P t) :
    Gives P (walkAll s x vas) := by
  unfold walkAll
  split
  · exact h
  · exact hp _ (h.walked _)

/-- A part whose waits leave the state from before it. -/
theorem orWait_gives (h : s.Canon) {P : α → Prop} {r : Res α} (hr : Gives P r) : Gives P (orWait s r) := by
  rcases r with (_ | _) | _
  · exact h
  · exact hr
  · exact hr

/-- How a part of an instruction of a movement processor may end. -/
def MGives (P : α → Prop) : MRes α → Prop
  | .ok x => P x
  | .error (.wait t) => t.Canon
  | .error (.fault ..) => True

@[simp] theorem mgives_ok {P : α → Prop} {x : α} : MGives P (.ok x : MRes α) ↔ P x := .rfl
@[simp] theorem mgives_wait {P : α → Prop} {t : State} : MGives P (.error (.wait t) : MRes α) ↔ t.Canon := .rfl
@[simp] theorem mgives_fault {P : α → Prop} {c : TrapCode} {n : Nat} {a : DWord} : MGives P (.error (.fault c n a) : MRes α) ↔ True := .rfl

@[simp] theorem mgives_bind {P : β → Prop} {r : MRes α} {f : α → MRes β} : MGives P (r >>= f) ↔ MGives (fun x => MGives P (f x)) r := by
  rcases r with (_ | _) | _ <;> rfl

theorem keeps_iff_mgives {r : MRes State} : MRes.Keeps r ↔ MGives State.Canon r := by
  rcases r with (_ | _) | _ <;> rfl

/-- One instruction of the current agent keeps memory canonical when its bodies do. -/
theorem State.Canon.runs (h : s.Canon) {f : InstrForm} {never : Bool} {body : State → Here → Res State} {mbody : State → MHere → MRes State}
    (hb : ∀ s x, s.Canon → Gives State.Canon (body s x)) (hm : ∀ m, MGives State.Canon (mbody s m))
    (e : Machine.agentRun f never body mbody s = .next t) : t.Canon :=
  h.agentRun (fun s x hs => keeps_iff_gives.mpr (hb s x hs)) (fun m => keeps_iff_mgives.mpr (hm m)) e

theorem State.Canon.knotOp (h : s.Canon) {f : InstrForm} {never : Bool} {body : State → Here → Res State}
    (hb : ∀ s x, s.Canon → Gives State.Canon (body s x)) (e : Machine.knotOp f never body s = .next t) : t.Canon :=
  h.runs hb (mbody := outsideSubset) (fun _ => True.intro) e

theorem State.Canon.moverOp (h : s.Canon) {mbody : State → MHere → MRes State}
    (hm : ∀ m, MGives State.Canon (mbody s m)) (e : Machine.moverOp mbody s = .next t) : t.Canon :=
  h.runs (body := fun s _ => .error (.trap { code := .illegal } s)) (fun _ _ hs => hs) hm e

end Sys2Proof.Machine
end

section
/-! PROOF. The canonical form of memory is kept by what acts on registers, paths, ponds, planes and phases: most of it leaves memory alone. -/
namespace Sys2Proof.Machine
variable {s t : State}

@[simp] theorem State.writeVec_mem (s : State) (u r : Nat) (eff : Mask) (f : Nat → Word) : (s.writeVec u r eff f).mem = s.mem := by
  unfold State.writeVec
  split
  · rfl
  · split <;> rfl

@[simp] theorem State.writeGroup_mem (u : Nat) (eff : Mask) (fs : List (Nat × (Nat → Word))) :
    ∀ s : State, (s.writeGroup u eff fs).mem = s.mem := by
  induction fs with
  | nil => intro s; rfl
  | cons f fs ih => intro s; exact (ih _).trans (s.writeVec_mem _ _ _ _)

@[simp] theorem State.writePred_mem (s : State) (u n : Nat) (eff val : Mask) : (s.writePred u n eff val).mem = s.mem := by
  unfold State.writePred
  split
  · rfl
  · split <;> rfl

@[simp] theorem State.await_mem (s : State) (u : Nat) (p : Pend) (w : Wait) : (s.await u p w).mem = s.mem := rfl
@[simp] theorem State.applyDeath_mem (s : State) (u : Nat) (c : Carried) : (s.applyDeath u c).mem = s.mem := rfl
@[simp] theorem applyEntry_mem (s : State) (x : Here) : (applyEntry s x).1.mem = s.mem := rfl
@[simp] theorem State.openPond_mem (s : State) (x : Here) (w : Pond) : (s.openPond x w).mem = s.mem := rfl
@[simp] theorem State.addPath_mem (s : State) (p : Path) : (s.addPath p).2.mem = s.mem := rfl
@[simp] theorem State.addChain_mem (s : State) (page : Nat) (key : Option Nat) (b : DWord) : (s.addChain page key b).mem = s.mem := rfl
@[simp] theorem State.givePage_mem (s : State) (home page : Nat) : (s.givePage home page).mem = s.mem := rfl
@[simp] theorem State.tryPhases_mem (s : State) : s.tryPhases.mem = s.mem := rfl
@[simp] theorem State.arriveAt_mem (s : State) (id : Nat) (slot : Option Nat) : (s.arriveAt id slot).mem = s.mem := rfl
@[simp] theorem State.seatRooted_mem (s : State) (kn : Nat) (p : Place) : (s.seatRooted kn p).mem = s.mem := rfl
@[simp] theorem State.placeVals_mem (s : State) (kn : Nat) (vals : List (Nat × List (Nat × Word))) : (s.placeVals kn vals).mem = s.mem := rfl

@[simp] theorem State.placeGood_mem (s : State) (kn : Nat) (a : Access) (d : Dest) (os : List LaneOut) :
    (s.placeGood kn a d os).mem = s.mem := by
  unfold State.placeGood
  split <;> rfl

@[simp] theorem State.startPushed_mem (s : State) (home : Nat) (p : Place) (us : List Nat) : (s.startPushed home p us).mem = s.mem := by
  cases us <;> rfl

@[simp] theorem State.dropPhase_mem (s : State) (id : Nat) : (s.dropPhase id).mem = s.mem := by
  unfold State.dropPhase
  split <;> rfl

@[simp] theorem State.currentPhase_mem (s : State) (p : Phase) : (s.currentPhase p).2.mem = s.mem := by
  unfold State.currentPhase
  split <;> rfl

@[simp] theorem State.answer_mem (s : State) (x : Here) (a : Access) (os : List LaneOut) : (s.answer x a os).mem = s.mem := by
  unfold State.answer
  split
  · rfl
  · rfl
  · simp

theorem State.Canon.depart (h : s.Canon) (u home : Nat) : (s.depart u home).Canon := by
  unfold State.depart
  dsimp only
  split
  · exact foldl_canon _ (fun s v hs => hs.drain v) _ h
  · exact h

theorem State.Canon.reload (us : List Nat) : ∀ {s : State}, s.Canon → (s.reload us).Canon := by
  induction us with
  | nil => intro s h; exact h
  | cons u us ih =>
    intro s h
    refine ih ?_
    split
    · split
      · exact h.loadImage _ _
      · exact h
    · exact h

theorem State.Canon.merge (h : s.Canon) (kn id u : Nat) (us : List Nat) (p : Place) (pushed : List Nat) :
    (s.merge kn id u us p pushed).Canon := by
  have h1 : (s.reload (u :: us)).Canon := h.reload _
  unfold State.merge
  extract_lets s1
  split
  · split
    · exact h1
    · exact h1
  · exact h1

theorem State.Canon.endInst (h : s.Canon) (kn : Nat) (lanes : Mask) (id : Nat) : (s.endInst kn lanes id).Canon := by
  unfold State.endInst
  split
  · exact h
  · extract_lets expected s1
    split
    · exact h
    · split
      · split
        · exact h
        · exact State.Canon.merge (s := s1) h ..
      · exact h

theorem State.Canon.endInsts (kn : Nat) (lanes : Mask) (ids : List Nat) : ∀ {s : State}, s.Canon → (s.endInsts kn lanes ids).Canon := by
  induction ids with
  | nil => intro s h; exact h
  | cons id ids ih => intro s h; exact ih (h.endInst kn lanes id)

theorem State.Canon.refreshPosts (h : s.Canon) (u : Nat) : (s.refreshPosts u).Canon := by
  have put : ∀ (x : Here) (img : Stored), State.Canon (if img.len = 0 then s
      else s.zoneWrite img.home (img.off + 128) (x.p.ctx.posts.flatMap fun e => e.bytes x.k.regs.window)) := by
    intro x img
    split
    · exact h
    · exact h.zoneWrite _ _ _
  unfold State.refreshPosts
  split
  · exact h
  · next x _ =>
    dsimp only
    split
    · exact put x _
    · exact put x _
    · exact put x _
    · exact put x _
    · split
      · split
        · split
          · exact h.zoneWrite _ _ _
          · exact h
        · exact h
      · exact h
    · exact h

theorem State.Canon.tryStep (h : s.Canon) (c : Nat) : (s.tryStep c).Canon := by
  unfold State.tryStep
  split
  · exact h
  · split
    · exact h
    · split
      · exact h
      · split
        · exact h
        · refine State.Canon.takeTrap ?_ _ _
          exact h

theorem State.Canon.afterEnd (h : s.Canon) (k : Knot) : (s.afterEnd k).Canon := by
  unfold State.afterEnd
  simp only [State.canon_iff, State.bump_mem, State.flushLaunch_mem, State.tryPhases_mem]
  split
  · exact h.tryStep _
  · exact h

theorem State.Canon.endPath (h : s.Canon) (x : Here) : (s.endPath x).Canon := by
  unfold State.endPath
  split
  · exact (h.dropKnot _).afterEnd _
  · extract_lets s1 s2 s3
    have h3 : s3.Canon := State.Canon.endInsts (s := s2) _ _ _ (h.of_mem (State.startPushed_mem ..))
    split
    · exact h3
    · exact h3

/-- An arrival at a barrier changes no memory. -/
theorem arrive_gives (h : s.Canon) (x : Here) (sc : Scope) (id : Nat) {P : Nat × State → Prop}
    (hp : ∀ n (t : State), t.mem = s.mem → P (n, t)) : Gives P (arrive s x sc id) := by
  unfold arrive
  rw [gives_bind]
  refine needSingle_gives h x ?_
  split
  · exact h
  · split
    · exact h
    · next p _ =>
      rw [gives_bind]
      exact fence_gives h x (hp _ _ (s.currentPhase_mem p))

/-- A path that waits to reconverge has only left its seat. -/
theorem State.Canon.waits (h : s.Canon) (x : Here) (id : Nat) (img : Stored) :
    (((s.modPath x.u fun p => { p with place := .joined id img, wait := some .join }).startPushed x.p.home x.p.place
      x.p.ctx.pushed).bump).Canon := by
  rw [State.Canon, State.bump_mem, State.startPushed_mem, State.modPath_mem]
  exact h

theorem State.waitAtJoin_gives (h : s.Canon) (x : Here) (id : Nat) : Gives State.Canon (s.waitAtJoin x id) := by
  have h1 : ∀ q, (s.setPath x.u q).Canon := fun q => h.of_mem (State.setPath_mem ..)
  unfold State.waitAtJoin
  by_cases hr : x.k.rooted = true
  · rw [if_pos hr]
    exact State.Canon.waits (h1 _) x id _
  · rw [if_neg hr]
    split
    · next hs => exact State.Canon.waits (State.Canon.storeImage (h1 _) hs) x id _
    · exact h

theorem State.arriveJoin_gives (h : s.Canon) (x : Here) (inst : Inst) : Gives State.Canon (s.arriveJoin x inst) := by
  unfold State.arriveJoin
  extract_lets here arrived s1
  have h1 : s1.Canon := h
  clear_value s1
  split
  · exact h
  · split
    · refine State.Canon.merge ?_ ..
      exact h1
    · exact State.waitAtJoin_gives h1 x inst.id

theorem callKnot_gives (h : s.Canon) (x : Here) (f : BitVec 5) (target entry : Pc) : Gives State.Canon (callKnot s x f target entry) := by
  unfold callKnot
  split
  · exact h
  · exact h

theorem callMover_gives (h : s.Canon) (m : MHere) (target entry : Pc) : MGives State.Canon (callMover s m target entry) := by
  unfold callMover
  split
  · trivial
  · exact h

end Sys2Proof.Machine
end

section
/-! PROOF. The canonical form of memory is kept by chains, device queues, memory migration points and replays. -/
namespace Sys2Proof.Machine
variable {s t : State}

theorem Appending.unshare_canon {a b : Appending} {home : Nat} {key : Option Nat} (h : a.s.Canon) (e : a.unshare home key = some b) :
    b.s.Canon := by
  unfold Appending.unshare at e
  split at e
  · cases e; exact h
  · split at e
    · cases e; exact h
    · split at e
      · cases e
      · next ht =>
        cases e
        have h1 := State.Canon.of_mem h (State.takePage_mem ht)
        exact State.Canon.setRefs (State.Canon.setRefs (State.Canon.writeMem (h1.recall _ _ _) _ _ _) _ _) _ _

theorem Appending.grow_canon {home n : Nat} (fuel : Nat) : ∀ {a b : Appending}, a.s.Canon → a.grow home n fuel = some b → b.s.Canon := by
  induction fuel with
  | zero => intro a b h e; cases e; exact h
  | succ fuel ih =>
    intro a b h e
    unfold Appending.grow at e
    split at e
    · cases e; exact h
    · split at e
      · cases e
      · split at e
        · cases e
        · next ht => exact ih (State.Canon.setRefs (h.of_mem (State.takePage_mem ht)) _ _) e

theorem Appending.lane_canon {a b : Appending} {home n : Nat} {key : Option Nat} {v : DWord} (h : a.s.Canon)
    (e : a.lane home key n = some (v, b)) : b.s.Canon := by
  unfold Appending.lane at e
  extract_lets start0 src start at e
  clear_value start
  split at e
  · cases e; exact h
  · split at e
    · cases e
    · next a1 h1 =>
      have hc : a1.s.Canon := by
        split at h1
        · exact Appending.unshare_canon h h1
        · cases h1; exact h
      split at e
      · cases e
      · next h2 =>
        have h3 := Appending.grow_canon 2 hc h2
        cases e
        exact h3

theorem Appending.lanes_canon {home : Nat} {key : Option Nat} (ls : List LaneAcc) : ∀ {a b : Appending} {os : List LaneOut}, a.s.Canon →
    a.lanes home key ls = some (os, b) → b.s.Canon := by
  induction ls with
  | nil => intro a b os h e; cases e; exact h
  | cons l ls ih =>
    intro a b os h e
    unfold Appending.lanes at e
    split at e
    · cases e
    · next h1 =>
      split at e
      · cases e
      · next h2 => cases e; exact ih (Appending.lane_canon h h1) h2

theorem State.Canon.chainAppend (h : s.Canon) {home : Nat} {ls : List LaneAcc} {r : State × List LaneOut}
    (e : s.chainAppend home ls = some r) : r.1.Canon := by
  cases ls with
  | nil => cases e; exact h
  | cons l ls =>
    have h1 : (s.chainPull l.key l.pa).Canon := h.chainPull _ _
    unfold State.chainAppend at e
    dsimp only at e
    split at e
    · cases e; exact h1
    · split at e
      · cases e
      · split at e
        · cases e
        · next ha =>
          cases e
          exact State.Canon.writeMem (Appending.lanes_canon _ (a := { d := _, pages := _, s := s.chainPull l.key l.pa }) h1 ha) _ _ _

theorem State.Canon.setQueue (h : s.Canon) (key : Option Nat) (pa : Nat) (q : QueueSt) : (s.setQueue key pa q).Canon := by
  unfold State.setQueue
  refine State.Canon.writeMem ?_ _ _ _
  exact h

theorem State.Canon.queueErr (h : s.Canon) (key : Option Nat) (pa : Nat) : (s.queueErr key pa).Canon := h.writeMem _ _ _

theorem State.Canon.openQueue (h : s.Canon) (key : Option Nat) (pa : Nat) (d : QueueDesc) (n : Nat) : (s.openQueue key pa d n).Canon := by
  unfold State.openQueue
  extract_lets home s0 len
  have h0 : s0.Canon := by
    dsimp only [s0]
    split
    · exact h.freeArea _ _
    · exact h
  clear_value s0
  split
  · exact h
  · split
    · split
      · next ht => exact State.Canon.setQueue (h0.takeArea ht) _ _ _
      · exact h0.setQueue _ _ _
    · exact h0.setQueue _ _ _

theorem State.Canon.putRing (h : s.Canon) (key : Option Nat) (pa : Nat) (d : QueueDesc) (q : QueueSt) (n : Nat) (stamp : DWord)
    (bs : List Byte) (bad : Bool) : (s.putRing key pa d q n stamp bs bad).Canon := by
  unfold State.putRing
  refine State.Canon.setQueue ?_ _ _ _
  split
  · exact h.writeMem _ _ _
  · exact h.writeMem _ _ _

theorem State.Canon.refill (key : Option Nat) (pa : Nat) (d : QueueDesc) (n fuel : Nat) :
    ∀ {s : State}, s.Canon → (s.refill key pa d n fuel).Canon := by
  induction fuel with
  | zero => intro s h; exact h
  | succ fuel ih =>
    intro s h
    unfold State.refill
    dsimp only
    split
    · exact h
    · split
      · exact h
      · exact ih (State.Canon.putRing (h.recall _ _ _) ..)

theorem State.Canon.prepQueue (h : s.Canon) (key : Option Nat) (pa : Nat) (d : QueueDesc) (n : Nat) : (s.prepQueue key pa d n).Canon := by
  have h1 : ((s.recall false pa 64).openQueue key pa d n).Canon := State.Canon.openQueue (h.recall _ _ _) ..
  unfold State.prepQueue
  refine State.Canon.refill _ _ _ _ _ ?_
  split
  · exact h1
  · exact h1.setQueue _ _ _

/-- A translation of backing addresses that keeps memory canonical. -/
def Backing.Canonical (b : Backing) : Prop := ∀ s a r, s.Canon → b s a = some r → r.2.Canon

theorem State.Canon.pushEntry (h : s.Canon) {key : Option Nat} {pa : Nat} {d : QueueDesc} {b : Backing} (hb : b.Canonical) {x : QEntry}
    {r : Bool × State} (e : s.pushEntry key pa d b x = some r) : r.2.Canon := by
  unfold State.pushEntry at e
  dsimp only at e
  split at e
  · cases e; exact h
  · split at e
    · cases e; exact h.putRing ..
    · split at e
      · split at e
        · cases e
        · next hw => cases e; exact hb _ _ _ h hw
        · next hw => cases e; exact State.Canon.setQueue (State.Canon.writeMem (hb _ _ _ h hw) _ _ _) _ _ _
      · cases e; exact h

theorem State.Canon.pushAll {key : Option Nat} {pa : Nat} {d : QueueDesc} {b : Backing} (hb : b.Canonical) {stamp : DWord}
    (es : List (Nat × List Byte)) : ∀ {s : State} {r : List Nat × State}, s.Canon → s.pushAll key pa d b stamp es = some r → r.2.Canon := by
  induction es with
  | nil => intro s r h e; cases e; exact h
  | cons x es ih =>
    intro s r h e
    unfold State.pushAll at e
    split at e
    · cases e
    · next took s1 hp =>
      have h1 : s1.Canon := h.pushEntry hb hp
      obtain ⟨y, hy, rfl⟩ := Option.map_eq_some_iff.mp e
      have h2 := ih h1 hy
      exact h2

theorem State.Canon.popEntry (h : s.Canon) (key : Option Nat) (pa : Nat) (d : QueueDesc) (n : Nat) : (s.popEntry key pa d n).2.2.Canon := by
  unfold State.popEntry
  dsimp only
  split
  · split
    · exact h
    · exact State.Canon.refill _ _ _ _ _ (h.setQueue _ _ _)
  · split
    · exact h
    · exact State.Canon.setQueue (h.recall _ _ _) _ _ _
  · exact h

theorem State.Canon.popLanes (key : Option Nat) (pa : Nat) (d : QueueDesc) (n : Nat) (ls : List Nat) :
    ∀ {s : State}, s.Canon → (s.popLanes key pa d n ls).2.2.Canon := by
  induction ls with
  | nil => intro s h; exact h
  | cons l ls ih =>
    intro s h
    have h1 := h.popEntry key pa d n
    unfold State.popLanes
    split
    · next e => rw [e] at h1; exact h1
    · next e => rw [e] at h1; exact ih h1

theorem State.Canon.queuePop (h : s.Canon) (n : Nat) (ls : List LaneAcc) : (s.queuePop n ls).1.Canon := by
  cases ls with
  | nil => exact h
  | cons l ls =>
    have h1 : (s.recall false l.pa 64).Canon := h.recall _ _ _
    unfold State.queuePop
    dsimp only
    split
    · exact h1
    · split
      · exact h1.queueErr _ _
      · have h2 := State.Canon.prepQueue h1 l.key l.pa ((s.recall false l.pa 64).queueDesc l.key l.pa) n
        split
        · exact h2
        · next e =>
          have h3 := State.Canon.popLanes l.key l.pa ((s.recall false l.pa 64).queueDesc l.key l.pa) n ((l :: ls).map (·.lane)) h2
          rw [e] at h3
          exact h3

theorem State.Canon.opPull (h : s.Canon) (op : MemOp) (ls : List LaneAcc) : (s.opPull op ls).Canon := by
  unfold State.opPull
  split
  · exact h.chainPull _ _
  · exact h

theorem State.Canon.lanePadAtom (h : s.Canon) (c : Nat) (o : AtomOp) (y : AtomType) (l : LaneAcc) : (s.lanePadAtom c o y l).1.Canon := by
  unfold State.lanePadAtom
  split
  · exact h
  · dsimp only
    split <;> exact h

theorem State.Canon.lanePad (h : s.Canon) (c : Nat) (z : MemSize) (l : LaneAcc) : (s.lanePad c z l).1.Canon := by
  unfold State.lanePad
  split <;> exact h

theorem State.Canon.laneAcc (h : s.Canon) (c acc col n : Nat) (l : LaneAcc) : (s.laneAcc c acc col n l).1.Canon := by
  unfold State.laneAcc
  split <;> exact h

/-- The lanes of an access performed keep memory canonical, whatever unit performs them. -/
theorem State.Canon.performOp (h : s.Canon) {x : Here} {op : MemOp} {scal : Bool} {ls : List LaneAcc} {r : State × List LaneOut}
    (e : s.performOp x op scal ls = some r) : r.1.Canon := by
  unfold State.performOp at e
  extract_lets c at e
  cases op with
  | load z => exact h.homeOp e
  | store z => exact h.homeOp e
  | atom o y => exact h.homeOp e
  | fork n => exact h.homeOp e
  | release => exact h.homeOp e
  | pop n => cases e; exact h.queuePop _ _
  | append n => exact h.chainAppend e
  | padLoad z => cases e; exact eachLane_canon (fun s l hs => hs.lanePad c z l) ls h
  | padAtom o y => cases e; exact eachLane_canon (fun s l hs => hs.lanePadAtom c o y l) ls h
  | accRead a col n => cases e; exact eachLane_canon (fun s l hs => hs.laneAcc c a col n l) ls h
  | lost => cases e; exact h

theorem State.Canon.perform (h : s.Canon) {x : Here} {a : Access} (e : s.perform x a = some t) : t.Canon := by
  unfold State.perform at e
  split at e
  · cases e
  · next hp => cases e; exact State.Canon.of_mem (h.performOp hp) (State.answer_mem ..)

@[simp] theorem settle_mem (s : State) (x : Here) (p : Option Pond) : (settle s x p).2.mem = s.mem := by
  cases p <;> rfl

@[simp] theorem State.postpone_mem (s : State) (u : Nat) (a : Access) : (s.postpone u a).mem = s.mem :=
  (State.send_mem ..).trans (State.markEmpty_mem ..)

theorem State.Canon.hopFor (h : s.Canon) (u home : Nat) (a : Access) : (s.hopFor u home a).Canon := by
  unfold State.hopFor
  refine State.Canon.depart ?_ _ _
  exact h

@[simp] theorem State.splitOff_mem (p : Path) (a : Access) (rest : Mask) (low cur : Nat) (hs : List Nat) :
    ∀ s : State, (s.splitOff p a rest low cur hs).mem = s.mem := by
  induction hs with
  | nil => intro s; rfl
  | cons x xs ih => intro s; exact (ih _).trans (State.addPath_mem ..)

theorem State.Canon.split (h : s.Canon) (x : Here) (a : Access) : (s.split x a).Canon := by
  unfold State.split
  extract_lets cur low rest homes own ls m mine
  split
  · exact h
  · extract_lets s1 s2
    have h2 : s2.Canon := h.of_mem (State.splitOff_mem ..)
    clear_value s2
    split
    · exact h2.hopFor _ _ _
    · exact h2

theorem leavePending_mem (s : State) (x : Here) (pt : Point) (pond : Option Pond) (lane : Nat) (va : DWord) :
    (leavePending s x pt pond lane va).mem = s.mem := by
  simp [leavePending]

/-- Steps 9 to 11 of R191 keep memory canonical. -/
theorem goHome_gives (h : s.Canon) (x : Here) (pt : Point) (pond : Option Pond) (ls : List LaneAcc) :
    Gives State.Canon (goHome s x pt pond ls) := by
  have hset : ∀ {s : State}, s.Canon → (settle s x pond).2.Canon := fun hs => hs.of_mem (settle_mem ..)
  unfold goHome
  extract_lets cur c homes acc home away
  have haway : Gives State.Canon (away ()) := by
    dsimp only [away]
    rw [gives_bind]
    refine fence_gives h _ ?_
    rw [gives_bind]
    refine carriedReady_gives h _ _ ?_
    rw [gives_bind]
    refine needSettled_gives h _ ?_
    exact State.Canon.split (State.Canon.catchUp (s := State.retire _ _) (hset h) _) _ _
  clear_value away
  split
  · split
    · split
      · rw [gives_ok, State.Canon, State.retire_mem, State.postpone_mem]
        exact hset h
      · split
        · exact h
        · have h1 := hset (h.catchUp x.u)
          generalize settle (s.catchUp x.u) x pond = r at h1 ⊢
          obtain ⟨_, s1⟩ := r
          dsimp only at h1 ⊢
          split
          · exact h1
          · split
            · next hp => exact State.Canon.of_mem (h1.perform hp) (State.retire_mem ..)
            · exact h.opPull _ _
    · rw [gives_bind]
      refine carriedReady_gives h _ _ ?_
      rw [gives_bind]
      refine needSettled_gives h _ ?_
      exact State.Canon.hopFor (State.Canon.catchUp (s := State.retire _ _) (hset h) _) _ _ _
  · split
    · exact h
    · exact haway
end Sys2Proof.Machine
end

section
/-! PROOF. The canonical form of memory is kept by a migration point at issue, a landed access, replays, and posts. -/
namespace Sys2Proof.Machine
variable {s t : State}

/-- A migration point at issue keeps memory canonical (R191). -/
theorem pointBody_gives (h : s.Canon) (x : Here) (g : Guard) (pt : Point) : Gives State.Canon (pointBody s x g pt) := by
  unfold pointBody
  extract_lets e c reads pond aligned
  clear_value pond
  have haligned : Gives State.Canon (aligned ()) := by
    dsimp -zeta only [aligned]
    rw [gives_bind]
    refine needAligned_gives h _ _ ?_
    rw [gives_bind]
    refine walkAll_gives h _ _ fun s1 h1 => ?_
    generalize s1.translateAll x pt.size pt.need pt.reqs = r
    obtain ⟨ls, bad⟩ := r
    dsimp -zeta only
    extract_lets effect pondCheck rootedCheck hostCheck
    have heffect : Gives State.Canon (effect ()) := by
      dsimp only [effect]
      split
      · rw [gives_ok, State.Canon, State.retire_mem, settle_mem]
        exact h1
      · rw [gives_bind]
        refine awaitCarried_gives h1 _ _ _ ?_
        split
        · exact goHome_gives h1 _ _ _ _
        · rw [gives_ok, State.Canon, leavePending_mem]
          exact h1
    clear_value effect
    have hpond : Gives State.Canon (pondCheck ()) := by
      dsimp only [pondCheck]
      split
      · split
        · exact h1
        · exact heffect
      · exact heffect
    clear_value pondCheck
    have hrooted : Gives State.Canon (rootedCheck ()) := by
      dsimp only [rootedCheck]
      split
      · exact h1
      · exact hpond
    clear_value rootedCheck
    have hhost : Gives State.Canon (hostCheck ()) := by
      dsimp only [hostCheck]
      split
      · exact h1
      · exact hrooted
    clear_value hostCheck
    split
    · exact h1
    · exact hhost
  clear_value aligned
  rw [gives_bind]
  refine needCarried_gives h _ _ _ ?_
  rw [gives_bind]
  refine checkSources_gives h _ _ ?_
  split
  · exact h
  · exact haligned

theorem State.Canon.memPoint (h : s.Canon) {f : InstrForm} {g : Guard} {pt : State → Here → Point}
    (e : Machine.memPoint f g pt s = .next t) : t.Canon :=
  h.knotOp (fun _ x hs => pointBody_gives hs x g _) e

theorem State.Canon.chainTrap (h : s.Canon) (x : Here) (a : Access) : (s.chainTrap x a).Canon := by
  unfold State.chainTrap
  refine State.Canon.takeTrap ?_ _ _
  rw [State.Canon, State.modPath_mem]
  split
  · exact h
  · exact h

theorem State.Canon.landAccess (h : s.Canon) (x : Here) (a : Access) : (s.landAccess x a).Canon := by
  unfold State.landAccess
  split
  · rw [State.Canon, State.bump_mem, State.modPath_mem, State.postpone_mem]
    exact h
  · split
    · exact h
    · split
      · exact State.Canon.chainTrap (h.opPull _ _) x a
      · next hp =>
        rw [State.Canon, State.bump_mem, State.modPath_mem]
        exact h.perform hp

@[simp] theorem State.replayFails_mem (s : State) (u : Nat) (d : Dest) (c : TrapCode) (l : Nat) (va : DWord) :
    (s.replayFails u d c l va).mem = s.mem := rfl

@[simp] theorem State.replayTook_mem (s : State) (x : Here) (r : FaultRec) (os : List LaneOut) : (s.replayTook x r os).mem = s.mem := by
  unfold State.replayTook
  extract_lets good s1
  rw [State.modPath_mem]
  dsimp only [s1]
  split
  · rfl
  · split <;> rfl
  · rfl

@[simp] theorem State.replayEnds_mem (s : State) (u : Nat) (d : Dest) : (s.replayEnds u d).mem = s.mem := by
  unfold State.replayEnds
  split
  · rfl
  · split
    · rfl
    · split <;> rfl

/-- Replays keep memory canonical (R195, R287). -/
theorem State.replay_gives (u : Nat) (todo : List FaultRec) : ∀ {s : State}, s.Canon → Gives (fun r => r.1.Canon) (s.replay u todo) := by
  induction todo with
  | nil => intro s h; exact h
  | cons r rest ih =>
    intro s h
    unfold State.replay
    split
    · exact h
    · split
      · exact ih h
      · exact h
      · next r1 s1 _ hw =>
        have h1 : s1.Canon := by
          split at hw
          · cases hw
          · cases hw; exact h.walked _
        split
        · exact ih h1
        · extract_lets cur near far
          split
          · exact h1
          · split
            · exact ih h1
            · next s2 os hp =>
              have h2 : s2.Canon := h1.performOp hp
              extract_lets s3
              have h3 : s3.Canon := h2.of_mem (State.replayTook_mem ..)
              clear_value s3
              split
              · exact ih (h3.of_mem (State.replayEnds_mem ..))
              · split
                · exact ih h3
                · exact h3

/-- The replay of a path begun or carried on keeps memory canonical (R195). -/
theorem State.replayOn_gives (h : s.Canon) (x : Here) (todo : List FaultRec) :
    Gives (fun r : Bool × State => r.2.Canon) (s.replayOn x todo) := by
  unfold State.replayOn
  dsimp only
  rw [gives_bind]
  refine (State.replay_gives x.u todo (s := s.modPath _ _) h).mono fun r hr => ?_
  obtain ⟨s1, left, hop⟩ := r
  dsimp only at hr ⊢
  split
  · exact hr
  · split
    · exact hr
    · rw [gives_bind]
      refine fence_gives (s := State.modPath _ _ _) hr _ ?_
      rw [gives_bind]
      refine needFilled_gives (s := State.modPath _ _ _) hr _ ?_
      rw [gives_ok, State.Canon, State.bump_mem]
      exact State.Canon.depart (s := State.modPath _ _ _) hr _ _

theorem State.Canon.writeHeld (h : s.Canon) {kn : Nat} {r : Held} {y : Held × State} (e : s.writeHeld kn r = some y) : y.2.Canon := by
  unfold State.writeHeld at e
  split at e
  · cases e
  · next ht => cases e; exact State.Canon.zoneWrite (h.takeArea ht) _ _ _

theorem State.Canon.relink (w : Nat) (rs : List Held) : ∀ {s : State}, s.Canon → (s.relink w rs).Canon := by
  induction rs with
  | nil => intro s h; exact h
  | cons r rs ih => intro s h; exact ih (h.zoneWrite _ _ _)

theorem entryFor_gives (h : s.Canon) (x : Here) (home lane : Nat) (a : DWord) {P : Nat × PostEntry → Prop} (hp : ∀ y, P y) :
    Gives P (entryFor s x home lane a) := by
  unfold entryFor
  split
  · split
    · exact h
    · split
      · exact h
      · exact hp _
  · split
    · exact hp _
    · split
      · exact h
      · exact h

/-- A post that is sent, or held at issue, keeps memory canonical (R204). -/
theorem sendPost_gives (h : s.Canon) (x : Here) (home cause : Nat) (r : PostReq) : Gives State.Canon (sendPost s x home cause r) := by
  unfold sendPost
  rw [gives_bind]
  refine entryFor_gives h x _ _ _ fun y => ?_
  split
  · extract_lets seq lane
    split
    · split
      · exact h
      · next hw => exact State.Canon.relink _ _ (s := State.modCtx _ _ _) (h.writeHeld hw)
    · exact h

theorem postLane_gives (h : s.Canon) (x : Here) (need : Needs) (host : Bool) (op : PostOp) (code type : Nat)
    (r : Nat × DWord × List Byte) : Gives State.Canon (postLane s x need host op code type r) := by
  unfold postLane
  split
  rw [gives_bind]
  refine walkAll_gives h _ _ fun s1 h1 => ?_
  extract_lets mk
  split
  · exact sendPost_gives h1 ..
  · exact sendPost_gives h1 ..
  · split
    · exact sendPost_gives h1 ..
    · exact sendPost_gives h1 ..

theorem postLanes_gives (u : Nat) (need : Needs) (host : Bool) (op : PostOp) (code type : Nat) (rs : List (Nat × DWord × List Byte)) :
    ∀ {s : State}, s.Canon → Gives State.Canon (postLanes s u need host op code type rs) := by
  induction rs with
  | nil => intro s h; exact h
  | cons r rs ih =>
    intro s h
    unfold postLanes
    split
    · exact h
    · split
      · exact ih h
      · next x _ _ =>
        have h1 := postLane_gives h x need host op code type r
        split
        · next e => rw [e] at h1; exact h1
        · next e => rw [e] at h1; exact ih (s := State.modCtx _ _ _) h1

theorem State.Canon.postOp (h : s.Canon) {g : Guard} {x a : VReg} {b : SReg} {e : Bool} {n : Nat} {need : Needs} {host : Bool}
    {op : PostOp} {code type : Nat} {off : Hints → DWord} (hr : Machine.postOp g x a b e n need host op code type off s = .next t) :
    t.Canon := by
  refine h.knotOp (fun s y hs => ?_) hr
  rw [gives_bind]
  refine checkSources_gives hs _ _ ?_
  dsimp only
  rw [gives_bind]
  refine needAligned_gives hs _ _ ?_
  rw [gives_bind]
  exact (postLanes_gives y.u need host op code type _ hs).mono fun _ h1 => h1

theorem State.decrement_mem {l n : Nat} {b : DWord} (e : s.decrement l n b = some t) : t.mem = s.mem := by
  unfold State.decrement at e
  split at e
  · cases e; rfl
  · split at e
    · cases e; rfl
    · split at e
      · cases e
      · extract_lets put at e
        split at e
        · cases e; rfl
        · cases e
          split <;> rfl

theorem State.Canon.performPost (h : s.Canon) {p : Post} (e : s.performPost p = .ok t) : t.Canon := by
  unfold State.performPost at e
  split at e
  · split at e
    · cases e
    · next hd => cases e; exact h.of_mem (State.decrement_mem hd)
  · dsimp only at e
    split at e
    · cases e
    · cases e; exact State.Canon.writeMem (h.recall _ _ _) _ _ _

@[simp] theorem State.sendAck_mem (s : State) (p : Post) (r : Option Held) : (s.sendAck p r).mem = s.mem := rfl

@[simp] theorem State.holdStream_mem (s : State) (p : Post) : (s.holdStream p).mem = s.mem := by
  unfold State.holdStream
  split <;> rfl

theorem State.Canon.holdPost (h : s.Canon) {s0 : State} (h0 : s0.Canon) (p : Post) (c : Nat) : (s.holdPost s0 p c).Canon := by
  unfold State.holdPost
  split
  · exact h0
  · next hw =>
    rw [State.Canon, State.sendAck_mem, State.holdStream_mem]
    exact h.writeHeld hw

theorem State.Canon.postPerform (h : s.Canon) {id : Nat} (e : execPostPerform id s = .next t) : t.Canon := by
  cases e
  split
  · exact h
  · next p _ =>
    split
    · exact h
    · extract_lets s1 live out
      have h1 : s1.Canon := h
      clear_value s1
      show out.Canon
      dsimp only [out]
      split
      · split
        · exact h1.holdPost h _ _
        · exact h1
      · split
        · next hp =>
          have h2 := h1.performPost hp
          split
          · exact h2
          · exact h2
        · split
          · exact h1.holdPost h _ _
          · exact h1.of_mem (State.holdStream_mem ..)

theorem State.Canon.postAcknowledgement (h : s.Canon) {id : Nat} (e : execPostAcknowledgement id s = .next t) : t.Canon := by
  cases e
  split
  · exact h
  · extract_lets s1
    have h1 : s1.Canon := h
    clear_value s1
    split
    · exact h1
    · split
      · exact h1
      · refine State.Canon.refreshPosts ?_ _
        refine State.Canon.relink _ _ ?_
        exact h1
end Sys2Proof.Machine
end

section
/-! PROOF. The canonical form of memory is kept by broods and cancellations, landing, parking and resumption, launches and placements. -/
namespace Sys2Proof.Machine
variable {s t : State}

@[simp] theorem State.newBrood_mem (s : State) (parent : Option Nat) (depth root : Nat) : (s.newBrood parent depth root).2.mem = s.mem :=
  State.pick_snd_mem 0

@[simp] theorem State.endCrew_mem (s : State) (c : Nat) : (s.endCrew c).mem = s.mem := rfl
@[simp] theorem State.pruneCancels_mem (s : State) : s.pruneCancels.mem = s.mem := rfl
@[simp] theorem State.pruneBroods_mem (s : State) : s.pruneBroods.mem = s.mem := rfl
@[simp] theorem State.popWork_mem (s : State) (home : Nat) : (s.popWork home).mem = s.mem := rfl
@[simp] theorem State.stayAll_mem (s : State) (home : Nat) : (s.stayAll home).mem = s.mem := rfl
@[simp] theorem State.putKnot_mem (s : State) (home l : Nat) (la : Launch) (n : NewKnot) (g : Nat) (seat : Seat) :
    (s.putKnot home l la n g seat).mem = s.mem := rfl

theorem State.Canon.retireKnot (h : s.Canon) (kn : Nat) : (s.retireKnot kn).Canon := by
  unfold State.retireKnot
  split
  · exact h.dropKnot _
  · dsimp only
    rw [State.Canon, State.modKnot_mem]
    exact foldl_canon _ (fun s e hs => hs.freePath _) _ (foldl_canon _ (fun s e hs => hs.catchUp _) _ h)

theorem State.Canon.releaseChains (root : DWord) (cs : List ChainReg) : ∀ {s : State}, s.Canon → (s.releaseChains root cs).Canon := by
  induction cs with
  | nil => intro s h; exact h
  | cons c cs ih =>
    intro s h
    refine ih ?_
    split
    · exact h.chainRelease _ _ _
    · exact h

theorem State.Canon.cancelTree (h : s.Canon) (root : DWord) : (s.cancelTree root).Canon := by
  unfold State.cancelTree
  extract_lets ks s1 s2 s3 s4 s5 s6
  have h3 : s3.Canon := foldl_canon State.endCrew (fun s c hs => hs) _ (s := s2) h
  have h4 : s4.Canon := foldl_canon _ (fun s e hs => hs.retireKnot _) _ h3
  have h5 : s5.Canon := h4.releaseChains _ _
  have h6 : s6.Canon := foldl_canon State.tryStep (fun s c hs => hs.tryStep c) _ (s := s5.tryPhases) h5
  exact foldl_canon (fun (s : State) (e : Nat × Launch) => s.flushLaunch e.1) (fun s e hs => hs.of_mem (State.flushLaunch_mem ..)) _ h6

theorem State.Canon.imageOut (h : s.Canon) {u : Nat} {service : Bool} {place : Stored → Place} (e : s.imageOut u service place = some t) :
    t.Canon := by
  unfold State.imageOut at e
  extract_lets s1 at e
  have h1 : s1.Canon := h.drainAll u
  clear_value s1
  split at e
  · cases e
  · split at e
    · cases e
    · obtain ⟨r, hr, rfl⟩ := Option.map_eq_some_iff.mp e
      exact h1.storeImage (img := r.1) (t := r.2) hr

theorem State.Canon.seatOut (h : s.Canon) {u kn : Nat} (e : s.seatOut u kn = some t) : t.Canon := by
  unfold State.seatOut at e
  split at e
  · exact h.imageOut e
  · exact h.imageOut e

/-- A fold of steps that may fail keeps memory canonical when each does. -/
theorem foldl_bind_canon {α : Type} {f : State → α → Option State} (hf : ∀ s x t, s.Canon → f s x = some t → t.Canon) (xs : List α) :
    ∀ {o : Option State}, (∀ s, o = some s → s.Canon) → xs.foldl (fun r x => r.bind fun s => f s x) o = some t → t.Canon := by
  induction xs with
  | nil => intro o ho e; exact ho t e
  | cons x xs ih =>
    intro o ho e
    refine ih (fun s1 h1 => ?_) e
    obtain ⟨s0, h0, h1⟩ := Option.bind_eq_some_iff.mp h1
    exact hf s0 x s1 (ho s0 h0) h1

theorem State.Canon.switchOut (h : s.Canon) {home core kn : Nat} (e : s.switchOut home core kn = some t) : t.Canon :=
  foldl_bind_canon (fun _ _ _ hs => hs.seatOut) _ (fun _ hs => by cases hs; exact h) e

theorem State.Canon.serviceNext (h : s.Canon) {home core : Nat} (e : s.serviceNext home core = some t) : t.Canon := by
  unfold State.serviceNext at e
  dsimp only at e
  split at e
  · cases e
  · obtain ⟨kn, -, hk⟩ := Option.bind_eq_some_iff.mp e
    exact h.switchOut hk

theorem State.Canon.serviceOut (home core n : Nat) : ∀ {s : State}, s.Canon → (s.serviceOut home core n).Canon := by
  induction n with
  | zero => intro s h; exact h
  | succ n ih =>
    intro s h
    unfold State.serviceOut
    split
    · exact h
    · next hs => exact ih (h.serviceNext hs)

theorem State.Canon.serviceOn (h : s.Canon) (home : Nat) (cores : List Nat) : (s.serviceOn home cores).Canon :=
  foldl_canon _ (fun _ c hs => hs.serviceOut home c 64) _ h

@[simp] theorem State.sitDown_mem (s : State) (u home core : Nat) : (s.sitDown u home core).mem = s.mem := by
  unfold State.sitDown
  split <;> rfl

@[simp] theorem State.seatKnot_mem (s : State) (home core kn : Nat) : (s.seatKnot home core kn).mem = s.mem := by
  unfold State.seatKnot
  split
  · exact foldl_mem _ (fun s e => State.modPath_mem ..) _ s
  · rfl

@[simp] theorem State.takeCrew_mem (s : State) (w : Crew) (img : Stored) : (s.takeCrew w img).mem = s.mem := by
  unfold State.takeCrew
  extract_lets old new parts size cut
  split
  · rfl
  · split
    · exact foldl_mem _ (fun s e => State.takeImage_mem ..) _ s
    · exact foldl_mem _ (fun s e => State.modPath_mem ..) _ s

theorem State.Canon.resumeCrew (h : s.Canon) (c core : Nat) (w : Crew) (img : Stored) : (s.resumeCrew c core w img).Canon := by
  unfold State.resumeCrew
  extract_lets s1 s2
  have h1 : s1.Canon := State.Canon.freeImage (h.of_mem (State.takeCrew_mem ..)) img
  exact h1.of_mem (foldl_mem _ (fun _ _ => State.seatKnot_mem ..) _ s1)

theorem State.Canon.parkedImageResume (h : s.Canon) {home core : Nat} (e : execParkedImageResume home core s = .next t) : t.Canon := by
  cases e
  split
  · exact h
  · split
    · exact h
    · split
      · exact h
      · rw [State.Canon, State.bump_mem, State.sitDown_mem]
        exact h.loadImage _ _
      · exact (h.resumeCrew _ _ _ _).bump

theorem State.Canon.discard (h : s.Canon) (x : Here) : (s.discard x).Canon := by
  unfold State.discard
  rw [State.Canon, State.bump_mem, State.pruneCancels_mem]
  split
  · exact (h.dropKnot _).afterEnd _
  · exact h.freePath _

theorem State.Canon.hopLanding (h : s.Canon) {u core : Nat} (e : execHopLanding u core s = .next t) : t.Canon := by
  cases e
  split
  · exact h
  · split
    · split
      · exact h.discard _
      · split
        · exact h
        · extract_lets s1 seat
          have h1 : s1.Canon := h
          clear_value s1 seat
          split
          · rw [State.Canon, State.bump_mem, State.sitDown_mem]
            exact h1
          · split
            · next hi => exact (h1.imageOut hi).bump
            · exact h
    · exact h

theorem State.Canon.registerFill (h : s.Canon) {u f : Nat} (e : execRegisterFill u f s = .next t) : t.Canon := by
  cases e
  split
  · exact h
  · split
    · exact h
    · split
      · exact h
      · split
        · exact h
        · exact h.performFlight _ _ _
      · rw [State.Canon, State.bump_mem, State.fill_mem]
        exact h

theorem State.Canon.siblingHalt (h : s.Canon) {u : Nat} (e : execSiblingHalt u s = .next t) : t.Canon := by
  cases e
  split
  · exact h
  · split <;> exact h

theorem State.Canon.watchdogExpiry (h : s.Canon) {u : Nat} (e : execWatchdogExpiry u s = .next t) : t.Canon := by
  cases e
  split
  · exact h
  · split
    · exact h.takeTrap _ _
    · exact h

theorem State.Canon.parkSwitchOut (h : s.Canon) {home : Nat} (e : execParkSwitchOut home s = .next t) : t.Canon := by
  cases e
  extract_lets go
  have hgo : ∀ core kn, (go core kn).Canon := by
    intro core kn
    dsimp only [go]
    split
    · next hs => exact (h.switchOut hs).bump
    · exact h
  clear_value go
  split
  · exact h
  · split
    · exact hgo _ _
    · split
      · next hs =>
        obtain ⟨c, -, hc⟩ := List.exists_of_findSome?_eq_some hs
        exact (h.serviceNext hc).bump
      · split
        · split
          · exact hgo _ _
          · exact h
        · exact h

theorem State.Canon.storeCrew (h : s.Canon) {c : Nat} {w : Crew} (e : s.storeCrew c w = some t) : t.Canon := by
  unfold State.storeCrew at e
  extract_lets s1 s2 at e
  have h1 : s1.Canon := foldl_canon _ (fun s x hs => hs.drainAll x.1) _ h
  have h2 : s2.Canon := h1
  clear_value s2
  have h5 : State.Canon { ((s2.pick 129).2.pick 0).2.newId.2 with uid := ((s2.pick 129).2.pick 0).2.newId.2.uid + 16 } :=
    h2.of_mem (by simp)
  revert e
  dsimp only
  intro e
  split at e
  · cases e
  · split at e
    · cases e
    · split at e
      · cases e
      · next ht =>
        cases e
        rw [State.Canon, State.modCrew_mem]
        exact State.Canon.zoneWrite (State.Canon.takeArea h5 ht) _ _ _

theorem State.Canon.storeNext (cs : List (Nat × Crew)) : ∀ {s : State}, s.Canon → (s.storeNext cs).Canon := by
  induction cs with
  | nil => intro s h; exact h
  | cons c cs ih =>
    intro s h
    obtain ⟨n, w⟩ := c
    unfold State.storeNext
    split
    · split <;> exact h
    · split
      · next hs => exact (h.storeCrew hs).bump
      · exact ih (s := State.modCrew _ _ _) h

theorem State.Canon.crewSwitchOut (h : s.Canon) {home : Nat} (e : execCrewSwitchOut home s = .next t) : t.Canon := by
  cases e
  split
  · exact h
  · dsimp only
    split
    · split
      · exact h.storeNext _
      · exact h
    · split
      · exact h
      · exact h.storeNext _

theorem State.Canon.engineRelease (h : s.Canon) {c : Nat} (e : execEngineRelease c s = .next t) : t.Canon := by
  cases e
  split
  · exact h
  · split
    · exact h
    · split
      · exact h.removeCrew _
      · exact h

theorem State.Canon.pull (h : s.Canon) (pa n : Nat) : (s.pull pa n).Canon := h.recall _ _ _
theorem State.Canon.writeRaw (h : s.Canon) (pa : Nat) (bs : List Byte) : (s.writeRaw pa bs).Canon := h.writeMem _ _ _

theorem State.Canon.tablePull (h : s.Canon) (r : KnotRegs) (m : Nat) (bs : List Byte) : (s.tablePull r m bs).Canon := by
  refine foldl_canon _ (fun s i hs => ?_) _ h
  dsimp only
  split
  · exact State.Canon.pull (hs.walked _) _ _
  · exact hs.walked _

theorem State.Canon.countError (h : s.Canon) (header seq : Nat) : (s.countError header seq).Canon :=
  State.Canon.writeRaw (State.Canon.writeRaw (h.pull _ _) _ _) _ _

theorem State.Canon.complete (h : s.Canon) (r : KnotRegs) (m header seq : Nat) (a : DWord) (st : Nat) :
    (s.complete r m header seq a st).Canon := by
  unfold State.complete
  split
  · exact h
  · split
    · exact h.countError _ _
    · extract_lets s1
      have h1 : s1.Canon := h.walked _
      clear_value s1
      split
      · exact h1.countError _ _
      · next y _ =>
        extract_lets s2
        have h2 : s2.Canon := h1.recall _ _ _
        clear_value s2
        split
        · exact h2.countError _ _
        · exact h2.writeMem _ _ _

theorem State.Canon.indicesFor (la : Launch) (st fuel : Nat) : ∀ {s : State} (room i : Nat), s.Canon → (s.indicesFor la st fuel room i).2.2.Canon := by
  induction fuel with
  | zero => intro s room i h; exact h
  | succ fuel ih =>
    intro s room i h
    unfold State.indicesFor
    extract_lets step s1
    have h1 : s1.Canon := h.walked _
    clear_value s1
    split
    · exact h
    · split
      · exact ih _ _ h1
      · split
        · exact h1
        · exact ih (room - step) (i + step) h1

theorem State.Canon.handOut (h : s.Canon) (home : Nat) : (s.handOut home).Canon := by
  unfold State.handOut
  dsimp only
  split
  · exact h
  · split
    · exact h
    · split
      · exact h
      · rw [State.Canon, State.modLaunch_mem, foldl_mem _ (fun _ _ => State.addWork_mem ..), State.newId_snd_mem]
        exact State.Canon.indicesFor _ _ _ _ _ h

@[simp] theorem State.handedOut_mem (s : State) (m : Nat) : (s.handedOut m).mem = s.mem := by
  unfold State.handedOut
  split
  · rfl
  · split
    · rfl
    · split <;> rfl

@[simp] theorem State.releaseZero_mem (s : State) (l : Nat) (la : Launch) : (s.releaseZero l la).mem = s.mem :=
  foldl_mem _ (fun _ _ => State.releaseTask_mem ..) _ s

theorem State.Canon.launch (h : s.Canon) (m seq : Nat) (q : QueueReg) (bs : List Byte) (nodes : Sparse Node) :
    (s.launch m seq q bs nodes).Canon := by
  unfold State.launch
  dsimp only
  rw [State.Canon, State.handedOut_mem]
  refine foldl_canon State.handOut (fun _ x hs => hs.handOut x) _ ?_
  rw [State.Canon, State.releaseZero_mem, State.setMod_mem]
  split
  · rw [State.newBrood_mem]
    exact h
  · rw [State.newBrood_mem]
    exact h

theorem State.Canon.pullQueues (h : s.Canon) (m : Nat) : (s.pullQueues m).Canon := foldl_canon _ (fun _ _ hs => hs.pull _ _) _ h

theorem State.Canon.launchRecordTake (h : s.Canon) {m : Nat} (e : execLaunchRecordTake m s = .next t) : t.Canon := by
  cases e
  split
  · exact h
  · split
    · exact h
    · extract_lets s0 head slot s1 bs compl seq parent legal s2 s3
      have h1 : s1.Canon := State.Canon.pull (h.pullQueues m) _ _
      clear_value s1
      have h2 : s2.Canon := h1.writeRaw _ _
      clear_value s2
      have h3 : s3.Canon := h2.tablePull _ _ _
      clear_value s3
      split
      · exact h
      · split
        · exact (h2.complete ..).bump
        · split
          · exact (h3.complete ..).bump
          · split
            · exact (h3.complete ..).bump
            · exact (h3.launch ..).bump

theorem State.Canon.knotPlacement (h : s.Canon) {home : Nat} (e : execKnotPlacement home s = .next t) : t.Canon := by
  cases e
  split
  · exact h
  · extract_lets s0
    have h0 : s0.Canon := (h.handOut home).of_mem (State.handedOut_mem ..)
    clear_value s0
    split
    · exact h0
    · split
      · exact h0
      · split
        · exact h0
        · split
          · exact h0
          · exact h0

@[simp] theorem State.putCrew_mem (s : State) (home core l c : Nat) (la : Launch) (idx g n : Nat) :
    (s.putCrew home core l c la idx g n).mem = s.mem := by
  induction n with
  | zero => rfl
  | succ n ih =>
    unfold State.putCrew
    extract_lets s1
    have h1 : s1.mem = s.mem := ih
    clear_value s1
    split
    · exact h1
    · exact h1

theorem State.Canon.crewPlacement (h : s.Canon) {home : Nat} (e : execCrewPlacement home s = .next t) : t.Canon := by
  cases e
  split
  · exact h
  · extract_lets s0
    have h0 : s0.Canon := (h.handOut home).of_mem (State.handedOut_mem ..)
    clear_value s0
    split
    · exact h0
    · split
      · split
        · exact h0
        · dsimp only
          rw [State.Canon, State.bump_mem, State.putCrew_mem]
          exact h0
      · exact h0

theorem State.Canon.stealMessage (h : s.Canon) {home : Nat} (e : execStealMessage home s = .next t) : t.Canon := by
  cases e
  dsimp only
  split
  · exact h
  · split
    · exact h
    · split
      · exact h
      · rw [State.Canon, State.bump_mem, foldl_mem _ (fun _ _ => State.addWork_mem ..)]
        exact h

theorem State.Canon.launchCompletion (h : s.Canon) {l : Nat} (e : execLaunchCompletion l s = .next t) : t.Canon := by
  cases e
  extract_lets s0
  have h0 : s0.Canon := h.of_mem (State.flushLaunch_mem ..)
  clear_value s0
  split
  · exact h0
  · next la _ =>
    extract_lets s1 s2
    have h1 : s1.Canon := h0.complete ..
    clear_value s1
    split
    · exact h0
    · rw [State.Canon, State.bump_mem, State.handedOut_mem, State.pruneBroods_mem]
      exact h1

end Sys2Proof.Machine
end

section
/-! PROOF. The canonical form of memory is kept by the register families, control, ponds, REGROUP, fetch and hints. -/
namespace Sys2Proof.Machine
variable {s t : State} {α : Type}

/-- A destination that is checked unless an instruction names register 0. -/
theorem destUnless_gives (h : s.Canon) (p : Path) (r : RegName) {c : Prop} [Decidable c] {P : α → Prop} {rest : Res α} (hr : Gives P rest) :
    Gives P (if c then rest else checkDest s p r >>= fun _ => rest) := by
  split
  · exact hr
  · rw [gives_bind]
    exact checkDest_gives h p r hr

/-- An instruction that checks its sources, waits for its destinations, and then writes no memory. -/
theorem State.Canon.onLanes (h : s.Canon) {f : InstrForm} {never : Bool} {srcs : Here → List (RegName × Bool)} {eff : Here → Mask}
    {dests : Here → List RegName} {fin : State → Here → State}
    (e : Machine.knotOp f never (fun s x => do
      checkSources s x.p (srcs x)
      awaitDests s x.p (eff x) (dests x)
      .ok (fin s x)) s = .next t)
    (hm : ∀ s x, (fin s x).mem = s.mem) : t.Canon := by
  refine h.knotOp (fun s x hs => ?_) e
  rw [gives_bind]
  refine checkSources_gives hs _ _ ?_
  rw [gives_bind]
  exact awaitDests_gives hs _ _ _ (hs.of_mem (hm s x))

/-- A scalar instruction that a movement processor may share, and that writes no memory. -/
theorem State.Canon.onScalars (h : s.Canon) {f : InstrForm} {srcs : List (RegName × Bool)} {d : SReg} {fe : Bool}
    {fin : State → Here → State} {mfin : State → MHere → State}
    (e : Machine.agentRun f false
      (fun s x => do
        checkSources s x.p srcs
        if d = 0 then pure () else checkDest s x.p { file := .scal, num := d.toNat }
        .ok (fin s x))
      (fun s m => if fe then .error (.fault .illegal 0 0) else .ok (mfin s m)) s = .next t)
    (hm : ∀ s x, (fin s x).mem = s.mem) (hmm : ∀ s m, (mfin s m).mem = s.mem) : t.Canon := by
  refine h.runs (fun s x hs => ?_) (fun m => ?_) e
  · rw [gives_bind]
    refine checkSources_gives hs _ _ (destUnless_gives hs _ _ ?_)
    exact hs.of_mem (hm s x)
  · split
    · trivial
    · exact h.of_mem (hmm s m)

theorem State.Canon.onceScal (h : s.Canon) {f : InstrForm} {never : Bool} {d : SReg} {srcs : List (RegName × Bool)}
    {val : State → Here → Res DWord} (hv : ∀ s x, s.Canon → Gives (fun _ => True) (val s x))
    (e : Machine.onceScal f never d srcs val s = .next t) : t.Canon := by
  refine h.knotOp (fun s x hs => ?_) e
  have h1 : Gives State.Canon (val s x >>= fun v => .ok ((s.writeScal x.u d.toNat v).retire x.u)) := by
    rw [gives_bind]
    exact (hv s x hs).mono fun _ _ => hs
  rw [gives_bind]
  refine checkSources_gives hs _ _ ?_
  split
  · exact h1
  · rw [gives_bind]
    exact checkDest_gives hs _ _ h1

theorem State.Canon.reduceOp (h : s.Canon) {f : InstrForm} {g : Guard} {d : SReg} {a : VReg} {b : SReg} {e e' : Bool}
    {comb : Here → Comb} {z : Word} {sg : Bool} (hr : Machine.reduceOp f g d a b e e' comb z sg s = .next t) : t.Canon := by
  refine h.knotOp (fun s x hs => ?_) hr
  extract_lets eff c r v s1
  have h1 : Gives State.Canon (.ok ((if eff = 0 then s1 else s1.addFlags x.u r.2).retire x.u)) := by
    rw [gives_ok, State.Canon, State.retire_mem]
    split <;> exact hs
  clear_value eff c r s1
  rw [gives_bind]
  refine checkSources_gives hs _ _ ?_
  split
  · exact h1
  · rw [gives_bind]
    exact checkDest_gives hs _ _ h1

theorem State.Canon.scanOp (h : s.Canon) {f : InstrForm} {g : Guard} {d a : VReg} {b : SReg} {e e' : Bool}
    {comb : Here → Comb} (hr : Machine.scanOp f g d a b e e' comb s = .next t) : t.Canon := by
  refine h.knotOp (fun s x hs => ?_) hr
  extract_lets eff c r s1
  have h1 : s1.Canon := hs.of_mem (State.writeVec_mem ..)
  clear_value eff c r s1
  rw [gives_bind]
  refine checkSources_gives hs _ _ ?_
  rw [gives_bind]
  refine awaitDests_gives hs _ _ _ ?_
  rw [gives_ok, State.Canon, State.retire_mem]
  split <;> exact h1

theorem State.Canon.voteOp (h : s.Canon) {g : Guard} {d : SReg} {a : PReg} {k : BitVec 5} {e : Bool} {res : Nat → Nat → Nat}
    (hr : Machine.voteOp g d a k e res s = .next t) : t.Canon := by
  refine h.onceScal (fun _ _ _ => ?_) hr
  trivial

theorem State.Canon.v2s (h : s.Canon) {g : Guard} {d : SReg} {a : VReg} {b : SReg} {e f : Bool}
    (hr : execV2s g d a b e f s = .next t) : t.Canon :=
  h.knotOp (fun s x hs => by split <;> simp [hs]) hr

theorem State.Canon.fetchTrap (h : s.Canon) {p : Path → TrapCode} {m : Mover → TrapCode} (e : Machine.fetchTrap p m s = .next t) : t.Canon := by
  unfold Machine.fetchTrap at e
  split at e
  · cases e
  · split at e
    · cases e
    · cases e; exact h.takeTrap _ _
  · split at e
    · cases e
    · cases e; exact h

theorem State.Canon.hintPath (h : s.Canon) (same : Hints → Bool) (put : Hints → Hints) (x : Here) : (hintPath same put s x).Canon := by
  unfold Machine.hintPath
  split
  · exact h.takeTrap _ _
  · exact h

theorem State.Canon.hintMover (h : s.Canon) (same : Hints → Bool) (put : Hints → Hints) (m : MHere) : (hintMover same put s m).Canon := by
  unfold Machine.hintMover
  split <;> exact h

theorem State.Canon.hintWord (h : s.Canon) {sub : Bool} {same : Hints → Bool} {put : Hints → Hints}
    (e : Machine.hintWord sub same put s = .next t) : t.Canon := by
  unfold Machine.hintWord at e
  split at e
  · cases e
  · split at e
    · cases e
    · cases e; exact h.hintPath _ _ _
  · split at e
    · cases e
    · cases e
      split
      · exact h.hintMover _ _ _
      · exact h

/-! Control (R179 to R188). -/

theorem State.Canon.bra (h : s.Canon) {g : Bool} {o : BitVec 18} (e : execBra g o s = .next t) : t.Canon := by
  refine h.runs (fun s x hs => ?_) (fun m => ?_) e
  · exact hs
  · split <;> exact h

theorem State.Canon.bru (h : s.Canon) {g : Guard} {o : BitVec 18} (e : execBru g o s = .next t) : t.Canon := by
  refine h.knotOp (fun s x hs => ?_) e
  rw [gives_bind]
  refine checkSources_gives hs _ _ ?_
  dsimp only
  split
  · exact hs
  · split <;> exact hs

theorem State.Canon.brc (h : s.Canon) {g : Guard} {w : Pond} {o : BitVec 18} (e : execBrc g w o s = .next t) : t.Canon := by
  refine h.knotOp (fun s x hs => ?_) e
  have h1 : ((s.openPond x w).retire x.u).Canon := hs
  rw [gives_bind]
  refine checkSources_gives hs _ _ ?_
  split
  · exact hs
  · extract_lets tk f target
    split
    · exact hs
    · split
      · exact hs
      · rw [gives_bind]
        refine fence_gives hs _ ?_
        split
        · exact h1
        · dsimp only
          rw [gives_ok, State.Canon, State.modPath_mem, State.addPath_mem]
          exact h1

theorem State.Canon.call (h : s.Canon) {f : BitVec 5} {o : BitVec 18} (e : execCall f o s = .next t) : t.Canon :=
  h.runs (fun _ _ hs => callKnot_gives hs ..) (fun _ => callMover_gives h ..) e

theorem State.Canon.calli (h : s.Canon) {a : SReg} {f : BitVec 5} {fe : Bool} (e : execCalli a f fe s = .next t) : t.Canon := by
  refine h.runs (fun s x hs => ?_) (fun m => ?_) e
  · rw [gives_bind]
    refine checkSources_gives hs _ _ ?_
    dsimp only
    split
    · exact hs
    · exact callKnot_gives hs ..
  · dsimp only
    split
    · trivial
    · split
      · trivial
      · exact callMover_gives h ..

theorem State.Canon.ret (h : s.Canon) (e : execRet s = .next t) : t.Canon := by
  refine h.runs (fun s x hs => ?_) (fun m => ?_) e
  · split <;> exact hs
  · split
    · trivial
    · exact h

theorem State.Canon.loop (h : s.Canon) {n : SReg} {o : BitVec 18} (e : execLoop n o s = .next t) : t.Canon := by
  refine h.runs (fun s x hs => ?_) (fun m => ?_) e
  · rw [gives_bind]
    refine checkSources_gives hs _ _ ?_
    dsimp only
    split <;> exact hs
  · dsimp only
    split <;> exact h

theorem State.Canon.nop (h : s.Canon) (e : execNop s = .next t) : t.Canon := by
  refine h.runs (fun s x hs => ?_) (fun m => ?_) e
  · exact hs
  · exact h

theorem State.Canon.yield (h : s.Canon) (e : execYield s = .next t) : t.Canon := by
  refine h.knotOp (fun s x hs => ?_) e
  exact hs

theorem State.Canon.join (h : s.Canon) {w : Pond} (e : execJoin w s = .next t) : t.Canon := by
  refine h.knotOp (fun s x hs => orWait_gives hs ?_) e
  have h1 : (applyEntry s x).1.Canon := hs
  generalize applyEntry s x = r at h1 ⊢
  obtain ⟨s1, x1⟩ := r
  dsimp only at h1 ⊢
  rw [gives_bind]
  refine Gives.mono (P := fun _ => True) ?_ fun _ _ => ?_
  · split
    · trivial
    · exact fence_gives h1 _ trivial
  · split
    · exact h1
    · split
      · rw [gives_bind]
        refine needFilled_gives h1 _ ?_
        exact State.arriveJoin_gives h1 _ _
      · split
        · exact h1
        · rw [gives_bind]
          refine carriedReady_gives h1 _ _ ?_
          rw [gives_ok]
          refine State.Canon.bump (State.Canon.depart ?_ _ _)
          exact h1

theorem State.Canon.endP (h : s.Canon) (e : execEndP s = .next t) : t.Canon := by
  refine h.knotOp (fun s x hs => ?_) e
  rw [gives_bind]
  refine fence_gives hs _ ?_
  split
  · exact hs
  · exact hs.endPath _

theorem State.Canon.width (h : s.Canon) {d a : SReg} {i : BitVec 16} (e : execWidth d a i s = .next t) : t.Canon :=
  h.knotOp (fun s x hs => by simp [hs]) e

theorem State.Canon.pstep (h : s.Canon) {g : Bool} (e : execPstep g s = .next t) : t.Canon := by
  refine h.knotOp (fun s x hs => ?_) e
  split
  · exact hs
  · rw [gives_bind]
    refine needSingle_gives hs _ ?_
    extract_lets arrived s1
    split
    · split
      · exact hs
      · exact hs
    · rw [gives_ok]
      refine State.Canon.tryStep ?_ _
      exact hs

theorem State.Canon.bar (h : s.Canon) {g : Bool} {i : BitVec 4} {y : Scope} (e : execBar g i y s = .next t) : t.Canon := by
  refine h.knotOp (fun s x hs => ?_) e
  split
  · split
    · split
      · rw [gives_ok, State.Canon, State.dropPhase_mem]
        exact hs
      · exact hs
    · exact hs
  · rw [gives_bind]
    exact arrive_gives hs _ _ _ fun n t1 ht => hs.of_mem ht

theorem State.Canon.bara (h : s.Canon) {g : Bool} {i : BitVec 4} {y : Scope} (e : execBara g i y s = .next t) : t.Canon := by
  refine h.knotOp (fun s x hs => ?_) e
  rw [gives_bind]
  exact arrive_gives hs _ _ _ fun n t1 ht => hs.of_mem ht

theorem State.Canon.barw (h : s.Canon) {g : Bool} {i : BitVec 4} {y : Scope} (e : execBarw g i y s = .next t) : t.Canon := by
  refine h.knotOp (fun s x hs => ?_) e
  split
  · exact hs
  · extract_lets done s1
    clear_value done
    split
    · exact hs
    · rw [gives_ok, State.Canon, State.dropPhase_mem]
      exact hs

/-! PACK and REGROUP (R48 to R51). -/

theorem State.Canon.pack (h : s.Canon) {g : Bool} (e : execPack g s = .next t) : t.Canon := by
  refine h.knotOp (fun s x hs => orWait_gives hs ?_) e
  have h1 : (applyEntry s x).1.Canon := hs
  generalize applyEntry s x = r at h1 ⊢
  obtain ⟨s1, x1⟩ := r
  dsimp only at h1 ⊢
  simp [h1]

@[simp] theorem State.regrouped_mem (s : State) (u d : Nat) (v : DWord) : (s.regrouped u d v).mem = s.mem := by
  unfold State.regrouped
  split <;> rfl

theorem State.Canon.regroup (h : s.Canon) {g : Bool} {d a : SReg} {fe : Bool} (e : execRegroup g d a fe s = .next t) : t.Canon := by
  refine h.knotOp (fun s x hs => ?_) e
  split
  · exact hs
  · refine orWait_gives hs ?_
    have h1 : (applyEntry s x).1.Canon := hs
    generalize applyEntry s x = r at h1 ⊢
    obtain ⟨s1, x1⟩ := r
    dsimp only at h1 ⊢
    rw [gives_bind]
    refine checkSources_gives hs _ _ ?_
    rw [gives_bind]
    refine needWhole_gives h1 _ ?_
    rw [gives_bind]
    refine carriedReady_gives h1 _ _ ?_
    rw [gives_bind]
    refine fence_gives h1 _ ?_
    split
    · rw [gives_ok, State.Canon, State.regrouped_mem]
      exact h1
    · exact h1

theorem State.Canon.fuse (h : s.Canon) (a b : Here) (da db : Nat) : (s.fuse a b da db).Canon := by
  unfold State.fuse
  dsimp only
  split
  · rw [State.Canon, State.regrouped_mem, State.regrouped_mem]
    exact h
  · rw [State.Canon, State.regrouped_mem]
    refine State.Canon.afterEnd (State.Canon.dropKnot ?_ _) _
    exact h

theorem State.Canon.pair (h : s.Canon) (u v : Nat) : (s.pair u v).Canon := by
  unfold State.pair
  split
  · split
    · exact h.fuse ..
    · exact h.fuse ..
  · exact h

theorem State.Canon.regroupWindowExpiry (h : s.Canon) {u : Nat} (e : execRegroupWindowExpiry u s = .next t) : t.Canon := by
  cases e
  split
  · exact h
  · split
    · split
      · exact (h.pair _ _).bump
      · split
        · rw [State.Canon, State.regrouped_mem]
          exact h
        · exact h
    · exact h

/-! HOME and FENCE (R200, R202). -/

theorem State.Canon.home (h : s.Canon) {g : Bool} {d b : SReg} {fe : Bool} {o : BitVec 3} (e : execHome g d b fe o s = .next t) : t.Canon := by
  refine h.knotOp (fun s x hs => ?_) e
  rw [gives_bind]
  refine checkSources_gives hs _ _ ?_
  extract_lets va walk
  have hwalk : ∀ y, Gives State.Canon (walk y) := by
    intro y
    dsimp only [walk]
    rw [gives_bind]
    refine walkAll_gives hs _ _ fun s1 h1 => ?_
    exact h1
  clear_value walk
  split
  · exact hwalk _
  · rw [gives_bind]
    exact checkDest_gives hs _ _ (hwalk _)

theorem State.Canon.fence (h : s.Canon) {g : Bool} (e : execFence g s = .next t) : t.Canon :=
  h.knotOp (fun s x hs => by simp [hs]) e

end Sys2Proof.Machine
end

section
/-! PROOF. The canonical form of memory is kept by the matrix unit and by handles. -/
namespace Sys2Proof.Machine
variable {s t : State}

theorem needEngine_gives (h : s.Canon) (x : Here) (code : TrapCode) {P : EngineHere → Prop} (hp : ∀ y, P y) :
    Gives P (needEngine s x code) := by
  unfold needEngine
  split
  · split
    · exact hp _
    · exact h
  · exact h

theorem State.Canon.matrixOp (h : s.Canon) {never : Bool} {body : State → Here → EngineHere → Res State}
    (hb : ∀ s x y, s.Canon → Gives State.Canon (body s x y)) (e : Machine.matrixOp never body s = .next t) : t.Canon := by
  refine h.knotOp (fun s x hs => ?_) e
  rw [gives_bind]
  exact needEngine_gives hs x _ fun y => hb s x y hs

theorem needRange_gives (h : s.Canon) (code : TrapCode) (ok : Nat → Nat → Bool) (rs : List (Nat × Nat)) {P : Unit → Prop} (hp : P ()) :
    Gives P (needRange s code ok rs) := by
  induction rs with
  | nil => exact hp
  | cons r rs ih =>
    simp only [needRange]
    split
    · exact ih
    · exact h

theorem needToken_gives (h : s.Canon) (x : Here) (e : Engine) (a : Acc) (unit : Bool) {P : Nat → Prop} (hp : ∀ i, P i) :
    Gives P (needToken s x e a unit) := by
  unfold needToken
  split
  · exact h
  · split
    · exact hp _
    · exact h

theorem State.Canon.tcfg (h : s.Canon) {g : Bool} {i : Tile} {y : SReg} {fe : Bool} (e : execTcfg g i y fe s = .next t) : t.Canon := by
  refine h.matrixOp (fun s x m hs => ?_) e
  rw [gives_bind]
  refine checkSources_gives hs _ _ ?_
  rw [gives_bind]
  exact needThat_gives hs _ _ hs

theorem State.Canon.tileMove (h : s.Canon) {g : Bool} {i : Tile} {y z : SReg} {fe f : Bool} {kind : Nat → Nat → Nat → MatKind}
    (e : Machine.tileMove g i y z fe f kind s = .next t) : t.Canon := by
  refine h.matrixOp (fun s x m hs => ?_) e
  rw [gives_bind]
  refine checkSources_gives hs _ _ ?_
  split
  · exact hs
  · rw [gives_bind]
    refine needThat_gives hs _ _ ?_
    rw [gives_bind]
    refine needRange_gives hs _ _ _ ?_
    rw [gives_bind]
    refine needRange_gives hs _ _ _ ?_
    rw [gives_bind]
    exact needRange_gives hs _ _ _ hs

theorem State.Canon.tzero (h : s.Canon) {g : Bool} {i : Tile} (e : execTzero g i s = .next t) : t.Canon := by
  refine h.matrixOp (fun s x m hs => ?_) e
  exact hs

theorem State.Canon.wld (h : s.Canon) {g : Bool} {i : Tile} {y : SReg} {fe : Bool} (e : execWld g i y fe s = .next t) : t.Canon := by
  refine h.matrixOp (fun s x m hs => ?_) e
  rw [gives_bind]
  refine checkSources_gives hs _ _ ?_
  split
  · exact hs
  · rw [gives_bind]
    exact needThat_gives hs _ _ hs

theorem State.Canon.multiply (h : s.Canon) {g : Guard} {a : Acc} {i : Tile} {k : ActType} {scale : Option (VReg × Bool)}
    (e : Machine.multiply g a i k scale s = .next t) : t.Canon := by
  refine h.matrixOp (fun s x m hs => ?_) e
  rw [gives_bind]
  refine checkSources_gives hs _ _ ?_
  rw [gives_bind]
  refine needToken_gives hs _ _ _ _ fun j => ?_
  split
  · exact hs
  · rw [gives_bind]
    refine needThat_gives hs _ _ ?_
    rw [gives_bind]
    exact needThat_gives hs _ _ hs

theorem State.Canon.mbatch (h : s.Canon) {g : Bool} {d : SReg} (e : execMbatch g d s = .next t) : t.Canon := by
  refine h.matrixOp (fun s x m hs => ?_) e
  exact destUnless_gives hs _ _ hs

theorem State.Canon.mwait (h : s.Canon) {g : Bool} {y : SReg} {fe : Bool} (e : execMwait g y fe s = .next t) : t.Canon := by
  refine h.matrixOp (fun s x m hs => ?_) e
  rw [gives_bind]
  refine checkSources_gives hs _ _ ?_
  rw [gives_bind]
  refine needThat_gives hs _ _ ?_
  split <;> exact hs

theorem State.Canon.accget (h : s.Canon) {g : Bool} {d : SReg} {n : BitVec 5} (e : execAccget g d n s = .next t) : t.Canon := by
  refine h.matrixOp (fun s x m hs => ?_) e
  refine destUnless_gives hs _ _ ?_
  extract_lets queued
  split
  · split <;> exact hs
  · split <;> exact hs

theorem State.Canon.accgetGrant (h : s.Canon) {crew : Nat} (e : execAccgetGrant crew s = .next t) : t.Canon := by
  cases e
  split
  · exact h
  · split
    · exact h
    · split
      · exact h
      · exact h.of_mem (State.pick_snd_mem 8)

theorem State.Canon.accput (h : s.Canon) {g : Bool} (e : execAccput g s = .next t) : t.Canon := by
  refine h.matrixOp (fun s x m hs => ?_) e
  split <;> exact hs

theorem State.Canon.acq (h : s.Canon) {g : Bool} {a : Acc} (e : execAcq g a s = .next t) : t.Canon := by
  refine h.matrixOp (fun s x m hs => ?_) e
  rw [gives_bind]
  refine needToken_gives hs _ _ _ _ fun j => ?_
  split <;> exact hs

theorem State.Canon.rel (h : s.Canon) {g : Bool} {a : Acc} (e : execRel g a s = .next t) : t.Canon := by
  refine h.matrixOp (fun s x m hs => ?_) e
  rw [gives_bind]
  exact needToken_gives hs _ _ _ _ fun j => hs

theorem State.Canon.performOr (h : s.Canon) (x : Here) (a : Access) : ((s.perform x a).getD s).Canon := by
  cases e : s.perform x a with
  | none => exact h
  | some s1 => exact h.perform e

theorem State.Canon.accRead (h : s.Canon) {g : Guard} {d : VReg} {a : Acc} {z : SReg} {f : Bool} {n : Nat}
    (e : Machine.accRead g d a z f n s = .next t) : t.Canon := by
  refine h.matrixOp (fun s x m hs => ?_) e
  rw [gives_bind]
  refine checkSources_gives hs _ _ ?_
  rw [gives_bind]
  refine needToken_gives hs _ _ _ _ fun j => ?_
  rw [gives_bind]
  refine needThat_gives hs _ _ ?_
  extract_lets ls dest acc
  split
  · exact hs
  · rw [gives_bind]
    refine checkDests_gives hs _ _ ?_
    rw [gives_ok, State.Canon, State.retire_mem]
    exact hs.performOr _ _

theorem State.Canon.accWrite (h : s.Canon) {g : Guard} {a : Acc} {v : VReg} {z : SReg} {fe f : Bool} {n : Nat}
    (e : Machine.accWrite g a v z fe f n s = .next t) : t.Canon := by
  refine h.matrixOp (fun s x m hs => ?_) e
  rw [gives_bind]
  refine checkSources_gives hs _ _ ?_
  rw [gives_bind]
  refine needToken_gives hs _ _ _ _ fun j => ?_
  rw [gives_bind]
  exact needThat_gives hs _ _ hs

theorem State.Canon.tileWord (h : s.Canon) (crew i : Nat) : (s.tileWord crew i).Canon := by
  unfold State.tileWord
  split
  · exact h
  · split <;> exact h

theorem State.Canon.matrixOperation (h : s.Canon) {crew : Nat} (e : execMatrixOperation crew s = .next t) : t.Canon := by
  cases e
  split <;> exact h

/-! Handles and the mailbox (R236 to R239, R246). -/

theorem State.Canon.handleOp (h : s.Canon) {body : State → Here → EngineHere → Res State}
    (hb : ∀ s x y, s.Canon → Gives State.Canon (body s x y)) (e : Machine.handleOp body s = .next t) : t.Canon := by
  refine h.knotOp (fun s x hs => ?_) e
  rw [gives_bind]
  exact needEngine_gives hs x _ fun y => hb s x y hs

theorem State.Canon.hwait (h : s.Canon) {x : Handle} (e : execHwait x s = .next t) : t.Canon := by
  refine h.handleOp (fun s x m hs => ?_) e
  split <;> exact hs

theorem State.Canon.hany (h : s.Canon) {d a : SReg} {fe : Bool} (e : execHany d a fe s = .next t) : t.Canon := by
  refine h.handleOp (fun s x m hs => ?_) e
  rw [gives_bind]
  refine checkSources_gives hs _ _ ?_
  refine destUnless_gives hs _ _ ?_
  rw [gives_bind]
  refine needThat_gives hs _ _ ?_
  split <;> exact hs

theorem State.Canon.hall (h : s.Canon) {a : SReg} {fe : Bool} (e : execHall a fe s = .next t) : t.Canon := by
  refine h.handleOp (fun s x m hs => ?_) e
  rw [gives_bind]
  refine checkSources_gives hs _ _ ?_
  split <;> exact hs

theorem State.Canon.hfirst (h : s.Canon) {d a : SReg} {fe : Bool} (e : execHfirst d a fe s = .next t) : t.Canon := by
  refine h.handleOp (fun s x m hs => ?_) e
  rw [gives_bind]
  refine checkSources_gives hs _ _ ?_
  exact destUnless_gives hs _ _ hs

theorem State.Canon.hclaim (h : s.Canon) {x : Handle} (e : execHclaim x s = .next t) : t.Canon := by
  refine h.handleOp (fun s x m hs => ?_) e
  split <;> exact hs

theorem State.Canon.hfree (h : s.Canon) {x : Handle} (e : execHfree x s = .next t) : t.Canon := by
  refine h.handleOp (fun s x m hs => ?_) e
  rw [gives_bind]
  exact needThat_gives hs _ _ hs

theorem State.Canon.hsig (h : s.Canon) {a : SReg} {fe : Bool} (e : execHsig a fe s = .next t) : t.Canon := by
  refine h.handleOp (fun s x m hs => ?_) e
  rw [gives_bind]
  refine checkSources_gives hs _ _ ?_
  split <;> exact hs

theorem State.Canon.mpwait (h : s.Canon) {d : GReg} (e : execMpwait d s = .next t) : t.Canon := by
  refine h.moverOp (fun m => ?_) e
  split <;> exact h

theorem State.Canon.hset (h : s.Canon) {a : GReg} {x : Handle} (e : execHset a x s = .next t) : t.Canon := by
  refine h.moverOp (fun m => ?_) e
  extract_lets v i r r1
  split
  · trivial
  · split
    · exact h
    · split
      · trivial
      · split
        · trivial
        · exact h

theorem State.Canon.hexp (h : s.Canon) {a : GReg} {x : Handle} (e : execHexp a x s = .next t) : t.Canon := by
  refine h.moverOp (fun m => ?_) e
  extract_lets v i r
  split
  · trivial
  · exact h

theorem State.Canon.mpfence (h : s.Canon) (e : execMpfence s = .next t) : t.Canon := by
  refine h.moverOp (fun m => ?_) e
  split <;> exact h

theorem State.Canon.mpend (h : s.Canon) (e : execMpend s = .next t) : t.Canon := by
  refine h.moverOp (fun m => ?_) e
  split <;> exact h

end Sys2Proof.Machine
end

section
/-! PROOF. The canonical form of memory is kept by the special registers, traps, RFT, PFIX and the instructions that serve knots. -/
namespace Sys2Proof.Machine
variable {s t : State}

theorem State.Canon.srd (h : s.Canon) {r : SReg} {n : Special} (e : execSrd r n s = .next t) : t.Canon := by
  refine h.runs (fun s x hs => ?_) (fun m => ?_) e
  · split
    · exact hs
    · exact destUnless_gives hs _ _ hs
  · split
    · trivial
    · exact h

theorem State.Canon.srdVector (h : s.Canon) {r : VReg} (e : execSrdVector r s = .next t) : t.Canon := by
  refine h.knotOp (fun s x hs => ?_) e
  rw [gives_bind]
  refine awaitDests_gives hs _ _ _ ?_
  rw [gives_ok, State.Canon, State.retire_mem, State.writeVec_mem]
  exact hs

@[simp] theorem State.writeSpecial_mem (s : State) (x : Here) (n : Special) (v : DWord) : (s.writeSpecial x n v).mem = s.mem := by
  cases n <;> rfl

theorem State.Canon.swr (h : s.Canon) {r : SReg} {fe : Bool} {n : Special} (e : execSwr r fe n s = .next t) : t.Canon := by
  refine h.knotOp (fun s x hs => ?_) e
  split
  · exact hs
  · rw [gives_bind]
    refine checkSources_gives hs _ _ ?_
    extract_lets s1 rest
    have h1 : s1.Canon := hs.of_mem (State.writeSpecial_mem ..)
    have hrest : ∀ y, Gives State.Canon (rest y) := by
      intro y
      dsimp only [rest]
      rw [gives_ok]
      split
      · exact h1.serviceOn _ _
      · exact h1
    clear_value s1 rest
    split
    · rw [gives_bind]
      exact needSingle_gives hs _ (hrest _)
    · exact hrest _

theorem State.Canon.trap (h : s.Canon) {a : SReg} {n : BitVec 5} {fe : Bool} (e : execTrap a n fe s = .next t) : t.Canon :=
  h.knotOp (fun s x hs => by simp [hs]) e

theorem State.Canon.bkpt (h : s.Canon) {n : BitVec 5} (e : execBkpt n s = .next t) : t.Canon :=
  h.knotOp (fun s x hs => by simp [hs]) e

theorem State.Canon.ifence (h : s.Canon) (e : execIfence s = .next t) : t.Canon :=
  h.knotOp (fun s x hs => by simp [hs]) e

theorem State.Canon.halt (h : s.Canon) (e : execHalt s = .next t) : t.Canon := by
  refine h.knotOp (fun s x hs => ?_) e
  exact (hs.killKnot _).bump

/-! A range that a path reads or writes in place (R64, R75). -/

theorem spanParts_gives (h : s.Canon) (x : Here) (need : Needs) (ps : List (Nat × Nat)) :
    Gives (fun _ => True) (spanParts s x need ps) := by
  induction ps with
  | nil => trivial
  | cons p ps ih =>
    simp only [spanParts]
    split
    · exact h
    · split
      · exact h
      · split
        · next e => rw [e] at ih; exact ih
        · trivial

theorem spanTargets_gives (h : s.Canon) (x : Here) (need : Needs) (ps : List (Nat × Nat)) :
    Gives (fun r => r.2.Canon) (spanTargets s x need ps) := by
  unfold spanTargets
  rw [gives_bind]
  refine walkAll_gives h _ _ fun s1 h1 => ?_
  rw [gives_bind]
  exact (spanParts_gives h1 x need ps).mono fun _ _ => h1

theorem spanRead_gives (h : s.Canon) (x : Here) (va n : Nat) : Gives (fun r => r.2.Canon) (spanRead s x va n) := by
  unfold spanRead
  rw [gives_bind]
  refine (spanTargets_gives h x _ _).mono fun r hr => ?_
  obtain ⟨ts, s0⟩ := r
  dsimp -zeta only
  extract_lets s1
  have h1 : s1.Canon := foldl_canon _ (fun s y hs => hs.recall _ _ _) _ hr
  split <;> exact h1

theorem State.Canon.spanPut (ts : List (Target × Nat)) : ∀ {s : State} (bs : List Byte), s.Canon → (s.spanPut ts bs).Canon := by
  induction ts with
  | nil => intro s bs h; exact h
  | cons p ts ih => intro s bs h; exact ih _ (h.writeMem _ _ _)

theorem spanWrite_gives (h : s.Canon) (x : Here) (va : Nat) (bs : List Byte) : Gives State.Canon (spanWrite s x va bs) := by
  unfold spanWrite
  rw [gives_bind]
  exact (spanTargets_gives h x _ _).mono fun r hr => State.Canon.spanPut r.1 bs hr

/-! RFT (R285, R288, R289). -/

theorem State.spill_gives (h : s.Canon) (x : Here) (m area : Nat) : Gives State.Canon (s.spill x m area) := by
  unfold State.spill
  extract_lets k
  rw [gives_bind]
  exact (spanWrite_gives h x area _).mono fun s1 h1 => h1

theorem State.unspill_gives (h : s.Canon) (x : Here) (area : Nat) :
    Gives (fun r : Option State => ∀ t ∈ r, t.Canon) (s.unspill x area) := by
  unfold State.unspill
  rw [gives_bind]
  refine (spanRead_gives h x _ _).mono fun r hr => ?_
  obtain ⟨hd, s1⟩ := r
  dsimp only
  split
  · intro t ht; cases ht
  · rw [gives_bind]
    refine (spanRead_gives hr x _ _).mono fun r2 hr2 => ?_
    intro t ht
    cases ht
    exact hr2

theorem State.spillOrFill_gives (h : s.Canon) (x : Here) (a : Action) :
    Gives (fun r : Option State => ∀ t ∈ r, t.Canon) (s.spillOrFill x a) := by
  unfold State.spillOrFill
  split
  · rw [gives_bind]
    refine needFilled_gives h _ ?_
    have hsp := State.spill_gives h x a.count a.area
    generalize s.spill x a.count a.area = r at hsp
    rcases r with (_ | _) | s1
    · exact hsp
    · exact hsp
    · intro t ht
      cases ht
      exact hsp
  · split
    · rw [gives_bind]
      exact needFilled_gives h _ (State.unspill_gives h x _)
    · intro t ht
      cases ht
      exact h

@[simp] theorem State.judge_mem (s : State) (k : Knot) (how : Nat) : (s.judge k how).mem = s.mem := by
  unfold State.judge
  split <;> rfl

theorem State.Canon.dropRecord (h : s.Canon) (x : Here) (fr : List Byte) : (s.dropRecord x fr).Canon := by
  unfold State.dropRecord
  split
  · split
    · exact h.freeArea _ _
    · exact h
  · exact h

theorem State.Canon.leave (h : s.Canon) (x : Here) (fr : List Byte) (a : Action) : (s.leave x fr a).Canon := by
  unfold State.leave
  extract_lets s1
  have h1 : s1.Canon := by
    dsimp only [s1]
    split
    · split <;> exact h
    · exact h
  clear_value s1
  exact State.Canon.returnFrom (State.Canon.dropRecord (h1.of_mem (State.judge_mem ..)) _ _) _ _

/-- The end of a replay of RFT: when it is done, the steps that leave the handler. -/
theorem State.Canon.replayed (h : s.Canon) (done : Bool) (u : Nat) (fr : List Byte) (a : Action) :
    State.Canon (if done then (match s.here u with | some x => s.leave x fr a | none => s) else s) := by
  split
  · split
    · exact h.leave _ _ _
    · exact h
  · exact h

theorem State.Canon.rft (h : s.Canon) {a : SReg} {fe : Bool} (e : execRft a fe s = .next t) : t.Canon := by
  refine h.knotOp (fun s x hs => ?_) e
  rw [gives_bind]
  refine checkSources_gives hs _ _ ?_
  rw [gives_bind]
  refine checkDests_gives hs _ _ ?_
  extract_lets va
  rw [gives_bind]
  refine (spanRead_gives hs x _ _).mono fun r hr => ?_
  obtain ⟨fr, s1⟩ := r
  dsimp only at hr ⊢
  split
  · rw [gives_bind]
    refine (State.replayOn_gives hr x _).mono fun y hy => ?_
    exact hy.replayed _ _ _ _
  · split
    · exact hr.doubleTrap _ _ _
    · rw [gives_bind]
      refine (State.spillOrFill_gives hr x _).mono fun y hy => ?_
      split
      · exact hr.doubleTrap _ _ _
      · next filled =>
        have hf : filled.Canon := hy _ rfl
        split
        · exact hf
        · split
          · refine State.Canon.leave ?_ _ _ _
            exact hf
          · rw [gives_bind]
            refine (State.replayOn_gives (s := filled.modPath x.u (Path.keepFramed fr)) hf _ _).mono fun z hz => ?_
            exact hz.replayed _ _ _ _

/-! PFIX (R291, R305). -/

theorem State.retryAll_gives (u i : Nat) (old : PostEntry) (rs : List Held) : ∀ {s : State} (sent : Nat), s.Canon →
    Gives (fun r : Nat × State => r.2.Canon) (s.retryAll u i old sent rs) := by
  induction rs with
  | nil => intro s sent h; exact h
  | cons r rest ih =>
    intro s sent h
    unfold State.retryAll
    split
    · exact h
    · next x _ =>
      extract_lets waits
      split
      · exact h
      · next s1 hw =>
        have hg := walkAll_gives (P := State.Canon) h x (if r.op = 255 then [] else [r.addr]) fun _ ht => ht
        rw [hw] at hg
        have h1 : s1.Canon := hg
        generalize s1.retryTarget x r = tgt
        obtain ⟨home, cause, tg⟩ := tgt
        dsimp -zeta only
        extract_lets s2 s4
        have h2 : s2.Canon := h1
        have h4 : s4.Canon := h1
        clear_value s2 s4
        split
        · exact h2
        · next x1 _ =>
          split
          · next s3 hsend =>
            have hs3 := sendPost_gives h2 x1 home cause
              { lane := r.lane, op := r.postOp x.k.launch, code := r.op, type := r.type, va := r.addr, pa := tg.pa, key := tg.key
                data := r.data, stamp := x.p.ctx.stamp }
            rw [hsend] at hs3
            exact ih _ (State.Canon.freeArea hs3 _ _)
          · exact h2
          · rw [gives_ok]
            dsimp only
            split
            · exact State.Canon.relink _ _ h4
            · exact h4

theorem State.Canon.pfix (h : s.Canon) {d : SReg} {i : BitVec 3} (e : execPfix d i s = .next t) : t.Canon := by
  refine h.knotOp (fun s x hs => ?_) e
  refine destUnless_gives hs _ _ ?_
  extract_lets en
  split
  · rw [gives_bind]
    exact (State.retryAll_gives _ _ _ _ _ hs).mono fun r hr => hr
  · split
    · exact hs
    · rw [gives_bind]
      refine (State.retryAll_gives _ _ _ _ _ ?_).mono fun r hr => hr
      exact hs

theorem State.Canon.pfixDrop (h : s.Canon) {d : SReg} {i : BitVec 3} (e : execPfixDrop d i s = .next t) : t.Canon := by
  refine h.knotOp (fun s x hs => ?_) e
  refine destUnless_gives hs _ _ ?_
  extract_lets en s1
  have h1 : s1.Canon := foldl_canon _ (fun s r hs => hs.freeArea _ _) _ hs
  clear_value s1
  split
  · exact hs
  · exact h1

/-! CTXSV, CTXLD and CTXLD.KILL (R292, R293). -/

@[simp] theorem State.freeTag_mem (s : State) : s.freeTag.2.mem = s.mem := State.pick_snd_mem 0

theorem State.Canon.ctxsv (h : s.Canon) {a : SReg} {fe : Bool} (e : execCtxsv a fe s = .next t) : t.Canon := by
  refine h.knotOp (fun s x hs => ?_) e
  rw [gives_bind]
  refine checkSources_gives hs _ _ ?_
  rw [gives_bind]
  refine needAligned_gives hs _ _ ?_
  have h1 : (if x.k.tag = 0 then s.freeTag else (x.k.tag, s)).2.Canon := by
    split
    · exact hs.of_mem (State.freeTag_mem s)
    · exact hs
  generalize (if x.k.tag = 0 then s.freeTag else (x.k.tag, s)) = r at h1 ⊢
  obtain ⟨tag, s1⟩ := r
  dsimp only at h1 ⊢
  rw [gives_bind]
  refine (spanWrite_gives h1 x _ _).mono fun s2 h2 => ?_
  refine State.Canon.serviceOn ?_ _ _
  exact h2

theorem State.Canon.endService (h : s.Canon) (kn : Nat) : (s.endService kn).Canon := by
  unfold State.endService
  refine foldl_canon _ (fun s e hs => ?_) _ ?_
  · exact hs
  · exact h

theorem State.Canon.endHandling (h : s.Canon) (u : Nat) (p : Path) (img : Stored) : (s.endHandling u p img).Canon := by
  unfold State.endHandling
  have h2 : (match p.entry with | some e => s.newId.2.freeArea e.home e.off | none => s.newId.2).Canon := by
    split
    · exact State.Canon.freeArea (s := s.newId.2) h _ _
    · exact h
  dsimp only
  split
  · rw [State.Canon, State.resumeAll_mem]
    exact h2
  · exact h2

theorem State.Canon.ctxLoad (h : s.Canon) {kill : Bool} {d a : SReg} {fe : Bool} (e : Machine.ctxLoad kill d a fe s = .next t) : t.Canon := by
  refine h.knotOp (fun s x hs => ?_) e
  rw [gives_bind]
  refine checkSources_gives hs _ _ ?_
  refine destUnless_gives hs _ _ ?_
  extract_lets v done
  have hdone : ∀ (s1 : State) n, s1.Canon → Gives State.Canon (done s1 n) := fun _ _ h1 => h1
  clear_value done
  split
  · refine hdone _ _ ?_
    split
    · exact hs.killKnot _
    · exact hs.endService _
  · split
    · refine hdone _ _ ?_
      split
      · exact hs.killKnot _
      · exact hs.endHandling _ _ _
    · exact hdone _ _ hs

end Sys2Proof.Machine
end

section
/-! PROOF. The canonical form of memory is kept by pad accesses, copies, host accesses, detected errors, and the task instructions. -/
namespace Sys2Proof.Machine
variable {s t : State}

/-! The pad (R208 to R210). -/

theorem needBound_gives (h : s.Canon) (x : Here) (n : Nat) (rs : List (Nat × DWord × List Byte)) {P : Unit → Prop} (hp : P ()) :
    Gives P (needBound s x n rs) := by
  induction rs with
  | nil => exact hp
  | cons r rs ih =>
    simp only [needBound]
    split
    · exact ih
    · exact h

theorem needFlat_gives (h : s.Canon) (x : Here) (rs : List (Nat × DWord × List Byte)) {P : Unit → Prop} (hp : P ()) :
    Gives P (needFlat s x rs) := by
  induction rs with
  | nil => exact hp
  | cons r rs ih =>
    simp only [needFlat]
    split
    · exact h
    · exact ih

theorem State.Canon.padOp (h : s.Canon) {g : Guard} {reads : Here → List (RegName × Bool)} {dest : Here → Dest} {n : Nat} {flat : Bool}
    {reqs : Here → List (Nat × DWord × List Byte)} {act : State → Here → List LaneAcc → State}
    (ha : ∀ s x ls, s.Canon → (act s x ls).Canon) (e : Machine.padOp g reads dest n flat reqs act s = .next t) : t.Canon := by
  refine h.knotOp (fun s x hs => ?_) e
  rw [gives_bind]
  refine checkSources_gives hs _ _ ?_
  extract_lets rs ls rest
  have hrest : ∀ y, Gives State.Canon (rest y) := by
    intro y
    dsimp only [rest]
    split
    · exact hs
    · rw [gives_bind]
      exact checkDests_gives hs _ _ (ha _ _ _ hs)
  clear_value rest ls
  rw [gives_bind]
  refine needAligned_gives hs _ _ ?_
  rw [gives_bind]
  refine needBound_gives hs _ _ _ ?_
  split
  · rw [gives_bind]
    exact needFlat_gives hs _ _ (hrest _)
  · exact hrest _

theorem State.Canon.padRead (h : s.Canon) (op : MemOp) (dest : Here → Dest) (x : Here) (ls : List LaneAcc) :
    (Machine.padRead op dest s x ls).Canon := h.performOr _ _

theorem State.Canon.pld (h : s.Canon) {g : Guard} {d a : VReg} {b : SReg} {fe : Bool} {z : MemSize} {o : BitVec 3}
    (e : execPld g d a b fe z o s = .next t) : t.Canon :=
  h.padOp (fun _ _ _ hs => hs.padRead _ _ _ _) e

theorem State.Canon.pst (h : s.Canon) {g : Guard} {x a : VReg} {b : SReg} {fe : Bool} {z : MemSize} {o : BitVec 3}
    (e : execPst g x a b fe z o s = .next t) : t.Canon := by
  refine h.padOp (fun s x ls hs => ?_) e
  split <;> exact hs

theorem State.Canon.patm (h : s.Canon) {g : Guard} {d a : VReg} {b : SReg} {fe : Bool} {o : AtomOp} {y : PatmType}
    (e : execPatm g d a b fe o y s = .next t) : t.Canon :=
  h.padOp (fun _ _ _ hs => hs.padRead _ _ _ _) e

/-! Copies (R240 to R245). -/

theorem State.Canon.copy (h : s.Canon) {x : Handle} {g d : GReg} (e : execCopy x g d s = .next t) : t.Canon := by
  refine h.moverOp (fun m => ?_) e
  extract_lets ds aligned legal
  split
  · trivial
  · exact h

theorem State.Canon.copy2d (h : s.Canon) {x : Handle} {g d : GReg} (e : execCopy2d x g d s = .next t) : t.Canon := by
  refine h.moverOp (fun m => ?_) e
  extract_lets ds aligned legal
  split
  · trivial
  · exact h

theorem State.Canon.indexWord (h : s.Canon) {m : MHere} {ipad : Bool} {a : DWord} {r : Word × State} (e : s.indexWord m ipad a = .ok r) :
    r.2.Canon := by
  unfold State.indexWord at e
  split at e
  · split at e
    · cases e
    · split at e
      · cases e
      · cases e; exact h
  · split at e
    · cases e
    · dsimp only at e
      split at e
      · cases e
      · split at e
        · cases e
        · split at e
          · cases e
          · split at e
            · cases e
            · cases e; exact (h.walked _).recall _ _ _

theorem State.Canon.readIndexes (m : MHere) (ipad : Bool) (base : DWord) (js : List Nat) :
    ∀ {s : State} {got : List (Nat × Word)} {r : List (Nat × Word) × State}, s.Canon → s.readIndexes m ipad base js got = .ok r → r.2.Canon := by
  induction js with
  | nil => intro s got r h e; cases e; exact h
  | cons j js ih =>
    intro s got r h e
    simp only [State.readIndexes] at e
    split at e
    · cases e
    · next hw => exact ih (h.indexWord hw) e

theorem State.Canon.indexed (h : s.Canon) {x : Handle} {g d : GReg} {ordered : Bool} {sectors : Desc → List Nat → List (DWord × DWord)}
    (e : Machine.indexed x g d ordered sectors s = .next t) : t.Canon := by
  refine h.moverOp (fun m => ?_) e
  extract_lets ds before aligned legal todo
  split
  · trivial
  · have h1 : (s.pick 0).2.Canon := h.of_mem (State.pick_snd_mem 0)
    generalize s.pick 0 = r at h1 ⊢
    obtain ⟨r, s1⟩ := r
    dsimp -zeta only at h1 ⊢
    extract_lets now
    clear_value now
    split
    · exact h
    · exact h1
    · next hr =>
      have h2 := State.Canon.readIndexes _ _ _ _ h1 hr
      split <;> exact h2

theorem State.Canon.sectorRead (h : s.Canon) {m : MHere} {x : Sector} {r : List Byte × State} (e : s.sectorRead m x = .ok r) : r.2.Canon := by
  unfold State.sectorRead at e
  split at e
  · split at e
    · cases e
    · split at e
      · cases e
      · cases e; exact h
  · split at e
    · cases e
    · dsimp only at e
      split at e
      · cases e
      · cases e; exact h.recall _ _ _

theorem State.Canon.sectorWrite (h : s.Canon) {m : MHere} {x : Sector} {bs : List Byte} (e : s.sectorWrite m x bs = .ok t) : t.Canon := by
  unfold State.sectorWrite at e
  split at e
  · split at e
    · cases e
    · cases e; exact h
  · split at e
    · cases e
    · cases e; exact h.writeMem _ _ _

theorem State.Canon.finishSector (h : s.Canon) (m : MHere) (c : Copy) (x : Sector) (bs : List Byte) : (s.finishSector m c x bs).Canon := by
  unfold State.finishSector
  extract_lets r drop
  have hdrop : ∀ s, s.Canon → (drop s).Canon := fun _ hs => hs
  clear_value drop
  split
  · exact hdrop _ h
  · exact hdrop _ h
  · split
    · exact h
    · next hw => exact hdrop _ (h.sectorWrite hw)

theorem State.Canon.copySector (h : s.Canon) {crew copy sector : Nat} (e : execCopySector crew copy sector s = .next t) : t.Canon := by
  cases e
  split
  · exact h
  · split
    · exact h
    · split
      · exact h
      · next x _ =>
        obtain ⟨pad, a⟩ := x.next
        dsimp -zeta only
        extract_lets reads s1
        have h1 : s1.Canon := h.walked _
        clear_value s1
        split
        · exact h
        · split
          · split
            · exact h1
            · exact (h1.finishSector _ _ _ _).bump
          · split
            · exact h1
            · next hr => exact State.Canon.bump (h1.sectorRead hr)

theorem State.Canon.stopMover (h : s.Canon) (c : Nat) : (s.stopMover c).Canon := by
  unfold State.stopMover
  split
  · exact h
  · split
    · exact h
    · split <;> exact h

theorem State.Canon.movementFault (h : s.Canon) {crew : Nat} (e : execMovementFault crew s = .next t) : t.Canon := by
  cases e
  extract_lets s1 done
  have h1 : s1.Canon := by
    dsimp only [s1]
    split
    · exact h.stopMover _
    · exact h
  have hdone : ∀ s, s.Canon → (done s).Canon := fun _ hs => hs
  clear_value s1 done
  split
  · exact h1
  · split
    · exact h1
    · split
      · exact h1
      · split
        · exact hdone _ h1
        · split
          · exact h1
          · split
            · next ht =>
              split
              · rw [State.Canon, State.bump_mem, State.modPath_mem]
                exact (hdone _ (h1.takeArea ht)).zoneWrite _ _ _
              · exact h1
            · exact h1

/-! The host, detected errors, the governor and the configuration space (R325, R327, R332, R333). -/

theorem MemSt.wf_lines {m : MemSt} (h : m.wf = true) {ls : Sparse (List Byte)} (hl : spRising none ls = true) :
    ({ m with lines := ls } : MemSt).wf = true := by
  obtain ⟨hb, hz, hk, ha, -, hr⟩ := MemSt.wf_iff.mp h
  exact MemSt.wf_iff.mpr ⟨hb, hz, hk, ha, hl, hr⟩

theorem MemSt.wf_rising_lines {m : MemSt} (h : m.wf = true) : spRising none m.lines = true := by
  obtain ⟨-, -, -, -, hl, -⟩ := MemSt.wf_iff.mp h
  exact hl

theorem State.Canon.hostWriteBack (h : s.Canon) (line : Nat) : (s.hostWriteBack line).Canon := by
  unfold State.hostWriteBack
  split
  · exact h
  · refine State.Canon.writeRaw ?_ _ _
    exact MemSt.wf_lines h (spRising_spDrop _ (MemSt.wf_rising_lines h))

theorem State.Canon.hostDo (h : s.Canon) (op : HostOp) : (s.hostDo op).Canon := by
  cases op with
  | read pa len => exact h
  | write pa bytes => exact h.writeRaw _ _
  | takeShared pa => exact h
  | takeModified pa bytes => exact MemSt.wf_lines h (spRising_spPut _ _ (MemSt.wf_rising_lines h) (by simp))
  | writeBack pa => exact h.hostWriteBack _

theorem State.Canon.hostAccess (h : s.Canon) {op : HostOp} (e : execHostAccess op s = .next t) : t.Canon := by
  cases e
  dsimp only
  split
  · exact h
  · split
    · exact h
    · exact (h.hostDo _).bump

theorem State.Canon.withdraw (h : s.Canon) (home core : Nat) : (s.withdraw home core).Canon := by
  unfold State.withdraw
  split
  · exact h
  · extract_lets s1
    have h1 : s1.Canon := h
    clear_value s1
    split
    · exact h1
    · have h2 : ((s1.strandedOn home).foldl (fun (s : State) e => (s.switchOut home e.1 e.2).getD s) s1).Canon := by
        refine foldl_canon _ (fun s e hs => ?_) _ h1
        cases hsw : s.switchOut home e.1 e.2 with
        | none => exact hs
        | some s2 => exact hs.switchOut hsw
      refine foldl_canon _ (fun s e hs => ?_) _ h2
      split
      · cases hst : s.storeCrew e.1 e.2 with
        | none => exact hs
        | some s2 => exact hs.storeCrew hst
      · exact hs

theorem State.Canon.crewError (h : s.Canon) (c : Nat) (f : Crew → Crew) : (s.crewError c f).Canon := by
  unfold State.crewError
  split
  · exact h
  · dsimp only
    split
    · refine State.Canon.withdraw ?_ _ _
      exact h
    · exact h

theorem State.Canon.detect (h : s.Canon) (err : EccError) : (s.detect err).Canon := by
  unfold State.detect
  split
  · exact h
  · split <;> exact h
  · exact h.crewError _ _
  · exact h.crewError _ _
  · split
    · exact h
    · split
      · refine State.Canon.withdraw ?_ _ _
        exact h
      · refine State.Canon.withdraw ?_ _ _
        exact h
      · exact h
  · split
    · dsimp only
      split
      · refine State.Canon.withdraw ?_ _ _
        exact h
      · exact h
    · exact h
  · exact h

theorem State.Canon.eccError (h : s.Canon) {err : EccError} (e : execEccError err s = .next t) : t.Canon := by
  cases e
  split
  · exact h
  · exact h
  · exact (h.detect _).bump

theorem State.Canon.governorStep (h : s.Canon) {module : Nat} {up : Bool} (e : execGovernorStep module up s = .next t) : t.Canon := by
  cases e
  dsimp only
  split
  · exact h
  · split
    · split <;> exact h
    · split <;> exact h

theorem State.Canon.configWrite (h : s.Canon) {module header : Nat} (e : execLarzonConfigurationSpaceWrite module header s = .next t) :
    t.Canon := by
  cases e
  split <;> exact h

/-! Tasks, queues, broods and chains (R261 to R280). -/

@[simp] theorem State.sendRecords_mem (x : Here) (node : Nat) (rs : List (List Word)) : ∀ s : State, (s.sendRecords x node rs).mem = s.mem := by
  induction rs with
  | nil => intro s; rfl
  | cons r rs ih => intro s; exact ih _

theorem State.Canon.emit (h : s.Canon) {g : Guard} {d : VReg} {a : SReg} {fe : Bool} (e : execEmit g d a fe s = .next t) : t.Canon := by
  refine h.knotOp (fun s x hs => ?_) e
  rw [gives_bind]
  refine checkSources_gives hs _ _ ?_
  split
  · exact hs
  · dsimp only
    split
    · exact hs
    · rw [gives_bind]
      refine checkSources_gives hs _ _ ?_
      rw [gives_ok, State.Canon, State.retire_mem, State.sendRecords_mem]
      exact hs

theorem State.Canon.depdec (h : s.Canon) {g : Bool} {a : SReg} {fe : Bool} (e : execDepdec g a fe s = .next t) : t.Canon := by
  refine h.knotOp (fun s x hs => ?_) e
  rw [gives_bind]
  refine checkSources_gives hs _ _ ?_
  dsimp only
  split
  · rw [gives_bind]
    exact (sendPost_gives hs _ _ _ _).mono fun s1 h1 => h1
  · exact hs

theorem needPlace_gives (h : s.Canon) (x : Here) (va : DWord) (host : TrapCode) : Gives (fun r => r.2.Canon) (needPlace s x va host) := by
  unfold needPlace
  rw [gives_bind]
  refine walkAll_gives h _ _ fun s1 h1 => ?_
  split
  · exact h1
  · split
    · exact h1
    · split <;> exact h1

theorem needHome_gives (h : s.Canon) (x : Here) (va : DWord) (host : TrapCode) : Gives (fun r => r.2.Canon) (needHome s x va host) := by
  unfold needHome
  rw [gives_bind]
  refine (needPlace_gives h x va host).mono fun r hr => ?_
  dsimp only
  split <;> exact hr

theorem backing_canonical (x : Here) (home n : Nat) : (backing x home n).Canonical := by
  intro s a r h e
  unfold backing at e
  split at e
  · cases e
  · next s1 hw =>
    have hg := walkAll_gives (P := State.Canon) h x [a] fun _ ht => ht
    rw [hw] at hg
    split at e
    · cases e; exact hg
    · cases e; exact hg

theorem State.Canon.qpush (h : s.Canon) {g : Guard} {p : PReg} {a : VReg} {b : SReg} {fe f : Bool}
    (e : execQpush g p a b fe f s = .next t) : t.Canon := by
  refine h.knotOp (fun s x hs => ?_) e
  rw [gives_bind]
  refine checkSources_gives hs _ _ ?_
  extract_lets ref eff
  split
  · exact hs
  · next n _ =>
    split
    · exact hs
    · rw [gives_bind]
      refine checkSources_gives hs _ _ ?_
      rw [gives_bind]
      refine (needHome_gives hs x _ _).mono fun r hr => ?_
      obtain ⟨tg, s1⟩ := r
      dsimp -zeta only at hr ⊢
      rw [gives_bind]
      refine fence_gives hr _ ?_
      extract_lets es s2 d s3
      have h2 : s2.Canon := by
        dsimp only [s2]
        split
        · exact hr
        · exact hr.recall _ _ _
      have h3 : s3.Canon := by
        dsimp only [s3]
        split
        · exact h2
        · exact h2.queueErr _ _
      clear_value s2 s3
      rw [gives_bind]
      refine awaitDests_gives hr _ _ _ ?_
      split
      · rw [gives_ok, State.Canon, State.retire_mem, State.writePred_mem]
        exact h3
      · split
        · exact h2
        · next he =>
          rw [gives_ok, State.Canon, State.retire_mem, State.writePred_mem]
          split at he
          · cases he; exact h2
          · exact State.Canon.pushAll (backing_canonical _ _ _) _ (h2.prepQueue _ _ _ _) he

theorem State.Canon.bfork (h : s.Canon) {g : Bool} {d : SReg} (e : execBfork g d s = .next t) : t.Canon := by
  refine h.knotOp (fun s x hs => ?_) e
  refine destUnless_gives hs _ _ ?_
  split
  · exact hs
  · split
    · exact hs
    · rw [gives_ok, State.Canon, State.retire_mem, State.writeScal_mem, State.newBrood_mem]
      exact hs

theorem State.Canon.bforkStamp (h : s.Canon) {g : Bool} {a : SReg} {fe : Bool} (e : execBforkStamp g a fe s = .next t) : t.Canon := by
  refine h.knotOp (fun s x hs => ?_) e
  rw [gives_bind]
  refine checkSources_gives hs _ _ ?_
  dsimp only
  split <;> exact hs

theorem State.Canon.bcancel (h : s.Canon) {g : Bool} {a : SReg} {fe : Bool} (e : execBcancel g a fe s = .next t) : t.Canon := by
  refine h.knotOp (fun s x hs => ?_) e
  split
  · split
    · split <;> exact hs
    · exact hs
  · rw [gives_bind]
    refine checkSources_gives hs _ _ ?_
    dsimp only
    split
    · exact hs
    · split
      · exact hs
      · rw [gives_ok, State.Canon, State.pruneCancels_mem]
        refine State.Canon.cancelTree ?_ _
        exact hs

theorem needChain_gives (h : s.Canon) (x : Here) (ref : DWord) : Gives (fun r => r.2.Canon) (needChain s x ref) := by
  unfold needChain
  rw [gives_bind]
  refine needThat_gives h _ _ ?_
  rw [gives_bind]
  refine (needPlace_gives h x _ _).mono fun r hr => ?_
  have h1 : (r.2.chainPull r.1.key r.1.pa).Canon := State.Canon.chainPull hr _ _
  dsimp only
  rw [gives_bind]
  exact needThat_gives h1 _ _ h1

theorem needPool_gives (h : s.Canon) (x : Here) : Gives (fun r => r.2.Canon) (needPool s x) := by
  unfold needPool
  split
  · exact h
  · exact h.walked _

theorem callHome_gives (h : s.Canon) (x : Here) (a : Access) : Gives State.Canon (callHome s x a) := by
  unfold callHome
  split
  · exact h
  · next hp =>
    split
    · rw [gives_ok, State.Canon, State.retire_mem, State.postpone_mem]
      exact h
    · rw [gives_ok, State.Canon, State.retire_mem, State.answer_mem]
      exact h.homeOp hp

theorem State.Canon.chfork (h : s.Canon) {g : Bool} {d a : SReg} {fe : Bool} (e : execChfork g d a fe s = .next t) : t.Canon := by
  refine h.knotOp (fun s x hs => ?_) e
  rw [gives_bind]
  refine checkSources_gives hs _ _ ?_
  refine destUnless_gives hs _ _ ?_
  dsimp only
  split
  · rw [gives_bind]
    exact (needPool_gives hs x).mono fun r hr => callHome_gives hr _ _
  · rw [gives_bind]
    exact (needChain_gives hs x _).mono fun r hr => callHome_gives hr _ _

theorem State.Canon.chrel (h : s.Canon) {g : Bool} {a : SReg} {fe : Bool} (e : execChrel g a fe s = .next t) : t.Canon := by
  refine h.knotOp (fun s x hs => ?_) e
  rw [gives_bind]
  refine checkSources_gives hs _ _ ?_
  rw [gives_bind]
  exact (needChain_gives hs x _).mono fun r hr => callHome_gives hr _ _

@[simp] theorem State.launchBatch_mem (s : State) (l n : Nat) (b : DWord) : (s.launchBatch l n b).mem = s.mem := by
  unfold State.launchBatch
  split
  · rfl
  · split
    · rfl
    · split <;> rfl

theorem State.Canon.clutchRecordArrival (h : s.Canon) {record : Nat} (e : execClutchRecordArrival record s = .next t) : t.Canon := by
  cases e
  split
  · exact h
  · split
    · exact h
    · extract_lets home s1 s2 due
      have h2 : s2.Canon := h
      clear_value home due
      split
      · exact h
      · split
        · exact h
        · rw [State.Canon, State.bump_mem]
          split
          · rw [State.launchBatch_mem]
            exact h2
          · exact h2

theorem State.Canon.clutchTimer (h : s.Canon) {launch node brood : Nat} (e : execClutchTimer launch node brood s = .next t) : t.Canon := by
  cases e
  split
  · exact h
  · split
    · exact h
    · dsimp only
      split
      · rw [State.Canon, State.bump_mem, State.launchBatch_mem]
        exact h
      · exact h

end Sys2Proof.Machine
end

section
/-! PROOF. The canonical form of memory is kept by the commands of the management core, pre-emption and reset, and by binding. -/
namespace Sys2Proof.Machine
variable {s t : State} {ε α β : Type}

theorem State.Canon.finish (h : s.Canon) (c : Command) (status : Nat) : (s.finish c status).Canon :=
  State.Canon.bump ((h.writeRaw _ _).writeRaw _ _)

theorem State.Canon.pullRing (h : s.Canon) (m : Nat) : (s.pullRing m).Canon := by
  unfold State.pullRing
  split
  · exact h
  · exact (h.pull _ _).pull _ _

theorem State.Canon.nextCommand (h : s.Canon) {m : Nat} {r : Command × State} (e : s.nextCommand m = some r) : r.2.Canon := by
  obtain ⟨c, -, rfl⟩ := Option.map_eq_some_iff.mp e
  exact h.pullRing m

/-- A command keeps memory canonical when what it does keeps it so. -/
theorem State.Canon.command (h : s.Canon) {op module : Nat} {f : State → Command → State} (hf : ∀ s c, s.Canon → (f s c).Canon)
    (e : Machine.command op module s f = .next t) : t.Canon := by
  cases e
  split
  · exact h
  · next hc =>
    have h1 := h.nextCommand hc
    split
    · exact hf _ _ h1
    · exact h

theorem State.Canon.qreg (h : s.Canon) {module : Nat} (e : execQreg module s = .next t) : t.Canon := by
  refine h.command (fun s c hs => ?_) e
  have h1 := hs.pull (fieldAt c.bytes 16 8) 64
  dsimp only
  split
  · exact h1.finish _ _
  · refine State.Canon.finish ?_ _ _
    exact h1

theorem State.Canon.shoot (h : s.Canon) {module : Nat} (e : execShoot module s = .next t) : t.Canon := by
  refine h.command (fun s c hs => ?_) e
  extract_lets keep s1 busy
  have h1 : s1.Canon := hs
  split
  · split
    · exact hs
    · exact h1
  · exact h1.finish _ _

theorem State.Canon.keyload (h : s.Canon) {module : Nat} (e : execKeyload module s = .next t) : t.Canon := by
  refine h.command (fun s c hs => ?_) e
  have h1 := hs.pull (c.arg 1) Config.keyRecordBytes
  dsimp only
  split
  · split
    · exact h1.finish _ _
    · refine State.Canon.finish ?_ _ _
      exact h1
  · exact h1.finish _ _

theorem State.Canon.circuit (h : s.Canon) {module : Nat} (e : execCircuit module s = .next t) : t.Canon := by
  refine h.command (fun s c hs => ?_) e
  have hend : ∀ {s1 : State} (status : Nat), s1.Canon → (s1.finish c status).Canon := fun _ h1 => h1.finish _ _
  extract_lets idx en s1
  have h1 : s1.Canon := hs
  clear_value s1
  generalize circuitEnds en = ends
  obtain ⟨a, b⟩ := ends
  dsimp -zeta only
  split
  · exact hend _ hs
  · split
    · exact hend _ h1
    · split
      · exact hend _ h1
      · split
        · exact hend _ h1
        · exact hend _ h1

theorem State.Canon.pool (h : s.Canon) {module : Nat} (e : execPool module s = .next t) : t.Canon := by
  refine h.command (fun s c hs => ?_) e
  dsimp only
  split
  · exact hs.finish _ _
  · refine State.Canon.finish ?_ _ _
    exact foldl_canon _ (fun s i hs => hs.of_mem (State.givePage_mem ..)) _ hs

theorem State.Canon.preempt (h : s.Canon) {module : Nat} (e : execPreempt module s = .next t) : t.Canon := by
  refine h.command (fun s c hs => ?_) e
  split
  · exact hs
  · exact hs
  · exact hs.finish _ _

theorem State.Canon.storePath (h : s.Canon) (m u : Nat) : (s.storePath m u).Canon := by
  unfold State.storePath
  have hseat : ∀ kn, ((s.seatOut u kn).getD s).Canon := by
    intro kn
    cases e : s.seatOut u kn with
    | none => exact h
    | some s1 => exact h.seatOut e
  split
  · exact h
  · split
    · exact h
    · split
      · exact hseat _
      · exact hseat _
      · exact h

theorem State.Canon.storeCrewOf (h : s.Canon) (m c : Nat) : (s.storeCrewOf m c).Canon := by
  unfold State.storeCrewOf
  split
  · exact h
  · next w _ =>
    split
    · split
      · cases e : s.storeCrew c w with
        | none => exact h
        | some s1 => exact h.storeCrew e
      · exact h
    · exact h

theorem State.Canon.preemptionComplete (h : s.Canon) {module : Nat} (e : execPreemptionComplete module s = .next t) : t.Canon := by
  cases e
  split
  · exact h
  · extract_lets s1 s2 s3
    have h1 : s1.Canon := foldl_canon _ (fun s u hs => hs.storePath module u) _ h
    have h2 : s2.Canon := foldl_canon _ (fun s c hs => hs.storeCrewOf module c) _ h1
    have h3 : s3.Canon := h2
    clear_value s3
    split
    · exact h3
    · next hc =>
      split
      · exact State.Canon.finish (h3.nextCommand hc) _ _
      · exact h3

theorem State.Canon.resume (h : s.Canon) {module : Nat} (e : execResume module s = .next t) : t.Canon := by
  refine h.command (fun s c hs => ?_) e
  refine State.Canon.finish ?_ _ _
  exact hs

theorem State.Canon.haltstk (h : s.Canon) {module : Nat} (e : execHaltstk module s = .next t) : t.Canon := by
  refine h.command (fun s c hs => ?_) e
  extract_lets home s1
  have h1 : s1.Canon := hs
  clear_value s1
  split
  · exact hs.finish _ _
  · split
    · exact h1.finish _ _
    · split
      · exact hs
      · exact h1

theorem State.Canon.runstk (h : s.Canon) {module : Nat} (e : execRunstk module s = .next t) : t.Canon := by
  refine h.command (fun s c hs => ?_) e
  split
  · exact hs.finish _ _
  · refine State.Canon.finish ?_ _ _
    exact hs

theorem State.Canon.attest (h : s.Canon) {module : Nat} (e : execAttest module s = .next t) : t.Canon := by
  refine h.command (fun s c hs => ?_) e
  have h1 := hs.pull (c.arg 0) 64
  dsimp only
  split
  · exact State.Canon.finish (h1.writeRaw _ _) _ _
  · exact h1.finish _ _

theorem State.Canon.devhashReport (h : s.Canon) {module : Nat} (e : execDevhashReport module s = .next t) : t.Canon := by
  refine h.command (fun s c hs => ?_) e
  split
  · exact State.Canon.finish (hs.writeRaw _ _) _ _
  · exact hs.finish _ _

theorem State.Canon.wlist (h : s.Canon) {module : Nat} (e : execWlist module s = .next t) : t.Canon := by
  refine h.command (fun s c hs => ?_) e
  split
  · exact State.Canon.finish (hs.writeRaw _ _) _ _
  · exact hs.finish _ _

theorem State.Canon.signkey (h : s.Canon) {module : Nat} (e : execSignkey module s = .next t) : t.Canon := by
  refine h.command (fun s c hs => ?_) e
  have h1 := hs.pull (c.arg 1) Config.signKeyBytes
  dsimp only
  split
  · exact h1.finish _ _
  · split
    · exact h1.finish _ _
    · refine State.Canon.finish ?_ _ _
      exact h1

theorem State.Canon.unlistedCommand (h : s.Canon) {module : Nat} (e : execUnlistedCommand module s = .next t) : t.Canon := by
  cases e
  split
  · exact h
  · next hc =>
    split
    · exact h
    · exact State.Canon.finish (h.nextCommand hc) _ _

theorem State.Canon.stopModule (h : s.Canon) (m : Nat) : (s.stopModule m).Canon :=
  foldl_canon (fun s (e : Nat × Path) => s.freePath e.2) (fun _ _ hs => hs.freePath _) _ h

theorem State.Canon.resetModule (h : s.Canon) {module : Nat} {stages : List (List Byte × List Byte)}
    (e : execResetModule module stages s = .next t) : t.Canon := by
  cases e
  split
  · exact h
  · extract_lets s1 s2 s3
    have h1 : s1.Canon := h.stopModule module
    have hr : spRising none s1.mem.areas = true := by
      obtain ⟨-, -, -, ha, -, -⟩ := MemSt.wf_iff.mp h1
      exact ha
    have h3 : s3.Canon := MemSt.wf_areas h1 (spRising_filter _ hr)
    clear_value s3
    split <;> exact h3

/-! Binding (R308 to R317). -/

/-- What an answer that may be an error gives when it is none. -/
def OkGives (P : α → Prop) (r : Except ε α) : Prop := ∀ x, r = .ok x → P x

@[simp] theorem okGives_ok {P : α → Prop} {x : α} : OkGives P (.ok x : Except ε α) ↔ P x :=
  ⟨fun h => h x rfl, fun h y e => by cases e; exact h⟩

@[simp] theorem okGives_error {P : α → Prop} {e : ε} : OkGives P (.error e : Except ε α) ↔ True :=
  ⟨fun _ => trivial, fun _ y h => by cases h⟩

@[simp] theorem okGives_bind {P : β → Prop} {r : Except ε α} {f : α → Except ε β} :
    OkGives P (r >>= f) ↔ OkGives (fun x => OkGives P (f x)) r := by
  cases r with
  | error e => simp [bind, Except.bind]
  | ok x => simp [bind, Except.bind]

theorem okGives_any {P : α → Prop} {r : Except ε α} (h : ∀ x, P x) : OkGives P r := fun x _ => h x

theorem State.Canon.bindTouch (h : s.Canon) (r : BindReq) (va n : Nat) : (s.bindTouch r va n).Canon := by
  refine foldl_canon _ (fun s e hs => ?_) _ h
  extract_lets s1
  have h1 : s1.Canon := hs.walked _
  clear_value s1
  split
  · exact h1
  · exact h1.pull _ _

theorem State.Canon.bindWrite (r : BindReq) (ps : List (Nat × Nat)) : ∀ {s : State} (bs : List Byte), s.Canon → (s.bindWrite r ps bs).Canon := by
  induction ps with
  | nil => intro s bs h; exact h
  | cons p ps ih =>
    intro s bs h
    obtain ⟨va, n⟩ := p
    simp only [State.bindWrite]
    have h1 : (s.walked (s.leafReads launchUnit r.ptbase r.asid (BitVec.ofNat 64 va))).Canon := h.walked _
    generalize s.walked (s.leafReads launchUnit r.ptbase r.asid (BitVec.ofNat 64 va)) = s1 at h1
    refine ih _ ?_
    split
    · exact h1
    · exact h1.writeMem _ _ _

theorem State.Canon.bindPut (h : s.Canon) (r : BindReq) (va : Nat) (bs : List Byte) : (s.bindPut r va bs).Canon :=
  State.Canon.bindWrite r _ bs h

theorem State.Canon.bindPull (h : s.Canon) (r : BindReq) : (s.bindPull r).Canon := by
  unfold State.bindPull
  have h1 : (s.bindTouch r r.obj 1024).Canon := h.bindTouch _ _ _
  generalize s.bindTouch r r.obj 1024 = s1 at h1
  refine foldl_canon _ (fun s e hs => hs.walked _) _ ?_
  split
  · exact h1
  · exact h1.bindTouch _ _ _

theorem State.poolPage_mem (hs : List Nat) {r : Nat × State} (e : s.poolPage hs = some r) : r.2.mem = s.mem := by
  induction hs with
  | nil => cases e
  | cons x hs ih =>
    unfold State.poolPage at e
    split at e
    · next hp => cases e; exact State.takePage_mem hp
    · exact ih e

theorem State.backPage_mem (ms : List Nat) : ∀ {s : State} {r : List Nat × State}, s.backPage ms = some r → r.2.mem = s.mem := by
  induction ms with
  | nil => intro s r e; cases e; rfl
  | cons m ms ih =>
    intro s r e
    unfold State.backPage at e
    split at e
    · cases e
    · next hp =>
      obtain ⟨q, hq, rfl⟩ := Option.map_eq_some_iff.mp e
      exact (ih hq).trans (State.poolPage_mem _ hp)

theorem State.backPages_mem (gs : List Nat) : ∀ {s t : State}, s.backPages gs = some t → t.mem = s.mem := by
  induction gs with
  | nil => intro s t e; cases e; rfl
  | cons g gs ih =>
    intro s t e
    unfold State.backPages at e
    split at e
    · exact ih e
    · split at e
      · cases e
      · next hp => exact (ih e).trans (State.backPage_mem _ hp)

theorem State.Canon.heapWord (h : s.Canon) (addr : Nat) (w : Word) : (s.heapWord addr w).Canon := by
  refine foldl_canon _ (fun s p hs => hs.writeRaw _ _) _ ?_
  exact h

theorem State.Canon.heapWords (ws : List Word) : ∀ {s : State} (addr : Nat), s.Canon → (s.heapWords addr ws).Canon := by
  induction ws with
  | nil => intro s addr h; exact h
  | cons w ws ih => intro s addr h; exact ih _ (h.heapWord addr w)

theorem State.Canon.writeBlocks (h : s.Canon) (r : BindReq) (x : Image) : (s.writeBlocks r x).Canon :=
  foldl_canon _ (fun _ _ hs => hs.bindPut _ _ _) _ h

theorem foldl_fst_canon (f : State × β → α → State × β) (hf : ∀ r x, r.1.Canon → (f r x).1.Canon) (xs : List α) :
    ∀ {r : State × β}, r.1.Canon → (xs.foldl f r).1.Canon := by
  induction xs with
  | nil => intro r h; exact h
  | cons x xs ih => intro r h; exact ih (hf r x h)

theorem State.Canon.writeCode (h : s.Canon) (x : Image) (lo : Nat) (places : List (Nat × Nat)) : (s.writeCode x lo places).Canon := by
  refine foldl_fst_canon _ (fun r e hr => ?_) _ h
  exact State.Canon.heapWords _ _ (State.Canon.heapWords _ _ hr)

/-- The last step of a bind: the data area, the object and the GOT entries (R315). -/
theorem State.Canon.bound (h : s.Canon) (r : BindReq) (x : Image) :
    State.Canon (((s.writeBlocks r x).joinObject r.asid x).noteGots r.asid x) := h.writeBlocks r x

theorem State.bindWhole_gives (h : s.Canon) (r : BindReq) (o : Obj) : OkGives (fun y : State × Nat => y.1.Canon) (s.bindWhole r o) := by
  unfold State.bindWhole
  extract_lets atBase first span space b code area addrs
  rw [okGives_bind]
  refine okGives_any fun vals => ?_
  rw [okGives_bind]
  refine okGives_any fun addrs => ?_
  split
  · exact okGives_error.mpr trivial
  · split
    · exact okGives_error.mpr trivial
    · next hb =>
      have h1 := h.of_mem (State.backPages_mem _ hb)
      rw [okGives_bind]
      refine okGives_any fun x => ?_
      rw [okGives_ok]
      exact (h1.writeCode _ _ _).bound _ _

theorem State.Canon.writeStubs (r : BindReq) (x : Image) (fs : List (Nat × Sect)) :
    ∀ {s : State} (addr : Nat), s.Canon → (s.writeStubs r x addr fs).Canon := by
  induction fs with
  | nil => intro s addr h; exact h
  | cons f fs ih => intro s addr h; exact ih _ (h.heapWord addr stubWord)

theorem State.bindStubs_gives (h : s.Canon) (r : BindReq) (o : Obj) : OkGives (fun y : State × Nat => y.1.Canon) (s.bindStubs r o) := by
  unfold State.bindStubs
  extract_lets fns span space b code area
  rw [okGives_bind]
  refine okGives_any fun vals => ?_
  rw [okGives_bind]
  refine okGives_any fun addrs => ?_
  split
  · exact okGives_error.mpr trivial
  · split
    · exact okGives_error.mpr trivial
    · next hb =>
      have h1 := h.of_mem (State.backPages_mem _ hb)
      rw [okGives_bind]
      refine okGives_any fun x => ?_
      rw [okGives_ok]
      exact (State.Canon.writeStubs r x _ _ h1).bound _ _

theorem State.bindDo_gives (h : s.Canon) (m : Nat) (r : BindReq) : OkGives (fun y : State × Nat => y.1.Canon) (s.bindDo m r) := by
  unfold State.bindDo
  rw [okGives_bind]
  refine okGives_any fun o => ?_
  rw [okGives_bind]
  refine okGives_any fun _ => ?_
  split
  · exact State.bindStubs_gives h r o
  · exact State.bindWhole_gives h r o

theorem State.Canon.answerBind (h : s.Canon) (r : BindReq) (status base detail : Nat) : (s.answerBind r status base detail).Canon := by
  unfold State.answerBind
  refine State.Canon.writeRaw (State.Canon.writeRaw ?_ _ _) _ _
  split
  · exact h.writeRaw _ _
  · exact h

theorem State.Canon.failBind (h : s.Canon) (r : BindReq) (e : BindFail) : (s.failBind r e).Canon := by
  refine State.Canon.answerBind (State.Canon.bindPut ?_ _ _ _) _ _ _ _
  exact h

theorem State.Canon.bindObject (h : s.Canon) {module : Nat} (e : execBindObject module s = .next t) : t.Canon := by
  refine h.command (fun s c hs => ?_) e
  split
  · exact hs.finish _ _
  · extract_lets s1 r s2
    have h1 : s1.Canon := hs.pull _ _
    have h2 : s2.Canon := h1.bindPull r
    clear_value s1 s2 r
    split
    · exact hs
    · split
      · next hd => exact State.Canon.finish (State.Canon.answerBind (State.bindDo_gives h2 _ _ _ hd) _ _ _ _) _ _
      · exact (h2.failBind _ _).finish _ _

theorem State.placeLazy_gives (h : s.Canon) (z : Lazy) : OkGives State.Canon (s.placeLazy z) := by
  unfold State.placeLazy
  split
  · exact okGives_ok.mpr h
  · exact okGives_error.mpr trivial
  · split
    · exact okGives_error.mpr trivial
    · extract_lets mine
      split
      · exact okGives_error.mpr trivial
      · split
        · exact okGives_error.mpr trivial
        · next hb =>
          have h1 := h.of_mem (State.backPages_mem _ hb)
          extract_lets stubs code
          rw [okGives_bind]
          refine okGives_any fun vals => ?_
          rw [okGives_bind]
          refine okGives_any fun x => ?_
          rw [okGives_ok]
          exact h1.writeCode _ _ _

theorem State.Canon.retarget (h : s.Canon) (target : Int) (site : Nat) : (s.retarget target site).Canon := by
  unfold State.retarget
  dsimp only
  split
  · refine State.Canon.heapWord ?_ _ _
    exact h
  · exact h

theorem State.Canon.rewrite (h : s.Canon) (r : BindReq) (z : Lazy) (target : Nat) : (s.rewrite r z target).Canon :=
  foldl_canon _ (fun _ _ hs => hs.bindPut _ _ _) _ (foldl_canon _ (fun _ _ hs => hs.retarget _ _) _ h)

theorem State.Canon.lazyBind (h : s.Canon) {module : Nat} (e : execLazyBind module s = .next t) : t.Canon := by
  refine h.command (fun s c hs => ?_) e
  split
  · exact hs
  · extract_lets s1 r
    have h1 : s1.Canon := hs.pull _ _
    clear_value s1 r
    split
    · exact hs
    · split
      · exact (h1.answerBind _ _ _ _).finish _ _
      · split
        · exact (h1.answerBind _ _ _ _).finish _ _
        · next hp =>
          have h2 := State.placeLazy_gives h1 _ _ hp
          split
          · exact hs
          · exact State.Canon.finish (State.Canon.answerBind (State.Canon.rewrite h2 _ _ _) _ _ _ _) _ _

end Sys2Proof.Machine
end

section
/-! PROOF. Every instruction, event and command, and so every step, keeps memory canonical. -/
namespace Sys2Proof.Machine
variable {s t : State}

theorem State.Canon.ptab (h : s.Canon) {g : Bool} {d : SReg} {i : BitVec 3} (e : execPtab g d i s = .next t) : t.Canon := by
  refine h.onceScal (fun _ _ _ => ?_) e
  trivial

theorem State.Canon.ptabFail (h : s.Canon) {g : Bool} {d : SReg} {i : BitVec 3} (e : execPtabFail g d i s = .next t) : t.Canon := by
  refine h.onceScal (fun _ _ _ => ?_) e
  trivial

theorem State.Canon.resend (h : s.Canon) {post : Nat} (e : execFabricPacketResend post s = .next t) : t.Canon := by
  cases e
  exact h

/-- Every instruction word, fetch trap, event and command keeps memory canonical. -/
theorem State.Canon.exec (h : s.Canon) {i : Instr} (e : Machine.exec i s = .next t) : t.Canon := by
  cases i
  -- the register families
  case iadd | isub | imul | imulhI32 | imulhN32 | imad | iminI32 | iminN32 | imaxI32 | imaxN32 | iabs | andV | orV | xorV | andn | shl | shr
      | sar | popc | clz | brev | mov | lea | sel | iaddImm | imulImm | shlImm | shrImm | sarImm | bfe | bfi | movi | iadd64 | isub64
      | imulwI32 | imulwN32 | leaShift | icmp | fadd | fsub | fmul | ffma | frcp | frsq | fsqrt | fexp2 | flog2 | fsin | fcos | frint
      | hfma2 | hadd2 | hmul2 | fmin | fmax | fneg | fabs | fclass | fcmp | cvt | cvtn | cvtPart | bxq | bxd | pand | por | pxor | pnot
      | pset | pget | matchV | bcast | s2v | shfl => exact h.onLanes e fun _ _ => by simp
  case reduceAddI32 | reduceMinI32 | reduceMinN32 | reduceMaxI32 | reduceMaxN32 | reduceAnd | reduceOr | reduceXor | reduceMinF32
      | reduceMaxF32 | reduceAddF32Rz | reduceAddF32Hint | reduceAddF32 | reduceAddF32Rn =>
    simp only [Machine.exec, execReduceAddI32, execReduceMinI32, execReduceMinN32, execReduceMaxI32, execReduceMaxN32, execReduceAnd,
      execReduceOr, execReduceXor, execReduceMinF32, execReduceMaxF32, execReduceAddF32Rz, execReduceAddF32Hint, execReduceAddF32,
      execReduceAddF32Rn] at e
    exact h.reduceOp e
  case scanAddI32 | scanMinI32 | scanMaxI32 | scanAddF32Rn | scanAddF32Rz | scanAddF32Hint | scanAddF32 =>
    simp only [Machine.exec, execScanAddI32, execScanMinI32, execScanMaxI32, execScanAddF32Rn, execScanAddF32Rz, execScanAddF32Hint,
      execScanAddF32] at e
    exact h.scanOp e
  case voteAny | voteAll | voteCnt =>
    simp only [Machine.exec, execVoteAny, execVoteAll, execVoteCnt] at e
    exact h.voteOp e
  case sadd | ssub | smul | smulhI64 | smulhN64 | sand | sor | sxor | sshl | sshr | ssar | sminI64 | sminN64 | smaxI64 | smaxN64 | smov
      | scmp | ssel | saddi | slih | sshlImm | sshrImm | ssarImm => exact h.onScalars e (fun _ _ => rfl) fun _ _ => rfl
  case v2s => exact h.v2s e
  -- control, joins and ponds
  case pack => exact h.pack e
  case regroup => exact h.regroup e
  case bra => exact h.bra e
  case bru => exact h.bru e
  case brc => exact h.brc e
  case call => exact h.call e
  case loop => exact h.loop e
  case nop => exact h.nop e
  case join => exact h.join e
  case calli => exact h.calli e
  case ret => exact h.ret e
  case yield => exact h.yield e
  case endP => exact h.endP e
  case width => exact h.width e
  -- memory, posts, the pad and barriers
  case ld | st | lds | sts | atm | qpop | chapp => exact h.memPoint e
  case home => exact h.home e
  case ptab => exact h.ptab e
  case ptabFail => exact h.ptabFail e
  case fence => exact h.fence e
  case stp | atp | atpVadd =>
    simp only [Machine.exec, execStp, execAtp, execAtpVadd] at e
    exact h.postOp e
  case pld => exact h.pld e
  case pst => exact h.pst e
  case patm => exact h.patm e
  case pstep => exact h.pstep e
  case bar => exact h.bar e
  case bara => exact h.bara e
  case barw => exact h.barw e
  -- the matrix unit, handles and copies
  case tcfg => exact h.tcfg e
  case tld | tst => exact h.tileMove e
  case tzero => exact h.tzero e
  case wld => exact h.wld e
  case mma | mmas =>
    simp only [Machine.exec, execMma, execMmas] at e
    exact h.multiply e
  case mbatch => exact h.mbatch e
  case mwait => exact h.mwait e
  case accget => exact h.accget e
  case accput => exact h.accput e
  case acq => exact h.acq e
  case rel => exact h.rel e
  case accrd | accrd4 => exact h.accRead e
  case accwr | accwr4 => exact h.accWrite e
  case hwait => exact h.hwait e
  case hany => exact h.hany e
  case hall => exact h.hall e
  case hfirst => exact h.hfirst e
  case hclaim => exact h.hclaim e
  case hfree => exact h.hfree e
  case hsig => exact h.hsig e
  case copy => exact h.copy e
  case copy2d => exact h.copy2d e
  case gather | scatter => exact h.indexed e
  case mpwait => exact h.mpwait e
  case hset => exact h.hset e
  case hexp => exact h.hexp e
  case mpfence => exact h.mpfence e
  case mpend => exact h.mpend e
  -- tasks, queues, broods and chains
  case emit => exact h.emit e
  case depdec => exact h.depdec e
  case qpush => exact h.qpush e
  case bfork => exact h.bfork e
  case bforkStamp => exact h.bforkStamp e
  case bcancel => exact h.bcancel e
  case chfork => exact h.chfork e
  case chrel => exact h.chrel e
  -- special registers, traps, hints and fetch
  case srd => exact h.srd e
  case swr => exact h.swr e
  case srdVector => exact h.srdVector e
  case trap => exact h.trap e
  case rft => exact h.rft e
  case ifence => exact h.ifence e
  case bkpt => exact h.bkpt e
  case halt => exact h.halt e
  case pfix => exact h.pfix e
  case pfixDrop => exact h.pfixDrop e
  case ctxsv => exact h.ctxsv e
  case ctxld | ctxldKill => exact h.ctxLoad e
  case hintImm | hintRnd | hintSched | hintFmt => exact h.hintWord e
  case illegalEncoding => exact h.fetchTrap (p := fun _ => .illegal) (m := fun _ => .illegal) e
  case fetchBeyondExtent => exact h.fetchTrap (p := fun p => fetchCode p.ctx.wrapped) (m := fun m => fetchCode m.wrapped) e
  -- events
  case siblingHalt => exact h.siblingHalt e
  case registerFill => exact h.registerFill e
  case hopLanding => exact h.hopLanding e
  case parkedImageResume => exact h.parkedImageResume e
  case parkSwitchOut => exact h.parkSwitchOut e
  case crewSwitchOut => exact h.crewSwitchOut e
  case watchdogExpiry => exact h.watchdogExpiry e
  case regroupWindowExpiry => exact h.regroupWindowExpiry e
  case postPerform => exact h.postPerform e
  case postAcknowledgement => exact h.postAcknowledgement e
  case hostAccess => exact h.hostAccess e
  case copySector => exact h.copySector e
  case matrixOperation => exact h.matrixOperation e
  case accgetGrant => exact h.accgetGrant e
  case movementFault => exact h.movementFault e
  case engineRelease => exact h.engineRelease e
  case clutchRecordArrival => exact h.clutchRecordArrival e
  case clutchTimer => exact h.clutchTimer e
  case launchRecordTake => exact h.launchRecordTake e
  case knotPlacement => exact h.knotPlacement e
  case crewPlacement => exact h.crewPlacement e
  case stealMessage => exact h.stealMessage e
  case launchCompletion => exact h.launchCompletion e
  case eccError => exact h.eccError e
  case governorStep => exact h.governorStep e
  case larzonConfigurationSpaceWrite => exact h.configWrite e
  case fabricPacketResend post => exact h.resend (post := post) e
  -- the management core
  case preemptionComplete => exact h.preemptionComplete e
  case resetModule => exact h.resetModule e
  case qreg => exact h.qreg e
  case bindObject => exact h.bindObject e
  case lazyBind => exact h.lazyBind e
  case shoot => exact h.shoot e
  case keyload => exact h.keyload e
  case circuit => exact h.circuit e
  case pool => exact h.pool e
  case preempt => exact h.preempt e
  case resume => exact h.resume e
  case haltstk => exact h.haltstk e
  case runstk => exact h.runstk e
  case attest => exact h.attest e
  case devhashReport => exact h.devhashReport e
  case wlist => exact h.wlist e
  case signkey => exact h.signkey e
  case unlistedCommand => exact h.unlistedCommand e

/-! From instructions to steps (R52, R281; log 4). -/

theorem State.Canon.fetchWord (h : s.Canon) (m : Nat) (l : List (Nat × Word)) (pc : Pc) : (s.fetchWord m l pc).2.Canon := by
  obtain ⟨-, x, hx⟩ := s.fetchWord_cases m l pc
  rw [hx]
  exact h

theorem State.Canon.runFetched {r : Word × State} (h : r.2.Canon) (e : Machine.runFetched r = .next t) : t.Canon := by
  unfold Machine.runFetched at e
  split at e
  · exact h.exec e
  · exact h.exec e

theorem State.Canon.fetchRun (h : s.Canon) {x : Here} (e : s.fetchRun x = .next t) : t.Canon := by
  have h1 : State.Canon { s with cur := .path x.u } := h
  rw [State.fetchRun_eq] at e
  split at e
  · exact h1.exec e
  · exact State.Canon.runFetched (h1.fetchWord _ _ _) e

theorem State.Canon.deliverHeld (h : s.Canon) (x : Here) (tr : Trap) (rest : List Trap) : (s.deliverHeld x tr rest).Canon := by
  unfold State.deliverHeld
  extract_lets s1
  have h1 : s1.Canon := by
    refine State.Canon.deliver ?_ _ _
    exact h
  clear_value s1
  split
  · split
    · exact h
    · exact h1
  · exact h1

theorem State.Canon.resumeReplay (h : s.Canon) (x : Here) (todo : List FaultRec) : (s.resumeReplay x todo).Canon := by
  unfold State.resumeReplay
  have hr := State.replayOn_gives h x todo
  split
  · next e =>
    rw [e] at hr
    split <;> exact hr
  · next e =>
    rw [e] at hr
    exact hr
  · next e =>
    rw [e] at hr
    exact State.Canon.takeTrap hr _ _

theorem State.Canon.issue (h : s.Canon) {u : Nat} (e : s.issue u = .next t) : t.Canon := by
  unfold State.issue at e
  split at e
  · cases e; exact h
  · split at e
    · exact h.fetchRun e
    · split at e
      · cases e; exact h.deliverHeld _ _ _
      · cases e; exact h.landAccess _ _
      · split at e
        · exact h.fetchRun e
        · cases e; exact h.resumeReplay _ _
      · split at e
        · exact h.exec e
        · exact h.fetchRun e
      · exact h.fetchRun e

theorem State.Canon.moveIssue (h : s.Canon) {c : Nat} (e : s.moveIssue c = .next t) : t.Canon := by
  have h1 : State.Canon { s with cur := .mover c } := h
  unfold State.moveIssue at e
  split at e
  · cases e; exact h
  · dsimp only at e
    split at e
    · exact h.exec e
    · split at e
      · exact h1.exec e
      · exact State.Canon.runFetched (h1.fetchWord _ _ _) e

theorem State.Canon.tick (h : s.Canon) (home n : Nat) : (s.tick home n).Canon := by
  unfold State.tick
  split <;> exact h

theorem State.Canon.tlbFill (h : s.Canon) (unit ptbase asid page : Nat) : (s.tlbFill unit ptbase asid page).Canon := by
  unfold State.tlbFill
  extract_lets table reads
  have h1 : (s.walked reads).Canon := h.walked _
  split
  · exact h
  · split
    · exact h1
    · exact h1

theorem State.Canon.turn (h : s.Canon) {u : Turn} (e : s.turn u = .next t) : t.Canon := by
  unfold State.turn at e
  cases u with
  | issue home core part late =>
    dsimp only at e
    split at e
    · exact State.Canon.issue (s := { s with late := late }) h e
    · cases e; exact h
  | move c =>
    dsimp only at e
    split at e
    · exact h.moveIssue e
    · cases e; exact h
  | tileWord c i => cases e; exact h.tileWord c i
  | event i =>
    dsimp only at e
    split at e
    · exact h.exec e
    · cases e; exact h
  | tick home n => cases e; exact h.tick home n
  | tlbFill unit ptbase asid page => cases e; exact h.tlbFill unit ptbase asid page
  | tlbDrop unit => cases e; exact h

/-- An event that some constructor of an instruction names. -/
def IsExec (f : State → Out) : Prop := ∃ i, f = Machine.exec i

theorem pathEvents_isExec (u : Nat) (p : Path) : ∀ f ∈ pathEvents u p, IsExec f := by
  simp only [pathEvents, List.forall_mem_append, List.forall_mem_map]
  refine ⟨⟨⟨?_, fun f _ => ⟨.registerFill u f.id, rfl⟩⟩, ?_⟩, ?_⟩
  · split
    · exact List.forall_mem_singleton.mpr ⟨.siblingHalt u, rfl⟩
    · exact List.forall_mem_nil _
  · split
    · exact List.forall_mem_singleton.mpr ⟨.hopLanding u 0, rfl⟩
    · exact List.forall_mem_nil _
  · split
    · exact List.forall_mem_singleton.mpr ⟨.regroupWindowExpiry u, rfl⟩
    · exact List.forall_mem_nil _

theorem crewEvents_isExec (c : Nat) (w : Crew) : ∀ f ∈ crewEvents c w, IsExec f := by
  unfold crewEvents
  cases w.engine with
  | none => exact List.forall_mem_nil _
  | some e =>
    simp only [List.forall_mem_append, List.forall_mem_flatMap, List.forall_mem_map, List.forall_mem_cons]
    exact ⟨fun d _ x _ => ⟨.copySector c d.id x.idx, rfl⟩, ⟨.matrixOperation c, rfl⟩, ⟨.accgetGrant c, rfl⟩, ⟨.movementFault c, rfl⟩,
      ⟨.engineRelease c, rfl⟩, List.forall_mem_nil _⟩

theorem launchEvents_isExec (l : Nat) (la : Launch) : ∀ f ∈ launchEvents l la, IsExec f := by
  simp only [launchEvents, List.forall_mem_append, List.forall_mem_flatMap, List.forall_mem_map, List.forall_mem_singleton]
  exact ⟨fun n _ b _ => ⟨.clutchTimer l n.1 b.brood.toNat, rfl⟩, ⟨.launchCompletion l, rfl⟩⟩

theorem stackEvents_isExec (x : Nat) : ∀ f ∈ stackEvents x, IsExec f := by
  simp only [stackEvents, List.forall_mem_cons]
  exact ⟨⟨.parkedImageResume x 0, rfl⟩, ⟨.knotPlacement x, rfl⟩, ⟨.crewPlacement x, rfl⟩, ⟨.stealMessage x, rfl⟩, ⟨.parkSwitchOut x, rfl⟩,
    ⟨.crewSwitchOut x, rfl⟩, List.forall_mem_nil _⟩

theorem moduleEvents_isExec (m : Nat) : ∀ f ∈ moduleEvents m, IsExec f := by
  simp only [moduleEvents, List.forall_mem_cons]
  exact ⟨⟨.qreg m, rfl⟩, ⟨.bindObject m, rfl⟩, ⟨.lazyBind m, rfl⟩, ⟨.shoot m, rfl⟩, ⟨.keyload m, rfl⟩, ⟨.circuit m, rfl⟩, ⟨.pool m, rfl⟩,
    ⟨.preempt m, rfl⟩, ⟨.resume m, rfl⟩, ⟨.haltstk m, rfl⟩, ⟨.runstk m, rfl⟩, ⟨.attest m, rfl⟩, ⟨.devhashReport m, rfl⟩, ⟨.wlist m, rfl⟩,
    ⟨.signkey m, rfl⟩, ⟨.unlistedCommand m, rfl⟩, ⟨.preemptionComplete m, rfl⟩, ⟨.launchRecordTake m, rfl⟩, List.forall_mem_nil _⟩

theorem State.candidates_isExec (s : State) : ∀ f ∈ s.candidates, IsExec f := by
  simp only [State.candidates, List.forall_mem_append, List.forall_mem_flatMap, List.forall_mem_map]
  exact ⟨⟨⟨⟨⟨⟨⟨fun _ _ => pathEvents_isExec _ _, fun p _ => ⟨.postPerform p.id, rfl⟩⟩, fun a _ => ⟨.postAcknowledgement a.id, rfl⟩⟩,
    fun e _ => ⟨.clutchRecordArrival e.id, rfl⟩⟩, fun _ _ => crewEvents_isExec _ _⟩, fun _ _ => launchEvents_isExec _ _⟩,
    fun _ _ => stackEvents_isExec _⟩, fun _ _ => moduleEvents_isExec _⟩

theorem State.Canon.firstEvent (h : s.Canon) {fs : List (State → Out)} (hf : ∀ f ∈ fs, IsExec f) (e : s.firstEvent fs = some (.next t)) :
    t.Canon := by
  induction fs with
  | nil => cases e
  | cons f fs ih =>
    obtain ⟨⟨i, rfl⟩, hfs⟩ := List.forall_mem_cons.mp hf
    unfold State.firstEvent at e
    split at e
    · next hx =>
      split at e
      · exact ih hfs e
      · cases e; exact h.exec hx
    · exact h.exec (Option.some.inj e)

theorem State.Canon.tickAll (h : s.Canon) : s.tickAll.Canon := foldl_canon _ (fun _ _ hs => hs.tick _ _) _ h

theorem State.Canon.ownTurn (h : s.Canon) (e : s.ownTurn = .next t) : t.Canon := by
  unfold State.ownTurn at e
  have h1 : State.Canon { s with round := s.round + 1, late := false } := h
  generalize ({ s with round := s.round + 1, late := false } : State) = s1 at h1 e
  dsimp only at e
  split at e
  · cases e; exact h1.tickAll
  · split at e
    · next o he =>
      subst e
      exact h1.firstEvent s1.candidates_isExec he
    · split at e
      · exact h1.issue e
      · exact h1.moveIssue e
      · split at e
        · exact h1.moveIssue e
        · exact h1.issue e
      · cases e; exact h1.tickAll

end Sys2Proof.Machine

namespace Sys2Proof.Claims
open Sys2Proof.Machine

/-- Settles O56: a step is a turn, and every turn keeps the form because every instruction, event and command does. -/
theorem stepsKeepMemoryCanonical : Obligations.StepsKeepMemoryCanonical := by
  unfold Obligations.StepsKeepMemoryCanonical
  intro s t h e
  unfold step at e
  split at e
  · next u ts _ => exact State.Canon.turn (s := { s with agenda := ts }) h e
  · exact State.Canon.ownTurn h e

end Sys2Proof.Claims
end

section
/-! PROOF. SRD of LANEID behind an access of its path that may not be performed yet (R67). -/
namespace Sys2Proof.Claims
open Sys2Proof.Machine

/-- The path stays at its word: SRD of LANEID waits until the load that comes after a post may be performed. -/
theorem pc_srdVector_hopState {t : State} {q : Path} (ht : exec (.srdVector 1) hopState = .next t) (hq : t.path? 1 = some q) :
    q.ctx.pc = wideCtx.pc := by
  have he : (match exec (.srdVector 1) hopState with
    | .next t => (t.path? 1).map (·.ctx.pc)
    | _ => none) = some wideCtx.pc := by decide +kernel
  simpa only [ht, hq, Option.map_some, Option.some.injEq] using he

/-- Refutes O35: the claim of SRD of LANEID to a vector register is that of an instruction which earlier accesses do not hold back, but
the instruction comes after them (R67): where a load of the path still comes after a post, the path waits at its word, and the statement
asks that it goes on. -/
theorem not_laneIdsFencesAndHalt : ¬ Obligations.LaneIdsFencesAndHalt := by
  unfold Obligations.LaneIdsFencesAndHalt
  intro hall
  obtain ⟨hsrd, -, -⟩ := hall hopState hopHere
  obtain ⟨t, q, k, ht, hhere, ⟨hpc, -⟩, -⟩ := hsrd 1 ⟨rfl, rfl, by decide +kernel, .inl rfl⟩ (by decide) nofun (by decide +kernel)
  rw [pc_srdVector_hopState ht (State.path?_of_here hhere)] at hpc
  exact absurd hpc (by decide)

end Sys2Proof.Claims
end

section
/-! PROOF. BAR, BARA and BARW (R213, R214). -/
namespace Sys2Proof.Machine

/-- An entry of a map changed by two functions that agree at its value. -/
theorem spModify_congr {α : Type} {k : Nat} {v : α} {f g : α → α} (hv : f v = g v) : ∀ {m : Sparse α}, spFind k m = some v →
    spModify k f m = spModify k g m
  | (j, w) :: m, h => by
    simp only [spFind] at h
    simp only [spModify]
    split
    · rw [if_pos ‹_›] at h
      cases h
      rw [hv]
    · rw [if_neg ‹_›] at h
      split at h
      · cases h
      · rw [spModify_congr hv h]

/-- A path changed by two functions that agree at it. -/
theorem State.modPath_congr {s : State} {u : Nat} {p : Path} (hp : s.path? u = some p) {f g : Path → Path} (hv : f p = g p) :
    s.modPath u f = s.modPath u g := by
  unfold State.modPath
  rw [spModify_congr hv hp]

@[simp] theorem State.currentPhase_snd_paths (s : State) (p : Phase) : (s.currentPhase p).2.paths = s.paths := by
  unfold State.currentPhase
  split <;> rfl

@[simp] theorem State.currentPhase_snd_stks (s : State) (p : Phase) : (s.currentPhase p).2.stks = s.stks := by
  unfold State.currentPhase
  split <;> rfl

/-- A path that is set to wait, as a change of the path itself. -/
theorem State.await_of_path {s : State} {u : Nat} {p : Path} (hp : s.path? u = some p) (pend : Pend) (w : Wait) :
    s.await u pend w = s.modPath u fun q => { q with pend := pend, wait := some w, blockedCycle := (s.stk p.home).cycles } :=
  State.modPath_congr hp rfl

theorem State.single_iff {s : State} {h : Here} : s.single h = true ↔ s.siblings h.p.knot h.u = [] := List.isEmpty_iff

end Sys2Proof.Machine

namespace Sys2Proof.Claims
open Sys2Proof.Machine

/-- The state after a knot's arrival at a barrier. -/
def arrived (s : State) (h : Here) (p : Phase) : State :=
  (s.currentPhase p).2.arriveAt (s.currentPhase p).1 (if p.crew.isSome = true then h.k.crew.map (·.2) else none)

/-- An arrival that no check of R214 stops. -/
theorem arrive_ok {s : State} {h : Here} {x : Scope} {i : Nat} {p : Phase} (hs : s.siblings h.p.knot h.u = []) (hb : h.k.bara x i = none)
    (hp : s.phaseFor h x i = some p) (hf : Fenced h) : arrive s h x i = .ok ((s.currentPhase p).1, arrived s h p) := by
  have hfence : fence s h = .ok () := fence_ok hf s h.p rfl rfl
  simp only [arrive, needSingle, State.single_iff.mpr hs, if_true, res_ok_bind, hb, Option.isSome_none, Bool.false_eq_true, if_false, hp, hfence]
  rfl

theorem path?_arrived {s : State} {h : Here} (hh : s.here h.u = some h) (p : Phase) : (arrived s h p).path? h.u = some h.p := by
  have hp : (arrived s h p).paths = s.paths := s.currentPhase_snd_paths p
  rw [State.path?, hp]
  exact State.path?_of_here hh

theorem stk_arrived (s : State) (h : Here) (p : Phase) (home : Nat) : (arrived s h p).stk home = s.stk home := by
  have hp : (arrived s h p).stks = s.stks := s.currentPhase_snd_stks p
  rw [State.stk, hp]
  rfl

/-- BARA whose arrival no check stops (R214). -/
theorem execBara_arrives {s : State} {h : Here} {i : BitVec 4} {x : Scope} {p : Phase} (ha : Admits s h.u h .plain)
    (hr : arrive s h x i.toNat = .ok ((s.currentPhase p).1, arrived s h p)) : exec (.bara false i x) s = .next
      (((arrived s h p).modKnot h.p.knot fun k => { k with baras := k.baras ++ [(x, i.toNat, (s.currentPhase p).1)] }).retire h.u) := by
  refine exec_of_ok ha rfl rfl ?_
  simp only [hr, res_ok_bind]

/-- BAR of a path that waits for no phase yet, whose arrival no check stops (R214). -/
theorem execBar_arrives {s : State} {h : Here} {i : BitVec 4} {x : Scope} {p : Phase} (ha : Admits s h.u h .plain)
    (hr : arrive s h x i.toNat = .ok ((s.currentPhase p).1, arrived s h p)) (hp : ∀ ph, h.p.pend ≠ .barrier ph) :
    exec (.bar false i x) s = .next ((arrived s h p).modPath h.u fun q =>
      { q with pend := .barrier (s.currentPhase p).1, wait := some (.phase (s.currentPhase p).1)
               blockedCycle := (s.stk h.p.home).cycles }) := by
  refine exec_of_ok ha rfl rfl ?_
  split
  · next ph he => exact absurd he (hp ph)
  · rw [hr, res_ok_bind]
    dsimp only
    rw [State.await_of_path (path?_arrived ha.here p), stk_arrived]

/-- BAR of a path that waits for a phase (R214). -/
theorem execBar_waits {s : State} {h : Here} {i : BitVec 4} {x : Scope} {ph : Nat} {q : Phase} (ha : Admits s h.u h .plain)
    (hp : h.p.pend = .barrier ph) (hq : s.phase? ph = some q) : exec (.bar false i x) s = .next
      (if q.complete then (s.release h.u).dropPhase ph else s.block h.u (.phase ph)) := by
  refine (knotOp_path ha.cur ha.here _ _ _).trans ?_
  rw [pathRun_body ha]
  simp only [hp, hq]
  cases q.complete <;> rfl

/-- BARW of a pending BARA (R214). -/
theorem execBarw_waits {s : State} {h : Here} {i : BitVec 4} {x : Scope} {ph b : Nat} {y : Scope} {q : Phase} (ha : Admits s h.u h .plain)
    (hb : h.k.bara x i.toNat = some (y, b, ph)) (hq : s.phase? ph = some q) : exec (.barw false i x) s = .next
      (if q.complete then (((s.modKnot h.p.knot fun k => { k with baras := k.baras.filter fun e => !(e.1 == x && e.2.1 == i.toNat) }).release
        h.u).dropPhase ph) else s.block h.u (.phase ph)) := by
  refine (knotOp_path ha.cur ha.here _ _ _).trans ?_
  rw [pathRun_body ha]
  simp only [hb, hq]
  cases q.complete <;> rfl

/-- Settles O21: an arrival that no check stops joins the current phase, and each instruction follows its path's or its knot's record. -/
theorem barriersComplete : Obligations.BarriersComplete := by
  unfold Obligations.BarriersComplete
  intro s h i x ha
  refine ⟨fun p hs hb hp hf => ?_, fun ph q hp hq => ?_, fun ph q a b hb hq => ?_, fun hb => ?_⟩
  · have hr := arrive_ok hs hb hp hf
    exact ⟨execBara_arrives ha hr, execBar_arrives ha hr⟩
  · have he := execBar_waits (i := i) (x := x) ha hp hq
    exact ⟨fun hc => by rw [he, if_pos hc], fun hc => by rw [he, if_neg (by simp [hc])]⟩
  · have he := execBarw_waits ha hb hq
    exact ⟨fun hc => by rw [he, if_pos hc], fun hc => by rw [he, if_neg (by simp [hc])]⟩
  · refine exec_of_trap ha rfl rfl ?_
    simp only [hb]

end Sys2Proof.Claims
end

section
/-! PROOF. EMIT and DEPDEC (R265, R266). -/
namespace Sys2Proof.Claims
open Sys2Proof.Machine

/-- A home that an entry takes finds that entry (R73, R74). -/
theorem entryFor_ok {s : State} {h : Here} {home i : Nat} {e : PostEntry} (he : EntryTakes h.p.ctx home i e) (lane : Nat) (addr : DWord) :
    entryFor s h home lane addr = .ok (i, e) := by
  unfold entryFor
  obtain ⟨hf, hfault, hout, hseq⟩ | ⟨hf, ⟨x, hx⟩, rfl⟩ := he
  · simp [hf, hfault, hout, hseq]
  · simp [hf, hx]

/-- A decrement whose home finds an entry is sent through it (R266). -/
theorem sendPost_depdec {s : State} {h : Here} {home n i : Nat} {e : PostEntry} {ref : DWord} (he : EntryTakes h.p.ctx home i e) :
    sendPost s h home 0 (PostReq.mk 0 (.dec h.k.launch n) 255 6 ref 0 none [] h.p.ctx.stamp) = .ok (decremented s h home n i e ref) := by
  unfold sendPost
  rw [entryFor_ok he]
  rfl

/-- The record of a sent list at a place, in a state whose next identity is one further, is the record at the next place. -/
theorem emitted_cons (s : State) (h : Here) (n : Nat) (r : List Word) (rs : List (List Word)) :
    emitted (emitted s h n [r]) h n rs = emitted s h n (r :: rs) := by
  have hids : ∀ (k : Nat), rs.zipIdx (k + 1) = (rs.zipIdx k).map fun e => (e.1, e.2 + 1) := fun k => by
    rw [List.zipIdx_succ]
  simp only [emitted, List.length_cons, List.length_nil, List.zipIdx_cons, List.zipIdx_nil, List.map_cons, List.map_nil, List.append_assoc,
    List.singleton_append, hids, List.map_map, Function.comp_def, Nat.zero_add, Nat.add_assoc, Nat.add_comm, Nat.add_left_comm]

/-- Records sent one after another are the records on their way to the clutch (R265). -/
theorem sendRecords_eq_emitted (h : Here) (n : Nat) : ∀ (rs : List (List Word)) (s : State), s.sendRecords h n rs = emitted s h n rs
  | [], s => by simp [State.sendRecords, emitted]
  | r :: rs, s => by
    have hs : s.sendRecords h n (r :: rs) = (emitted s h n [r]).sendRecords h n rs := rfl
    rw [hs, sendRecords_eq_emitted h n rs, emitted_cons]

theorem here_emitted {s : State} {h : Here} (hh : s.here h.u = some h) (n : Nat) (rs : List (List Word)) :
    (emitted s h n rs).here h.u = some h := hh

/-- The sources of EMIT other than its records pass their checks. -/
theorem checkSources_emit {s : State} {h : Here} {g : Guard} {a : SReg} {e : Bool} (hg : h.p.ctx.stateOf (guardName g) = .full)
    (ha : h.p.ctx.scalState a.toNat = .full) : checkSources s h.p [guardSource g, scalSource a e] = .ok () :=
  checkSources_full s h.p fun r hr => by
    obtain rfl | rfl := List.mem_pair.mp hr
    · exact hg
    · exact ha

/-- The record's registers pass their checks. -/
theorem checkSources_group {s : State} {h : Here} {v n : Nat} {e : Bool} (hr : ∀ r ∈ groupNames h v n, h.p.ctx.stateOf r = .full) :
    checkSources s h.p (groupSources h.p.ctx v n e) = .ok () :=
  checkSources_full s h.p fun q hq => by
    obtain ⟨i, hi, rfl⟩ := List.mem_map.mp hq
    exact hr _ (List.mem_map_of_mem (List.mem_map_of_mem hi))

section
variable {s : State} {h : Here} {g : Guard} {d : VReg} {a : SReg} {e : Bool}

/-- EMIT to a node of its kind sends the records of its lanes (R265). -/
theorem exec_emit_sends (ha : Admits s h.u h .plain) (hg : g ≠ 15) (hgf : h.p.ctx.stateOf (guardName g) = .full)
    (haf : h.p.ctx.scalState a.toNat = .full) {n : Nat} {nd : Node} (hn : s.nodeRef h (h.p.ctx.scalVal a.toNat) 1 = some (n, nd))
    (hd : d.toNat + 4 * 2 ^ nd.ent.recsz ≤ 32)
    (hr : ∀ r ∈ groupNames h d.toNat (4 * 2 ^ nd.ent.recsz), h.p.ctx.stateOf r = .full) :
    exec (.emit g d a e) s = .next ((emitted s h n ((presentLanes h g).map fun l =>
      (List.range (4 * 2 ^ nd.ent.recsz)).map fun i => h.k.lane (h.p.ctx.base + (d.toNat + i)) l)).retire h.u) := by
  refine exec_of_ok ha rfl (isNever_false hg) ?_
  simp only [checkSources_emit hgf haf, hn, if_neg (Nat.not_lt.mpr hd), checkSources_group hr, res_ok_bind, sendRecords_eq_emitted]
  rfl

/-- EMIT of a record past register 31 (R265). -/
theorem exec_emit_past (ha : Admits s h.u h .plain) (hg : g ≠ 15) (hgf : h.p.ctx.stateOf (guardName g) = .full)
    (haf : h.p.ctx.scalState a.toNat = .full) {n : Nat} {nd : Node} (hn : s.nodeRef h (h.p.ctx.scalVal a.toNat) 1 = some (n, nd))
    (hd : 32 < d.toNat + 4 * 2 ^ nd.ent.recsz) : exec (.emit g d a e) s = .next (s.takeTrap h.u { code := .node }) := by
  refine exec_of_trap ha rfl (isNever_false hg) ?_
  simp only [checkSources_emit hgf haf, hn, if_pos hd, res_ok_bind]

/-- EMIT to what is no node of its kind (R265). -/
theorem exec_emit_none (ha : Admits s h.u h .plain) (hg : g ≠ 15) (hgf : h.p.ctx.stateOf (guardName g) = .full)
    (haf : h.p.ctx.scalState a.toNat = .full) (hn : s.nodeRef h (h.p.ctx.scalVal a.toNat) 1 = none) :
    exec (.emit g d a e) s = .next (s.takeTrap h.u { code := .node }) := by
  refine exec_of_trap ha rfl (isNever_false hg) ?_
  simp only [checkSources_emit hgf haf, hn, res_ok_bind]

/-- DEPDEC of a counter node whose home finds an entry (R266). -/
theorem exec_depdec_sends (ha : Admits s h.u h .plain) (haf : h.p.ctx.scalState a.toNat = .full) {n i : Nat} {nd : Node} {la : Launch}
    {x : PostEntry} (hn : s.nodeRef h (h.p.ctx.scalVal a.toNat) 2 = some (n, nd)) (hl : spFind h.k.launch s.launches = some la)
    (hx : EntryTakes h.p.ctx (16 * la.module + nd.ent.home) i x) : exec (.depdec false a e) s =
      .next ((decremented s h (16 * la.module + nd.ent.home) n i x (h.p.ctx.scalVal a.toNat)).retire h.u) := by
  refine exec_of_ok ha rfl rfl ?_
  have hs : checkSources s h.p [scalSource a e] = .ok () := checkSources_full s h.p fun r hr => by rw [List.mem_singleton.mp hr]; exact haf
  simp only [hs, hn, hl, res_ok_bind, sendPost_depdec hx]

/-- DEPDEC of what is no counter node (R266). -/
theorem exec_depdec_none (ha : Admits s h.u h .plain) (haf : h.p.ctx.scalState a.toNat = .full)
    (hn : s.nodeRef h (h.p.ctx.scalVal a.toNat) 2 = none) : exec (.depdec false a e) s = .next (s.takeTrap h.u { code := .node }) := by
  refine exec_of_trap ha rfl rfl ?_
  have hs : checkSources s h.p [scalSource a e] = .ok () := checkSources_full s h.p fun r hr => by rw [List.mem_singleton.mp hr]; exact haf
  simp only [hs, hn, res_ok_bind]

end

/-- Settles O28: each instruction is followed through its checks. -/
theorem nodeInstructions : Obligations.NodeInstructions := by
  unfold Obligations.NodeInstructions
  intro s h g d a e ha haf
  refine ⟨fun hg hgf => ⟨fun n nd hn => ⟨fun hd hr => ?_, exec_emit_past ha hg hgf haf hn⟩, exec_emit_none ha hg hgf haf⟩,
    fun n nd la i x hn hl hx => exec_depdec_sends ha haf hn hl hx, exec_depdec_none ha haf⟩
  exact ⟨_, exec_emit_sends ha hg hgf haf hn hd hr, retire_completes (here_emitted ha.here _ _)⟩

end Sys2Proof.Claims
end

section
/-! PROOF. PFIX, CTXSV and CTXLD (R291 to R293). -/
namespace Sys2Proof.Machine

/-- Landing-zone space released record by record changes only the areas in use. -/
theorem State.onlyAreas_freeHeld : ∀ (rs : List Held) (s : State), s.OnlyAreas (rs.foldl (fun s r => s.freeArea r.home r.area) s)
  | [], s => .refl s
  | r :: rs, s => by
    have h1 : s.OnlyAreas (s.freeArea r.home r.area) := ⟨_, rfl⟩
    exact h1.trans (State.onlyAreas_freeHeld rs _)

theorem State.onlyMem_writeMem (s : State) (key : Option Nat) (pa : Nat) (bs : List Byte) : s.OnlyMem (s.writeMem key pa bs) :=
  (s.onlyMem_recall true pa bs.length).trans rfl

/-- A knot changed by two functions that agree at it. -/
theorem State.modKnot_congr {s : State} {j : Nat} {k : Knot} (hk : spFind j s.knots = some k) {f g : Knot → Knot} (hv : f k = g k) :
    s.modKnot j f = s.modKnot j g := by
  unfold State.modKnot
  rw [spModify_congr hv hk]

/-- The scalar destination of an instruction that may name s0 (R125) passes its check, and what comes after the check goes on. -/
theorem checkDest_scal_bind {α : Type} {s : State} {p : Path} {d : SReg} (hd : p.ctx.scalState d.toNat ≠ .empty) (k : Unit → Res α) :
    (if d = 0 then k () else checkDest s p { file := .scal, num := d.toNat } >>= k) = k () := by
  split
  · rfl
  · have hst : p.ctx.stateOf { file := .scal, num := d.toNat } ≠ .empty := hd
    simp only [checkDest, if_neg hst, res_ok_bind]

/-- The least unused number is not used, is not zero, and is at most one more than the count of the used ones. -/
theorem leastUnused_spec (used : List Nat) : leastUnused used ∉ used ∧ leastUnused used ≠ 0 ∧ leastUnused used ≤ used.length + 1 := by
  have hex : ∃ n ∈ List.range (used.length + 1), n + 1 ∉ used := by
    by_contra hall
    push Not at hall
    have hsub : (List.range (used.length + 1)).map (· + 1) ⊆ used := fun x hx => by
      obtain ⟨n, hn, rfl⟩ := List.mem_map.mp hx
      exact hall n hn
    have hnd : ((List.range (used.length + 1)).map (· + 1)).Nodup := List.nodup_range.map (fun _ _ h => Nat.succ.inj h)
    have hlen := (hnd.subperm hsub).length_le
    simp at hlen
  cases hf : (List.range (used.length + 1)).find? fun n => !used.contains (n + 1) with
  | none =>
    obtain ⟨n, hn, hu⟩ := hex
    have := List.find?_eq_none.mp hf n hn
    simp [hu] at this
  | some n =>
    have hmem := List.mem_range.mp (List.mem_of_find?_eq_some hf)
    have hnot := List.find?_some hf
    have he : leastUnused used = n + 1 := by simp only [leastUnused, hf, Option.getD_some]
    rw [he]
    exact ⟨by simpa using hnot, Nat.succ_ne_zero n, by omega⟩

/-- What a choice of a free tag changes. -/
theorem State.freeTag_state (s : State) : ∃ ps, s.freeTag.2 = { s with picks := ps } := by
  unfold State.freeTag State.pick
  cases s.picks with
  | nil => exact ⟨s.picks, rfl⟩
  | cons v vs => exact ⟨vs, rfl⟩

/-- A free tag is not zero, and no knot has it (R292). -/
theorem State.freeTag_fresh {s : State} (hn : s.knots.length < 2 ^ 63) : s.freeTag.1 ≠ 0 ∧ ∀ k ∈ s.knots, k.2.tag ≠ s.freeTag.1 := by
  have key : ∀ n : Nat, n ≠ 0 → n < 2 ^ 64 → n ∉ s.knots.map (fun e => e.2.tag.toNat) →
      BitVec.ofNat 64 n ≠ 0 ∧ ∀ k ∈ s.knots, k.2.tag ≠ BitVec.ofNat 64 n := fun n h0 hlt hmem => by
    have hv : (BitVec.ofNat 64 n).toNat = n := by rw [BitVec.toNat_ofNat, Nat.mod_eq_of_lt hlt]
    refine ⟨fun he => h0 ?_, fun k hk he => hmem (List.mem_map.mpr ⟨k, hk, by rw [he, hv]⟩)⟩
    rw [← hv, he]
    rfl
  unfold State.freeTag
  dsimp only
  split
  · obtain ⟨hmem, h0, hle⟩ := leastUnused_spec (s.knots.map fun e => e.2.tag.toNat)
    rw [List.length_map] at hle
    exact key _ h0 (by omega) hmem
  · next hc =>
    simp only [Bool.or_eq_true, decide_eq_true_eq, List.contains_eq_mem, not_or, Nat.not_le] at hc
    obtain ⟨⟨h0, hlt⟩, hmem⟩ := hc
    exact key _ h0 hlt hmem

@[simp] theorem bytesOfNat_length (n : Nat) : ∀ v, (bytesOfNat v n).length = n := by
  induction n with
  | zero => exact fun _ => rfl
  | succ n ih => exact fun v => congrArg (· + 1) (ih _)

end Sys2Proof.Machine

namespace Sys2Proof.Claims
open Sys2Proof.Machine

section
variable {s : State} {h : Here} {d : SReg} {i : BitVec 3}

/-- PFIX of an entry that holds nothing gives 0 (R291). -/
theorem exec_pfix_open (hp : ∀ n x, h.p.pend ≠ .pfix n x) (he : ((h.p.ctx.post i.toNat).valid && (h.p.ctx.post i.toNat).faulted) = false)
    (ha : Admits s h.u h { priv := true }) (hd : h.p.ctx.scalState d.toNat ≠ .empty) :
    exec (.pfix d i) s = .next ((s.writeScal h.u d.toNat 0).retire h.u) := by
  refine exec_of_ok ha rfl rfl ?_
  have he' : (!(h.p.ctx.post i.toNat).valid || !(h.p.ctx.post i.toNat).faulted) = true := by
    rw [← Bool.not_and, he]
    rfl
  extract_lets -underBinder k
  refine (checkDest_scal_bind hd k).trans ?_
  dsimp only [k]
  split
  · next n x hx => exact absurd hx (hp n x)
  · rw [if_pos he']

/-- PFIX.DROP of an entry that holds nothing gives 0 (R291). -/
theorem exec_pfixDrop_open (he : ((h.p.ctx.post i.toNat).valid && (h.p.ctx.post i.toNat).faulted) = false)
    (ha : Admits s h.u h { priv := true }) (hd : h.p.ctx.scalState d.toNat ≠ .empty) :
    exec (.pfixDrop d i) s = .next ((s.writeScal h.u d.toNat 0).retire h.u) := by
  refine exec_of_ok ha rfl rfl ?_
  have he' : (!(h.p.ctx.post i.toNat).valid || !(h.p.ctx.post i.toNat).faulted) = true := by
    rw [← Bool.not_and, he]
    rfl
  extract_lets -underBinder k
  refine (checkDest_scal_bind hd k).trans ?_
  dsimp only [k]
  rw [if_pos he']

/-- PFIX of a faulted entry sends what it holds again (R291). -/
theorem exec_pfix_faulted (hp : ∀ n x, h.p.pend ≠ .pfix n x) (hv : (h.p.ctx.post i.toNat).valid = true)
    (hf : (h.p.ctx.post i.toNat).faulted = true) (ha : Admits s h.u h { priv := true }) (hd : h.p.ctx.scalState d.toNat ≠ .empty)
    {n : Nat} {t : State} (hr : (((s.modCtx h.u fun c => c.modPost i.toNat fun e => { e with faulted := false, held := [] }).reopen h.p.knot
      (h.p.ctx.post i.toNat)).retryAll h.u i.toNat (h.p.ctx.post i.toNat) 0 (h.p.ctx.post i.toNat).held) = .ok (n, t)) :
    exec (.pfix d i) s = .next ((t.writeScal h.u d.toNat (BitVec.ofNat 64 n)).retire h.u) := by
  refine exec_of_ok ha rfl rfl ?_
  extract_lets -underBinder k
  refine (checkDest_scal_bind hd k).trans ?_
  dsimp only [k]
  split
  · next n x hx => exact absurd hx (hp n x)
  · rw [hv, hf, if_neg (by decide), hr, res_ok_bind]

/-- A faulted entry after its records are dropped. -/
def droppedEntry (x : PostEntry) : PostEntry := ({ x with faulted := false, held := [] } : PostEntry).drained

theorem droppedEntry_eq (x : PostEntry) : droppedEntry x = if x.outst = 0 then .free else { x with faulted := false, held := [] } := by
  simp only [droppedEntry, PostEntry.drained, Bool.not_false, Bool.and_true, decide_eq_true_eq]

/-- The state after PFIX.DROP opens an entry and its stream. -/
def droppedPosts (s : State) (h : Here) (i : Nat) : State :=
  (((h.p.ctx.post i).held.foldl (fun s r => s.freeArea r.home r.area) s).modCtx h.u fun c => c.modPost i droppedEntry).reopen
    h.p.knot (h.p.ctx.post i)

theorem exec_pfixDrop_faulted (hv : (h.p.ctx.post i.toNat).valid = true)
    (hf : (h.p.ctx.post i.toNat).faulted = true) (ha : Admits s h.u h { priv := true }) (hd : h.p.ctx.scalState d.toNat ≠ .empty) :
    exec (.pfixDrop d i) s = .next (((droppedPosts s h i.toNat).writeScal h.u d.toNat
      (BitVec.ofNat 64 (h.p.ctx.post i.toNat).held.length)).retire h.u) := by
  refine exec_of_ok ha rfl rfl ?_
  extract_lets -underBinder k
  refine (checkDest_scal_bind hd k).trans ?_
  dsimp only [k]
  rw [hv, hf, if_neg (by decide)]
  rfl

theorem here_droppedPosts (hh : s.here h.u = some h) (i : Nat) : (droppedPosts s h i).here h.u =
    some { h with p := { h.p with ctx := { h.p.ctx with posts := h.p.ctx.posts.modify i droppedEntry } } } := by
  have hh' := ((State.onlyAreas_freeHeld (h.p.ctx.post i).held s).here h.u).trans hh
  exact State.here_modPath hh' (f := fun p => { p with ctx := p.ctx.modPost i droppedEntry }) rfl

/-- A path after it writes a scalar and completes its instruction. -/
theorem here_writeScal_retire (hh : s.here h.u = some h) (d : SReg) (v : DWord) : ∃ q,
    ((s.writeScal h.u d.toNat v).retire h.u).here h.u = some { u := h.u, p := q, k := h.k } ∧ q.ctx.pc = h.p.ctx.pc + 4 ∧
      (∀ n : SReg, q.ctx.scalVal n.toNat = if n = d ∧ d ≠ 0 then v else h.p.ctx.scalVal n.toNat) ∧ q.ctx.posts = h.p.ctx.posts ∧
      q.ctx.vst = h.p.ctx.vst ∧ q.ctx.pst = h.p.ctx.pst := by
  let c := (h.p.ctx.setScal d.toNat v).setState { file := .scal, num := d.toNat } .full
  have hkeep : h.p.ctx.Keeps c := (Ctx.keeps_setScal _ _ _).trans (Ctx.keeps_setState _ _ _)
  have hpc : c.pc = h.p.ctx.pc := (Ctx.pc_setState _ _ _).trans (Ctx.pc_setScal _ _ _)
  have hvst : c.vst = h.p.ctx.vst := by
    simp only [c, Ctx.setState, Ctx.setScal]
    split <;> rfl
  have hpst : c.pst = h.p.ctx.pst := by
    simp only [c, Ctx.setState, Ctx.setScal]
    split <;> rfl
  have hval : ∀ n : SReg, c.scalVal n.toNat = if n = d ∧ d ≠ 0 then v else h.p.ctx.scalVal n.toNat := fun n => by
    have hiff : (n.toNat = d.toNat ∧ n.toNat ≠ 0) ↔ (n = d ∧ d ≠ 0) := by
      simp only [← BitVec.toNat_inj, ne_eq]
      exact ⟨fun ⟨h1, h2⟩ => ⟨h1, h1 ▸ h2⟩, fun ⟨h1, h2⟩ => ⟨h1, h1 ▸ h2⟩⟩
    simp only [c, Ctx.scalVal_setState, Ctx.scalVal_setScal, hiff]
  have ht := State.here_retire (State.here_writeScal hh d.toNat v)
  exact ⟨_, ht, congrArg (· + 4) hpc, hval, hkeep.posts, hvst, hpst⟩

/-- What PFIX.DROP leaves of the devices and of memory. -/
theorem droppedPosts_rest (s : State) (h : Here) (i : Nat) : (droppedPosts s h i).flow = { s.flow with held := s.flow.held.filter fun x =>
      !(x.knot == h.p.knot && x.home == (h.p.ctx.post i).home && x.stream == (h.p.ctx.post i).stream) } ∧
    ∀ key a, (droppedPosts s h i).mem.readByte key a = s.mem.readByte key a := by
  obtain ⟨as, he⟩ := State.onlyAreas_freeHeld (h.p.ctx.post i).held s
  unfold droppedPosts
  rw [he]
  exact ⟨rfl, fun _ _ => rfl⟩

end

section
variable {s : State} {h : Here} {a : SReg} {e : Bool}

/-- The one part of a range that lies in a page. -/
theorem pagePieces_one {va n : Nat} (hn : n ≠ 0) (hp : va % 65536 + n ≤ 65536) : pagePieces va n = [(va, n)] := by
  have hmin : min n (65536 - va % 65536) = n := Nat.min_eq_left (by omega)
  simp [pagePieces, hn, hmin]

/-- A write in place of a range that lies in a page (R64). -/
theorem spanWrite_inPlace {va : Nat} {bs : List Byte} {y : Target} (hn : bs ≠ [])
    (hy : InPlace s h { rd := false, w := true } va bs.length y) : spanWrite s h va bs = .ok (s.writeMem y.key y.pa bs) := by
  have hlen : bs.length ≠ 0 := fun h0 => hn (List.length_eq_zero_iff.mp h0)
  simp only [spanWrite, spanTargets, pagePieces_one hlen hy.page, List.map_cons, List.map_nil, walkAll_ok hy.walks, res_ok_bind, spanParts,
    hy.translated, hy.running, hy.clear, Bool.not_true, Bool.or_self, Bool.false_eq_true, if_false, State.spanPut, List.take_length]

/-- The state after CTXSV goes on and its knot is held in its slot, from the state in which its tag is stored (R292). -/
def servedOn (s : State) (h : Here) : State :=
  ((s.retire h.u).modPath h.u fun p =>
    match p.place with
    | .resident st => { p with place := .held st }
    | _ => p).serviceOn h.p.home [h.p.core]

/-- The address of CTXSV passes its checks. -/
theorem ctxsv_checks (ha : h.p.ctx.scalState a.toNat = .full) : checkSources s h.p [scalSource a e] = .ok () :=
  checkSources_full s h.p fun r hr => by rw [List.mem_singleton.mp hr]; exact ha

theorem exec_ctxsv_misaligned (ha : Admits s h.u h { priv := true }) (hf : h.p.ctx.scalState a.toNat = .full)
    (hm : (h.p.ctx.scalVal a.toNat).toNat % 8 ≠ 0) : exec (.ctxsv a e) s = .next (s.takeTrap h.u
      { code := .align, lane := lowestOf h.p.ctx.mask, addr := h.p.ctx.scalVal a.toNat }) := by
  refine exec_of_trap ha rfl rfl ?_
  simp only [ctxsv_checks hf, needAligned, if_neg hm, res_ok_bind]
  rfl

/-- CTXSV of a knot whose tag and the state after it is chosen are given. -/
theorem exec_ctxsv_stores (ha : Admits s h.u h { priv := true }) (hf : h.p.ctx.scalState a.toNat = .full)
    (hm : (h.p.ctx.scalVal a.toNat).toNat % 8 = 0) {v : DWord} {s1 : State}
    (ht : (if h.k.tag = 0 then s.freeTag else (h.k.tag, s)) = (v, s1)) {y : Target}
    (hy : InPlace s1 h { rd := false, w := true } (h.p.ctx.scalVal a.toNat).toNat 8 y) : exec (.ctxsv a e) s = .next
      (servedOn ((s1.writeMem y.key y.pa (bytesOfNat v.toNat 8)).modKnot h.p.knot fun k => { k with tag := v, serving := true }) h) := by
  refine exec_of_ok ha rfl rfl ?_
  have hbs : bytesOfNat v.toNat 8 ≠ [] := nofun
  simp only [ctxsv_checks hf, needAligned, if_pos hm, res_ok_bind, ht, spanWrite_inPlace hbs (by rw [bytesOfNat_length]; exact hy)]
  rfl

/-- A write in place does not depend on the choices that are still to be made. -/
theorem inPlace_picks {need : Needs} {va n : Nat} {y : Target} (hy : InPlace s h need va n y) (ps : List Nat) :
    InPlace { s with picks := ps } h need va n y :=
  ⟨⟨hy.walks.running, hy.walks.lines⟩, hy.page, hy.translated, hy.below, hy.running, hy.clear, hy.lines, hy.poison⟩

end

section
variable {s : State} {h : Here} {a d : SReg} {e : Bool}

/-- CTXLD and CTXLD.KILL of a tag (R293). -/
theorem exec_ctxLoad_held (ha : Admits s h.u h { priv := true }) (hf : h.p.ctx.scalState a.toNat = .full)
    (hd : h.p.ctx.scalState d.toNat ≠ .empty) {kn : Nat} (hk : s.heldBy (h.p.ctx.scalVal a.toNat) = some kn) :
    exec (.ctxld d a e) s = .next (((s.endService kn).writeScal h.u d.toNat 1).retire h.u) ∧
    exec (.ctxldKill d a e) s = .next (((s.killKnot kn).writeScal h.u d.toNat 1).retire h.u) := by
  constructor
  all_goals
    refine exec_of_ok ha rfl rfl ?_
    rw [ctxsv_checks hf, res_ok_bind]
    extract_lets -underBinder k
    refine (checkDest_scal_bind hd k).trans ?_
    simp only [k, hk]
    rfl

/-- CTXLD and CTXLD.KILL of an image (R293). -/
theorem exec_ctxLoad_image (ha : Admits s h.u h { priv := true }) (hf : h.p.ctx.scalState a.toNat = .full)
    (hd : h.p.ctx.scalState d.toNat ≠ .empty) (hk : s.heldBy (h.p.ctx.scalVal a.toNat) = none) {u : Nat} {p : Path} {img : Stored}
    (hi : s.imageAt (h.p.ctx.scalVal a.toNat) = some (u, p, img)) :
    exec (.ctxld d a e) s = .next (((s.endHandling u p img).writeScal h.u d.toNat 1).retire h.u) ∧
    exec (.ctxldKill d a e) s = .next (((s.killKnot p.knot).writeScal h.u d.toNat 1).retire h.u) := by
  constructor
  all_goals
    refine exec_of_ok ha rfl rfl ?_
    rw [ctxsv_checks hf, res_ok_bind]
    extract_lets -underBinder k
    refine (checkDest_scal_bind hd k).trans ?_
    simp only [k, hk, hi]
    rfl

/-- CTXLD and CTXLD.KILL of what is neither (R293). -/
theorem exec_ctxLoad_none (ha : Admits s h.u h { priv := true }) (hf : h.p.ctx.scalState a.toNat = .full)
    (hd : h.p.ctx.scalState d.toNat ≠ .empty) (hk : s.heldBy (h.p.ctx.scalVal a.toNat) = none)
    (hi : s.imageAt (h.p.ctx.scalVal a.toNat) = none) : ∀ i ∈ [Instr.ctxld d a e, .ctxldKill d a e],
    exec i s = .next ((s.writeScal h.u d.toNat 0).retire h.u) := by
  simp only [List.forall_mem_cons, List.not_mem_nil, false_imp_iff, implies_true, and_true]
  constructor
  all_goals
    refine exec_of_ok ha rfl rfl ?_
    rw [ctxsv_checks hf, res_ok_bind]
    extract_lets -underBinder k
    refine (checkDest_scal_bind hd k).trans ?_
    simp only [k, hk, hi]

/-- A knot after its service ends (R293). -/
theorem knot_endService {kn : Nat} {k : Knot} (hk : spFind kn s.knots = some k) :
    spFind kn (s.endService kn).knots = some { k with serving := false } := by
  have hknots : ∀ (f : State → Nat × Path → Path → Path) (es : List (Nat × Path)) (t : State),
      (es.foldl (fun t e => t.modPath e.1 (f t e)) t).knots = t.knots := fun f es => by
    induction es with
    | nil => exact fun _ => rfl
    | cons e es ih => exact fun t => ih _
  unfold State.endService
  dsimp only
  rw [hknots (fun t e => Path.unhold (t.stk e.2.home).cycles s.newId.1)]
  exact (spFind_spModify_same kn _ s.knots).trans (by rw [hk]; rfl)

end

/-- Settles O39: each instruction is followed through its checks, and the tag of a first CTXSV is one that no knot has. -/
theorem postFixAndContext : Obligations.PostFixAndContext := by
  unfold Obligations.PostFixAndContext
  refine ⟨?_, ?_⟩
  · intro s h d i e hp
    refine ⟨fun he => ⟨?_, ?_⟩, fun hv hf ha hd => ⟨?_, fun n t hr => exec_pfix_faulted hp hv hf ha hd hr⟩⟩
    · exact registerResult_of_gives fun ha _ _ hd =>
        ⟨_, exec_pfix_open hp he ha (hd { file := .scal, num := d.toNat } (List.mem_singleton_self _)), gives_scal_plain ha.here rfl rfl rfl rfl⟩
    · exact registerResult_of_gives fun ha _ _ hd =>
        ⟨_, exec_pfixDrop_open he ha (hd { file := .scal, num := d.toNat } (List.mem_singleton_self _)), gives_scal_plain ha.here rfl rfl rfl rfl⟩
    · have hopen := here_droppedPosts ha.here i.toNat
      obtain ⟨q, hq, hpc, hval, hposts, hvst, hpst⟩ := here_writeScal_retire
        (h := { h with p := { h.p with ctx := { h.p.ctx with posts := h.p.ctx.posts.modify i.toNat droppedEntry } } }) hopen d
        (BitVec.ofNat 64 e.held.length)
      obtain ⟨hflow, hmem⟩ := droppedPosts_rest s h i.toNat
      refine ⟨_, q, exec_pfixDrop_faulted hv hf ha hd, hq, hpc, hval, hposts.trans ?_, hvst, hpst, hflow, hmem⟩
      exact congrArg (h.p.ctx.posts.modify i.toNat) (funext droppedEntry_eq)
  · intro s h a e ha hf
    refine ⟨exec_ctxsv_misaligned ha hf, fun y hm ht hy => ?_, fun y v s1 hm ht hv hy => ?_, fun d hd =>
      ⟨fun kn hk => ?_, fun u p img hk hi => exec_ctxLoad_image ha hf hd hk hi, fun hk hi => ⟨?_, ?_⟩⟩⟩
    · have hkn : spFind h.p.knot (s.writeMem y.key y.pa (bytesOfNat h.k.tag.toNat 8)).knots = some h.k := by
        rw [State.onlyMem_writeMem s y.key y.pa (bytesOfNat h.k.tag.toNat 8)]
        exact State.knot_of_here ha.here
      have heq := State.modKnot_congr (s := s.writeMem y.key y.pa (bytesOfNat h.k.tag.toNat 8)) hkn
        (f := fun k => { k with tag := h.k.tag, serving := true }) (g := fun k => { k with serving := true }) rfl
      exact (exec_ctxsv_stores ha hf hm (if_neg ht) hy).trans (congrArg (fun t => Host.Outcome.next (servedOn t h)) heq)
    · have hfresh := s.freeTag_fresh
      obtain ⟨ps, hps⟩ := s.freeTag_state
      rw [hv] at hfresh hps
      obtain rfl : s1 = { s with picks := ps } := hps
      exact ⟨hfresh, exec_ctxsv_stores ha hf hm ((if_pos ht).trans hv) (inPlace_picks hy ps)⟩
    · obtain ⟨hload, hkill⟩ := exec_ctxLoad_held ha hf hd hk
      exact ⟨hload, hkill, fun k hk' => knot_endService hk'⟩
    · exact registerResult_of_gives fun _ _ _ _ =>
        ⟨_, exec_ctxLoad_none (e := e) ha hf hd hk hi _ (by simp), gives_scal_plain ha.here rfl rfl rfl rfl⟩
    · exact registerResult_of_gives fun _ _ _ _ =>
        ⟨_, exec_ctxLoad_none (e := e) ha hf hd hk hi _ (by simp), gives_scal_plain ha.here rfl rfl rfl rfl⟩

end Sys2Proof.Claims
end

section
/-! PROOF. STP, ATP and ATP VADD (R72 to R74, R78, R203 to R205). -/
namespace Sys2Proof.Claims
open Sys2Proof.Machine

/-- The lanes of a claim of a post instruction, sent from a state. -/
abbrev PostClaim.send (c : PostClaim) (s : State) (u : Nat) (rs : List (Nat × DWord × List Byte)) : Res State :=
  postLanes s u c.need c.host c.op c.code c.type rs

/-- The post that the model makes of a lane. -/
def PostClaim.lane (c : PostClaim) (h : Here) (r : Nat × DWord × List Byte) (pa : Nat) (key : Option Nat) : PostReq :=
  { lane := r.1, op := c.op, code := c.code, type := c.type, va := r.2.1, pa := pa, key := key, data := r.2.2, stamp := h.p.ctx.stamp }

/-- A post instruction of the model that does what a claim says. -/
theorem postOp_follows {h : Here} {g : Guard} {x a : VReg} {b : SReg} {e : Bool} {n : Nat} {need : Needs} {host : Bool} {op : PostOp}
    {code type : Nat} {off : Hints → DWord} {s : State}
    (hr : ∀ r ∈ [guardName g, vecName h a, scalName b] ++ groupNames h x.toNat (n / 4), h.p.ctx.stateOf r = .full)
    (ha : ∀ r ∈ laneReqs h g a b (off h.p.hints) x.toNat (n / 4), r.2.1.toNat % n = 0) :
    ∃ body, postOp g x a b e n need host op code type off = knotOp { imm := .any, defer := true } (isNever g) body ∧
      body s h = (postLanes s h.u need host op code type (laneReqs h g a b (off h.p.hints) x.toNat (n / 4)) >>= fun t => .ok (t.retire h.u)) := by
  refine ⟨_, rfl, ?_⟩
  have hsrc : checkSources s h.p (guardSource g :: [vecSource h.p.ctx a e, scalSource b e] ++ groupSources h.p.ctx x.toNat (n / 4) e) = .ok () :=
    checkSources_full s h.p fun q hq => by
      obtain hmem | h7 := lane_reads h g a b e x.toNat (n / 4) q hq
      · exact hr _ hmem
      · rw [h7]
        rfl
  simp only [hsrc, needAligned_ok s n _ ha, res_ok_bind]

/-- A post instruction whose registers are full and whose lanes are aligned sends its lanes (R203 to R205). -/
theorem exec_of_postClaim {s : State} {h : Here} {i : Instr} {c : PostClaim} (hc : postClaim h i = some c)
    (hr : ∀ r ∈ c.reads, h.p.ctx.stateOf r = .full) (ha : ∀ r ∈ c.reqs, r.2.1.toNat % c.size = 0) :
    ∃ body, exec i s = knotOp { imm := .any, defer := true } (isNever c.guard) body s ∧
      body s h = (c.send s h.u c.reqs >>= fun t => .ok (t.retire h.u)) := by
  unfold postClaim at hc
  split at hc
  case h_1 g x a b e z o =>
    cases hc
    obtain ⟨body, hop, hbody⟩ := postOp_follows (s := s) (e := e) (need := { rd := false, w := true }) (host := true) (op := .store)
      (code := 0) (type := stpType z) (off := fun h => memOffset h o z.bytes) hr ha
    exact ⟨body, congrFun hop s, hbody⟩
  case h_2 g x a b e o y =>
    cases hc
    obtain ⟨body, hop, hbody⟩ := postOp_follows (s := s) (e := e) (need := { rd := true, w := true }) (host := false) (op := .atom o y)
      (code := atomCode o) (type := atomTypeCode y) (off := atomOffset) hr ha
    exact ⟨body, congrFun hop s, hbody⟩
  case h_3 g x a b e p y =>
    cases hc
    obtain ⟨body, hop, hbody⟩ := postOp_follows (s := s) (e := e) (need := { rd := true, w := true }) (host := false) (op := .vadd p y)
      (code := 6 + p.toNat) (type := y.toNat) (off := atomOffset) hr ha
    exact ⟨body, congrFun hop s, hbody⟩
  case h_4 => cases hc

theorem atomCode_ne (o : AtomOp) : atomCode o ≠ 255 := by cases o <;> decide

/-- The OP of a post instruction's records is not that of a DEPDEC (R206). -/
theorem code_of_postClaim {h : Here} {i : Instr} {c : PostClaim} (hc : postClaim h i = some c) : c.code ≠ 255 := by
  unfold postClaim at hc
  split at hc
  case h_1 =>
    cases hc
    exact Nat.zero_ne_add_one 254
  case h_2 g x a b e o y =>
    cases hc
    exact atomCode_ne o
  case h_3 g x a b e p y =>
    cases hc
    have hp : p.toNat ≤ 1 := Bool.toNat_le p
    have hcode : 6 + p.toNat ≠ 255 := by omega
    exact hcode
  case h_4 => cases hc

section
variable {s t : State} {h : Here} {c : PostClaim} {r : Nat × DWord × List Byte} {home i : Nat} {e : PostEntry}

/-- A lane that its home's entry takes is in flight, and counts as sent (R72, R73, R205). -/
theorem sendPost_lane (hc : c.code ≠ 255) (he : EntryTakes h.p.ctx home i e) (pa : Nat) (key : Option Nat) :
    ∃ t, sendPost s h home 0 (c.lane h r pa key) = .ok t ∧
      t.modCtx h.u (fun x => { x with sent := x.sent ||| (1#1024 <<< r.1) }) = postedLane s h c home i e pa key r := by
  unfold sendPost
  rw [entryFor_ok he]
  simp only [PostClaim.lane, hc, ne_eq, not_true_eq_false, if_false, res_ok_bind]
  exact ⟨_, rfl, rfl⟩

/-- A lane that translates to a home that it may post to is charged there (R204). -/
theorem postLane_translates (hw : Walks s h [r.2.1]) {y : Target} (hy : s.translateLane h r.2.2.length c.need r.2.1 = .ok y)
    (hh : homeOf y.pa ≠ Config.hostHome ∨ c.host = true) :
    postLane s h c.need c.host c.op c.code c.type r = sendPost s h (homeOf y.pa) 0 (c.lane h r y.pa y.key) := by
  have hhost : (decide (homeOf y.pa = Config.hostHome) && !c.host) = false := by
    obtain hh | hh := hh
    · simp [hh]
    · simp [hh]
  simp only [postLane, walkAll_ok hw, res_ok_bind, hy, hhost, Bool.false_eq_true, if_false, PostClaim.lane]

/-- A lane that fails at issue is charged to an entry with its cause (R78, R204). -/
theorem postLane_fails (hw : Walks s h [r.2.1]) {cause : Nat} (hf : FailsAtIssue s h c r home cause) :
    ∃ pa key, postLane s h c.need c.host c.op c.code c.type r = sendPost s h home cause (c.lane h r pa key) ∧ cause ≠ 0 := by
  cases hf with
  | page ht => exact ⟨0, none, by simp only [postLane, walkAll_ok hw, res_ok_bind, ht, PostClaim.lane], by decide⟩
  | prot ht => exact ⟨0, none, by simp only [postLane, walkAll_ok hw, res_ok_bind, ht, PostClaim.lane], by decide⟩
  | host y ht hh hn =>
    refine ⟨y.pa, y.key, ?_, by decide⟩
    simp only [postLane, walkAll_ok hw, res_ok_bind, ht, hh, hn, decide_true, Bool.not_false, Bool.and_self, if_true, PostClaim.lane]

/-- A lane held at once (R78). -/
theorem sendPost_holds {s2 : State} {x : Held} (hc : c.code ≠ 255) (he : EntryTakes h.p.ctx home i e) {cause : Nat} (h0 : cause ≠ 0)
    (hw : s.writeHeld h.p.knot { home := h.p.home, area := 0, op := c.code, type := c.type, cause := cause, addr := r.2.1, lane := r.1
                                 seq := e.seq + 1, data := r.2.2 } = some (x, s2)) (pa : Nat) (key : Option Nat) :
    ∃ t, sendPost s h home cause (c.lane h r pa key) = .ok t ∧
      t.modCtx h.u (fun x => { x with sent := x.sent ||| (1#1024 <<< r.1) }) = heldLane s2 h i e x r := by
  unfold sendPost
  rw [entryFor_ok he]
  simp only [PostClaim.lane, hc, h0, ne_eq, not_false_eq_true, if_true, if_false, res_ok_bind, hw]
  exact ⟨_, rfl, rfl⟩

/-- The first lane still to be sent, when it goes or is held (R204). -/
theorem send_cons {t t' : State} (hh : s.here h.u = some h) (hs : h.p.ctx.sent.getLsbD r.1 = false)
    (hp : postLane s h c.need c.host c.op c.code c.type r = .ok t)
    (ht : t.modCtx h.u (fun x => { x with sent := x.sent ||| (1#1024 <<< r.1) }) = t') (rest : List (Nat × DWord × List Byte)) :
    c.send s h.u (r :: rest) = c.send t' h.u rest := by
  simp only [PostClaim.send, postLanes, hh, hs, Bool.false_eq_true, if_false, hp, ht]

/-- The first lane still to be sent, when it stops (R204). -/
theorem send_stop {x : Stop} (hh : s.here h.u = some h) (hs : h.p.ctx.sent.getLsbD r.1 = false)
    (hp : postLane s h c.need c.host c.op c.code c.type r = .error x) (rest : List (Nat × DWord × List Byte)) :
    c.send s h.u (r :: rest) = .error x := by
  simp only [PostClaim.send, postLanes, hh, hs, Bool.false_eq_true, if_false, hp]

/-- Lanes that go out leave the others to be sent (R204). -/
theorem send_of_postsGo {u : Nat} (hc : c.code ≠ 255) (rest : List (Nat × DWord × List Byte)) :
    ∀ {rs : List (Nat × DWord × List Byte)} {s : State}, PostsGo u c s rs t → c.send s u (rs ++ rest) = c.send t u rest
  | [], s, hg => by
    obtain rfl : t = s := hg
    rfl
  | r :: rs, s, hg => by
    obtain ⟨h, y, i, e, hh, rfl, hs, hw, hy, hhost, he, hrest⟩ := hg
    obtain ⟨t1, ht1, hsent⟩ := sendPost_lane (s := s) (r := r) hc he y.pa y.key
    rw [List.cons_append, send_cons hh hs ((postLane_translates hw hy hhost).trans ht1) hsent]
    exact send_of_postsGo hc rest hrest

/-- A context but for its post table and the lanes that count as sent. -/
def Ctx.SendsFrom (c d : Ctx) : Prop := d = { c with posts := d.posts, sent := d.sent }

/-- What lanes that go out change: the post table of their path, and the posts in flight (R72). -/
theorem postsGo_keeps {u : Nat} : ∀ {rs : List (Nat × DWord × List Byte)} {s : State} {h : Here}, PostsGo u c s rs t →
    s.here u = some h → t.mem = s.mem ∧ t.flow.posts.length = s.flow.posts.length + rs.length ∧
      ∃ h', t.here u = some h' ∧ Ctx.SendsFrom h.p.ctx h'.p.ctx
  | [], s, h, hg, hh => by
    obtain rfl : t = s := hg
    exact ⟨rfl, rfl, h, hh, rfl⟩
  | r :: rs, s, h, hg, hh => by
    obtain ⟨h1, y, i, e, hh1, rfl, -, -, -, -, -, hrest⟩ := hg
    obtain rfl : h = h1 := Option.some.inj (hh.symm.trans hh1)
    have hflight := State.here_modPath (s := { s with uid := s.uid + 1 }) hh
      (f := fun p => { p with ctx := { p.ctx with posts := p.ctx.posts.modify i fun _ => { e with seq := e.seq + 1, outst := e.outst + 1 } } }) rfl
    have hposted : (postedLane s h c (homeOf y.pa) i e y.pa y.key r).here h.u = some _ :=
      State.here_modPath (f := fun p => { p with ctx := { p.ctx with sent := p.ctx.sent ||| (1#1024 <<< r.1) } }) hflight rfl
    obtain ⟨hmem, hlen, h', hh', hctx⟩ := postsGo_keeps hrest hposted
    refine ⟨hmem, hlen.trans ?_, h', hh', hctx⟩
    have hone : (postedLane s h c (homeOf y.pa) i e y.pa y.key r).flow.posts.length = s.flow.posts.length + 1 := List.length_append
    rw [hone, List.length_cons, Nat.add_assoc, Nat.add_comm 1]

/-- A lane whose entry finds no place stops as its search for the entry stops (R74). -/
theorem sendPost_stops {addr : DWord} {x : Stop} {q : PostReq} (hq : q.code ≠ 255) (ha : q.va = addr) {cause : Nat}
    (he : entryFor s h home q.lane addr = .error x) : sendPost s h home cause q = .error x := by
  unfold sendPost
  rw [if_neg hq, ha, he]
  rfl

theorem entryFor_faulted (hf : findIdx (fun x => x.valid && x.home == home) h.p.ctx.posts = some (i, e)) (he : e.faulted = true) (lane : Nat)
    (addr : DWord) : entryFor s h home lane addr = .error (.trap { code := .postfault, lane := lane, addr := addr } s) := by
  simp only [entryFor, hf, he, if_true]

theorem entryFor_full (hf : findIdx (fun x => x.valid && x.home == home) h.p.ctx.posts = some (i, e)) (he : e.faulted = false)
    (hr : e.outst = 4095 ∨ e.seq = 4194303) (lane : Nat) (addr : DWord) : entryFor s h home lane addr = .error (.wait .post s) := by
  have hroom : (decide (e.outst = 4095) || decide (e.seq = 4194303)) = true := by simpa using hr
  simp only [entryFor, hf, he, Bool.false_eq_true, if_false, hroom, if_true]

theorem findIdx_eq_none {α : Type} {p : α → Bool} : ∀ {l : List α}, (∀ a ∈ l, p a = false) → findIdx p l = none
  | [], _ => rfl
  | a :: l, h => by
    have ha := h a List.mem_cons_self
    simp only [findIdx, ha, Bool.false_eq_true, if_false, findIdx_eq_none fun b hb => h b (List.mem_cons_of_mem _ hb), Option.map_none]

/-- A home without an entry, where every entry is another's (R74). -/
theorem entryFor_taken (ht : ∀ e ∈ h.p.ctx.posts, e.valid = true ∧ e.home ≠ home) (lane : Nat) (addr : DWord) :
    entryFor s h home lane addr = if h.p.ctx.posts.all fun e => e.faulted then
      .error (.trap { code := .postfault, lane := lane, addr := addr } s) else .error (.wait .post s) := by
  have hhome : findIdx (fun x => x.valid && x.home == home) h.p.ctx.posts = none := findIdx_eq_none fun e he => by simp [(ht e he).2]
  have hfree : findIdx (fun x => !x.valid) h.p.ctx.posts = none := findIdx_eq_none fun e he => by simp [(ht e he).1]
  simp only [entryFor, hhome, hfree]

/-- What a held record says, from the record that was to be written (R78). -/
theorem writeHeld_eq {s2 : State} {knot : Nat} {q x : Held} (hw : s.writeHeld knot q = some (x, s2)) : ∃ off, x = { q with area := off } := by
  unfold State.writeHeld at hw
  split at hw
  · cases hw
  · next off s1 _ =>
    cases hw
    exact ⟨off, rfl⟩

end

section
variable {s s1 : State} {h h1 : Here} {i : Instr} {c : PostClaim} {before after : List (Nat × DWord × List Byte)}
  {r : Nat × DWord × List Byte}

/-- A post instruction all of whose lanes go out (R203 to R205). -/
theorem exec_post_sends {t : State} (hc : postClaim h i = some c) (ha : Admits s h.u h { imm := .any, defer := true }) (hg : c.guard ≠ 15)
    (hr : ∀ r ∈ c.reads, h.p.ctx.stateOf r = .full) (hal : ∀ r ∈ c.reqs, r.2.1.toNat % c.size = 0) (ht : c.send s h.u c.reqs = .ok t) :
    exec i s = .next (t.retire h.u) := by
  obtain ⟨body, hexec, hbody⟩ := exec_of_postClaim (s := s) hc hr hal
  refine exec_of_ok ha hexec (isNever_false hg) ?_
  rw [hbody, ht, res_ok_bind]

/-- A post instruction that stops at a lane, once those before it have gone (R204). -/
theorem send_stops (hc : postClaim h i = some c) (hs : c.reqs = before ++ r :: after) (hb : PostsGo h.u c s before s1)
    (hh : s1.here h.u = some h1) (hn : h1.p.ctx.sent.getLsbD r.1 = false) {x : Stop}
    (hp : postLane s1 h1 c.need c.host c.op c.code c.type r = .error x) : c.send s h.u c.reqs = .error x := by
  have hu := State.here_u hh
  rw [hs, send_of_postsGo (code_of_postClaim hc) _ hb, ← hu]
  rw [← hu] at hh
  exact send_stop hh hn hp after

theorem exec_post_trap (hc : postClaim h i = some c) (ha : Admits s h.u h { imm := .any, defer := true }) (hg : c.guard ≠ 15)
    (hr : ∀ r ∈ c.reads, h.p.ctx.stateOf r = .full) (hal : ∀ r ∈ c.reqs, r.2.1.toNat % c.size = 0) {x : Trap}
    (ht : c.send s h.u c.reqs = .error (.trap x s1)) : exec i s = .next (s1.takeTrap h.u x) := by
  obtain ⟨body, hexec, hbody⟩ := exec_of_postClaim (s := s) hc hr hal
  refine exec_of_trap ha hexec (isNever_false hg) ?_
  rw [hbody, ht]
  rfl

theorem exec_post_wait (hc : postClaim h i = some c) (ha : Admits s h.u h { imm := .any, defer := true }) (hg : c.guard ≠ 15)
    (hr : ∀ r ∈ c.reads, h.p.ctx.stateOf r = .full) (hal : ∀ r ∈ c.reqs, r.2.1.toNat % c.size = 0) {w : Wait}
    (ht : c.send s h.u c.reqs = .error (.wait w s1)) : exec i s = .next (s1.block h.u w) := by
  obtain ⟨body, hexec, hbody⟩ := exec_of_postClaim (s := s) hc hr hal
  refine exec_of_wait ha hexec (isNever_false hg) ?_
  rw [hbody, ht]
  rfl

end

/-- Settles O17: the lanes go out one by one, by induction on them; a lane stops as the search for its home's entry stops, and one that
fails at issue is charged to the entry that it finds. -/
theorem postsComplete : Obligations.PostsComplete := by
  unfold Obligations.PostsComplete
  refine ⟨?_, ?_⟩
  · intro s t h i c hc ha hg hr hal hgo
    obtain ⟨hmem, hlen, h', hh', hctx⟩ := postsGo_keeps hgo ha.here
    have hsend : c.send s h.u c.reqs = .ok t := by
      have hgone := send_of_postsGo (code_of_postClaim hc) [] hgo
      rwa [List.append_nil] at hgone
    refine ⟨exec_post_sends hc ha hg hr hal hsend, hmem, hlen, _, State.path?_of_here (State.here_retire hh'), ?_⟩
    have hadv : ∀ d : Ctx, Ctx.SendsFrom h.p.ctx d → d.advance.pc = h.p.ctx.pc + 4 ∧ d.advance.scal = h.p.ctx.scal ∧
        d.advance.vst = h.p.ctx.vst ∧ d.advance.sst = h.p.ctx.sst ∧ d.advance.pst = h.p.ctx.pst ∧ d.advance.fpstat = h.p.ctx.fpstat := by
      rintro d hd
      rw [hd]
      exact ⟨rfl, rfl, rfl, rfl, rfl, rfl⟩
    exact hadv h'.p.ctx hctx
  · intro s s1 h h1 i c before after r hc ha hg hr hal hs hb hh hn hw
    have hcode := code_of_postClaim hc
    have hu : h1.u = h.u := State.here_u hh
    refine ⟨fun y hy hhost => ⟨fun n e hf => ⟨fun he => ?_, fun he hroom => ?_⟩, fun htaken => ⟨fun hall => ?_, fun hsome => ?_⟩⟩, ?_⟩
    · exact exec_post_trap hc ha hg hr hal (send_stops hc hs hb hh hn
        ((postLane_translates hw hy hhost).trans (sendPost_stops hcode rfl (entryFor_faulted hf he _ _))))
    · exact exec_post_wait hc ha hg hr hal (send_stops hc hs hb hh hn
        ((postLane_translates hw hy hhost).trans (sendPost_stops hcode rfl (entryFor_full hf he hroom _ _))))
    · have hentry := (entryFor_taken (s := s1) htaken r.1 r.2.1).trans (if_pos (by simpa using hall))
      exact exec_post_trap hc ha hg hr hal (send_stops hc hs hb hh hn
        ((postLane_translates hw hy hhost).trans (sendPost_stops hcode rfl hentry)))
    · have hentry := (entryFor_taken (s := s1) htaken r.1 r.2.1).trans (if_neg (by simpa using hsome))
      exact exec_post_wait hc ha hg hr hal (send_stops hc hs hb hh hn
        ((postLane_translates hw hy hhost).trans (sendPost_stops hcode rfl hentry)))
    · intro home cause n e x s2 t hf he hheld hgo
      obtain ⟨pa, key, hlane, h0⟩ := postLane_fails hw hf
      obtain ⟨t1, ht1, hsent⟩ := sendPost_holds hcode he h0 hheld pa key
      obtain ⟨off, rfl⟩ := writeHeld_eq hheld
      refine ⟨exec_post_sends hc ha hg hr hal ?_, rfl, rfl, rfl⟩
      rw [hs, send_of_postsGo hcode _ hb, ← hu, send_cons (hu ▸ hh) hn (hlane.trans ht1) hsent, hu]
      have hgone := send_of_postsGo hcode [] hgo
      rwa [List.append_nil] at hgone

end Sys2Proof.Claims
end

section
/-! PROOF. A post to a poisoned sector of a line that the host holds modified (R78, R327, R332). -/
namespace Sys2Proof.Claims
open Sys2Proof.Machine

/-- The post above in flight to sector 0x100, which is poisoned, and whose line the host holds modified. -/
def staleMem : MemSt := { wideMem with poison := [0x100], lines := [(0x80, List.replicate 64 0)] }
def staleState : State := { wideState with mem := staleMem, flow := { FlowSt.reset with posts := [sentPost] } }

theorem postDue_staleState : PostDue staleState sentPost :=
  ⟨by decide +kernel, by decide +kernel, by decide +kernel⟩

/-- The recall writes the line back, which clears the poison, and the post is performed: nothing is held. -/
theorem acks_staleState {t : State} (ht : exec (.postPerform 1) staleState = .next t) : ∀ a ∈ t.flow.acks, a.held = none := by
  have he : (match exec (.postPerform 1) staleState with
    | .next t => decide (∀ a ∈ t.flow.acks, a.held = none)
    | _ => false) = true := by decide +kernel
  rw [ht] at he
  exact of_decide_eq_true he

/-- Refutes O18: the clause of a post that meets poison does not ask that the host holds none of its lines modified. The recall of a
modified line writes it back whole, which clears the poison of its sectors (R327, R332), and the post is then performed; the statement asks
that it is held with cause 3. -/
theorem not_postsArePerformed : ¬ Obligations.PostsArePerformed := by
  unfold Obligations.PostsArePerformed
  rintro ⟨-, -, hheld, -⟩
  obtain ⟨t, r, a, ht, -, hacks, -, -, hr, -⟩ := hheld staleState sentPost 3 postDue_staleState (by decide +kernel) (by decide +kernel)
    (.inr (.inl ⟨by decide +kernel, nofun, by decide +kernel, rfl⟩))
  have hnone := acks_staleState ht a (by rw [hacks]; exact List.mem_append_right _ (List.mem_singleton_self a))
  rw [hr] at hnone
  cases hnone

end Sys2Proof.Claims
end

section
/-! PROOF. A host write to a line that the host holds modified, of fewer than 64 bytes (R327). -/
namespace Sys2Proof.Claims
open Sys2Proof.Machine

/-- The state above, in whose table of modified lines the line of 0x1000 is listed with no bytes; memory holds 7 at 0x1008. -/
def shortLine : State := { wideState with mem := { wideMem with lines := [(0x40, [])] } }

/-- The write recalls the line, and the ninth of its bytes is then the 7 of memory. -/
theorem readByte_shortLine {t : State} (ht : exec (.hostAccess (.write 0x1000 [1])) shortLine = .next t) : t.mem.readByte none 0x1008 = 7 := by
  have he : (match exec (.hostAccess (.write 0x1000 [1])) shortLine with
    | .next t => t.mem.readByte none 0x1008
    | _ => 0) = 7 := by decide +kernel
  rwa [ht] at he

/-- Refutes O47: the clause of a host write lists as changed only the bytes that a modified line holds, and does not ask that it holds 64.
The bytes past the end of a shorter line read 0 while the line is listed, and what memory holds once the write has recalled it. -/
theorem not_hostAndServiceEvents : ¬ Obligations.HostAndServiceEvents := by
  unfold Obligations.HostAndServiceEvents
  intro hall
  obtain ⟨-, -, hwrite, -⟩ := hall shortLine
  obtain ⟨t, ht, -, hsame, -⟩ := hwrite 0x1000 [1] (by decide +kernel) (by decide +kernel) (by decide +kernel)
  have hbefore : shortLine.mem.readByte none 0x1008 = 0 := by decide +kernel
  have hkept := hsame.stored 0x1008 fun htouched => by
    obtain ⟨-, hpast⟩ | ⟨j, hj, line, hline, hlow, hhigh⟩ := htouched
    · exact absurd hpast (by decide)
    · have hlines : linesOf 0x1000 1 = [0x40] := by decide +kernel
      have hj1 : j ∈ linesOf 0x1000 1 := hj
      rw [hlines] at hj1
      obtain rfl := List.mem_singleton.mp hj1
      obtain rfl : [] = line := Option.some.inj hline
      exact absurd hhigh (by decide)
  rw [hbefore, readByte_shortLine ht] at hkept
  exact absurd hkept (by decide)

end Sys2Proof.Claims
end

section
/-! PROOF. Sectors of copies (R89, R236, R241, R243). -/
namespace Sys2Proof.Machine

theorem State.mover?_eq_some {s : State} {c : Nat} {m : MHere} :
    s.mover? c = some m ↔ spFind c s.crews = some m.crew ∧ m.crew.engine = some m.e ∧ m.c = c := by
  obtain ⟨mc, w, e⟩ := m
  unfold State.mover?
  split
  · next hn => simp [hn]
  · next v hv =>
    rw [hv, Option.map_eq_some_iff]
    constructor
    · rintro ⟨x, hx, he⟩
      cases he
      exact ⟨rfl, hx, rfl⟩
    · rintro ⟨hw, he, rfl⟩
      cases hw
      exact ⟨e, he, rfl⟩

/-- An engine changed in its crew. -/
theorem State.crew_modEngine {s : State} {c : Nat} {w : Crew} {e : Engine} (hw : spFind c s.crews = some w) (he : w.engine = some e)
    (f : Engine → Engine) : spFind c (s.modEngine c f).crews = some { w with engine := some (f e) } := by
  refine (spFind_spModify_same c _ s.crews).trans ?_
  rw [hw, Option.map_some, he, Option.map_some]

/-- Walks change memory at most. -/
theorem State.onlyMem_walked (reads : List Nat) : ∀ s : State, s.OnlyMem (s.walked reads) := by
  induction reads with
  | nil => exact fun s => rfl
  | cons pa reads ih => exact fun s => (s.onlyMem_recall false pa 8).trans (ih _)

/-- A recall clears poison at most (R332). -/
theorem MemSt.poison_recallLine {m : MemSt} {key : Option Config.KeyId} {wr : Bool} {line sec : Nat}
    (h : sec ∈ (m.recallLine key wr line).poison) : sec ∈ m.poison := by
  unfold MemSt.recallLine at h
  split at h
  · split at h
    all_goals
      simp only [MemSt.heal, MemSt.writeBytes_poison] at h
      exact (List.mem_filter.mp h).1
  · split at h
    all_goals exact h

theorem State.poison_recall {s : State} {wr : Bool} {pa n sec : Nat} (h : sec ∈ (s.recall wr pa n).mem.poison) : sec ∈ s.mem.poison := by
  have hfold : ∀ (ls : List Nat) (m : MemSt) (k : Option Config.KeyId), sec ∈ (ls.foldl (fun m l => m.recallLine k wr l) m).poison →
      sec ∈ m.poison := fun ls => by
    induction ls with
    | nil => exact fun _ _ h => h
    | cons l ls ih => exact fun m k h => MemSt.poison_recallLine (ih _ k h)
  unfold State.recall at h
  split at h
  · exact h
  · exact hfold _ _ _ h

theorem State.poisoned_recall {s : State} {a k : Nat} (h : s.mem.poisoned a k = false) (wr : Bool) (pa n : Nat) :
    (s.recall wr pa n).mem.poisoned a k = false := by
  unfold MemSt.poisoned at h ⊢
  rw [List.any_eq_false] at h ⊢
  exact fun sec hsec => h sec (State.poison_recall hsec)

end Sys2Proof.Machine

namespace Sys2Proof.Claims
open Sys2Proof.Machine

section
variable {s s1 : State} {m : MHere} {c : Copy} {x : Sector}

theorem SectorGoes.onlyMem (hg : SectorGoes s m c x s1) : s.OnlyMem s1 := hg.walked ▸ State.onlyMem_walked _ s

/-- The crew of a sector and its engine, after the walks of its turn. -/
theorem SectorGoes.crew (hg : SectorGoes s m c x s1) : spFind m.c s1.crews = some m.crew ∧ m.crew.engine = some m.e := by
  obtain ⟨hw, he, -⟩ := State.mover?_eq_some.mp hg.mover
  rw [hg.onlyMem]
  exact ⟨hw, he⟩

/-- What the turn of a sector does, from the state after its walks (R243). -/
def sectorTurn (m : MHere) (c : Copy) (x : Sector) (s1 : State) : State :=
  match x.data with
  | some bs => if c.ahead && !c.sectors.all (fun y => y.data.isSome) then s1 else (s1.finishSector m c x bs).bump
  | none =>
    match s1.sectorRead m x with
    | .error code => (s1.copyFaults m c x code x.src).bump
    | .ok (bs, s2) =>
      (s2.modEngine m.c fun e => e.modCopy c.id fun ss => ss.map fun y => if y.idx = x.idx then { y with data := some bs } else y).bump

theorem exec_copySector (hg : SectorGoes s m c x s1) : exec (.copySector m.c c.id x.idx) s = .next (sectorTurn m c x s1) := by
  have hgo : (s.sectorWaits m c x m.e.copies || s.sectorHalted m x.next.1 x.next.2 ||
      s.walkStalled (s.moverReads m x.next.1 x.next.2)) = false := by
    rw [hg.order, hg.running, hg.entries]
    rfl
  refine congrArg event (?_ : _ = sectorTurn m c x s1)
  simp only [hg.mover, hg.copy, hg.sector, hgo, Bool.false_eq_true, if_false, ← hg.walked]
  rfl

/-- A read sector keeps its copy listed, with its data. -/
theorem find?_modCopy {id : Nat} {f : List Sector → List Sector} (hf : f c.sectors ≠ []) : ∀ {cs : List Copy},
    (cs.find? fun d => d.id == id) = some c →
    (((cs.map fun d => if d.id = id then { d with sectors := f d.sectors } else d).filter fun d => !d.sectors.isEmpty).find?
      fun d => d.id == id) = some { c with sectors := f c.sectors }
  | [], h => by cases h
  | a :: cs, h => by
    rw [List.map_cons]
    by_cases ha : a.id = id
    · have hac : a = c := by simpa [ha] using h
      subst hac
      have hne : (f a.sectors).isEmpty = false := List.isEmpty_eq_false_iff.mpr hf
      rw [if_pos ha, List.filter_cons_of_pos (by simp [hne]), List.find?_cons_of_pos (by simp [ha])]
    · have hrest : (cs.find? fun d => d.id == id) = some c := by simpa [ha] using h
      rw [if_neg ha, List.filter_cons]
      split
      · rw [List.find?_cons_of_neg (by simp [ha])]
        exact find?_modCopy hf hrest
      · exact find?_modCopy hf hrest

/-- An engine whose copies are those of `e` without the sector, and whose other handles are those of `e`. -/
theorem sectorOver_of {e e' : Engine} (hc : e'.copies = (e.modCopy c.id fun ss => ss.filter fun y => y.idx != x.idx).copies)
    (hh : ∀ j, j ≠ c.handle → e'.handle j = e.handle j) : SectorOver e e' c x := by
  refine ⟨fun d hd hid z hz => ?_, fun d hd hid hs => ?_, hh⟩
  · rw [hc] at hd
    obtain ⟨y, -, rfl⟩ := List.mem_map.mp (List.mem_filter.mp hd).1
    split at hz
    · simpa using (List.mem_filter.mp hz).2
    · next hy => exact absurd hid (by simp [hy])
  · rw [hc]
    exact List.mem_filter.mpr ⟨List.mem_map.mpr ⟨d, hd, if_neg hid⟩, by simpa using hs⟩

/-- A sector is read when its source can be (R89). -/
theorem sectorRead_of_sourceIs {bs : List Byte} {s2 : State} (h : SourceIs s1 m x bs s2) : s1.sectorRead m x = .ok (bs, s2) := by
  unfold State.sectorRead
  obtain ⟨hpad, hbound, hplane, hclean, rfl, rfl⟩ | ⟨hpad, y, hy, hclean, rfl, rfl⟩ := h
  · simp only [hpad, if_true, Crew.padFault, if_neg (Nat.not_lt.mpr hbound), hplane, Bool.false_eq_true, if_false, hclean]
  · simp only [hpad, Bool.false_eq_true, if_false, hy, State.poisoned_recall hclean]

/-- The turn of a sector that is read (R243). -/
theorem sectorTurn_reads {bs : List Byte} {s2 : State} (hg : SectorGoes s m c x s1) (hx : x.data = none) (hs : SourceIs s1 m x bs s2) :
    ∃ e d, (sectorTurn m c x s1).mem = s2.mem ∧ (sectorTurn m c x s1).stks = s.stks ∧ (sectorTurn m c x s1).paths = s.paths ∧
      spFind m.c (sectorTurn m c x s1).crews = some { m.crew with engine := some e } ∧ e.handles = m.e.handles ∧ e.mover = m.e.mover ∧
      (e.copies.find? fun d => d.id == c.id) = some d ∧
      d = { c with sectors := c.sectors.map fun y => if y.idx = x.idx then { y with data := some bs } else y } := by
  have hturn : sectorTurn m c x s1 = (s2.modEngine m.c fun e => e.modCopy c.id fun ss =>
      ss.map fun y => if y.idx = x.idx then { y with data := some bs } else y).bump := by
    simp only [sectorTurn, hx, sectorRead_of_sourceIs hs]
  have hmem : s1.OnlyMem s2 := by
    obtain ⟨-, -, -, -, -, rfl⟩ | ⟨-, y, -, -, rfl, -⟩ := hs
    · rfl
    · exact s1.onlyMem_recall false y.pa 32
  have hall := hg.onlyMem.trans hmem
  obtain ⟨hw, he, -⟩ := State.mover?_eq_some.mp hg.mover
  have hw2 : spFind m.c s2.crews = some m.crew := by rw [hall]; exact hw
  have hsectors : c.sectors ≠ [] := fun hnil => by
    have hmem := hg.sector
    rw [hnil] at hmem
    cases hmem
  have hne : (c.sectors.map fun y => if y.idx = x.idx then { y with data := some bs } else y) ≠ [] := by simpa using hsectors
  rw [hturn]
  refine ⟨_, _, rfl, by rw [hall]; rfl, by rw [hall]; rfl, State.crew_modEngine hw2 he _, rfl, rfl, ?_, rfl⟩
  exact find?_modCopy (f := fun ss => ss.map fun y => if y.idx = x.idx then { y with data := some bs } else y) hne hg.copy

/-- The fault of a sector reaches its engine (R241). -/
theorem crew_reach {t : State} {n : Nat} {w : Crew} {e : Engine} (hw : spFind n t.crews = some w) (he : w.engine = some e) (f : MoveFault) :
    ∃ e', spFind n (t.reach n f).crews = some { w with engine := some e' } ∧ e'.handles = e.handles ∧ e'.copies = e.copies ∧
      (e.mover.run = .running → e.mover.pending = none → e'.mover.pending = some f) := by
  refine ⟨_, State.crew_modEngine hw he _, rfl, rfl, fun hrun hnone => ?_⟩
  simp only [hrun, hnone, beq_self_eq_true, Option.isNone_none, Bool.and_self, if_true]

/-- The turn of a sector whose source cannot be read (R89, R236, R241). -/
theorem sectorTurn_fails {code : TrapCode} (hg : SectorGoes s m c x s1) (hx : x.data = none) (hs : s1.sectorRead m x = .error code) :
    ∃ e, (sectorTurn m c x s1).mem = s1.mem ∧ spFind m.c (sectorTurn m c x s1).crews = some { m.crew with engine := some e } ∧
      e.handle c.handle = { m.e.handle c.handle with faulted := true } ∧ e.copies = m.e.copies.filter (fun d => d.id != c.id) ∧
      (m.e.mover.run = .running → m.e.mover.pending = none → e.mover.pending = some (sectorFault c x code x.src)) := by
  have hturn : sectorTurn m c x s1 = (s1.copyFaults m c x code x.src).bump := by
    simp only [sectorTurn, hx, hs]
  obtain ⟨hw, he⟩ := hg.crew
  obtain ⟨e, hcrew, hhandles, hcopies, hpend⟩ := crew_reach (State.crew_modEngine hw he fun e =>
    { e.faultHandle c.handle with copies := e.copies.filter fun d => d.id != c.id }) rfl (sectorFault c x code x.src)
  rw [hturn]
  refine ⟨e, rfl, hcrew, ?_, hcopies, hpend⟩
  have hhandle : e.handle c.handle = spGet .blank (spPut c.handle { m.e.handle c.handle with faulted := true } m.e.handles) c.handle :=
    congrArg (fun hs => spGet HandleReg.blank hs c.handle) hhandles
  rw [hhandle, spGet_spPut, if_pos rfl]

/-- The turn of a sector of a copy that reads ahead (R245). -/
theorem sectorTurn_ahead {bs : List Byte} (hx : x.data = some bs) (ha : c.ahead = true) (hn : ∃ y ∈ c.sectors, y.data = none) :
    sectorTurn m c x s1 = s1 := by
  have hall : c.sectors.all (fun y => y.data.isSome) = false := by
    obtain ⟨y, hy, hnone⟩ := hn
    exact List.all_eq_false.mpr ⟨y, hy, by simp [hnone]⟩
  simp only [sectorTurn, hx, ha, hall, Bool.not_false, Bool.and_self, if_true]

/-- The turn of a sector whose data reaches its handle (R243). -/
theorem sectorTurn_finishes {bs : List Byte} (hx : x.data = some bs) (ha : c.ahead = false ∨ ∀ y ∈ c.sectors, y.data ≠ none) :
    sectorTurn m c x s1 = (s1.finishSector m c x bs).bump := by
  have hgo : (c.ahead && !c.sectors.all (fun y => y.data.isSome)) = false := by
    obtain hf | hall := ha
    · rw [hf, Bool.false_and]
    · have hall' : c.sectors.all (fun y => y.data.isSome) = true :=
        List.all_eq_true.mpr fun y hy => Option.isSome_iff_ne_none.mpr (hall y hy)
      rw [hall', Bool.not_true, Bool.and_false]
  simp only [sectorTurn, hx, hgo, Bool.false_eq_true, if_false]

/-- The engine without a sector of a copy. -/
def withoutSector (c : Copy) (x : Sector) (e : Engine) : Engine := e.modCopy c.id fun ss => ss.filter fun y => y.idx != x.idx

/-- A sector for a full or draining handle is discarded (R236). -/
theorem finishSector_discards {bs : List Byte} (hr : (m.e.handle c.handle).state = .full ∨ (m.e.handle c.handle).state = .draining) :
    s1.finishSector m c x bs = (s1.modEngine m.c (withoutSector c x)).reach m.c (sectorFault c x .handle 0) := by
  unfold State.finishSector
  obtain hr | hr := hr
  all_goals
    simp only [hr]
    rfl

/-- A sector for a free or filling handle is written and credited (R236, R243). -/
theorem finishSector_writes {bs : List Byte} {s2 : State}
    (hr : (m.e.handle c.handle).state = .free ∨ (m.e.handle c.handle).state = .filling) (hw : s1.sectorWrite m x bs = .ok s2) :
    s1.finishSector m c x bs =
      (s2.modEngine m.c (withoutSector c x)).modEngine m.c fun e => e.setHandle c.handle (e.handle c.handle).credit := by
  unfold State.finishSector
  obtain hr | hr := hr
  all_goals
    simp only [hr, hw]
    rfl

theorem credit_eq_credited (r : HandleReg) : r.credit = credited r := by
  simp only [HandleReg.credit, credited, Bool.and_eq_true, beq_iff_eq, Bool.not_eq_true', and_assoc]

/-- The crew after a sector is written and credited, from the crew of the state after the write. -/
theorem crew_finishes {s2 : State} {w : Crew} (hw : spFind m.c s2.crews = some w) (he : w.engine = some m.e) :
    ∃ e, spFind m.c ((s2.modEngine m.c (withoutSector c x)).modEngine m.c fun e =>
        e.setHandle c.handle (e.handle c.handle).credit).crews = some { w with engine := some e } ∧
      e.handle c.handle = credited (m.e.handle c.handle) ∧ SectorOver m.e e c x := by
  refine ⟨_, State.crew_modEngine (State.crew_modEngine hw he _) rfl _, ?_, sectorOver_of rfl fun j hj => ?_⟩
  · rw [← credit_eq_credited]
    exact (spGet_spPut _ _ _ _ _).trans (if_pos rfl)
  · exact (spGet_spPut _ _ _ _ _).trans (if_neg hj)

/-- The turn of a sector that is discarded (R236, R241). -/
theorem sectorTurn_discards {bs : List Byte} (hg : SectorGoes s m c x s1) (hx : x.data = some bs)
    (ha : c.ahead = false ∨ ∀ y ∈ c.sectors, y.data ≠ none)
    (hr : (m.e.handle c.handle).state = .full ∨ (m.e.handle c.handle).state = .draining) :
    ∃ e, (sectorTurn m c x s1).mem = s1.mem ∧ spFind m.c (sectorTurn m c x s1).crews = some { m.crew with engine := some e } ∧
      e.handle c.handle = m.e.handle c.handle ∧ SectorOver m.e e c x ∧
      (m.e.mover.run = .running → m.e.mover.pending = none → e.mover.pending = some (sectorFault c x .handle 0)) := by
  obtain ⟨hw, he⟩ := hg.crew
  obtain ⟨e, hcrew, hhandles, hcopies, hpend⟩ :=
    crew_reach (State.crew_modEngine hw he (withoutSector c x)) rfl (sectorFault c x .handle 0)
  have hhandle : ∀ j, e.handle j = m.e.handle j := fun j => congrArg (fun hs => spGet HandleReg.blank hs j) hhandles
  rw [sectorTurn_finishes hx ha, finishSector_discards hr]
  exact ⟨e, rfl, hcrew, hhandle _, sectorOver_of hcopies fun j _ => hhandle j, hpend⟩

/-- The turn of a sector that is written to memory (R89, R243). -/
theorem sectorTurn_writes {bs : List Byte} {y : Target} (hg : SectorGoes s m c x s1) (hx : x.data = some bs)
    (ha : c.ahead = false ∨ ∀ y ∈ c.sectors, y.data ≠ none)
    (hr : (m.e.handle c.handle).state = .free ∨ (m.e.handle c.handle).state = .filling) (hd : x.dpad = false)
    (hy : s1.moverTarget m 32 { rd := false, w := true } x.dst = .ok y) (hwf : s1.mem.wf = true) (hl : bs.length = 32)
    (hlines : ∀ line ∈ linesOf y.pa 32, spFind line s1.mem.lines = none) :
    ∃ e, (sectorTurn m c x s1).readMem y.key y.pa 32 = bs ∧
      s1.mem.SameBut (sectorTurn m c x s1).mem (fun a => y.pa ≤ a ∧ a < y.pa + 32) ∧
      spFind m.c (sectorTurn m c x s1).crews = some { m.crew with engine := some e } ∧
      e.handle c.handle = credited (m.e.handle c.handle) ∧ SectorOver m.e e c x := by
  obtain ⟨hw, he⟩ := hg.crew
  have hwrite : s1.sectorWrite m x bs = .ok (s1.writeMem y.key y.pa bs) := by
    simp only [State.sectorWrite, hd, Bool.false_eq_true, if_false, hy]
  have hw2 : spFind m.c (s1.writeMem y.key y.pa bs).crews = some m.crew := by
    rw [State.onlyMem_writeMem s1 y.key y.pa bs]
    exact hw
  obtain ⟨e, hcrew, hhandle, hover⟩ := crew_finishes (c := c) (x := x) hw2 he
  rw [← hl] at hlines ⊢
  rw [sectorTurn_finishes hx ha, finishSector_writes hr hwrite]
  exact ⟨e, State.readMem_writeMem hwf y.key y.pa bs hlines, State.sameBut_writeMem hwf y.key y.pa bs hlines, hcrew, hhandle, hover⟩

/-- The bytes of a range are those that are read there. -/
theorem cellRead_eq_map (l : List Host.Cell) : ∀ (n a : Nat), cellRead l a n = (List.range n).map fun i => cellGet l (a + i)
  | 0, _ => rfl
  | n + 1, a => by
    rw [cellRead, cellRead_eq_map l n (a + 1), List.range_succ_eq_map, List.map_cons, List.map_map]
    simp only [Function.comp_def, Nat.add_zero, Nat.succ_eq_add_one, Nat.add_assoc, Nat.add_comm 1]

/-- Bytes written are the bytes that are read there next. -/
theorem cellRead_cellWrite {l : List Host.Cell} (hl : spRising none l = true) (a : Nat) (bs : List Byte) :
    cellRead (cellWrite l a bs) a bs.length = bs := by
  rw [cellRead_eq_map]
  refine List.ext_getElem (by simp) fun i h1 h2 => ?_
  simp only [List.getElem_map, List.getElem_range]
  rw [cellGet_cellWrite bs a (a + i) hl, if_pos ⟨Nat.le_add_right a i, Nat.add_lt_add_left h2 a⟩, Nat.add_sub_cancel_left]
  exact List.getD_eq_getElem bs 0 h2

/-- The turn of a sector that is written to the pad (R89, R243). -/
theorem sectorTurn_pad {bs : List Byte} (hg : SectorGoes s m c x s1) (hx : x.data = some bs)
    (ha : c.ahead = false ∨ ∀ y ∈ c.sectors, y.data ≠ none)
    (hr : (m.e.handle c.handle).state = .free ∨ (m.e.handle c.handle).state = .filling) (hd : x.dpad = true)
    (hb : x.dst.toNat + 32 ≤ m.crew.padSize) (hp : m.crew.touchesPlane x.dst.toNat 32 = false) (hwf : cellsWf m.crew.pad = true)
    (hl : bs.length = 32) :
    ∃ w e, (sectorTurn m c x s1).mem = s1.mem ∧ spFind m.c (sectorTurn m c x s1).crews = some w ∧ w.engine = some e ∧
      cellRead w.pad x.dst.toNat 32 = bs ∧
      (∀ a, a < x.dst.toNat ∨ x.dst.toNat + 32 ≤ a → cellGet w.pad a = cellGet m.crew.pad a) ∧
      e.handle c.handle = credited (m.e.handle c.handle) ∧ SectorOver m.e e c x := by
  obtain ⟨hw, he⟩ := hg.crew
  have hwrite : s1.sectorWrite m x bs = .ok (s1.modCrew m.c fun w => w.padWrite x.dst.toNat bs) := by
    simp only [State.sectorWrite, hd, if_true, Crew.padFault, if_neg (Nat.not_lt.mpr hb), hp, Bool.false_eq_true, if_false]
  have hw2 : spFind m.c (s1.modCrew m.c fun w => w.padWrite x.dst.toNat bs).crews = some (m.crew.padWrite x.dst.toNat bs) := by
    rw [State.modCrew_crews, spFind_spModify_same, hw, Option.map_some]
  obtain ⟨e, hcrew, hhandle, hover⟩ := crew_finishes (c := c) (x := x) hw2 he
  have hrise := cellsWf_rising hwf
  rw [sectorTurn_finishes hx ha, finishSector_writes hr hwrite]
  refine ⟨_, e, rfl, hcrew, rfl, ?_, fun a ha => ?_, hhandle, hover⟩
  · have hread := cellRead_cellWrite hrise x.dst.toNat bs
    rw [hl] at hread
    exact hread
  · exact (cellGet_cellWrite bs _ a hrise).trans (if_neg (by omega))

end

end Sys2Proof.Claims
end

section
/-! PROOF. Movement faults, and the release of engines (R240, R241). -/
namespace Sys2Proof.Claims
open Sys2Proof.Machine

/-- A movement processor after it stops on a fault (R241). -/
def stoppedOn (f : MoveFault) (x : Mover) : Mover :=
  { x with run := .stopped, reported := false, wait := false, blockedAt := none, pending := none, fault := some { f with stop := x.pc } }

/-- An engine, its crew and the state after that. -/
def stoppedEngine (f : MoveFault) (e : Engine) : Engine := { e with mover := stoppedOn f e.mover }
def stoppedHere (m : MHere) (f : MoveFault) : MHere :=
  { m with crew := { m.crew with engine := some (stoppedEngine f m.e) }, e := stoppedEngine f m.e }
def stoppedState (s : State) (m : MHere) (f : MoveFault) : State := (s.modEngine m.c (stoppedEngine f)).bump

/-- A movement fault that has reached a running movement processor between its words (R241). -/
structure FaultDue (s : State) (m : MHere) (f : MoveFault) : Prop where
  mover : s.mover? m.c = some m
  runs : s.moverRuns m.c = true
  running : m.e.mover.run = .running
  pending : m.e.mover.pending = some f
  words : m.e.mover.hints.words = 0
  list : m.e.mover.list = []

section
variable {s : State} {m : MHere} {f : MoveFault}

theorem FaultDue.stops (hf : FaultDue s m f) : s.stopMover m.c = stoppedState s m f := by
  simp only [State.stopMover, hf.mover, hf.pending, hf.running, hf.words, hf.list, beq_self_eq_true, List.isEmpty_nil, Bool.and_self, if_true]
  rfl

/-- The crew of the processor once it has stopped. -/
theorem FaultDue.crew (hf : FaultDue s m f) : spFind m.c (stoppedState s m f).crews = some (stoppedHere m f).crew := by
  obtain ⟨hw, he, -⟩ := State.mover?_eq_some.mp hf.mover
  exact State.crew_modEngine hw he _

theorem FaultDue.stopped (hf : FaultDue s m f) : (stoppedState s m f).mover? m.c = some (stoppedHere m f) :=
  State.mover?_eq_some.mpr ⟨hf.crew, rfl, rfl⟩

theorem FaultDue.lowestLive (hf : FaultDue s m f) : (stoppedState s m f).lowestLive m.c = s.lowestLive m.c := by
  obtain ⟨hw, -, -⟩ := State.mover?_eq_some.mp hf.mover
  simp only [State.lowestLive, hf.crew, hw]
  rfl

/-- What MOVEMENT_FAULT does once the processor has stopped: the knot to tell, and the space for the record (R240, R241). -/
def faultTold (s : State) (m : MHere) (f : MoveFault) (seq : Nat) : State :=
  let s1 := stoppedState s m f
  let bytes := MoveFault.bytes { f with stop := m.e.mover.pc }
  let done (s : State) := s.modMover m.c fun x => { x with reported := true }
  if m.crew.live.isEmpty then
    (((done s1).report (moduleOf m.crew.home) seq bytes).modLaunch m.crew.launch fun la => { la with moveFault := true }).bump
  else match (s.lowestLive m.c).bind fun e => s.here e.2 with
  | none => s1
  | some h =>
    match s1.takeArea m.crew.home { kind := .movement, len := 64, own := some h.p.knot } with
    | some (off, s2) =>
      if h.p.betweenGroups then
        (((done s2).zoneWrite m.crew.home off bytes).modPath h.u fun p =>
          ((p.rewind h.k.regs.watchdog).hold { code := .movefault, addr := windowAddr h.k.regs.window m.crew.home off }).awake).bump
      else s1
    | none => s1

theorem exec_movementFault (hf : FaultDue s m f) : ∃ seq, exec (.movementFault m.c) s = .next (faultTold s m f seq) := by
  refine ⟨match spFind m.crew.launch s.launches with | some l => l.seq | none => 0, congrArg event (?_ : _ = faultTold s m f _)⟩
  have hany : (spFind m.c (stoppedState s m f).crews).any (fun w => w.live.isEmpty) = m.crew.live.isEmpty := by rw [hf.crew]; rfl
  have hgo : ((stoppedHere m f).e.mover.run != .stopped || (stoppedHere m f).e.mover.reported) = false := rfl
  have hfault : (stoppedHere m f).e.mover.fault = some { f with stop := m.e.mover.pc } := rfl
  simp only [hf.runs, if_true, hf.stops, hf.stopped, hfault, hgo, Bool.false_eq_true, if_false, hany, hf.lowestLive]
  rfl

/-- An engine whose processor has stopped on a fault. -/
def StoppedOn (m : MHere) (f : MoveFault) (e : Engine) : Prop :=
  e.mover.run = .stopped ∧ e.mover.fault = some { f with stop := m.e.mover.pc } ∧ e.mover.pending = none

/-- An engine whose processor's stop is reported. -/
def reportedEngine (f : MoveFault) (e : Engine) : Engine := { e with mover := { stoppedOn f e.mover with reported := true } }

/-- The crew and its engine in a state whose crews are those after the stop, or those after the report. -/
theorem crew_reported (hf : FaultDue s m f) : spFind m.c ((stoppedState s m f).modMover m.c fun x => { x with reported := true }).crews =
    some { m.crew with engine := some (reportedEngine f m.e) } :=
  State.crew_modEngine hf.crew rfl _

theorem faultTold_alone (hf : FaultDue s m f) (hl : m.crew.live = []) (seq : Nat) :
    ∃ w e, spFind m.c (faultTold s m f seq).crews = some w ∧ w.engine = some e ∧ StoppedOn m f e ∧ e.mover.reported = true ∧
      (faultTold s m f seq).paths = s.paths ∧ ∀ la, spFind m.crew.launch s.launches = some la →
        spFind m.crew.launch (faultTold s m f seq).launches = some { la with moveFault := true } := by
  unfold faultTold
  rw [if_pos (List.isEmpty_iff.mpr hl)]
  refine ⟨_, _, crew_reported hf, rfl, ⟨rfl, rfl, rfl⟩, rfl, rfl, fun la hla => ?_⟩
  exact (spFind_spModify_same _ _ s.launches).trans (by rw [hla]; rfl)

/-- The processor stops, and its stop is not reported yet. -/
theorem crew_silent (hf : FaultDue s m f) :
    ∃ w e, spFind m.c (stoppedState s m f).crews = some w ∧ w.engine = some e ∧ StoppedOn m f e := ⟨_, _, hf.crew, rfl, rfl, rfl, rfl⟩

/-- The lowest live knot takes E_MOVEFAULT (R240, R282). -/
theorem faultTold_knot (hf : FaultDue s m f) (hl : m.crew.live ≠ []) (seq : Nat) {h : Here} {off : Nat} {s2 : State}
    (hh : ((s.lowestLive m.c).bind fun e => s.here e.2) = some h)
    (ha : (stoppedState s m f).takeArea m.crew.home { kind := .movement, len := 64, own := some h.p.knot } = some (off, s2))
    (hb : h.p.betweenGroups = true) :
    ∃ w e, spFind m.c (faultTold s m f seq).crews = some w ∧ w.engine = some e ∧ StoppedOn m f e ∧ e.mover.reported = true ∧
      ∃ q, (faultTold s m f seq).path? h.u = some q ∧ q.ctx.pc = h.p.groupPc ∧ q.trapHeld = h.p.trapHeld ++
        [{ code := .movefault, addr := windowAddr h.k.regs.window m.crew.home off }] := by
  have hempty : m.crew.live.isEmpty = false := List.isEmpty_eq_false_iff.mpr hl
  have hs2 : s2 = { stoppedState s m f with mem := s2.mem } := State.onlyMem_takeArea ha
  have hpath : s.path? h.u = some h.p := by
    obtain ⟨e, -, he⟩ := Option.bind_eq_some_iff.mp hh
    rw [State.here_u he]
    exact State.path?_of_here he
  simp only [faultTold, hempty, Bool.false_eq_true, if_false, hh, ha, hb, if_true]
  have hzone := State.onlyMem_zoneWrite (s2.modMover m.c fun x => { x with reported := true }) m.crew.home off
    (MoveFault.bytes { f with stop := m.e.mover.pc })
  refine ⟨{ m.crew with engine := some (reportedEngine f m.e) }, reportedEngine f m.e, ?_, rfl, ⟨rfl, rfl, rfl⟩, rfl,
    ((h.p.rewind h.k.regs.watchdog).hold
    { code := .movefault, addr := windowAddr h.k.regs.window m.crew.home off }).awake, ?_, rfl, rfl⟩
  · rw [hzone, hs2]
    exact crew_reported hf
  · rw [hzone, hs2]
    exact (spFind_spModify_same h.u _ s.paths).trans (by rw [show spFind h.u s.paths = some h.p from hpath]; rfl)

end

/-- The engines of a crew that are released (R240). -/
theorem exec_engineRelease {s : State} {c : Nat} {w : Crew} {e : Engine} (hw : spFind c s.crews = some w) (he : w.engine = some e)
    (hs : w.size ≤ w.ended.length) (hc : e.copies = []) (hr : e.mover.run = .ended) :
    exec (.engineRelease c) s = .next (s.removeCrew c).bump := by
  have hdone : (w.allEnded && e.copies.isEmpty && s.moverDone e) = true := by
    simp only [Crew.allEnded, hs, decide_true, hc, List.isEmpty_nil, State.moverDone, hr, Bool.and_self]
  refine congrArg event (?_ : _ = (s.removeCrew c).bump)
  simp only [hw, he, hdone, if_true]

theorem crews_removeCrew {s : State} {c : Nat} {w : Crew} (hw : spFind c s.crews = some w) : (s.removeCrew c).crews = spDrop c s.crews := by
  simp only [State.removeCrew, hw]
  split
  · next img _ =>
    obtain ⟨a, ha⟩ := s.onlyAreas_freeImage img
    rw [ha]
  · rfl

/-- A knot that is to be told, once the processor has stopped: what it names is as it was before. -/
theorem takeArea_stoppedState {s : State} {m : MHere} {f : MoveFault} {h : Here} {off : Nat} {r : State}
    (ha : s.takeArea m.crew.home { kind := .movement, len := 64, own := some h.p.knot } = some (off, r)) :
    ∃ s2, (stoppedState s m f).takeArea m.crew.home { kind := .movement, len := 64, own := some h.p.knot } = some (off, s2) := by
  simp only [State.takeArea] at ha ⊢
  split at ha
  · next hfit =>
    cases ha
    exact ⟨_, if_pos hfit⟩
  · cases ha

/-- The processor stops, whatever becomes of the report. -/
theorem faultTold_stops {s : State} {m : MHere} {f : MoveFault} (hf : FaultDue s m f) (seq : Nat) :
    ∃ w e, spFind m.c (faultTold s m f seq).crews = some w ∧ w.engine = some e ∧ StoppedOn m f e := by
  by_cases hl : m.crew.live = []
  · obtain ⟨w, e, hcrew, he, hstop, -⟩ := faultTold_alone hf hl seq
    exact ⟨w, e, hcrew, he, hstop⟩
  have hempty : m.crew.live.isEmpty = false := List.isEmpty_eq_false_iff.mpr hl
  cases hh : (s.lowestLive m.c).bind fun e => s.here e.2 with
  | none =>
    have heq : faultTold s m f seq = stoppedState s m f := by simp only [faultTold, hempty, Bool.false_eq_true, if_false, hh]
    rw [heq]
    exact crew_silent hf
  | some h =>
    cases ha : (stoppedState s m f).takeArea m.crew.home { kind := .movement, len := 64, own := some h.p.knot } with
    | none =>
      have heq : faultTold s m f seq = stoppedState s m f := by simp only [faultTold, hempty, Bool.false_eq_true, if_false, hh, ha]
      rw [heq]
      exact crew_silent hf
    | some x =>
      cases hb : h.p.betweenGroups with
      | false =>
        have heq : faultTold s m f seq = stoppedState s m f := by simp only [faultTold, hempty, Bool.false_eq_true, if_false, hh, ha, hb]
        rw [heq]
        exact crew_silent hf
      | true =>
        obtain ⟨w, e, hcrew, he, hstop, -⟩ := faultTold_knot hf hl seq hh ha hb
        exact ⟨w, e, hcrew, he, hstop⟩

/-- The turn of a movement fault, whether a knot is told or not (R240, R241). -/
theorem movementFault_turn {s : State} {m : MHere} {f : MoveFault} (hf : FaultDue s m f) (seq : Nat) :
    ∃ w e, spFind m.c (faultTold s m f seq).crews = some w ∧ w.engine = some e ∧ StoppedOn m f e ∧
      (∀ slot (h : Here) off r, s.lowestLive m.c = some (slot, h.u) → s.here h.u = some h → h.p.hints.words = 0 ∨ h.p.wait ≠ none →
        s.takeArea m.crew.home { kind := .movement, len := 64, own := some h.p.knot } = some (off, r) →
        e.mover.reported = true ∧ ∃ q, (faultTold s m f seq).path? h.u = some q ∧ q.ctx.pc = h.p.groupPc ∧ q.trapHeld = h.p.trapHeld ++
          [{ code := .movefault, addr := windowAddr h.k.regs.window m.crew.home off }]) ∧
      (m.crew.live = [] → e.mover.reported = true ∧ (faultTold s m f seq).paths = s.paths ∧
        ∀ la, spFind m.crew.launch s.launches = some la →
          spFind m.crew.launch (faultTold s m f seq).launches = some { la with moveFault := true }) := by
  obtain ⟨hw, -, -⟩ := State.mover?_eq_some.mp hf.mover
  by_cases hl : m.crew.live = []
  · obtain ⟨w, e, hcrew, he, hstop, hrep, hpaths, hla⟩ := faultTold_alone hf hl seq
    refine ⟨w, e, hcrew, he, hstop, fun slot h off r hlow => ?_, fun _ => ⟨hrep, hpaths, hla⟩⟩
    simp [State.lowestLive, hw, hl] at hlow
  · by_cases hk : ∃ slot, ∃ h : Here, ∃ off r, s.lowestLive m.c = some (slot, h.u) ∧ s.here h.u = some h ∧
      (h.p.hints.words = 0 ∨ h.p.wait ≠ none) ∧
      s.takeArea m.crew.home { kind := .movement, len := 64, own := some h.p.knot } = some (off, r)
    · obtain ⟨slot, h, off, r, hlow, hh, hb, ha⟩ := hk
      have hbind : ((s.lowestLive m.c).bind fun e => s.here e.2) = some h := by rw [hlow]; exact hh
      have hbetween : h.p.betweenGroups = true := by simpa [Path.betweenGroups, Option.isSome_iff_ne_none] using hb
      obtain ⟨s2, hs2⟩ := takeArea_stoppedState (f := f) ha
      obtain ⟨w, e, hcrew, he, hstop, hrep, hq⟩ := faultTold_knot hf hl seq hbind hs2 hbetween
      refine ⟨w, e, hcrew, he, hstop, fun slot' h' off' r' hlow' hh' _ ha' => ⟨hrep, ?_⟩, fun hl' => absurd hl' hl⟩
      obtain rfl : h = h' := by
        rw [hlow'] at hbind
        exact Option.some.inj (hbind.symm.trans hh')
      rw [ha] at ha'
      cases ha'
      exact hq
    · obtain ⟨w, e, hcrew, he, hstop⟩ := faultTold_stops hf seq
      exact ⟨w, e, hcrew, he, hstop, fun slot h off r hlow hh hb ha => absurd ⟨slot, h, off, r, hlow, hh, hb, ha⟩ hk,
        fun hl' => absurd hl' hl⟩

/-- Settles O44: the turn of a sector by its data and its handle's state, and of a fault by the knot that it can be told to. -/
theorem movementEvents : Obligations.MovementEvents := by
  unfold Obligations.MovementEvents
  refine ⟨fun s s1 m c x hg => ?_, fun s m f hm hruns hrun hpend hwords hlist => ?_, fun s c w e hw he hs hc hr => ?_⟩
  · have hexec := exec_copySector hg
    refine ⟨fun hx => ⟨fun bs s2 hs => ?_, fun code hs => ?_⟩, fun bs hx => ⟨fun ha hn => ?_, fun ha =>
      ⟨fun hr => ⟨?_, ?_⟩, fun hr => ?_⟩⟩⟩
    · obtain ⟨e, d, hturn⟩ := sectorTurn_reads hg hx hs
      exact ⟨_, e, d, hexec, hturn⟩
    · obtain ⟨e, hturn⟩ := sectorTurn_fails hg hx hs
      exact ⟨_, e, hexec, hturn⟩
    · rw [hexec, sectorTurn_ahead hx ha hn]
    · intro y hd hy hwf _ hl hlines
      obtain ⟨e, hturn⟩ := sectorTurn_writes hg hx ha hr hd hy hwf hl hlines
      exact ⟨_, e, hexec, hturn⟩
    · intro hd hb hp hwf hl
      obtain ⟨w, e, hturn⟩ := sectorTurn_pad hg hx ha hr hd hb hp hwf hl
      exact ⟨_, w, e, hexec, hturn⟩
    · obtain ⟨e, hturn⟩ := sectorTurn_discards hg hx ha hr
      exact ⟨_, e, hexec, hturn⟩
  · have hf : FaultDue s m f := ⟨hm, hruns, hrun, hpend, hwords, hlist⟩
    obtain ⟨seq, hexec⟩ := exec_movementFault hf
    obtain ⟨w, e, hcrew, he, ⟨hstop, hfault, hnone⟩, htold⟩ := movementFault_turn hf seq
    exact ⟨_, w, e, hexec, hcrew, he, hstop, hfault, hnone, htold⟩
  · refine ⟨exec_engineRelease hw he hs hc hr, fun hrise j => ?_⟩
    have hcrews : (s.removeCrew c).bump.crews = spDrop c s.crews := crews_removeCrew hw
    rw [hcrews]
    split
    · next hj => rw [hj, spFind_spDrop_same c hrise]
    · next hj => exact spFind_spDrop_ne hj hrise

end Sys2Proof.Claims
end

section
/-! PROOF. PST: what its lanes leave in the pad (R84, R208, R210). -/
namespace Sys2Proof.Machine

theorem wordsOfBytes_length : ∀ bs : List Byte, (wordsOfBytes bs).length = bs.length / 4
  | [] => rfl
  | [_] => by simp [wordsOfBytes]
  | [_, _] => by simp [wordsOfBytes]
  | [_, _, _] => by simp [wordsOfBytes]
  | b0 :: b1 :: b2 :: b3 :: bs => by
    have hlen : (b0 :: b1 :: b2 :: b3 :: bs).length / 4 = bs.length / 4 + 1 := by
      simp only [List.length_cons]
      omega
    rw [hlen, ← wordsOfBytes_length bs]
    rfl

/-- The records of a plane after a writer writes words: each word written has that writer's last value, and every other record is as it
was (R84). -/
theorem spFind_recordWords (key i : Nat) : ∀ (vs : List Word) (m : Sparse (Sparse Word)) (a j : Nat),
    spFind i (spGet [] (recordWords key m a vs) j) =
      if i = key ∧ a ≤ j ∧ j < a + vs.length then some (vs.getD (j - a) 0) else spFind i (spGet [] m j)
  | [], m, a, j => by
    rw [if_neg (by simp)]
    rfl
  | v :: vs, m, a, j => by
    rw [recordWords, spFind_recordWords key i vs, spGet_spPut, List.length_cons]
    by_cases hrest : i = key ∧ a + 1 ≤ j ∧ j < a + 1 + vs.length
    · obtain ⟨hkey, hlow, hhigh⟩ := hrest
      obtain ⟨d, rfl⟩ := Nat.exists_eq_add_of_le hlow
      rw [if_pos ⟨hkey, hlow, hhigh⟩, if_pos ⟨hkey, by omega, by omega⟩, Nat.add_sub_cancel_left, Nat.add_assoc, Nat.add_sub_cancel_left,
        Nat.add_comm 1 d, List.getD_cons_succ]
    · rw [if_neg hrest]
      by_cases hja : j = a
      · rw [if_pos hja, hja]
        by_cases hkey : i = key
        · rw [hkey, spFind_spPut_same, if_pos ⟨rfl, Nat.le_refl a, by omega⟩, Nat.sub_self, List.getD_cons_zero]
        · rw [spFind_spPut_ne hkey, if_neg fun h => hkey h.1]
      · rw [if_neg hja, if_neg fun h => hrest ⟨h.1, by omega, by omega⟩]

/-- A lane of a PST in the single copy: its bytes are those of the pad (R210). -/
theorem Crew.padStore_single {w : Crew} {slot n : Nat} {l : LaneAcc} (h : w.inPlane l.pa = false) :
    w.padStore slot n l = w.padWrite l.pa (l.data.take n) := by
  simp only [Crew.padStore, h, Bool.false_eq_true, if_false]

theorem Crew.padStore_plane {w : Crew} {slot n : Nat} {l : LaneAcc} (h : w.inPlane l.pa = true) : w.padStore slot n l =
    { w with writers := recordWords (slot * 1024 + l.lane) w.writers (l.pa / 4) (wordsOfBytes (l.data.take n)) } := by
  simp only [Crew.padStore, h, if_true]

/-- Fewer bytes than a sector cover none whole, and clear no poison (R332). -/
theorem Crew.padWrite_small {w : Crew} {off : Nat} {bs : List Byte} (h : bs.length < 32) :
    w.padWrite off bs = { w with pad := cellWrite w.pad off bs } := by
  have hkeep : (w.poison.filter fun sec => !(decide (off ≤ sec * 32) && decide (sec * 32 + 32 ≤ off + bs.length))) = w.poison :=
    List.filter_eq_self.mpr fun sec _ => by simp; omega
  rw [Crew.padWrite, hkeep]

/-- A PST lane changes the pad and the records of writers at most. -/
theorem Crew.padStore_rest {n : Nat} (hn : n ≤ 16) (w : Crew) (slot : Nat) (l : LaneAcc) :
    w.padStore slot n l = { w with pad := (w.padStore slot n l).pad, writers := (w.padStore slot n l).writers } := by
  cases h : w.inPlane l.pa with
  | true => rw [Crew.padStore_plane h]
  | false =>
    have hlen : (l.data.take n).length < 32 := by
      rw [List.length_take]
      omega
    rw [Crew.padStore_single h, Crew.padWrite_small hlen]

end Sys2Proof.Machine

namespace Sys2Proof.Claims
open Sys2Proof.Machine

/-- A crew after the lanes of a PST, in ascending order (R67, R210). -/
def storeAll (slot n : Nat) (w : Crew) (rs : List (Nat × DWord × List Byte)) : Crew :=
  (rs.map padLane).foldl (fun v l => v.padStore slot n l) w

/-- What the lanes of a PST are: at most 16 bytes, aligned, each with its data, and words where planes are (R82, R83). -/
structure StoreLanes (w : Crew) (n : Nat) (rs : List (Nat × DWord × List Byte)) : Prop where
  small : n ≤ 16
  aligned : ∀ r ∈ rs, r.2.1.toNat % n = 0
  data : ∀ r ∈ rs, n ≤ r.2.2.length
  words : ∀ r ∈ rs, w.inPlane r.2.1.toNat = true → n % 4 = 0 ∧ r.2.2.length = n
  lanes : (rs.map (·.1)).Nodup

section
variable {w : Crew} {slot n : Nat} {r : Nat × DWord × List Byte} {rs : List (Nat × DWord × List Byte)}

theorem storeAll_cons : storeAll slot n w (r :: rs) = storeAll slot n (w.padStore slot n (padLane r)) rs := rfl

theorem storeAll_append (before after : List (Nat × DWord × List Byte)) :
    storeAll slot n w (before ++ after) = storeAll slot n (storeAll slot n w before) after := by
  simp only [storeAll, List.map_append, List.foldl_append]

theorem StoreLanes.tail (h : StoreLanes w n (r :: rs)) : StoreLanes w n rs :=
  ⟨h.small, fun x hx => h.aligned x (List.mem_cons_of_mem r hx), fun x hx => h.data x (List.mem_cons_of_mem r hx),
    fun x hx => h.words x (List.mem_cons_of_mem r hx), (List.nodup_cons.mp h.lanes).2⟩

/-- Lanes of a crew that differs in its pad and records. -/
theorem StoreLanes.congr {v : Crew} (h : StoreLanes w n rs) (hv : ∀ a, v.inPlane a = w.inPlane a) : StoreLanes v n rs :=
  ⟨h.small, h.aligned, h.data, fun x hx hp => h.words x hx ((hv _).symm.trans hp), h.lanes⟩

theorem inPlane_padStore (hn : n ≤ 16) (a : Nat) : (w.padStore slot n (padLane r)).inPlane a = w.inPlane a := by
  rw [Crew.padStore_rest hn]
  rfl

theorem inPlane_storeAll (hn : n ≤ 16) : ∀ (rs : List (Nat × DWord × List Byte)) (w : Crew) (a : Nat),
    (storeAll slot n w rs).inPlane a = w.inPlane a
  | [], _, _ => rfl
  | r :: rs, w, a => by rw [storeAll_cons, inPlane_storeAll hn rs, inPlane_padStore hn]

theorem storeAll_rest (hn : n ≤ 16) : ∀ (rs : List (Nat × DWord × List Byte)) (w : Crew),
    storeAll slot n w rs = { w with pad := (storeAll slot n w rs).pad, writers := (storeAll slot n w rs).writers }
  | [], _ => rfl
  | r :: rs, w => by
    have hrest := storeAll_rest hn rs (w.padStore slot n (padLane r))
    rw [Crew.padStore_rest hn w slot (padLane r)] at hrest
    rw [storeAll_cons, Crew.padStore_rest hn w slot (padLane r)]
    exact hrest

/-- A lane leaves a byte of the single copy that it does not cover. -/
theorem cellGet_padStore {a : Nat} (hp : cellsWf w.pad = true) (hd : n ≤ r.2.2.length)
    (h : w.inPlane r.2.1.toNat = false → a < r.2.1.toNat ∨ r.2.1.toNat + n ≤ a) :
    cellGet (w.padStore slot n (padLane r)).pad a = cellGet w.pad a := by
  cases hin : w.inPlane r.2.1.toNat with
  | true => rw [Crew.padStore_plane hin]
  | false =>
    have hout := h hin
    rw [Crew.padStore_single hin]
    refine (cellGet_cellWrite _ _ _ (cellsWf_rising hp)).trans (if_neg ?_)
    have hlen : ((padLane r).data.take n).length = n := List.length_take_of_le hd
    rw [hlen]
    exact fun hc => by
      obtain ⟨h1, h2⟩ := hc
      have h3 : r.2.1.toNat ≤ a := h1
      have h4 : a < r.2.1.toNat + n := h2
      omega

theorem cellsWf_padStore (hp : cellsWf w.pad = true) : cellsWf (w.padStore slot n (padLane r)).pad = true := by
  cases hin : w.inPlane r.2.1.toNat with
  | true =>
    rw [Crew.padStore_plane hin]
    exact hp
  | false =>
    rw [Crew.padStore_single hin]
    exact cellsWf_cellWrite _ _ _ hp

/-- Lanes leave a byte of the single copy that none of them covers. -/
theorem cellGet_storeAll {a : Nat} : ∀ {rs : List (Nat × DWord × List Byte)} {w : Crew}, StoreLanes w n rs → cellsWf w.pad = true →
    (∀ r ∈ rs, w.inPlane r.2.1.toNat = false → a < r.2.1.toNat ∨ r.2.1.toNat + n ≤ a) →
    cellGet (storeAll slot n w rs).pad a = cellGet w.pad a
  | [], _, _, _, _ => rfl
  | r :: rs, w, hl, hp, h => by
    have hin := inPlane_padStore (w := w) (slot := slot) (r := r) hl.small
    rw [storeAll_cons, cellGet_storeAll (hl.tail.congr hin) (cellsWf_padStore hp)
      fun x hx hx' => h x (List.mem_cons_of_mem r hx) ((hin _).symm.trans hx')]
    exact cellGet_padStore hp (hl.data r List.mem_cons_self) (h r List.mem_cons_self)

theorem cellsWf_storeAll : ∀ {rs : List (Nat × DWord × List Byte)} {w : Crew}, cellsWf w.pad = true →
    cellsWf (storeAll slot n w rs).pad = true
  | [], _, hp => hp
  | _ :: _, _, hp => by
    rw [storeAll_cons]
    exact cellsWf_storeAll (cellsWf_padStore hp)

/-- The records after one lane: its own words of a plane, and every other as it was (R84). -/
theorem spFind_padStore (j key : Nat) : spFind key (spGet [] (w.padStore slot n (padLane r)).writers j) =
    if w.inPlane r.2.1.toNat = true ∧ key = slot * 1024 + r.1 ∧ r.2.1.toNat / 4 ≤ j ∧
        j < r.2.1.toNat / 4 + (wordsOfBytes (r.2.2.take n)).length then
      some ((wordsOfBytes (r.2.2.take n)).getD (j - r.2.1.toNat / 4) 0)
    else spFind key (spGet [] w.writers j) := by
  cases hin : w.inPlane r.2.1.toNat with
  | true =>
    rw [Crew.padStore_plane hin]
    refine (spFind_recordWords _ _ _ _ _ _).trans ?_
    simp only [true_and]
    rfl
  | false =>
    rw [Crew.padStore_single hin, if_neg (by simp)]
    rfl

/-- Lanes leave a record that none of them makes (R84). -/
theorem spFind_storeAll {j key : Nat} : ∀ {rs : List (Nat × DWord × List Byte)} {w : Crew}, StoreLanes w n rs →
    (∀ r ∈ rs, w.inPlane r.2.1.toNat = true → key = 1024 * slot + r.1 → 4 * j < r.2.1.toNat ∨ r.2.1.toNat + n ≤ 4 * j) →
    spFind key (spGet [] (storeAll slot n w rs).writers j) = spFind key (spGet [] w.writers j)
  | [], _, _, _ => rfl
  | r :: rs, w, hl, h => by
    have hin := inPlane_padStore (w := w) (slot := slot) (r := r) hl.small
    rw [storeAll_cons, spFind_storeAll (hl.tail.congr hin) fun x hx hx' => h x (List.mem_cons_of_mem r hx) ((hin _).symm.trans hx'),
      spFind_padStore, if_neg]
    rintro ⟨hp, hkey, hlow, hhigh⟩
    obtain ⟨hn4, hlen⟩ := hl.words r List.mem_cons_self hp
    have hal := hl.aligned r List.mem_cons_self
    have hout := h r List.mem_cons_self hp (hkey.trans (by omega))
    have hal4 : r.2.1.toNat % 4 = 0 := Nat.mod_eq_zero_of_dvd (Nat.dvd_trans (Nat.dvd_of_mod_eq_zero hn4) (Nat.dvd_of_mod_eq_zero hal))
    rw [wordsOfBytes_length, List.length_take_of_le (Nat.le_of_eq hlen.symm)] at hhigh
    omega

/-- The lanes after one of a list, as lanes of the crew that the lanes up to it leave: none of them is that lane. -/
theorem StoreLanes.split {before after : List (Nat × DWord × List Byte)} (hl : StoreLanes w n (before ++ r :: after)) (slot : Nat) :
    let u := storeAll slot n w before
    StoreLanes (u.padStore slot n (padLane r)) n after ∧ r.1 ∉ after.map (·.1) ∧ (∀ a, u.inPlane a = w.inPlane a) ∧
      ∀ a, (u.padStore slot n (padLane r)).inPlane a = w.inPlane a := by
  intro u
  have hu : ∀ a, u.inPlane a = w.inPlane a := inPlane_storeAll hl.small before w
  have hur : ∀ a, (u.padStore slot n (padLane r)).inPlane a = w.inPlane a := fun a => (inPlane_padStore hl.small a).trans (hu a)
  have hsub : ∀ x ∈ after, x ∈ before ++ r :: after := fun x hx => List.mem_append_right before (List.mem_cons_of_mem r hx)
  have hnd : (before.map (·.1) ++ r.1 :: after.map (·.1)).Nodup := by
    have h := hl.lanes
    rwa [List.map_append, List.map_cons] at h
  obtain ⟨hnot, hafter⟩ := List.nodup_cons.mp (List.nodup_append.mp hnd).2.1
  have hlanes : StoreLanes w n after :=
    ⟨hl.small, fun x hx => hl.aligned x (hsub x hx), fun x hx => hl.data x (hsub x hx), fun x hx => hl.words x (hsub x hx), hafter⟩
  exact ⟨hlanes.congr hur, hnot, hu, hur⟩

/-- What the lanes of a PST leave in the pad (R84, R210). -/
theorem padStored_storeAll (hl : StoreLanes w n rs) (hp : cellsWf w.pad = true) : PadStored w (storeAll slot n w rs) slot n rs where
  stored before r after j hs hj hr hafter := by
    subst hs
    obtain ⟨hlanes, -, hu, hur⟩ := hl.split slot
    have hupad : cellsWf (storeAll slot n w before).pad = true := cellsWf_storeAll hp
    have hlen : (r.2.2.take n).length = n := List.length_take_of_le (hl.data r (List.mem_append_right before List.mem_cons_self))
    rw [storeAll_append, storeAll_cons, cellGet_storeAll hlanes (cellsWf_padStore hupad)
      fun x hx hx' => hafter x hx ((hur _).symm.trans hx'), Crew.padStore_single ((hu _).trans hr)]
    have hget := cellGet_cellWrite (r.2.2.take n) r.2.1.toNat (r.2.1.toNat + j) (cellsWf_rising hupad)
    rw [if_pos ⟨Nat.le_add_right _ j, Nat.add_lt_add_left (hlen.symm ▸ hj) _⟩, Nat.add_sub_cancel_left] at hget
    refine hget.trans ?_
    simp only [List.getD_eq_getElem?_getD, List.getElem?_take, if_pos hj]
  single a h := cellGet_storeAll hl hp h
  recorded r hr hplane i hi := by
    obtain ⟨before, after, rfl⟩ := List.append_of_mem hr
    obtain ⟨hlanes, hnot, hu, -⟩ := hl.split slot
    obtain ⟨-, hlen⟩ := hl.words r hr hplane
    have htake : r.2.2.take n = r.2.2 := List.take_of_length_le (Nat.le_of_eq hlen)
    rw [storeAll_append, storeAll_cons, spFind_storeAll hlanes fun x hx _ hkey =>
        absurd (List.mem_map_of_mem (f := (·.1)) hx) (by rw [← Nat.add_left_cancel hkey]; exact hnot),
      spFind_padStore, htake, if_pos, Nat.add_sub_cancel_left]
    refine ⟨(hu _).trans hplane, by omega, Nat.le_add_right _ _, ?_⟩
    rw [wordsOfBytes_length, hlen]
    exact Nat.add_lt_add_left hi _
  kept j key h := spFind_storeAll hl h
  rest := storeAll_rest hl.small rs w

end

end Sys2Proof.Claims
end

section
/-! PROOF. PLD, PST and PATM: their checks, what they perform, and their traps (R82, R83, R208 to R210). -/
namespace Sys2Proof.Claims
open Sys2Proof.Machine

/-- A pad instruction of the model that does what a claim says: its parts agree, and it reads what the claim reads and its guard. -/
structure PadIs (h : Here) (i : Instr) (c : PadClaim) (reads : Here → List (RegName × Bool)) (dst : Here → Dest)
    (lanes : Here → List (Nat × DWord × List Byte)) (act : State → Here → List LaneAcc → State) : Prop where
  exec : ∀ s, exec i s = padOp c.guard reads dst c.size c.flat lanes act s
  dest : dst h = c.dest
  reqs : lanes h = c.reqs
  reads : ∀ r ∈ guardSource c.guard :: reads h, r.1 ∈ c.reads ∨ r.1 = predName 7
  load : ∀ g d a b e z o, i = .pld g d a b e z o → act = padRead (.padLoad z) dst
  atom : ∀ g d a b e o y, i = .patm g d a b e o y → act = padRead (.padAtom o y.atom) dst
  store : ∀ g x a b e z o, i = .pst g x a b e z o → ∀ s ls n slot w, s.crewOf h.k = some (n, slot, w) →
    act s h ls = s.modCrew n fun v => ls.foldl (fun v l => v.padStore slot z.bytes l) v

theorem padIs_of_padClaim {h : Here} {i : Instr} {c : PadClaim} (hc : padClaim h i = some c) :
    ∃ reads dst lanes act, PadIs h i c reads dst lanes act := by
  unfold padClaim at hc
  split at hc
  case h_1 g d a b e z o =>
    cases hc
    refine ⟨_, _, _, _, ⟨exec_pld g d a b e z o, rfl, rfl, lane_reads h g a b e 0 0, ?_, nofun, nofun⟩⟩
    rintro _ _ _ _ _ _ _ ⟨⟩
    rfl
  case h_2 g x a b e z o =>
    cases hc
    refine ⟨_, _, _, _, ⟨exec_pst g x a b e z o, rfl, rfl, lane_reads h g a b e x.toNat z.regs, nofun, nofun, ?_⟩⟩
    rintro _ _ _ _ _ _ _ ⟨⟩ s ls n slot w hw
    simp only [hw]
  case h_3 g d a b e o y =>
    cases hc
    refine ⟨_, _, _, _, ⟨exec_patm g d a b e o y, rfl, rfl,
      lane_reads h g a b e (d.toNat + y.atom.regs) (o.group y.atom - y.atom.regs), nofun, ?_, nofun⟩⟩
    rintro _ _ _ _ _ _ _ ⟨⟩
    rfl
  case h_4 => cases hc

section
variable {s : State} {h : Here} {n cn slot : Nat} {w : Crew} {rs before after : List (Nat × DWord × List Byte)} {r : Nat × DWord × List Byte}

theorem crewOf_eq (hk : h.k.crew = some (cn, slot)) (hw : spFind cn s.crews = some w) : s.crewOf h.k = some (cn, slot, w) := by
  simp only [State.crewOf, hk, hw, Option.map_some]

theorem needBound_ok (hc : s.crewOf h.k = some (cn, slot, w)) (hb : ∀ r ∈ rs, r.2.1.toNat + n ≤ w.padSize) : needBound s h n rs = .ok () := by
  induction rs with
  | nil => rfl
  | cons x rs ih =>
    have hx : x.2.1.toNat + n ≤ s.padSize h.k := by simpa only [State.padSize, hc] using hb x List.mem_cons_self
    simp only [needBound, if_pos hx]
    exact ih fun y hy => hb y (List.mem_cons_of_mem x hy)

theorem needFlat_ok (hc : s.crewOf h.k = some (cn, slot, w)) (hp : ∀ r ∈ rs, w.inPlane r.2.1.toNat = false) : needFlat s h rs = .ok () := by
  induction rs with
  | nil => rfl
  | cons x rs ih =>
    have hx : s.padPlane h.k x.2.1.toNat = false := by simpa only [State.padPlane, hc] using hp x List.mem_cons_self
    simp only [needFlat, hx, Bool.false_eq_true, if_false]
    exact ih fun y hy => hp y (List.mem_cons_of_mem x hy)

/-- The first lane that is not aligned decides (R82). -/
theorem needAligned_stop (hb : ∀ x ∈ before, x.2.1.toNat % n = 0) (hr : r.2.1.toNat % n ≠ 0) :
    needAligned s n (before ++ r :: after) = .error (.trap { code := .align, lane := r.1, addr := r.2.1 } s) := by
  induction before with
  | nil => simp only [List.nil_append, needAligned, if_neg hr]
  | cons x before ih =>
    simp only [List.cons_append, needAligned, if_pos (hb x List.mem_cons_self)]
    exact ih fun y hy => hb y (List.mem_cons_of_mem x hy)

/-- The first lane past the end of the pad decides (R82). -/
theorem needBound_stop (hc : s.crewOf h.k = some (cn, slot, w)) (hb : ∀ x ∈ before, x.2.1.toNat + n ≤ w.padSize)
    (hr : w.padSize < r.2.1.toNat + n) :
    needBound s h n (before ++ r :: after) = .error (.trap { code := .bound, lane := r.1, addr := r.2.1 } s) := by
  have hsize : s.padSize h.k = w.padSize := by simp only [State.padSize, hc]
  induction before with
  | nil => simp only [List.nil_append, needBound, hsize, if_neg (Nat.not_le.mpr hr)]
  | cons x before ih =>
    simp only [List.cons_append, needBound, hsize, if_pos (hb x List.mem_cons_self)]
    exact ih fun y hy => hb y (List.mem_cons_of_mem x hy)

/-- The first lane in a plane region decides (R83). -/
theorem needFlat_stop (hc : s.crewOf h.k = some (cn, slot, w)) (hb : ∀ x ∈ before, w.inPlane x.2.1.toNat = false)
    (hr : w.inPlane r.2.1.toNat = true) :
    needFlat s h (before ++ r :: after) = .error (.trap { code := .plane, lane := r.1, addr := r.2.1 } s) := by
  have hplane : ∀ a, s.padPlane h.k a = w.inPlane a := fun a => by simp only [State.padPlane, hc]
  induction before with
  | nil => simp only [List.nil_append, needFlat, hplane, hr, if_true]
  | cons x before ih =>
    simp only [List.cons_append, needFlat, hplane, hb x List.mem_cons_self, Bool.false_eq_true, if_false]
    exact ih fun y hy => hb y (List.mem_cons_of_mem x hy)

end

section
variable {s : State} {h : Here} {i : Instr} {c : PadClaim} {cn slot : Nat} {w : Crew} {reads : Here → List (RegName × Bool)}
  {dest : Here → Dest} {reqs : Here → List (Nat × DWord × List Byte)} {act : State → Here → List LaneAcc → State}

theorem PadIs.sources (hi : PadIs h i c reads dest reqs act) (hr : ∀ r ∈ c.reads, h.p.ctx.stateOf r = .full) (s : State) :
    checkSources s h.p (guardSource c.guard :: reads h) = .ok () :=
  checkSources_full s h.p fun q hq => by
    obtain hmem | h7 := hi.reads q hq
    · exact hr _ hmem
    · rw [h7]
      rfl

/-- A pad access that no check stops performs its lanes, if it has any (R209, R210). -/
theorem exec_pad_goes (hi : PadIs h i c reads dest reqs act) (hg : PadGoes s h c cn slot w) :
    exec i s = .next ((if c.reqs = [] then s else act s h (c.reqs.map padLane)).retire h.u) := by
  have hcrew := crewOf_eq hg.crew.1 hg.crew.2
  have hflat : (if c.flat = true then needFlat s h c.reqs else pure () : Res Unit) = .ok () := by
    split
    · next hf => exact needFlat_ok hcrew (hg.plane hf)
    · rfl
  rw [hi.exec]
  unfold padOp
  rw [knotOp_path hg.admits.cur hg.admits.here, pathRun_ok hg.admits (isNever_false hg.guard)]
  simp only [hi.sources hg.reads, hi.reqs, needAligned_ok s c.size _ hg.aligned, needBound_ok hcrew hg.bound, res_ok_bind, hi.dest,
    checkDests_ready s h.p hg.dest]
  have hgo : (if c.reqs.isEmpty = true then (.ok (s.retire h.u) : Res State) else .ok ((act s h (c.reqs.map padLane)).retire h.u)) =
      .ok ((if c.reqs = [] then s else act s h (c.reqs.map padLane)).retire h.u) := by
    simp only [List.isEmpty_iff]
    split <;> rfl
  split at hflat
  · next hf =>
    rw [if_pos hf, hflat, res_ok_bind]
    exact hgo
  · next hf =>
    rw [if_neg hf]
    exact hgo

/-- A pad access that a check of its lanes stops (R209). -/
theorem exec_pad_trap {x : Trap} (hi : PadIs h i c reads dest reqs act) (ha : Admits s h.u h { imm := .any }) (hg : c.guard ≠ 15)
    (hr : ∀ r ∈ c.reads, h.p.ctx.stateOf r = .full)
    (hx : needAligned s c.size c.reqs = .error (.trap x s) ∨ (needAligned s c.size c.reqs = .ok () ∧
      (needBound s h c.size c.reqs = .error (.trap x s) ∨ (needBound s h c.size c.reqs = .ok () ∧ c.flat = true ∧
        needFlat s h c.reqs = .error (.trap x s))))) :
    exec i s = .next (s.takeTrap h.u x) := by
  rw [hi.exec]
  unfold padOp
  rw [knotOp_path ha.cur ha.here, pathRun_trap ha (isNever_false hg)]
  simp only [hi.sources hr, hi.reqs, res_ok_bind]
  obtain hal | ⟨hal, hb | ⟨hb, hf, hp⟩⟩ := hx
  · rw [hal]
    rfl
  · rw [hal, res_ok_bind, hb]
    rfl
  · rw [hal, res_ok_bind, hb, res_ok_bind, if_pos hf, hp]
    rfl

end

/-! What a destination becomes when its values are sent (R25). -/

/-- Registers that are marked empty are empty, and one that was stays so. -/
theorem vecState_foldl_mark {r : Nat} : ∀ {rs : List Nat} {p : Path}, r ∈ rs ∨ p.ctx.vecState r = .empty →
    (rs.foldl (fun p r => p.mark { file := .vec, num := r } .empty) p).ctx.vecState r = .empty
  | [], _, h => h.resolve_left List.not_mem_nil
  | x :: rs, p, h => by
    rw [List.foldl_cons]
    refine vecState_foldl_mark ?_
    have hx : (p.mark { file := .vec, num := x } .empty).ctx.vecState r = if r = x then .empty else p.ctx.vecState r :=
      spGet_spSet_of_ne (d := RegState.dead) (v := .empty) (by decide) x r p.ctx.vst
    rw [hx]
    split
    · exact .inr rfl
    · next hne => exact h.imp (fun hm => (List.mem_cons.mp hm).resolve_left hne) id

theorem keeps_foldl_mark : ∀ (rs : List Nat) (p : Path), p.Keeps (rs.foldl (fun p r => p.mark { file := .vec, num := r } .empty) p)
  | [], p => .refl p
  | r :: rs, p => (p.keeps_mark { file := .vec, num := r } .empty).trans (keeps_foldl_mark rs _)

section
variable {s : State} {h x : Here} {rs : List Nat}

/-- A path whose destination is marked empty. -/
theorem here_markEmpty (hh : s.here h.u = some x) (rs : List Nat) : ∃ y, (s.markEmpty h.u (.vec rs)).here h.u = some y ∧
    (∀ r ∈ rs, y.p.ctx.vecState r = .empty) ∧ (s.markEmpty h.u (.vec rs)).crews = s.crews := by
  unfold State.markEmpty
  rw [hh]
  exact ⟨_, State.here_modPath (State.here_modKnot hh _) (keeps_foldl_mark rs _).knot, fun r hr => vecState_foldl_mark (.inl hr), rfl⟩

/-- The values of an access none of whose lanes met poison are on their way to its registers (R25). -/
theorem sent_answer {a : Access} {outs : List LaneOut} (hh : s.here h.u = some x) (hd : a.dest = .vec rs) (hne : rs ≠ [])
    (hp : ∀ o ∈ outs, o.poisoned = false) :
    Sent (s.answer h a outs) h.u rs (rs.zipIdx.map fun e => (e.1, outs.map fun o => (o.lane, o.words.getD e.2 0))) ∧
      (s.answer h a outs).crews = s.crews := by
  have hclean : poisonedLanes outs a.lanes = [] := List.filter_eq_nil_iff.mpr fun l _ => by
    simp only [List.any_eq_true, not_exists, not_and, Bool.and_eq_true]
    exact fun o ho _ hbad => absurd (hp o ho) (by simp [hbad])
  have hanswer : s.answer h a outs = (s.markEmpty h.u (.vec rs)).send h.u (.vec rs) (.lanes (lanesFor rs rs outs)) := by
    obtain ⟨r, rest, rfl⟩ := List.exists_cons_of_ne_nil hne
    simp only [State.answer, hd, State.placeGood, hclean, fillFor]
  have hall : (rs.zipIdx.filter fun e => rs.contains e.1) = rs.zipIdx := List.filter_eq_self.mpr fun e he => by
    simpa using List.fst_mem_of_mem_zipIdx he
  obtain ⟨y, hy, hempty, hcrews⟩ := here_markEmpty hh rs
  rw [hanswer]
  have hsend := State.here_modPath (s := (s.markEmpty h.u (.vec rs)).newId.2) hy (f := fun p =>
    { p with flights := p.flights ++ [{ id := (s.markEmpty h.u (.vec rs)).uid, dest := .vec rs, fill := .lanes (lanesFor rs rs outs) }] }) rfl
  refine ⟨⟨_, _, hsend, hempty, List.getLast?_concat, rfl, ?_⟩, hcrews⟩
  simp only [lanesFor, hall]

end

/-! The lanes of PLD and PATM (R210). -/

section
variable {s : State} {cn : Nat} {w : Crew}

theorem eachLane_lanePad (hw : spFind cn s.crews = some w) (z : MemSize) : ∀ ls : List LaneAcc,
    eachLane (fun s l => s.lanePad cn z l) s ls = (s, ls.map fun l =>
      { lane := l.lane, words := loadWords z (cellRead w.pad l.pa z.bytes), poisoned := w.poisoned l.pa z.bytes })
  | [] => rfl
  | l :: ls => by
    have hlane : s.lanePad cn z l =
        (s, { lane := l.lane, words := loadWords z (cellRead w.pad l.pa z.bytes), poisoned := w.poisoned l.pa z.bytes }) := by
      simp only [State.lanePad, hw]
    rw [eachLane, hlane]
    dsimp only
    rw [eachLane_lanePad hw z ls]
    rfl

/-- A write to the pad poisons nothing. -/
theorem poisoned_padWrite {w : Crew} {a n off : Nat} {bs : List Byte} (h : w.poisoned a n = false) : (w.padWrite off bs).poisoned a n = false := by
  unfold Crew.poisoned at h ⊢
  rw [List.any_eq_false] at h ⊢
  exact fun sec hsec => h sec (List.mem_filter.mp hsec).1

/-- The atomics of lanes none of which meets poison (R67, R210). -/
theorem eachLane_lanePadAtom (o : AtomOp) (y : AtomType) : ∀ {ls : List LaneAcc} {s : State} {w : Crew}, spFind cn s.crews = some w →
    (∀ l ∈ ls, w.poisoned l.pa y.bytes = false) → ∃ bs v cs,
      eachLane (fun s l => s.lanePadAtom cn o y l) s ls =
        ({ s with crews := cs }, (ls.zip bs).map fun e => { lane := e.1.lane, words := wordsOfBytes e.2, poisoned := false }) ∧
      spFind cn cs = some v ∧ PadAtomsRun o y w.pad ls bs v.pad ∧ v.next = w.next
  | [], s, w, hw, _ => ⟨[], w, s.crews, rfl, hw, ⟨rfl, rfl⟩, rfl⟩
  | l :: ls, s, w, hw, hp => by
    let old := cellRead w.pad l.pa y.bytes
    let new := bytesOfNat (atomValue o y (natOfBytes old) l.data) y.bytes
    have hw1 : spFind cn (s.modCrew cn fun w => w.padWrite l.pa new).crews = some (w.padWrite l.pa new) := by
      rw [State.modCrew_crews, spFind_spModify_same, hw, Option.map_some]
    obtain ⟨bs, v, cs, hrun, hv, hpad, hnext⟩ := eachLane_lanePadAtom o y hw1
      fun x hx => poisoned_padWrite (hp x (List.mem_cons_of_mem l hx))
    refine ⟨old :: bs, v, cs, ?_, hv, ⟨bs, rfl, hpad⟩, hnext⟩
    have hlane : s.lanePadAtom cn o y l =
        (s.modCrew cn fun w => w.padWrite l.pa new, { lane := l.lane, words := wordsOfBytes old, poisoned := false }) := by
      simp only [State.lanePadAtom, hw, hp l List.mem_cons_self, Bool.false_eq_true, if_false]
      rfl
    rw [eachLane, hlane]
    dsimp only
    rw [hrun]
    rfl

end

/-! PLD, PST and PATM as their claims have them. -/

section
variable {s : State} {h : Here} {i : Instr} {c : PadClaim} {cn slot : Nat} {w : Crew}

theorem padClaim_cases (hc : padClaim h i = some c) : (∃ g d a b e z o, i = .pld g d a b e z o) ∨
    (∃ g d a b e o y, i = .patm g d a b e o y) ∨ ∃ g x a b e z o, i = .pst g x a b e z o := by
  unfold padClaim at hc
  split at hc
  · exact .inl ⟨_, _, _, _, _, _, _, rfl⟩
  · exact .inr (.inr ⟨_, _, _, _, _, _, _, rfl⟩)
  · exact .inr (.inl ⟨_, _, _, _, _, _, _, rfl⟩)
  · cases hc

theorem eachLane_mem {f : State → LaneAcc → State × LaneOut} (hf : ∀ s l, (f s l).1.mem = s.mem) : ∀ (ls : List LaneAcc) (s : State),
    (eachLane f s ls).1.mem = s.mem
  | [], _ => rfl
  | l :: ls, s => (eachLane_mem hf ls (f s l).1).trans (hf s l)

theorem lanePad_mem (n : Nat) (z : MemSize) (s : State) (l : LaneAcc) : (s.lanePad n z l).1.mem = s.mem := by
  unfold State.lanePad
  split <;> rfl

theorem lanePadAtom_mem (n : Nat) (o : AtomOp) (y : AtomType) (s : State) (l : LaneAcc) : (s.lanePadAtom n o y l).1.mem = s.mem := by
  unfold State.lanePadAtom
  split
  · rfl
  · dsimp only
    split <;> rfl

theorem perform_padLoad (hk : h.k.crew = some (cn, slot)) (z : MemSize) (d : Dest) (ls : List LaneAcc) (pc : Pc) :
    s.perform h { op := .padLoad z, dest := d, lanes := ls, group := pc } =
      some ((eachLane (fun s l => s.lanePad cn z l) s ls).1.answer h { op := .padLoad z, dest := d, lanes := ls, group := pc }
        (eachLane (fun s l => s.lanePad cn z l) s ls).2) := by
  simp only [State.perform, State.performOp, hk]

theorem perform_padAtom (hk : h.k.crew = some (cn, slot)) (o : AtomOp) (y : AtomType) (d : Dest) (ls : List LaneAcc) (pc : Pc) :
    s.perform h { op := .padAtom o y, dest := d, lanes := ls, group := pc } =
      some ((eachLane (fun s l => s.lanePadAtom cn o y l) s ls).1.answer h { op := .padAtom o y, dest := d, lanes := ls, group := pc }
        (eachLane (fun s l => s.lanePadAtom cn o y l) s ls).2) := by
  simp only [State.perform, State.performOp, hk]

/-- A PLD that meets no poison gives its registers the words of the present plane or the single copy (R210). -/
theorem perform_padLoad_sends {t : State} {z : MemSize} {d : Dest} {rs : List Nat} {reqs : List (Nat × DWord × List Byte)} {pc : Pc}
    (hk : h.k.crew = some (cn, slot)) (hw : spFind cn s.crews = some w) (hh : s.here h.u = some h) (hd : d = .vec rs) (hne : rs ≠ [])
    (hclean : ∀ r ∈ reqs, w.poisoned r.2.1.toNat z.bytes = false)
    (ht : s.perform h { op := .padLoad z, dest := d, lanes := reqs.map padLane, group := pc } = some t) :
    spFind cn t.crews = some w ∧ Sent t h.u rs (rs.zipIdx.map fun x => (x.1, reqs.map fun r =>
      (r.1, (loadWords z (cellRead w.pad r.2.1.toNat z.bytes)).getD x.2 0))) := by
  rw [perform_padLoad hk, eachLane_lanePad hw] at ht
  rw [← Option.some.inj ht]
  obtain ⟨hsent, hcrews⟩ := sent_answer (a := { op := .padLoad z, dest := d, lanes := reqs.map padLane, group := pc })
    (outs := (reqs.map padLane).map fun l =>
      { lane := l.lane, words := loadWords z (cellRead w.pad l.pa z.bytes), poisoned := w.poisoned l.pa z.bytes })
    hh hd hne fun o ho => by
      obtain ⟨l, hl, rfl⟩ := List.mem_map.mp ho
      obtain ⟨r, hr, rfl⟩ := List.mem_map.mp hl
      exact hclean r hr
  refine ⟨hcrews ▸ hw, ?_⟩
  simpa only [List.map_map, Function.comp_def, padLane] using hsent

/-- A PATM that meets no poison gives its registers the old bytes of its lanes (R210). -/
theorem perform_padAtom_sends {t : State} {o : AtomOp} {y : AtomType} {d : Dest} {rs : List Nat} {reqs : List (Nat × DWord × List Byte)}
    {pc : Pc} (hk : h.k.crew = some (cn, slot)) (hw : spFind cn s.crews = some w) (hh : s.here h.u = some h) (hd : d = .vec rs)
    (hne : rs ≠ []) (hclean : ∀ r ∈ reqs, w.poisoned r.2.1.toNat y.bytes = false)
    (ht : s.perform h { op := .padAtom o y, dest := d, lanes := reqs.map padLane, group := pc } = some t) :
    ∃ bs v, spFind cn t.crews = some v ∧ PadAtomsRun o y w.pad (reqs.map padLane) bs v.pad ∧ v.next = w.next ∧
      Sent t h.u rs (rs.zipIdx.map fun x => (x.1, (reqs.zip bs).map fun r => (r.1.1, (wordsOfBytes r.2).getD x.2 0))) := by
  obtain ⟨bs, v, cs, hrun, hv, hpad, hnext⟩ := eachLane_lanePadAtom o y (ls := reqs.map padLane) hw fun l hl => by
    obtain ⟨r, hr, rfl⟩ := List.mem_map.mp hl
    exact hclean r hr
  rw [perform_padAtom hk, hrun] at ht
  rw [← Option.some.inj ht]
  obtain ⟨hsent, hcrews⟩ := sent_answer (s := { s with crews := cs }) (x := h)
    (a := { op := .padAtom o y, dest := d, lanes := reqs.map padLane, group := pc })
    (outs := ((reqs.map padLane).zip bs).map fun e => { lane := e.1.lane, words := wordsOfBytes e.2, poisoned := false })
    hh hd hne fun o ho => by
      obtain ⟨l, -, rfl⟩ := List.mem_map.mp ho
      rfl
  refine ⟨bs, v, hcrews ▸ hv, hpad, hnext, ?_⟩
  simpa only [List.zip_map_left, List.map_map, Function.comp_def, padLane, Prod.map, id_eq] using hsent

theorem groupRegs_ne {v n : Nat} (hn : 0 < n) : groupRegs h v n ≠ [] := fun he => by
  have hlen := congrArg List.length he
  simp only [groupRegs, List.length_map, List.length_range, List.length_nil] at hlen
  omega

theorem groupBytes_length (v n l : Nat) : (groupBytes h v n l).length = 4 * n := by
  simp only [groupBytes, List.length_flatMap, bytesOfNat_length, List.map_const', List.sum_replicate, List.length_range, smul_eq_mul]
  exact Nat.mul_comm n 4

theorem memSize_bytes_le (z : MemSize) : z.bytes ≤ 16 := by cases z <;> decide
theorem memSize_bytes_le_regs (z : MemSize) : z.bytes ≤ 4 * z.regs := by cases z <;> decide
theorem memSize_bytes_words {z : MemSize} (hz : 4 ≤ z.bytes) : z.bytes % 4 = 0 ∧ 4 * z.regs = z.bytes := by
  cases z <;> revert hz <;> decide
theorem memSize_regs_pos (z : MemSize) : 0 < z.regs := by cases z <;> decide
theorem atomType_regs_pos (y : AtomType) : 0 < y.regs := by cases y <;> decide

/-- The lanes of a PST whose checks pass (R82, R83). -/
theorem storeLanes_of_pst {g : Guard} {x a : VReg} {b : SReg} {e : Bool} {z : MemSize} {o : BitVec 3}
    (hc : padClaim h (.pst g x a b e z o) = some c) (hg : PadGoes s h c cn slot w) : StoreLanes w z.bytes c.reqs := by
  cases hc
  have hlen : ∀ r ∈ (presentLanes h g).map (fun l => (l, addrOf h a b (offsetOf h o z.bytes) l, groupBytes h x.toNat z.regs l)),
      r.2.2.length = 4 * z.regs := fun r hr => by
    obtain ⟨l, -, rfl⟩ := List.mem_map.mp hr
    exact groupBytes_length _ _ _
  refine ⟨memSize_bytes_le z, hg.aligned, fun r hr => ?_, fun r hr hp => ?_, ?_⟩
  · rw [hlen r hr]
    exact memSize_bytes_le_regs z
  · have hflat : ¬ z.bytes < 4 := fun hlt => by
      have hnot := hg.plane (decide_eq_true hlt) r hr
      rw [hnot] at hp
      cases hp
    obtain ⟨h4, hregs⟩ := memSize_bytes_words (Nat.not_lt.mp hflat)
    exact ⟨h4, (hlen r hr).trans hregs⟩
  · rw [List.map_map]
    exact (List.nodup_range.filter _).map fun _ _ he => he

/-- The registers of PLD, and of PATM, are one at least. -/
theorem dest_ne {rs : List Nat} (hc : padClaim h i = some c) (hd : c.dest = .vec rs) (hi : ∀ g x a b e z o, i ≠ .pst g x a b e z o) :
    rs ≠ [] := by
  obtain ⟨g, d, a, b, e, z, o, rfl⟩ | ⟨g, d, a, b, e, o, y, rfl⟩ | ⟨g, x, a, b, e, z, o, rfl⟩ := padClaim_cases hc
  · cases hc
    cases hd
    exact groupRegs_ne (memSize_regs_pos z)
  · cases hc
    cases hd
    exact groupRegs_ne (atomType_regs_pos y.atom)
  · exact absurd rfl (hi g x a b e z o)

end

/-- Settles O19: the checks of R209 one after another; a store as the fold of its lanes, a read and an atomic as what each lane of them
gives the destination. -/
theorem padAccesses : Obligations.PadAccesses := by
  unfold Obligations.PadAccesses
  refine ⟨?_, ?_⟩
  · intro s h i c cn slot w hc hg
    obtain ⟨reads, dst, lanes, act, hi⟩ := padIs_of_padClaim hc
    obtain ⟨hk, hw⟩ := hg.crew
    have hcrew := crewOf_eq hk hw
    have hload : ∀ g d a b e z o, i = .pld g d a b e z o → s.perform h
        { op := .padLoad z, dest := c.dest, lanes := c.reqs.map padLane, group := h.p.groupPc } = some (act s h (c.reqs.map padLane)) := by
      intro g d a b e z o he
      rw [hi.load g d a b e z o he, padRead, hi.dest, perform_padLoad hk]
      rfl
    have hatom : ∀ g d a b e o y, i = .patm g d a b e o y → s.perform h
        { op := .padAtom o y.atom, dest := c.dest, lanes := c.reqs.map padLane, group := h.p.groupPc } =
          some (act s h (c.reqs.map padLane)) := by
      intro g d a b e o y he
      rw [hi.atom g d a b e o y he, padRead, hi.dest, perform_padAtom hk]
      rfl
    have hstore : ∀ g x a b e z o, i = .pst g x a b e z o → act s h (c.reqs.map padLane) = s.modCrew cn fun v =>
        (c.reqs.map padLane).foldl (fun v l => v.padStore slot z.bytes l) v :=
      fun g x a b e z o he => hi.store g x a b e z o he s _ cn slot w hcrew
    have hmem : (act s h (c.reqs.map padLane)).mem = s.mem := by
      obtain ⟨g, d, a, b, e, z, o, he⟩ | ⟨g, d, a, b, e, o, y, he⟩ | ⟨g, x, a, b, e, z, o, he⟩ := padClaim_cases hc
      · have hp := hload g d a b e z o he
        rw [perform_padLoad hk] at hp
        rw [← Option.some.inj hp, State.answer_mem, eachLane_mem (lanePad_mem cn z)]
      · have hp := hatom g d a b e o y he
        rw [perform_padAtom hk] at hp
        rw [← Option.some.inj hp, State.answer_mem, eachLane_mem (lanePadAtom_mem cn o y.atom)]
      · rw [hstore g x a b e z o he]
        rfl
    refine ⟨_, exec_pad_goes hi hg, fun key a => ?_, fun hnil => if_pos hnil, fun hne => ?_⟩
    · split
      · rfl
      · exact congrArg (fun m => MemSt.readByte m key a) hmem
    · rw [if_neg hne]
      refine ⟨hload, hatom, hstore, fun g x a b e z o he hwf => ?_, fun hclean rs hd =>
        ⟨fun g d a b e z o he => ?_, fun g d a b e o y he => ?_⟩⟩
      · rw [hstore g x a b e z o he]
        refine ⟨storeAll slot z.bytes w c.reqs, ?_, padStored_storeAll (storeLanes_of_pst (he ▸ hc) hg) hwf, rfl, rfl,
          fun j hj => spFind_spModify_ne hj _ _⟩
        exact (spFind_spModify_same cn _ s.crews).trans (by rw [hw]; rfl)
      · have hsize : c.size = z.bytes := by
          subst he
          cases hc
          rfl
        exact perform_padLoad_sends hk hw hg.admits.here hd (dest_ne hc hd (by rw [he]; exact nofun)) (hsize ▸ hclean)
          (hload g d a b e z o he)
      · have hsize : c.size = y.atom.bytes := by
          subst he
          cases hc
          rfl
        exact perform_padAtom_sends hk hw hg.admits.here hd (dest_ne hc hd (by rw [he]; exact nofun)) (hsize ▸ hclean)
          (hatom g d a b e o y he)
  · intro s h i c cn slot w before after r hc ha hgd hr hk hw hs
    obtain ⟨reads, dst, lanes, act, hi⟩ := padIs_of_padClaim hc
    have hcrew := crewOf_eq hk hw
    refine ⟨fun hb hx => ?_, fun hal hb => ⟨fun hx => ?_, fun hbound hf hpl hx => ?_⟩⟩
    · exact exec_pad_trap hi ha hgd hr (.inl (hs ▸ needAligned_stop hb hx))
    · exact exec_pad_trap hi ha hgd hr (.inr ⟨needAligned_ok s c.size _ hal, .inl (hs ▸ needBound_stop hcrew hb hx)⟩)
    · exact exec_pad_trap hi ha hgd hr (.inr ⟨needAligned_ok s c.size _ hal, .inr ⟨needBound_ok hcrew hbound, hf,
        hs ▸ needFlat_stop hcrew hpl hx⟩⟩)

end Sys2Proof.Claims
end

section
/-! PROOF. SWR: where each special register is kept, and the bits that it keeps (R100, R101, R299, R322, R331). -/
namespace Sys2Proof.Machine

/-- A module after one is changed. -/
theorem State.mod_setMod (s : State) (m j : Nat) (f : ModuleSt → ModuleSt) :
    (s.setMod m f).mod j = if j = m then f (s.mod m) else s.mod j := by
  unfold State.mod State.setMod
  by_cases h : j = m
  · rw [h, spFind_spPut_same, if_pos rfl]
    rfl
  · rw [spFind_spPut_ne h, if_neg h]

end Sys2Proof.Machine

namespace Sys2Proof.Claims
open Sys2Proof.Machine

/-- The per-knot registers are those that SWR checks for a single path; each is kept in the knot, with the bits of R322 and R331. -/
theorem writeSpecial_of_regsWritten {s : State} {h : Here} {n : Special} {v : DWord} {x : KnotRegs}
    (hx : regsWritten h.k.regs n v = some x) :
    perKnot n = true ∧ n.writable = true ∧ n ≠ .parkmax ∧ h.k.regs.write n v = x ∧
      s.writeSpecial h n v = s.modKnot h.p.knot fun k => { k with regs := k.regs.write n v } := by
  cases n <;> cases hx
  case asid | watchdog => exact ⟨rfl, rfl, nofun, by simp [KnotRegs.write, BitVec.setWidth_eq_extractLsb'], rfl⟩
  all_goals exact ⟨rfl, rfl, nofun, rfl, rfl⟩

/-- SERVICE is kept in the module of the path's place: RETIRED, and the two flags that ones clear (R332). -/
theorem mod_writeSpecial_service (s : State) (h : Here) (v : DWord) (j : Nat) : (s.writeSpecial h .service v).mod j =
    if j = moduleOf h.p.home then
      { s.mod (moduleOf h.p.home) with
        retired := v.extractLsb' 16 16
        uncorr := (s.mod (moduleOf h.p.home)).uncorr && !v.getLsbD 1
        replace := (s.mod (moduleOf h.p.home)).replace && !v.getLsbD 0 }
    else s.mod j :=
  State.mod_setMod ..

/-- An instruction that needs supervisor level is admitted at that level only (R281). -/
theorem super_of_admits {s : State} {h : Here} {f : InstrForm} (ha : Admits s h.u h f) (hp : f.priv = true) : h.p.super = true := by
  have hd := ha.decode
  unfold decodeTrap at hd
  cases hs : h.p.super
  · rw [hp, hs] at hd
    split at hd
    · cases hd
    · split at hd <;> cases hd
  · rfl

/-- The next word after a change of the path's context or of its knot completes an instruction, where the watchdog counts the word as
before the change. -/
theorem changed_retire_completes {s t : State} {h : Here} {c : Ctx} {k : Knot}
    (ht : t.here h.u = some { u := h.u, p := { h.p with ctx := c }, k := k }) (hr : s.SameRest t h.u h.p.knot)
    (hw : ({ h.p with ctx := c } : Path).counted k.regs.watchdog = h.counted) :
    Completes s (t.retire h.u) h h.p (nextWord c) k := by
  have hr' := hr.trans (State.sameRest_retire t h.u h.p.knot)
  refine ⟨_, State.here_retire ht, ?_, ⟨rfl, rfl, rfl, rfl, rfl, rfl, rfl⟩, rfl, rfl, rfl, hr', fun key a => by rw [hr'.mem]⟩
  show { nextWord c with wd := ({ h.p with ctx := c } : Path).counted k.regs.watchdog, sent := 0 } = _
  rw [hw]

/-- A change of the path's own context, and the next word. -/
theorem modCtx_retire_completes {s : State} {h : Here} (hh : s.here h.u = some h) (f : Ctx → Ctx) (hf : (f h.p.ctx).wd = h.p.ctx.wd) :
    Completes s ((s.modCtx h.u f).retire h.u) h h.p (nextWord (f h.p.ctx)) h.k :=
  changed_retire_completes (State.here_modPath hh rfl) (State.sameRest_modPath ..)
    (by simp only [Here.counted, Path.counted, hf])

section
variable {s : State} {h : Here} {r : SReg} {e : Bool} {n : Special} (ha : Admits s h.u h { priv := n.writable && n.privileged })
include ha

/-- SWR of a register that no level writes (R299). -/
theorem exec_swr_readOnly (hn : n.writable = false) : exec (.swr r e n) s = .next (s.takeTrap h.u { code := .illegal }) :=
  exec_of_trap ha rfl rfl (by rw [hn]; rfl)

/-- SWR of a register that is written, where a per-knot one finds a single path (R299). -/
theorem exec_swr_writes (hn : n.writable = true) (hr : h.p.ctx.scalState r.toNat = .full)
    (hk : perKnot n = true → s.siblings h.p.knot h.u = []) :
    exec (.swr r e n) s = .next (let t := (s.writeSpecial h n (h.p.ctx.scalVal r.toNat)).retire h.u
      if n = .parkmax then t.serviceOn h.p.home (List.range Config.coresPerStack) else t) := by
  have hsrc : checkSources s h.p [scalSource r e] = .ok () := checkSources_full s h.p (List.forall_mem_singleton.mpr hr)
  refine exec_of_ok ha rfl rfl ?_
  simp only [hn, Bool.not_true, Bool.false_eq_true, if_false, hsrc, res_ok_bind]
  split
  · next hp => rw [needSingle, if_pos (State.single_iff.mpr (hk hp)), res_ok_bind]
  · rfl

theorem exec_swr_retires (hn : n.writable = true) (hp : n ≠ .parkmax) (hr : h.p.ctx.scalState r.toNat = .full)
    (hk : perKnot n = true → s.siblings h.p.knot h.u = []) :
    exec (.swr r e n) s = .next ((s.writeSpecial h n (h.p.ctx.scalVal r.toNat)).retire h.u) := by
  rw [exec_swr_writes ha hn hr hk, if_neg hp]

/-- SWR of a per-knot register of a knot with another path (R299). -/
theorem exec_swr_diverged (hn : n.writable = true) (hr : h.p.ctx.scalState r.toNat = .full) (hp : perKnot n = true)
    (hk : s.siblings h.p.knot h.u ≠ []) : exec (.swr r e n) s = .next (s.takeTrap h.u { code := .diverged }) := by
  have hsrc : checkSources s h.p [scalSource r e] = .ok () := checkSources_full s h.p (List.forall_mem_singleton.mpr hr)
  refine exec_of_trap ha rfl rfl (t := s) ?_
  simp only [hn, Bool.not_true, Bool.false_eq_true, if_false, hsrc, res_ok_bind, hp, if_true, needSingle,
    if_neg (mt State.single_iff.mp hk), res_error_bind]

/-- The word of an SWR is counted as before the write: WATCHDOG is written at supervisor level, where no word is counted (R53). -/
theorem counted_regsWritten {x : KnotRegs} {v : DWord} (hx : regsWritten h.k.regs n v = some x) :
    h.p.counted x.watchdog = h.counted := by
  have hs : h.p.super = true := super_of_admits ha (by cases n <;> cases hx <;> rfl)
  simp only [Here.counted, Path.counted, hs, Bool.true_or, if_true]

/-- SWR of a per-knot register of a single-path knot (R299, R322). -/
theorem exec_swr_perKnot {x : KnotRegs} (hx : regsWritten h.k.regs n (h.p.ctx.scalVal r.toNat) = some x)
    (hr : h.p.ctx.scalState r.toNat = .full) (hk : s.siblings h.p.knot h.u = []) :
    ∃ t, exec (.swr r e n) s = .next t ∧ Completes s t h h.p (nextWord h.p.ctx) { h.k with regs := x } := by
  obtain ⟨-, hn, hpark, hval, hput⟩ := writeSpecial_of_regsWritten (s := s) hx
  refine ⟨_, exec_swr_retires ha hn hpark hr fun _ => hk, ?_⟩
  rw [hput]
  refine changed_retire_completes ?_ (State.sameRest_modKnot ..) (counted_regsWritten ha hx)
  rw [State.here_modKnot ha.here, hval]

end

/-- Settles O34: SWR writes the register where it is kept and goes to the next word; the checks come first. -/
theorem specialWrites : Obligations.SpecialWrites := by
  intro s h r e n ha hr
  refine ⟨?_, ?_, fun x hx => ⟨exec_swr_perKnot ha hx hr, fun hk => ?_⟩, ?_, ?_, exec_swr_readOnly ha⟩
  · rintro rfl
    rw [← BitVec.setWidth_eq_extractLsb' (by decide)]
    exact ⟨_, exec_swr_retires ha rfl nofun hr nofun, modCtx_retire_completes ha.here _ rfl⟩
  · rintro rfl
    rw [← BitVec.setWidth_eq_extractLsb' (by decide)]
    exact ⟨_, exec_swr_retires ha rfl nofun hr nofun, modCtx_retire_completes ha.here _ rfl⟩
  · obtain ⟨hp, hn, -⟩ := writeSpecial_of_regsWritten (s := s) hx
    exact exec_swr_diverged ha hn hr hp hk
  · rintro rfl
    refine ⟨_, exec_swr_retires ha rfl nofun hr nofun, retire_completes (by exact ha.here), ?_, fun j hj => ?_⟩
    · exact (mod_writeSpecial_service s h _ _).trans (if_pos rfl)
    · exact (mod_writeSpecial_service s h _ j).trans (if_neg hj)
  · rintro rfl
    rw [← BitVec.setWidth_eq_extractLsb' (by decide)]
    exact exec_swr_writes ha rfl hr nofun

end Sys2Proof.Claims
end

section
/-! PROOF. NaN results, and the operations that have none but a NaN (R96, R98, R103). -/
namespace Sys2Proof.Machine

theorem FVal.isNan_iff {v : FVal} : v.isNan = true ↔ ∃ q, v = .nan q := by
  cases v <;> simp [FVal.isNan]

@[simp] theorem FVal.isNan_neg (v : FVal) : v.neg.isNan = v.isNan := by
  cases v <;> rfl

theorem FpEnv.addVals_nan {c : FpEnv} {a b : FVal} (h : a.isNan = true ∨ b.isNan = true) : c.addVals a b = (c.fmt.nan, 0) := by
  rcases h with h | h <;> obtain ⟨q, rfl⟩ := FVal.isNan_iff.mp h
  · rfl
  · cases a <;> rfl

theorem mulVals_isNan {a b : FVal} (h : a.isNan = true ∨ b.isNan = true) : (mulVals a b).isNan = true := by
  rcases h with h | h <;> obtain ⟨q, rfl⟩ := FVal.isNan_iff.mp h
  · rfl
  · cases a <;> rfl

theorem FpEnv.mul_nan {c : FpEnv} {x y : Nat} (h : (c.read x).isNan = true ∨ (c.read y).isNan = true) : (c.mul x y).1 = c.fmt.nan := by
  unfold FpEnv.mul
  rcases h with h | h <;> obtain ⟨q, hq⟩ := FVal.isNan_iff.mp h
  · rw [hq]
  · rw [hq]
    cases c.read x <;> rfl

theorem FpEnv.fma_nan {c : FpEnv} {x y z : Nat}
    (h : (c.read x).isNan = true ∨ (c.read y).isNan = true ∨ (c.read z).isNan = true) : (c.fma x y z).1 = c.fmt.nan := by
  unfold FpEnv.fma
  dsimp only
  split
  · rfl
  · rw [FpEnv.addVals_nan (h.elim (fun h => .inl (mulVals_isNan (.inl h))) fun h => h.imp (fun h => mulVals_isNan (.inr h)) id)]

/-- A signalling operand sets NV (R98). -/
theorem nvOf_pair {a b : FVal} (h : a.signals = true ∨ b.signals = true) : nvOf [a, b] = flagNV := by
  unfold nvOf
  rw [if_pos (by simpa using h)]

theorem flags_or_nv (f : FpFlags) : (f ||| flagNV) &&& flagNV = flagNV := by
  revert f
  decide

theorem FpEnv.add_nan {c : FpEnv} {x y : Nat} (h : (c.read x).isNan = true ∨ (c.read y).isNan = true) : (c.add x y).1 = c.fmt.nan :=
  congrArg Prod.fst (FpEnv.addVals_nan h)

theorem FpEnv.sub_nan {c : FpEnv} {x y : Nat} (h : (c.read x).isNan = true ∨ (c.read y).isNan = true) : (c.sub x y).1 = c.fmt.nan :=
  congrArg Prod.fst (FpEnv.addVals_nan (h.imp_right ((FVal.isNan_neg _).trans ·)))

/-- Infinity minus infinity (R103). -/
theorem FpEnv.add_opposite {c : FpEnv} {x y : Nat} {n : Bool} (hx : c.read x = .inf n) (hy : c.read y = .inf !n) :
    c.add x y = (c.fmt.nan, flagNV) := by
  unfold FpEnv.add
  rw [hx, hy]
  cases n <;> simp [FpEnv.addVals, nvOf, FVal.signals]

/-- Infinity times zero (R103). -/
theorem FpEnv.mul_inf_zero {c : FpEnv} {x y : Nat} {n k : Bool} {e : Int} (hx : c.read x = .inf n) (hy : c.read y = .num k 0 e) :
    c.mul x y = (c.fmt.nan, flagNV) := by
  unfold FpEnv.mul
  rw [hx, hy]
  simp [nvOf, FVal.signals]

theorem FpEnv.add_signals {c : FpEnv} {x y : Nat} (h : (c.read x).signals = true ∨ (c.read y).signals = true) :
    (c.add x y).2 &&& flagNV = flagNV := by
  simp only [FpEnv.add, nvOf_pair h, flags_or_nv]

theorem FpEnv.mul_signals {c : FpEnv} {x y : Nat} (h : (c.read x).signals = true ∨ (c.read y).signals = true) :
    (c.mul x y).2 &&& flagNV = flagNV := by
  simp only [FpEnv.mul, nvOf_pair h, flags_or_nv]

/-- Settles O59: a NaN operand decides the case of each operation, and so do infinities. -/
theorem nanResultsAreCanonical : Obligations.NanResultsAreCanonical := by
  refine ⟨rfl, rfl, rfl, fun c x y z => ⟨fun h => ⟨FpEnv.add_nan h, FpEnv.sub_nan h, FpEnv.mul_nan h, FpEnv.fma_nan ?_⟩,
    fun h => FpEnv.fma_nan (.inr (.inr h)), fun _ => FpEnv.add_opposite, fun _ _ _ => FpEnv.mul_inf_zero,
    fun h => ⟨FpEnv.add_signals h, FpEnv.mul_signals h⟩⟩⟩
  exact h.imp_right .inl

end Sys2Proof.Machine
end

section
/-! PROOF. Floating-point instructions and conversions: each is one write of its lanes, and the OR of their flags (R156 to R165). -/
namespace Sys2Proof.Claims
open Sys2Proof.Machine

/-- The four directions of MODE[1:0] (R100). -/
theorem dirOf_eq (c : BitVec 2) : dirOf c = (match c.toNat with
    | 0 => .near
    | 1 => .zero
    | 2 => .down
    | _ => .up) := by
  revert c
  decide

/-- The direction of a rounding field (R102). -/
theorem roundingOf_eq (h : Here) (r : RndField) (f : FloatFmt) : roundingOf r h.p.ctx.mode h.p.hints = (fpEnvOf h r f).dir := by
  cases r with
  | mode => exact dirOf_eq (h.p.ctx.mode.extractLsb' 0 2)
  | near | zero | hint => rfl

/-- The environment of an instruction (R99, R102, R123). -/
theorem envIn_eq (h : Here) (r : RndField) (f : FloatFmt) : envIn h (hintFormat h.p.hints f) r = fpEnvOf h r f := by
  unfold envIn
  rw [roundingOf_eq h r f]
  rfl

theorem fpEnv_eq (h : Here) (r : RndField) : fpEnv h r = fpEnvOf h r fmtF32 := envIn_eq h r fmtF32

/-- The flags of the effective lanes (R101). -/
theorem flagsOf_eq (h : Here) (g : Guard) (res : Nat → Word × FpFlags) :
    flagsOf h g res = orFlags (effective h g) h.k.grant fun l => (res l).2 := by
  unfold flagsOf orFlags lanesOf
  rw [List.foldl_filter]

/-- Sources are full when their registers are. -/
theorem full_of_names {h : Here} {srcs : List (RegName × Bool)} (hr : ∀ r ∈ srcs.map (·.1), h.p.ctx.stateOf r = .full) :
    ∀ r ∈ srcs, h.p.ctx.stateOf r.1 = .full :=
  fun _ hx => hr _ (List.mem_map_of_mem hx)

section
variable {s : State} {h : Here} {i : Instr} {r : RndField} {g : Guard} {d a b : VReg} {e f : Bool}

/-- An instruction whose lanes each give a result with flags (R158). -/
theorem fpLanes_result {form : InstrForm} {srcs : Ctx → List (RegName × Bool)} {names : List RegName} {res : Here → Nat → Word × FpFlags}
    {val : Nat → Word × FpFlags} (hi : exec i s = fpLanes form g srcs d res s) (hn : (srcs h.p.ctx).map (·.1) = names) (hv : res h = val) :
    RegisterResult s h i (fpClaim h form g d names val) := by
  subst hn hv
  refine registerResult_of_gives fun ha hg hr hd =>
    ⟨_, hi.trans (fpLanes_next ha hg res (full_of_names hr) (hd _ List.mem_cons_self)), ?_⟩
  change Gives s h _ (((s.writeVec h.u _ (effective h g) _).addFlags h.u (orFlags (effective h g) h.k.grant _)).retire h.u)
  rw [← flagsOf_eq]
  exact gives_vec (c := fpClaim h form g d _ (res h)) ha.here rfl rfl rfl

theorem fp1_result {op : FpEnv → Nat → FpOut} (hi : exec i s = fp1 r g d a e op s) : RegisterResult s h i (fpClaim1 h r g d a op) :=
  fpLanes_result hi rfl (by rw [fpEnv_eq]; rfl)

theorem fp2_result {op : FpEnv → Nat → Nat → FpOut} (hi : exec i s = fp2 r g d a b e f op s) :
    RegisterResult s h i (fpClaim2 h r g d a b op) :=
  fpLanes_result hi rfl (by rw [fpEnv_eq]; rfl)

theorem fp3_result {op : FpEnv → Nat → Nat → Nat → FpOut} (hi : exec i s = fp3 r g d a b e f op s) : RegisterResult s h i
    (fpClaim h { fmt := true, rnd := r == .hint } g d [vecName h a, vecName h b, vecName h d] fun l =>
      let o := op (fpEnvOf h r fmtF32) (numOf h r a l) (numOf h r b l) (numOf h r d l)
      (BitVec.ofNat 32 o.1, o.2)) :=
  fpLanes_result hi rfl (by rw [fpEnv_eq]; rfl)

theorem fpPair_result {srcs : Ctx → List (RegName × Bool)} {names : List RegName} {op : FpEnv → Here → Nat → Nat → FpOut}
    (hi : exec i s = fpPair r g srcs d op s) (hn : (srcs h.p.ctx).map (·.1) = names) :
    RegisterResult s h i (packClaim h r g d names fun c => op c h) :=
  fpLanes_result hi hn (by rw [envIn_eq])

theorem fpPair2_result {op : FpEnv → Nat → Nat → FpOut} (hi : exec i s =
      fpPair r g (fun c => [vecSource c a e, vecSource c b f]) d (fun c h l n => op c (elementOf h a l n) (elementOf h b l n)) s) :
    RegisterResult s h i
      (packClaim h r g d [vecName h a, vecName h b] fun c l n => op c (elementOf h a l n) (elementOf h b l n)) :=
  fpPair_result hi rfl

theorem hfma2_result : RegisterResult s h (.hfma2 r g d a b e f)
    (packClaim h r g d [vecName h a, vecName h b, vecName h d] fun c l n =>
      c.fma (elementOf h a l n) (elementOf h b l n) (elementOf h d l n)) :=
  fpPair_result (srcs := fun c => [vecSource c a e, vecSource c b f, vecSource c d e])
    (op := fun c h l n => c.fma (elementOf h a l n) (elementOf h b l n) (elementOf h d l n)) rfl rfl

/-- FCMP writes a predicate (R159). -/
theorem fcmp_result {p : PReg} {k : FCond} : RegisterResult s h (.fcmp g p a b e f k)
    { form := { fmt := true }, guard := g, reads := [guardName g, vecName h a, vecName h b]
      pred := some (p, fun l => ((fpEnvOf h .mode fmtF32).cmp k (numOf h .mode a l) (numOf h .mode b l)).1)
      flags := flagsOf h g fun l => (0, ((fpEnvOf h .mode fmtF32).cmp k (numOf h .mode a l) (numOf h .mode b l)).2) } := by
  refine registerResult_of_gives fun ha hg hr hd => ?_
  have hsrc : checkSources s h.p [guardSource g, vecSource h.p.ctx a e, vecSource h.p.ctx b f] = .ok () :=
    checkSources_full s h.p (full_of_names hr)
  have hdst : awaitDests s h.p (effective h g) [{ file := .pred, num := p.toNat }] = .ok () := awaitDests_ready s h.p _ hd
  refine ⟨_, exec_of_ok ha rfl (isNever_false hg) ?_, gives_pred ha.here rfl rfl rfl
    fun l hl he => maskWhere_lane (effective h g) h.k.grant _ hl he⟩
  simp only [hsrc, hdst, res_ok_bind, fpEnv_eq, flagsOf_eq]
  rfl

end

/-- Every floating-point instruction is one of the shared shapes. -/
theorem float_result {s : State} {h : Here} {i : Instr} {c : RegClaim} (hc : floatClaim h i = some c) : RegisterResult s h i c := by
  unfold floatClaim at hc
  split at hc
  all_goals cases hc
  case h_1 | h_2 | h_3 => exact fp2_result rfl
  case h_4 => exact fp3_result rfl
  case h_5 | h_6 | h_7 | h_8 | h_9 | h_10 | h_11 | h_12 => exact fp1_result rfl
  case h_13 => exact fpPair2_result (op := FpEnv.add) rfl
  case h_14 => exact fpPair2_result (op := FpEnv.mul) rfl
  case h_15 => exact hfma2_result
  case h_16 | h_17 => exact fp2_result rfl
  case h_18 | h_19 | h_20 => exact fp1_result rfl
  case h_21 => exact fcmp_result

/-- The direction of a conversion (R102). -/
theorem roundingOf_dirIn (h : Here) (r : RndField) : roundingOf r h.p.ctx.mode h.p.hints = dirIn h r := roundingOf_eq h r fmtF32

section
variable {s : State} {h : Here} {r : RndField} {g : Guard} {d a : VReg} {e : Bool} {p : BitVec 2} {t x : TypeCode}

/-- The source of a conversion: a pair for 64 bits, otherwise the lane (R162). -/
theorem sourceBits_eq (h : Here) (x : TypeCode) (a : VReg) (l : Nat) :
    sourceBits h x a l = if x.regs = 2 then (pairOf h a l).toNat else (laneOf h a l).toNat := rfl

theorem operand_eq (h : Here) (a : VReg) (l : Nat) : operand h a l = (laneOf h a l).toNat := rfl

/-- A register or a pair, and flags. -/
theorem gives_group {s : State} {h : Here} {c : RegClaim} {n : Nat} {lo hi : Nat → Word} {eff : Mask} {two : Prop} [Decidable two]
    {fl : FpFlags} (hh : s.here h.u = some h) (hv : c.vecs = if two then [(n, lo), (n + 1, hi)] else [(n, lo)]) (hp : c.pred = none)
    (hs : c.scal = none) (hf : fl = c.flags) (he : eff = effective h c.guard) :
    Gives s h c (((s.writeGroup h.u eff (if two then [(n, lo), (n + 1, hi)] else [(n, lo)])).addFlags h.u fl).retire h.u) := by
  subst hf he
  by_cases h2 : two
  · rw [if_pos h2] at hv ⊢
    exact gives_pair hh hv hp hs
  · rw [if_neg h2] at hv ⊢
    exact gives_vec hh hv hp hs

/-- CVT writes a register or, of a 64-bit type, a pair (R162). -/
theorem cvt_result {c : RegClaim} (hc : convertClaim h (.cvt g d a e r t x) = some c) : RegisterResult s h (.cvt g d a e r t x) c := by
  cases hc
  refine registerResult_of_gives fun ha hg hr hd => ?_
  have hsrc : checkSources s h.p (guardSource g :: groupSources h.p.ctx a.toNat x.regs e) = .ok () := by
    refine checkSources_full s h.p (full_of_names fun q hq => hr q ?_)
    convert hq using 1
    cases x <;> rfl
  have hdst : awaitDests s h.p (effective h g)
      ((List.range t.regs).map fun n => { file := .vec, num := h.p.ctx.reg d.toNat + n }) = .ok () := by
    refine awaitDests_ready s h.p _ fun q hq => hd q ?_
    convert hq using 1
    cases t <;> rfl
  have hx := fun t' hb => exec_of_ok (t := t') (i := .cvt g d a e r t x) ha rfl (isNever_false hg) hb
  simp only [hsrc, hdst, res_ok_bind, roundingOf_dirIn, sourceBits_eq] at hx
  refine ⟨_, hx _ rfl, ?_⟩
  exact gives_group ha.here rfl rfl rfl (flagsOf_eq h g fun l => (0, _)).symm rfl

theorem cvtn_result {c : RegClaim} (hc : convertClaim h (.cvtn g d a e r p t) = some c) : RegisterResult s h (.cvtn g d a e r p t) c := by
  cases hc
  refine fpLanes_result (show exec _ s = execCvtn g d a e r p t s from rfl) rfl ?_
  simp only [roundingOf_dirIn]
  rfl

theorem cvtPart_result {c : RegClaim} (hc : convertClaim h (.cvtPart g d a e p t) = some c) :
    RegisterResult s h (.cvtPart g d a e p t) c := by
  cases hc
  exact fpLanes_result (show exec _ s = execCvtPart g d a e p t s from rfl) rfl rfl

/-- BXQ writes one register, a block to a mask word (R164). -/
theorem bxq_result {c : RegClaim} (hc : convertClaim h (.bxq g d a e t) = some c) : RegisterResult s h (.bxq g d a e t) c := by
  cases hc
  refine registerResult_of_gives fun ha hg hr hd => ?_
  have hsrc : checkSources s h.p [guardSource g, vecSource h.p.ctx a e] = .ok () := checkSources_full s h.p (full_of_names hr)
  have hdst : awaitDests s h.p (effective h g) [{ file := .vec, num := h.p.ctx.reg d.toNat }] = .ok () := awaitDests_ready s h.p _ hd
  have hx := fun t' hb => exec_of_ok (t := t') (i := .bxq g d a e t) ha rfl (isNever_false hg) hb
  simp only [hsrc, hdst, res_ok_bind, List.foldl_map] at hx
  exact ⟨_, hx _ rfl, gives_vec ha.here rfl rfl rfl⟩

theorem bxd_result {c : RegClaim} (hc : convertClaim h (.bxd g d a e t) = some c) : RegisterResult s h (.bxd g d a e t) c := by
  cases hc
  refine fpLanes_result (show exec _ s = execBxd g d a e t s from rfl) rfl (funext fun l => ?_)
  simp only [operand_eq]
  cases bxValue (t == .bx4) (laneOf h a l).toNat ((laneOf h a l).toNat / 65536) <;> rfl

end

theorem convert_result {s : State} {h : Here} {i : Instr} {c : RegClaim} (hc : convertClaim h i = some c) : RegisterResult s h i c := by
  cases i with
  | cvt g d a e r t x => exact cvt_result hc
  | cvtn g d a e r p t => exact cvtn_result hc
  | cvtPart g d a e p t => exact cvtPart_result hc
  | bxq g d a e t => exact bxq_result hc
  | bxd g d a e t => exact bxd_result hc
  | _ => cases hc

/-- Settles O2: the states that the shared shapes lead to are those of their claims. -/
theorem floatAndConvertResults : Obligations.FloatAndConvertResults :=
  ⟨fun _ _ _ _ => float_result, fun _ _ _ _ => convert_result⟩

end Sys2Proof.Claims
end

section
/-! PROOF. Rounding to an integer: what the shift of a significand gives, and when it reaches a bound (R102). -/
namespace Sys2Proof.Arith
open Sys2Proof.Machine Sys2Proof.Claims

/-- Where a direction takes a magnitude: to the nearest integer, inward or outward. -/
inductive Side where
  | nearest
  | inward
  | outward

/-- The side to which a direction takes the magnitude of a value of a sign (R102). -/
def sideOf (d : Dir) (neg : Bool) : Side :=
  match d with
  | .near => .nearest
  | .zero => .inward
  | .down => if neg then .outward else .inward
  | .up => if neg then .inward else .outward

/-- A magnitude rounds to a natural number. -/
def MagRounds (side : Side) (y : ℚ) (u : ℕ) : Prop :=
  match side with
  | .nearest => NearInt y u
  | .inward => (u : ℤ) = ⌊y⌋
  | .outward => (u : ℤ) = ⌈y⌉

/-- A magnitude rounds to at least `j`: to the nearest, from half a unit below it on, where a tie goes to the even one. -/
def Reaches (side : Side) (y : ℚ) (j : ℕ) : Prop :=
  match side with
  | .nearest => (j : ℚ) - 1 / 2 < y ∨ (y = j - 1 / 2 ∧ j % 2 = 0)
  | .inward => (j : ℚ) ≤ y
  | .outward => (j : ℚ) - 1 < y

/-- A value that a significand stands for: itself or, where a part below it was cut off, one strictly between it and the next. -/
def Within (m : ℕ) (sticky : Bool) (z : ℚ) : Prop := (m : ℚ) ≤ z ∧ z < m + 1 ∧ (sticky = false ↔ z = m)

theorem within_exact (m : ℕ) : Within m false m := ⟨le_rfl, by linarith, by simp⟩

theorem nearInt_of_eq {y : ℚ} {v : ℤ} (h : y = v) : NearInt y v := by
  subst h
  constructor <;> norm_num

/-- The nearest integer to a value in the lower half of a unit, and in the upper half. -/
theorem nearInt_below {y : ℚ} {k : ℤ} (h1 : (k : ℚ) ≤ y) (h2 : y ≤ k + 1 / 2) (ht : y = k + 1 / 2 → k % 2 = 0) : NearInt y k := by
  have habs : |y - k| = y - k := abs_of_nonneg (by linarith)
  refine ⟨by linarith, fun h => ht (by linarith)⟩

theorem nearInt_above {y : ℚ} {k : ℤ} (h1 : (k : ℚ) - 1 / 2 ≤ y) (h2 : y ≤ k) (ht : y = k - 1 / 2 → k % 2 = 0) : NearInt y k := by
  have habs : |y - k| = k - y := by rw [abs_sub_comm]; exact abs_of_nonneg (by linarith)
  refine ⟨by linarith, fun h => ht (by linarith)⟩

theorem magRounds_of_eq {side : Side} {y : ℚ} {u : ℕ} (h : y = u) : MagRounds side y u := by
  cases side with
  | nearest => exact nearInt_of_eq (by exact_mod_cast h)
  | inward => exact (h ▸ Int.floor_natCast u).symm
  | outward => exact (h ▸ Int.ceil_natCast u).symm

/-- Whether a shift that is inexact goes up, from the quotient, the remainder and the divisor. -/
def goesUp (side : Side) (k r D : ℕ) (sticky : Bool) : Bool :=
  match side with
  | .nearest => decide (D < 2 * r) || (2 * r == D && (sticky || k % 2 == 1))
  | .inward => false
  | .outward => true

theorem roundShift_eq (d : Dir) (neg : Bool) (m sh : ℕ) (sticky : Bool) : roundShift (.dir d) neg m sticky sh =
    (if (m % 2 ^ sh != 0 || sticky) && goesUp (sideOf d neg) (m / 2 ^ sh) (m % 2 ^ sh) (2 ^ sh) sticky then m / 2 ^ sh + 1
      else m / 2 ^ sh, m % 2 ^ sh != 0 || sticky) := by
  cases d <;> cases neg <;> rfl

/-- A value between two integers rounds to the lower one, and to the upper one. -/
theorem magRounds_lower {side : Side} {y : ℚ} {k : ℕ} (h1 : (k : ℚ) < y) (h2 : y < k + 1) (ho : side ≠ .outward)
    (hn : side = .nearest → y ≤ k + 1 / 2 ∧ (y = k + 1 / 2 → k % 2 = 0)) : MagRounds side y k := by
  cases side with
  | nearest =>
    obtain ⟨hle, ht⟩ := hn rfl
    exact nearInt_below (by exact_mod_cast h1.le) (by exact_mod_cast hle) fun h => by exact_mod_cast ht (by exact_mod_cast h)
  | inward => exact (Int.floor_eq_iff.mpr ⟨by exact_mod_cast h1.le, by exact_mod_cast h2⟩).symm
  | outward => exact absurd rfl ho

theorem magRounds_upper {side : Side} {y : ℚ} {k : ℕ} (h1 : (k : ℚ) < y) (h2 : y < k + 1) (hi : side ≠ .inward)
    (hn : side = .nearest → (k : ℚ) + 1 / 2 ≤ y ∧ (y = k + 1 / 2 → k % 2 = 1)) : MagRounds side y (k + 1) := by
  cases side with
  | nearest =>
    obtain ⟨hle, ht⟩ := hn rfl
    refine nearInt_above (by push_cast; linarith) (by push_cast; exact h2.le) fun h => ?_
    have := ht (by push_cast at h; linarith)
    omega
  | inward => exact absurd rfl hi
  | outward => exact (Int.ceil_eq_iff.mpr ⟨by push_cast; linarith, by push_cast; exact h2.le⟩).symm

theorem goesUp_nearest {k r D : ℕ} {sticky : Bool} :
    goesUp .nearest k r D sticky = true ↔ D < 2 * r ∨ (2 * r = D ∧ (sticky = true ∨ k % 2 = 1)) := by
  simp [goesUp]

/-- A value between two integers rounds as the remainder says: `y` is `k + (r + δ) / D`, where `δ` is below one and is zero unless a part was
cut off, and the divisor of such a value is even. -/
theorem magRounds_goesUp {side : Side} {k r D : ℕ} {sticky : Bool} {y δ : ℚ} (hy : y * D = k * D + r + δ) (hD : (0 : ℚ) < D)
    (h0 : 0 ≤ δ) (h1 : δ < 1) (hδ : sticky = false ↔ δ = 0) (hlt : (k : ℚ) < y) (hgt : y < k + 1) (he : sticky = true → 2 ∣ D) :
    MagRounds side y (if goesUp side k r D sticky then k + 1 else k) := by
  cases hg : goesUp side k r D sticky
  · refine magRounds_lower (k := k) hlt hgt (by rintro rfl; cases hg) ?_
    rintro rfl
    have hn : ¬(D < 2 * r ∨ (2 * r = D ∧ (sticky = true ∨ k % 2 = 1))) := goesUp_nearest.not.mp (by rw [hg]; exact Bool.false_ne_true)
    push Not at hn
    obtain ⟨hle, htie⟩ := hn
    rcases hle.eq_or_lt with h | h
    · obtain ⟨hs, hk⟩ := htie h
      have h' : (2 * r : ℚ) = D := by exact_mod_cast h
      have : δ = 0 := hδ.mp (by simpa using hs)
      exact ⟨by nlinarith, fun _ => by omega⟩
    · have h' : (2 * r : ℚ) + 1 ≤ D := by exact_mod_cast h
      have hhalf : 2 * ((r : ℚ) + δ) < D := by
        cases hs : sticky
        · rw [hδ.mp hs]; linarith
        · obtain ⟨c, rfl⟩ := he hs
          have : (r : ℚ) + 1 ≤ c := by exact_mod_cast (by omega : r + 1 ≤ c)
          push_cast
          linarith
      exact ⟨by nlinarith, fun hc => by nlinarith⟩
  · refine magRounds_upper hlt hgt (by rintro rfl; cases hg) ?_
    rintro rfl
    rcases goesUp_nearest.mp hg with h | ⟨h, hk⟩
    · have h' : (D : ℚ) + 1 ≤ 2 * r := by exact_mod_cast h
      exact ⟨by nlinarith, fun hc => by nlinarith⟩
    · have h' : (2 * r : ℚ) = D := by exact_mod_cast h
      refine ⟨by nlinarith, fun hc => hk.resolve_left fun hs => ?_⟩
      have : δ = 0 := by nlinarith
      rw [hδ.mpr this] at hs
      cases hs

/-- A shift rounds what its significand stands for, and tells whether it was exact. -/
theorem roundShift_spec (d : Dir) (neg : Bool) {m : ℕ} {sticky : Bool} {z : ℚ} (hz : Within m sticky z) {sh : ℕ}
    (hs : sticky = true → 0 < sh) :
    MagRounds (sideOf d neg) (z / 2 ^ sh) (roundShift (.dir d) neg m sticky sh).1 ∧
      ((roundShift (.dir d) neg m sticky sh).2 = false ↔ z / 2 ^ sh = (roundShift (.dir d) neg m sticky sh).1) := by
  obtain ⟨hlo, hhi, hst⟩ := hz
  have hD : (0 : ℚ) < (2 ^ sh : ℕ) := by positivity
  have hdm : (m : ℚ) = (m / 2 ^ sh : ℕ) * (2 ^ sh : ℕ) + (m % 2 ^ sh : ℕ) := by exact_mod_cast (Nat.div_add_mod' m (2 ^ sh)).symm
  have hrem : ((m % 2 ^ sh : ℕ) : ℚ) + 1 ≤ (2 ^ sh : ℕ) := by exact_mod_cast Nat.mod_lt m (by positivity : 0 < 2 ^ sh)
  have hy : z / 2 ^ sh * (2 ^ sh : ℕ) = (m / 2 ^ sh : ℕ) * (2 ^ sh : ℕ) + (m % 2 ^ sh : ℕ) + (z - m) := by
    push_cast at hdm ⊢
    rw [div_mul_cancel₀ _ (by positivity)]
    linarith
  have heven : sticky = true → 2 ∣ 2 ^ sh := fun h => dvd_pow_self 2 (hs h).ne'
  rw [roundShift_eq]
  generalize z / 2 ^ sh = y at *
  generalize m / 2 ^ sh = k at *
  generalize m % 2 ^ sh = r at *
  generalize 2 ^ sh = D at *
  dsimp only
  cases hx : (r != 0 || sticky)
  · obtain ⟨hr, hst'⟩ : r = 0 ∧ sticky = false := by simpa using hx
    have : y = k := by
      subst hr
      have := hst.mp hst'
      push_cast at hy
      nlinarith
    simp only [Bool.false_and, Bool.false_eq_true, if_false, true_iff]
    exact ⟨magRounds_of_eq this, this⟩
  · have hpos : 0 < (r : ℚ) + (z - m) := by
      rcases Nat.eq_zero_or_pos r with rfl | h
      · have : z ≠ m := fun h => by simp [hst.mpr h] at hx
        have := lt_of_le_of_ne hlo this.symm
        push_cast
        linarith
      · have : (0 : ℚ) < r := by exact_mod_cast h
        linarith
    have hlt : (k : ℚ) < y := by nlinarith
    have hgt : y < k + 1 := by nlinarith
    simp only [Bool.true_and]
    refine ⟨magRounds_goesUp hy hD (by linarith) (by linarith) (by rw [hst, sub_eq_zero]) hlt hgt heven, ⟨nofun, fun h => ?_⟩⟩
    split at h
    · push_cast at h; linarith
    · linarith

/-- What a significand at an exponent stands for, in units of another exponent. -/
theorem roundAt_spec (d : Dir) (neg : Bool) {m : ℕ} {sticky : Bool} {e q : ℤ} {z : ℚ} (hz : Within m sticky z)
    (hs : sticky = true → e < q) :
    MagRounds (sideOf d neg) (z * 2 ^ e / 2 ^ q) (roundAt (.dir d) neg m e sticky q).1 ∧
      ((roundAt (.dir d) neg m e sticky q).2 = false ↔ z * 2 ^ e / 2 ^ q = (roundAt (.dir d) neg m e sticky q).1) := by
  unfold roundAt
  split
  · next h =>
    have hst : sticky = false := by
      cases hc : sticky
      · rfl
      · exact absurd (hs hc) (not_lt.mpr h)
    obtain ⟨-, -, hexact⟩ := hz
    have hzm : z = m := hexact.mp hst
    have hy : z * 2 ^ e / 2 ^ q = (m * 2 ^ (e - q).toNat : ℕ) := by
      rw [hzm, mul_div_assoc, ← zpow_sub₀ two_ne_zero]
      push_cast
      rw [← zpow_natCast, Int.toNat_of_nonneg (by omega)]
    exact ⟨magRounds_of_eq hy, by simp [hst, hy]⟩
  · next h =>
    have hy : z * 2 ^ e / 2 ^ q = z / 2 ^ (q - e).toNat := by
      rw [← zpow_natCast, Int.toNat_of_nonneg (by omega), zpow_sub₀ two_ne_zero]
      field_simp
    rw [hy]
    exact roundShift_spec d neg hz fun hc => by have := hs hc; omega

/-- The bounds that a rounded magnitude reaches (R102). -/
theorem le_iff_reaches {side : Side} {y : ℚ} {u : ℕ} (h : MagRounds side y u) (j : ℕ) : j ≤ u ↔ Reaches side y j := by
  cases side with
  | inward =>
    have hu : (u : ℤ) = ⌊y⌋ := h
    rw [← Int.ofNat_le, hu, Int.le_floor]
    rfl
  | outward =>
    have hu : (u : ℤ) = ⌈y⌉ := h
    have : (j : ℤ) ≤ ⌈y⌉ ↔ (j : ℚ) - 1 < y := by
      rw [← Int.sub_one_lt_iff, Int.lt_ceil]
      push_cast
      rfl
    rw [← Int.ofNat_le, hu, this]
    rfl
  | nearest =>
    obtain ⟨hle, ht⟩ : NearInt y u := h
    obtain ⟨h1, h2⟩ := abs_le.mp hle
    push_cast at h1 h2
    constructor
    · intro hj
      have hj' : (j : ℚ) ≤ u := by exact_mod_cast hj
      rcases (show (j : ℚ) - 1 / 2 ≤ y by linarith).lt_or_eq with hlt | heq
      · exact .inl hlt
      · have huj : u = j := by exact_mod_cast (le_antisymm (by linarith) hj' : (u : ℚ) = j)
        have := ht (by push_cast; rw [huj, ← heq, abs_of_nonpos] <;> linarith)
        exact .inr ⟨heq.symm, by omega⟩
    · rintro (hlt | ⟨heq, hj⟩)
      · have : (j : ℚ) < (u + 1 : ℕ) := by push_cast; linarith
        have : j < u + 1 := by exact_mod_cast this
        omega
      · have : (j : ℚ) ≤ (u + 1 : ℕ) := by push_cast; linarith
        have : j ≤ u + 1 := by exact_mod_cast this
        by_contra hc
        have huj : j = u + 1 := by omega
        have := ht (by push_cast; rw [heq, huj]; push_cast; rw [show (u : ℚ) + 1 - 1 / 2 - u = 1 / 2 by ring]; norm_num)
        omega

theorem reaches_of_le {side : Side} {y : ℚ} {j : ℕ} (h : (j : ℚ) ≤ y) : Reaches side y j := by
  cases side with
  | nearest => exact .inl (by linarith)
  | inward => exact h
  | outward => exact (by linarith : (j : ℚ) - 1 < y)

theorem lt_of_reaches {side : Side} {y : ℚ} {j : ℕ} (h : Reaches side y j) : (j : ℚ) - 1 < y := by
  cases side with
  | nearest => rcases h with h | ⟨h, -⟩ <;> linarith
  | inward => exact (by linarith [show (j : ℚ) ≤ y from h] : (j : ℚ) - 1 < y)
  | outward => exact h

/-- The nearest integer is one. -/
theorem nearInt_unique {y : ℚ} {v w : ℤ} (hv : NearInt y v) (hw : NearInt y w) : v = w := by
  obtain ⟨h1, t1⟩ := hv
  obtain ⟨h2, t2⟩ := hw
  have hd : |(v : ℚ) - w| ≤ 1 := by
    have := abs_sub_le (v : ℚ) y w
    rw [abs_sub_comm (v : ℚ) y] at this
    linarith
  by_contra hne
  have h3 : |v - w| = 1 := by
    have : |v - w| ≤ 1 := by exact_mod_cast hd
    have : 0 < |v - w| := abs_pos.mpr (sub_ne_zero.mpr hne)
    omega
  have h4 : |(v : ℚ) - w| = 1 := by exact_mod_cast h3
  have h5 := abs_sub_le (v : ℚ) y w
  rw [abs_sub_comm (v : ℚ) y] at h5
  have := t1 (by linarith)
  have := t2 (by linarith)
  rcases abs_eq (by norm_num) |>.mp h3 with h | h <;> omega

end Sys2Proof.Arith
end

section
/-! PROOF. The patterns of a format: their fields, their magnitudes, and that a pattern is made of its fields (R96). -/
namespace Sys2Proof.Arith
open Sys2Proof.Machine Sys2Proof.Claims

/-- What the five formats have in common: a fraction, and a range that ends with the greatest significand (R96). -/
structure IsFormat (f : FloatFmt) : Prop where
  mb_pos : 1 ≤ f.mb
  eb_pos : 2 ≤ f.eb
  span : f.qmin < f.qmax
  maxSig_ge : 2 ^ f.mb ≤ f.maxSig
  maxSig_lt : f.maxSig < 2 ^ (f.mb + 1)
  maxSig_odd : f.e4m3 = false → f.maxSig % 2 = 1
  maxSig_even : f.e4m3 = true → f.maxSig % 2 = 0
  ieee : f.e4m3 = false → (f.qmax - f.qmin).toNat + 3 = 2 ^ f.eb
  e4m3 : f.e4m3 = true → f = fmtE4M3

theorem isFormat_f32 : IsFormat fmtF32 := by constructor <;> decide
theorem isFormat_f16 : IsFormat fmtF16 := by constructor <;> decide
theorem isFormat_bf16 : IsFormat fmtBF16 := by constructor <;> decide
theorem isFormat_e4m3 : IsFormat fmtE4M3 := by constructor <;> decide
theorem isFormat_e5m2 : IsFormat fmtE5M2 := by constructor <;> decide

/-- The three fields of a pattern. -/
def expField (f : FloatFmt) (b : ℕ) : ℕ := b / 2 ^ f.mb % 2 ^ f.eb
def fracField (f : FloatFmt) (b : ℕ) : ℕ := b % 2 ^ f.mb
def pattern (f : FloatFmt) (neg : Bool) (ex fr : ℕ) : ℕ := f.sign neg + ex * 2 ^ f.mb + fr

/-- The significand and the exponent of the value of a finite pattern: a subnormal has the least exponent and no leading one (R96). -/
def sigOf (f : FloatFmt) (b : ℕ) : ℕ := if expField f b = 0 then fracField f b else 2 ^ f.mb + fracField f b
def expOf (f : FloatFmt) (b : ℕ) : ℤ := if expField f b = 0 then f.qmin else (expField f b : ℤ) - f.bias - f.mb

/-- The magnitude of a finite pattern. -/
def magQ (f : FloatFmt) (b : ℕ) : ℚ := sigOf f b * 2 ^ expOf f b

/-- The sign of a value. -/
def sgn (neg : Bool) : ℚ := if neg then -1 else 1

@[simp] theorem abs_sgn (neg : Bool) : |sgn neg| = 1 := by
  cases neg <;> simp [sgn]

theorem sgn_mul_abs (x : ℚ) : sgn (decide (x < 0)) * |x| = x := by
  by_cases h : x < 0
  · simp [sgn, h, abs_of_neg h]
  · simp [sgn, h, abs_of_nonneg (not_lt.mp h)]

section
variable {f : FloatFmt}

theorem sign_eq (neg : Bool) : f.sign neg = neg.toNat * (2 ^ f.eb * 2 ^ f.mb) := by
  cases neg <;> simp [FloatFmt.sign, pow_add]

theorem valueQ_eq (b : ℕ) : valueQ f b = sgn (negBit f b) * magQ f b := by
  unfold valueQ sgn magQ sigOf expOf expField fracField FloatFmt.qmin
  split <;> split <;> rfl

theorem magQ_nonneg (b : ℕ) : 0 ≤ magQ f b := by
  unfold magQ
  positivity

theorem abs_valueQ (b : ℕ) : |valueQ f b| = magQ f b := by
  rw [valueQ_eq, abs_mul, abs_sgn, one_mul, abs_of_nonneg (magQ_nonneg b)]

theorem pattern_eq (neg : Bool) (ex fr : ℕ) : pattern f neg ex fr = 2 ^ f.mb * (2 ^ f.eb * neg.toNat + ex) + fr := by
  rw [pattern, sign_eq]
  ring

theorem fracField_pattern (neg : Bool) (ex : ℕ) {fr : ℕ} (hf : fr < 2 ^ f.mb) : fracField f (pattern f neg ex fr) = fr := by
  rw [fracField, pattern_eq, Nat.mul_add_mod, Nat.mod_eq_of_lt hf]

theorem pattern_div (neg : Bool) (ex : ℕ) {fr : ℕ} (hf : fr < 2 ^ f.mb) :
    pattern f neg ex fr / 2 ^ f.mb = 2 ^ f.eb * neg.toNat + ex := by
  rw [pattern_eq, Nat.mul_add_div (by positivity), Nat.div_eq_of_lt hf, Nat.add_zero]

section
variable (neg : Bool) {ex fr : ℕ} (he : ex < 2 ^ f.eb) (hf : fr < 2 ^ f.mb)
include he hf

theorem expField_pattern : expField f (pattern f neg ex fr) = ex := by
  rw [expField, pattern_div neg ex hf, Nat.mul_add_mod, Nat.mod_eq_of_lt he]

theorem negBit_pattern : negBit f (pattern f neg ex fr) = neg := by
  rw [negBit, pow_add, Nat.mul_comm, ← Nat.div_div_eq_div_mul, pattern_div neg ex hf, Nat.mul_add_div (by positivity),
    Nat.div_eq_of_lt he]
  cases neg <;> rfl

theorem pattern_lt : pattern f neg ex fr < 2 ^ (1 + f.eb + f.mb) := by
  have hn : neg.toNat ≤ 1 := by cases neg <;> decide
  rw [pow_add, ← Nat.div_lt_iff_lt_mul (by positivity), pattern_div neg ex hf, pow_add, pow_one]
  nlinarith

end

theorem expField_lt (b : ℕ) : expField f b < 2 ^ f.eb := Nat.mod_lt _ (by positivity)
theorem fracField_lt (b : ℕ) : fracField f b < 2 ^ f.mb := Nat.mod_lt _ (by positivity)

/-- A pattern is made of its fields. -/
theorem pattern_fields {b : ℕ} (hb : b < 2 ^ (1 + f.eb + f.mb)) : pattern f (negBit f b) (expField f b) (fracField f b) = b := by
  have h1 := Nat.div_add_mod b (2 ^ f.mb)
  have h2 := Nat.div_add_mod (b / 2 ^ f.mb) (2 ^ f.eb)
  have h3 : (negBit f b).toNat = b / 2 ^ f.mb / 2 ^ f.eb := by
    have hlt : b / 2 ^ f.mb / 2 ^ f.eb < 2 := by
      rw [Nat.div_div_eq_div_mul, Nat.div_lt_iff_lt_mul (by positivity)]
      calc b < 2 ^ (1 + f.eb + f.mb) := hb
        _ = _ := by ring
    unfold negBit
    rw [pow_add, Nat.mul_comm, ← Nat.div_div_eq_div_mul, Nat.mod_eq_of_lt hlt]
    generalize b / 2 ^ f.mb / 2 ^ f.eb = n at hlt
    interval_cases n <;> rfl
  unfold pattern expField fracField
  rw [sign_eq, h3]
  calc _ = 2 ^ f.mb * (2 ^ f.eb * (b / 2 ^ f.mb / 2 ^ f.eb) + b / 2 ^ f.mb % 2 ^ f.eb) + b % 2 ^ f.mb := by ring
    _ = b := by rw [h2, h1]

end

end Sys2Proof.Arith
end

section
/-! PROOF. A rounded significand as a pattern, and that no finite pattern lies nearer on its side (R96, R102). -/
namespace Sys2Proof.Arith
open Sys2Proof.Machine Sys2Proof.Claims

variable {f : FloatFmt}

/-- The pattern of a significand at an exponent, as rounding builds it. -/
def encode (f : FloatFmt) (neg : Bool) (sig : ℕ) (q : ℤ) : ℕ :=
  f.sign neg + if sig < 2 ^ f.mb then sig else ((q - f.qmin).toNat + 1) * 2 ^ f.mb + (sig - 2 ^ f.mb)

/-- A significand and an exponent of a format: normal, or subnormal at the least exponent, and not past the greatest. -/
structure Encodes (f : FloatFmt) (sig : ℕ) (q : ℤ) : Prop where
  lt : sig < 2 ^ (f.mb + 1)
  least : f.qmin ≤ q
  subnormal : sig < 2 ^ f.mb → q = f.qmin
  most : ¬(f.qmax < q ∨ (q = f.qmax ∧ f.maxSig < sig))

theorem encode_subnormal (f : FloatFmt) (neg : Bool) {sig : ℕ} (q : ℤ) (h : sig < 2 ^ f.mb) : encode f neg sig q = pattern f neg 0 sig := by
  rw [encode, if_pos h, pattern]
  ring

theorem encode_normal (f : FloatFmt) (neg : Bool) {sig : ℕ} (q : ℤ) (h : ¬sig < 2 ^ f.mb) :
    encode f neg sig q = pattern f neg ((q - f.qmin).toNat + 1) (sig - 2 ^ f.mb) := by
  rw [encode, if_neg h, pattern, Nat.add_assoc]

/-- A pattern is finite unless its exponent is the greatest; in E4M3 the last fraction at it is the one NaN (R96). -/
theorem finiteBits_pattern (hf : IsFormat f) (neg : Bool) {ex fr : ℕ} (he : ex < 2 ^ f.eb) (hr : fr < 2 ^ f.mb)
    (h1 : f.e4m3 = false → ex ≠ 2 ^ f.eb - 1) (h2 : f.e4m3 = true → ¬(ex = 15 ∧ fr = 7)) : FiniteBits f (pattern f neg ex fr) := by
  refine ⟨pattern_lt neg he hr, fun h => ?_, fun h => ?_⟩
  · have hx := h2 h
    obtain rfl := hf.e4m3 h
    rw [pattern_eq]
    simp only [fmtE4M3] at *
    have hn : neg.toNat ≤ 1 := by cases neg <;> decide
    omega
  · rw [show pattern f neg ex fr / 2 ^ f.mb % 2 ^ f.eb = ex from expField_pattern neg he hr]
    exact h1 h

/-- What an encoded significand reads back as. -/
theorem encode_spec (hf : IsFormat f) (neg : Bool) {sig : ℕ} {q : ℤ} (h : Encodes f sig q) :
    FiniteBits f (encode f neg sig q) ∧ negBit f (encode f neg sig q) = neg ∧ magQ f (encode f neg sig q) = sig * 2 ^ q ∧
      encode f neg sig q % 2 = sig % 2 := by
  obtain ⟨hlt, hleast, hsub, hmost⟩ := h
  have hmb := hf.mb_pos
  have heb := hf.eb_pos
  have h4 : 2 ^ 2 ≤ 2 ^ f.eb := Nat.pow_le_pow_right (by decide) heb
  have hM : 2 ∣ 2 ^ f.mb := dvd_pow_self 2 (by omega)
  have hpar : ∀ ex fr, pattern f neg ex fr % 2 = fr % 2 := fun ex fr => by
    rw [pattern_eq]
    obtain ⟨c, hc⟩ := hM
    rw [hc, Nat.mul_assoc, Nat.mul_add_mod]
  by_cases hs : sig < 2 ^ f.mb
  · rw [encode_subnormal f neg q hs]
    have he : 0 < 2 ^ f.eb := by positivity
    refine ⟨finiteBits_pattern hf neg he hs (fun _ => by omega) (fun _ => by omega), negBit_pattern neg he hs, ?_, hpar 0 sig⟩
    rw [magQ, sigOf, expOf, expField_pattern neg he hs, if_pos rfl, if_pos rfl, fracField_pattern neg 0 hs, hsub hs]
  · rw [encode_normal f neg q hs]
    push Not at hmost
    obtain ⟨hq, hsig⟩ := hmost
    have hfr : sig - 2 ^ f.mb < 2 ^ f.mb := by
      rw [pow_succ] at hlt
      omega
    have hspan := hf.span
    have he : (q - f.qmin).toNat + 1 < 2 ^ f.eb := by
      cases h4 : f.e4m3
      · have := hf.ieee h4
        omega
      · have hf' := hf.e4m3 h4
        subst hf'
        have h1 : fmtE4M3.qmax = 5 := rfl
        have h2 : fmtE4M3.qmin = -9 := rfl
        have h3 : fmtE4M3.eb = 4 := rfl
        rw [h3]
        omega
    have hval : ((2 ^ f.mb + (sig - 2 ^ f.mb) : ℕ) : ℚ) = sig := by
      rw [Nat.add_sub_cancel' (not_lt.mp hs)]
    refine ⟨finiteBits_pattern hf neg he hfr (fun h => ?_) (fun h => ?_), negBit_pattern neg he hfr, ?_, ?_⟩
    · have := hf.ieee h
      omega
    · have hf' := hf.e4m3 h
      subst hf'
      have h1 : fmtE4M3.qmax = 5 := rfl
      have h2 : fmtE4M3.qmin = -9 := rfl
      have h3 : fmtE4M3.maxSig = 14 := rfl
      have h4 : fmtE4M3.mb = 3 := rfl
      rintro ⟨hex, hfr7⟩
      have := hsig (by omega)
      rw [h4] at hfr7
      omega
    · rw [magQ, sigOf, expOf, expField_pattern neg he hfr, if_neg (by omega), if_neg (by omega), fracField_pattern neg _ hfr, hval]
      congr 2
      have : f.qmin = 1 - (f.bias : ℤ) - f.mb := rfl
      push_cast
      omega
    · rw [hpar]
      omega

theorem qmin_le_expOf (b : ℕ) : f.qmin ≤ expOf f b := by
  unfold expOf FloatFmt.qmin
  split
  · exact le_rfl
  · omega

theorem sigOf_lt (b : ℕ) : sigOf f b < 2 ^ (f.mb + 1) := by
  have := fracField_lt (f := f) b
  unfold sigOf
  rw [pow_succ]
  split <;> omega

/-- A finite magnitude is a multiple of a quantum of the format or, where the quantum is not the least, below the least normal
significand at it. -/
theorem magQ_grid (b : ℕ) {q : ℤ} (hq : f.qmin ≤ q) :
    (∃ j : ℕ, magQ f b = j * 2 ^ q) ∨ (f.qmin < q ∧ magQ f b < 2 ^ f.mb * 2 ^ q) := by
  rcases le_or_gt q (expOf f b) with h | h
  · refine .inl ⟨sigOf f b * 2 ^ (expOf f b - q).toNat, ?_⟩
    push_cast
    rw [magQ, mul_assoc, ← zpow_natCast, Int.toNat_of_nonneg (by omega), ← zpow_add₀ two_ne_zero]
    congr 2
    omega
  · have hmin := qmin_le_expOf (f := f) b
    have hsig : (sigOf f b : ℚ) < 2 ^ (f.mb + 1) := by exact_mod_cast sigOf_lt b
    have hz : (2 : ℚ) ^ expOf f b ≤ 2 ^ (q - 1) := zpow_le_zpow_right₀ one_le_two (by omega)
    refine .inr ⟨by omega, ?_⟩
    calc magQ f b < 2 ^ (f.mb + 1) * 2 ^ expOf f b := by
          unfold magQ
          gcongr
      _ ≤ 2 ^ (f.mb + 1) * 2 ^ (q - 1) := by gcongr
      _ = 2 ^ f.mb * 2 ^ q := by
          rw [zpow_sub₀ two_ne_zero, pow_succ]
          field_simp

/-- The nearest integer is no farther than any other, and where another is as near it is even. -/
theorem nearInt_best {y : ℚ} {v : ℤ} (h : NearInt y v) (j : ℤ) : |y - v| ≤ |y - j| ∧ (j ≠ v → |y - j| = |y - v| → v % 2 = 0) := by
  obtain ⟨hle, ht⟩ := h
  by_cases hj : j = v
  · subst hj
    exact ⟨le_rfl, fun h => absurd rfl h⟩
  · have h1 : (1 : ℚ) ≤ |(j : ℚ) - v| := by exact_mod_cast Int.one_le_abs (sub_ne_zero.mpr hj)
    have h2 := abs_sub_le (j : ℚ) y v
    rw [abs_sub_comm (j : ℚ) y] at h2
    exact ⟨by linarith, fun _ he => ht (by linarith)⟩

/-- A rounded magnitude is the best of its format on its side: no finite magnitude is nearer, or further inward or outward and still on that
side of the exact one. -/
structure Best (f : FloatFmt) (side : Side) (X R : ℚ) (u : ℕ) : Prop where
  nearest : side = .nearest → ∀ b, |R - X| ≤ |magQ f b - X| ∧ (magQ f b ≠ R → |magQ f b - X| = |R - X| → u % 2 = 0)
  inward : side = .inward → R ≤ X ∧ ∀ b, magQ f b ≤ X → magQ f b ≤ R
  outward : side = .outward → X ≤ R ∧ ∀ b, X ≤ magQ f b → R ≤ magQ f b

theorem best_of_magRounds {side : Side} {X : ℚ} {q : ℤ} {u : ℕ} (h : MagRounds side (X / 2 ^ q) u) (hq : f.qmin ≤ q)
    (hlow : f.qmin < q → 2 ^ f.mb * 2 ^ q ≤ X) : Best f side X (u * 2 ^ q) u := by
  have hpos : (0 : ℚ) < 2 ^ q := by positivity
  obtain ⟨y, rfl⟩ : ∃ y, X = y * 2 ^ q := ⟨X / 2 ^ q, by field_simp⟩
  rw [mul_div_cancel_right₀ _ hpos.ne'] at h
  have hlow' : f.qmin < q → (2 : ℚ) ^ f.mb ≤ y := fun hc => le_of_mul_le_mul_right (hlow hc) hpos
  have hd : ∀ a : ℚ, |a * 2 ^ q - y * 2 ^ q| = |y - a| * 2 ^ q := fun a => by
    rw [← sub_mul, abs_mul, abs_of_pos hpos, abs_sub_comm]
  refine ⟨?_, ?_, ?_⟩
  · rintro rfl b
    have hn : NearInt y u := h
    rcases magQ_grid b hq with ⟨j, hj⟩ | ⟨hc, hlt⟩
    · obtain ⟨h1, h2⟩ := nearInt_best hn j
      rw [hj, hd, hd]
      refine ⟨mul_le_mul_of_nonneg_right (by exact_mod_cast h1) hpos.le, fun hne heq => ?_⟩
      have := h2 (fun hju => hne (by rw [show j = u by exact_mod_cast hju]))
        (by exact_mod_cast mul_right_cancel₀ hpos.ne' heq)
      omega
    · obtain ⟨h1, -⟩ := nearInt_best hn (2 ^ f.mb : ℕ)
      push_cast at h1
      have hy := hlow' hc
      have hstrict : |u * 2 ^ q - y * 2 ^ q| < |magQ f b - y * 2 ^ q| := by
        rw [hd, abs_sub_comm (magQ f b)]
        refine lt_of_lt_of_le ?_ (le_abs_self _)
        rw [abs_of_nonneg (show 0 ≤ y - 2 ^ f.mb by linarith)] at h1
        nlinarith
      exact ⟨hstrict.le, fun _ heq => absurd heq hstrict.ne'⟩
  · rintro rfl
    have hu : (u : ℤ) = ⌊y⌋ := h
    have hle : (u : ℚ) ≤ y := by
      have := Int.floor_le y
      rw [← hu] at this
      exact_mod_cast this
    refine ⟨mul_le_mul_of_nonneg_right hle hpos.le, fun b hb => ?_⟩
    rcases magQ_grid b hq with ⟨j, hj⟩ | ⟨hc, hlt⟩
    · rw [hj] at hb ⊢
      have hjy : (j : ℤ) ≤ ⌊y⌋ := Int.le_floor.mpr (by exact_mod_cast le_of_mul_le_mul_right hb hpos)
      rw [← hu] at hjy
      exact mul_le_mul_of_nonneg_right (by exact_mod_cast hjy) hpos.le
    · have hjy : ((2 ^ f.mb : ℕ) : ℤ) ≤ ⌊y⌋ := Int.le_floor.mpr (by push_cast; exact hlow' hc)
      rw [← hu] at hjy
      have : (2 : ℚ) ^ f.mb ≤ u := by exact_mod_cast hjy
      exact hlt.le.trans (mul_le_mul_of_nonneg_right this hpos.le)
  · rintro rfl
    have hu : (u : ℤ) = ⌈y⌉ := h
    have hle : y ≤ (u : ℚ) := by
      have := Int.le_ceil y
      rw [← hu] at this
      exact_mod_cast this
    refine ⟨mul_le_mul_of_nonneg_right hle hpos.le, fun b hb => ?_⟩
    rcases magQ_grid b hq with ⟨j, hj⟩ | ⟨hc, hlt⟩
    · rw [hj] at hb ⊢
      have hjy : ⌈y⌉ ≤ (j : ℤ) := Int.ceil_le.mpr (by exact_mod_cast le_of_mul_le_mul_right hb hpos)
      rw [← hu] at hjy
      exact mul_le_mul_of_nonneg_right (by exact_mod_cast hjy) hpos.le
    · exact absurd (hb.trans_lt hlt) (not_lt.mpr (mul_le_mul_of_nonneg_right (hlow' hc) hpos.le))

end Sys2Proof.Arith
end

section
/-! PROOF. Rounding a magnitude into a format: it is exact, nearest or the next on its side, tiny and overflowing as R99 and R103 have it. -/
namespace Sys2Proof.Arith
open Sys2Proof.Machine Sys2Proof.Claims

variable {f : FloatFmt}

theorem sideOf_nearest {d : Dir} {neg : Bool} : sideOf d neg = .nearest ↔ d = .near := by
  cases d <;> cases neg <;> simp [sideOf]

theorem sideOf_inward {d : Dir} {x : ℚ} (hx : x ≠ 0) : sideOf d (decide (x < 0)) = .inward ↔ Down d x := by
  rcases lt_or_gt_of_ne hx with h | h <;> cases d <;> simp [sideOf, Down, h, not_lt.mpr h.le]

theorem sideOf_outward {d : Dir} {x : ℚ} (hx : x ≠ 0) : sideOf d (decide (x < 0)) = .outward ↔ Up d x := by
  rcases lt_or_gt_of_ne hx with h | h <;> cases d <;> simp [sideOf, Up, h, not_lt.mpr h.le]

/-- A condition on the direction of a value, case by case, is one on its side. -/
theorem side_cases {d : Dir} {x : ℚ} (hx : x ≠ 0) {N I O : Prop} :
    ((d = .near → N) ∧ (Down d x → I) ∧ (Up d x → O)) ↔ match sideOf d (decide (x < 0)) with
      | .nearest => N
      | .inward => I
      | .outward => O := by
  rw [← sideOf_inward hx, ← sideOf_outward hx, ← sideOf_nearest (neg := decide (x < 0))]
  cases sideOf d (decide (x < 0)) <;> simp

/-- A tie at half a unit below an even bound reaches it; below an odd one it does not. -/
theorem reaches_nearest_even {y : ℚ} {j : ℕ} (hj : j % 2 = 0) : Reaches .nearest y j ↔ (j : ℚ) - 1 / 2 ≤ y := by
  simp only [Reaches, hj, and_true]
  rw [le_iff_lt_or_eq, eq_comm (a := y)]

theorem reaches_nearest_odd {y : ℚ} {j : ℕ} (hj : j % 2 = 1) : Reaches .nearest y j ↔ (j : ℚ) - 1 / 2 < y := by
  simp [Reaches, hj]

/-- The smallest normal value and the quantum below it, in units of that quantum (R99). -/
theorem smallestNormal (f : FloatFmt) : (2 : ℚ) ^ (1 - (f.bias : ℤ)) = (2 ^ (f.mb + 1) : ℕ) * 2 ^ (f.qmin - 1) ∧
    (2 : ℚ) ^ (-(f.bias : ℤ) - f.mb) = 2 ^ (f.qmin - 1) := by
  have hq : f.qmin = 1 - (f.bias : ℤ) - f.mb := rfl
  constructor
  · push_cast
    rw [← zpow_natCast, ← zpow_add₀ two_ne_zero]
    congr 1
    push_cast
    omega
  · congr 1
    omega

/-- A value is tiny when it does not round to the smallest normal value at the quantum below (R99). -/
theorem tiny_iff (f : FloatFmt) {d : Dir} {x : ℚ} (hx : x ≠ 0) :
    Tiny f d x ↔ ¬Reaches (sideOf d (decide (x < 0))) (|x| / 2 ^ (f.qmin - 1)) (2 ^ (f.mb + 1)) := by
  have hh : (0 : ℚ) < 2 ^ (f.qmin - 1) := by positivity
  obtain ⟨h1, h2⟩ := smallestNormal f
  unfold Tiny
  rw [h1, h2, and_iff_right hx, side_cases hx]
  obtain ⟨y, hy⟩ : ∃ y, |x| = y * 2 ^ (f.qmin - 1) := ⟨|x| / 2 ^ (f.qmin - 1), by field_simp⟩
  rw [hy, mul_div_cancel_right₀ _ hh.ne']
  cases sideOf d (decide (x < 0)) with
  | nearest =>
    rw [reaches_nearest_even (by rw [pow_succ]; omega), not_le]
    constructor <;> intro h <;> nlinarith
  | inward =>
    show _ ↔ ¬(((2 ^ (f.mb + 1) : ℕ) : ℚ) ≤ y)
    rw [not_le]
    exact mul_lt_mul_iff_left₀ hh
  | outward =>
    show _ ↔ ¬(((2 ^ (f.mb + 1) : ℕ) : ℚ) - 1 < y)
    rw [not_lt]
    constructor <;> intro h <;> nlinarith

/-- The largest finite pattern (R96). -/
theorem max_eq_encode (hf : IsFormat f) (neg : Bool) : f.max neg = encode f neg f.maxSig f.qmax := by
  rw [encode, if_neg (not_lt.mpr hf.maxSig_ge), FloatFmt.max]
  congr 1
  cases h : f.e4m3
  · have hi := hf.ieee h
    have h1 := Nat.one_le_two_pow (n := f.mb)
    simp only [FloatFmt.maxSig, h, Bool.false_eq_true, if_false]
    rw [show 2 ^ f.eb - 1 = ((f.qmax - f.qmin).toNat + 1) + 1 by omega, pow_succ]
    generalize (f.qmax - f.qmin).toNat + 1 = a
    rw [Nat.add_mul]
    omega
  · obtain rfl := hf.e4m3 h
    rfl

theorem encodes_max (hf : IsFormat f) : Encodes f f.maxSig f.qmax :=
  ⟨hf.maxSig_lt, hf.span.le, fun h => absurd hf.maxSig_ge (not_le.mpr h), by omega⟩

theorem largestQ_eq (hf : IsFormat f) : largestQ f = f.maxSig * 2 ^ f.qmax := by
  obtain ⟨-, hn, hm, -⟩ := encode_spec hf false (encodes_max hf)
  rw [largestQ, max_eq_encode hf, valueQ_eq, hn, hm]
  simp [sgn]

/-- A value is in range when it does not round past the largest finite value at the greatest quantum (R103). -/
theorem inRange_iff (hf : IsFormat f) {d : Dir} {x : ℚ} (hx : x ≠ 0) :
    InRange f d x ↔ ¬Reaches (sideOf d (decide (x < 0))) (|x| / 2 ^ f.qmax) (f.maxSig + 1) := by
  have hh : (0 : ℚ) < 2 ^ f.qmax := by positivity
  have hnear : InRange f d x ↔ (d = .near → (f.e4m3 = false → |x| < largestQ f + lastStep f / 2) ∧
      (f.e4m3 = true → |x| ≤ largestQ f + lastStep f / 2)) ∧
      (Down d x → |x| < largestQ f + lastStep f) ∧ (Up d x → |x| ≤ largestQ f) := by
    unfold InRange
    tauto
  rw [hnear, side_cases hx, largestQ_eq hf, lastStep]
  obtain ⟨y, hy⟩ : ∃ y, |x| = y * 2 ^ f.qmax := ⟨|x| / 2 ^ f.qmax, by field_simp⟩
  rw [hy, mul_div_cancel_right₀ _ hh.ne']
  cases sideOf d (decide (x < 0)) with
  | nearest =>
    cases h : f.e4m3
    · rw [reaches_nearest_even (by have := hf.maxSig_odd h; omega), not_le]
      push_cast
      constructor
      · intro h
        have := h.1 rfl
        nlinarith
      · exact fun h => ⟨fun _ => by nlinarith, nofun⟩
    · rw [reaches_nearest_odd (by have := hf.maxSig_even h; omega), not_lt]
      push_cast
      constructor
      · intro h
        have := h.2 rfl
        nlinarith
      · exact fun h => ⟨nofun, fun _ => by nlinarith⟩
  | inward =>
    show _ ↔ ¬(((f.maxSig + 1 : ℕ) : ℚ) ≤ y)
    rw [not_le]
    push_cast
    constructor <;> intro h <;> nlinarith
  | outward =>
    show _ ↔ ¬(((f.maxSig + 1 : ℕ) : ℚ) - 1 < y)
    rw [not_lt]
    push_cast
    constructor <;> intro h <;> nlinarith

/-- A magnitude at most that of the greatest significand at the greatest quantum is in range. -/
theorem inRange_of_le (hf : IsFormat f) {d : Dir} {x : ℚ} (hx : x ≠ 0) (h : |x| ≤ f.maxSig * 2 ^ f.qmax) : InRange f d x := by
  refine (inRange_iff hf hx).mpr fun hr => ?_
  have := lt_of_reaches hr
  rw [← div_le_iff₀ (by positivity)] at h
  push_cast at this
  linarith

/-- Powers of two on a scale of quanta. -/
theorem pow_quantum_le (n : ℕ) {p q : ℤ} (h : p < q) : (2 ^ (n + 1) : ℚ) * 2 ^ p ≤ 2 ^ n * 2 ^ q := by
  have : (2 : ℚ) ^ p ≤ 2 ^ (q - 1) := zpow_le_zpow_right₀ one_le_two (by omega)
  calc (2 ^ (n + 1) : ℚ) * 2 ^ p ≤ 2 ^ (n + 1) * 2 ^ (q - 1) := by gcongr
    _ = 2 ^ n * 2 ^ q := by
      rw [zpow_sub₀ two_ne_zero, pow_succ]
      field_simp

/-- A tiny value is in range. -/
theorem inRange_of_tiny (hf : IsFormat f) {d : Dir} {x : ℚ} (h : Tiny f d x) : InRange f d x := by
  have hx := h.1
  have hlt : |x| / 2 ^ (f.qmin - 1) < (2 ^ (f.mb + 1) : ℕ) := lt_of_not_ge fun hc => (tiny_iff f hx).mp h (reaches_of_le hc)
  rw [div_lt_iff₀ (by positivity)] at hlt
  push_cast at hlt
  have hspan := hf.span
  have hsig : (2 : ℚ) ^ f.mb ≤ f.maxSig := by exact_mod_cast hf.maxSig_ge
  refine inRange_of_le hf hx (hlt.le.trans ((pow_quantum_le f.mb (by omega : f.qmin - 1 < f.qmax)).trans ?_))
  gcongr

end Sys2Proof.Arith
end

section
/-! PROOF. Rounding once: the result of `FloatFmt.round` is what R96, R99, R102 and R103 ask of it. -/
namespace Sys2Proof.Arith
open Sys2Proof.Machine Sys2Proof.Claims

/-- The exponent of the quantum at which a significand has `mb` bits below its first. -/
def topQuantum (f : FloatFmt) (m : ℕ) (e : ℤ) : ℤ := e + Nat.log2 m - f.mb

/-- Whether the result of rounding with no bound on exponents is below the smallest normal value (R99). -/
def roundsTiny (f : FloatFmt) (r : Rounding) (neg : Bool) (m : ℕ) (e : ℤ) (sticky : Bool) : Bool :=
  decide (topQuantum f m e + (if (roundAt r neg m e sticky (topQuantum f m e)).1 = 2 ^ (f.mb + 1) then 1 else 0) < f.qmin)

/-- The quantum at which a significand is rounded: that of its first bit, but not below the least. -/
def quantum (f : FloatFmt) (m : ℕ) (e : ℤ) : ℤ := if topQuantum f m e < f.qmin then f.qmin else topQuantum f m e

/-- A rounded significand and its exponent, after a carry out of it. -/
def carrySig (f : FloatFmt) (u : ℕ) : ℕ := if u = 2 ^ (f.mb + 1) then 2 ^ f.mb else u
def carryExp (f : FloatFmt) (u : ℕ) (q : ℤ) : ℤ := if u = 2 ^ (f.mb + 1) then q + 1 else q

/-- Whether a significand and its exponent lie past the greatest of the format. -/
def pastMax (f : FloatFmt) (sig : ℕ) (q : ℤ) : Bool := decide (f.qmax < q) || (q == f.qmax && decide (f.maxSig < sig))

theorem pastMax_iff {f : FloatFmt} {sig : ℕ} {q : ℤ} :
    pastMax f sig q = true ↔ f.qmax < q ∨ (q = f.qmax ∧ f.maxSig < sig) := by
  simp [pastMax]

/-- Rounding a significand that is not zero, in steps. -/
theorem round_eq (f : FloatFmt) (r : Rounding) (flush neg : Bool) {m : ℕ} (e : ℤ) (sticky : Bool) (hm : m ≠ 0) :
    f.round r flush neg m e sticky =
      (let ri := roundAt r neg m e sticky (quantum f m e)
       let sig := carrySig f ri.1
       let q := carryExp f ri.1 (quantum f m e)
       if roundsTiny f r neg m e sticky && flush then { bits := f.sign neg, flags := flagUF ||| flagNX, overflowed := false }
       else if pastMax f sig q then
         { bits := (if overflowsOut r neg then f.inf neg else f.max neg), flags := flagOF ||| flagNX, overflowed := true }
       else
         { bits := encode f neg sig q
           flags := (if ri.2 then flagNX else 0) ||| (if roundsTiny f r neg m e sticky && ri.2 then flagUF else 0)
           overflowed := false }) := by
  unfold FloatFmt.round
  rw [if_neg (by simp [hm])]
  rfl

section
variable {f : FloatFmt} (hf : IsFormat f) {d : Dir} {m : ℕ} {e : ℤ} {sticky : Bool} {x z : ℚ} (hx : x ≠ 0) (hm : m ≠ 0)
  (hz : Within m sticky z) (hxz : |x| = z * 2 ^ e) (hs : sticky = true → 2 ^ (f.mb + 1) ≤ m)

include hm hz hxz in
/-- The first bit of a significand is at its quantum. -/
theorem topQuantum_bounds : 2 ^ f.mb * 2 ^ topQuantum f m e ≤ |x| ∧ |x| < 2 ^ (f.mb + 1) * 2 ^ topQuantum f m e := by
  have h1 : (2 : ℚ) ^ Nat.log2 m ≤ m := by exact_mod_cast Nat.log2_self_le hm
  have h2 : (m : ℚ) + 1 ≤ 2 ^ (Nat.log2 m + 1) := by exact_mod_cast Nat.lt_log2_self
  have hp : ∀ n : ℕ, (2 : ℚ) ^ (f.mb + n) * 2 ^ topQuantum f m e = 2 ^ (Nat.log2 m + n) * 2 ^ e := fun n => by
    rw [← zpow_natCast, ← zpow_natCast, ← zpow_add₀ two_ne_zero, ← zpow_add₀ two_ne_zero]
    congr 1
    unfold topQuantum
    push_cast
    omega
  have he : (0 : ℚ) < 2 ^ e := by positivity
  have hp0 := hp 0
  rw [Nat.add_zero, Nat.add_zero] at hp0
  rw [hp0, hp 1, hxz]
  exact ⟨mul_le_mul_of_nonneg_right (h1.trans hz.1) he.le, mul_lt_mul_of_pos_right (hz.2.1.trans_le h2) he⟩

include hs in
theorem lt_topQuantum (hc : sticky = true) : e < topQuantum f m e := by
  have h1 := hs hc
  have h2 : m < 2 ^ (Nat.log2 m + 1) := Nat.lt_log2_self
  have h3 : f.mb + 1 < Nat.log2 m + 1 := (Nat.pow_lt_pow_iff_right one_lt_two).mp (h1.trans_lt h2)
  unfold topQuantum
  omega

theorem topQuantum_le_quantum : topQuantum f m e ≤ quantum f m e := by
  unfold quantum
  split <;> omega

theorem qmin_le_quantum : f.qmin ≤ quantum f m e := by
  unfold quantum
  split <;> omega

include hz hxz hs in
/-- What the significand rounds to at a quantum not below that of its first bit. -/
theorem roundAt_at (neg : Bool) {q : ℤ} (hq : topQuantum f m e ≤ q) :
    MagRounds (sideOf d neg) (|x| / 2 ^ q) (roundAt (.dir d) neg m e sticky q).1 ∧
      ((roundAt (.dir d) neg m e sticky q).2 = false ↔ |x| / 2 ^ q = (roundAt (.dir d) neg m e sticky q).1) := by
  rw [hxz]
  exact roundAt_spec d neg hz fun hc => (lt_topQuantum hs hc).trans_le hq

/-- A magnitude below a natural number rounds to at most that. -/
theorem magRounds_le {side : Side} {y : ℚ} {u n : ℕ} (h : MagRounds side y u) (hy : y < n) : u ≤ n := by
  by_contra hc
  have := lt_of_reaches ((le_iff_reaches h (n + 1)).mp (by omega))
  push_cast at this
  linarith

include hx hm hz hxz hs in
theorem roundsTiny_iff : roundsTiny f (.dir d) (decide (x < 0)) m e sticky = true ↔ Tiny f d x := by
  obtain ⟨hlo, hhi⟩ := topQuantum_bounds (f := f) hm hz hxz
  obtain ⟨hr, -⟩ := roundAt_at (d := d) hz hxz hs (decide (x < 0)) le_rfl
  have hp : (0 : ℚ) < 2 ^ topQuantum f m e := by positivity
  have hle : (roundAt (.dir d) (decide (x < 0)) m e sticky (topQuantum f m e)).1 ≤ 2 ^ (f.mb + 1) :=
    magRounds_le hr (by rw [div_lt_iff₀ hp]; push_cast; exact hhi)
  unfold roundsTiny
  rw [tiny_iff f hx, decide_eq_true_iff]
  generalize hq : topQuantum f m e = qu at *
  have hh : (0 : ℚ) < 2 ^ (f.qmin - 1) := by positivity
  rcases lt_trichotomy qu (f.qmin - 1) with hc | hc | hc
  · have hnot : ¬Reaches (sideOf d (decide (x < 0))) (|x| / 2 ^ (f.qmin - 1)) (2 ^ (f.mb + 1)) := fun h => by
      have h1 := lt_of_reaches h
      have h2 := hhi.le.trans (pow_quantum_le f.mb hc)
      rw [← div_le_iff₀ hh] at h2
      have h3 : (1 : ℚ) ≤ 2 ^ f.mb := one_le_pow₀ one_le_two
      push_cast at h1
      rw [pow_succ] at h1
      linarith
    refine iff_of_true ?_ hnot
    split <;> omega
  · subst hc
    rw [← le_iff_reaches hr, not_le]
    constructor
    · intro h
      by_contra hu
      rw [if_pos (le_antisymm hle (not_lt.mp hu))] at h
      omega
    · intro h
      rw [if_neg h.ne]
      omega
  · have hyes : Reaches (sideOf d (decide (x < 0))) (|x| / 2 ^ (f.qmin - 1)) (2 ^ (f.mb + 1)) := by
      refine reaches_of_le ?_
      rw [le_div_iff₀ hh]
      push_cast
      exact (pow_quantum_le f.mb hc).trans hlo
    refine iff_of_false ?_ (not_not.mpr hyes)
    split <;> omega

include hm hz hxz in
/-- At its quantum the significand is not past the carry. -/
theorem lt_quantum : |x| < 2 ^ (f.mb + 1) * 2 ^ quantum f m e := by
  refine (topQuantum_bounds (f := f) hm hz hxz).2.trans_le ?_
  have := zpow_le_zpow_right₀ (one_le_two (α := ℚ)) (topQuantum_le_quantum (f := f) (m := m) (e := e))
  gcongr

include hm hz hxz in
theorem le_quantum (h : f.qmin < quantum f m e) : 2 ^ f.mb * 2 ^ quantum f m e ≤ |x| := by
  have hq : quantum f m e = topQuantum f m e := by
    unfold quantum at h ⊢
    split <;> simp_all
  rw [hq]
  exact (topQuantum_bounds (f := f) hm hz hxz).1

theorem carry_value (f : FloatFmt) (u : ℕ) (q : ℤ) : (carrySig f u : ℚ) * 2 ^ carryExp f u q = u * 2 ^ q := by
  unfold carrySig carryExp
  split
  · next h =>
    rw [h, zpow_add₀ two_ne_zero]
    push_cast
    ring
  · rfl

include hf hx hm hz hxz hs in
/-- An overflow is a value out of range. -/
theorem overflows_iff : let u := (roundAt (.dir d) (decide (x < 0)) m e sticky (quantum f m e)).1
    (f.qmax < carryExp f u (quantum f m e) ∨ (carryExp f u (quantum f m e) = f.qmax ∧ f.maxSig < carrySig f u)) ↔ ¬InRange f d x := by
  intro u
  obtain ⟨hr, -⟩ := roundAt_at (d := d) hz hxz hs (decide (x < 0)) (topQuantum_le_quantum (f := f))
  have hhi := lt_quantum (f := f) hm hz hxz
  have hlo := le_quantum (f := f) hm hz hxz
  have hspan := hf.span
  have hsig := hf.maxSig_ge
  have hlt := hf.maxSig_lt
  have hu : u ≤ 2 ^ (f.mb + 1) := magRounds_le hr (by rw [div_lt_iff₀ (by positivity)]; push_cast; exact hhi)
  change MagRounds _ _ u at hr
  rw [inRange_iff hf hx, not_not]
  have hpow : 2 ^ f.mb < 2 ^ (f.mb + 1) := Nat.pow_lt_pow_right one_lt_two (Nat.lt_succ_self _)
  unfold carryExp carrySig
  generalize quantum f m e = q at *
  rcases lt_trichotomy q f.qmax with hc | rfl | hc
  · have hnot : ¬Reaches (sideOf d (decide (x < 0))) (|x| / 2 ^ f.qmax) (f.maxSig + 1) := fun h => by
      have h1 := lt_of_reaches h
      have h2 := hhi.trans_le (pow_quantum_le f.mb hc)
      rw [← div_lt_iff₀ (by positivity)] at h2
      have h3 : (2 : ℚ) ^ f.mb ≤ f.maxSig := by exact_mod_cast hsig
      push_cast at h1
      linarith
    refine iff_of_false ?_ hnot
    split <;> omega
  · rw [← le_iff_reaches hr]
    split <;> omega
  · have hyes : Reaches (sideOf d (decide (x < 0))) (|x| / 2 ^ f.qmax) (f.maxSig + 1) := by
      refine reaches_of_le ?_
      have h3 : ((f.maxSig + 1 : ℕ) : ℚ) ≤ 2 ^ (f.mb + 1) := by exact_mod_cast hlt
      rw [le_div_iff₀ (by positivity)]
      exact (mul_le_mul_of_nonneg_right h3 (by positivity)).trans ((pow_quantum_le f.mb hc).trans (hlo (by omega)))
    refine iff_of_true ?_ hyes
    split <;> omega

include hm hz hxz hs in
/-- A significand in range is one of the format after its carry. -/
theorem encodes_carry (neg : Bool) :
    let u := (roundAt (.dir d) neg m e sticky (quantum f m e)).1
    ¬(f.qmax < carryExp f u (quantum f m e) ∨ (carryExp f u (quantum f m e) = f.qmax ∧ f.maxSig < carrySig f u)) →
      Encodes f (carrySig f u) (carryExp f u (quantum f m e)) := by
  intro u hmost
  obtain ⟨hr, -⟩ := roundAt_at (d := d) hz hxz hs neg (topQuantum_le_quantum (f := f))
  change MagRounds _ _ u at hr
  have hu : u ≤ 2 ^ (f.mb + 1) :=
    magRounds_le hr (by rw [div_lt_iff₀ (by positivity)]; push_cast; exact lt_quantum (f := f) hm hz hxz)
  have hmin := qmin_le_quantum (f := f) (m := m) (e := e)
  have hpow : 2 ^ f.mb < 2 ^ (f.mb + 1) := Nat.pow_lt_pow_right one_lt_two (Nat.lt_succ_self _)
  refine ⟨?_, ?_, fun hlt => ?_, hmost⟩
  · unfold carrySig
    split <;> omega
  · unfold carryExp
    split <;> omega
  · unfold carrySig at hlt
    unfold carryExp
    split at hlt
    · omega
    · next hne =>
      rw [if_neg hne]
      by_contra hc
      have hreach : 2 ^ f.mb ≤ u := (le_iff_reaches hr _).mpr (reaches_of_le (by
        rw [le_div_iff₀ (by positivity)]
        push_cast
        exact le_quantum hm hz hxz (lt_of_le_of_ne hmin (Ne.symm hc))))
      omega

/-- The flags of a result that is not flushed and does not overflow (R99, R101). -/
theorem flags_of (tiny inexact : Bool) : ((if inexact then flagNX else 0) ||| (if tiny && inexact then flagUF else 0) : FpFlags) =
    if inexact then (if tiny then flagUF ||| flagNX else flagNX) else 0 := by
  cases tiny <;> cases inexact <;> rfl

/-- A value with the magnitude and sign of a pattern is the value of that pattern. -/
theorem valueQ_eq_iff {b : ℕ} (hn : negBit f b = decide (x < 0)) : valueQ f b = x ↔ |x| = magQ f b := by
  rw [valueQ_eq, hn]
  constructor
  · intro h
    have := congrArg abs h
    rw [abs_mul, abs_sgn, one_mul, abs_of_nonneg (magQ_nonneg b)] at this
    exact this.symm
  · intro h
    rw [← h, sgn_mul_abs]

/-- The distance between two values of one sign, and of opposite signs. -/
theorem abs_sub_same (neg : Bool) (a t : ℚ) : |sgn neg * a - sgn neg * t| = |a - t| := by
  rw [← mul_sub, abs_mul, abs_sgn, one_mul]

theorem abs_sub_opposite (neg : Bool) (a t : ℚ) : |sgn (!neg) * a - sgn neg * t| = |a + t| := by
  cases neg <;> simp only [sgn, Bool.not_false, Bool.not_true, Bool.false_eq_true, if_true, if_false]
  · rw [← abs_neg]; congr 1; ring
  · congr 1; ring

theorem abs_sub_of_neg {b : ℕ} (hn : negBit f b = decide (x < 0)) : |valueQ f b - x| = |magQ f b - (|x|)| := by
  have := abs_sub_same (decide (x < 0)) (magQ f b) |x|
  rwa [sgn_mul_abs, ← hn, ← valueQ_eq] at this

theorem le_abs_sub (b : ℕ) : |magQ f b - (|x|)| ≤ |valueQ f b - x| := by
  rw [← abs_valueQ]
  exact abs_abs_sub_abs_le _ _

include hx in
/-- A pattern with the sign of the value that is the best of its side is the value rounded once. -/
theorem rounded_of_best {b u : ℕ} (hn : negBit f b = decide (x < 0)) (hpar : u % 2 = 0 → b % 2 = 0)
    (hb : Best f (sideOf d (decide (x < 0))) |x| (magQ f b) u) :
    (d = .near → ∀ c, FiniteBits f c → |valueQ f b - x| ≤ |valueQ f c - x| ∧
      (valueQ f c ≠ valueQ f b → |valueQ f c - x| = |valueQ f b - x| → b % 2 = 0)) ∧
    (Down d x → |valueQ f b| ≤ |x| ∧ ∀ c, FiniteBits f c → |valueQ f c| ≤ |x| → |valueQ f c| ≤ |valueQ f b|) ∧
    (Up d x → |x| ≤ |valueQ f b| ∧ ∀ c, FiniteBits f c → |x| ≤ |valueQ f c| → |valueQ f b| ≤ |valueQ f c|) := by
  obtain ⟨hnear, hin, hout⟩ := hb
  simp only [abs_valueQ]
  refine ⟨fun hd c _ => ?_, fun hd => ?_, fun hd => ?_⟩
  · obtain ⟨h1, h2⟩ := hnear (sideOf_nearest.mpr hd) c
    have hle := le_abs_sub (f := f) (x := x) c
    rw [abs_sub_of_neg hn]
    refine ⟨h1.trans hle, fun hne heq => hpar ?_⟩
    by_cases hmag : magQ f c = magQ f b
    · -- the same magnitude with the other sign is farther
      have hc : negBit f c = !decide (x < 0) := by
        rw [← hn]
        exact Bool.eq_not_of_ne fun h => hne (by rw [valueQ_eq, valueQ_eq, h, hmag])
      have hfar := abs_sub_opposite (decide (x < 0)) (magQ f c) |x|
      rw [sgn_mul_abs, ← hc, ← valueQ_eq, heq, hmag] at hfar
      have hx' := abs_pos.mpr hx
      have hpos : 0 < magQ f b := lt_of_le_of_ne (magQ_nonneg b) fun h => hne (by rw [valueQ_eq, valueQ_eq, hmag, ← h]; ring)
      rw [abs_of_pos (by linarith : 0 < magQ f b + |x|)] at hfar
      have : |magQ f b - (|x|)| < magQ f b + |x| := abs_sub_lt_iff.mpr ⟨by linarith, by linarith⟩
      exact absurd hfar this.ne
    · exact h2 hmag (le_antisymm (hle.trans heq.le) h1)
  · obtain ⟨h1, h2⟩ := hin ((sideOf_inward hx).mpr hd)
    exact ⟨h1, fun c _ hc => h2 c hc⟩
  · obtain ⟨h1, h2⟩ := hout ((sideOf_outward hx).mpr hd)
    exact ⟨h1, fun c _ hc => h2 c hc⟩

theorem carrySig_even (f : FloatFmt) (hf : IsFormat f) {u : ℕ} (h : u % 2 = 0) : carrySig f u % 2 = 0 := by
  unfold carrySig
  split
  · exact Nat.mod_eq_zero_of_dvd (dvd_pow_self 2 (by have := hf.mb_pos; omega))
  · exact h

include hf hx hm hz hxz hs in
/-- Rounding a magnitude that stands for a non-zero value gives that value rounded once, whatever an overflow is to give. -/
theorem round_roundsTo (flush : Bool) (ov : FpOut) :
    let r := f.round (.dir d) flush (decide (x < 0)) m e sticky
    RoundsTo f d flush ov x (if r.overflowed then ov else (r.bits, r.flags)) := by
  have htiny := roundsTiny_iff (f := f) (d := d) hx hm hz hxz hs
  have hover := overflows_iff hf (d := d) hx hm hz hxz hs
  have henc := encodes_carry (f := f) (d := d) hm hz hxz hs (decide (x < 0))
  obtain ⟨hr, hexact⟩ := roundAt_at (f := f) (d := d) hz hxz hs (decide (x < 0)) (topQuantum_le_quantum (f := f))
  rw [round_eq f _ _ _ _ _ hm]
  dsimp only at hover henc ⊢
  generalize roundsTiny f (.dir d) (decide (x < 0)) m e sticky = tiny at *
  generalize roundAt (.dir d) (decide (x < 0)) m e sticky (quantum f m e) = ri at *
  by_cases hflush : tiny = true ∧ flush = true
  · -- tiny and flushed
    have hT := htiny.mp hflush.1
    have hin := inRange_of_tiny hf hT
    simp only [hflush.1, hflush.2, Bool.and_true, if_true, Bool.false_eq_true, if_false]
    exact ⟨fun h => absurd hin h, fun _ _ _ => rfl, fun _ h => absurd ⟨rfl, hT⟩ h⟩
  · have hcond : (tiny && flush) = false := Bool.eq_false_of_not_eq_true (by simpa using hflush)
    simp only [hcond, Bool.false_eq_true, if_false]
    by_cases hout : InRange f d x
    · have hmost := hover.not.mpr (not_not.mpr hout)
      obtain ⟨hfin, hneg, hmag, hpar⟩ := encode_spec hf (decide (x < 0)) (henc hmost)
      have hnov : pastMax f (carrySig f ri.1) (carryExp f ri.1 (quantum f m e)) = false :=
        Bool.eq_false_of_not_eq_true (pastMax_iff.not.mpr hmost)
      rw [carry_value] at hmag
      have hbest := best_of_magRounds hr (qmin_le_quantum (f := f)) (le_quantum hm hz hxz)
      rw [← hmag] at hbest
      obtain ⟨hn, hi, ho⟩ := rounded_of_best (d := d) hx hneg (fun hu => hpar.trans (carrySig_even f hf hu)) hbest
      have hval : valueQ f (encode f (decide (x < 0)) (carrySig f ri.1) (carryExp f ri.1 (quantum f m e))) = x ↔ ri.2 = false := by
        rw [valueQ_eq_iff hneg, hmag, hexact, div_eq_iff (by positivity)]
      simp only [hnov, Bool.false_eq_true, if_false, flags_of]
      refine ⟨fun h => absurd hout h, fun _ h1 h2 => absurd ⟨htiny.mpr h2, h1⟩ hflush, fun _ _ => ⟨hfin, hneg, hn, hi, ho, ?_, ?_, ?_⟩⟩
      · intro h
        rw [hval.mp h]
        rfl
      · intro h hT
        rw [Bool.eq_true_of_not_eq_false (hval.not.mp h), htiny.mpr hT]
        rfl
      · intro h hT
        rw [Bool.eq_true_of_not_eq_false (hval.not.mp h), Bool.eq_false_of_not_eq_true (htiny.not.mpr hT)]
        rfl
    · have hmost := hover.mpr hout
      simp only [pastMax_iff.mpr hmost, if_true]
      exact ⟨fun _ => rfl, fun h => absurd h hout, fun h => absurd h hout⟩

end

end Sys2Proof.Arith
end

section
/-! PROOF. The arithmetic operations on finite operands: what is read, the exact result, and its one rounding (R96, R99, R103). -/
namespace Sys2Proof.Arith
open Sys2Proof.Machine Sys2Proof.Claims

/-- The significand of a finite pattern as it is read: none of a subnormal when inputs are flushed (R99). -/
def readSig (f : FloatFmt) (flush : Bool) (b : ℕ) : ℕ := if flush = true ∧ expField f b = 0 then 0 else sigOf f b

theorem fvalQ_num (n : Bool) (m : ℕ) (e : ℤ) : fvalQ (.num n m e) = sgn n * (m * 2 ^ e) := mul_assoc _ _ _

theorem sgn_ne_zero (n : Bool) : sgn n ≠ 0 := by
  cases n <;> simp [sgn]

theorem sgn_not (n : Bool) : sgn (!n) = -sgn n := by
  cases n <;> simp [sgn]

theorem sgn_mul_sgn (n k : Bool) : sgn n * sgn k = sgn (n != k) := by
  cases n <;> cases k <;> simp [sgn]

/-- The sign of a value with a positive magnitude. -/
theorem decide_sgn_mul_neg {n : Bool} {y : ℚ} (hy : 0 < y) : decide (sgn n * y < 0) = n := by
  cases n <;> simp [sgn, hy, hy.le]

theorem fvalQ_num_eq_zero {n : Bool} {m : ℕ} {e : ℤ} : fvalQ (.num n m e) = 0 ↔ m = 0 := by
  rw [fvalQ_num, mul_eq_zero_iff_left (sgn_ne_zero n), mul_eq_zero_iff_right (by positivity), Nat.cast_eq_zero]

section
variable {f : FloatFmt} (hf : IsFormat f) {flush : Bool} {b : ℕ}

theorem readQ_eq : readQ f flush b = fvalQ (.num (negBit f b) (readSig f flush b) (expOf f b)) := by
  rw [fvalQ_num]
  unfold readQ readSig
  rw [show b / 2 ^ f.mb % 2 ^ f.eb = expField f b from rfl]
  split
  · simp
  · exact valueQ_eq b

theorem expField_finite (hb : FiniteBits f b) (h : f.e4m3 = false) : expField f b ≠ 2 ^ f.eb - 1 := hb.2.2 h

include hf in
/-- What a finite pattern is read as. -/
theorem value_finite (hb : FiniteBits f b) :
    f.value flush b = .num (negBit f b) (readSig f flush b) (expOf f b) := by
  have hspecial : (expField f b = 2 ^ f.eb - 1 && (!f.e4m3 || fracField f b == 7)) = false := by
    cases h4 : f.e4m3
    · simp [expField_finite hb h4]
    · have h7 := hb.2.1 h4
      obtain rfl := hf.e4m3 h4
      have hne : ¬(b / 8 % 16 = 15 ∧ b % 8 = 7) := by omega
      exact Bool.eq_false_of_not_eq_true fun h => hne (by
        rw [Bool.and_eq_true, decide_eq_true_iff] at h
        exact ⟨h.1, eq_of_beq h.2⟩)
  unfold FloatFmt.value
  change (if (expField f b = 2 ^ f.eb - 1 && (!f.e4m3 || fracField f b == 7)) = true then _ else
    if expField f b = 0 then FVal.num (negBit f b) (if flush = true then 0 else fracField f b) f.qmin else
      FVal.num (negBit f b) (2 ^ f.mb + fracField f b) ((expField f b : ℤ) - f.bias - f.mb)) = _
  rw [if_neg (by rw [hspecial]; exact Bool.false_ne_true)]
  unfold readSig sigOf expOf
  by_cases h0 : expField f b = 0 <;> simp [h0]

end

/-- A signed significand in units of a lower quantum. -/
theorem signedAt_value (n : Bool) (m : ℕ) {e q : ℤ} (h : q ≤ e) : (signedAt n m e q : ℚ) * 2 ^ q = fvalQ (.num n m e) := by
  have hs : (signedAt n m e q : ℚ) = sgn n * (m * 2 ^ (e - q).toNat) := by
    cases n <;> simp [signedAt, sgn]
  have hp : (2 : ℚ) ^ (e - q).toNat * 2 ^ q = 2 ^ e := by
    rw [← zpow_natCast, Int.toNat_of_nonneg (by omega), ← zpow_add₀ two_ne_zero]
    congr 1
    omega
  rw [hs, fvalQ_num, ← hp]
  ring

/-- An integer in units of a quantum as a signed significand. -/
theorem fvalQ_int (t : ℤ) (q : ℤ) : fvalQ (.num (decide (t < 0)) t.natAbs q) = t * 2 ^ q := by
  have h : sgn (decide (t < 0)) * |(t : ℚ)| = t := by
    have := sgn_mul_abs (t : ℚ)
    simpa using this
  rw [fvalQ_num, ← mul_assoc, Nat.cast_natAbs, Int.cast_abs, h]

section
variable {f : FloatFmt} (hf : IsFormat f) {n : Bool} {m : ℕ} {e : ℤ} {sticky : Bool} {z : ℚ}

/-- A rounding that overflows. -/
theorem round_overflowed {r : Rounding} {flush : Bool} (hm : m ≠ 0) (h : (f.round r flush n m e sticky).overflowed = true) :
    (f.round r flush n m e sticky).bits = (if overflowsOut r n then f.inf n else f.max n) ∧
      (f.round r flush n m e sticky).flags = flagOF ||| flagNX := by
  rw [round_eq f r flush n e sticky hm] at h ⊢
  dsimp only at h ⊢
  generalize (roundsTiny f r n m e sticky && flush) = flushed at *
  generalize pastMax f _ _ = past at *
  cases flushed
  · cases past
    · cases h
    · exact ⟨rfl, rfl⟩
  · cases h

theorem round_zero (r : Rounding) (flush : Bool) (e : ℤ) :
    f.round r flush n 0 e false = { bits := f.sign n, flags := 0, overflowed := false } := rfl

/-- Where an overflow goes, by the sign of the value. -/
theorem overflowsOut_iff {d : Dir} {x : ℚ} (hx : x ≠ 0) (hn : n = decide (x < 0)) :
    overflowsOut (.dir d) n = !(d == .zero || (d == .down && decide (0 < x)) || (d == .up && decide (x < 0))) := by
  subst hn
  rcases lt_or_gt_of_ne hx with h | h <;> cases d <;> simp [overflowsOut, h, not_lt.mpr h.le]

variable (hm : m ≠ 0) (hz : Within m sticky z) (hs : sticky = true → 2 ^ (f.mb + 1) ≤ m)

include hm hz in
/-- The sign that is rounded with is that of the value, which is not zero. -/
theorem decide_neg_of_within : n = decide (sgn n * (z * (2 : ℚ) ^ e) < 0) ∧ sgn n * (z * (2 : ℚ) ^ e) ≠ 0 := by
  have hmpos : (0 : ℚ) < m := by exact_mod_cast Nat.pos_of_ne_zero hm
  have hzpos : 0 < z * (2 : ℚ) ^ e := mul_pos (hmpos.trans_le hz.1) (by positivity)
  exact ⟨(decide_sgn_mul_neg hzpos).symm, mul_ne_zero (sgn_ne_zero n) hzpos.ne'⟩

include hf hm hz hs

theorem roundsTo_of_within (d : Dir) (flush : Bool) (ov : FpOut) :
    let r := f.round (.dir d) flush n m e sticky
    RoundsTo f d flush ov (sgn n * (z * 2 ^ e)) (if r.overflowed then ov else (r.bits, r.flags)) := by
  have hmpos : (0 : ℚ) < m := by exact_mod_cast Nat.pos_of_ne_zero hm
  have hzpos : 0 < z * (2 : ℚ) ^ e := mul_pos (hmpos.trans_le hz.1) (by positivity)
  have hneg : decide (sgn n * (z * (2 : ℚ) ^ e) < 0) = n := decide_sgn_mul_neg hzpos
  have := round_roundsTo hf (d := d) (x := sgn n * (z * 2 ^ e)) (mul_ne_zero (sgn_ne_zero n) hzpos.ne') hm hz
    (by rw [abs_mul, abs_sgn, one_mul, abs_of_pos hzpos]) hs flush ov
  rwa [hneg] at this

/-- The result of a rounding, overflow included, is the value rounded once (R103). -/
theorem roundsTo_ieee (d : Dir) (flush : Bool) :
    RoundsTo f d flush (ieeeOver f d false (sgn n * (z * 2 ^ e))) (sgn n * (z * 2 ^ e))
      ((f.round (.dir d) flush n m e sticky).bits, (f.round (.dir d) flush n m e sticky).flags) := by
  have h := roundsTo_of_within (e := e) (n := n) hf hm hz hs d flush (ieeeOver f d false (sgn n * (z * 2 ^ e)))
  obtain ⟨hn, hx⟩ := decide_neg_of_within (e := e) (n := n) hm hz
  dsimp only at h
  split at h
  · next ho =>
    obtain ⟨hb, hfl⟩ := round_overflowed hm ho
    have hout := overflowsOut_iff (d := d) hx hn
    rw [hb, hfl]
    rw [ieeeOver, Bool.false_or, ← hn] at h ⊢
    rw [← hn] at hout
    rw [hout]
    cases hc : (d == .zero || (d == .down && decide (0 < sgn n * (z * 2 ^ e))) || (d == .up && n)) <;> rw [hc] at h <;> exact h
  · exact h

end

section
variable {c : FpEnv} (hf : IsFormat c.fmt)
include hf

/-- A value rounded once under an environment. -/
theorem env_round_num (n : Bool) {m : ℕ} (e : ℤ) (hm : m ≠ 0) :
    RoundsTo c.fmt c.dir c.flushOut (ieeeOver c.fmt c.dir false (fvalQ (.num n m e))) (fvalQ (.num n m e)) (c.round n m e false) := by
  rw [fvalQ_num]
  exact roundsTo_ieee hf hm (within_exact m) nofun c.dir c.flushOut

/-- A sum of two numbers (R103). -/
theorem sum_spec (n1 : Bool) (m1 : ℕ) (e1 : ℤ) (n2 : Bool) (m2 : ℕ) (e2 : ℤ) :
    let x := fvalQ (.num n1 m1 e1)
    let y := fvalQ (.num n2 m2 e2)
    (x + y ≠ 0 → RoundsTo c.fmt c.dir c.flushOut (ieeeOver c.fmt c.dir false (x + y)) (x + y) (c.sum n1 m1 e1 n2 m2 e2)) ∧
      (x + y = 0 → c.sum n1 m1 e1 n2 m2 e2 = zeroSum c x y n1 n2) := by
  intro x y
  have hsum : x + y = (signedAt n1 m1 e1 (min e1 e2) + signedAt n2 m2 e2 (min e1 e2) : ℤ) * 2 ^ min e1 e2 := by
    push_cast
    rw [add_mul, signedAt_value n1 m1 (min_le_left e1 e2), signedAt_value n2 m2 (min_le_right e1 e2)]
  unfold FpEnv.sum
  dsimp only
  generalize signedAt n1 m1 e1 (min e1 e2) + signedAt n2 m2 e2 (min e1 e2) = t at *
  have hzero : x + y = 0 ↔ t = 0 := by
    rw [hsum, mul_eq_zero_iff_right (by positivity), Int.cast_eq_zero]
  rw [Ne, hzero]
  refine ⟨fun ht => ?_, fun ht => ?_⟩
  · rw [if_neg ht, hsum, ← fvalQ_int]
    exact env_round_num hf _ _ (by simpa using ht)
  · rw [if_pos ht, zeroSum]
    simp only [x, y, fvalQ_num_eq_zero, Bool.and_eq_true, decide_eq_true_iff, beq_iff_eq, and_assoc]

/-- The reciprocal of a number that is not zero (R103). -/
theorem rcp_spec (n : Bool) {m : ℕ} (e : ℤ) (hm : m ≠ 0) :
    let k := c.fmt.mb + 4 + Nat.log2 m
    let x := 1 / fvalQ (.num n m e)
    RoundsTo c.fmt c.dir c.flushOut (ieeeOver c.fmt c.dir false x) x (c.round n (2 ^ k / m) (-(k : ℤ) - e) (2 ^ k % m != 0)) := by
  intro k x
  have hmpos : (0 : ℚ) < m := by exact_mod_cast Nat.pos_of_ne_zero hm
  have hx : x = sgn n * ((2 ^ k / m : ℚ) * 2 ^ (-(k : ℤ) - e)) := by
    have hsq : sgn n * sgn n = 1 := by cases n <;> simp [sgn]
    have hp : (2 : ℚ) ^ k * 2 ^ (-(k : ℤ) - e) = (2 ^ e)⁻¹ := by
      rw [← zpow_natCast, ← zpow_add₀ two_ne_zero, ← zpow_neg]
      congr 1
      omega
    rw [show x = 1 / fvalQ (.num n m e) from rfl, fvalQ_num, div_mul_eq_mul_div, hp]
    have := sgn_ne_zero n
    field_simp
    linear_combination -hsq
  have hdm : ((2 ^ k : ℕ) : ℚ) = (2 ^ k / m : ℕ) * m + (2 ^ k % m : ℕ) := by exact_mod_cast (Nat.div_add_mod' _ _).symm
  have hrem : ((2 ^ k % m : ℕ) : ℚ) < m := by exact_mod_cast Nat.mod_lt _ (Nat.pos_of_ne_zero hm)
  have hz : Within (2 ^ k / m) (2 ^ k % m != 0) (2 ^ k / m : ℚ) := by
    push_cast at hdm
    refine ⟨?_, ?_, ?_⟩
    · rw [le_div_iff₀ hmpos]
      have : (0 : ℚ) ≤ (2 ^ k % m : ℕ) := Nat.cast_nonneg _
      linarith
    · rw [div_lt_iff₀ hmpos]
      linarith
    · rw [bne_eq_false_iff_eq, div_eq_iff hmpos.ne', hdm, add_eq_left, Nat.cast_eq_zero]
  have hbig : 2 ^ (c.fmt.mb + 1) ≤ 2 ^ k / m := by
    rw [Nat.le_div_iff_mul_le (Nat.pos_of_ne_zero hm)]
    calc 2 ^ (c.fmt.mb + 1) * m ≤ 2 ^ (c.fmt.mb + 1) * 2 ^ (Nat.log2 m + 1) := by
          gcongr
          exact (Nat.lt_log2_self).le
      _ = 2 ^ (c.fmt.mb + 2 + Nat.log2 m) := by ring
      _ ≤ 2 ^ k := Nat.pow_le_pow_right (by decide) (by omega)
  rw [hx]
  exact roundsTo_ieee hf (by have := Nat.one_le_two_pow (n := c.fmt.mb + 1); omega) hz (fun _ => hbig) c.dir c.flushOut

end

theorem neg_num (n : Bool) (m : ℕ) (e : ℤ) : fvalQ (.num (!n) m e) = -fvalQ (.num n m e) := by
  rw [fvalQ_num, fvalQ_num, sgn_not, neg_mul]

theorem fvalQ_mul (n1 : Bool) (m1 : ℕ) (e1 : ℤ) (n2 : Bool) (m2 : ℕ) (e2 : ℤ) :
    fvalQ (.num (n1 != n2) (m1 * m2) (e1 + e2)) = fvalQ (.num n1 m1 e1) * fvalQ (.num n2 m2 e2) := by
  rw [fvalQ_num, fvalQ_num, fvalQ_num, ← sgn_mul_sgn, zpow_add₀ two_ne_zero]
  push_cast
  ring

section
variable {c : FpEnv} {x y z : ℕ} {n1 n2 n3 : Bool} {m1 m2 m3 : ℕ} {e1 e2 e3 : ℤ}
  (hx : c.read x = .num n1 m1 e1) (hy : c.read y = .num n2 m2 e2) (hz : c.read z = .num n3 m3 e3)

include hx hy in
theorem add_num : c.add x y = c.sum n1 m1 e1 n2 m2 e2 := by
  simp [FpEnv.add, hx, hy, FpEnv.addVals, nvOf, FVal.signals]

include hx hy in
theorem sub_num : c.sub x y = c.sum n1 m1 e1 (!n2) m2 e2 := by
  simp [FpEnv.sub, hx, hy, FpEnv.addVals, FVal.neg, nvOf, FVal.signals]

include hx hy in
theorem mul_num : c.mul x y = c.round (n1 != n2) (m1 * m2) (e1 + e2) false := by
  simp [FpEnv.mul, hx, hy, nvOf, FVal.signals]

include hx hy hz in
theorem fma_num : c.fma x y z = c.sum (n1 != n2) (m1 * m2) (e1 + e2) n3 m3 e3 := by
  simp [FpEnv.fma, hx, hy, hz, zeroTimesInf, mulVals, FpEnv.addVals, nvOf, FVal.signals]

end

theorem isFormat_of_ieee {f : FloatFmt} (h : f = fmtF32 ∨ f = fmtF16 ∨ f = fmtBF16) : IsFormat f := by
  rcases h with rfl | rfl | rfl
  exacts [isFormat_f32, isFormat_f16, isFormat_bf16]

theorem read_finite {c : FpEnv} (hf : IsFormat c.fmt) {x : ℕ} (hx : FiniteBits c.fmt x) :
    c.read x = .num (negBit c.fmt x) (readSig c.fmt c.flushIn x) (expOf c.fmt x) := value_finite hf hx

/-- The first clause: decoding, and the arithmetic of finite operands. -/
theorem finite_arithmetic (c : FpEnv) (x y z : ℕ) (hc : c.fmt = fmtF32 ∨ c.fmt = fmtF16 ∨ c.fmt = fmtBF16)
    (hx : FiniteBits c.fmt x) (hy : FiniteBits c.fmt y) (hz : FiniteBits c.fmt z) :
    let a := readQ c.fmt c.flushIn x
    let b := readQ c.fmt c.flushIn y
    let d := readQ c.fmt c.flushIn z
    let nx := negBit c.fmt x
    let ny := negBit c.fmt y
    let nz := negBit c.fmt z
    let once (v : ℚ) (o : FpOut) : Prop := RoundsTo c.fmt c.dir c.flushOut (ieeeOver c.fmt c.dir false v) v o
    (a + b ≠ 0 → once (a + b) (c.add x y)) ∧ (a + b = 0 → c.add x y = zeroSum c a b nx ny) ∧
      (a - b ≠ 0 → once (a - b) (c.sub x y)) ∧ (a - b = 0 → c.sub x y = zeroSum c a b nx (!ny)) ∧
      (a * b ≠ 0 → once (a * b) (c.mul x y)) ∧ (a * b = 0 → c.mul x y = (c.fmt.sign (nx != ny), 0)) ∧
      (a * b + d ≠ 0 → once (a * b + d) (c.fma x y z)) ∧
      (a * b + d = 0 → c.fma x y z = zeroSum c (a * b) d (nx != ny) nz) ∧
      (a ≠ 0 → once (1 / a) (c.rcp x)) ∧ (a = 0 → c.rcp x = (c.fmt.inf nx, flagDZ)) := by
  have hf := isFormat_of_ieee hc
  have rx := read_finite hf hx
  have ry := read_finite hf hy
  have rz := read_finite hf hz
  intro a b d nx ny nz once
  simp only [a, b, d, nx, ny, nz, once, readQ_eq]
  generalize negBit c.fmt x = n1 at *
  generalize negBit c.fmt y = n2 at *
  generalize negBit c.fmt z = n3 at *
  generalize readSig c.fmt c.flushIn x = m1 at *
  generalize readSig c.fmt c.flushIn y = m2 at *
  generalize readSig c.fmt c.flushIn z = m3 at *
  generalize expOf c.fmt x = e1 at *
  generalize expOf c.fmt y = e2 at *
  generalize expOf c.fmt z = e3 at *
  rw [add_num rx ry, sub_num rx ry, mul_num rx ry, fma_num rx ry rz, sub_eq_add_neg, ← neg_num n2, ← fvalQ_mul]
  obtain ⟨add_once, add_zero⟩ := sum_spec hf n1 m1 e1 n2 m2 e2
  obtain ⟨sub_once, sub_zero⟩ := sum_spec hf n1 m1 e1 (!n2) m2 e2
  obtain ⟨fma_once, fma_zero⟩ := sum_spec hf (n1 != n2) (m1 * m2) (e1 + e2) n3 m3 e3
  have hmul : fvalQ (.num (n1 != n2) (m1 * m2) (e1 + e2)) = 0 ↔ m1 * m2 = 0 := fvalQ_num_eq_zero
  refine ⟨add_once, add_zero, sub_once, fun h => ?_, fun h => env_round_num hf _ _ (hmul.not.mp h), fun h => ?_, fma_once, fma_zero,
    fun h => ?_, fun h => ?_⟩
  · rw [sub_zero h]
    simp only [zeroSum, neg_num, neg_eq_zero]
  · rw [hmul.mp h]
    rfl
  · have hm := fvalQ_num_eq_zero.not.mp h
    have := rcp_spec hf n1 e1 hm
    simpa only [FpEnv.rcp, rx, if_neg hm] using this
  · simp only [FpEnv.rcp, rx, if_pos (fvalQ_num_eq_zero.mp h)]

end Sys2Proof.Arith
end

section
/-! PROOF. Conversions: to a narrower format, to F32, to an integer type and from one (R95, R102, R105). -/
namespace Sys2Proof.Arith
open Sys2Proof.Machine Sys2Proof.Claims

section
variable {f : FloatFmt} (hf : IsFormat f)
include hf

/-- No finite magnitude is past the greatest (R96). -/
theorem magQ_le_max {b : ℕ} (hb : FiniteBits f b) : magQ f b ≤ f.maxSig * 2 ^ f.qmax := by
  have hsig := sigOf_lt (f := f) b
  have hexp := expField_lt (f := f) b
  have hspan := hf.span
  cases h4 : f.e4m3
  · have hne := expField_finite hb h4
    have hieee := hf.ieee h4
    have hq : f.qmin = 1 - (f.bias : ℤ) - f.mb := rfl
    have hmax : f.maxSig = 2 ^ (f.mb + 1) - 1 := by simp [FloatFmt.maxSig, h4]
    have hle : expOf f b ≤ f.qmax := by
      unfold expOf
      split <;> omega
    have hs : sigOf f b ≤ f.maxSig := by omega
    unfold magQ
    gcongr
    exact one_le_two
  · have h7 := hb.2.1 h4
    obtain rfl := hf.e4m3 h4
    have hq : fmtE4M3.qmax = 5 ∧ fmtE4M3.qmin = -9 ∧ fmtE4M3.maxSig = 14 ∧ fmtE4M3.mb = 3 ∧ fmtE4M3.eb = 4 ∧ fmtE4M3.bias = 7 := by decide
    obtain ⟨hqmax, hqmin, hmax, hmb, heb, hbias⟩ := hq
    have hcase : (expOf fmtE4M3 b ≤ 5 ∧ sigOf fmtE4M3 b ≤ 14) ∨ expOf fmtE4M3 b ≤ 4 := by
      unfold expOf sigOf expField fracField at *
      rw [hmb, heb] at *
      rw [hqmin, hbias]
      split <;> omega
    rw [hmb] at hsig
    rw [hqmax, hmax, magQ]
    rcases hcase with ⟨he, hs⟩ | he
    · gcongr
      · exact one_le_two
    · have hs : sigOf fmtE4M3 b ≤ 15 := by omega
      calc (sigOf fmtE4M3 b : ℚ) * 2 ^ expOf fmtE4M3 b ≤ (15 : ℕ) * 2 ^ (4 : ℤ) := by
            gcongr
            exact one_le_two
        _ ≤ (14 : ℕ) * 2 ^ (5 : ℤ) := by norm_num

/-- A zero of either sign. -/
theorem sign_spec (n : Bool) : FiniteBits f (f.sign n) ∧ negBit f (f.sign n) = n ∧ magQ f (f.sign n) = 0 := by
  have hspan := hf.span
  obtain ⟨hfin, hsign, hmag, -⟩ := encode_spec hf n (sig := 0) (q := f.qmin) ⟨by positivity, le_rfl, fun _ => rfl, by omega⟩
  rw [show encode f n 0 f.qmin = f.sign n by rw [encode, if_pos (by positivity), Nat.add_zero]] at hfin hsign hmag
  exact ⟨hfin, hsign, by rw [hmag]; simp⟩

/-- A value with no more bits than the format, and in its range, is kept exactly. -/
theorem round_exact (d : Dir) (n : Bool) {m : ℕ} {e : ℤ} (hlt : m < 2 ^ (f.mb + 1)) (he : f.qmin ≤ e)
    (hle : (m : ℚ) * 2 ^ e ≤ f.maxSig * 2 ^ f.qmax) :
    let r := f.round (.dir d) false n m e false
    FiniteBits f r.bits ∧ negBit f r.bits = n ∧ magQ f r.bits = m * 2 ^ e ∧ r.flags = 0 ∧ r.overflowed = false := by
  rcases eq_or_ne m 0 with rfl | hm
  · obtain ⟨hfin, hsign, hmag⟩ := sign_spec hf n
    rw [round_zero]
    exact ⟨hfin, hsign, by rw [hmag]; simp, rfl, rfl⟩
  have hmpos : (0 : ℚ) < m * 2 ^ e := mul_pos (by exact_mod_cast Nat.pos_of_ne_zero hm) (by positivity)
  have hx : sgn n * (m * (2 : ℚ) ^ e) ≠ 0 := mul_ne_zero (sgn_ne_zero n) hmpos.ne'
  have habs : |sgn n * (m * (2 : ℚ) ^ e)| = m * 2 ^ e := by rw [abs_mul, abs_sgn, one_mul, abs_of_pos hmpos]
  have hneg := decide_sgn_mul_neg (n := n) hmpos
  have hrange : InRange f d (sgn n * (m * 2 ^ e)) := inRange_of_le hf hx (habs.le.trans hle)
  have hq : quantum f m e ≤ e := by
    have : Nat.log2 m < f.mb + 1 := (Nat.log2_lt hm).mpr hlt
    unfold quantum topQuantum
    split <;> omega
  have hmost := (overflows_iff hf (d := d) hx hm (within_exact m) habs nofun).not.mpr (not_not.mpr hrange)
  have henc := encodes_carry (f := f) (d := d) hm (within_exact m) habs nofun n
  rw [hneg] at hmost
  obtain ⟨hfin, hsign, hmag, -⟩ := encode_spec hf n (henc hmost)
  have hexact : (roundAt (.dir d) n m e false (quantum f m e)).2 = false := by
    rw [roundAt, if_pos hq]
  have hval := (roundAt_at (d := d) (within_exact m) habs nofun n (topQuantum_le_quantum (f := f))).2.mp hexact
  rw [carry_value, ← hval, habs, div_mul_cancel₀ _ (by positivity)] at hmag
  rw [round_eq f _ _ _ _ _ hm]
  simp only [Bool.and_false, Bool.false_eq_true, if_false, Bool.eq_false_of_not_eq_true (pastMax_iff.not.mpr hmost), hexact]
  exact ⟨hfin, hsign, hmag, rfl, trivial⟩

/-- A conversion's rounding of a value, with the overflow rows of R105. -/
theorem cvtRound_num (d : Dir) (flush sat n : Bool) {m : ℕ} (e : ℤ) (hm : m ≠ 0) :
    RoundsTo f d flush (convertOver f d sat (fvalQ (.num n m e))) (fvalQ (.num n m e)) (cvtRound f d flush sat n m e) := by
  rw [fvalQ_num]
  have h := roundsTo_of_within (e := e) (n := n) hf hm (within_exact m) nofun d flush (convertOver f d sat (sgn n * (m * 2 ^ e)))
  obtain ⟨hn, hx⟩ := decide_neg_of_within (e := e) (n := n) hm (within_exact m)
  have hout := overflowsOut_iff (d := d) hx hn
  have hover : convertOver f d sat (sgn n * (m * 2 ^ e)) =
      if sat || !overflowsOut (.dir d) n then (f.max n, flagOF ||| flagNX) else if f.e4m3 then (f.nan, flagNV)
      else (f.inf n, flagOF ||| flagNX) := by
    rw [hout, Bool.not_not, ← Bool.or_assoc, ← Bool.or_assoc]
    unfold convertOver e4m3Over ieeeOver
    rw [← hn]
    cases h4 : f.e4m3
    · simp only [Bool.false_eq_true, if_false]
      split <;> rfl
    · obtain rfl := hf.e4m3 h4
      rfl
  rw [hover] at h ⊢
  dsimp only at h
  unfold cvtRound
  cases ho : (f.round (.dir d) flush n m e false).overflowed <;> rw [ho] at h <;> simpa [ho] using h

end

theorem cvtRound_zero (f : FloatFmt) (d : Dir) (flush sat n : Bool) (e : ℤ) : cvtRound f d flush sat n 0 e = (f.sign n, 0) := rfl

/-- The formats of the floating-point types. -/
theorem isFormat_of_floatType {ty : TypeCode} {f : FloatFmt} (h : (ty, f) ∈ floatTypes) :
    IsFormat f ∧ floatType ty = f ∧ intType ty = none := by
  simp only [floatTypes, List.mem_cons, Prod.mk.injEq, List.not_mem_nil, or_false] at h
  rcases h with ⟨rfl, rfl⟩ | ⟨rfl, rfl⟩ | ⟨rfl, rfl⟩ | ⟨rfl, rfl⟩ | ⟨rfl, rfl⟩
  exacts [⟨isFormat_f32, rfl, rfl⟩, ⟨isFormat_f16, rfl, rfl⟩, ⟨isFormat_bf16, rfl, rfl⟩, ⟨isFormat_e4m3, rfl, rfl⟩,
    ⟨isFormat_e5m2, rfl, rfl⟩]

/-- What F32 has over a narrower format: it holds each of its values, and the other way about it does not. -/
structure Narrower (f : FloatFmt) : Prop where
  widens : widens f fmtF32 = true
  narrows : Machine.widens fmtF32 f = false
  ne : (f != fmtF32) = true
  mb : f.mb ≤ fmtF32.mb
  qmin : fmtF32.qmin ≤ f.qmin
  max : (f.maxSig : ℚ) * 2 ^ f.qmax ≤ fmtF32.maxSig * 2 ^ fmtF32.qmax

theorem narrower_of_floatType {ty : TypeCode} {f : FloatFmt} (h : (ty, f) ∈ floatTypes) (hne : ty ≠ .f32) : Narrower f := by
  have h32 : fmtF32.maxSig = 16777215 ∧ fmtF32.qmax = 104 := by decide
  have max_le : ∀ (f : FloatFmt) (s : ℕ) (q : ℤ), f.maxSig = s ∧ f.qmax = q → (s : ℚ) * 2 ^ q ≤ 16777215 * 2 ^ (104 : ℤ) →
      (f.maxSig : ℚ) * 2 ^ f.qmax ≤ fmtF32.maxSig * 2 ^ fmtF32.qmax := by
    rintro f s q ⟨rfl, rfl⟩ h
    rw [h32.1, h32.2]
    exact_mod_cast h
  simp only [floatTypes, List.mem_cons, Prod.mk.injEq, List.not_mem_nil, or_false] at h
  rcases h with ⟨rfl, rfl⟩ | ⟨rfl, rfl⟩ | ⟨rfl, rfl⟩ | ⟨rfl, rfl⟩ | ⟨rfl, rfl⟩
  · exact absurd rfl hne
  · exact ⟨by decide, by decide, by decide, by decide, by decide, max_le _ 2047 5 (by decide) (by norm_num)⟩
  · exact ⟨by decide, by decide, by decide, by decide, by decide, max_le _ 255 120 (by decide) (by norm_num)⟩
  · exact ⟨by decide, by decide, by decide, by decide, by decide, max_le _ 14 5 (by decide) (by norm_num)⟩
  · exact ⟨by decide, by decide, by decide, by decide, by decide, max_le _ 7 13 (by decide) (by norm_num)⟩

theorem readSig_le (f : FloatFmt) (flush : Bool) (b : ℕ) : readSig f flush b ≤ sigOf f b := by
  unfold readSig
  split <;> simp

section
variable {ty : TypeCode} {f : FloatFmt} (hty : (ty, f) ∈ floatTypes) (mode : BitVec 5) (dir : Dir) {x : ℕ}
include hty

/-- F32 to a narrower format (R105). -/
theorem convert_narrow (hne : ty ≠ .f32) (hx : FiniteBits fmtF32 x) :
    let v := readQ fmtF32 (mode.getLsbD 2) x
    (v ≠ 0 → RoundsTo f dir (mode.getLsbD 3) (convertOver f dir (mode.getLsbD 4) v) v (convert ty .f32 mode dir x)) ∧
      (v = 0 → convert ty .f32 mode dir x = (f.sign (negBit fmtF32 x), 0)) := by
  obtain ⟨hf, hft, hit⟩ := isFormat_of_floatType hty
  have hn := narrower_of_floatType hty hne
  have hc : convert ty .f32 mode dir x = cvtRound f dir (mode.getLsbD 3) (mode.getLsbD 4) (negBit fmtF32 x)
      (readSig fmtF32 (mode.getLsbD 2) x) (expOf fmtF32 x) := by
    unfold convert
    rw [hit, show intType .f32 = none from rfl]
    dsimp only
    rw [hft, show floatType .f32 = fmtF32 from rfl, cvtFloatFloat, value_finite isFormat_f32 hx]
    simp only [hn.narrows, Bool.and_false, Bool.not_false, Bool.and_true]
    rfl
  intro v
  rw [hc]
  simp only [v, readQ_eq]
  refine ⟨fun h => cvtRound_num hf dir _ _ _ _ (fvalQ_num_eq_zero.not.mp h), fun h => ?_⟩
  rw [fvalQ_num_eq_zero.mp h, cvtRound_zero]

/-- A narrower format to F32 is exact (R105). -/
theorem convert_widen (hne : ty ≠ .f32) (hx : FiniteBits f x) :
    let o := convert .f32 ty mode dir x
    o.2 = 0 ∧ FiniteBits fmtF32 o.1 ∧ valueQ fmtF32 o.1 = readQ f (mode.getLsbD 2) x ∧ negBit fmtF32 o.1 = negBit f x := by
  obtain ⟨hf, hft, hit⟩ := isFormat_of_floatType hty
  have hn := narrower_of_floatType hty hne
  have hc : convert .f32 ty mode dir x = cvtRound fmtF32 dir false (mode.getLsbD 4) (negBit f x)
      (readSig f (mode.getLsbD 2) x) (expOf f x) := by
    unfold convert
    rw [hit, show intType .f32 = none from rfl]
    dsimp only
    rw [hft, show floatType .f32 = fmtF32 from rfl, cvtFloatFloat, value_finite hf hx]
    simp only [hn.widens, hn.ne, Bool.and_true, Bool.not_true, Bool.and_false]
    rfl
  intro o
  simp only [o, hc, readQ_eq, fvalQ_num, valueQ_eq]
  have hsig := sigOf_lt (f := f) x
  have hle := readSig_le f (mode.getLsbD 2) x
  have hpow : 2 ^ (f.mb + 1) ≤ 2 ^ (fmtF32.mb + 1) := Nat.pow_le_pow_right (by decide) (by have := hn.mb; omega)
  have hmax : (readSig f (mode.getLsbD 2) x : ℚ) * 2 ^ expOf f x ≤ magQ f x := by
    unfold magQ
    gcongr
  obtain ⟨hfin, hsign, hmag, hflags, hover⟩ := round_exact isFormat_f32 dir (negBit f x) (by omega)
    (hn.qmin.trans (qmin_le_expOf x)) (hmax.trans ((magQ_le_max hf hx).trans hn.max))
  simp only [cvtRound, hover, Bool.not_false, if_true]
  exact ⟨hflags, hfin, by rw [hsign, hmag], hsign⟩

end

/-- An integer whose magnitude a magnitude rounds to is the value rounded. -/
theorem roundsInt_of_magRounds {d : Dir} {n : Bool} {y : ℚ} {u : ℕ} (hy : 0 ≤ y) (h : MagRounds (sideOf d n) y u) :
    RoundsInt d (sgn n * y) (if n then -(u : ℤ) else u) := by
  cases n
  · simp only [sgn, Bool.false_eq_true, if_false, one_mul]
    cases d with
    | near => exact h
    | zero => exact (show (u : ℤ) = ⌊y⌋ from h).trans (by rw [if_neg (not_lt.mpr hy)])
    | down => exact h
    | up => exact h
  · simp only [sgn, if_true, neg_mul, one_mul]
    cases d with
    | near =>
      obtain ⟨h1, h2⟩ : NearInt y u := h
      have habs : |-y - ((-(u : ℤ) : ℤ) : ℚ)| = |y - (u : ℤ)| := by
        rw [← abs_neg]
        congr 1
        push_cast
        ring
      exact ⟨habs ▸ h1, fun ht => by have := h2 (habs ▸ ht); omega⟩
    | zero =>
      have hu : (u : ℤ) = ⌊y⌋ := h
      show -(u : ℤ) = if -y < 0 then ⌈-y⌉ else ⌊-y⌋
      split
      · rw [Int.ceil_neg, hu]
      · have : y = 0 := by linarith
        simp [hu, this]
    | down => exact (show -(u : ℤ) = ⌊-y⌋ by rw [Int.floor_neg, show (u : ℤ) = ⌈y⌉ from h])
    | up => exact (show -(u : ℤ) = ⌈-y⌉ by rw [Int.ceil_neg, show (u : ℤ) = ⌊y⌋ from h])

theorem roundsInt_unique {d : Dir} {x : ℚ} {v w : ℤ} (hv : RoundsInt d x v) (hw : RoundsInt d x w) : v = w := by
  cases d with
  | near => exact nearInt_unique hv hw
  | zero => exact (show v = _ from hv).trans (show w = _ from hw).symm
  | down => exact (show v = _ from hv).trans (show w = _ from hw).symm
  | up => exact (show v = _ from hv).trans (show w = _ from hw).symm

section
variable {ty : TypeCode} {f : FloatFmt} (hty : (ty, f) ∈ floatTypes) (mode : BitVec 5) (dir : Dir) {x : ℕ} {it : TypeCode} {w : ℕ}
  {signed : Bool} (hint : intType it = some (w, signed))
include hty hint

/-- To an integer type (R105). -/
theorem convert_toInt (hx : FiniteBits f x) {v : ℤ} (hv : RoundsInt dir (readQ f (mode.getLsbD 2) x) v) :
    (intLow w signed ≤ v → v ≤ intHigh w signed → convert it ty mode dir x = ((v % 2 ^ w).toNat,
      if (v : ℚ) = readQ f (mode.getLsbD 2) x then 0 else flagNX)) ∧
    (v < intLow w signed → convert it ty mode dir x = ((intLow w signed % 2 ^ w).toNat, flagNV)) ∧
    (intHigh w signed < v → convert it ty mode dir x = ((intHigh w signed % 2 ^ w).toNat, flagNV)) := by
  obtain ⟨hf, hft, hit⟩ := isFormat_of_floatType hty
  have hread := value_finite hf (flush := mode.getLsbD 2) hx
  rw [readQ_eq, fvalQ_num] at hv ⊢
  generalize negBit f x = n at *
  generalize readSig f (mode.getLsbD 2) x = m at *
  generalize expOf f x = e at *
  obtain ⟨hr, hexact⟩ := roundAt_spec dir n (q := 0) (e := e) (within_exact m) nofun
  rw [zpow_zero, div_one] at hr hexact
  have huniq := roundsInt_unique hv (roundsInt_of_magRounds (by positivity) hr)
  have hval : (v : ℚ) = sgn n * (m * 2 ^ e) ↔ (roundAt (.dir dir) n m e false 0).2 = false := by
    rw [hexact, huniq]
    cases n <;> simp [sgn, eq_comm]
  have hc : convert it ty mode dir x = (let r := roundAt (.dir dir) n m e false 0
      if v < intLow w signed then (intBits w (intLow w signed), flagNV)
      else if intHigh w signed < v then (intBits w (intHigh w signed), flagNV)
      else (intBits w v, if r.2 then flagNX else 0)) := by
    unfold convert
    rw [hit, hint]
    dsimp only
    rw [hft, cvtFloatInt, show flushIn mode = mode.getLsbD 2 from rfl, hread]
    dsimp only
    rw [← huniq]
  have hspan : intLow w signed ≤ intHigh w signed := by
    unfold intLow intHigh
    have h1 : (1 : ℤ) ≤ 2 ^ (w - 1) := one_le_pow₀ (by norm_num)
    have h2 : (1 : ℤ) ≤ 2 ^ w := one_le_pow₀ (by norm_num)
    split <;> omega
  rw [hc]
  dsimp only
  refine ⟨fun h1 h2 => ?_, fun h => ?_, fun h => ?_⟩
  · rw [if_neg (not_lt.mpr h1), if_neg (not_lt.mpr h2), intBits]
    congr 1
    simp only [hval]
    cases (roundAt (.dir dir) n m e false 0).2 <;> rfl
  · rw [if_pos h, intBits]
  · rw [if_neg (by omega), if_pos h, intBits]

/-- From an integer type (R105). -/
theorem convert_ofInt (hx : x < 2 ^ w) {n : ℤ} (hn : n = if signed = true ∧ 2 ^ (w - 1) ≤ x then (x : ℤ) - 2 ^ w else x) :
    (n ≠ 0 → RoundsTo f dir (mode.getLsbD 3) (convertOver f dir (mode.getLsbD 4) n) n (convert ty it mode dir x)) ∧
      (n = 0 → convert ty it mode dir x = (0, 0)) := by
  obtain ⟨hf, hft, hit⟩ := isFormat_of_floatType hty
  have hof : intOf w signed x = n := by
    simp only [intOf, Nat.mod_eq_of_lt hx, hn, Bool.and_eq_true, decide_eq_true_iff]
  have hc : convert ty it mode dir x = cvtRound f dir (mode.getLsbD 3) (mode.getLsbD 4) (decide (n < 0)) n.natAbs 0 := by
    unfold convert
    rw [hit, hint]
    dsimp only
    rw [hft, hof]
    rfl
  rw [hc]
  refine ⟨fun h => ?_, fun h => ?_⟩
  · have := cvtRound_num hf dir (mode.getLsbD 3) (mode.getLsbD 4) (decide (n < 0)) 0 (Int.natAbs_ne_zero.mpr h)
    rwa [fvalQ_int, zpow_zero, mul_one] at this
  · subst h
    rfl

end

end Sys2Proof.Arith
end

section
/-! PROOF. NaNs, infinities and the order of values: FRINT, FMIN, FMAX, FCMP and FCLASS (R98, R104, R159, R160). -/
namespace Sys2Proof.Arith
open Sys2Proof.Machine Sys2Proof.Claims

section
variable {f : FloatFmt} (hf : IsFormat f) (h4 : f.e4m3 = false) {flush : Bool} {b : ℕ}

theorem infBits_iff : InfBits f b ↔ expField f b = 2 ^ f.eb - 1 ∧ fracField f b = 0 := Iff.rfl

include hf in
/-- A signalling NaN has a fraction in the lower half (R96). -/
theorem signallingBits_iff : SignallingBits f b ↔ NanBits f b ∧ fracField f b < 2 ^ (f.mb - 1) := by
  have hmb := hf.mb_pos
  have h : fracField f b / 2 ^ (f.mb - 1) = b / 2 ^ (f.mb - 1) % 2 := by
    rw [fracField, show f.mb = f.mb - 1 + 1 by omega, pow_succ, Nat.add_sub_cancel, Nat.mod_mul_right_div_self]
  rw [SignallingBits, ← h, Nat.div_eq_zero_iff_lt (by positivity)]

include h4

/-- A pattern of an IEEE format is a NaN, an infinity or finite. -/
theorem bits_cases (hb : b < 2 ^ (1 + f.eb + f.mb)) : NanBits f b ∨ InfBits f b ∨ FiniteBits f b := by
  by_cases h : expField f b = 2 ^ f.eb - 1
  · by_cases h0 : fracField f b = 0
    · exact .inr (.inl ⟨h, h0⟩)
    · exact .inl ⟨h, h0⟩
  · exact .inr (.inr ⟨hb, fun hc => by simp [h4] at hc, fun _ => h⟩)

theorem value_nan (h : NanBits f b) : f.value flush b = .nan (decide (fracField f b < 2 ^ (f.mb - 1))) := by
  obtain ⟨hex, hfr⟩ := h
  simp only [FloatFmt.value, hex, h4, hfr, Bool.not_false, Bool.true_or, decide_true, Bool.and_true, if_true, Bool.false_eq_true, if_false]
  rfl

theorem value_inf (h : InfBits f b) : f.value flush b = .inf (negBit f b) := by
  obtain ⟨hex, hfr⟩ := h
  simp only [FloatFmt.value, hex, h4, hfr, Bool.not_false, Bool.true_or, decide_true, Bool.and_true, if_true, Bool.false_eq_true, if_false]
  rfl

omit h4 in
theorem not_nanBits_of_infBits (h : InfBits f b) : ¬NanBits f b := fun hn => hn.2 h.2

theorem not_nanBits_of_finite (h : FiniteBits f b) : ¬NanBits f b := fun hn => expField_finite h h4 hn.1
theorem not_infBits_of_finite (h : FiniteBits f b) : ¬InfBits f b := fun hi => expField_finite h h4 hi.1

include hf

theorem isNan_value (hb : b < 2 ^ (1 + f.eb + f.mb)) : (f.value flush b).isNan = true ↔ NanBits f b := by
  rcases bits_cases h4 hb with h | h | h
  · rw [value_nan h4 h]
    exact iff_of_true rfl h
  · rw [value_inf h4 h]
    exact iff_of_false Bool.false_ne_true (not_nanBits_of_infBits h)
  · rw [value_finite hf h]
    exact iff_of_false Bool.false_ne_true (not_nanBits_of_finite h4 h)

theorem signals_value (hb : b < 2 ^ (1 + f.eb + f.mb)) : (f.value flush b).signals = true ↔ SignallingBits f b := by
  rw [signallingBits_iff hf]
  rcases bits_cases h4 hb with h | h | h
  · rw [value_nan h4 h, and_iff_right h]
    exact decide_eq_true_iff
  · rw [value_inf h4 h]
    exact iff_of_false Bool.false_ne_true fun hs => not_nanBits_of_infBits h hs.1
  · rw [value_finite hf h]
    exact iff_of_false Bool.false_ne_true fun hs => not_nanBits_of_finite h4 h hs.1

theorem value_neg (hb : b < 2 ^ (1 + f.eb + f.mb)) (hn : ¬NanBits f b) : (f.value flush b).isNeg = negBit f b := by
  rcases (bits_cases h4 hb).resolve_left hn with h | h
  · rw [value_inf h4 h]
    rfl
  · rw [value_finite hf h]
    rfl

end

/-- Operands of which none signals set no flag (R98). -/
theorem nvOf_pair_quiet {a b : FVal} (ha : ¬a.signals = true) (hb : ¬b.signals = true) : nvOf [a, b] = 0 := by
  simp [nvOf, ha, hb]

/-- Turning a comparison about turns its order about. -/
theorem cmpVals_swap (a b : FVal) : cmpVals b a = -cmpVals a b := by
  cases a with
  | nan s => cases b with
    | nan => rfl
    | inf n => cases n <;> rfl
    | num => rfl
  | inf n => cases b with
    | nan => cases n <;> rfl
    | inf k => cases n <;> cases k <;> rfl
    | num => cases n <;> rfl
  | num n m e => cases b with
    | nan => rfl
    | inf k => cases k <;> rfl
    | num k m' e' =>
      simp only [cmpVals]
      rw [min_comm e' e]
      ring

/-- The order of two numbers is that of their values. -/
theorem cmpVals_num (n1 : Bool) (m1 : ℕ) (e1 : ℤ) (n2 : Bool) (m2 : ℕ) (e2 : ℤ) :
    cmpVals (.num n1 m1 e1) (.num n2 m2 e2) < 0 ↔ fvalQ (.num n1 m1 e1) < fvalQ (.num n2 m2 e2) := by
  have hp : (0 : ℚ) < 2 ^ min e1 e2 := by positivity
  rw [← signedAt_value n1 m1 (min_le_left e1 e2), ← signedAt_value n2 m2 (min_le_right e1 e2), mul_lt_mul_iff_left₀ hp, Int.cast_lt]
  simp only [cmpVals]
  omega

section
variable {f : FloatFmt} (hf : IsFormat f) (h4 : f.e4m3 = false) {flush : Bool} {x y : ℕ}
include hf h4

/-- The model's order is that of the values as they are read (R159). -/
theorem cmpVals_iff_below (hx : x < 2 ^ (1 + f.eb + f.mb)) (hy : y < 2 ^ (1 + f.eb + f.mb)) (nx : ¬NanBits f x) (ny : ¬NanBits f y) :
    cmpVals (f.value flush x) (f.value flush y) < 0 ↔ Below f flush x y := by
  rcases (bits_cases h4 hx).resolve_left nx with ix | ix <;> rcases (bits_cases h4 hy).resolve_left ny with iy | iy
  · rw [value_inf h4 ix, value_inf h4 iy]
    unfold Below
    cases negBit f x <;> cases negBit f y <;> simp [ix, iy, cmpVals]
  · have jy := not_infBits_of_finite h4 iy
    rw [value_inf h4 ix, value_finite hf iy]
    unfold Below
    cases negBit f x <;> simp [ix, jy, cmpVals]
  · have jx := not_infBits_of_finite h4 ix
    rw [value_finite hf ix, value_inf h4 iy]
    unfold Below
    cases negBit f y <;> simp [iy, jx, cmpVals]
  · have jx := not_infBits_of_finite h4 ix
    have jy := not_infBits_of_finite h4 iy
    rw [value_finite hf ix, value_finite hf iy, cmpVals_num, ← readQ_eq, ← readQ_eq]
    simp [Below, jx, jy]

end

/-- FCMP is its condition on the values (R104, R159). -/
theorem cmp_spec {c : FpEnv} (hf : IsFormat c.fmt) (h4 : c.fmt.e4m3 = false) {x y : ℕ} (hx : x < 2 ^ (1 + c.fmt.eb + c.fmt.mb))
    (hy : y < 2 ^ (1 + c.fmt.eb + c.fmt.mb)) (k : FCond) : (c.cmp k x y).1 = true ↔ Holds c.fmt c.flushIn k x y := by
  have nx := isNan_value hf h4 (flush := c.flushIn) hx
  have ny := isNan_value hf h4 (flush := c.flushIn) hy
  have hlt := cmpVals_iff_below hf h4 (flush := c.flushIn) hx hy
  have hgt := cmpVals_iff_below hf h4 (flush := c.flushIn) hy hx
  rw [cmpVals_swap] at hgt
  unfold FpEnv.cmp FpEnv.read Holds
  dsimp only
  generalize c.fmt.value c.flushIn x = a at *
  generalize c.fmt.value c.flushIn y = b at *
  by_cases hnx : NanBits c.fmt x
  · cases k <;> simp [hnx, nx.mpr hnx]
  · by_cases hny : NanBits c.fmt y
    · cases k <;> simp [hny, ny.mpr hny]
    · have ax := Bool.eq_false_of_not_eq_true (nx.not.mpr hnx)
      have ay := Bool.eq_false_of_not_eq_true (ny.not.mpr hny)
      rw [← hlt hnx hny, ← hgt hny hnx]
      generalize cmpVals a b = o
      cases k <;> simp [hnx, hny, ax, ay]
      omega

section
variable {f : FloatFmt} {flush : Bool} {b c : ℕ}

/-- Two finite patterns of one sign and magnitude are one. -/
theorem pattern_unique (hb : b < 2 ^ (1 + f.eb + f.mb)) (hc : c < 2 ^ (1 + f.eb + f.mb)) (hn : negBit f b = negBit f c)
    (hm : magQ f b = magQ f c) : b = c := by
  wlog hle : expOf f b ≤ expOf f c generalizing b c
  · exact (this hc hb hn.symm hm.symm (by omega)).symm
  have hq : f.qmin = 1 - (f.bias : ℤ) - f.mb := rfl
  have heq : expOf f b = expOf f c := by
    refine le_antisymm hle (not_lt.mp fun hlt => ?_)
    have hmin := qmin_le_expOf (f := f) b
    have hnormal : (2 : ℚ) ^ f.mb ≤ sigOf f c := by
      have hc0 : expField f c ≠ 0 := fun h => by
        have : expOf f c = f.qmin := if_pos h
        omega
      rw [sigOf, if_neg hc0]
      push_cast
      exact le_add_of_nonneg_right (Nat.cast_nonneg _)
    have hsig : (sigOf f b : ℚ) < 2 ^ (f.mb + 1) := by exact_mod_cast sigOf_lt b
    have : magQ f b < magQ f c := by
      calc magQ f b < 2 ^ (f.mb + 1) * 2 ^ expOf f b := by
            unfold magQ
            gcongr
        _ ≤ 2 ^ f.mb * 2 ^ expOf f c := pow_quantum_le f.mb hlt
        _ ≤ magQ f c := by
            unfold magQ
            gcongr
    exact this.ne hm
  have hsig : sigOf f b = sigOf f c := by
    unfold magQ at hm
    rw [heq] at hm
    exact_mod_cast mul_right_cancel₀ (by positivity) hm
  have hfb := fracField_lt (f := f) b
  have hfc := fracField_lt (f := f) c
  have hfields : expField f b = expField f c ∧ fracField f b = fracField f c := by
    unfold sigOf at hsig
    unfold expOf at heq
    split at hsig <;> split at hsig <;> simp_all
    omega
  rw [← pattern_fields hb, ← pattern_fields hc, hn, hfields.1, hfields.2]

theorem sign_pattern (n : Bool) : f.sign n = pattern f n 0 0 := by
  simp [pattern]

theorem readBits_eq : readBits f flush b = if flush = true ∧ expField f b = 0 then f.sign (negBit f b) else b := rfl

/-- The exponent of an operand is kept as it is read; its fraction is too, unless it is flushed (R99). -/
theorem fields_readBits : expField f (readBits f flush b) = expField f b ∧
    fracField f (readBits f flush b) = if flush = true ∧ expField f b = 0 then 0 else fracField f b := by
  rw [readBits_eq]
  split
  · next h =>
    rw [sign_pattern]
    exact ⟨(expField_pattern _ (by positivity) (by positivity)).trans h.2.symm, fracField_pattern _ _ (by positivity)⟩
  · exact ⟨rfl, rfl⟩

theorem asRead_eq (hb : b < 2 ^ (1 + f.eb + f.mb)) : f.asRead flush b = readBits f flush b := by
  have hlt : b / 2 ^ (f.eb + f.mb) < 2 := by
    rw [Nat.div_lt_iff_lt_mul (by positivity)]
    calc b < 2 ^ (1 + f.eb + f.mb) := hb
      _ = _ := by ring
  have hsign : b / 2 ^ (f.eb + f.mb) * 2 ^ (f.eb + f.mb) = if negBit f b = true then 2 ^ (f.eb + f.mb) else 0 := by
    unfold negBit
    generalize b / 2 ^ (f.eb + f.mb) = n at hlt
    interval_cases n <;> simp
  unfold FloatFmt.asRead readBits
  dsimp only
  rw [Nat.mod_eq_of_lt (show b < 2 ^ f.width from hb), hsign]
  simp only [Bool.and_eq_true, beq_iff_eq]

variable (hf : IsFormat f)
include hf

/-- A finite operand as it is read, as a pattern: its sign, and its magnitude. -/
theorem readBits_spec (hb : FiniteBits f b) : readBits f flush b < 2 ^ (1 + f.eb + f.mb) ∧
    negBit f (readBits f flush b) = negBit f b ∧ magQ f (readBits f flush b) = readSig f flush b * 2 ^ expOf f b := by
  unfold readSig
  rw [readBits_eq]
  split
  · obtain ⟨hfin, hn, hm⟩ := sign_spec hf (negBit f b)
    exact ⟨hfin.1, hn, by rw [hm]; simp⟩
  · exact ⟨hb.1, rfl, rfl⟩

variable (h4 : f.e4m3 = false)
include h4

/-- Operands that are not NaN, of one sign and neither below the other, are one as they are read. -/
theorem readBits_eq_of_not_below (hb : b < 2 ^ (1 + f.eb + f.mb)) (hc : c < 2 ^ (1 + f.eb + f.mb)) (nb : ¬NanBits f b) (nc : ¬NanBits f c)
    (hn : negBit f b = negBit f c) (h1 : ¬Below f flush b c) (h2 : ¬Below f flush c b) : readBits f flush b = readBits f flush c := by
  have heb := hf.eb_pos
  have hmax : 2 ^ f.eb - 1 ≠ 0 := by
    have : 2 ^ 2 ≤ 2 ^ f.eb := Nat.pow_le_pow_right (by decide) heb
    omega
  rcases (bits_cases h4 hb).resolve_left nb with ib | ib <;> rcases (bits_cases h4 hc).resolve_left nc with ic | ic
  · obtain ⟨eb, fb⟩ := infBits_iff.mp ib
    obtain ⟨ec, fc⟩ := infBits_iff.mp ic
    rw [readBits_eq, readBits_eq, if_neg (by simp [eb, hmax]), if_neg (by simp [ec, hmax]), ← pattern_fields hb, ← pattern_fields hc,
      hn, eb, fb, ec, fc]
  · have jc := not_infBits_of_finite h4 ic
    cases h : negBit f b <;> simp_all [Below]
  · have jb := not_infBits_of_finite h4 ib
    cases h : negBit f b <;> simp_all [Below]
  · have jb := not_infBits_of_finite h4 ib
    have jc := not_infBits_of_finite h4 ic
    have heq : readQ f flush b = readQ f flush c := by
      simp only [Below, jb, jc, false_and, not_false_eq_true, true_and, false_or, not_lt] at h1 h2
      exact le_antisymm h2 h1
    obtain ⟨lb, sb, mb⟩ := readBits_spec hf (flush := flush) ib
    obtain ⟨lc, sc, mc⟩ := readBits_spec hf (flush := flush) ic
    rw [readQ_eq, readQ_eq, fvalQ_num, fvalQ_num, hn, ← mb, ← mc] at heq
    exact pattern_unique lb lc (by rw [sb, sc, hn]) (mul_left_cancel₀ (sgn_ne_zero _) heq)

end

/-- FMIN and FMAX of operands that are not NaN (R104). -/
theorem minMax_numbers {c : FpEnv} (hf : IsFormat c.fmt) (h4 : c.fmt.e4m3 = false) {x y : ℕ} (hx : x < 2 ^ (1 + c.fmt.eb + c.fmt.mb))
    (hy : y < 2 ^ (1 + c.fmt.eb + c.fmt.mb)) (nx : ¬NanBits c.fmt x) (ny : ¬NanBits c.fmt y) (g : Bool) :
    let xr := readBits c.fmt c.flushIn x
    let yr := readBits c.fmt c.flushIn y
    (Below c.fmt c.flushIn x y → (c.minMax g x y).1 = if g = true then yr else xr) ∧
      (Below c.fmt c.flushIn y x → (c.minMax g x y).1 = if g = true then xr else yr) ∧
      (¬Below c.fmt c.flushIn x y → ¬Below c.fmt c.flushIn y x → (c.minMax g x y).1 = if negBit c.fmt x = g then yr else xr) := by
  have ax := Bool.eq_false_of_not_eq_true ((isNan_value hf h4 (flush := c.flushIn) hx).not.mpr nx)
  have ay := Bool.eq_false_of_not_eq_true ((isNan_value hf h4 (flush := c.flushIn) hy).not.mpr ny)
  have sx := value_neg hf h4 (flush := c.flushIn) hx nx
  have sy := value_neg hf h4 (flush := c.flushIn) hy ny
  have hlt := cmpVals_iff_below hf h4 (flush := c.flushIn) hx hy nx ny
  have hgt := cmpVals_iff_below hf h4 (flush := c.flushIn) hy hx ny nx
  have hsame := readBits_eq_of_not_below hf (flush := c.flushIn) h4 hx hy nx ny
  rw [cmpVals_swap] at hgt
  unfold FpEnv.minMax FpEnv.read
  dsimp only
  rw [asRead_eq hx, asRead_eq hy, ax, ay, sx, sy]
  rw [← hlt, ← hgt] at hsame ⊢
  generalize cmpVals (c.fmt.value c.flushIn x) (c.fmt.value c.flushIn y) = o at *
  simp only [Bool.and_self, Bool.false_eq_true, if_false]
  refine ⟨fun h => ?_, fun h => ?_, fun h1 h2 => ?_⟩
  · cases g <;> simp [h]
  · have hn : ¬o < 0 := by omega
    have hne : (o == 0) = false := by simp; omega
    cases g <;> simp [hn, hne]
  · have h0 : o = 0 := by omega
    subst h0
    by_cases hn : negBit c.fmt x = negBit c.fmt y
    · -- operands of one sign are then one
      rw [hsame hn (by omega) (by omega), ite_self, ite_self]
    · rw [Bool.eq_not_of_ne (Ne.symm hn)]
      cases negBit c.fmt x <;> cases g <;> rfl

section
variable {c : FpEnv} (hf : IsFormat c.fmt) (h4 : c.fmt.e4m3 = false) {x i : ℕ}
include hf

/-- The class of a finite operand, from the fields of the operand as it is read. -/
theorem classify_finite (hx : FiniteBits c.fmt x) : c.classify x =
    if expField c.fmt (readBits c.fmt c.flushIn x) = 0 then
      if fracField c.fmt (readBits c.fmt c.flushIn x) = 0 then (if negBit c.fmt x then 8 else 16) else if negBit c.fmt x then 4 else 32
    else if negBit c.fmt x then 2 else 64 := by
  obtain ⟨hex, hfr⟩ := fields_readBits (f := c.fmt) (flush := c.flushIn) (b := x)
  have hlt := fracField_lt (f := c.fmt) x
  rw [hex, hfr]
  simp only [FpEnv.classify, read_finite hf hx, readSig, sigOf, expOf]
  by_cases h0 : expField c.fmt x = 0
  · cases c.flushIn <;> simp [h0, hlt]
  · simp [h0]

include h4

theorem finite_of_expField_zero (hx : x < 2 ^ (1 + c.fmt.eb + c.fmt.mb)) (h : expField c.fmt x = 0) : FiniteBits c.fmt x := by
  have : 2 ^ 2 ≤ 2 ^ c.fmt.eb := Nat.pow_le_pow_right (by decide) hf.eb_pos
  exact ⟨hx, fun hc => by simp [h4] at hc, fun _ => (by omega : expField c.fmt x ≠ 2 ^ c.fmt.eb - 1)⟩

/-- FCLASS gives the bit of the operand's class (R160). -/
theorem classify_spec (hx : x < 2 ^ (1 + c.fmt.eb + c.fmt.mb)) (h : ClassIs c.fmt c.flushIn x i) : c.classify x = 2 ^ i := by
  have hread : c.read x = c.fmt.value c.flushIn x := rfl
  have hex := (fields_readBits (f := c.fmt) (flush := c.flushIn) (b := x)).1
  have special : ∀ n, InfBits c.fmt x ∧ negBit c.fmt x = n → c.classify x = if n then 1 else 128 := by
    rintro n ⟨hi, rfl⟩
    simp only [FpEnv.classify, hread, value_inf h4 hi]
  have normal : ∀ n, (¬InfBits c.fmt x ∧ ¬NanBits c.fmt x ∧ expField c.fmt (readBits c.fmt c.flushIn x) ≠ 0) ∧ negBit c.fmt x = n →
      c.classify x = if n then 2 else 64 := by
    rintro n ⟨⟨hi, hn, h0⟩, rfl⟩
    rw [classify_finite hf (((bits_cases h4 hx).resolve_left hn).resolve_left hi), if_neg h0]
  have subnormal : ∀ n, (expField c.fmt (readBits c.fmt c.flushIn x) = 0 ∧ fracField c.fmt (readBits c.fmt c.flushIn x) ≠ 0) ∧
      negBit c.fmt x = n → c.classify x = if n then 4 else 32 := by
    rintro n ⟨⟨h0, h1⟩, rfl⟩
    rw [classify_finite hf (finite_of_expField_zero hf h4 hx (hex ▸ h0)), if_pos h0, if_neg h1]
  have zero : ∀ n, (expField c.fmt (readBits c.fmt c.flushIn x) = 0 ∧ fracField c.fmt (readBits c.fmt c.flushIn x) = 0) ∧
      negBit c.fmt x = n → c.classify x = if n then 8 else 16 := by
    rintro n ⟨⟨h0, h1⟩, rfl⟩
    rw [classify_finite hf (finite_of_expField_zero hf h4 hx (hex ▸ h0)), if_pos h0, if_pos h1]
  match i, h with
  | 0, h => exact special true h
  | 1, h => exact normal true h
  | 2, h => exact subnormal true h
  | 3, h => exact zero true h
  | 4, h => exact zero false h
  | 5, h => exact subnormal false h
  | 6, h => exact normal false h
  | 7, h => exact special false h
  | 8, h =>
    obtain ⟨hn, hs⟩ := (signallingBits_iff hf).mp h
    simp [FpEnv.classify, hread, value_nan h4 hn, hs]
  | 9, h =>
    obtain ⟨hn, hq⟩ := h
    have hs : ¬fracField c.fmt x < 2 ^ (c.fmt.mb - 1) := fun hs => hq ((signallingBits_iff hf).mpr ⟨hn, hs⟩)
    simp [FpEnv.classify, hread, value_nan h4 hn, hs]

end

/-- FRINT of a finite operand (R104). -/
theorem rint_spec {c : FpEnv} (hf : IsFormat c.fmt) (hq0 : c.fmt.qmin ≤ 0) (hq1 : 0 ≤ c.fmt.qmax) {x : ℕ} (hx : FiniteBits c.fmt x) {v : ℤ}
    (hv : RoundsInt c.dir (readQ c.fmt c.flushIn x) v) : (c.rint x).2 = 0 ∧ FiniteBits c.fmt (c.rint x).1 ∧
      valueQ c.fmt (c.rint x).1 = v ∧ negBit c.fmt (c.rint x).1 = negBit c.fmt x := by
  have hsig := sigOf_lt (f := c.fmt) x
  have hle := readSig_le c.fmt c.flushIn x
  have hmax : (readSig c.fmt c.flushIn x : ℚ) * 2 ^ expOf c.fmt x ≤ c.fmt.maxSig * 2 ^ c.fmt.qmax := by
    refine le_trans ?_ (magQ_le_max hf hx)
    unfold magQ
    gcongr
  rw [readQ_eq, fvalQ_num] at hv
  obtain ⟨hr, hexact⟩ := roundAt_spec c.dir (negBit c.fmt x) (q := 0) (e := expOf c.fmt x)
    (within_exact (readSig c.fmt c.flushIn x)) nofun
  rw [zpow_zero, div_one] at hr hexact
  have huniq := roundsInt_unique hv (roundsInt_of_magRounds (by positivity) hr)
  have hmin := qmin_le_expOf (f := c.fmt) x
  unfold FpEnv.rint
  rw [read_finite hf hx]
  dsimp only
  generalize negBit c.fmt x = n at *
  generalize readSig c.fmt c.flushIn x = m at *
  generalize expOf c.fmt x = e at *
  generalize hu : (roundAt (.dir c.dir) n m e false 0).1 = u at *
  have hval : (v : ℚ) = sgn n * u := by
    rw [huniq]
    cases n <;> simp [sgn]
  by_cases he : 0 ≤ e
  · obtain ⟨hfin, hsign, hmag, -, -⟩ := round_exact hf c.dir n (by omega) hmin hmax
    rw [if_pos he]
    refine ⟨rfl, hfin, ?_, hsign⟩
    rw [valueQ_eq, hsign, hmag, hval, hexact.mp (by rw [roundAt, if_pos he])]
  · have hhalf : (m : ℚ) * 2 ^ e < (2 ^ c.fmt.mb : ℕ) := by
      have h1 : (m : ℚ) < 2 ^ (c.fmt.mb + 1) := by exact_mod_cast hle.trans_lt hsig
      have h2 : (2 : ℚ) ^ e ≤ 2 ^ (-1 : ℤ) := zpow_le_zpow_right₀ one_le_two (by omega)
      calc (m : ℚ) * 2 ^ e < 2 ^ (c.fmt.mb + 1) * 2 ^ e := by gcongr
        _ ≤ 2 ^ (c.fmt.mb + 1) * 2 ^ (-1 : ℤ) := by gcongr
        _ = (2 ^ c.fmt.mb : ℕ) := by
            push_cast
            rw [pow_succ, zpow_neg_one]
            field_simp
    have hule := magRounds_le hr hhalf
    have hroom : (u : ℚ) * 2 ^ (0 : ℤ) ≤ c.fmt.maxSig * 2 ^ c.fmt.qmax := by
      have h1 : (u : ℚ) ≤ c.fmt.maxSig := by exact_mod_cast hule.trans hf.maxSig_ge
      gcongr
      exact one_le_two
    obtain ⟨hfin, hsign, hmag, -, -⟩ := round_exact hf c.dir n (m := u) (e := 0) (by rw [pow_succ]; omega) hq0 hroom
    have hshift : (roundShift (.dir c.dir) n m false (-e).toNat).1 = u := by
      rw [← hu, roundAt, if_neg he, zero_sub]
    rw [if_neg he, hshift]
    refine ⟨rfl, hfin, ?_, hsign⟩
    rw [valueQ_eq, hsign, hmag, hval, zpow_zero, mul_one]

end Sys2Proof.Arith
end

section
/-! PROOF. FSQRT: a root is rounded as the rational values are that lie as it does between two significands (R102, R103). -/
namespace Sys2Proof.Arith
open Sys2Proof.Machine Sys2Proof.Claims

/-- The bits of an integer square root, found from a place on, complete it. -/
theorem isqrtGo_spec (x : ℕ) : ∀ b r, r * r ≤ x → x < (r + 2 ^ b) * (r + 2 ^ b) →
    isqrtGo x b r * isqrtGo x b r ≤ x ∧ x < (isqrtGo x b r + 1) * (isqrtGo x b r + 1)
  | 0, r, h1, h2 => ⟨h1, h2⟩
  | b + 1, r, h1, h2 => by
    unfold isqrtGo
    split
    · next h =>
      refine isqrtGo_spec x b _ h ?_
      rwa [show r + 2 ^ b + 2 ^ b = r + 2 ^ (b + 1) by rw [pow_succ]; ring]
    · next h => exact isqrtGo_spec x b r h1 (not_le.mp h)

theorem isqrt_spec (x : ℕ) : isqrt x * isqrt x ≤ x ∧ x < (isqrt x + 1) * (isqrt x + 1) := by
  refine isqrtGo_spec x _ 0 (by omega) ?_
  calc x < 2 ^ (Nat.log2 x + 1) := Nat.lt_log2_self
    _ ≤ 2 ^ (2 * (Nat.log2 x / 2 + 1)) := Nat.pow_le_pow_right (by decide) (by omega)
    _ = _ := by rw [Nat.zero_add, Nat.two_mul, pow_add]

/-- The values between whose squares a number lies as between those of its integer root. -/
def RootLike (t : ℕ) (e : ℤ) (X : ℚ) : Prop := ∃ z, Within (isqrt t) (isqrt t * isqrt t != t) z ∧ X = z * 2 ^ e

section
variable {t : ℕ} {e : ℤ} {a M : ℚ} (ha : a = t * (2 ^ e) ^ 2)

theorem isqrt_le : ((isqrt t : ℚ) * 2 ^ e) ^ 2 ≤ t * (2 ^ e) ^ 2 := by
  have h : ((isqrt t * isqrt t : ℕ) : ℚ) ≤ t := by exact_mod_cast (isqrt_spec t).1
  rw [mul_pow, sq (isqrt t : ℚ)]
  push_cast at h
  gcongr

theorem lt_isqrt_succ : (t : ℚ) * (2 ^ e) ^ 2 < (((isqrt t : ℚ) + 1) * 2 ^ e) ^ 2 := by
  have h : (t : ℚ) < ((isqrt t + 1) * (isqrt t + 1) : ℕ) := by exact_mod_cast (isqrt_spec t).2
  rw [mul_pow, sq ((isqrt t : ℚ) + 1)]
  push_cast at h
  gcongr

/-- Of an exact root the value is the root. -/
theorem rootLike_exact (h : isqrt t * isqrt t = t) : RootLike t e (isqrt t * 2 ^ e) ∧ ((isqrt t : ℚ) * 2 ^ e) ^ 2 = t * (2 ^ e) ^ 2 := by
  refine ⟨⟨isqrt t, by rw [h, bne_self_eq_false]; exact within_exact _, rfl⟩, ?_⟩
  have h' : ((isqrt t * isqrt t : ℕ) : ℚ) = t := by rw [h]
  rw [mul_pow, sq (isqrt t : ℚ)]
  push_cast at h'
  rw [h']

/-- Of an inexact root every value between the two significands is like it. -/
theorem rootLike_between (h : isqrt t * isqrt t ≠ t) {X : ℚ} (h1 : (isqrt t : ℚ) * 2 ^ e < X) (h2 : X < ((isqrt t : ℚ) + 1) * 2 ^ e) :
    RootLike t e X := by
  have hp : (0 : ℚ) < 2 ^ e := by positivity
  rw [← lt_div_iff₀ hp] at h1
  rw [← div_lt_iff₀ hp] at h2
  refine ⟨X / 2 ^ e, ⟨h1.le, h2, ?_⟩, by field_simp⟩
  exact iff_of_false (by simpa using h) h1.ne'

include ha

/-- Above a bound whose square is below a number there is a value like its root, and below one whose square is above it. -/
theorem exists_rootLike_ge (hM : M ^ 2 ≤ a) : ∃ X, RootLike t e X ∧ M ≤ X ∧ (M ^ 2 < a → M < X) := by
  have hr : (0 : ℚ) ≤ isqrt t * 2 ^ e := by positivity
  by_cases h : isqrt t * isqrt t = t
  · obtain ⟨hroot, hsq⟩ := rootLike_exact (e := e) h
    rw [← ha] at hsq
    exact ⟨_, hroot, le_of_sq_le_sq (hsq ▸ hM) hr, fun hlt => lt_of_pow_lt_pow_left₀ 2 hr (hsq ▸ hlt)⟩
  · have htop := lt_isqrt_succ (t := t) (e := e)
    rw [← ha] at htop
    have hlt : M < ((isqrt t : ℚ) + 1) * 2 ^ e := lt_of_pow_lt_pow_left₀ 2 (by positivity) (hM.trans_lt htop)
    have hgap : (isqrt t : ℚ) * 2 ^ e < ((isqrt t : ℚ) + 1) * 2 ^ e := by
      gcongr
      linarith
    obtain ⟨X, h1, h2⟩ := exists_between (max_lt hlt hgap)
    obtain ⟨h1, h3⟩ := max_lt_iff.mp h1
    exact ⟨X, rootLike_between h h3 h2, h1.le, fun _ => h1⟩

theorem exists_rootLike_le (h0 : 0 ≤ M) (hM : a ≤ M ^ 2) : ∃ X, RootLike t e X ∧ X ≤ M ∧ (a < M ^ 2 → X < M) := by
  have hbot := isqrt_le (t := t) (e := e)
  rw [← ha] at hbot
  by_cases h : isqrt t * isqrt t = t
  · obtain ⟨hroot, hsq⟩ := rootLike_exact (e := e) h
    rw [← ha] at hsq
    exact ⟨_, hroot, le_of_sq_le_sq (hsq ▸ hM) h0, fun hlt => lt_of_pow_lt_pow_left₀ 2 h0 (hsq ▸ hlt)⟩
  · have hne : ((isqrt t : ℚ) * 2 ^ e) ^ 2 < a := by
      refine lt_of_le_of_ne hbot fun heq => h ?_
      rw [ha, mul_pow] at heq
      have := mul_right_cancel₀ (by positivity) heq
      rw [sq] at this
      exact_mod_cast this
    have hlt : (isqrt t : ℚ) * 2 ^ e < M := lt_of_pow_lt_pow_left₀ 2 h0 (hne.trans_le hM)
    have hgap : (isqrt t : ℚ) * 2 ^ e < ((isqrt t : ℚ) + 1) * 2 ^ e := by
      gcongr
      linarith
    obtain ⟨X, h1, h2⟩ := exists_between (lt_min hlt hgap)
    obtain ⟨h2, h3⟩ := lt_min_iff.mp h2
    exact ⟨X, rootLike_between h h1 h3, h2.le, fun _ => h2⟩

/-- A value like the root lies within a factor of two of it. -/
theorem rootLike_bounds (h1 : 1 ≤ isqrt t) {X : ℚ} (h : RootLike t e X) : 0 < X ∧ a < 4 * X ^ 2 ∧ X ^ 2 < 4 * a := by
  obtain ⟨z, ⟨hlo, hhi, -⟩, rfl⟩ := h
  have hbot := isqrt_le (t := t) (e := e)
  have htop := lt_isqrt_succ (t := t) (e := e)
  rw [← ha] at hbot htop
  have hr : (1 : ℚ) ≤ isqrt t := by exact_mod_cast h1
  have hp : (0 : ℚ) < 2 ^ e := by positivity
  have hz : 0 < z * (2 : ℚ) ^ e := mul_pos (by linarith) hp
  refine ⟨hz, htop.trans_le ?_, lt_of_lt_of_le ?_ (mul_le_mul_of_nonneg_left hbot (by norm_num))⟩
  · rw [show 4 * (z * (2 : ℚ) ^ e) ^ 2 = (2 * z * 2 ^ e) ^ 2 by ring]
    gcongr
    linarith
  · rw [show 4 * ((isqrt t : ℚ) * 2 ^ e) ^ 2 = (2 * isqrt t * 2 ^ e) ^ 2 by ring]
    gcongr
    linarith

end

section
variable {f : FloatFmt} (hf : IsFormat f) {d : Dir} {flush : Bool} {ov : ℚ → FpOut} {t : ℕ} {e : ℤ} {a : ℚ} {o : FpOut}
  (ha : a = t * (2 ^ e) ^ 2)
  (hround : ∀ X, RootLike t e X → 0 < X ∧ InRange f d X ∧ ¬Tiny f d X ∧ RoundsTo f d flush (ov X) X o)
include ha hround

/-- A result to which every value like a root rounds is that root, rounded once. -/
theorem rootOf_of_rootLike : RootOf f d a o := by
  have hfinite : ∀ X, RootLike t e X → _ := fun X hX => by
    obtain ⟨hpos, hin, hT, -, -, hR⟩ := hround X hX
    exact hR hin fun h => hT h.2
  have hnn : 0 ≤ a := by
    rw [ha]
    positivity
  obtain ⟨X0, hX0, -⟩ := exists_rootLike_ge ha (M := 0) (by simpa using hnn)
  obtain ⟨hfin, hneg, -⟩ := hfinite X0 hX0
  rw [decide_eq_false (not_lt.mpr (hround X0 hX0).1.le)] at hneg
  have hv0 : 0 ≤ valueQ f o.1 := by
    rw [valueQ_eq, hneg]
    simpa [sgn] using magQ_nonneg o.1
  refine ⟨hfin, hneg, fun hd b hb hb0 => ⟨fun hlt => ?_, fun hlt => ?_⟩, fun hd => ?_, fun hd => ?_, ?_⟩
  · by_contra hc
    obtain ⟨X, hX, -, hgt⟩ := exists_rootLike_ge ha (not_le.mp hc).le
    have hgt := hgt (not_le.mp hc)
    obtain ⟨-, -, hnear, -⟩ := hfinite X hX
    obtain ⟨hle, -⟩ := hnear hd b hb
    rw [abs_of_nonpos (by linarith : valueQ f o.1 - X ≤ 0)] at hle
    rcases abs_cases (valueQ f b - X) with ⟨h, -⟩ | ⟨h, -⟩ <;> linarith
  · by_contra hc
    obtain ⟨X, hX, -, hgt⟩ := exists_rootLike_le ha (by linarith) (not_le.mp hc).le
    have hgt := hgt (not_le.mp hc)
    obtain ⟨-, -, hnear, -⟩ := hfinite X hX
    obtain ⟨hle, -⟩ := hnear hd b hb
    rw [abs_of_nonneg (by linarith : 0 ≤ valueQ f o.1 - X)] at hle
    rcases abs_cases (valueQ f b - X) with ⟨h, -⟩ | ⟨h, -⟩ <;> linarith
  · have hdown : ∀ X, 0 < X → Down d X := fun X hX => by
      rcases hd with rfl | rfl
      exacts [.inl rfl, .inr (.inl ⟨rfl, hX⟩)]
    refine ⟨?_, fun b hb hba => ?_⟩
    · by_contra hc
      obtain ⟨X, hX, -, hlt⟩ := exists_rootLike_le ha hv0 (not_le.mp hc).le
      have hlt := hlt (not_le.mp hc)
      have hpos := (hround X hX).1
      obtain ⟨-, -, -, hdn, -⟩ := hfinite X hX
      have := (hdn (hdown X hpos)).1
      rw [abs_of_nonneg hv0, abs_of_pos hpos] at this
      linarith
    · rcases lt_or_ge (valueQ f b) 0 with hb0 | hb0
      · linarith
      · obtain ⟨X, hX, hle, -⟩ := exists_rootLike_ge ha hba
        have hpos := (hround X hX).1
        obtain ⟨-, -, -, hdn, -⟩ := hfinite X hX
        have := (hdn (hdown X hpos)).2 b hb
        rw [abs_of_nonneg hv0, abs_of_pos hpos, abs_of_nonneg hb0] at this
        exact this hle
  · have hup : ∀ X, 0 < X → Up d X := fun X hX => .inl ⟨hd, hX⟩
    refine ⟨?_, fun b hb hb0 hba => ?_⟩
    · by_contra hc
      obtain ⟨X, hX, -, hlt⟩ := exists_rootLike_ge ha (not_le.mp hc).le
      have hlt := hlt (not_le.mp hc)
      have hpos := (hround X hX).1
      obtain ⟨-, -, -, -, hu, -⟩ := hfinite X hX
      have := (hu (hup X hpos)).1
      rw [abs_of_nonneg hv0, abs_of_pos hpos] at this
      linarith
    · obtain ⟨X, hX, hle, -⟩ := exists_rootLike_le ha hb0 hba
      have hpos := (hround X hX).1
      obtain ⟨-, -, -, -, hu, -⟩ := hfinite X hX
      have := (hu (hup X hpos)).2 b hb
      rw [abs_of_nonneg hv0, abs_of_pos hpos, abs_of_nonneg hb0] at this
      exact this hle
  · have hexact : ∀ X, RootLike t e X → valueQ f o.1 = X → o.2 = 0 := fun X hX => by
      obtain ⟨-, -, -, -, -, h, -⟩ := hfinite X hX
      exact h
    have hinexact : ∀ X, RootLike t e X → valueQ f o.1 ≠ X → o.2 = flagNX := fun X hX hne => by
      obtain ⟨-, -, -, -, -, -, -, h⟩ := hfinite X hX
      obtain ⟨-, -, hT, -⟩ := hround X hX
      exact h hne hT
    by_cases h : isqrt t * isqrt t = t
    · obtain ⟨hroot, hsq⟩ := rootLike_exact (e := e) h
      rw [← ha] at hsq
      have hiff : valueQ f o.1 ^ 2 = a ↔ valueQ f o.1 = isqrt t * 2 ^ e := by
        rw [← hsq, pow_left_inj₀ hv0 (by positivity) two_ne_zero]
      split
      · next hc => exact hexact _ hroot (hiff.mp hc)
      · next hc => exact hinexact _ hroot (hiff.not.mp hc)
    · have hgap : (isqrt t : ℚ) * 2 ^ e < ((isqrt t : ℚ) + 1) * 2 ^ e := by
        have : (0 : ℚ) < 2 ^ e := by positivity
        gcongr
        linarith
      obtain ⟨X1, h1, h2⟩ := exists_between hgap
      obtain ⟨X2, h3, h4⟩ := exists_between h2
      have hX1 := rootLike_between h h1 h2
      have hX2 := rootLike_between h (h1.trans h3) h4
      have hNX : o.2 = flagNX := by
        by_cases hc : valueQ f o.1 = X1
        · exact hinexact X2 hX2 (by rw [hc]; exact h3.ne)
        · exact hinexact X1 hX1 hc
      split
      · next hc =>
        -- a root that is a value of the format would be like itself, and exact
        obtain ⟨X, hX, hle, -⟩ := exists_rootLike_ge ha hc.le
        obtain ⟨Y, hY, hge, -⟩ := exists_rootLike_le ha hv0 hc.ge
        obtain ⟨z, ⟨-, hz, -⟩, rfl⟩ := hX
        obtain ⟨y, ⟨hy, -, hys⟩, rfl⟩ := hY
        have hne : (isqrt t : ℚ) ≠ y := fun heq => by
          have := hys.mpr heq.symm
          exact h (by simpa using this)
        have hp : (0 : ℚ) < 2 ^ e := by positivity
        have := hexact _ (rootLike_between h (lt_of_lt_of_le (mul_lt_mul_of_pos_right (lt_of_le_of_ne hy hne) hp) hge)
          (lt_of_le_of_lt hle (mul_lt_mul_of_pos_right hz hp))) rfl
        rw [hNX] at this
        exact absurd this (by decide)
      · exact hNX

end

/-- What a format's bounds give for roots: no root of one of its values is tiny or past its greatest. -/
structure HasRoots (f : FloatFmt) : Prop where
  tiny : 1 - (f.bias : ℤ) ≤ (f.qmin - 2) - (1 - (f.bias : ℤ))
  past : (4 : ℚ) ≤ f.maxSig * 2 ^ f.qmax

theorem hasRoots_of_ieee {f : FloatFmt} (h : f = fmtF32 ∨ f = fmtF16 ∨ f = fmtBF16) : HasRoots f := by
  have past : ∀ (f : FloatFmt), 4 ≤ f.maxSig → 0 ≤ f.qmax → (4 : ℚ) ≤ f.maxSig * 2 ^ f.qmax := fun f h1 h2 => by
    have h1' : (4 : ℚ) ≤ f.maxSig := by exact_mod_cast h1
    have h2' := one_le_zpow₀ (one_le_two (α := ℚ)) h2
    nlinarith
  rcases h with rfl | rfl | rfl <;> exact ⟨by decide, past _ (by decide) (by decide)⟩

/-- A value with an even exponent is the same value. -/
theorem evenExp_spec (m : ℕ) (e : ℤ) : (evenExp m e).2 % 2 = 0 ∧ ((evenExp m e).1 : ℚ) * 2 ^ (evenExp m e).2 = m * 2 ^ e ∧
    m ≤ (evenExp m e).1 := by
  unfold evenExp
  split
  · next h => exact ⟨h, rfl, le_rfl⟩
  · next h =>
    refine ⟨by dsimp only; omega, ?_, by dsimp only; omega⟩
    dsimp only
    rw [zpow_sub₀ two_ne_zero]
    push_cast
    field_simp

/-- FSQRT of a positive operand is its root rounded once (R103). -/
theorem sqrt_spec {c : FpEnv} (hf : IsFormat c.fmt) (hroots : HasRoots c.fmt) {x : ℕ} (hx : FiniteBits c.fmt x)
    (hpos : 0 < readQ c.fmt c.flushIn x) : RootOf c.fmt c.dir (readQ c.fmt c.flushIn x) (c.sqrt x) := by
  have hmax : (readSig c.fmt c.flushIn x : ℚ) * 2 ^ expOf c.fmt x ≤ c.fmt.maxSig * 2 ^ c.fmt.qmax := by
    refine le_trans ?_ (magQ_le_max hf hx)
    unfold magQ
    gcongr
    exact readSig_le c.fmt c.flushIn x
  have hmin := qmin_le_expOf (f := c.fmt) x
  have hread := read_finite hf hx
  rw [readQ_eq] at hpos ⊢
  generalize negBit c.fmt x = n at *
  generalize readSig c.fmt c.flushIn x = m at *
  generalize expOf c.fmt x = e at *
  have hm : m ≠ 0 := fvalQ_num_eq_zero.not.mp hpos.ne'
  have hm1 : (1 : ℚ) ≤ m := by exact_mod_cast Nat.one_le_iff_ne_zero.mpr hm
  have hn : n = false := by
    rw [fvalQ_num] at hpos
    have := (decide_sgn_mul_neg (n := n) (y := m * (2 : ℚ) ^ e) (by positivity)).symm
    rwa [decide_eq_false (not_lt.mpr hpos.le)] at this
  subst hn
  have hval : fvalQ (.num false m e) = m * 2 ^ e := by simp [fvalQ_num, sgn]
  rw [hval]
  obtain ⟨heven, hsame, hge⟩ := evenExp_spec m e
  simp only [FpEnv.sqrt, hread, if_neg hm, Bool.false_eq_true, if_false]
  generalize evenExp m e = v at *
  have ha : (m : ℚ) * 2 ^ e = (v.1 * 2 ^ (2 * (c.fmt.mb + 4)) : ℕ) * (2 ^ (v.2 / 2 - (c.fmt.mb + 4 : ℕ) : ℤ)) ^ 2 := by
    rw [← hsame]
    push_cast
    rw [mul_assoc, ← zpow_natCast, ← zpow_natCast, ← zpow_mul, ← zpow_add₀ two_ne_zero]
    congr 2
    push_cast
    omega
  have hbig : 2 ^ (c.fmt.mb + 4) ≤ isqrt (v.1 * 2 ^ (2 * (c.fmt.mb + 4))) := by
    have h2 := (isqrt_spec (v.1 * 2 ^ (2 * (c.fmt.mb + 4)))).2
    have h3 : 2 ^ (c.fmt.mb + 4) * 2 ^ (c.fmt.mb + 4) ≤ v.1 * 2 ^ (2 * (c.fmt.mb + 4)) := by
      rw [← pow_add, ← Nat.two_mul]
      exact Nat.le_mul_of_pos_left _ (by omega)
    exact Nat.lt_succ_iff.mp (Nat.mul_self_lt_mul_self_iff.mp (h3.trans_lt h2))
  generalize v.1 * 2 ^ (2 * (c.fmt.mb + 4)) = t at *
  generalize (v.2 / 2 - (c.fmt.mb + 4 : ℕ) : ℤ) = q at *
  have hone : 1 ≤ isqrt t := le_trans Nat.one_le_two_pow hbig
  refine rootOf_of_rootLike (ov := fun X => ieeeOver c.fmt c.dir false X) (flush := c.flushOut) ha fun X hX => ?_
  obtain ⟨h0, hlo, hhi⟩ := rootLike_bounds ha hone hX
  have hXmax : X ≤ c.fmt.maxSig * 2 ^ c.fmt.qmax := by
    have h4 := hroots.past
    refine le_of_sq_le_sq ?_ (by linarith)
    nlinarith
  have hXmin : (2 : ℚ) ^ (1 - (c.fmt.bias : ℤ)) ≤ X := by
    refine le_of_sq_le_sq ?_ h0.le
    have h1 : (2 : ℚ) ^ c.fmt.qmin ≤ m * 2 ^ e := by
      have := zpow_le_zpow_right₀ (one_le_two (α := ℚ)) hmin
      nlinarith
    have h2 : ((2 : ℚ) ^ (1 - (c.fmt.bias : ℤ))) ^ 2 ≤ 2 ^ (c.fmt.qmin - 2) := by
      rw [← zpow_natCast, ← zpow_mul]
      have := hroots.tiny
      exact zpow_le_zpow_right₀ one_le_two (by push_cast; omega)
    have h3 : (2 : ℚ) ^ (c.fmt.qmin - 2) * 4 = 2 ^ c.fmt.qmin := by
      rw [zpow_sub₀ two_ne_zero]
      norm_num
    linarith
  refine ⟨h0, inRange_of_le hf h0.ne' (by rwa [abs_of_pos h0]), fun hT => (tiny_iff c.fmt h0.ne').mp hT (reaches_of_le ?_), ?_⟩
  · rw [le_div_iff₀ (by positivity), abs_of_pos h0, ← (smallestNormal c.fmt).1]
    exact hXmin
  · obtain ⟨z, hz, rfl⟩ := hX
    have := roundsTo_ieee (e := q) (n := false) hf (by omega) hz
      (fun _ => le_trans (Nat.pow_le_pow_right (by decide) (by omega)) hbig) c.dir c.flushOut
    simpa [sgn, FpEnv.round] using this

end Sys2Proof.Arith
end

section
/-! PROOF. BXQ and the values of block elements (R106, R108). -/
namespace Sys2Proof.Arith
open Sys2Proof.Machine Sys2Proof.Claims

theorem bxMax_eq (bx4 : Bool) : bxMax bx4 = blockMax bx4 := rfl

theorem bxBias_eq (bx4 : Bool) : (bxBias bx4 : ℤ) = blockOffset bx4 := by
  cases bx4 <;> rfl

theorem blockMax_pos (bx4 : Bool) : 1 ≤ blockMax bx4 := by
  cases bx4 <;> decide

section
variable {bx4 : Bool} {v : FVal}

theorem quant_unique {ex q k : ℕ} (h1 : Quant bx4 v ex q) (h2 : Quant bx4 v ex k) : q = k := by
  exact_mod_cast nearInt_unique h1 h2

/-- The magnitude of an element under an exponent is the one nearest, and its rounding tells whether it is exact (R108). -/
theorem bxRound_spec (hv : IsNum v) (ex : ℕ) : Quant bx4 v ex (bxRound bx4 v ex).1 ∧
    ((bxRound bx4 v ex).2 = false ↔ |fvalQ v| = (bxRound bx4 v ex).1 * 2 ^ ((ex : ℤ) - blockOffset bx4)) := by
  obtain ⟨n, m, e, rfl⟩ := hv
  have habs : |fvalQ (.num n m e)| = m * 2 ^ e := by
    rw [fvalQ_num, abs_mul, abs_sgn, one_mul, abs_of_nonneg (by positivity)]
  obtain ⟨h1, h2⟩ := roundAt_spec .near false (q := (ex : ℤ) - blockOffset bx4) (e := e) (within_exact m) nofun
  rw [← habs] at h1 h2
  rw [div_eq_iff (by positivity)] at h2
  simp only [bxRound, bxBias_eq]
  exact ⟨h1, h2⟩

/-- A magnitude past the greatest under A is past it under the exponent four below. -/
theorem past_of_past {ex qa qb : ℕ} (hex : 4 ≤ ex) (ha : Quant bx4 v ex qa) (hb : Quant bx4 v (ex - 4) qb) (h : blockMax bx4 < qa) :
    blockMax bx4 < qb := by
  have hmax := blockMax_pos bx4
  have hscale : |fvalQ v| / 2 ^ (((ex - 4 : ℕ) : ℤ) - blockOffset bx4) = 16 * (|fvalQ v| / 2 ^ ((ex : ℤ) - blockOffset bx4)) := by
    have : (2 : ℚ) ^ ((ex : ℤ) - blockOffset bx4) = 2 ^ (((ex - 4 : ℕ) : ℤ) - blockOffset bx4) * 16 := by
      rw [show (16 : ℚ) = 2 ^ (4 : ℤ) by norm_num, ← zpow_add₀ two_ne_zero]
      congr 1
      omega
    rw [this]
    field_simp
  have ha' := (abs_le.mp ha.1).1
  have hb' := (abs_le.mp hb.1).2
  rw [hscale] at hb'
  have h' : (blockMax bx4 : ℚ) + 1 ≤ qa := by exact_mod_cast h
  have hmax' : (1 : ℚ) ≤ blockMax bx4 := by exact_mod_cast hmax
  push_cast at ha' hb'
  have : (blockMax bx4 : ℚ) < qb := by linarith
  exact_mod_cast this

end

/-- Exponent A is the first at which no magnitude rounds past the greatest, or the last tried. -/
theorem bxExpA_spec (bx4 : Bool) (vs : List FVal) : ∀ n a, a ≤ bxExpA bx4 vs n a ∧ bxExpA bx4 vs n a ≤ a + n ∧
    (∀ b, a ≤ b → b < bxExpA bx4 vs n a → ∃ v ∈ vs, blockMax bx4 < (bxRound bx4 v b).1) ∧
    (bxExpA bx4 vs n a < a + n → ∀ v ∈ vs, (bxRound bx4 v (bxExpA bx4 vs n a)).1 ≤ blockMax bx4)
  | 0, a => ⟨le_rfl, le_rfl, fun b h1 h2 => absurd h2 (not_lt.mpr h1), fun h => absurd h (lt_irrefl _)⟩
  | n + 1, a => by
    unfold bxExpA
    split
    · next h =>
      obtain ⟨v, hv, hp⟩ := List.any_eq_true.mp h
      obtain ⟨h1, h2, h3, h4⟩ := bxExpA_spec bx4 vs n (a + 1)
      refine ⟨by omega, by omega, fun b hb hlt => ?_, fun hlt => h4 (by omega)⟩
      rcases hb.eq_or_lt with rfl | hb
      · exact ⟨v, hv, of_decide_eq_true hp⟩
      · exact h3 b hb hlt
    · next h =>
      refine ⟨le_rfl, by omega, fun b h1 h2 => absurd h2 (not_lt.mpr h1), fun _ v hv => ?_⟩
      by_contra hc
      exact h (List.any_eq_true.mpr ⟨v, hv, decide_eq_true (not_le.mp hc)⟩)

/-- The magnitude, the selector and whether the magnitude was clamped, of one quantised element. -/
def bxInB (bx4 : Bool) (a : ℕ) (v : FVal) : Bool := decide ((bxRound bx4 v (a - 4)).1 ≤ blockMax bx4)
def bxMag (bx4 : Bool) (a : ℕ) (v : FVal) : ℕ :=
  if bxInB bx4 a v then (bxRound bx4 v (a - 4)).1 else min (bxRound bx4 v a).1 (blockMax bx4)
def bxClamped (bx4 : Bool) (a : ℕ) (v : FVal) : Bool := !bxInB bx4 a v && decide (blockMax bx4 < (bxRound bx4 v a).1)

section
variable {bx4 : Bool} {a : ℕ} {v : FVal}

theorem bxMag_le : bxMag bx4 a v ≤ blockMax bx4 := by
  unfold bxMag bxInB
  split
  · next h => exact of_decide_eq_true h
  · exact min_le_right _ _

theorem bxElement_bits : (bxElement bx4 a v).1 =
    bxMag bx4 a v + (blockMax bx4 + 1) * ((bxInB bx4 a v).toNat + 2 * v.isNeg.toNat) := by
  simp only [bxElement, bxMag, bxInB, bxMax_eq, Bool.toNat, Bool.cond_eq_ite]
  rfl

/-- The three fields of an element. -/
theorem element_fields {mx m : ℕ} (hm : m ≤ mx) (sel neg : Bool) : let el := m + (mx + 1) * (sel.toNat + 2 * neg.toNat)
    el % (mx + 1) = m ∧ (el / (mx + 1) % 2 = 1 ↔ sel = true) ∧ (el / (2 * (mx + 1)) % 2 = 1 ↔ neg = true) := by
  intro el
  have hdiv : el / (mx + 1) = sel.toNat + 2 * neg.toNat := by
    rw [show el = m + (mx + 1) * (sel.toNat + 2 * neg.toNat) from rfl, Nat.add_mul_div_left _ _ (by omega),
      Nat.div_eq_of_lt (by omega), Nat.zero_add]
  refine ⟨?_, ?_, ?_⟩
  · rw [show el = m + (mx + 1) * (sel.toNat + 2 * neg.toNat) from rfl, Nat.add_mul_mod_self_left, Nat.mod_eq_of_lt (by omega)]
  · rw [hdiv]
    cases sel <;> cases neg <;> decide
  · rw [Nat.mul_comm 2, ← Nat.div_div_eq_div_mul, hdiv]
    cases sel <;> cases neg <;> decide

/-- The element that R108 chooses. -/
theorem bxElement_eq {qa qb : ℕ} (hv : IsNum v) (ha : Quant bx4 v a qa) (hb : Quant bx4 v (a - 4) qb) :
    (bxElement bx4 a v).1 = blockElement bx4 v.isNeg qa qb := by
  rw [quant_unique ha (bxRound_spec hv a).1, quant_unique hb (bxRound_spec hv (a - 4)).1, bxElement_bits]
  unfold bxMag bxInB blockElement
  by_cases h : (bxRound bx4 v (a - 4)).1 ≤ blockMax bx4 <;> cases v.isNeg <;> simp [h] <;> ring

/-- The value of a quantised element under its block's header. -/
theorem blockQ_bxElement (ha : 4 ≤ a) (hle : a ≤ 254) : blockQ bx4 (bxElement bx4 a v).1 ((a - 4) * 256 + a) =
    sgn v.isNeg * (bxMag bx4 a v * 2 ^ (((if bxInB bx4 a v then a - 4 else a : ℕ) : ℤ) - blockOffset bx4)) := by
  obtain ⟨hmod, hsel, hneg⟩ := element_fields (bxMag_le (bx4 := bx4) (a := a) (v := v)) (bxInB bx4 a v) v.isNeg
  have hhi : ((a - 4) * 256 + a) / 256 = a - 4 := by omega
  have hlo : ((a - 4) * 256 + a) % 256 = a := by omega
  rw [bxElement_bits, blockQ, hmod, hhi, hlo]
  simp only [hsel, hneg, sgn]
  rw [mul_assoc]

/-- The value of a quantised element differs from the input's where the model has it inexact, or clamped. -/
theorem bxElement_inexact (hv : IsNum v) (ha : 4 ≤ a) (hle : a ≤ 254) :
    blockQ bx4 (bxElement bx4 a v).1 ((a - 4) * 256 + a) ≠ fvalQ v ↔
      ((if bxInB bx4 a v then (bxRound bx4 v (a - 4)).2 else (bxRound bx4 v a).2) || bxClamped bx4 a v) = true := by
  rw [blockQ_bxElement ha hle]
  obtain ⟨quantB, exactB⟩ := bxRound_spec (bx4 := bx4) hv (a - 4)
  obtain ⟨quantA, exactA⟩ := bxRound_spec (bx4 := bx4) hv a
  have hvalue : fvalQ v = sgn v.isNeg * |fvalQ v| := by
    obtain ⟨n, m, e, rfl⟩ := hv
    rw [fvalQ_num, abs_mul, abs_sgn, one_mul, abs_of_nonneg (by positivity)]
    rfl
  have hsame : ∀ X : ℚ, sgn v.isNeg * X = fvalQ v ↔ |fvalQ v| = X := fun X => by
    rw [hvalue, abs_mul, abs_sgn, one_mul, abs_abs, mul_right_inj' (sgn_ne_zero _), eq_comm]
  rw [Ne, hsame]
  unfold bxMag bxClamped
  cases hin : bxInB bx4 a v
  · simp only [Bool.false_eq_true, if_false, Bool.not_false, Bool.true_and]
    by_cases hc : blockMax bx4 < (bxRound bx4 v a).1
    · refine iff_of_true (fun h => ?_) (by simp [hc])
      have hmax : Quant bx4 v a (blockMax bx4) := nearInt_of_eq (by
        rw [h, min_eq_right hc.le, mul_div_cancel_right₀ _ (by positivity)]
        norm_cast)
      exact hc.ne (quant_unique hmax quantA)
    · rw [min_eq_left (not_lt.mp hc), ← exactA]
      simp [hc]
  · simp only [if_true, Bool.not_true, Bool.false_and, Bool.or_false]
    rw [← exactB]
    simp

/-- Whether the input of an element is not zero, as the model looks at it. -/
def bxNonzero : FVal → Bool
  | .num _ k _ => k != 0
  | _ => false

theorem bxNonzero_iff (hv : IsNum v) : bxNonzero v = true ↔ fvalQ v ≠ 0 := by
  obtain ⟨n, m, e, rfl⟩ := hv
  rw [Ne, fvalQ_num_eq_zero]
  simp [bxNonzero]

theorem bxElement_flags : (bxElement bx4 a v).2 =
    (if (if bxInB bx4 a v then (bxRound bx4 v (a - 4)).2 else (bxRound bx4 v a).2) || bxClamped bx4 a v then flagNX else 0) |||
      (if bxMag bx4 a v = 0 && bxNonzero v then flagUF ||| flagNX else 0) |||
      (if bxClamped bx4 a v && a == 254 then flagOF ||| flagNX else 0) := by
  cases v <;> rfl

/-- The bits of three flag conditions. -/
theorem flag_bits (inexact under past : Bool) : let fl : FpFlags := (if inexact then flagNX else 0) ||| (if under then flagUF ||| flagNX else 0) |||
      (if past then flagOF ||| flagNX else 0)
    fl.getLsbD 4 = (inexact || under || past) ∧ fl.getLsbD 3 = under ∧ fl.getLsbD 2 = past ∧ fl.getLsbD 1 = false ∧ fl.getLsbD 0 = false := by
  cases inexact <;> cases under <;> cases past <;> decide

/-- The flags of a quantised element (R108). -/
theorem bxElement_flagBits (hv : IsNum v) (ha : 4 ≤ a) (hle : a ≤ 254) :
    ((bxElement bx4 a v).2.getLsbD 4 = true ↔ blockQ bx4 (bxElement bx4 a v).1 ((a - 4) * 256 + a) ≠ fvalQ v) ∧
      ((bxElement bx4 a v).2.getLsbD 3 = true ↔ fvalQ v ≠ 0 ∧ (bxElement bx4 a v).1 % (blockMax bx4 + 1) = 0) ∧
      ((bxElement bx4 a v).2.getLsbD 2 = true ↔ a = 254 ∧ blockMax bx4 < (bxRound bx4 v a).1) ∧
      (bxElement bx4 a v).2.getLsbD 1 = false ∧ (bxElement bx4 a v).2.getLsbD 0 = false := by
  have hmod : (bxElement bx4 a v).1 % (blockMax bx4 + 1) = bxMag bx4 a v := by
    rw [bxElement_bits]
    exact (element_fields bxMag_le _ _).1
  have hinexact := bxElement_inexact (bx4 := bx4) hv ha hle
  rw [hmod, ← bxNonzero_iff hv]
  have hunder : bxMag bx4 a v = 0 → bxNonzero v = true →
      blockQ bx4 (bxElement bx4 a v).1 ((a - 4) * 256 + a) ≠ fvalQ v := fun h0 hn => by
    rw [blockQ_bxElement ha hle, h0]
    have := (bxNonzero_iff hv).mp hn
    simpa using this.symm
  have hclamped : bxClamped bx4 a v = true ↔ blockMax bx4 < (bxRound bx4 v a).1 := by
    have := past_of_past ha (bxRound_spec (bx4 := bx4) hv a).1 (bxRound_spec (bx4 := bx4) hv (a - 4)).1
    simp only [bxClamped, bxInB, Bool.and_eq_true, Bool.not_eq_true', decide_eq_false_iff_not, decide_eq_true_iff, not_le]
    exact ⟨fun h => h.2, fun h => ⟨this h, h⟩⟩
  obtain ⟨b4, b3, b2, b1, b0⟩ := flag_bits
    ((if bxInB bx4 a v then (bxRound bx4 v (a - 4)).2 else (bxRound bx4 v a).2) || bxClamped bx4 a v)
    (bxMag bx4 a v = 0 && bxNonzero v) (bxClamped bx4 a v && a == 254)
  rw [← bxElement_flags] at b4 b3 b2 b1 b0
  refine ⟨?_, ?_, ?_, b1, b0⟩
  · rw [b4, Bool.or_eq_true, Bool.or_eq_true, ← hinexact]
    constructor
    · rintro ((h | h) | h)
      · exact h
      · rw [Bool.and_eq_true, decide_eq_true_iff] at h
        exact hunder h.1 h.2
      · rw [Bool.and_eq_true] at h
        exact hinexact.mpr (by rw [h.1, Bool.or_true])
    · exact fun h => .inl (.inl h)
  · rw [b3, Bool.and_eq_true, decide_eq_true_iff, and_comm]
  · rw [b2, Bool.and_eq_true, hclamped, beq_iff_eq, and_comm]

end

/-- A flag of a block is set by one of its elements. -/
theorem foldl_flags (k : ℕ) (els : List (ℕ × FpFlags)) : ∀ fl : FpFlags,
    (els.foldl (fun f x => f ||| x.2) fl).getLsbD k = true ↔ fl.getLsbD k = true ∨ ∃ x ∈ els, x.2.getLsbD k = true := by
  induction els with
  | nil => intro fl; simp
  | cons x xs ih =>
    intro fl
    rw [List.foldl_cons, ih, BitVec.getLsbD_or, Bool.or_eq_true, List.exists_mem_cons_iff, or_assoc]

/-- Whether a value is a NaN or an infinity, as the model looks at it. -/
def bxSpecial : FVal → Bool
  | .num _ _ _ => false
  | _ => true

theorem bxSpecial_iff {v : FVal} : bxSpecial v = true ↔ ¬IsNum v := by
  cases v <;> simp [bxSpecial, IsNum]

theorem bxQuantise_eq (bx4 : Bool) (vs : List FVal) : bxQuantise bx4 vs =
    if vs.any bxSpecial then (65535, vs.map fun _ => 0, flagNV)
    else (let a := bxExpA bx4 vs 250 4
      ((a - 4) * 256 + a, (vs.map (bxElement bx4 a)).map (·.1), (vs.map (bxElement bx4 a)).foldl (fun f x => f ||| x.2) 0)) := rfl

/-- BXQ of a block of finite inputs (R106, R108). -/
theorem bxQuantise_finite (bx4 : Bool) {vs : List FVal} (hvs : ∀ v ∈ vs, IsNum v) :
    ∃ A els fl, bxQuantise bx4 vs = ((A - 4) * 256 + A, els, fl) ∧ 4 ≤ A ∧ A ≤ 254 ∧ els.length = vs.length ∧
      (∀ a, 4 ≤ a → a < A → ∃ v ∈ vs, ∃ q, Quant bx4 v a q ∧ blockMax bx4 < q) ∧
      (A < 254 → ∀ v ∈ vs, ∀ q, Quant bx4 v A q → q ≤ blockMax bx4) ∧
      (∀ (i : ℕ) (v : FVal) (qa qb : ℕ), vs[i]? = some v → Quant bx4 v A qa → Quant bx4 v (A - 4) qb →
        els[i]? = some (blockElement bx4 v.isNeg qa qb)) ∧
      (fl.getLsbD 4 = true ↔ ∃ (i : ℕ) (v : FVal) (el : ℕ), vs[i]? = some v ∧ els[i]? = some el ∧
        blockQ bx4 el ((A - 4) * 256 + A) ≠ fvalQ v) ∧
      (fl.getLsbD 3 = true ↔ ∃ (i : ℕ) (v : FVal) (el : ℕ), vs[i]? = some v ∧ els[i]? = some el ∧
        fvalQ v ≠ 0 ∧ el % (blockMax bx4 + 1) = 0) ∧
      (fl.getLsbD 2 = true ↔ A = 254 ∧ ∃ v ∈ vs, ∃ q, Quant bx4 v 254 q ∧ blockMax bx4 < q) ∧
      fl.getLsbD 1 = false ∧ fl.getLsbD 0 = false := by
  have hnone : vs.any bxSpecial = false := by
    rw [List.any_eq_false]
    exact fun v hv h => bxSpecial_iff.mp h (hvs v hv)
  obtain ⟨hA, hle, hover, hfit⟩ := bxExpA_spec bx4 vs 250 4
  have heq := bxQuantise_eq bx4 vs
  rw [hnone, if_neg Bool.false_ne_true] at heq
  dsimp only at heq
  generalize bxExpA bx4 vs 250 4 = A at *
  have hflags : ∀ k, ((vs.map (bxElement bx4 A)).foldl (fun (f : FpFlags) (x : ℕ × FpFlags) => f ||| x.2) 0).getLsbD k = true ↔
      ∃ v ∈ vs, (bxElement bx4 A v).2.getLsbD k = true := fun k => by
    rw [foldl_flags]
    simp
  have hbits : ∀ v ∈ vs, _ := fun v hv => bxElement_flagBits (bx4 := bx4) (hvs v hv) hA hle
  have underIff : ∀ v ∈ vs, (bxElement bx4 A v).2.getLsbD 3 = true ↔ fvalQ v ≠ 0 ∧ (bxElement bx4 A v).1 % (blockMax bx4 + 1) = 0 :=
    fun v hv => by
      obtain ⟨-, h, -⟩ := hbits v hv
      exact h
  have pastIff : ∀ v ∈ vs, (bxElement bx4 A v).2.getLsbD 2 = true ↔ A = 254 ∧ blockMax bx4 < (bxRound bx4 v A).1 := fun v hv => by
    obtain ⟨-, -, h, -⟩ := hbits v hv
    exact h
  have hindex : ∀ P : FVal → ℕ → Prop, (∃ v ∈ vs, P v (bxElement bx4 A v).1) ↔
      ∃ (i : ℕ) (v : FVal) (el : ℕ), vs[i]? = some v ∧ ((vs.map (bxElement bx4 A)).map (·.1))[i]? = some el ∧ P v el := fun P => by
    constructor
    · rintro ⟨v, hv, hP⟩
      obtain ⟨i, hi⟩ := List.mem_iff_getElem?.mp hv
      exact ⟨i, v, _, hi, by simp [hi], hP⟩
    · rintro ⟨i, v, el, hi, hel, hP⟩
      refine ⟨v, List.mem_of_getElem? hi, ?_⟩
      simp only [List.map_map, List.getElem?_map, hi, Option.map_some, Option.some.injEq] at hel
      rwa [← hel] at hP
  refine ⟨A, _, _, heq, hA, hle, by simp, fun a h1 h2 => ?_, fun hlt v hv q hq => ?_, fun i v qa qb hi ha hb => ?_, ?_, ?_, ?_, ?_, ?_⟩
  · obtain ⟨v, hv, hp⟩ := hover a h1 h2
    exact ⟨v, hv, _, (bxRound_spec (hvs v hv) a).1, hp⟩
  · rw [quant_unique hq (bxRound_spec (hvs v hv) A).1]
    exact hfit hlt v hv
  · have hv := hvs v (List.mem_of_getElem? hi)
    simp [hi, bxElement_eq hv ha hb]
  · rw [hflags, ← hindex fun v el => blockQ bx4 el ((A - 4) * 256 + A) ≠ fvalQ v]
    exact exists_congr fun v => and_congr_right fun hv => (hbits v hv).1
  · rw [hflags, ← hindex fun v el => fvalQ v ≠ 0 ∧ el % (blockMax bx4 + 1) = 0]
    exact exists_congr fun v => and_congr_right fun hv => underIff v hv
  · rw [hflags]
    constructor
    · rintro ⟨v, hv, h⟩
      obtain ⟨rfl, hp⟩ := (pastIff v hv).mp h
      exact ⟨rfl, v, hv, _, (bxRound_spec (hvs v hv) 254).1, hp⟩
    · rintro ⟨rfl, v, hv, q, hq, hp⟩
      rw [quant_unique hq (bxRound_spec (hvs v hv) 254).1] at hp
      exact ⟨v, hv, (pastIff v hv).mpr ⟨rfl, hp⟩⟩
  · refine Bool.eq_false_of_not_eq_true fun h => ?_
    obtain ⟨v, hv, h⟩ := (hflags 1).mp h
    obtain ⟨-, -, -, h1, -⟩ := hbits v hv
    rw [h1] at h
    cases h
  · refine Bool.eq_false_of_not_eq_true fun h => ?_
    obtain ⟨v, hv, h⟩ := (hflags 0).mp h
    obtain ⟨-, -, -, -, h0⟩ := hbits v hv
    rw [h0] at h
    cases h

theorem bxQuantise_special (bx4 : Bool) {vs : List FVal} (h : ∃ v ∈ vs, ¬IsNum v) :
    bxQuantise bx4 vs = (65535, vs.map fun _ => 0, flagNV) := by
  obtain ⟨v, hv, hn⟩ := h
  rw [bxQuantise_eq, if_pos (List.any_eq_true.mpr ⟨v, hv, bxSpecial_iff.mpr hn⟩)]

/-- The value of an element under a header (R106). -/
theorem bxValue_spec (bx4 : Bool) {el hdr : ℕ} (hh : hdr < 65536)
    (hx : (if el / (blockMax bx4 + 1) % 2 = 1 then hdr / 256 else hdr % 256) ≠ 255) :
    IsNum (bxValue bx4 el hdr) ∧ fvalQ (bxValue bx4 el hdr) = blockQ bx4 el hdr := by
  have hhi : hdr / 256 % 256 = hdr / 256 := Nat.mod_eq_of_lt (by omega)
  simp only [bxValue, bxMax_eq, hhi, if_neg hx, bxBias_eq]
  exact ⟨⟨_, _, _, rfl⟩, by simp [fvalQ, blockQ]⟩

end Sys2Proof.Arith
end

section
/-! PROOF. The passes of the matrix unit: an exact sum of exact products, rounded once (R110). -/
namespace Sys2Proof.Arith
open Sys2Proof.Machine Sys2Proof.Claims

/-- What one value adds to the lowest exponent, to the exact sum, and whether it is a zero with the sign. -/
def lowerExp (q : ℤ) : FVal → ℤ
  | .num _ m e => if m = 0 then q else min q e
  | _ => q

def addExact (q : ℤ) (t : ℤ) : FVal → ℤ
  | .num n m e => if m = 0 then t else t + signedAt n m e q
  | _ => t

def isMinusZero : FVal → Bool
  | .num n m _ => n && m == 0
  | _ => false

def isInfinity (n : Bool) : FVal → Bool
  | .inf m => m == n
  | _ => false

theorem lowerExp_num (q : ℤ) (n : Bool) (m : ℕ) (e : ℤ) : lowerExp q (.num n m e) = if m = 0 then q else min q e := rfl

theorem addExact_num (q t : ℤ) (n : Bool) (m : ℕ) (e : ℤ) :
    addExact q t (.num n m e) = if m = 0 then t else t + signedAt n m e q := rfl

theorem passSum_eq (ps : List FVal) : passSum ps =
    if ps.any FVal.isNan || (ps.any (isInfinity true) && ps.any (isInfinity false)) then fmtF32.nan
    else if ps.any (isInfinity true) then fmtF32.inf true
    else if ps.any (isInfinity false) then fmtF32.inf false
    else
      let q := ps.foldl lowerExp 0
      let t := ps.foldl (addExact q) 0
      if t = 0 then fmtF32.sign (ps.all isMinusZero)
      else (fmtF32.round (.dir .near) false (decide (t < 0)) t.natAbs q false).bits := rfl

/-- The lowest exponent is that of no non-zero value. -/
theorem foldl_lowerExp (ps : List FVal) : ∀ q, ps.foldl lowerExp q ≤ q ∧
    ∀ n m e, .num n m e ∈ ps → m ≠ 0 → ps.foldl lowerExp q ≤ e := by
  induction ps with
  | nil => exact fun q => ⟨le_rfl, nofun⟩
  | cons p ps ih =>
    intro q
    obtain ⟨h1, h2⟩ := ih (lowerExp q p)
    have hq : lowerExp q p ≤ q := by
      cases p with
      | num n m e =>
        rw [lowerExp_num]
        split
        · exact le_rfl
        · exact min_le_left _ _
      | _ => exact le_rfl
    refine ⟨h1.trans hq, fun n m e hp hm => ?_⟩
    rcases List.mem_cons.mp hp with rfl | hp
    · refine h1.trans ?_
      rw [lowerExp_num, if_neg hm]
      exact min_le_right _ _
    · exact h2 n m e hp hm

/-- The exact sum of numbers in units of a quantum that is no greater than theirs. -/
theorem foldl_addExact {q : ℤ} (ps : List FVal) (hnum : ∀ p ∈ ps, IsNum p) (hq : ∀ n m e, .num n m e ∈ ps → m ≠ 0 → q ≤ e) :
    ∀ t : ℤ, ((ps.foldl (addExact q) t : ℤ) : ℚ) * 2 ^ q = t * 2 ^ q + (ps.map fvalQ).sum := by
  induction ps with
  | nil => simp
  | cons p ps ih =>
    intro t
    have hstep : ((addExact q t p : ℤ) : ℚ) * 2 ^ q = t * 2 ^ q + fvalQ p := by
      obtain ⟨n, m, e, rfl⟩ := hnum p List.mem_cons_self
      rw [addExact_num]
      split
      · next h => rw [h, fvalQ_num_eq_zero.mpr rfl, add_zero]
      · next h =>
        push_cast
        rw [add_mul, signedAt_value n m (hq n m e List.mem_cons_self h)]
    rw [List.foldl_cons, ih (fun p hp => hnum p (List.mem_cons_of_mem _ hp)) (fun n m e hp => hq n m e (List.mem_cons_of_mem _ hp)),
      hstep, List.map_cons, List.sum_cons, add_assoc]

theorem isMinusZero_iff {p : FVal} : isMinusZero p = true ↔ ∃ e, p = .num true 0 e := by
  cases p <;> simp [isMinusZero]

theorem isInfinity_iff {n : Bool} {p : FVal} : isInfinity n p = true ↔ p = .inf n := by
  cases p <;> simp [isInfinity]

theorem any_isInfinity {n : Bool} {ps : List FVal} : ps.any (isInfinity n) = true ↔ .inf n ∈ ps := by
  simp [List.any_eq_true, isInfinity_iff]

/-- A pass over finite products (R110). -/
theorem passSum_finite {ps : List FVal} (hnum : ∀ p ∈ ps, IsNum p) :
    let t := (ps.map fvalQ).sum
    (t ≠ 0 → ∃ fl, RoundsTo fmtF32 .near false (ieeeOver fmtF32 .near false t) t (passSum ps, fl)) ∧
      (t = 0 → (∀ p ∈ ps, ∃ e, p = .num true 0 e) → passSum ps = 0x80000000) ∧
      (t = 0 → (∃ p ∈ ps, ∀ e, p ≠ .num true 0 e) → passSum ps = 0) := by
  intro t
  have hnan : ps.any FVal.isNan = false := List.any_eq_false.mpr fun p hp h => by
    obtain ⟨n, m, e, rfl⟩ := hnum p hp
    cases h
  have hinf : ∀ n, ps.any (isInfinity n) = false := fun n => List.any_eq_false.mpr fun p hp h => by
    obtain ⟨n, m, e, rfl⟩ := hnum p hp
    cases h
  have hsum := foldl_addExact ps hnum (foldl_lowerExp ps 0).2 0
  rw [Int.cast_zero, zero_mul, zero_add] at hsum
  rw [passSum_eq]
  simp only [hnan, hinf, Bool.and_false, Bool.or_false, Bool.false_eq_true, if_false]
  generalize ps.foldl lowerExp 0 = q at *
  generalize ps.foldl (addExact q) 0 = u at *
  have hzero : t = 0 ↔ u = 0 := by
    rw [show t = (ps.map fvalQ).sum from rfl, ← hsum, mul_eq_zero_iff_right (by positivity), Int.cast_eq_zero]
  refine ⟨fun ht => ?_, fun ht hall => ?_, fun ht hex => ?_⟩
  · have hu := hzero.not.mp ht
    rw [if_neg hu, show t = _ from hsum.symm, ← fvalQ_int, fvalQ_num]
    exact ⟨_, roundsTo_ieee isFormat_f32 (by simpa using hu) (within_exact _) nofun .near false⟩
  · rw [if_pos (hzero.mp ht), List.all_eq_true.mpr fun p hp => isMinusZero_iff.mpr (hall p hp)]
    rfl
  · obtain ⟨p, hp, hne⟩ := hex
    have : ps.all isMinusZero = false := List.all_eq_false.mpr ⟨p, hp, fun h => by
      obtain ⟨e, he⟩ := isMinusZero_iff.mp h
      exact hne e he⟩
    rw [if_pos (hzero.mp ht), this]
    rfl

/-- A pass over a NaN, or infinities of both signs, and over infinities of one sign (R110). -/
theorem passSum_nan {ps : List FVal} (h : (∃ p ∈ ps, p.isNan = true) ∨ (.inf true ∈ ps ∧ .inf false ∈ ps)) : passSum ps = 0x7FC00000 := by
  have hc : (ps.any FVal.isNan || (ps.any (isInfinity true) && ps.any (isInfinity false))) = true := by
    rw [Bool.or_eq_true, Bool.and_eq_true, any_isInfinity, any_isInfinity, List.any_eq_true]
    exact h
  rw [passSum_eq, if_pos hc]
  rfl

theorem passSum_inf {ps : List FVal} {n : Bool} (hnan : ∀ p ∈ ps, p.isNan = false) (hin : .inf n ∈ ps) (hout : .inf (!n) ∉ ps) :
    passSum ps = if n then 0xFF800000 else 0x7F800000 := by
  have h0 : ps.any FVal.isNan = false := List.any_eq_false.mpr fun p hp => by simp [hnan p hp]
  have h1 := any_isInfinity.mpr hin
  have h2 : ps.any (isInfinity !n) = false := Bool.eq_false_of_not_eq_true (any_isInfinity.not.mpr hout)
  rw [passSum_eq, h0]
  cases n <;> simp only [Bool.not_true, Bool.not_false] at h2 <;> rw [h1, h2] <;> rfl

/-- The products of a pass are exact (R110). -/
theorem mulVals_spec (x y : FVal) : (IsNum x → IsNum y → IsNum (mulVals x y) ∧ fvalQ (mulVals x y) = fvalQ x * fvalQ y) ∧
    (x.isNan = true ∨ y.isNan = true → (mulVals x y).isNan = true) ∧
    (∀ n, x = .inf n → IsNum y → fvalQ y = 0 → (mulVals x y).isNan = true) ∧
    (∀ n k, x = .inf n → y = .inf k → mulVals x y = .inf (n != k)) := by
  refine ⟨?_, mulVals_isNan, ?_, ?_⟩
  · rintro ⟨n1, m1, e1, rfl⟩ ⟨n2, m2, e2, rfl⟩
    exact ⟨⟨_, _, _, rfl⟩, fvalQ_mul n1 m1 e1 n2 m2 e2⟩
  · rintro n rfl ⟨k, m, e, rfl⟩ h0
    rw [mulVals, if_pos (fvalQ_num_eq_zero.mp h0)]
    rfl
  · rintro n k rfl rfl
    rfl

end Sys2Proof.Arith
end
section
/-! PROOF. The obligation on numbers, from its rules (R95 to R110, R159, R160). -/
namespace Sys2Proof.Arith
open Sys2Proof.Machine Sys2Proof.Claims

theorem ieee_facts {f : FloatFmt} (h : f = fmtF32 ∨ f = fmtF16 ∨ f = fmtBF16) : f.e4m3 = false ∧ f.qmin ≤ 0 ∧ 0 ≤ f.qmax := by
  rcases h with rfl | rfl | rfl <;> decide

/-- NV of an operation on two operands, which is quiet otherwise (R98). -/
theorem invalid_iff {c : FpEnv} (hf : IsFormat c.fmt) (h4 : c.fmt.e4m3 = false) {x y : ℕ} (hx : x < 2 ^ (1 + c.fmt.eb + c.fmt.mb))
    (hy : y < 2 ^ (1 + c.fmt.eb + c.fmt.mb)) :
    (SignallingBits c.fmt x ∨ SignallingBits c.fmt y → nvOf [c.read x, c.read y] = flagNV) ∧
      (¬SignallingBits c.fmt x → ¬SignallingBits c.fmt y → nvOf [c.read x, c.read y] = 0) := by
  rw [← signals_value hf h4 (flush := c.flushIn) hx, ← signals_value hf h4 (flush := c.flushIn) hy]
  exact ⟨nvOf_pair, nvOf_pair_quiet⟩

/-- FSQRT and FRINT of a NaN (R98). -/
theorem sqrt_rint_nan {c : FpEnv} (hf : IsFormat c.fmt) (h4 : c.fmt.e4m3 = false) {x : ℕ} (hn : NanBits c.fmt x) (o : FpOut)
    (ho : o = c.sqrt x ∨ o = c.rint x) : o.1 = c.fmt.nan ∧ (SignallingBits c.fmt x → o.2 = flagNV) ∧
      (¬SignallingBits c.fmt x → o.2 = 0) := by
  have hread : c.read x = .nan (decide (fracField c.fmt x < 2 ^ (c.fmt.mb - 1))) := value_nan h4 hn
  have hbits : o = (c.fmt.nan, if fracField c.fmt x < 2 ^ (c.fmt.mb - 1) then flagNV else 0) := by
    rcases ho with rfl | rfl <;> simp [FpEnv.sqrt, FpEnv.rint, hread]
  rw [signallingBits_iff hf, and_iff_right hn, hbits]
  exact ⟨rfl, fun h => if_pos h, fun h => if_neg h⟩

/-- FSQRT and FRINT of an infinity (R103, R104). -/
theorem sqrt_rint_inf {c : FpEnv} (h4 : c.fmt.e4m3 = false) {x : ℕ} (hi : InfBits c.fmt x) :
    c.rint x = (c.fmt.inf (negBit c.fmt x), 0) ∧
      c.sqrt x = if negBit c.fmt x = true then (c.fmt.nan, flagNV) else (c.fmt.inf false, 0) := by
  have hread : c.read x = .inf (negBit c.fmt x) := value_inf h4 hi
  simp only [FpEnv.sqrt, FpEnv.rint, hread, and_self]

/-- FSQRT of a zero and of a negative operand (R103). -/
theorem sqrt_zero_neg {c : FpEnv} (hf : IsFormat c.fmt) {x : ℕ} (hx : FiniteBits c.fmt x) :
    (readQ c.fmt c.flushIn x = 0 → c.sqrt x = (c.fmt.sign (negBit c.fmt x), 0)) ∧
      (readQ c.fmt c.flushIn x < 0 → c.sqrt x = (c.fmt.nan, flagNV)) := by
  have hread := read_finite hf hx
  rw [readQ_eq]
  simp only [FpEnv.sqrt, hread]
  refine ⟨fun h => by rw [if_pos (fvalQ_num_eq_zero.mp h)], fun h => ?_⟩
  have hm := fvalQ_num_eq_zero.not.mp h.ne
  have hneg : negBit c.fmt x = true := by
    by_contra hc
    rw [fvalQ_num, Bool.eq_false_of_not_eq_true hc] at h
    have : (0 : ℚ) ≤ sgn false * (readSig c.fmt c.flushIn x * 2 ^ expOf c.fmt x) := by
      simp only [sgn, Bool.false_eq_true, if_false, one_mul]
      positivity
    linarith
  rw [if_neg hm, if_pos hneg]

/-- FMIN and FMAX beside a NaN (R104). -/
theorem minMax_nan {c : FpEnv} (hf : IsFormat c.fmt) (h4 : c.fmt.e4m3 = false) {x y : ℕ} (hx : x < 2 ^ (1 + c.fmt.eb + c.fmt.mb))
    (hy : y < 2 ^ (1 + c.fmt.eb + c.fmt.mb)) (g : Bool) :
    (NanBits c.fmt x → NanBits c.fmt y → (c.minMax g x y).1 = c.fmt.nan) ∧
      (NanBits c.fmt x → ¬NanBits c.fmt y → (c.minMax g x y).1 = readBits c.fmt c.flushIn y) ∧
      (¬NanBits c.fmt x → NanBits c.fmt y → (c.minMax g x y).1 = readBits c.fmt c.flushIn x) := by
  rw [← isNan_value hf h4 (flush := c.flushIn) hx, ← isNan_value hf h4 (flush := c.flushIn) hy, ← asRead_eq hx, ← asRead_eq hy]
  simp only [FpEnv.minMax, FpEnv.read]
  refine ⟨fun h1 h2 => by simp [h1, h2], fun h1 h2 => by simp [h1, h2], fun h1 h2 => by simp [h1, h2]⟩

/-- Settles O60: every rounding is that of an exact value, by the bounds it reaches; the other operations by the fields of a pattern. -/
theorem finiteArithmetic : Obligations.FiniteArithmetic := by
  unfold Obligations.FiniteArithmetic
  refine ⟨⟨?_, fun c x y z hc hx hy hz => finite_arithmetic c x y z hc hx hy hz⟩, ?_, ?_, ?_, ?_, mulVals_spec, ?_⟩
  · intro f hfmt flush bits hb
    have hf : IsFormat f := by
      rcases hfmt with rfl | rfl | rfl | rfl | rfl
      exacts [isFormat_f32, isFormat_f16, isFormat_bf16, isFormat_e4m3, isFormat_e5m2]
    exact ⟨_, _, value_finite hf hb, by rw [value_finite hf hb, readQ_eq]⟩
  · intro c x y hc hx hy
    have hf := isFormat_of_ieee hc
    obtain ⟨h4, hq0, hq1⟩ := ieee_facts hc
    refine ⟨fun hn o ho => sqrt_rint_nan hf h4 hn o ho, fun hi => sqrt_rint_inf h4 hi, fun hfin => ?_, fun g => ?_, fun k => ?_, fun i hi => ?_⟩
    · obtain ⟨hzero, hneg⟩ := sqrt_zero_neg hf hfin
      exact ⟨hzero, hneg, sqrt_spec hf (hasRoots_of_ieee hc) hfin, fun v hv => rint_spec hf hq0 hq1 hfin hv⟩
    · obtain ⟨hboth, hleft, hright⟩ := minMax_nan hf h4 hx hy g
      exact ⟨invalid_iff hf h4 hx hy, hboth, hleft, hright, fun nx ny => minMax_numbers hf h4 hx hy nx ny g⟩
    · exact ⟨invalid_iff hf h4 hx hy, cmp_spec hf h4 hx hy k⟩
    · exact classify_spec hf h4 hx hi
  · intro mode dir x ty f hty
    exact ⟨fun hne hx => convert_narrow hty mode dir hne hx, fun hne hx => convert_widen hty mode dir hne hx,
      fun it w signed hint => ⟨fun hx v hv => convert_toInt hty mode dir hint hx hv, fun hx n hn => convert_ofInt hty mode dir hint hx hn⟩⟩
  · intro bx4 vs
    exact ⟨fun hvs => bxQuantise_finite bx4 hvs, fun hex => bxQuantise_special bx4 hex, fun el hdr hh _ hx => bxValue_spec bx4 hh hx⟩
  · intro ps
    exact ⟨fun _ hnum => passSum_finite hnum, fun h => passSum_nan h, fun n h1 h2 h3 => passSum_inf h1 h2 h3⟩
  · intro a w sa sw old
    exact ⟨rfl, rfl⟩

end Sys2Proof.Arith
end

section
/-! PROOF. Rows of cells that are copied to rows of others, pad words laid over a pad, and the elements of an accumulator (R223, R226, R230). -/
namespace Sys2Proof.Matrix
open Sys2Proof.Machine Sys2Proof.Claims

/-- Cells after the first `n` rows of `len` bytes of others are copied to them. -/
def copyRows (src dst : List Host.Cell) (start at' : ℕ → ℕ) (len n : ℕ) : List Host.Cell :=
  (List.range n).foldl (fun m r => cellWrite m (at' r) (cellRead src (start r) len)) dst

section
variable {src dst : List Host.Cell} {start at' : ℕ → ℕ} {len : ℕ}

theorem copyRows_succ (n : ℕ) : copyRows src dst start at' len (n + 1) =
    cellWrite (copyRows src dst start at' len n) (at' n) (cellRead src (start n) len) := by
  rw [copyRows, List.range_succ, List.foldl_append]
  rfl

theorem length_cellRead (m : List Host.Cell) (a n : ℕ) : (cellRead m a n).length = n := by
  rw [cellRead_eq_map, List.length_map, List.length_range]

theorem getD_cellRead (m : List Host.Cell) (a : ℕ) {i n : ℕ} (h : i < n) : (cellRead m a n).getD i 0 = cellGet m (a + i) := by
  rw [cellRead_eq_map, List.getD_eq_getElem?_getD, List.getElem?_map, List.getElem?_range h]
  rfl

theorem cellRead_congr {m k : List Host.Cell} (h : ∀ a, cellGet m a = cellGet k a) (a n : ℕ) : cellRead m a n = cellRead k a n := by
  simp only [cellRead_eq_map, h]

theorem copyRows_congr {other : List Host.Cell} (h : ∀ a, cellGet src a = cellGet other a) (n : ℕ) :
    copyRows src dst start at' len n = copyRows other dst start at' len n := by
  simp only [copyRows, cellRead_congr h]

variable (hd : spRising none dst = true)
include hd

theorem spRising_copyRows : ∀ n, spRising none (copyRows src dst start at' len n) = true
  | 0 => hd
  | n + 1 => by
    rw [copyRows_succ]
    exact spRising_cellWrite _ _ (spRising_copyRows n)

/-- A byte outside the rows is as it was. -/
theorem cellGet_copyRows_other {x : ℕ} : ∀ {n : ℕ}, (∀ r < n, x < at' r ∨ at' r + len ≤ x) →
    cellGet (copyRows src dst start at' len n) x = cellGet dst x
  | 0, _ => rfl
  | n + 1, h => by
    rw [copyRows_succ, cellGet_cellWrite _ _ _ (spRising_copyRows hd n), length_cellRead, if_neg (by have := h n (by omega); omega)]
    exact cellGet_copyRows_other fun r hr => h r (by omega)

/-- A byte of a row is the byte of the row it was copied from, where no row reaches into a later one. -/
theorem cellGet_copyRows_row (hrows : ∀ r k, r < k → at' r + len ≤ at' k) {r i : ℕ} (hi : i < len) : ∀ {n : ℕ}, r < n →
    cellGet (copyRows src dst start at' len n) (at' r + i) = cellGet src (start r + i)
  | n + 1, hr => by
    rw [copyRows_succ, cellGet_cellWrite _ _ _ (spRising_copyRows hd n), length_cellRead]
    rcases Nat.lt_succ_iff_lt_or_eq.mp hr with hlt | rfl
    · rw [if_neg (by have := hrows r n hlt; omega)]
      exact cellGet_copyRows_row hrows hi hlt
    · rw [if_pos (by omega), Nat.add_sub_cancel_left, getD_cellRead _ _ hi]

end

/-- Words of four bytes laid over cells: a byte is that of the word over it, if there is one. -/
theorem cellGet_foldl_words {β : Type} (val : ℕ × β → List Byte) (a : ℕ) : ∀ {ws : Sparse β} {lo : Option ℕ} {m : List Host.Cell},
    spRising lo ws = true → (∀ x ∈ ws, (val x).length = 4) → spRising none m = true →
    cellGet (ws.foldl (fun m x => cellWrite m (4 * x.1) (val x)) m) a =
      (spFind (a / 4) ws).elim (cellGet m a) fun v => (val (a / 4, v)).getD (a % 4) 0
  | [], _, _, _, _, _ => rfl
  | (j, v) :: ws, lo, m, hws, hlen, hm => by
    have hrest : spRising (some j) ws = true := by
      simp only [spRising, Bool.and_eq_true] at hws
      exact hws.2
    have hj := hlen (j, v) List.mem_cons_self
    rw [List.foldl_cons, cellGet_foldl_words val a hrest (fun x hx => hlen x (List.mem_cons_of_mem _ hx)) (spRising_cellWrite _ _ hm),
      cellGet_cellWrite _ _ _ hm, hj, spFind]
    by_cases h : j = a / 4
    · subst h
      rw [spFind_below hrest le_rfl, if_pos rfl, Option.elim_none, Option.elim_some, if_pos (by omega),
        show a - 4 * (a / 4) = a % 4 by omega]
    · rw [if_neg h, if_neg (by omega)]
      split
      · next hlt => rw [spFind_below hrest hlt.le]
      · rfl

theorem spRising_foldl_words {β : Type} (val : ℕ × β → List Byte) : ∀ (ws : Sparse β) {m : List Host.Cell},
    spRising none m = true → spRising none (ws.foldl (fun m x => cellWrite m (4 * x.1) (val x)) m) = true
  | [], _, hm => hm
  | _ :: ws, _, hm => spRising_foldl_words val ws (spRising_cellWrite _ _ hm)

/-- One value written at each key of a list. -/
theorem spGet_foldl_spPut {α : Type} (d v : α) (i : ℕ) : ∀ (is : List ℕ) (m : Sparse α),
    spGet d (is.foldl (fun m j => spPut j v m) m) i = if i ∈ is then v else spGet d m i
  | [], _ => by simp
  | j :: is, m => by
    rw [List.foldl_cons, spGet_foldl_spPut d v i is, spGet_spPut]
    by_cases h1 : i ∈ is <;> by_cases h2 : i = j <;> simp [h1, h2]

/-- An accumulator after a pass over one element of a row (R230). -/
def putElement (row : ℕ) (a : List FVal) (sc : Option (Word × Word)) (lost : ℕ → Bool) (r : AccReg) (w : List FVal × ℕ) : AccReg :=
  { r with cells := spSet 0 r.cells (128 * row + w.2) (passElement a w.1 sc (spGet 0 r.cells (128 * row + w.2)))
           poison := if lost w.2 then (128 * row + w.2) :: r.poison.filter (· != 128 * row + w.2) else r.poison }

/-- An accumulator after a pass over the elements of a row, from a column on. -/
def passRow (row : ℕ) (a : List FVal) (sc : Option (Word × Word)) (lost : ℕ → Bool) (ws : List (List FVal)) (k : ℕ) (r : AccReg) : AccReg :=
  (ws.zipIdx k).foldl (putElement row a sc lost) r

/-- What a pass over rows of an accumulator keeps, and the elements that it leaves. -/
theorem passRow_spec (row : ℕ) (a : List FVal) (sc : Option (Word × Word)) (lost : ℕ → Bool) : ∀ (ws : List (List FVal)) (k : ℕ) (r : AccReg),
    spRising none r.cells = true →
    spRising none (passRow row a sc lost ws k r).cells = true ∧ (passRow row a sc lost ws k r).owner = r.owner ∧
      (passRow row a sc lost ws k r).unit = r.unit ∧
      ∀ i, spGet 0 (passRow row a sc lost ws k r).cells i =
        if 128 * row + k ≤ i ∧ i < 128 * row + k + ws.length then passElement a (ws.getD (i - (128 * row + k)) []) sc (spGet 0 r.cells i)
        else spGet 0 r.cells i
  | [], k, r, hr => ⟨hr, rfl, rfl, fun i => by
      rw [if_neg (by simp)]
      rfl⟩
  | w :: ws, k, r, hr => by
    obtain ⟨h1, h2, h3, h4⟩ := passRow_spec row a sc lost ws (k + 1) (putElement row a sc lost r (w, k)) (spRising_spSet 0 _ _ hr)
    refine ⟨h1, h2, h3, fun i => (h4 i).trans ?_⟩
    have hstep : spGet 0 (putElement row a sc lost r (w, k)).cells i =
        if i = 128 * row + k then passElement a w sc (spGet 0 r.cells (128 * row + k)) else spGet 0 r.cells i := spGet_spSet 0 _ i _ hr
    rw [hstep, List.length_cons]
    by_cases hi : i = 128 * row + k
    · subst hi
      rw [if_neg (by omega), if_pos rfl, if_pos (by omega), Nat.sub_self]
      rfl
    · rw [if_neg hi]
      by_cases hin : 128 * row + (k + 1) ≤ i ∧ i < 128 * row + (k + 1) + ws.length
      · rw [if_pos hin, if_pos (by omega), show i - (128 * row + k) = (i - (128 * row + (k + 1))) + 1 by omega]
        rfl
      · rw [if_neg hin, if_neg (by omega)]

/-- A pass over rows, each with its number in the list. -/
def passRows (a : ℕ → List FVal) (sc : ℕ → Option (Word × Word)) (lost : ℕ → ℕ → Bool) (ws : List (List FVal)) (rows : List ℕ) (k : ℕ)
    (r : AccReg) : AccReg :=
  (rows.zipIdx k).foldl (fun r x => passRow x.1 (a x.1) (sc x.2) (lost x.1) ws 0 r) r

theorem passRows_spec (a : ℕ → List FVal) (sc : ℕ → Option (Word × Word)) (lost : ℕ → ℕ → Bool) {ws : List (List FVal)}
    (hws : ws.length ≤ 128) : ∀ (rows : List ℕ) (k : ℕ) (r : AccReg), rows.Nodup → spRising none r.cells = true →
    (passRows a sc lost ws rows k r).owner = r.owner ∧ (passRows a sc lost ws rows k r).unit = r.unit ∧
      ∀ q n, n < 128 → spGet 0 (passRows a sc lost ws rows k r).cells (128 * q + n) =
        if q ∈ rows ∧ n < ws.length then passElement (a q) (ws.getD n []) (sc (k + rows.idxOf q)) (spGet 0 r.cells (128 * q + n))
        else spGet 0 r.cells (128 * q + n)
  | [], k, r, _, _ => ⟨rfl, rfl, fun q n _ => by
      rw [if_neg (by simp)]
      rfl⟩
  | x :: rows, k, r, hnd, hr => by
    obtain ⟨hx, hnd⟩ := List.nodup_cons.mp hnd
    obtain ⟨g1, g2, g3, g4⟩ := passRow_spec x (a x) (sc k) (lost x) ws 0 r hr
    obtain ⟨h1, h2, h3⟩ := passRows_spec a sc lost hws rows (k + 1) (passRow x (a x) (sc k) (lost x) ws 0 r) hnd g1
    refine ⟨h1.trans g2, h2.trans g3, fun q n hn => (h3 q n hn).trans ?_⟩
    simp only [Nat.add_zero] at g4
    rw [g4]
    by_cases hq : q = x
    · subst hq
      rw [if_neg (by simp [hx]), Nat.add_sub_cancel_left, List.idxOf_cons_self, Nat.add_zero]
      by_cases hlt : n < ws.length
      · rw [if_pos (by omega), if_pos ⟨List.mem_cons_self, hlt⟩]
      · rw [if_neg (by omega), if_neg (by omega)]
    · rw [if_neg (show ¬(128 * x ≤ 128 * q + n ∧ 128 * q + n < 128 * x + ws.length) by omega), List.idxOf_cons_ne _ (Ne.symm hq),
        show k + 1 + rows.idxOf q = k + (rows.idxOf q).succ by omega]
      simp [hq]

end Sys2Proof.Matrix
end

section
/-! PROOF. The operations of the matrix queue: what each leaves in the tiles, the accumulators and the pad (R219, R223, R225 to R230). -/
namespace Sys2Proof.Matrix
open Sys2Proof.Machine Sys2Proof.Claims

/-- What the check of TCFG says of the sizes of a tile (R219). -/
theorem cfgOk_bounds {c : DWord} (h : cfgOk c = true) : cfgBpr c ≤ 128 ∧ (cfgBx c = true → blocksPerRow c ≤ 4) := by
  simp only [cfgOk, Bool.and_eq_true, decide_eq_true_iff] at h
  obtain ⟨⟨⟨⟨⟨-, hmax⟩, -⟩, -⟩, hbx4⟩, -⟩ := h
  refine ⟨hmax, fun hbx => ?_⟩
  unfold blocksPerRow
  split
  · omega
  · next h13 =>
    have h14 : cfgFmt c = 14 := by simpa [cfgBx, h13] using hbx
    have : cfgBpr c ≤ 64 := by simpa [h14] using hbx4
    omega

theorem cfgRows_le (c : DWord) : cfgRows c ≤ 128 := (c.extractLsb' 0 7).isLt

section
variable {w : Crew} {e : Engine} {t : ℕ} {c : DWord} {eb hb : ℕ}

theorem tile_spPut (r : TileReg) (u : ℕ) : Engine.tile { e with tiles := spPut t r e.tiles } u = if u = t then r else e.tile u :=
  spGet_spPut _ _ _ _ _

theorem acc_spPut (a : ℕ) (r : AccReg) (b : ℕ) : Engine.acc { e with accs := spPut a r e.accs } b = if b = a then r else e.acc b :=
  spGet_spPut _ _ _ _ _

theorem byte_eq (r : TileReg) (q i : ℕ) : r.byte q i = (cellGet r.bytes (128 * q + i)).toNat := rfl
theorem header_eq (r : TileReg) (q b : ℕ) :
    r.header q b = (cellGet r.hdr (8 * q + 2 * b)).toNat + 256 * (cellGet r.hdr (8 * q + 2 * b + 1)).toNat := rfl

/-- The elements and the headers that a TLD leaves in a tile. -/
def loadedBytes (r : TileReg) (c : DWord) (pad : List Host.Cell) (eb : ℕ) : List Host.Cell :=
  copyRows pad r.bytes (fun q => eb + q * cfgBpr c) (fun q => 128 * q) (cfgBpr c) (cfgRows c)
def loadedHdr (r : TileReg) (c : DWord) (pad : List Host.Cell) (hb : ℕ) : List Host.Cell :=
  if cfgBx c then copyRows pad r.hdr (fun q => hb + 2 * q * blocksPerRow c) (fun q => 8 * q) (2 * blocksPerRow c) (cfgRows c) else r.hdr

/-- The pad that a TST leaves: the elements, and in a block format the headers. -/
def storedElements (r : TileReg) (c : DWord) (pad : List Host.Cell) (eb : ℕ) : List Host.Cell :=
  copyRows r.bytes pad (fun q => 128 * q) (fun q => eb + q * cfgBpr c) (cfgBpr c) (cfgRows c)
def storedPad (r : TileReg) (c : DWord) (pad : List Host.Cell) (eb hb : ℕ) : List Host.Cell :=
  if cfgBx c then
    copyRows r.hdr (storedElements r c pad eb) (fun q => 8 * q) (fun q => hb + 2 * q * blocksPerRow c) (2 * blocksPerRow c) (cfgRows c)
  else storedElements r c pad eb

theorem loadRows_fields (r : TileReg) : (r.loadRows c w eb hb).bytes = loadedBytes r c w.pad eb ∧
    (r.loadRows c w eb hb).hdr = loadedHdr r c w.pad hb ∧ (r.loadRows c w eb hb).cfg = r.cfg := ⟨rfl, rfl, rfl⟩

theorem foldl_padWrite (start : ℕ → ℕ) (bytes : ℕ → List Byte) : ∀ (rows : List ℕ) (w : Crew),
    (rows.foldl (fun w r => w.padWrite (start r) (bytes r)) w).pad = rows.foldl (fun m r => cellWrite m (start r) (bytes r)) w.pad ∧
      (rows.foldl (fun w r => w.padWrite (start r) (bytes r)) w).engine = w.engine
  | [], _ => ⟨rfl, rfl⟩
  | r :: rows, w => foldl_padWrite start bytes rows (w.padWrite (start r) (bytes r))

theorem foldl_spoil (start : ℕ → ℕ) (n : ℕ) : ∀ (rows : List ℕ) (w : Crew),
    (rows.foldl (fun w r => w.spoil (start r) n) w).pad = w.pad ∧ (rows.foldl (fun w r => w.spoil (start r) n) w).engine = w.engine
  | [], _ => ⟨rfl, rfl⟩
  | r :: rows, w => foldl_spoil start n rows (w.spoil (start r) n)

/-- A TST changes the pad, not the engine (R226). -/
theorem storeRows_fields (r : TileReg) : (w.storeRows r c eb hb).pad = storedPad r c w.pad eb hb ∧
    (w.storeRows r c eb hb).engine = w.engine := by
  obtain ⟨p1, e1⟩ := foldl_padWrite (fun q => eb + q * cfgBpr c) (fun q => cellRead r.bytes (128 * q) (cfgBpr c)) (List.range (cfgRows c)) w
  unfold Crew.storeRows
  dsimp only
  rw [(foldl_spoil _ _ _ _).1, (foldl_spoil _ _ _ _).2]
  unfold storedPad
  split
  · obtain ⟨p2, e2⟩ := foldl_padWrite (fun q => hb + 2 * q * blocksPerRow c) (fun q => cellRead r.hdr (8 * q) (2 * blocksPerRow c))
      (List.range (cfgRows c)) ((List.range (cfgRows c)).foldl
        (fun w q => w.padWrite (eb + q * cfgBpr c) (cellRead r.bytes (128 * q) (cfgBpr c))) w)
    exact ⟨p2.trans (by rw [p1]; rfl), e2.trans e1⟩
  · exact ⟨p1, e1⟩

/-- Where the rows of a pad array and of a tile's arrays lie. -/
theorem rows_apart (base len : ℕ) (r k : ℕ) (h : r < k) : base + r * len + len ≤ base + k * len := by
  have : (r + 1) * len ≤ k * len := Nat.mul_le_mul_right len h
  rw [Nat.add_mul, Nat.one_mul] at this
  omega

/-- Rows of blocks, in bytes. -/
theorem headerRow (hb nb q b : ℕ) : hb + 2 * q * nb + 2 * b = hb + 2 * (q * nb + b) := by ring

/-- A byte of a tile after a TLD (R226). -/
theorem byte_loaded {r : TileReg} (hwf : cellsWf r.bytes = true) (hbpr : cfgBpr c ≤ 128) (pad : List Host.Cell) (q : ℕ) {i : ℕ}
    (hi : i < 128) : cellGet (loadedBytes r c pad eb) (128 * q + i) =
      if q < cfgRows c ∧ i < cfgBpr c then cellGet pad (eb + q * cfgBpr c + i) else cellGet r.bytes (128 * q + i) := by
  split
  · next h => exact cellGet_copyRows_row (cellsWf_rising hwf) (fun r k hrk => by omega) h.2 h.1
  · next h =>
    refine cellGet_copyRows_other (cellsWf_rising hwf) fun k hk => ?_
    by_cases hqk : q = k
    · subst hqk
      exact .inr (by omega)
    · omega

/-- A byte of a header after a TLD of a block format (R226). -/
theorem header_loaded {r : TileReg} (hwf : cellsWf r.hdr = true) (hnb : cfgBx c = true → blocksPerRow c ≤ 4) (pad : List Host.Cell)
    (q : ℕ) {b j : ℕ} (hb4 : b < 4) (hj : j < 2) : cellGet (loadedHdr r c pad hb) (8 * q + (2 * b + j)) =
      if cfgBx c = true ∧ q < cfgRows c ∧ b < blocksPerRow c then cellGet pad (hb + 2 * q * blocksPerRow c + (2 * b + j))
      else cellGet r.hdr (8 * q + (2 * b + j)) := by
  unfold loadedHdr
  cases hbx : cfgBx c
  · simp
  · have hle := hnb hbx
    simp only [if_true, true_and]
    split
    · next h => exact cellGet_copyRows_row (cellsWf_rising hwf) (fun r k hrk => by omega) (by omega) h.1
    · next h =>
      refine cellGet_copyRows_other (cellsWf_rising hwf) fun k hk => ?_
      by_cases hqk : q = k
      · subst hqk
        exact .inr (by omega)
      · omega

theorem spRising_storedElements {r : TileReg} {pad : List Host.Cell} (hp : spRising none pad = true) :
    spRising none (storedElements r c pad eb) = true := spRising_copyRows hp _

theorem spRising_storedPad {r : TileReg} {pad : List Host.Cell} (hp : spRising none pad = true) :
    spRising none (storedPad r c pad eb hb) = true := by
  unfold storedPad
  split
  · exact spRising_copyRows (spRising_storedElements hp) _
  · exact spRising_storedElements hp

/-- A byte outside both arrays of a tile in the pad is as it was; one outside the headers is that of the elements. -/
theorem storedElements_other {r : TileReg} {pad : List Host.Cell} (hp : spRising none pad = true) {a : ℕ}
    (h : a < eb ∨ eb + cfgRows c * cfgBpr c ≤ a) : cellGet (storedElements r c pad eb) a = cellGet pad a :=
  cellGet_copyRows_other hp fun k hk => by
    have := rows_apart eb (cfgBpr c) k _ hk
    have : eb ≤ eb + k * cfgBpr c := Nat.le_add_right _ _
    omega

theorem storedPad_other {r : TileReg} {pad : List Host.Cell} (hp : spRising none pad = true) {a : ℕ}
    (h : cfgBx c = true → a < hb ∨ hb + 2 * (cfgRows c * blocksPerRow c) ≤ a) :
    cellGet (storedPad r c pad eb hb) a = cellGet (storedElements r c pad eb) a := by
  unfold storedPad
  split
  · next hbx =>
    have h := h hbx
    exact cellGet_copyRows_other (spRising_storedElements hp) fun k hk => by
      have h1 := rows_apart hb (2 * blocksPerRow c) k _ hk
      rw [show k * (2 * blocksPerRow c) = 2 * k * blocksPerRow c by ring,
        show cfgRows c * (2 * blocksPerRow c) = 2 * (cfgRows c * blocksPerRow c) by ring] at h1
      omega
  · rfl

/-- The elements that a TST writes (R226). -/
theorem storedPad_element {r : TileReg} {pad : List Host.Cell} (hp : spRising none pad = true)
    (hapart : cfgBx c = true → eb + cfgRows c * cfgBpr c ≤ hb ∨ hb + 2 * (cfgRows c * blocksPerRow c) ≤ eb) {q i : ℕ}
    (hq : q < cfgRows c) (hi : i < cfgBpr c) :
    cellGet (storedPad r c pad eb hb) (eb + q * cfgBpr c + i) = cellGet r.bytes (128 * q + i) := by
  rw [storedPad_other hp fun hbx => by
    have := hapart hbx
    have := rows_apart eb (cfgBpr c) q _ hq
    have : eb ≤ eb + q * cfgBpr c := Nat.le_add_right _ _
    omega]
  exact cellGet_copyRows_row hp (rows_apart eb (cfgBpr c)) hi hq

/-- The headers that a TST writes (R226). -/
theorem storedPad_header {r : TileReg} {pad : List Host.Cell} (hp : spRising none pad = true) (hbx : cfgBx c = true) {q b j : ℕ}
    (hq : q < cfgRows c) (hb' : b < blocksPerRow c) (hj : j < 2) :
    cellGet (storedPad r c pad eb hb) (hb + 2 * q * blocksPerRow c + (2 * b + j)) = cellGet r.hdr (8 * q + (2 * b + j)) := by
  unfold storedPad
  rw [if_pos hbx]
  refine cellGet_copyRows_row (spRising_storedElements hp) (fun r k hrk => ?_) (by omega) hq
  have h1 := rows_apart hb (2 * blocksPerRow c) r k hrk
  rw [show r * (2 * blocksPerRow c) = 2 * r * blocksPerRow c by ring, show k * (2 * blocksPerRow c) = 2 * k * blocksPerRow c by ring] at h1
  exact h1

/-- One word of a TST (R223). -/
theorem moveWord_store (hwf : cellsWf w.pad = true) (i : ℕ) :
    ∃ f, (w.moveWord e (.store t eb hb) i).engine = some f ∧ (spFind i f.words).isSome = true ∧ { f with words := e.words } = e ∧
      ∀ a, cellGet (w.moveWord e (.store t eb hb) i).pad a =
        if a / 4 = i then cellGet (w.performMat e (.store t eb hb)).pad a else cellGet w.pad a := by
  refine ⟨{ e with words := spPut i ([], false) e.words }, rfl, by simp, rfl, fun a => ?_⟩
  have hpad : (w.moveWord e (.store t eb hb) i).pad = cellWrite w.pad (4 * i) (cellRead (w.performMat e (.store t eb hb)).pad (4 * i) 4) := rfl
  rw [hpad, cellGet_cellWrite _ _ _ (cellsWf_rising hwf), length_cellRead]
  by_cases h : a / 4 = i
  · rw [if_pos (by omega), if_pos h, getD_cellRead _ _ (by omega), show 4 * i + (a - 4 * i) = a by omega]
  · rw [if_neg (by omega), if_neg h]

/-- One word of a TLD (R223). -/
theorem moveWord_load (i : ℕ) : (w.moveWord e (.load t eb hb) i).pad = w.pad ∧ ∃ f x, (w.moveWord e (.load t eb hb) i).engine = some f ∧
    { f with words := e.words } = e ∧ spFind i f.words = some x ∧ x.1.length = 4 ∧ ∀ j < 4, x.1.getD j 0 = cellGet w.pad (4 * i + j) :=
  ⟨rfl, { e with words := spPut i (cellRead w.pad (4 * i) 4, w.poison.contains (i / 8)) e.words }, _, rfl, rfl, spFind_spPut_same _ _ _,
    length_cellRead _ _ _, fun _ hj => getD_cellRead _ _ hj⟩

section
variable (hcfg : (e.tile t).cfg = some c)
include hcfg

theorem performMat_load : w.performMat e (.load t eb hb) =
    { w with engine := some { e with tiles := spPut t ((e.tile t).loadRows c w eb hb) e.tiles } } := by
  simp only [Crew.performMat, hcfg]

theorem performMat_store : w.performMat e (.store t eb hb) = w.storeRows (e.tile t) c eb hb := by
  simp only [Crew.performMat, hcfg]

theorem performMat_store_pad : (w.performMat e (.store t eb hb)).pad = storedPad (e.tile t) c w.pad eb hb := by
  rw [performMat_store hcfg, (storeRows_fields _).1]

/-- A TLD that is performed at once (R226). -/
theorem load_performed (hok : cfgOk c = true) (hbytes : cellsWf (e.tile t).bytes = true) (hhdr : cellsWf (e.tile t).hdr = true) :
    (w.performMat e (.load t eb hb)).pad = w.pad ∧ ∃ f, (w.performMat e (.load t eb hb)).engine = some f ∧
      (f.tile t).cfg = some c ∧ (∀ u, u ≠ t → f.tile u = e.tile u) ∧
      (∀ r i, i < 128 → (f.tile t).byte r i = if r < cfgRows c ∧ i < cfgBpr c
        then (cellGet w.pad (eb + r * cfgBpr c + i)).toNat else (e.tile t).byte r i) ∧
      (∀ r b, b < 4 → (f.tile t).header r b = if cfgBx c = true ∧ r < cfgRows c ∧ b < blocksPerRow c
        then (cellGet w.pad (hb + 2 * (r * blocksPerRow c + b))).toNat +
          256 * (cellGet w.pad (hb + 2 * (r * blocksPerRow c + b) + 1)).toNat
        else (e.tile t).header r b) := by
  obtain ⟨hbpr, hnb⟩ := cfgOk_bounds hok
  obtain ⟨lbytes, lhdr, lcfg⟩ := loadRows_fields (w := w) (c := c) (eb := eb) (hb := hb) (e.tile t)
  rw [performMat_load hcfg]
  refine ⟨rfl, _, rfl, ?_, fun u hu => (tile_spPut _ u).trans (if_neg hu), fun r i hi => ?_, fun r b hb4 => ?_⟩
  · rw [tile_spPut, if_pos rfl, lcfg, hcfg]
  · rw [tile_spPut, if_pos rfl, byte_eq, lbytes, byte_loaded hbytes hbpr w.pad r hi]
    split <;> rfl
  · have h0 := header_loaded (hb := hb) hhdr hnb w.pad r hb4 (show 0 < 2 by decide)
    have h1 := header_loaded (hb := hb) hhdr hnb w.pad r hb4 (show 1 < 2 by decide)
    rw [tile_spPut, if_pos rfl, header_eq, lhdr, ← headerRow, Nat.add_assoc (8 * r), Nat.add_assoc (hb + _)]
    rw [Nat.add_zero] at h0
    rw [h0, h1]
    split <;> rfl

/-- A TST that is performed at once (R226). -/
theorem store_performed (he : w.engine = some e) (hwf : cellsWf w.pad = true)
    (hapart : cfgBx c = true → eb + cfgRows c * cfgBpr c ≤ hb ∨ hb + 2 * (cfgRows c * blocksPerRow c) ≤ eb) :
    (w.performMat e (.store t eb hb)).engine = some e ∧
      (∀ r i, r < cfgRows c → i < cfgBpr c →
        (cellGet (w.performMat e (.store t eb hb)).pad (eb + r * cfgBpr c + i)).toNat = (e.tile t).byte r i) ∧
      (cfgBx c = true → ∀ r b, r < cfgRows c → b < blocksPerRow c →
        (cellGet (w.performMat e (.store t eb hb)).pad (hb + 2 * (r * blocksPerRow c + b))).toNat +
          256 * (cellGet (w.performMat e (.store t eb hb)).pad (hb + 2 * (r * blocksPerRow c + b) + 1)).toNat = (e.tile t).header r b) ∧
      ∀ a, (a < eb ∨ eb + cfgRows c * cfgBpr c ≤ a) →
        (cfgBx c = true → a < hb ∨ hb + 2 * (cfgRows c * blocksPerRow c) ≤ a) →
        cellGet (w.performMat e (.store t eb hb)).pad a = cellGet w.pad a := by
  have hp := cellsWf_rising hwf
  rw [performMat_store_pad hcfg]
  refine ⟨?_, fun r i hr hi => ?_, fun hbx r b hr hb' => ?_, fun a ha hh => ?_⟩
  · rw [performMat_store hcfg, (storeRows_fields _).2, he]
  · rw [storedPad_element hp hapart hr hi, byte_eq]
  · have h0 := storedPad_header (r := e.tile t) (eb := eb) (hb := hb) hp hbx hr hb' (show 0 < 2 by decide)
    have h1 := storedPad_header (r := e.tile t) (eb := eb) (hb := hb) hp hbx hr hb' (show 1 < 2 by decide)
    rw [Nat.add_zero] at h0
    rw [← headerRow, Nat.add_assoc (hb + _), h0, h1, header_eq, Nat.add_assoc (8 * r)]
  · rw [storedPad_other hp hh, storedElements_other hp ha]

/-- The rest of a TST (R223). -/
theorem finishMat_store (hwf : cellsWf w.pad = true) (hwords : spRising none e.words = true) :
    (w.finishMat e (.store t eb hb)).engine = some { e with words := [] } ∧
      ∀ a, cellGet (w.finishMat e (.store t eb hb)).pad a =
        if (spFind (a / 4) e.words).isSome = true then cellGet w.pad a else cellGet (w.performMat e (.store t eb hb)).pad a := by
  refine ⟨rfl, fun a => ?_⟩
  have hpad : (w.finishMat e (.store t eb hb)).pad =
      e.words.foldl (fun m x => cellWrite m (4 * x.1) (cellRead w.pad (4 * x.1) 4)) (w.performMat e (.store t eb hb)).pad := rfl
  rw [hpad, cellGet_foldl_words (fun x => cellRead w.pad (4 * x.1) 4) a hwords (fun _ _ => length_cellRead _ _ _)
    (by rw [performMat_store_pad hcfg]; exact spRising_storedPad (cellsWf_rising hwf))]
  cases spFind (a / 4) e.words with
  | none => rfl
  | some v =>
    rw [Option.elim_some, getD_cellRead _ _ (by omega), show 4 * (a / 4) + a % 4 = a by omega]
    rfl

/-- The rest of a TLD (R223). -/
theorem finishMat_load (hwf : cellsWf w.pad = true) (hwords : spRising none e.words = true) (hlen : ∀ x ∈ e.words, x.2.1.length = 4) :
    (w.finishMat e (.load t eb hb)).pad = w.pad ∧
      ∀ p, cellsWf p = true →
        (∀ a, cellGet p a = (match spFind (a / 4) e.words with
          | some x => x.1.getD (a % 4) 0
          | none => cellGet w.pad a)) →
        ∃ f g, (w.finishMat e (.load t eb hb)).engine = some f ∧ f.words = [] ∧
          ({ w with pad := p }.performMat e (.load t eb hb)).engine = some g ∧
          ∀ x r j, (f.tile x).byte r j = (g.tile x).byte r j ∧ (f.tile x).header r j = (g.tile x).header r j := by
  refine ⟨rfl, fun p _ hp => ?_⟩
  have hcfg0 : (Engine.tile { e with words := [] } t).cfg = some c := hcfg
  have hfinish : (w.finishMat e (.load t eb hb)).engine =
      ((w.asRead e (.load t eb hb)).performMat { e with words := [] } (.load t eb hb)).engine := rfl
  rw [hfinish, performMat_load hcfg0, performMat_load hcfg]
  refine ⟨_, _, rfl, rfl, rfl, fun x r j => ?_⟩
  have hread : ∀ a, cellGet (w.asRead e (.load t eb hb)).pad a = cellGet p a := fun a => by
    have hpad : (w.asRead e (.load t eb hb)).pad = e.words.foldl (fun m x => cellWrite m (4 * x.1) x.2.1) w.pad := rfl
    rw [hp, hpad, cellGet_foldl_words (fun x => x.2.1) a hwords hlen (cellsWf_rising hwf)]
    cases spFind (a / 4) e.words <;> rfl
  obtain ⟨fbytes, fhdr, -⟩ := loadRows_fields (w := w.asRead e (.load t eb hb)) (c := c) (eb := eb) (hb := hb) (e.tile t)
  obtain ⟨gbytes, ghdr, -⟩ := loadRows_fields (w := { w with pad := p }) (c := c) (eb := eb) (hb := hb) (e.tile t)
  have hbytes : loadedBytes (e.tile t) c (w.asRead e (.load t eb hb)).pad eb = loadedBytes (e.tile t) c p eb := copyRows_congr hread _
  have hhdr : loadedHdr (e.tile t) c (w.asRead e (.load t eb hb)).pad hb = loadedHdr (e.tile t) c p hb := by
    unfold loadedHdr
    rw [copyRows_congr hread]
  rw [tile_spPut, tile_spPut]
  split
  · rw [byte_eq, byte_eq, header_eq, header_eq]
    exact ⟨by rw [show Engine.tile { e with words := [] } t = e.tile t from rfl, fbytes, gbytes, hbytes],
      by rw [show Engine.tile { e with words := [] } t = e.tile t from rfl, fhdr, ghdr, hhdr]⟩
  · exact ⟨rfl, rfl⟩

end

end

/-- TZERO, TCFG and WLD that are performed (R225, R227, R228). -/
theorem config_performed (w : Crew) (e : Engine) (t : ℕ) (c : DWord) : (w.performMat e (.config t c)).pad = w.pad ∧
    ∃ f, (w.performMat e (.config t c)).engine = some f ∧ f.tile t = { e.tile t with cfg := some c } ∧ ∀ u, u ≠ t → f.tile u = e.tile u :=
  ⟨rfl, _, rfl, (tile_spPut _ t).trans (if_pos rfl), fun u hu => (tile_spPut _ u).trans (if_neg hu)⟩

theorem zero_performed (w : Crew) (e : Engine) (t : ℕ) : (w.performMat e (.zero t)).pad = w.pad ∧
    ∃ f, (w.performMat e (.zero t)).engine = some f ∧ (f.tile t).cfg = (e.tile t).cfg ∧
      (∀ r i, (f.tile t).byte r i = 0) ∧ (∀ r b, (f.tile t).header r b = 0) ∧ ∀ u, u ≠ t → f.tile u = e.tile u := by
  have htile := (tile_spPut (e := e) (t := t) { e.tile t with bytes := [], hdr := [], poison := [] } t).trans (if_pos rfl)
  refine ⟨rfl, _, rfl, ?_, fun r i => ?_, fun r b => ?_, fun u hu => (tile_spPut _ u).trans (if_neg hu)⟩ <;> rw [htile] <;> rfl

/-- An MMA or MMAS that is performed (R110, R230). -/
theorem multiply_performed {w : Crew} {e : Engine} {a t : ℕ} (k : ActType) {rows : List ℕ} (scales : Option (List Word)) {l : Latch}
    {d : DWord} (hl : e.latch = some l) (hd : l.low.cfg = some d) (hnd : rows.Nodup) (hcells : spRising none (e.acc a).cells = true) :
    ∃ f, (w.performMat e (.multiply a t k rows scales)).engine = some f ∧ (w.performMat e (.multiply a t k rows scales)).pad = w.pad ∧
      { f with accs := e.accs } = e ∧ (∀ b, b ≠ a → f.acc b = e.acc b) ∧ (f.acc a).owner = (e.acc a).owner ∧
      (f.acc a).unit = (e.acc a).unit ∧
      ∀ r n, n < 128 → spGet 0 (f.acc a).cells (128 * r + n) = if r ∈ rows ∧ n < cfgRows d
        then passElement (matrixRow (e.tile t) (e.tile (t + 1)) r) (matrixRow l.low l.high n)
          (scales.map fun ss => (ss.getD (rows.idxOf r) 0, l.scale)) (spGet 0 (e.acc a).cells (128 * r + n))
        else spGet 0 (e.acc a).cells (128 * r + n) := by
  have hpass : (e.acc a).pass (e.tile t) (e.tile (t + 1)) l rows scales =
      passRows (matrixRow (e.tile t) (e.tile (t + 1))) (fun i => scales.map fun ss => (ss.getD i 0, l.scale))
        (fun r n => rowLost (e.tile t) (e.tile (t + 1)) r || rowLost l.low l.high n)
        ((List.range (cfgRows d)).map (matrixRow l.low l.high)) rows 0 (e.acc a) := by
    unfold AccReg.pass
    rw [hd]
    rfl
  have hperform : w.performMat e (.multiply a t k rows scales) =
      { w with engine := some { e with accs := spPut a ((e.acc a).pass (e.tile t) (e.tile (t + 1)) l rows scales) e.accs } } := by
    simp only [Crew.performMat, hl]
  obtain ⟨howner, hunit, hcell⟩ := passRows_spec (matrixRow (e.tile t) (e.tile (t + 1)))
    (fun i => scales.map fun ss => (ss.getD i 0, l.scale)) (fun r n => rowLost (e.tile t) (e.tile (t + 1)) r || rowLost l.low l.high n)
    (ws := (List.range (cfgRows d)).map (matrixRow l.low l.high)) (by simpa using cfgRows_le d) rows 0 (e.acc a) hnd hcells
  rw [← hpass] at howner hunit hcell
  rw [hperform]
  refine ⟨_, rfl, rfl, rfl, fun b hb => (acc_spPut a _ b).trans (if_neg hb), ?_, ?_, fun r n hn => ?_⟩
  · rw [acc_spPut, if_pos rfl, howner]
  · rw [acc_spPut, if_pos rfl, hunit]
  · rw [acc_spPut, if_pos rfl, hcell r n hn, List.length_map, List.length_range, Nat.zero_add]
    split
    · next h =>
      rw [List.getD_eq_getElem?_getD, List.getElem?_map, List.getElem?_range h.2]
      rfl
    · rfl

end Sys2Proof.Matrix
end
section
/-! PROOF. The events of the matrix unit (R221, R231). -/
namespace Sys2Proof.Matrix
open Sys2Proof.Machine Sys2Proof.Claims

/-- A list turned about has the same members. -/
theorem perm_rotateLeft {α : Type} (l : List α) (v : ℕ) : (l.rotateLeft v).Perm l := by
  unfold List.rotateLeft
  dsimp only
  split
  · exact List.Perm.refl l
  · exact List.perm_append_comm.trans (by rw [List.take_append_drop])

/-- The accumulators that a grant chooses (R231). -/
theorem chooseAccs_spec (e : Engine) {m : ℕ} (v : ℕ) (h : m ≤ ((List.range 8).filter fun i => (e.acc i).owner.isNone).length) :
    (e.chooseAccs m v).length = m ∧ (e.chooseAccs m v).Sublist (List.range 8) ∧ ∀ i ∈ e.chooseAccs m v, (e.acc i).owner = none := by
  have hfree : ∀ i ∈ ((List.range 8).filter fun i => (e.acc i).owner.isNone), i ∈ List.range 8 ∧ (e.acc i).owner = none := fun i hi => by
    simpa using hi
  have hnodup : ((List.range 8).filter fun i => (e.acc i).owner.isNone).Nodup := List.nodup_range.filter _
  unfold Engine.chooseAccs
  dsimp only
  generalize ((List.range 8).filter fun i => (e.acc i).owner.isNone) = free at *
  have hperm := perm_rotateLeft free v
  have hchosen : ∀ i ∈ (free.rotateLeft v).take m, i ∈ free := fun i hi => hperm.mem_iff.mp (List.mem_of_mem_take hi)
  have hcn : ((free.rotateLeft v).take m).Nodup := (hperm.nodup_iff.mpr hnodup).sublist (List.take_sublist _ _)
  have hcl : ((free.rotateLeft v).take m).length = m := List.length_take_of_le (by rw [hperm.length_eq]; exact h)
  generalize (free.rotateLeft v).take m = chosen at *
  refine ⟨?_, List.filter_sublist, fun i hi => ?_⟩
  · have hsame : ((List.range 8).filter fun i => chosen.contains i).Perm chosen :=
      (List.perm_ext_iff_of_nodup (List.nodup_range.filter _) hcn).mpr fun i => by
        rw [List.mem_filter, List.contains_iff_mem]
        exact ⟨fun h => h.2, fun h => ⟨(hfree i (hchosen i h)).1, h⟩⟩
    rw [hsame.length_eq, hcl]
  · rw [List.mem_filter, List.contains_iff_mem] at hi
    exact (hfree i (hchosen i hi.2)).2

/-- An engine after the request at its head takes some accumulators (R231). -/
def grantTo (kn : ℕ) (rest : List (ℕ × ℕ)) (is : List ℕ) (e : Engine) : Engine :=
  { e with accQueue := rest
           accs := is.foldl (fun m i => spPut i { owner := some kn, unit := false, cells := [], poison := [] } m) e.accs }

section
variable {s : State} {n : ℕ} {w : Crew} {e : Engine} (hw : spFind n s.crews = some w) (he : w.engine = some e)
include hw he

/-- The unit performs the operation at the head of its queue (R221). -/
theorem matrixOperation_performs {op : MatOp} {rest : List MatOp} (hq : e.queue = op :: rest) (hruns : s.unitRuns w e = true)
    (hwords : e.words = []) :
    ∃ t, exec (.matrixOperation n) s = .next t ∧ t.mem = s.mem ∧ t.paths = s.paths ∧ t.knots = s.knots ∧
      (let e1 := { e with queue := rest, begun := spPut op.knot op.batch e.begun }
       spFind n t.crews = some ({ w with engine := some e1 }.performMat e1 op.kind) ∧
       (∀ x, op.kind = .zero x → spFind n t.crews = some { w with
         engine := some { e1 with tiles := spPut x { e.tile x with bytes := [], hdr := [], poison := [] } e.tiles } })) ∧
      ∀ j, j ≠ n → spFind j t.crews = spFind j s.crews := by
  have hhead : s.matHead n = some (w, e, op, rest) := by
    simp only [State.matHead, hw, he, hq, hruns, if_true]
  have hexec : exec (.matrixOperation n) s = .next (s.modCrew n fun w =>
      ({ w with engine := some { e with queue := rest, begun := spPut op.knot op.batch e.begun } } : Crew).performMat
        { e with queue := rest, begun := spPut op.knot op.batch e.begun } op.kind).bump := by
    rw [exec_matrixOperation, execMatrixOperation, hhead]
    simp only [event, hwords, List.isEmpty_nil, if_true]
  refine ⟨_, hexec, rfl, rfl, rfl, ⟨?_, fun x hx => ?_⟩, fun j hj => ?_⟩
  · rw [State.bump_crews, State.modCrew_crews, spFind_spModify_same, hw]
    rfl
  · rw [State.bump_crews, State.modCrew_crews, spFind_spModify_same, hw, hx]
    rfl
  · rw [State.bump_crews, State.modCrew_crews, spFind_spModify_ne hj]

/-- The accumulator request at the head is granted (R231). -/
theorem accgetGrant_grants {kn m : ℕ} {rest : List (ℕ × ℕ)} {k : Knot} (hq : e.accQueue = (kn, m) :: rest)
    (hk : spFind kn s.knots = some k) (hfree : m ≤ ((List.range 8).filter fun i => (e.acc i).owner.isNone).length) :
    ∃ t is e1, exec (.accgetGrant n) s = .next t ∧ is.length = m ∧ is.Sublist (List.range 8) ∧
      (∀ i ∈ is, (e.acc i).owner = none) ∧ spFind kn t.knots = some { k with accs := is } ∧
      spFind n t.crews = some { w with engine := some e1 } ∧ e1.accQueue = rest ∧
      (∀ i, e1.acc i = if i ∈ is then { owner := some kn, unit := false, cells := [], poison := [] } else e.acc i) ∧
      t.mem = s.mem ∧ t.paths = s.paths := by
  obtain ⟨hlen, hsub, hnone⟩ := chooseAccs_spec e (s.pick 8).1 hfree
  have hexec : exec (.accgetGrant n) s = .next (((s.pick 8).2.modEngine n (grantTo kn rest (e.chooseAccs m (s.pick 8).1))).modKnot kn
      fun k => { k with accs := e.chooseAccs m (s.pick 8).1 }).bump := by
    rw [exec_accgetGrant, execAccgetGrant, hw, Option.bind_some, he]
    simp only [hq, if_neg (not_lt.mpr hfree)]
    rfl
  have hpick := State.pick_snd s 8
  refine ⟨_, e.chooseAccs m (s.pick 8).1, grantTo kn rest (e.chooseAccs m (s.pick 8).1) e, hexec, hlen, hsub, hnone, ?_, ?_, rfl, fun i => spGet_foldl_spPut _ _ i _ _, ?_, ?_⟩
  · rw [State.bump_knots, State.modKnot_knots, spFind_spModify_same, State.modEngine_knots, hpick, hk]
    rfl
  · rw [State.bump_crews, State.modKnot_crews, State.modEngine, State.modCrew_crews, spFind_spModify_same, hpick, hw, Option.map_some, he]
    rfl
  · rw [State.bump_mem, State.modKnot_mem, State.modEngine_mem, hpick]
  · rw [State.bump_paths, State.modKnot_paths, State.modEngine_paths, hpick]

end

/-- Settles O43: each operation copies rows between cells or sets one tile, latch or accumulator; the words that have moved lie over the pad. -/
theorem matrixUnitEvents : Obligations.MatrixUnitEvents := by
  unfold Obligations.MatrixUnitEvents
  refine ⟨fun s n w e hw he => ⟨fun op rest hq hruns hwords => matrixOperation_performs hw he hq hruns hwords,
    fun kn m rest k hq hk hfree => accgetGrant_grants hw he hq hk hfree⟩, fun w e t he => ?_, fun w e t c eb hb he hcfg hwf hwords => ?_,
    fun w e a t k rows scales l d _ hl hd hnd hcells => multiply_performed k scales hl hd hnd hcells⟩
  · exact ⟨config_performed w e t, zero_performed w e t, fun z => ⟨rfl, rfl⟩, fun eb hb c hcfg hok =>
      ⟨fun hbytes hhdr => load_performed hcfg hok hbytes hhdr, fun hwf hapart => store_performed hcfg he hwf hapart⟩⟩
  · exact ⟨moveWord_store hwf, moveWord_load, finishMat_store hcfg hwf hwords, fun hlen => finishMat_load hcfg hwf hwords hlen⟩

end Sys2Proof.Matrix
end
